-- ==== Sys2Proof/Word.lean ====
section
/-! DEFINITION. The word types of the Zoquel model and the plain table type its sparse state is kept in. -/

namespace Sys2Proof

/-- A register, 32 bits wide (R53). -/
abbrev Word := BitVec 32
/-- One byte; byte 0 of a structure is at the lowest address (R13). -/
abbrev Byte := BitVec 8
/-- One protected word of storage, 64 data bits (R542). -/
abbrev DWord := BitVec 64
/-- A sparse table: entries by rising key; a key that is not listed holds the table's default. -/
abbrev Tab (α : Type) := List (Nat × α)

end Sys2Proof
end

