-- ==== Sys2Proof/Machine/Bits.lean ====
section
/-! DEFINITION. Bit fields, byte strings, sparse tables, serial numbers and the rotating pick: the small helpers every block uses. -/

namespace Sys2Proof

/-- Entry `k` of a table, `none` where it is not listed. -/
def Tab.find? {α : Type} : Tab α → Nat → Option α
  | [], _ => none
  | (j, a) :: t, k => if j = k then some a else if k < j then none else Tab.find? t k

/-- Entry `k` of a table, `d` where it is not listed. -/
def Tab.getD {α : Type} (t : Tab α) (k : Nat) (d : α) : α := (Tab.find? t k).getD d

/-- Is entry `k` listed? -/
def Tab.has {α : Type} (t : Tab α) (k : Nat) : Bool := (Tab.find? t k).isSome

/-- Put `v` at `k`, keeping keys rising. -/
def Tab.set {α : Type} : Tab α → Nat → α → Tab α
  | [], k, v => [(k, v)]
  | (j, a) :: t, k, v =>
    if j = k then (k, v) :: t else if k < j then (k, v) :: (j, a) :: t else (j, a) :: Tab.set t k v

/-- Drop entry `k`. -/
def Tab.del {α : Type} : Tab α → Nat → Tab α
  | [], _ => []
  | (j, a) :: t, k => if j = k then t else (j, a) :: Tab.del t k

/-- Change entry `k`, which holds `d` where it is not listed. -/
def Tab.upd {α : Type} (t : Tab α) (k : Nat) (d : α) (f : α → α) : Tab α := Tab.set t k (f (Tab.getD t k d))

/-- Change entry `k` if it is listed. -/
def Tab.upd? {α : Type} (t : Tab α) (k : Nat) (f : α → α) : Tab α :=
  match Tab.find? t k with
  | some a => Tab.set t k (f a)
  | none => t

/-- Keys of a table, rising. -/
def Tab.keys {α : Type} (t : Tab α) : List Nat := t.map Prod.fst
/-- Values of a table by rising key. -/
def Tab.vals {α : Type} (t : Tab α) : List α := t.map Prod.snd

/-- Strictly rising numbers. -/
def rising : List Nat → Bool
  | [] => true
  | [_] => true
  | a :: b :: t => decide (a < b) && rising (b :: t)

/-- A table is in form when its keys rise strictly. -/
def Tab.wf {α : Type} (t : Tab α) : Bool := rising (Tab.keys t)

/-- Insert a number into a rising list of numbers. -/
def insNat : List Nat → Nat → List Nat
  | [], k => [k]
  | j :: t, k => if j = k then j :: t else if k < j then k :: j :: t else j :: insNat t k

/-- Drop a number from a list of numbers. -/
def delNat (l : List Nat) (k : Nat) : List Nat := l.filter (fun j => j != k)

/-- The first number from 0 up to `n - 1` for which `p` holds. -/
def firstBelow (n : Nat) (p : Nat → Bool) : Option Nat := (List.range n).find? p

/-- Replace element `i` of a list (no change past its end). -/
def setAt {α : Type} (l : List α) (i : Nat) (v : α) : List α := l.set i v

/-- Bits [hi:lo] of a number (R12). -/
def bits (v hi lo : Nat) : Nat := (v >>> lo) % 2 ^ (hi + 1 - lo)
/-- Bit `i` of a number. -/
def bit (v i : Nat) : Bool := v.testBit i
/-- Field [hi:lo] of a register. -/
def fld (w : Word) (hi lo : Nat) : Nat := bits w.toNat hi lo
/-- One bit of a register. -/
def fbit (w : Word) (i : Nat) : Bool := w.toNat.testBit i
/-- A mask of bits [hi:lo]. -/
def maskOf (hi lo : Nat) : Nat := (2 ^ (hi + 1 - lo) - 1) <<< lo
/-- A register with field [hi:lo] replaced (the value cut to the field's width). -/
def putFld (w : Word) (hi lo v : Nat) : Word :=
  (w &&& ~~~ (BitVec.ofNat 32 (maskOf hi lo))) ||| BitVec.ofNat 32 ((v % 2 ^ (hi + 1 - lo)) <<< lo)
/-- A word with the bits of `m` taken from `v` and the others kept. -/
def mix (old v m : Word) : Word := (old &&& ~~~ m) ||| (v &&& m)
/-- A number as a register. -/
def w32 (n : Nat) : Word := BitVec.ofNat 32 n
/-- 1 or 0. -/
def b2n (b : Bool) : Nat := if b then 1 else 0
/-- A number held to a field's all-ones value (counters saturate, R21). -/
def sat (w n : Nat) : Nat := min n (2 ^ w - 1)
/-- Division rounded up. -/
def ceilDiv (a b : Nat) : Nat := (a + b - 1) / b

/-- The value of a little-endian string of bytes (R13). -/
def leNat : List Byte → Nat
  | [] => 0
  | b :: t => b.toNat + 256 * leNat t

/-- The `n` bytes of a number, lowest first (R13). -/
def natLe : Nat → Nat → List Byte
  | 0, _ => []
  | n + 1, v => BitVec.ofNat 8 v :: natLe n (v / 256)

/-- `n` bytes of a string from offset `o`; bytes past its end read zero. -/
def slice (l : List Byte) (o n : Nat) : List Byte :=
  let t := (l.drop o).take n
  t ++ List.replicate (n - t.length) 0

/-- The little-endian value of `n` bytes at offset `o`. -/
def leAt (l : List Byte) (o n : Nat) : Nat := leNat (slice l o n)

/-- Replace the bytes of a string from offset `o`. -/
def patch (l : List Byte) (o : Nat) (v : List Byte) : List Byte := l.take o ++ v ++ l.drop (o + v.length)

/-- `a` is later than `b` in serial-number arithmetic of width `w` (R186). -/
def serialAfter (w a b : Nat) : Bool :=
  let d := (a + 2 ^ w - b % 2 ^ w) % 2 ^ w
  decide (0 < d) && decide (d < 2 ^ (w - 1))

/-- The later of two serial numbers. -/
def serialMax (w a b : Nat) : Nat := if serialAfter w a b then a else b

/-- The first of the next `k` requesters at or after `j`, going around at `n`. -/
def rotateFrom (requesting : Nat → Bool) (j n : Nat) : Nat → Option Nat
  | 0 => none
  | k + 1 => if requesting (j % n) = true then some (j % n) else rotateFrom requesting (j + 1) n k

/-- R469: the first requester at or after the pointer, and the new pointer. -/
def rotatePick (requesting : Nat → Bool) (pointer n : Nat) : Option Nat × Nat :=
  match rotateFrom requesting pointer n n with
  | some j => (some j, (j + 1) % n)
  | none => (none, pointer)

/-- R469 over a list of the requesters: the requester at the least distance from the pointer. -/
def rotatePickL (requesting : List Nat) (pointer n : Nat) : Option Nat × Nat :=
  let dist := fun j => (j + n - pointer % n) % n
  let best := requesting.foldl (fun (acc : Option Nat) j =>
    match acc with
    | none => some j
    | some k => if dist j < dist k then some j else some k) none
  match best with
  | some j => (some j, (j + 1) % n)
  | none => (none, pointer)

/-- Exclusive or of all the bits of a number below width `w`. -/
def parityNat : Nat → Nat → Bool
  | 0, _ => false
  | w + 1, v => (v % 2 == 1) ^^ parityNat w (v / 2)

/-- Number of set bits below width `w`. -/
def popNat : Nat → Nat → Nat
  | 0, _ => 0
  | w + 1, v => v % 2 + popNat w (v / 2)

/-- Least set bit of a number below width `w`. -/
def lowBit (w v : Nat) : Option Nat := (List.range w).find? (fun i => v.testBit i)

/-- CRC-32C of a byte string: reflected polynomial 0x82F63B78, all-ones start and end. -/
def crcBit (c : Nat) : Nat := if c % 2 = 1 then (c / 2) ^^^ 0x82F63B78 else c / 2
/-- One byte into a running CRC-32C. -/
def crcByte (c : Nat) (b : Byte) : Nat :=
  crcBit (crcBit (crcBit (crcBit (crcBit (crcBit (crcBit (crcBit (c ^^^ b.toNat))))))))
/-- CRC-32C of a byte string. -/
def crc32c (l : List Byte) : Nat := (l.foldl crcByte 0xFFFFFFFF) ^^^ 0xFFFFFFFF

end Sys2Proof
end

