-- ==== Sys2Proof/Payload.lean ====
section
/-! DEFINITION. What commands carry from outside the block: fabric messages and flits, the condition of a memory access, frames. -/

namespace Sys2Proof

/-- A transport message: the header of R427 and its data. -/
structure Msg where
  msg : Nat := 0
  code : Nat := 0
  tag : Nat := 0
  src : Nat := 0
  dst : Nat := 0
  unassigned : Bool := false
  mapGen : Nat := 0
  /-- LEN: bytes wanted (RD_REQ) or bytes of data. -/
  len : Nat := 0
  fence : Nat := 0
  addr : Nat := 0
  aux : Nat := 0
  data : List Byte := []
  /-- Virtual channel it travels on (R421). -/
  vc : Nat := 4
deriving DecidableEq, Repr

/-- A flit as it arrives at a port, before any check (R415). -/
structure Flit where
  bytes : List Byte
  /-- A flit marker stood away from a flit boundary just before it (R414). -/
  markerMisplaced : Bool := false
  /-- FEC codewords that the PCS corrected, and that it could not correct, since the flit before. -/
  fecFixed : Nat := 0
  fecLost : Nat := 0
deriving DecidableEq, Repr

/-- An error of the protected on-die stores that hold no addressed memory (R545). -/
inductive StoreErr where
  /-- A word of a store of the block with this page number was corrected. -/
  | corrected (page : Nat)
  /-- Uncorrectable: the entry store of a Keeper, at a segment; the pool slot of a query, by search and query, in a Lacing unit (R180). -/
  | keeper (k seg : Nat)
  | lacing (l sid q : Nat)
  /-- Slot state of a Skiver unit; accumulators, vector registers or instruction store of an engine (R222, R253, R256). -/
  | skiver (engine : Nat)
  | accumulators (engine : Nat)
  | vectors (engine : Nat)
  | istore (engine : Nat)
  /-- Table or filter store of a stitch of an Awl unit; store of an Edger that holds a stream. -/
  | awl (stack stitch : Nat)
  | edger (channel stream : Nat)
  /-- The tag of a set of a row cache (R404). -/
  | saddleTag (i set : Nat)
  /-- State of a function queue (R488). -/
  | rein (i fn : Nat)
  /-- Map cache of the Currier; write buffer data of a write for an object's migration (R388). -/
  | mapCache
  | writeBuffer (obj : Nat)
  /-- Replay or receive buffer of a port (R420). -/
  | link (port : Nat)
  /-- The next protected write of the block has taken its armed flip mask (R556). -/
  | flipTaken (page : Nat)
deriving DecidableEq, Repr

/-- What the physical storage or path does to one access (R43, R543, R549): named by the environment. -/
inductive MemCond where
  /-- Nothing happens. -/
  | clean
  /-- Bits of the stored codeword of the word at `word` (its address over 8) have flipped: a 72-bit mask. -/
  | cellError (word : Nat) (mask : BitVec 72)
  /-- The valid bit of the line at `line` (address over 64) has an uncorrectable error. -/
  | validUe (line : Nat)
  /-- The valid bits of the line had a correctable error. -/
  | validCe (line : Nat)
  /-- The bridge transfer that carries the access fails after retry; it cannot be returned to service when `dead`. -/
  | bridgeFail (dead : Bool)
  /-- The next bridge transfer of the line at `line` (address over 64) fails after retry, whatever unit moves it. -/
  | bridgeLine (line : Nat) (dead : Bool)
  /-- A control core's cache corrects an error; a line in it, named by its local address over 64, has an uncorrectable one. -/
  | cacheCe (core : Nat)
  | cacheUe (core line : Nat)
  /-- An on-die store meets an error. -/
  | store (e : StoreErr)
deriving DecidableEq, Repr

/-- A master's access (R49, R53). -/
inductive Access where
  | read (len : Nat)
  | write (data : List Byte)
deriving DecidableEq, Repr

/-- A master of the local address space: a control core, or another on-die network port (R468, R469). -/
inductive Master where
  | core (c : Nat)
  | port (p : Nat)
  /-- The SMBus target (R537). -/
  | smbus
deriving DecidableEq, Repr

/-- The network port number of a master. -/
def Master.index : Master → Nat
  | .core c => c
  | .port p => 17 + p
  | .smbus => 16

/-- What an UPDATE_FWD payload carries (R209, R512): a record, the sender's reference to it, and for a joiner the partner's epoch. -/
structure FwdUpdate where
  coll : Nat
  /-- Function that issued the batch: the owner charges its delta blocks to it. -/
  fn : Nat := 0
  upsert : Bool
  id : Nat
  list : Nat
  prev : Nat := 0xFFFFFFFF
  /-- FP32 elements of the vector. -/
  vec : List Word := []
  epoch : Option Nat := none
  ref : Nat := 0
deriving DecidableEq, Repr

/-- What an UPDATE_REPLY payload carries (R209): the reference, the record's status code and epoch. -/
structure UpdReply where
  ref : Nat
  status : Nat
  epoch : Nat
deriving DecidableEq, Repr

/-- What a SUB_SEARCH payload carries (R156). -/
structure SubSearch where
  coll : Nat
  /-- The coordinator's reference: search and shard. -/
  ref : Nat := 0
  k : Nat
  nprobe : Nat
  ef : Nat := 0
  f : Nat := 1
  rr : Nat := 0
  model : Bool := false
  prescan : Bool := false
  hammingMax : Nat := 0
  filter : List Byte := []
  epoch : Nat
  mapGen : Nat := 0
  /-- NCLK cycles left of the deadline, 0 for none. -/
  deadline : Nat := 0
  vec : List Word := []
deriving DecidableEq, Repr

/-- What a SUB_RESULT payload carries (R157): status code, flags, TIE_DROPPED, the three counts and up to K records of 16 bytes. -/
structure SubResult where
  ref : Nat
  status : Nat
  flags : Nat := 0
  tie : Nat := 0
  lists : Nat := 0
  evaluated : Nat := 0
  scored : Nat := 0
  records : List (List Byte) := []
deriving DecidableEq, Repr

/-- A migration to start (R306 to R316): which one is the placer's choice. -/
inductive MigStart where
  /-- Demote from a pool above its high watermark: tier 0 the seat pool, tier 1 the Hide pool of a stack (R310). -/
  | demote (tier stack : Nat)
  /-- Promote an object (R311). -/
  | promote (obj : Nat)
  /-- Demote an object whose hint is COLD (R316). -/
  | cold (obj : Nat)
  /-- Add a neighbour copy in an extent; drop one (R311, R321). -/
  | addNbr (obj ext : Nat)
  | dropNbr (obj : Nat)
  /-- The move of the oldest PIN that waits for the object (R316). -/
  | pin (obj : Nat)
deriving DecidableEq, Repr

/-- What bus bring-up finds on a flash channel (R356, R359): what the dies report, and how often training failed. -/
structure FlashProbe where
  dies : Nat
  mfr : Byte := 0
  /-- Device model field, 20 bytes. -/
  model : List Byte := []
  qlc : Bool := false
  twoTbit : Bool := false
  planes : Nat := 4
  blocksPerDie : Nat := 0
  pagesPerBlock : Nat := 0
  pageBytes : Nat := 16384
  spareBytes : Nat := 2048
  /-- ONFI 5.1 with the features of R358. -/
  onfi : Bool := true
  /-- Every die reports the same manufacturer, model and geometry. -/
  uniform : Bool := true
  /-- Highest rate code declared. -/
  maxRate : Nat := 3
  /-- Trainings that failed: at the chosen rate, then at the next lower one. -/
  fails : Nat := 0
  /-- Factory-marked bad blocks: die, block. -/
  badBlocks : List (Nat × Nat) := []
deriving DecidableEq, Repr

end Sys2Proof
end

