-- ==== Sys2Proof/Syntax.lean ====
section
/-! DEFINITION. The commands of the block: one constructor per row of the opcode table. -/

namespace Sys2Proof

/-- A command. Its operands are what the row names (an address, a value, a unit) and what the row takes from outside the block. -/
inductive Instr where
  /-- SEARCH (R129). SEARCH command: checks in order, pins the snapshot and starts its single query. -/
  | search (ctx : Nat)
  /-- SEARCH_BATCH (R133). SEARCH_BATCH command: checks, then starts up to 256 queries that share parameters and one attribute bind. -/
  | searchBatch (ctx : Nat)
  /-- UPSERT_BATCH (R204). UPSERT_BATCH command: header and record checks, then records are applied in record order into the open epoch. -/
  | upsertBatch (ctx : Nat)
  /-- DELETE_BATCH (R203). DELETE_BATCH command: checks, then tombstones are applied in record order into the open epoch. -/
  | deleteBatch (ctx : Nat)
  /-- EPOCH_SEAL (R196). EPOCH_SEAL command makes a seal of the collection due; a follower forwards it to its seal leader. -/
  | epochSeal (ctx : Nat)
  /-- SNAPSHOT_OPEN (R191). SNAPSHOT_OPEN takes the next FREE snapshot entry on the last sealed epoch and returns its handle. -/
  | snapshotOpen (ctx : Nat)
  /-- SNAPSHOT_CLOSE (R192). SNAPSHOT_CLOSE advances the entry generation and frees the entry, or marks it CLOSING while pins remain. -/
  | snapshotClose (ctx : Nat)
  /-- TABLE_PUBLISH (R88). TABLE_PUBLISH runs its checks and, if they pass, atomically makes a new version current or withdraws the table. -/
  | tablePublish (ctx : Nat)
  /-- TABLE_RETIRE (R93). TABLE_RETIRE marks a superseded slot RETIRING and waits for its reader count to reach zero. -/
  | tableRetire (ctx : Nat)
  /-- REBUILD_LIST (R215). REBUILD_LIST starts or joins a rebuild that folds a list's delta into a new sealed segment. -/
  | rebuildList (ctx : Nat)
  /-- EMBED (R289). EMBED command checks its inputs, binds the model and runs one encoder run per input. -/
  | embed (ctx : Nat)
  /-- RERANK (R290). RERANK command scores the supplied candidates in one scorer run and writes them in model-key order. -/
  | rerank (ctx : Nat)
  /-- RUN_PROGRAM (R250). RUN_PROGRAM checks a tile program image and requests the engines of its mask on one core. -/
  | runProgram (ctx : Nat)
  /-- AWL_SEQ (R339). AWL_SEQ checks a step descriptor and runs its steps in order on the Awl units of one stack. -/
  | awlSeq (ctx : Nat)
  /-- AWL_FENCE (R343). AWL_FENCE waits until every earlier Awl write on the named stacks has reached the banks. -/
  | awlFence (ctx : Nat)
  /-- POOL_FILL (R463). POOL_FILL writes PATTERN into every 8-byte word of the destination range. -/
  | poolFill (ctx : Nat)
  /-- POOL_COPY (R463). POOL_COPY copies a range as if the whole source were read before the first write. -/
  | poolCopy (ctx : Nat)
  /-- POOL_COMPARE (R466). POOL_COMPARE counts the differing 8-byte words of two ranges and reports the first difference. -/
  | poolCompare (ctx : Nat)
  /-- POOL_REDUCE (R465). POOL_REDUCE combines source into destination per element, each line at its own home in one step. -/
  | poolReduce (ctx : Nat)
  /-- DMA_COPY (R72). DMA_COPY copies OUT_LEN bytes in ascending 64-byte lines from DESC_ADDR to OUT_ADDR. -/
  | dmaCopy (ctx : Nat)
  /-- HINT (R316). HINT command sets placement hints, pins or unpins objects named directly or through list entries. -/
  | hint (ctx : Nat)
  /-- REGION_PUBLISH (R461). REGION_PUBLISH performs a compare-and-swap of a region descriptor at its home. -/
  | regionPublish (ctx : Nat)
  /-- ADMIT (R511). ADMIT loads a collection from a partner node: copies segments, replays records and follows the partner to a seal. -/
  | admitColl (ctx : Nat)
  /-- LEASE_RENEW (R455). LEASE_RENEW acquires, renews or releases a lease by sending a LEASE_REQ and completing on the LEASE_GNT. -/
  | leaseRenew (ctx : Nat)
  /-- SQ_TAIL_DOORBELL (R62). A write to SQ_TAIL announces new submission entries; an out-of-range value is rejected with RING_ERR. -/
  | sqTailDoorbell (fn : Nat) (sq : Nat) (value : Nat)
  /-- COMMAND_FETCH (R63). When a context is free, the fetch arbiter copies the next entry of an eligible ring into a context and advances SQ_HEAD. -/
  | commandFetch
  /-- FENCED_COMMAND_START (R64). A command with FENCE set starts once every earlier command of its ring has written its completion record. -/
  | fencedCommandStart (ctx : Nat)
  /-- COMPLETION_RECORD_WRITE (R74). A finished command writes its 32-byte record once its completion ring is enabled and has room, then frees its context. -/
  | completionRecordWrite (ctx : Nat)
  /-- CQ_HEAD_DOORBELL (R61). A write to CQ_HEAD returns consumed slots; a value beyond CQ_TAIL is rejected with RING_ERR. -/
  | cqHeadDoorbell (fn : Nat) (cq : Nat) (value : Nat)
  /-- SQ_CFG_WRITE (R61). A write to SQ_CFG configures or enables a submission ring; enabling resets HEAD and TAIL. -/
  | sqCfgWrite (fn : Nat) (sq : Nat) (value : Word)
  /-- CQ_CFG_WRITE (R76). A write to CQ_CFG configures or enables a completion ring; enabling writes the records that waited for it. -/
  | cqCfgWrite (fn : Nat) (cq : Nat) (value : Word)
  /-- CTX_LOST (R69). An uncorrectable error in a context body ends its command with CTX_LOST at the next phase boundary and cancels its sub-operations. -/
  | ctxLost (ctx : Nat)
  /-- LATE_SUBOP_RESULT (R69). A sub-operation result carrying a context incarnation no longer current is discarded and counted. -/
  | lateSubopResult (ctx : Nat) (cinc : Nat)
  /-- COMMAND_DEADLINE (R154). Expiry of a command's DEADLINE_US ends it with TIMEOUT and cancels its outstanding work. -/
  | commandDeadline (ctx : Nat)
  /-- MEMORY_ACCESS (R49). A master's access to the local address space is served, or discarded as unmapped with an ADDR_UNMAPPED event. -/
  | memoryAccess (m : Master) (addr : Nat) (acc : Access) (cond : MemCond)
  /-- REGISTER_WRITE (R15). A write to a register without behaviour of its own stores its fields under the access codes. -/
  | registerWrite (m : Master) (page : Nat) (off : Nat) (value : Word)
  /-- SOFT_RESET (R598). BLK_CTL.SOFT_RESET ends the block's in-flight work and returns its registers to reset values. -/
  | softReset (m : Master) (page : Nat)
  /-- FREEZE (R56). BLK_CTL.FREEZE stops the block at its next internal boundary, or resumes it when cleared. -/
  | freeze (m : Master) (page : Nat) (on : Bool)
  /-- BLK_ENABLE (R603). A write to BLK_CTL.ENABLE lets the block accept work, or stops acceptance while accepted work finishes. -/
  | blkEnable (m : Master) (page : Nat) (on : Bool)
  /-- INT_STAT_CLEAR (R57). A W1C write to INT_STAT clears event bits and sends a new message if causes remain. -/
  | intStatClear (m : Master) (page : Nat) (mask : Word)
  /-- INT_FORCE (R55). Writing 1 to an INT_FORCE bit sets the same INT_STAT bit. -/
  | intForce (m : Master) (page : Nat) (mask : Word)
  /-- ERR_STAT_CLEAR (R58). A W1C write to ERR_STAT clears error bits; the error address stays until replaced. -/
  | errStatClear (m : Master) (page : Nat) (mask : Word)
  /-- ECC_FLIP_ARM (R556). Setting ECC_FLIP_CTL.ARM makes the block's next protected write take the flip mask. -/
  | eccFlipArm (m : Master) (page : Nat) (mask : BitVec 72)
  /-- CNT_CLEAR (R59). CNT_SEL.CLEAR clears every counter of the selected bank. -/
  | cntClear (m : Master) (page : Nat) (bank : Nat)
  /-- CNT_VAL_LO_READ (R59). A read of CNT_VAL_LO copies the counter's upper half into a per-master shadow. -/
  | cntValLoRead (m : Master) (page : Nat) (x : Nat)
  /-- CTX_FREE_READ (R68). A read of CTX_FREE returns the free count and resets LOW_MARK to FREE. -/
  | ctxFreeRead (m : Master)
  /-- KPR_WAIT_MAX_READ (R183). A read of KPR_WAIT_MAX returns the longest chain wait and resets it to 0. -/
  | kprWaitMaxRead (m : Master) (keeper : Nat)
  /-- UPD_EVT_LO_READ (R219). A read of UPD_EVT_LO removes the oldest update event and latches its list for the master. -/
  | updEvtLoRead (m : Master)
  /-- SKV_EVT_READ (R275). A read of SKV_EVT removes the oldest SAT_STEP event and latches its STEP_SAT. -/
  | skvEvtRead (m : Master) (eng : Nat)
  /-- LAT_EVT_LO_READ (R467). A read of LAT_EVT_LO removes the oldest Latigo event and latches its information. -/
  | latEvtLoRead (m : Master)
  /-- RAS_REC_READ (R558). A read of RAS_REC_0 removes the oldest error record and latches its remaining bytes. -/
  | rasRecRead (m : Master)
  /-- CC_INBOX_LO_READ (R519). A read of CC_INBOX_LO dequeues the oldest interrupt message of the core. -/
  | ccInboxLoRead (m : Master) (core : Nat)
  /-- CC_INBOX_HI_WRITE (R519). A write to CC_INBOX_HI enqueues a message pair, or drops it with OVF on a full inbox. -/
  | ccInboxHiWrite (m : Master) (core : Nat) (value : Word)
  /-- REIN_VT_LO_READ (R491). A read of REIN_VT_LO returns virtual time and latches its high part for the master. -/
  | reinVtLoRead (m : Master) (inst : Nat)
  /-- PWR_TEMP_READ (R583). A read of PWR_TEMP returns the sensor temperature and resets PEAK to NOW. -/
  | pwrTempRead (m : Master)
  /-- FN_ENABLE (R477). An FN_CTL write with ENABLE from DISABLED or CLEAN moves the function to ENABLED with a new incarnation. -/
  | fnEnable (fn : Nat) (post : Bool)
  /-- FN_QUIESCE (R477). An FN_CTL write clearing ENABLE moves an ENABLED function to QUIESCING. -/
  | fnQuiesce (fn : Nat) (post : Bool)
  /-- FN_RESET (R478). An FN_CTL write with RESET moves the function to DRAINING and cancels everything it holds. -/
  | fnReset (fn : Nat) (enable : Bool) (post : Bool)
  /-- FN_PENDING_ENABLE (R477). An FN_CTL write sets or clears PENDING_ENABLE of a quiescing or draining function. -/
  | fnPendingEnable (fn : Nat) (enable : Bool) (post : Bool)
  /-- FN_SOFT_RESET (R481). SOFT_RESET of a function page acts as a reset without abort records and leaves the function DISABLED. -/
  | fnSoftReset (fn : Nat)
  /-- FN_FREEZE (R481). FREEZE of a function page stops fetch and message sending until cleared. -/
  | fnFreeze (fn : Nat) (on : Bool)
  /-- FN_CLEAN (R480). A draining or quiescing function enters CLEAN once it holds no context, item or message, clearing its ring enables. -/
  | fnClean (fn : Nat)
  /-- INT_MESSAGE_SEND (R473). A queued interrupt message leaves when the function's token bucket holds a token. -/
  | intMessageSend (f : Nat)
  /-- ALLOC_REQ (R301). A write to ALLOC_REQ allocates a FILLING object charged to ALLOC_FN, or reports a refusal. -/
  | allocReq (m : Master) (v : Word)
  /-- OBJ_SEAL (R300). OBJ_CTL OP SEAL makes a FILLING object SEALED. -/
  | objSeal (m : Master) (obj : Nat)
  /-- OBJ_FREE (R300). OBJ_CTL OP FREE makes an object FREEING until its readers end. -/
  | objFree (m : Master) (obj : Nat)
  /-- NBR_ADD (R320). NBR_CTL ADD gives a leased neighbour extent to the Tack room, or sets NBR_BAD. -/
  | nbrAdd
  /-- NBR_WITHDRAW (R321). NBR_CTL WITHDRAW makes a neighbour extent LOSING. -/
  | nbrWithdraw
  /-- MAP_INSTALL (R497). MAP_CTL OP INSTALL checks a composition map image and makes it the current generation. -/
  | mapInstall
  /-- MAP_RETIRE_OLD (R499). MAP_CTL OP RETIRE_OLD forces the old generation to retire at once. -/
  | mapRetireOld
  /-- SELFTEST_START (R508). CMP_SELFTEST.START runs the non-destructive self-test steps when the node is not ADMITTED. -/
  | selftestStart
  /-- SELFTEST_DONE (R508). The self-test ends, with each step's PASS bit and DONE set. -/
  | selftestDone (found : Nat)
  /-- ARB_COMMIT (R530). A write to BRD_ARB_COMMIT advances the anti-rollback counter or is refused. -/
  | arbCommit (value : Nat)
  /-- REVOKE (R531). A write to BRD_REVOKE with the key value revokes a key slot or is refused. -/
  | revoke (slot : Nat) (key : Nat)
  /-- KEY_PROG (R531). BRD_KEY_PROG.START programs a blank key slot with a hash from seat memory, or is refused. -/
  | keyProg (slot : Nat)
  /-- EXTEND (R533). BRD_EXTEND.START extends MR_3 to MR_7 with a digest from seat memory. -/
  | extend (mr : Nat)
  /-- QUOTE (R534). BRD_QUOTE.START makes Brand fill and sign an attestation quote block. -/
  | quote
  /-- BRAND_OP_DONE (R536). A running Brand operation finishes and sets its RESULT and OP_DONE. -/
  | brandOpDone (bad : Nat)
  /-- DEBUG_OPEN (R535). BRD_DEBUG.OPEN opens JTAG debug of the control cores unless the debug lock is fused, extending MR_7. -/
  | debugOpen
  /-- CC_START (R520). A W1S write to CC_START releases the named control cores at CC_ENTRY. -/
  | ccStart (mask : Nat)
  /-- OFFLINE_REQ (R352). HIDE_CFG.OFFLINE_REQ takes the Hide stack out of service. -/
  | offlineReq (stack : Nat)
  /-- CHANNEL_OFFLINE (R373). CUR_CH_CTL.OFFLINE takes the selected flash channel out of service with cause 6. -/
  | channelOffline
  /-- FORMAT_START (R389). CUR_FMT.START erases every good block of every channel in service and empties every logical space. -/
  | formatStart
  /-- FMT_DONE (R389). A format completes: new records written, LU_COUNT computed, STATE READY and FMT_DONE set. -/
  | fmtDone
  /-- RAS_ZERO_START (R548). RAS_ZERO_CTL.START clears the valid bits of a 64 KiB-aligned range. -/
  | rasZeroStart
  /-- ZERO_DONE (R548). A RAS_ZERO operation ends with DONE set and ZERO_DONE raised. -/
  | zeroDone
  /-- SUSPECT_CLEAR (R449). LAT_SUSPECT.CLEAR removes the SUSPECT mark of the named agent. -/
  | suspectClear (node : Nat) (agent : Nat)
  /-- EXPORT_INVALIDATE (R458). Clearing LAT_EXP_CTL.VALID reclaims every lease on the export. -/
  | exportInvalidate (exp : Nat)
  /-- WINDOW_ENABLE (R467). Setting LAT_WIN_CTL.VALID puts a coherent window in use, or fails with PROTOCOL. -/
  | windowEnable (win : Nat)
  /-- MGMT_TX_DOORBELL (R538). A write to MGMT_TX_TAIL hands transmit descriptors to the management MAC. -/
  | mgmtTxDoorbell (value : Nat)
  /-- MGMT_RX_DOORBELL (R538). A write to MGMT_RX_TAIL gives receive descriptors to the management MAC. -/
  | mgmtRxDoorbell (value : Nat)
  /-- MGMT_RING_ENABLE (R541). Setting a management ring's ENABLE resets its HEAD and TAIL. -/
  | mgmtRingEnable (rx : Bool) (value : Word)
  /-- LSR_ON (R413). BKL_CFG.LSR_ON drives the tile's laser enable contact. -/
  | lsrOn (tile : Nat) (on : Bool)
  /-- SMB_READ_BYTE (R537). SMBus Read Byte 0x01 returns BRD_BOOT_STAT bits [7:0]. -/
  | smbReadByte (pecOk : Bool)
  /-- SMB_REG_READ (R537). SMBus process call 0x10 reads a register of the permitted pages. -/
  | smbRegRead (off : Nat) (pecOk : Bool)
  /-- SMB_REG_WRITE (R537). SMBus block write 0x11 writes a register of the permitted pages. -/
  | smbRegWrite (off : Nat) (value : Word) (pecOk : Bool)
  /-- NOP (R244). CTRL NOP instruction does nothing. -/
  | engNop (eng : Nat)
  /-- END (R241). END retires once every token is free and thereafter arrives at every barrier of the group. -/
  | engEnd (eng : Nat)
  /-- LOOP (R244). LOOP repeats a following body of instructions a given count. -/
  | engLoop (eng : Nat)
  /-- SCALAR (R248). SCALAR instruction performs a 32-bit wrapping operation on X registers. -/
  | engScalar (eng : Nat)
  /-- DMA (R246). DMA instruction starts a data-mover transfer between windows. -/
  | engDma (eng : Nat) (len : Nat) (count : Nat) (srcStride : Nat) (dstStride : Nat)
  /-- WLOAD (R225). WLOAD loads a stationary tile into the shadow tile once no matrix instruction needs it. -/
  | engWload (eng : Nat)
  /-- MMA (R227). MMA streams activation rows through the array and accumulates into an accumulator bank. -/
  | engMma (eng : Nat)
  /-- VEC (R233). VEC instruction performs a 512-lane vector operation. -/
  | engVec (eng : Nat)
  /-- QROW (R259). QUANT QROW quantises accumulator rows to codes and scales in engine SRAM. -/
  | engQrow (eng : Nat)
  /-- STEP (R271). QUANT STEP closes a scale slot's step, pushing CUR_AMAX into its history. -/
  | engStep (eng : Nat)
  /-- MERGE (R272). QUANT MERGE raises a slot's CUR_AMAX to a finite larger value. -/
  | engMerge (eng : Nat)
  /-- SAVE (R270). QUANT SAVE writes a scale slot as a 128-byte record. -/
  | engSave (eng : Nat)
  /-- LOAD (R273). QUANT LOAD replaces a scale slot from a record, or clears it if invalid. -/
  | engLoad (eng : Nat)
  /-- BAR_ARRIVE (R240). BAR_ARRIVE joins the barrier's arrival set after earlier writes are acknowledged. -/
  | engBarArrive (eng : Nat)
  /-- BAR_WAIT (R240). BAR_WAIT stalls until the barrier generation differs from the recorded one. -/
  | engBarWait (eng : Nat)
  /-- BAR_SYNC (R240). BAR_SYNC arrives and waits in one instruction. -/
  | engBarSync (eng : Nat)
  /-- WAIT (R246). WAIT stalls until every token of its mask is free. -/
  | engWait (eng : Nat)
  /-- FENCE (R247). FENCE stalls until earlier writes to core SRAM and memory windows are visible. -/
  | engFence (eng : Nat)
  /-- EMIT (R244). EMIT sends keys with ids and tags to the engine's bound Keeper stream. -/
  | engEmit (eng : Nat)
  /-- TOKEN_RETIRE (R246). An asynchronous instruction's work completes and frees its completion token. -/
  | tokenRetire (eng : Nat) (token : Nat)
  /-- ENGINE_RESERVE (R251). An engine of a waiting RUN_PROGRAM mask is reserved when its running program retires. -/
  | engineReserve (eng : Nat)
  /-- GROUP_END (R252). A RUN_PROGRAM group ends when every engine has retired END, and the command completes OK. -/
  | groupEnd (group : Nat)
  /-- ENGINE_WAKE (R574). The governor starts a gated engine's four-step wake when its envelope has room. -/
  | engineWake (eng : Nat)
  /-- IDLE_GATE_CLOSE (R574). After IDLE_DELAY idle cycles the engine's array clock gate closes. -/
  | idleGateClose (eng : Nat)
  /-- GOVERNOR_ESTIMATE (R573). Every 0.5 µs the ramp governor estimates controlled power and moves its envelope within the ramp limit. -/
  | governorEstimate (mw : Nat) (rise0 : Nat) (rise1 : Nat)
  /-- POWER_LIMIT_CHECK (R576). Each millisecond the power limit lowers or raises the operating point from the 1 ms estimate. -/
  | powerLimitCheck (w : Nat) (higher : Nat)
  /-- CURRENT_READING (R577). Every 10 µs the AVSBus current reading of each Tree rail is taken and a reading above AMPS lowers the point. -/
  | currentReading (rail : Nat) (amps : Option Nat) (higher : Nat)
  /-- ADAPTIVE_VOLTAGE (R571). Every 100 µs each Tree die trims its rail by ±5 mV to its fused timing margin. -/
  | adaptiveVoltage (die : Nat) (up : Option Bool)
  /-- THERMAL_READ (R578). Every 100 µs the device reads its temperature sensors and applies throttles. -/
  | thermalRead (temps : List Int)
  /-- REFCLK_LOSS (R565). Loss of REFCLK_100 or of an ACLK, NCLK, HCLK or BCLK PLL lock is FATAL and sheds load. -/
  | refclkLoss (which : Nat)
  /-- HIDE_PLL_LOSS (R565). Loss of a stack's SCLK or WCLK PLL takes the stack out of service. -/
  | hidePllLoss (stack : Nat)
  /-- FCLK_PLL_LOSS (R565). Loss of an FCLK PLL takes its channel group out of service with cause 3. -/
  | fclkPllLoss (group : Nat)
  /-- FREF_LOSS (R565). Absence of FREF_156 for 1 µs takes every fabric port and the management link down. -/
  | frefLoss
  /-- FREF_RESTORED (R565). After FREF_156 has been present for 1 ms, ports and the management link retrain. -/
  | frefRestored
  /-- RESET_N_FALL (R569). RESET_N falling starts a cold reset after load is shed. -/
  | resetNFall (ns : Nat)
  /-- SHED_COMPLETE (R575). 101 µs after the event every controlled consumer is off and the Hide stacks are in self-refresh. -/
  | shedComplete
  /-- COLD_BOOT (R525). RESET_N rising starts the boot ROM: fuses sensed, self-tests, block enables and header checks. -/
  | coldBoot (recovery : Bool) (selfTest : Bool) (torn : Nat) (hdr : List Byte) (again : List Byte)
  /-- BOOT_BODY_LOADED (R524). The image body has been loaded and hashed, check 7 runs and the measurement registers are extended. -/
  | bootBodyLoaded (body : List Byte)
  /-- HIDE_TRAINING_DONE (R526). Hide training ends; a stack that failed goes out of service. -/
  | hideTrainingDone (failed : Nat)
  /-- RECOVERY_TIMEOUT (R527). A recovery source that runs out of time sets CAUSE RECOVERY_TIMEOUT and gives way to the next. -/
  | recoveryTimeout
  /-- FEC_ALTERNATE (R528). Until block lock, the recovery link alternates every 1 s between no FEC and RS-FEC. -/
  | fecAlternate
  /-- DHCP_RETRANSMIT (R528). A DHCP retransmission timer expires and the ROM resends or restarts the exchange. -/
  | dhcpRetransmit
  /-- DHCP_REPLY (R528). A DHCP offer or ACK received during network recovery is taken or ignored. -/
  | dhcpReply (ack : Bool) (addr : Nat) (mask : Nat) (router : Nat) (server : Nat) (file : List Byte)
  /-- TFTP_BLOCK (R528). A TFTP data block received during recovery is stored and checked. -/
  | tftpBlock (oack : Bool) (block : Nat) (data : List Byte)
  /-- TFTP_TIMEOUT (R528). A TFTP block timeout retransmits, or restarts the transfer after five tries. -/
  | tftpTimeout
  /-- PWR_FAIL_N_FALL (R380). PWR_FAIL_N low for 1 µs starts the power-fail sequence: acceptance stops, load sheds and the flash flush begins. -/
  | pwrFailNFall (ns : Nat)
  /-- FLUSH_DONE (R380). After the last power-fail record, FL_WP_N goes low, chip enables deassert and HOLDUP_DONE rises. -/
  | flushDone
  /-- LASER_LOW (R413). A laser input below LOW_CDBM for 10 µs sets LOW and takes the ports it lights DOWN. -/
  | laserLow (tile : Nat) (input : Nat) (power : Nat)
  /-- LASER_RECOVERED (R413). An input at or above the threshold for 1 ms lets its ports train. -/
  | laserRecovered (tile : Nat) (input : Nat) (power : Nat)
  /-- LINK_UP (R411). A port whose lanes have all trained becomes UP and carries traffic. -/
  | linkUp (port : Nat) (rttNs : Nat) (alloc : List Nat)
  /-- TRAINING_FAILED (R434). A training attempt fails; after three the port reads FAILED. -/
  | trainingFailed (port : Nat)
  /-- LINK_DOWN (R420). A link going DOWN discards its link state and loses messages in flight. -/
  | linkDown (port : Nat)
  /-- RETRAIN (R420). A retrain keeps sequence numbers, replay buffers and credits, then each end requests its next SEQ. -/
  | retrain (port : Nat)
  /-- FLIT_RECEIVE (R418). A received flit is checked, accepted in sequence or discarded, and its ACK and credits are applied. -/
  | flitReceive (port : Nat) (flit : Flit)
  /-- RETRY_REQ (R419). A received RETRY_REQ starts a replay from the named SEQ within 1 µs. -/
  | retryReq (port : Nat) (seq : Nat)
  /-- RETRY_REQ_RESEND (R418). The receiver resends its RETRY_REQ every RTT + 1 µs and retrains after RETRY_MAX sends. -/
  | retryReqResend (port : Nat)
  /-- CREDIT_STALL (R423). A message waiting for credits for STALL_US sets CREDIT_STALL. -/
  | creditStall (port : Nat) (vc : Nat)
  /-- RD_REQ (R429). A received RD_REQ is judged and performed as a non-caching read, answered by RD_RSP. -/
  | rdReq (m : Msg)
  /-- WR_REQ (R429). A received WR_REQ is judged and performed as an invalidating write, answered by WR_RSP. -/
  | wrReq (m : Msg)
  /-- SVC_REQ (R431). A received SVC_REQ delivers its payload to the named service and is answered SVC_ACK or NO_SERVICE. -/
  | svcReq (m : Msg)
  /-- SUB_SEARCH (R157). A shard node runs a received sub-search as a node-level search with a read pin on s. -/
  | subSearch (src : Nat) (p : SubSearch)
  /-- SUB_RESULT (R159). The coordinator merges a received shard result into its Lacing pool. -/
  | subResult (src : Nat) (r : SubResult)
  /-- UPDATE_FWD (R209). The owner applies a forwarded update record, or refuses it MAP_STALE or FENCED. -/
  | updateFwd (src : Nat) (mapGen : Nat) (u : FwdUpdate)
  /-- UPDATE_REPLY (R209). A non-owner takes a forwarded record's status and epoch from the owner's reply. -/
  | updateReply (src : Nat) (r : UpdReply)
  /-- SEAL_MSG (R199). A seal message from the seal leader seals the named epoch and any epochs up to it. -/
  | sealMsg (src : Nat) (coll : Nat) (epoch : Nat)
  /-- HEARTBEAT (R501). A received HEARTBEAT membership message counts as a message from its sender. -/
  | heartbeat (m : Msg)
  /-- MEMBER_FENCE (R505). A FENCE from the fabric manager fences another node or makes this node fence itself. -/
  | memberFence (m : Msg)
  /-- MAP_NOTICE (R501). A MAP_NOTICE from the fabric manager sets FM_NOTICE. -/
  | mapNotice (m : Msg)
  /-- JOIN_READY (R511). A partner receiving JOIN_READY starts forwarding records to the joiner after its next seal. -/
  | joinReady (m : Msg)
  /-- HEARTBEAT_TIMER (R502). Every HB_MS the device sends a HEARTBEAT to the fabric manager. -/
  | heartbeatTimer
  /-- FM_SILENT (R506). No MEMBER message from FM_NODE for FM_SILENT_MS makes the node fence itself. -/
  | fmSilent
  /-- RD_RSP (R429). A received RD_RSP completes its outstanding read, marking poisoned lines per POISON_MASK. -/
  | rdRsp (m : Msg)
  /-- WR_RSP (R430). A received WR_RSP completes its outstanding write. -/
  | wrRsp (m : Msg)
  /-- SVC_ACK (R431). A received SVC_ACK confirms that the remote service took the payload. -/
  | svcAck (m : Msg)
  /-- NACK (R433). A received NACK ends its outstanding request with the status of its code. -/
  | nack (m : Msg)
  /-- TRANSPORT_TIMEOUT (R430). A request with no response after 50 µs frees its tag entry and ends as timed out. -/
  | transportTimeout (tag : Nat)
  /-- RD_SHARED (R443). The home serves a RD_SHARED request by directory state, snooping an owner if needed. -/
  | rdShared (m : Msg)
  /-- RD_OWN (R443). The home serves a RD_OWN request, invalidating other holders and granting ownership. -/
  | rdOwn (m : Msg)
  /-- UPGRADE (R443). The home upgrades a sharer to owner, invalidating the other sharers. -/
  | upgrade (m : Msg)
  /-- WB (R443). The home writes back an owner's modified line and answers CMP_WB. -/
  | wb (m : Msg)
  /-- NC_REDUCE (R465). The home reduces a pool line in one step and answers CMP_REDUCE. -/
  | ncReduce (m : Msg) (fmt : Nat) (mode : Nat)
  /-- LEASE_REQ (R454). The lender grants, renews or releases a lease slot and answers LEASE_GNT. -/
  | leaseReq (m : Msg)
  /-- REGION_PUB (R461). The region home performs a received region compare-and-swap and answers REGION_DONE. -/
  | regionPub (m : Msg) (region : Nat) (expect : Nat) (base : Nat) (len : Nat) (hold : Nat)
  /-- SNP_SHARE (R444). A caching agent answers SNP_SHARE with RSP_I, RSP_S or RSP_DATA_S. -/
  | snpShare (m : Msg)
  /-- SNP_INV (R444). A caching agent answers SNP_INV with RSP_I or RSP_DATA_I. -/
  | snpInv (m : Msg)
  /-- RSP_I (R443). The home records that the snooped agent holds nothing now. -/
  | rspI (m : Msg)
  /-- RSP_S (R443). The home records that the snooped agent keeps a clean shared copy. -/
  | rspS (m : Msg)
  /-- RSP_DATA_I (R443). The home takes modified data into memory; the agent holds nothing now. -/
  | rspDataI (m : Msg)
  /-- RSP_DATA_S (R443). The home takes modified data into memory; the agent keeps a shared copy. -/
  | rspDataS (m : Msg)
  /-- GNT_S (R443). A requester receives a shared grant with data. -/
  | gntS (m : Msg)
  /-- GNT_E (R443). A requester receives an exclusive grant with data. -/
  | gntE (m : Msg)
  /-- GNT_E_NODATA (R443). A requester's upgrade is granted exclusive without data. -/
  | gntENodata (m : Msg)
  /-- GNT_UNTRACKED (R442). A requester receives a snapshot-class line that the home does not track. -/
  | gntUntracked (m : Msg)
  /-- CMP_WB (R444). A writer receives CMP_WB and may drop the written-back line. -/
  | cmpWb (m : Msg)
  /-- CMP_REDUCE (R464). The pool engine receives completion of a remote line reduction. -/
  | cmpReduce (m : Msg)
  /-- LEASE_GNT (R455). A received LEASE_GNT completes the LEASE_RENEW command or an automatic renewal. -/
  | leaseGnt (m : Msg) (status : Nat) (handle : Nat)
  /-- REGION_DONE (R461). A received REGION_DONE completes the publisher's REGION_PUBLISH. -/
  | regionDone (m : Msg) (status : Nat) (spec0 : Nat) (spec1 : Nat)
  /-- SNOOP_TIMEOUT (R448). An unanswered snoop times out; an owned line is poisoned and the agent becomes SUSPECT. -/
  | snoopTimeout (line : Nat) (agent : Nat)
  /-- LEASE_TERM_END (R454). At the end of a lease term the lender answers the holder's new requests with NO_LEASE. -/
  | leaseTermEnd (exp : Nat) (slot : Nat)
  /-- LEASE_RECLAIM (R458). At the end of grace, or on release or fence, the lender reclaims the lease and may list the node for reclaim. -/
  | leaseReclaim (exp : Nat) (slot : Nat)
  /-- RECLAIM_DONE (R459). A node leaves the reclaim list when a sweep that began after it entered has finished. -/
  | reclaimDone
  /-- AUTO_RENEWAL (R456). Every RENEW_MS the device sends a renewal of each automatically renewed lease. -/
  | autoRenewal (node : Nat) (handle : Nat)
  /-- LEASE_LOST (R456). A lease whose renewal is refused or whose borrower-side term ends is lost and queues LEASE_LOST. -/
  | leaseLost (node : Nat) (handle : Nat)
  /-- MAP_FORCED_RETIRE (R499). RETIRE_MS after an install, a still-live old generation is forced to retire and its commands end MAP_STALE. -/
  | mapForcedRetire
  /-- REIN_SELECT (R486). When its resource can take an item, a Rein instance selects a strict head, else the green or yellow head of least finish tag. -/
  | reinSelect (inst : Nat)
  /-- STARVED (R489). A weighted group unserved for STARVE_US while eligible sets STARVED. -/
  | starved (inst : Nat)
  /-- QUERY_START (R132). A query is given the next enabled home core, waiting while none is enabled. -/
  | queryStart (sid : Nat) (q : Nat)
  /-- EMBED_PHASE (R291). A RAW query's EMBED phase runs the collection encoder to form the query vector. -/
  | embedPhase (sid : Nat) (q : Nat)
  /-- COARSE_PHASE (R136). COARSE phase computes centroid keys by brute force or graph walk and selects the probe set. -/
  | coarsePhase (sid : Nat) (q : Nat)
  /-- COARSE_BATCH_WINDOW (R136). 2 µs after the first query of a batch reaches COARSE, the gathered queries run as one GEMM. -/
  | coarseBatchWindow (sid : Nat)
  /-- CANDIDATE_PHASE (R131). CANDIDATE phase binds the directory and starts scans of every probed list. -/
  | candidatePhase (sid : Nat) (q : Nat)
  /-- SCAN_PIECE (R138). A piece's scan starts on the scanner that the Tack room's reported residence assigns. -/
  | scanPiece (sid : Nat) (q : Nat) (j : Nat)
  /-- RERANK_MODEL_PHASE (R292). RERANK_MODEL phase scores the re-rank set with the collection's scorer and re-orders it. -/
  | rerankModelPhase (sid : Nat) (q : Nat)
  /-- FILTER_PHASE (R145). FILTER phase evaluates gathered attribute rows in order until K survivors or exhaustion. -/
  | filterPhase (sid : Nat) (q : Nat)
  /-- WRITE_PHASE (R150). WRITE phase writes result records, releases binds and pins, and completes the query. -/
  | writePhase (sid : Nat) (q : Nat)
  /-- SUBSEARCH_TIMEOUT (R158). A sub-search not complete within the deadline or 100 ms ends the command with TIMEOUT. -/
  | subsearchTimeout (sid : Nat)
  /-- CHAIN_GRANT (R166). A waiting scan stream is granted a Keeper chain of the size its LIMIT needs. -/
  | chainGrant (keeper : Nat)
  /-- KEEPER_INSERT (R168). A candidate offered at the admission gate is rejected or inserted into its chain. -/
  | keeperInsert (sid : Nat) (q : Nat) (j : Nat)
  /-- THRESHOLD_FEEDBACK (R170). Every FEEDBACK_PERIOD a full chain sends its lowered last key to its scanner. -/
  | thresholdFeedback (sid : Nat) (q : Nat) (j : Nat)
  /-- STREAM_END (R171). After the end marker a chain drains its partial list to Lacing and frees its segments. -/
  | streamEnd (sid : Nat) (q : Nat) (j : Nat)
  /-- POOL_SLOT_GRANT (R174). A query waiting for a Lacing pool slot takes one when freed. -/
  | poolSlotGrant (lac : Nat)
  /-- LACING_PASS (R176). A Lacing pass merges waiting partial lists into the pool with dedupe and tie accounting. -/
  | lacingPass (sid : Nat) (q : Nat)
  /-- SEAL_TIMER (R195). SEAL_PERIOD_US after the last seal, with OPEN_DIRTY set, a seal falls due. -/
  | sealTimer (coll : Nat)
  /-- SEAL_CHECK (R197). Once the last applying batch finishes, the seal is checked and the epoch sealed or the seal refused. -/
  | sealCheck (coll : Nat)
  /-- REBUILD_PUBLISH (R215). With new objects written, a rebuild takes its publish turn and a free slot, then publishes or ends. -/
  | rebuildPublish (coll : Nat) (list : Nat)
  /-- AGE_SWEEP (R218). Each AGE_SWEEP_MS the sweep visits every list and sets OLDEST_STORED. -/
  | ageSweep (coll : Nat)
  /-- MIGRATION_START (R307). The placer or a PIN starts a migration when its conditions hold, allocating and charging the target. -/
  | migrationStart (m : MigStart)
  /-- COPY_DONE (R306). The last byte of a migration target is written and the migration moves to VERIFYING. -/
  | copyDone (obj : Nat)
  /-- VERIFY_DONE (R306). Verification switches the copy, rewrites the target once, or abandons after a second mismatch. -/
  | verifyDone (obj : Nat)
  /-- MIGRATION_ABANDON (R308). A freed object, losing extent, failed write or bad source abandons a running migration. -/
  | migrationAbandon (obj : Nat)
  /-- HEAT_HALVING (R309). Every HEAT_HALF_MS every object's HEAT is halved. -/
  | heatHalving
  /-- STAGING_FILL (R305). A staging-cache miss's 4 KiB flash read completes and the waiting access proceeds. -/
  | stagingFill (obj : Nat) (unit : Nat)
  /-- TIER_LATE (R322). A read incomplete beyond LATE_US marks its command STALLED_TIER. -/
  | tierLate (wait : Nat)
  /-- NBR_RENEW (R321). Every NBR_RENEW_MS the Tack room renews each ACTIVE extent's lease. -/
  | nbrRenew (ext : Nat)
  /-- NBR_STOP (R321). No renewal acknowledged within NBR_STOP_MS makes the extent LOSING. -/
  | nbrStop (ext : Nat)
  /-- REFRESH_DUE (R332). A per-bank refresh falls due; it waits for the end of a running stitch on that bank. -/
  | refreshDue (stack : Nat) (bank : Nat)
  /-- STITCH_END (R331). An Awl stitch ends; pending refreshes run and the unit takes its next stitch in Rein order. -/
  | stitchEnd (stack : Nat) (unit : Nat)
  /-- LANE_FAIL (R352). Lane repair failing to hold a lane takes the stack out of service. -/
  | laneFail (stack : Nat)
  /-- AWL_STEP_DONE (R338). Every row of an AWL_SEQ step has been written and the next step starts. -/
  | awlStepDone (ctx : Nat)
  /-- AWL_TRANCHE (R346). A free Awl unit takes a 512-position tranche of a scan piece and scores its visible items. -/
  | awlTranche (sid : Nat) (q : Nat) (j : Nat)
  /-- ATTN (R348). An ATTN step row's token tranches are computed on Awl units and combined on the base die. -/
  | attn (model : Bool) (owner : Nat) (row : Nat)
  /-- CURRIER_WRITE (R376). A Tack room WRITE of one unit is accepted once the ledger debt allows it. -/
  | currierWrite (channel : Nat) (unit : Nat)
  /-- CURRIER_READ (R364). A Tack room READ of one unit binds its physical location and is read. -/
  | currierRead (obj : Nat) (unit : Nat)
  /-- DEALLOCATE (R364). A Tack room DEALLOCATE of a run of units takes effect for reads at once. -/
  | deallocate (channel : Nat)
  /-- READ_DECODE (R361). A codeword read from flash is decoded through hard, retry, soft and parity steps. -/
  | readDecode (channel : Nat) (lu : Nat) (step : Nat) (bits : Nat)
  /-- PROGRAM_DONE (R377). A flash program completes; a time beyond T_SLC or T_NAT raises it and sets TPROG_RAISED. -/
  | programDone (channel : Nat) (die : Nat) (ns : Nat) (ok : Bool)
  /-- BLOCK_VERIFY (R372). A full block is read back and verified, rebuilding failed codewords from parity. -/
  | blockVerify (channel : Nat) (die : Nat) (block : Nat) (bad : List Nat)
  /-- FOLD_START (R367). Buffer use above FOLD_START, or 10 ms without writes, starts folding of the SLC buffer. -/
  | foldStart (channel : Nat)
  /-- GC_START (R369). Free blocks below GC_START start garbage collection on a die. -/
  | gcStart (channel : Nat) (die : Nat)
  /-- MAP_WRITEBACK (R365). A dirty map page is written back on eviction or 10 s after it became dirty. -/
  | mapWriteback (channel : Nat) (page : Nat)
  /-- ZQ_CALIBRATION (R358). Every ZQ_MS each idle die runs ZQ short calibration. -/
  | zqCalibration (channel : Nat) (die : Nat)
  /-- DIE_TIMEOUT (R373). A die silent to READ STATUS ENHANCED for 100 ms takes its channel out of service. -/
  | dieTimeout (channel : Nat)
  /-- BUS_BRINGUP (R359). At boot each channel is reset, identified, calibrated and switched to its rate. -/
  | busBringup (channel : Nat) (probe : FlashProbe)
  /-- CURRIER_READY (R382). After replay and verification the Currier sets STATE READY and reads resume. -/
  | currierReady
  /-- EDGER_STREAM_OPEN (R384). A scan descriptor, tables and tombstones open an Edger stream once store room exists. -/
  | edgerStreamOpen (sid : Nat) (q : Nat) (j : Nat)
  /-- EDGER_TRANCHE (R385). The Edger scores a tranche of 512 positions as its decoded units arrive. -/
  | edgerTranche (sid : Nat) (q : Nat) (j : Nat)
  /-- ROW_LOOKUP (R396). Saddlebag resolves a key to a row and delivers or drops the decoded row. -/
  | rowLookup (req : Nat) (pos : Nat)
  /-- LINE_FILL_DONE (R401). A row-cache line fill completes and is installed or bypassed, releasing waiting misses. -/
  | lineFillDone (saddle : Nat) (slot : Nat)
  /-- SB_LATE (R401). A Saddlebag read incomplete after LATE_US sets STALLED_TIER. -/
  | sbLate (saddle : Nat) (slot : Nat)
  /-- GATHER_DONE (R406). Every token row of a GATHER stage is written and the stage's first repetition can start. -/
  | gatherDone (run : Nat)
  /-- MODEL_LANE_GRANT (R280). A model run takes a free lane on its home core and then reserves engines. -/
  | modelLaneGrant (run : Nat)
  /-- STAGE_REPETITION (R285). A stage repetition starts with slots loaded from the scale state once the previous retired. -/
  | stageRepetition (run : Nat)
  /-- RUN_END (R286). After the last stage, a model run reads its output, pushes its amax and frees engines and lane. -/
  | runEnd (run : Nat)
  /-- PATROL_SCRUB (R551). The patrol scrubber reads every valid line once per RAS_SCRUB.HOURS, correcting in place. -/
  | patrolScrub
  /-- CE_SECOND (R559). Each aligned second of device time restarts every page's corrected-word count. -/
  | ceSecond
  /-- RAS_DATAGRAM (R561). A queued record selected by MASK is sent as a UDP datagram no sooner than MIN_US after the last. -/
  | rasDatagram
  /-- MGMT_FRAME_RECEIVE (R539). A received management frame is filtered and written to the next receive descriptor, or dropped. -/
  | mgmtFrameReceive (frame : List Byte) (fcsOk : Bool)
  /-- MGMT_FRAME_SENT (R539). A transmit descriptor's frame has been sent and its DONE is set. -/
  | mgmtFrameSent
  /-- ERASE_DONE (R366). A block erase completes; a status failure retires the block, otherwise the block joins the free pool. -/
  | eraseDone (channel : Nat) (die : Nat) (block : Nat) (ok : Bool)
  /-- MGMT_LINK_CHANGE (R541). The management port gains or loses block lock or sees a remote fault, updating MGMT_STAT.LINK_UP and setting LINK_CHANGE. -/
  | mgmtLinkChange (up : Bool)
  /-- AWL_STREAM_OPEN (R345). A Hide scan stream that waited for tombstone store room loads its log set and filter and opens on the stack. -/
  | awlStreamOpen (sid : Nat) (q : Nat) (j : Nat)
  /-- SEAL_FORWARD (R199). The seal leader receives an EPOCH_SEAL forwarded by a follower and makes its own seal due. -/
  | sealForward (coll : Nat)
  /-- SEAL_REFUSAL (R199). The seal leader receives a follower's report that it refused a seal under R197 and refuses its own seal in the same way. -/
  | sealRefusal (coll : Nat)
  /-- RECOVERY_ARP (R528). During network recovery the ROM answers an ARP request for its leased address or takes the ARP reply that resolves the server or router. -/
  | recoveryArp (request : Bool) (ip : Nat) (mac : Nat)
deriving DecidableEq, Repr

end Sys2Proof
end

