-- ==== Sys2Proof/Config.lean ====
section
/-! DEFINITION. What one part fixes, and the one source of free values. -/

namespace Sys2Proof

/-- A FREE VALUE: nothing constrains it and nothing in Lean can evaluate it. The list names the use: the number of
the free value (the model's own counter in State, from 1) and, after it, the places within one use; a value that stays the
same from use to use has 0 in front. Every value the spec leaves open on a machine that goes on is taken from here (log
entry 3). -/
opaque Config.free : List Nat → Nat

/-- The OP byte of the operation that R244 lists at place `i` of class `c`: the spec numbers the operations of QUANT only (R261), so
the others are constants nothing constrains (log entry 5). -/
opaque Config.opCode : Nat → Nat → Byte

/-- The bytes of a service payload (R431): the spec lists what a payload of service `svc` carries and gives no layout for it (log
entry 6). -/
opaque Config.payload : Nat → List Nat → List Byte

/-- ROM version in the boot record of R533: the spec states none. -/
opaque Config.romVersion : Nat

/-- The two order codes of R4. -/
inductive Part where
  | zq6448
  | zq5640
deriving DecidableEq, Repr

/-- Engines of a core (R28). -/
def Part.perCore : Part → Nat
  | .zq6448 => 8
  | .zq5640 => 7
/-- Engines of the part (R4, R6). -/
def Part.engines (p : Part) : Nat := 8 * p.perCore
/-- Flash channels of the part (R4, R6). -/
def Part.channels : Part → Nat
  | .zq6448 => 48
  | .zq5640 => 40

end Sys2Proof
end

