-- ==== Sys2Proof/Machine/TypesA.lean ====
section
/-! DEFINITION. State of the control model, functions, Rein and error reporting (02, 15, 18). -/

namespace Sys2Proof.Machine
open Sys2Proof

/-- Completion status (R77). -/
inductive Status where
  | ok | superseded | versionConflict | mapStale | fenced
  | ctxLost | poisoned | tierFail | mediaError
  | quota | snapshotExpired | snapshotPinLimit
  | invalidCmd | badCollection | badTable
  | abortedReset | timeout
deriving DecidableEq, Repr

/-- What a completion record carries beyond its context's own fields (R73). -/
structure Compl where
  status : Status := .ok
  flags : Nat := 0
  count : Nat := 0
  tie : Nat := 0
  spec0 : Nat := 0
  spec1 : Nat := 0
  /-- Order in which commands finished (R76). -/
  fin : Nat := 0
deriving DecidableEq, Repr

/-- A remote buffer of a context: lines fetched over the fabric, and writes not yet acknowledged (R74, R429). -/
structure RemoteBuf where
  /-- Lines that arrived, with their poison: key is the global address over 64. -/
  lines : Tab (List Byte × Bool) := []
  /-- Lines asked for and not yet answered. -/
  asked : List Nat := []
  /-- Lines whose request failed, with the status of R433. -/
  fails : Tab Status := []
  /-- WR_REQs of the command not yet answered. -/
  wrOut : Nat := 0
deriving DecidableEq, Repr

/-- A request context that a fetched command holds (R66, R67, R597). -/
structure Ctx where
  fn : Nat := 0
  sq : Nat := 0
  cq : Nat := 0
  tag : Nat := 0
  /-- Function incarnation the command runs under. -/
  inc : Nat := 0
  /-- Context incarnation carried by its sub-operations. -/
  cinc : Nat := 0
  /-- The 64 bytes of the entry (R70). -/
  entry : List Byte := []
  /-- Slot of the ring it was fetched from. -/
  slot : Nat := 0
  /-- Order of fetch over the whole node. -/
  seq : Nat := 0
  fetched : Nat := 0
  /-- FENCE satisfied, or none asked (R64). -/
  ready : Bool := false
  /-- The opcode's own row has taken its first effect. -/
  started : Bool := false
  /-- First cause recorded under R597 and the cycle it came in. -/
  cause : Option (Status × Nat) := none
  /-- NCLK time at which DEADLINE_US passes. -/
  deadline : Option Nat := none
  /-- STALLED_TIER (R142, R322). -/
  stalled : Bool := false
  /-- A version it bound was superseded before the bind ended (R96). -/
  oldTable : Bool := false
  /-- Table slots bound for the whole command: handle, slot. -/
  binds : List (Nat × Nat) := []
  remote : RemoteBuf := {}
  /-- Map generation current at the fetch (R499). -/
  mapGen : Nat := 0
  /-- The finished record, waiting to be written (R74 to R76). -/
  done : Option Compl := none
  /-- Its record has been sent to a completion ring on another node and is not yet acknowledged: the slot's address and the bytes. -/
  posted : Option (Nat × List Byte) := none
  /-- The record on its way raises its ring's message once it is visible (R472). -/
  tells : Bool := false
deriving DecidableEq, Repr

/-- State of the context pool and of command intake (R66 to R69). -/
structure CtxPool where
  /-- Held contexts by index. -/
  held : Tab Ctx := []
  /-- Context incarnations (16 bits) by index; 0 where not listed. -/
  cinc : Tab Nat := []
  lowMark : Nat := 4096
  /-- Fetch arbiter pointer of R470. -/
  fetchPtr : Nat := 0
  fetchSeq : Nat := 0
  finSeq : Nat := 0
deriving DecidableEq, Repr

/-- Function states of R475. -/
inductive FnState where
  | disabled | enabled | quiescing | draining | clean
deriving DecidableEq, Repr

/-- A message waiting in a function's message queue (R471, R474). -/
structure IntMsg where
  kind : Nat
  index : Nat
  vector : Nat
deriving DecidableEq, Repr

/-- State of one function (R475 to R481). -/
structure Fn where
  st : FnState := .disabled
  pendingEnable : Bool := false
  /-- Incarnation (R476), 16 bits. -/
  inc : Nat := 0
  /-- Interrupt bucket in units of 1/1,600,000 token (RATE per ms in steps of one NCLK cycle). -/
  bucket : Nat := 16 * 1600000
  queue : List IntMsg := []
  overflow : Bool := false
  /-- Messages sent in this incarnation (SEQ of R471). -/
  sent : Nat := 0
  drainFrom : Nat := 0
  lastUs : Nat := 0
  cancelled : Nat := 0
  /-- The drain running is the soft reset of R481. -/
  softReset : Bool := false
  /-- Completion rings on a pass whose PHASE is 0 (R75). -/
  flipped : List Nat := []
  /-- A drain has run: tokens and tags are refilled on the next entry to ENABLED (R478). -/
  refill : Bool := false
deriving DecidableEq, Repr

/-- Who an item of a Rein queue belongs to. -/
inductive ItemOwner where
  | command (ctx cinc : Nat)
  | work
deriving DecidableEq, Repr

/-- Who an Awl unit works for (R331). -/
inductive AwlOwner where
  | seq (ctx : Nat)
  | stream (sid : Nat)
  | attn (run : Nat)
  | pool (ctx : Nat)
deriving DecidableEq, Repr

/-- What a flash channel moves data or sends operations for (R370). -/
inductive FlashOp where
  /-- The staging read of a unit of an object (R305). -/
  | read (obj unit : Nat)
  /-- The next tranche of an Edger stream (R385). -/
  | tranche (stream : Nat)
  /-- The program that is under way on the die (R367, R371). -/
  | program
  /-- A block folded, collected, read back for its verification, or erased (R367, R369, R372). -/
  | fold (block : Nat)
  | collect (block : Nat)
  | verify (block : Nat)
  | erase (block : Nat)
  /-- A map page written back (R365). -/
  | map (page : Nat)
  /-- ZQ calibration of the die (R358). -/
  | calibrate
  /-- The rewriting of a unit that was read with difficulty (R362). -/
  | rewrite (unit : Nat)
  /-- A migration's reads of its flash source, and of the flash target it verifies (R306, R307). -/
  | copy (obj : Nat)
  | check (obj : Nat)
deriving DecidableEq, Repr

/-- Class of a Rein item: what its resource does with it when it is selected (R482, R483). -/
inductive ItemKind where
  /-- A transport message on a fabric port, named by its outbox number. -/
  | message (n : Nat)
  /-- Part of an operation on a flash die. -/
  | flash (die : Nat) (op : FlashOp) (part : Nat)
  /-- An access of the base interface of a Hide stack. -/
  | base
  /-- A stitch for an Awl unit of a Hide stack. -/
  | stitch (owner : AwlOwner)
deriving DecidableEq, Repr

/-- One item of a Rein queue (R482 to R484). -/
structure ReinItem where
  fn : Nat
  owner : ItemOwner
  kind : ItemKind
  /-- Cost L in bytes (R484). -/
  cost : Nat
deriving DecidableEq, Repr

/-- What a piece of work is charged to: a function, or none (REIN_CFG.DEFAULT_FN); whose it is; a strict queue, or none (R483). -/
structure Charge where
  fn : Option Nat := none
  owner : ItemOwner := .work
  strict : Option Nat := none
deriving DecidableEq, Repr

/-- One function queue of a weighted group (R485, R487). Buckets are in units of 1/1600 byte. -/
structure ReinQ where
  items : List ReinItem := []
  start : Nat := 0
  finish : Nat := 0
  /-- Tags are set for the present head, which is eligible. -/
  tagged : Bool := false
  /-- The previous head was served and the queue stayed eligible (R487). -/
  wasEligible : Bool := false
  tc : Nat := 1048576 * 1600
  tp : Nat := 1048576 * 1600
  /-- The head's being held red has been counted. -/
  redCounted : Bool := false
deriving DecidableEq, Repr

/-- One Rein instance (R482 to R489). -/
structure Rein where
  strict : Tab (List ReinItem) := []
  queues : Tab ReinQ := []
  v : Nat := 0
  ptr : Nat := 0
  /-- Time the weighted group was last served or last had no eligible head. -/
  servedAt : Nat := 0
  /-- Items that have been selected and whose work has not been done yet. -/
  given : List ItemKind := []
deriving DecidableEq, Repr

/-- An error record queued in the RAS block (R557). -/
structure RasRec where
  seq : Nat
  typ : Nat
  bit : Nat
  page : Nat
  addr : Nat
  syndrome : Nat
  word : Nat
  count : Nat
  time : Nat
deriving DecidableEq, Repr

/-- The RAS block (R557 to R561, R548). -/
structure Ras where
  queue : List RasRec := []
  seq : Nat := 0
  /-- Corrected words of each page in this aligned second; pages whose storm has been raised. -/
  ceCount : Tab Nat := []
  storm : List Nat := []
  /-- Uncorrectable words of each stack since cold reset. -/
  hideUe : Tab Nat := []
  second : Nat := 0
  /-- RAS_ZERO running: next address and end. -/
  zeroing : Option (Nat × Nat) := none
  /-- Records that reached the block while it was frozen and wait for it to resume. -/
  late : List RasRec := []
  /-- Lines whose next transfer over an on-package bridge fails after retry (R43). -/
  bridge : List Nat := []
  /-- Records to be sent as datagrams, and the time of the last one sent. -/
  notify : List RasRec := []
  lastSent : Option Nat := none
  /-- Start of the patrol pass under way. -/
  scrubFrom : Nat := 0
deriving DecidableEq, Repr

/-- Memory: stored data bytes, stored check-bit differences of protected words, valid lines (R542 to R549). -/
structure Memory where
  /-- Stored data bytes, addresses rising, no entry 0 (an unlisted byte is 0: R546, R547). -/
  cells : List Host.Cell := []
  /-- Stored check bits of a word XOR check_bits of its stored data, by word number; no entry 0. -/
  ecc : List (Nat × Byte) := []
  /-- Lines of seat memory and Hide whose valid bit is 1, rising. -/
  valid : List Nat := []
deriving DecidableEq, Repr

/-- Result of a master's access, as the master sees it. -/
structure Response where
  data : List Byte := []
  poisoned : Bool := false
  /-- Load access fault of a control core, with mtval (R555). -/
  fault : Option Nat := none
deriving DecidableEq, Repr

end Sys2Proof.Machine
end

