-- ==== Sys2Proof/Machine/Ecc.lean ====
section
/-! DEFINITION. The SECDED code of R542 to R544 and the raw contents of memory (R547). -/

namespace Sys2Proof.Machine
open Sys2Proof

/-- Positions of the data bits: the numbers from 1 to 71 that are not powers of two (R542). -/
def posList : List Nat := (List.range 72).filter (fun p => decide (3 ≤ p) && (p &&& (p - 1)) != 0)

/-- Position of data bit i (R542 pos). -/
def pos (i : Nat) : Nat := posList.getD i 0

/-- Data bit at a position, if one stands there. -/
def dataAt (s : Nat) : Option Nat := (List.range 64).find? (fun i => pos i == s)

/-- Check bit j, for j from 0 to 6 (R542). -/
def checkBit (d j : Nat) : Bool :=
  (List.range 64).foldl (fun b i => b ^^ (d.testBit i && (pos i).testBit j)) false

/-- The eight check bits of a word (R542 check_bits). -/
def checkBits (d : Nat) : Nat :=
  let c := (List.range 7).foldl (fun c j => c ||| (b2n (checkBit d j) <<< j)) 0
  c ||| (b2n (parityNat 64 d ^^ parityNat 8 c) <<< 7)

/-- Syndrome of a word read as data and check bits (R542 syndrome). -/
def syndrome (d c : Nat) : Nat :=
  let s := (checkBits d ^^^ c) &&& 0x7F
  (b2n (parityNat 64 d ^^ parityNat 8 c) <<< 7) ||| s

/-- The syndrome of a word whose stored check bits differ from those of its stored data by `x`. -/
def synOf (x : Nat) : Nat := (b2n (parityNat 8 x) <<< 7) ||| (x &&& 0x7F)

/-- Outcomes of R543. -/
inductive WordClass where
  | good | fixCheck | fixData (i : Nat) | poisoned | bad
deriving DecidableEq, Repr

/-- Classification by syndrome (R543). -/
def classify (syn : Nat) : WordClass :=
  let s := syn &&& 0x7F
  if syn.testBit 7 then
    if s = 0 then .fixCheck
    else if s &&& (s - 1) = 0 then .fixCheck
    else if s = 0x7F then .poisoned
    else match dataAt s with
      | some i => .fixData i
      | none => .bad
  else if s = 0 then .good else .bad

/-- Was the word corrected? -/
def WordClass.corrected : WordClass → Bool
  | .fixCheck => true
  | .fixData _ => true
  | _ => false

/-- Does the word make its line poisoned for a reader (R553)? -/
def WordClass.lost : WordClass → Bool
  | .poisoned => true
  | .bad => true
  | _ => false

/-- Put a byte, keeping addresses rising and no 0 entry. -/
def putCell (c : List Host.Cell) (a : Nat) (b : Byte) : List Host.Cell :=
  if b = 0 then Tab.del c a else Tab.set c a b

/-- Put bytes from an address upward. -/
def putCells : List Host.Cell → Nat → List Byte → List Host.Cell
  | c, _, [] => c
  | c, a, b :: t => putCells (putCell c a b) (a + 1) t

/-- Memory is in form: addresses rising, no entry equal to what an unlisted one reads as. -/
def Memory.wf (m : Memory) : Bool :=
  Tab.wf m.cells && m.cells.all (fun e => e.2 != 0) && Tab.wf m.ecc && m.ecc.all (fun e => e.2 != 0) && rising m.valid

/-- Stored bytes. -/
def Memory.raw (m : Memory) (a n : Nat) : List Byte := (List.range n).map (fun i => Tab.getD m.cells (a + i) 0)
/-- Stored check-bit difference of word `w`. -/
def Memory.disc (m : Memory) (w : Nat) : Nat := (Tab.getD m.ecc w 0).toNat
/-- Write stored bytes. -/
def Memory.putRaw (m : Memory) (a : Nat) (l : List Byte) : Memory := { m with cells := putCells m.cells a l }
/-- Set the check-bit difference of a word. -/
def Memory.putDisc (m : Memory) (w x : Nat) : Memory := { m with ecc := putCell m.ecc w (BitVec.ofNat 8 x) }
/-- Set a line's valid bit. -/
def Memory.setValid (m : Memory) (l : Nat) : Memory := { m with valid := insNat m.valid l }

/-- Clear a line: valid bit 0, which reads as zeros (R547, R548). -/
def Memory.clearLine (m : Memory) (l : Nat) : Memory :=
  { cells := m.cells.filter (fun e => e.1 / 64 != l), ecc := m.ecc.filter (fun e => e.1 / 8 != l), valid := delNat m.valid l }

/-- Clear every line from `lo` up to `hi - 1` (R548). -/
def Memory.clearLines (m : Memory) (lo hi : Nat) : Memory :=
  let out := fun l => !(decide (lo ≤ l) && decide (l < hi))
  { cells := m.cells.filter (fun e => out (e.1 / 64)), ecc := m.ecc.filter (fun e => out (e.1 / 8)),
    valid := m.valid.filter out }

/-- Class of word `w`. -/
def Memory.wclass (m : Memory) (w : Nat) : WordClass := classify (synOf (m.disc w))

/-- Data of word `w` as a reader gets it after correction. -/
def Memory.word (m : Memory) (w : Nat) : List Byte :=
  let d := m.raw (8 * w) 8
  match m.wclass w with
  | .fixData i => natLe 8 (leNat d ^^^ (1 <<< i))
  | _ => d

/-- Flip bits of the stored codeword of a word: data in bits [63:0], check bits in bits [71:64]. -/
def Memory.flip (m : Memory) (w : Nat) (mask : Nat) : Memory :=
  let dm := mask % 2 ^ 64
  let m1 := m.putRaw (8 * w) (natLe 8 (leNat (m.raw (8 * w) 8) ^^^ dm))
  m1.putDisc w (m.disc w ^^^ (mask >>> 64) % 256 ^^^ checkBits dm)

/-- Write the whole line poisoned, data kept (R544). -/
def Memory.poisonLine (m : Memory) (l : Nat) : Memory :=
  (List.range 8).foldl (fun m i => m.putDisc (8 * l + i) 0x7F) m

/-- Some word of the line is poisoned or uncorrectable. -/
def Memory.lineLost (m : Memory) (l : Nat) : Bool := (List.range 8).any (fun i => (m.wclass (8 * l + i)).lost)

end Sys2Proof.Machine
end

