-- ==== Sys2Proof/Machine/RegTable.lean ====
section
/-! DEFINITION. The register pages: blocks and their pages (R52), the registers the model stores and their access codes and reset
values (R15, R18, R55 and each chapter's register tables). A field whose value follows from other state is not stored: it is
computed when it is read. -/

namespace Sys2Proof.Machine
open Sys2Proof

/-- The blocks of R52, and the function pages. -/
inductive Blk where
  | clk | pwr | ras | brand | mgmt | holdup | ctxPool | tack | latigo | currier | saddle | seatCtl | treeCore | keeper | lacing | engine | skiver | hideCtl | awl | edger | rein | link | buckle | fn
deriving DecidableEq, Repr

/-- Type code (R52). -/
def Blk.type : Blk → Nat
  | .clk => 0x14
  | .pwr => 0x15
  | .ras => 0x16
  | .brand => 0x12
  | .mgmt => 0x13
  | .holdup => 0x17
  | .ctxPool => 0x18
  | .tack => 0xb
  | .latigo => 0xe
  | .currier => 0x9
  | .saddle => 0xd
  | .seatCtl => 0x6
  | .treeCore => 0x1
  | .keeper => 0x3
  | .lacing => 0x4
  | .engine => 0x2
  | .skiver => 0x5
  | .hideCtl => 0x7
  | .awl => 0x8
  | .edger => 0xa
  | .rein => 0xc
  | .link => 0xf
  | .buckle => 0x10
  | .fn => 0x11

/-- First page (R52); function pages are numbered from 0x1000 on, so that page p starts at offset p × 0x1_0000. -/
def Blk.first : Blk → Nat
  | .clk => 0x0
  | .pwr => 0x1
  | .ras => 0x2
  | .brand => 0x3
  | .mgmt => 0x4
  | .holdup => 0x5
  | .ctxPool => 0x6
  | .tack => 0x7
  | .latigo => 0x8
  | .currier => 0x9
  | .saddle => 0xa
  | .seatCtl => 0xc
  | .treeCore => 0x10
  | .keeper => 0x20
  | .lacing => 0x30
  | .engine => 0x40
  | .skiver => 0x80
  | .hideCtl => 0xc0
  | .awl => 0xd0
  | .edger => 0x100
  | .rein => 0x140
  | .link => 0x1c0
  | .buckle => 0x1e0
  | .fn => 0x1000

/-- Instances (R52). -/
def Blk.count : Blk → Nat
  | .clk => 1
  | .pwr => 1
  | .ras => 1
  | .brand => 1
  | .mgmt => 1
  | .holdup => 1
  | .ctxPool => 1
  | .tack => 1
  | .latigo => 1
  | .currier => 1
  | .saddle => 2
  | .seatCtl => 2
  | .treeCore => 8
  | .keeper => 16
  | .lacing => 4
  | .engine => 64
  | .skiver => 64
  | .hideCtl => 16
  | .awl => 16
  | .edger => 48
  | .rein => 96
  | .link => 32
  | .buckle => 4
  | .fn => 1024

/-- Bits of INT_STAT that every instance has (each chapter). -/
def Blk.intMask : Blk → Nat
  | .clk => 3
  | .pwr => 15
  | .ras => 63
  | .brand => 1
  | .mgmt => 15
  | .holdup => 7
  | .ctxPool => 1
  | .tack => 15
  | .latigo => 15
  | .currier => 31
  | .saddle => 3
  | .seatCtl => 3
  | .treeCore => 1
  | .keeper => 3
  | .lacing => 1
  | .engine => 1
  | .skiver => 3
  | .hideCtl => 7
  | .awl => 1
  | .edger => 1
  | .rein => 3
  | .link => 31
  | .buckle => 3
  | .fn => 31

/-- Bits of ERR_STAT (each chapter). -/
def Blk.errMask : Blk → Nat
  | .clk => 1
  | .pwr => 1
  | .ras => 31
  | .brand => 1
  | .mgmt => 1
  | .holdup => 0
  | .ctxPool => 0
  | .tack => 7
  | .latigo => 3
  | .currier => 3
  | .saddle => 3
  | .seatCtl => 3
  | .treeCore => 1
  | .keeper => 1
  | .lacing => 1
  | .engine => 7
  | .skiver => 1
  | .hideCtl => 3
  | .awl => 1
  | .edger => 1
  | .rein => 1
  | .link => 7
  | .buckle => 1
  | .fn => 0

/-- Every block. -/
def Blk.all : List Blk :=
  [.clk, .pwr, .ras, .brand, .mgmt, .holdup, .ctxPool, .tack, .latigo, .currier, .saddle, .seatCtl, .treeCore, .keeper, .lacing, .engine, .skiver, .hideCtl, .awl, .edger, .rein, .link, .buckle, .fn]

/-- Page number of an instance. -/
def Blk.page (b : Blk) (n : Nat) : Nat := b.first + n

/-- Which block and instance a page belongs to. -/
def blkOfPage (p : Nat) : Option (Blk × Nat) :=
  (Blk.all.find? (fun b => decide (b.first ≤ p) && decide (p < b.first + b.count))).map (fun b => (b, p - b.first))

/-- PAGE of an error record and SRC_INDEX of a message: the block page number, or 0x400 + f (R557). -/
def pageCode (p : Nat) : Nat := if 0x1000 ≤ p then 0x400 + (p - 0x1000) else p

/-- INT_STAT bits of a page; BUCKLE_0 adds four (R516). -/
def intMaskOf (b : Blk) (n : Nat) : Nat := if b == .buckle && n == 0 then b.intMask ||| 0x3C else b.intMask

/-- One register, or an array of them, that the model stores. -/
structure RegDef where
  off : Nat
  count : Nat := 1
  stride : Nat := 4
  /-- One copy for each value of the page's select register. -/
  bank : Bool := false
  reset : Nat := 0
  /-- Bits a write stores. -/
  rw : Nat := 0
  /-- Bits only the hardware writes. -/
  st : Nat := 0
  /-- Bits a write of 1 clears. -/
  w1c : Nat := 0
  /-- Bits a block soft reset keeps. -/
  kept : Nat := 0
deriving DecidableEq, Repr

/-- Names a register: its block and offset. -/
structure RegId where
  blk : Blk
  off : Nat
deriving DecidableEq, Repr

namespace R
/-- blkCtl (R55). -/
abbrev blkCtl : Nat := 0x8
/-- intStat (R55). -/
abbrev intStat : Nat := 0x10
/-- intEn (R55). -/
abbrev intEn : Nat := 0x14
/-- intVec (R55). -/
abbrev intVec : Nat := 0x1c
/-- errStat (R55). -/
abbrev errStat : Nat := 0x20
/-- errEn (R55). -/
abbrev errEn : Nat := 0x24
/-- errAddrLo (R55). -/
abbrev errAddrLo : Nat := 0x28
/-- errAddrHi (R55). -/
abbrev errAddrHi : Nat := 0x2c
/-- eccFlipLo (R55). -/
abbrev eccFlipLo : Nat := 0x30
/-- eccFlipHi (R55). -/
abbrev eccFlipHi : Nat := 0x34
/-- eccFlipCtl (R55). -/
abbrev eccFlipCtl : Nat := 0x38
/-- cntSel (R55). -/
abbrev cntSel : Nat := 0x40
/-- ctxPoolBaseLo. -/
def ctxPoolBaseLo : RegId := ⟨.ctxPool, 0x100⟩
/-- ctxPoolBaseHi. -/
def ctxPoolBaseHi : RegId := ⟨.ctxPool, 0x104⟩
/-- tblBaseLo. -/
def tblBaseLo : RegId := ⟨.ctxPool, 0x110⟩
/-- tblBaseHi. -/
def tblBaseHi : RegId := ⟨.ctxPool, 0x114⟩
/-- updBaseLo. -/
def updBaseLo : RegId := ⟨.ctxPool, 0x120⟩
/-- updBaseHi. -/
def updBaseHi : RegId := ⟨.ctxPool, 0x124⟩
/-- sqBaseLo_i. -/
def sqBaseLo (i : Nat) : RegId := ⟨.fn, 0x400 + 32 * i⟩
/-- sqBaseHi_i. -/
def sqBaseHi (i : Nat) : RegId := ⟨.fn, 0x404 + 32 * i⟩
/-- sqCfg_i. -/
def sqCfg (i : Nat) : RegId := ⟨.fn, 0x408 + 32 * i⟩
/-- sqTail_i. -/
def sqTail (i : Nat) : RegId := ⟨.fn, 0x40c + 32 * i⟩
/-- sqHead_i. -/
def sqHead (i : Nat) : RegId := ⟨.fn, 0x410 + 32 * i⟩
/-- cqBaseLo_i. -/
def cqBaseLo (i : Nat) : RegId := ⟨.fn, 0x500 + 32 * i⟩
/-- cqBaseHi_i. -/
def cqBaseHi (i : Nat) : RegId := ⟨.fn, 0x504 + 32 * i⟩
/-- cqCfg_i. -/
def cqCfg (i : Nat) : RegId := ⟨.fn, 0x508 + 32 * i⟩
/-- cqHead_i. -/
def cqHead (i : Nat) : RegId := ⟨.fn, 0x50c + 32 * i⟩
/-- cqTail_i. -/
def cqTail (i : Nat) : RegId := ⟨.fn, 0x510 + 32 * i⟩
/-- fnCtl. -/
def fnCtl : RegId := ⟨.fn, 0x100⟩
/-- fnCtxLimit. -/
def fnCtxLimit : RegId := ⟨.fn, 0x10c⟩
/-- fnMsgAddrLo. -/
def fnMsgAddrLo : RegId := ⟨.fn, 0x118⟩
/-- fnMsgAddrHi. -/
def fnMsgAddrHi : RegId := ⟨.fn, 0x11c⟩
/-- fnIrqShape. -/
def fnIrqShape : RegId := ⟨.fn, 0x120⟩
/-- fnCqVec_i. -/
def fnCqVec (i : Nat) : RegId := ⟨.fn, 0x128 + 4 * i⟩
/-- reinCfg. -/
def reinCfg : RegId := ⟨.rein, 0x100⟩
/-- rqWeight. -/
def rqWeight : RegId := ⟨.rein, 0x114⟩
/-- rqCir. -/
def rqCir : RegId := ⟨.rein, 0x118⟩
/-- rqCbs. -/
def rqCbs : RegId := ⟨.rein, 0x11c⟩
/-- rqPir. -/
def rqPir : RegId := ⟨.rein, 0x120⟩
/-- rqPbs. -/
def rqPbs : RegId := ⟨.rein, 0x124⟩
/-- kprCfg. -/
def kprCfg : RegId := ⟨.keeper, 0x100⟩
/-- lacCfg. -/
def lacCfg : RegId := ⟨.lacing, 0x100⟩
/-- engCfg. -/
def engCfg : RegId := ⟨.engine, 0x108⟩
/-- coreScratch. -/
def coreScratch : RegId := ⟨.treeCore, 0x100⟩
/-- skvSlotSel. -/
def skvSlotSel : RegId := ⟨.skiver, 0x108⟩
/-- tackCfg. -/
def tackCfg : RegId := ⟨.tack, 0x100⟩
/-- tackWmark. -/
def tackWmark : RegId := ⟨.tack, 0x104⟩
/-- tackLate. -/
def tackLate : RegId := ⟨.tack, 0x108⟩
/-- objBaseLo. -/
def objBaseLo : RegId := ⟨.tack, 0x110⟩
/-- objBaseHi. -/
def objBaseHi : RegId := ⟨.tack, 0x114⟩
/-- objCfg. -/
def objCfg : RegId := ⟨.tack, 0x118⟩
/-- poolSeatBase. -/
def poolSeatBase : RegId := ⟨.tack, 0x120⟩
/-- poolSeatLen. -/
def poolSeatLen : RegId := ⟨.tack, 0x124⟩
/-- poolHide. -/
def poolHide : RegId := ⟨.tack, 0x128⟩
/-- stageBase. -/
def stageBase : RegId := ⟨.tack, 0x12c⟩
/-- stageLen. -/
def stageLen : RegId := ⟨.tack, 0x130⟩
/-- quotaSel. -/
def quotaSel : RegId := ⟨.tack, 0x150⟩
/-- quotaLimit. -/
def quotaLimit : RegId := ⟨.tack, 0x154⟩
/-- nbrSel. -/
def nbrSel : RegId := ⟨.tack, 0x160⟩
/-- nbrBaseLo. -/
def nbrBaseLo : RegId := ⟨.tack, 0x164⟩
/-- nbrBaseHi. -/
def nbrBaseHi : RegId := ⟨.tack, 0x168⟩
/-- nbrLen. -/
def nbrLen : RegId := ⟨.tack, 0x16c⟩
/-- nbrLease. -/
def nbrLease : RegId := ⟨.tack, 0x170⟩
/-- hideStat. -/
def hideStat : RegId := ⟨.hideCtl, 0x104⟩
/-- hideMrSel. -/
def hideMrSel : RegId := ⟨.hideCtl, 0x108⟩
/-- awlCfg. -/
def awlCfg : RegId := ⟨.awl, 0x100⟩
/-- curCfg. -/
def curCfg : RegId := ⟨.currier, 0x100⟩
/-- curSlc. -/
def curSlc : RegId := ⟨.currier, 0x104⟩
/-- curGc. -/
def curGc : RegId := ⟨.currier, 0x108⟩
/-- curLdpc. -/
def curLdpc : RegId := ⟨.currier, 0x10c⟩
/-- curOnfi. -/
def curOnfi : RegId := ⟨.currier, 0x110⟩
/-- curFmt. -/
def curFmt : RegId := ⟨.currier, 0x114⟩
/-- curStat. -/
def curStat : RegId := ⟨.currier, 0x118⟩
/-- curChSel. -/
def curChSel : RegId := ⟨.currier, 0x11c⟩
/-- curWbufBaseLo. -/
def curWbufBaseLo : RegId := ⟨.currier, 0x130⟩
/-- curWbufBaseHi. -/
def curWbufBaseHi : RegId := ⟨.currier, 0x134⟩
/-- curWbufLen. -/
def curWbufLen : RegId := ⟨.currier, 0x138⟩
/-- curMapBaseLo. -/
def curMapBaseLo : RegId := ⟨.currier, 0x140⟩
/-- curMapBaseHi. -/
def curMapBaseHi : RegId := ⟨.currier, 0x144⟩
/-- curMapLen. -/
def curMapLen : RegId := ⟨.currier, 0x148⟩
/-- curProfileLo. -/
def curProfileLo : RegId := ⟨.currier, 0x150⟩
/-- curProfileHi. -/
def curProfileHi : RegId := ⟨.currier, 0x154⟩
/-- holdupBudget. -/
def holdupBudget : RegId := ⟨.holdup, 0x100⟩
/-- holdupFixed. -/
def holdupFixed : RegId := ⟨.holdup, 0x108⟩
/-- holdupPower. -/
def holdupPower : RegId := ⟨.holdup, 0x10c⟩
/-- holdupTprog. -/
def holdupTprog : RegId := ⟨.holdup, 0x110⟩
/-- holdupStat. -/
def holdupStat : RegId := ⟨.holdup, 0x114⟩
/-- holdupLastUs. -/
def holdupLastUs : RegId := ⟨.holdup, 0x118⟩
/-- holdupLastDebt. -/
def holdupLastDebt : RegId := ⟨.holdup, 0x11c⟩
/-- sbCfg. -/
def sbCfg : RegId := ⟨.saddle, 0x100⟩
/-- sbLate. -/
def sbLate : RegId := ⟨.saddle, 0x104⟩
/-- sbCacheBaseLo. -/
def sbCacheBaseLo : RegId := ⟨.saddle, 0x108⟩
/-- sbCacheBaseHi. -/
def sbCacheBaseHi : RegId := ⟨.saddle, 0x10c⟩
/-- sbCacheCfg. -/
def sbCacheCfg : RegId := ⟨.saddle, 0x110⟩
/-- lnkCfg. -/
def lnkCfg : RegId := ⟨.link, 0x100⟩
/-- lnkCred_i. -/
def lnkCred (i : Nat) : RegId := ⟨.link, 0x110 + 4 * i⟩
/-- bklCfg. -/
def bklCfg : RegId := ⟨.buckle, 0x100⟩
/-- bklLaserLim. -/
def bklLaserLim : RegId := ⟨.buckle, 0x108⟩
/-- bklLaser_i. -/
def bklLaser (i : Nat) : RegId := ⟨.buckle, 0x110 + 4 * i⟩
/-- fabNode. -/
def fabNode : RegId := ⟨.buckle, 0x200⟩
/-- fabRouteSel. -/
def fabRouteSel : RegId := ⟨.buckle, 0x204⟩
/-- fabRoute. -/
def fabRoute : RegId := ⟨.buckle, 0x208⟩
/-- cmpCfg. -/
def cmpCfg : RegId := ⟨.buckle, 0x30c⟩
/-- mapBaseLo. -/
def mapBaseLo : RegId := ⟨.buckle, 0x310⟩
/-- mapBaseHi. -/
def mapBaseHi : RegId := ⟨.buckle, 0x314⟩
/-- mapLen. -/
def mapLen : RegId := ⟨.buckle, 0x318⟩
/-- mapCtl. -/
def mapCtl : RegId := ⟨.buckle, 0x31c⟩
/-- admSel. -/
def admSel : RegId := ⟨.buckle, 0x320⟩
/-- cmpSelftest. -/
def cmpSelftest : RegId := ⟨.buckle, 0x330⟩
/-- latCfg. -/
def latCfg : RegId := ⟨.latigo, 0x100⟩
/-- latDirBaseLo. -/
def latDirBaseLo : RegId := ⟨.latigo, 0x104⟩
/-- latDirBaseHi. -/
def latDirBaseHi : RegId := ⟨.latigo, 0x108⟩
/-- latDirLen. -/
def latDirLen : RegId := ⟨.latigo, 0x10c⟩
/-- latWinSel. -/
def latWinSel : RegId := ⟨.latigo, 0x110⟩
/-- latWinBaseLo. -/
def latWinBaseLo : RegId := ⟨.latigo, 0x114⟩
/-- latWinBaseHi. -/
def latWinBaseHi : RegId := ⟨.latigo, 0x118⟩
/-- latWinLen. -/
def latWinLen : RegId := ⟨.latigo, 0x11c⟩
/-- latWinDir. -/
def latWinDir : RegId := ⟨.latigo, 0x120⟩
/-- latWinCtl. -/
def latWinCtl : RegId := ⟨.latigo, 0x124⟩
/-- latExpSel. -/
def latExpSel : RegId := ⟨.latigo, 0x130⟩
/-- latExpBaseLo. -/
def latExpBaseLo : RegId := ⟨.latigo, 0x134⟩
/-- latExpBaseHi. -/
def latExpBaseHi : RegId := ⟨.latigo, 0x138⟩
/-- latExpLen. -/
def latExpLen : RegId := ⟨.latigo, 0x13c⟩
/-- latExpCtl. -/
def latExpCtl : RegId := ⟨.latigo, 0x140⟩
/-- latLease. -/
def latLease : RegId := ⟨.latigo, 0x148⟩
/-- latRegBaseLo. -/
def latRegBaseLo : RegId := ⟨.latigo, 0x150⟩
/-- latRegBaseHi. -/
def latRegBaseHi : RegId := ⟨.latigo, 0x154⟩
/-- latRegCount. -/
def latRegCount : RegId := ⟨.latigo, 0x158⟩
/-- nwinSel. -/
def nwinSel : RegId := ⟨.latigo, 0x160⟩
/-- nwinMap. -/
def nwinMap : RegId := ⟨.latigo, 0x164⟩
/-- nwinLease. -/
def nwinLease : RegId := ⟨.latigo, 0x168⟩
/-- latSuspect. -/
def latSuspect : RegId := ⟨.latigo, 0x178⟩
/-- rasStat. -/
def rasStat : RegId := ⟨.ras, 0x100⟩
/-- rasThresh. -/
def rasThresh : RegId := ⟨.ras, 0x130⟩
/-- rasScrub. -/
def rasScrub : RegId := ⟨.ras, 0x134⟩
/-- rasZeroBaseLo. -/
def rasZeroBaseLo : RegId := ⟨.ras, 0x140⟩
/-- rasZeroBaseHi. -/
def rasZeroBaseHi : RegId := ⟨.ras, 0x144⟩
/-- rasZeroLen. -/
def rasZeroLen : RegId := ⟨.ras, 0x148⟩
/-- rasZeroCtl. -/
def rasZeroCtl : RegId := ⟨.ras, 0x14c⟩
/-- rasNotify. -/
def rasNotify : RegId := ⟨.ras, 0x160⟩
/-- rasTpl_i. -/
def rasTpl (i : Nat) : RegId := ⟨.ras, 0x180 + 4 * i⟩
/-- brdBootStat. -/
def brdBootStat : RegId := ⟨.brand, 0x100⟩
/-- brdArbCommit. -/
def brdArbCommit : RegId := ⟨.brand, 0x108⟩
/-- brdRevoke. -/
def brdRevoke : RegId := ⟨.brand, 0x10c⟩
/-- brdKeyAddrLo. -/
def brdKeyAddrLo : RegId := ⟨.brand, 0x110⟩
/-- brdKeyAddrHi. -/
def brdKeyAddrHi : RegId := ⟨.brand, 0x114⟩
/-- brdKeyProg. -/
def brdKeyProg : RegId := ⟨.brand, 0x118⟩
/-- brdExtAddrLo. -/
def brdExtAddrLo : RegId := ⟨.brand, 0x120⟩
/-- brdExtAddrHi. -/
def brdExtAddrHi : RegId := ⟨.brand, 0x124⟩
/-- brdExtend. -/
def brdExtend : RegId := ⟨.brand, 0x128⟩
/-- brdQuoteAddrLo. -/
def brdQuoteAddrLo : RegId := ⟨.brand, 0x130⟩
/-- brdQuoteAddrHi. -/
def brdQuoteAddrHi : RegId := ⟨.brand, 0x134⟩
/-- brdQuote. -/
def brdQuote : RegId := ⟨.brand, 0x138⟩
/-- brdMrSel. -/
def brdMrSel : RegId := ⟨.brand, 0x160⟩
/-- brdDebug. -/
def brdDebug : RegId := ⟨.brand, 0x1c0⟩
/-- brdRcvCfg. -/
def brdRcvCfg : RegId := ⟨.brand, 0x200⟩
/-- brdRcvPeer. -/
def brdRcvPeer : RegId := ⟨.brand, 0x204⟩
/-- brdRcvAddrLo. -/
def brdRcvAddrLo : RegId := ⟨.brand, 0x208⟩
/-- brdRcvAddrHi. -/
def brdRcvAddrHi : RegId := ⟨.brand, 0x20c⟩
/-- brdRcvGen. -/
def brdRcvGen : RegId := ⟨.brand, 0x210⟩
/-- brdRcvFence. -/
def brdRcvFence : RegId := ⟨.brand, 0x214⟩
/-- mgmtCfg. -/
def mgmtCfg : RegId := ⟨.mgmt, 0x100⟩
/-- mgmtStat. -/
def mgmtStat : RegId := ⟨.mgmt, 0x104⟩
/-- mgmtTxBaseLo. -/
def mgmtTxBaseLo : RegId := ⟨.mgmt, 0x110⟩
/-- mgmtTxBaseHi. -/
def mgmtTxBaseHi : RegId := ⟨.mgmt, 0x114⟩
/-- mgmtTxCfg. -/
def mgmtTxCfg : RegId := ⟨.mgmt, 0x118⟩
/-- mgmtTxTail. -/
def mgmtTxTail : RegId := ⟨.mgmt, 0x11c⟩
/-- mgmtTxHead. -/
def mgmtTxHead : RegId := ⟨.mgmt, 0x120⟩
/-- mgmtRxBaseLo. -/
def mgmtRxBaseLo : RegId := ⟨.mgmt, 0x130⟩
/-- mgmtRxBaseHi. -/
def mgmtRxBaseHi : RegId := ⟨.mgmt, 0x134⟩
/-- mgmtRxCfg. -/
def mgmtRxCfg : RegId := ⟨.mgmt, 0x138⟩
/-- mgmtRxTail. -/
def mgmtRxTail : RegId := ⟨.mgmt, 0x13c⟩
/-- mgmtRxHead. -/
def mgmtRxHead : RegId := ⟨.mgmt, 0x140⟩
/-- ccEntryLo. -/
def ccEntryLo : RegId := ⟨.mgmt, 0x208⟩
/-- ccEntryHi. -/
def ccEntryHi : RegId := ⟨.mgmt, 0x20c⟩
/-- ccInboxHi_i. -/
def ccInboxHi (i : Nat) : RegId := ⟨.mgmt, 0x404 + 16 * i⟩
/-- ccInboxStat_i. -/
def ccInboxStat (i : Nat) : RegId := ⟨.mgmt, 0x408 + 16 * i⟩
/-- clkStat. -/
def clkStat : RegId := ⟨.clk, 0x100⟩
/-- clkMeasSel. -/
def clkMeasSel : RegId := ⟨.clk, 0x104⟩
/-- pwrRamp. -/
def pwrRamp : RegId := ⟨.pwr, 0x100⟩
/-- pwrLimit. -/
def pwrLimit : RegId := ⟨.pwr, 0x104⟩
/-- pwrIlim. -/
def pwrIlim : RegId := ⟨.pwr, 0x108⟩
/-- pwrTherm. -/
def pwrTherm : RegId := ⟨.pwr, 0x10c⟩
/-- pwrStat. -/
def pwrStat : RegId := ⟨.pwr, 0x110⟩
/-- pwrVdd_i. -/
def pwrVdd (i : Nat) : RegId := ⟨.pwr, 0x114 + 4 * i⟩
/-- pwrMaxpt. -/
def pwrMaxpt : RegId := ⟨.pwr, 0x11c⟩
/-- pwrTempSel. -/
def pwrTempSel : RegId := ⟨.pwr, 0x120⟩
end R

/-- Registers of the common layout (R55). -/
def commonRegs (b : Blk) (n : Nat) : List RegDef := [
  { off := 0x8, rw := 5, kept := 1 },
  { off := 0x10, w1c := intMaskOf b n },
  { off := 0x14, rw := intMaskOf b n },
  { off := 0x1c, rw := 0xff03ff },
  { off := 0x20, w1c := b.errMask },
  { off := 0x24, reset := b.errMask, rw := b.errMask },
  { off := 0x28, st := 0xffffffff },
  { off := 0x2c, st := 0xfffff },
  { off := 0x30, rw := 0xffffffff },
  { off := 0x34, rw := 0xffffffff },
  { off := 0x38, rw := 0xff01 },
  { off := 0x40, rw := 0xff } ]

/-- Stored registers of clk pages. -/
def regsClk : List RegDef := [
  { off := 0x100, st := 0x3ff },
  { off := 0x104, rw := 0x1f } ]

/-- Stored registers of pwr pages. -/
def regsPwr : List RegDef := [
  { off := 0x100, reset := 0x1e00fa, rw := 0xff01ff },
  { off := 0x104, reset := 0x960, rw := 0xfff },
  { off := 0x108, reset := 0x44c, rw := 0x7ff },
  { off := 0x10c, reset := 0x4b5f64, rw := 0xffffff },
  { off := 0x110, st := 0xfff00f7 },
  { off := 0x114, count := 2, stride := 4, reset := 0x2d0, st := 0x7ff03ff },
  { off := 0x11c, rw := 7 },
  { off := 0x120, rw := 0x3f } ]

/-- Stored registers of ras pages. -/
def regsRas : List RegDef := [
  { off := 0x100, w1c := 0x100 },
  { off := 0x130, reset := 0x2003e8, rw := 0xffffff },
  { off := 0x134, reset := 0x18, rw := 0xff },
  { off := 0x140, rw := 0xffffffff },
  { off := 0x144, rw := 0xfffff },
  { off := 0x148, rw := 0x1ffffff },
  { off := 0x14c, st := 0x70003 },
  { off := 0x160, reset := 0x64000c, rw := 0xffff003f },
  { off := 0x180, count := 11, stride := 4, rw := 0xffffffff } ]

/-- Stored registers of brand pages. -/
def regsBrand : List RegDef := [
  { off := 0x100, st := 0x7fffff, kept := 0x7fffff },
  { off := 0x108, st := 0x700 },
  { off := 0x10c, st := 0x70000 },
  { off := 0x110, rw := 0xffffffff },
  { off := 0x114, rw := 0xfffff },
  { off := 0x118, rw := 3, st := 0x70100 },
  { off := 0x120, rw := 0xffffffff },
  { off := 0x124, rw := 0xfffff },
  { off := 0x128, rw := 7, st := 0x70100 },
  { off := 0x130, rw := 0xffffffff },
  { off := 0x134, rw := 0xfffff },
  { off := 0x138, st := 0x70003 },
  { off := 0x160, rw := 7 },
  { off := 0x1c0, st := 2, kept := 2 },
  { off := 0x200, rw := 0x8007ffff, kept := 0x8007ffff },
  { off := 0x204, rw := 0xfff, kept := 0xfff },
  { off := 0x208, rw := 0xffffffff, kept := 0xffffffff },
  { off := 0x20c, rw := 0xfffff, kept := 0xfffff },
  { off := 0x210, rw := 0xffff, kept := 0xffff },
  { off := 0x214, rw := 0xffffffff, kept := 0xffffffff } ]

/-- Stored registers of mgmt pages. -/
def regsMgmt : List RegDef := [
  { off := 0x100, rw := 7 },
  { off := 0x104, st := 3 },
  { off := 0x110, rw := 0xffffffff },
  { off := 0x114, rw := 0xffffffff },
  { off := 0x118, rw := 0x8000001f },
  { off := 0x11c, rw := 0xfff },
  { off := 0x120, st := 0xfff },
  { off := 0x130, rw := 0xffffffff },
  { off := 0x134, rw := 0xffffffff },
  { off := 0x138, rw := 0x8000001f },
  { off := 0x13c, rw := 0xfff },
  { off := 0x140, st := 0xfff },
  { off := 0x208, rw := 0xfffffffc },
  { off := 0x20c, rw := 0xffffffff },
  { off := 0x404, count := 16, stride := 16 },
  { off := 0x408, count := 16, stride := 16, w1c := 0x200 } ]

/-- Stored registers of holdup pages. -/
def regsHoldup : List RegDef := [
  { off := 0x100, rw := 0xffffffff, kept := 0xffffffff },
  { off := 0x108, reset := 0x16e360, rw := 0xffffffff, kept := 0xffffffff },
  { off := 0x10c, reset := 0xfa, rw := 0xffff, kept := 0xffff },
  { off := 0x110, rw := 0xffffffff, kept := 0xffffffff },
  { off := 0x114, st := 2 },
  { off := 0x118, st := 0xffffffff },
  { off := 0x11c, st := 0xffffffff } ]

/-- Stored registers of ctxPool pages. -/
def regsCtxPool : List RegDef := [
  { off := 0x100, rw := 0xffffffff },
  { off := 0x104, rw := 0xfffff },
  { off := 0x110, rw := 0xffffffff },
  { off := 0x114, rw := 0xfffff },
  { off := 0x120, rw := 0xffffffff },
  { off := 0x124, rw := 0xfffff } ]

/-- Stored registers of tack pages. -/
def regsTack : List RegDef := [
  { off := 0x100, reset := 0x10206421, rw := 0xffffffff },
  { off := 0x104, reset := 0x505a505a, rw := 0xffffffff },
  { off := 0x108, reset := 0x41200c8, rw := 0x71fffff },
  { off := 0x110, rw := 0xffffffff },
  { off := 0x114, rw := 0xfffff },
  { off := 0x118, reset := 0x10, rw := 0x1f },
  { off := 0x120, rw := 0xfffff },
  { off := 0x124, rw := 0x1fffff },
  { off := 0x128, rw := 0x7f },
  { off := 0x12c, rw := 0xfffff },
  { off := 0x130, reset := 0x40, rw := 0x1fff },
  { off := 0x150, rw := 0x303ff },
  { off := 0x154, bank := true, reset := 0xffffffff, rw := 0xffffffff, kept := 0xffffffff },
  { off := 0x160, rw := 0x3f },
  { off := 0x164, bank := true, rw := 0xffffffff },
  { off := 0x168, bank := true, rw := 0xfffff },
  { off := 0x16c, bank := true, rw := 0xffffffff },
  { off := 0x170, bank := true, rw := 0xffffffff } ]

/-- Stored registers of latigo pages. -/
def regsLatigo : List RegDef := [
  { off := 0x100, reset := 0x84, rw := 0xff },
  { off := 0x104, rw := 0xffffffff },
  { off := 0x108, rw := 0xfffff },
  { off := 0x10c, rw := 0xfff },
  { off := 0x110, rw := 0xf },
  { off := 0x114, bank := true, rw := 0xffffffff },
  { off := 0x118, bank := true, rw := 0xfffff },
  { off := 0x11c, bank := true, rw := 0x3ffff },
  { off := 0x120, bank := true, rw := 0xfffffff },
  { off := 0x124, bank := true, rw := 1 },
  { off := 0x130, rw := 0xff },
  { off := 0x134, bank := true, rw := 0xffffffff },
  { off := 0x138, bank := true, rw := 0xfffff },
  { off := 0x13c, bank := true, rw := 0xffffffff },
  { off := 0x140, bank := true, rw := 7 },
  { off := 0x148, reset := 4, rw := 7 },
  { off := 0x150, rw := 0xffffffff },
  { off := 0x154, rw := 0xfffff },
  { off := 0x158, rw := 0x1fff },
  { off := 0x160, rw := 0x3ff },
  { off := 0x164, bank := true, rw := 0xffffffff },
  { off := 0x168, bank := true, rw := 0xffffffff },
  { off := 0x178, rw := 0xffff } ]

/-- Stored registers of currier pages. -/
def regsCurrier : List RegDef := [
  { off := 0x100, reset := 0x990000, rw := 0xff03ff },
  { off := 0x104, reset := 0x800402, rw := 0xffffffff },
  { off := 0x108, reset := 0x3210, rw := 0xffff },
  { off := 0x10c, reset := 0x87828, rw := 0xfffff },
  { off := 0x110, reset := 0x6403, rw := 0xff03 },
  { off := 0x114, reset := 0xc, rw := 0x3f, st := 0x80000000, kept := 0x3f },
  { off := 0x118, st := 0xf },
  { off := 0x11c, rw := 0x3f },
  { off := 0x130, rw := 0xffffffff },
  { off := 0x134, rw := 0xfffff },
  { off := 0x138, reset := 0x600, rw := 0xffff },
  { off := 0x140, rw := 0xffffffff },
  { off := 0x144, rw := 0xfffff },
  { off := 0x148, reset := 0x400, rw := 0xffff },
  { off := 0x150, rw := 0xffffffff },
  { off := 0x154, rw := 0xfffff } ]

/-- Stored registers of saddle pages. -/
def regsSaddle : List RegDef := [
  { off := 0x100, reset := 0x104001, rw := 0xffff01 },
  { off := 0x104, reset := 0xc8, rw := 0xffff },
  { off := 0x108, rw := 0xffffffff },
  { off := 0x10c, rw := 0xfffff },
  { off := 0x110, reset := 0x10, rw := 0x1f } ]

/-- Stored registers of treeCore pages. -/
def regsTreeCore : List RegDef := [
  { off := 0x100, reset := 8, rw := 0x3f } ]

/-- Stored registers of keeper pages. -/
def regsKeeper : List RegDef := [
  { off := 0x100, reset := 0x4001, rw := 0xff01 } ]

/-- Stored registers of lacing pages. -/
def regsLacing : List RegDef := [
  { off := 0x100, reset := 8, rw := 0xf } ]

/-- Stored registers of engine pages. -/
def regsEngine : List RegDef := [
  { off := 0x108, reset := 0x40001, rw := 0xffff01 } ]

/-- Stored registers of skiver pages. -/
def regsSkiver : List RegDef := [
  { off := 0x108, rw := 0xf } ]

/-- Stored registers of hideCtl pages. -/
def regsHideCtl : List RegDef := [
  { off := 0x104, st := 0x3ff03, kept := 3 },
  { off := 0x108, rw := 0xff } ]

/-- Stored registers of awl pages. -/
def regsAwl : List RegDef := [
  { off := 0x100, reset := 0x400, rw := 0x7ff } ]

/-- Stored registers of rein pages. -/
def regsRein : List RegDef := [
  { off := 0x100, reset := 0x3e8, rw := 0x3ffffff },
  { off := 0x114, bank := true, reset := 0x10, rw := 0xfff },
  { off := 0x118, bank := true, reset := 0xffffffff, rw := 0xffffffff },
  { off := 0x11c, bank := true, reset := 0x100000, rw := 0xffffffff },
  { off := 0x120, bank := true, reset := 0xffffffff, rw := 0xffffffff },
  { off := 0x124, bank := true, reset := 0x100000, rw := 0xffffffff } ]

/-- Stored registers of link pages. -/
def regsLink : List RegDef := [
  { off := 0x100, reset := 0x3e80800, rw := 0xffff0f01 },
  { off := 0x110, count := 8, stride := 4, rw := 0xffff } ]

/-- Stored registers of buckle pages. -/
def regsBuckle : List RegDef := [
  { off := 0x100, rw := 3 },
  { off := 0x108, reset := 0x640, rw := 0xffff },
  { off := 0x110, count := 4, stride := 4, reset := 0x8000, st := 0x1ffff },
  { off := 0x200, rw := 0x80000fff },
  { off := 0x204, rw := 0xfff },
  { off := 0x208, bank := true, rw := 0x3f3f },
  { off := 0x30c, reset := 0xc80a02, rw := 0xffff1f0f },
  { off := 0x310, rw := 0xffffffff },
  { off := 0x314, rw := 0xfffff },
  { off := 0x318, rw := 0xffffffff },
  { off := 0x31c, st := 0x80000700 },
  { off := 0x320, rw := 0xfff },
  { off := 0x330, st := 0xff } ]

/-- Stored registers of fn pages. -/
def regsFn : List RegDef := [
  { off := 0x400, count := 8, stride := 32, rw := 0xffffffff },
  { off := 0x404, count := 8, stride := 32, rw := 0xffffffff },
  { off := 0x408, count := 8, stride := 32, rw := 0x8000071f },
  { off := 0x40c, count := 8, stride := 32, rw := 0xffff },
  { off := 0x410, count := 8, stride := 32, st := 0xffff },
  { off := 0x500, count := 8, stride := 32, rw := 0xffffffff },
  { off := 0x504, count := 8, stride := 32, rw := 0xffffffff },
  { off := 0x508, count := 8, stride := 32, rw := 0x8000011f },
  { off := 0x50c, count := 8, stride := 32, rw := 0xffff },
  { off := 0x510, count := 8, stride := 32, st := 0xffff },
  { off := 0x100, rw := 5, st := 2 },
  { off := 0x10c, reset := 0x1000, rw := 0x1fff },
  { off := 0x118, rw := 0xfffffff8 },
  { off := 0x11c, rw := 0xffffffff },
  { off := 0x120, reset := 0x1003e8, rw := 0xffffffff },
  { off := 0x128, count := 2, stride := 4, rw := 0xffffffff } ]

/-- Stored registers of a block from 0x0100 on. -/
def blockRegs : Blk → List RegDef
  | .clk => regsClk
  | .pwr => regsPwr
  | .ras => regsRas
  | .brand => regsBrand
  | .mgmt => regsMgmt
  | .holdup => regsHoldup
  | .ctxPool => regsCtxPool
  | .tack => regsTack
  | .latigo => regsLatigo
  | .currier => regsCurrier
  | .saddle => regsSaddle
  | .seatCtl => []
  | .treeCore => regsTreeCore
  | .keeper => regsKeeper
  | .lacing => regsLacing
  | .engine => regsEngine
  | .skiver => regsSkiver
  | .hideCtl => regsHideCtl
  | .awl => regsAwl
  | .edger => []
  | .rein => regsRein
  | .link => regsLink
  | .buckle => regsBuckle
  | .fn => regsFn

/-- The stored register at an offset of a page. -/
def regDef? (b : Blk) (n off : Nat) : Option RegDef :=
  (if off < 0x100 then commonRegs b n else blockRegs b).find? (fun d =>
    decide (d.off ≤ off) && decide (off < d.off + d.stride * d.count) && decide ((off - d.off) % d.stride = 0))

/-- Reset value of LNK_CRED_v.RX_ALLOC with four lanes to a port (R434). -/
def credReset (v : Nat) : Nat :=
  if v ≤ 3 then 256 else if v = 4 then 1024 else if v = 5 then 1024 else if v = 6 then 64 else 960

/-- Reset value of the register at an offset of a page (`eight`: eight lanes to a port). -/
def regReset (b : Blk) (n off : Nat) (eight : Bool) : Nat :=
  match regDef? b n off with
  | none => 0
  | some d =>
    if b == .link && d.off == 0x110 then credReset ((off - 0x110) / 4) * (if eight then 2 else 1)
    else d.reset

end Sys2Proof.Machine
end

