-- ==== Sys2Proof/Machine/TypesB.lean ====
section
/-! DEFINITION. State of tables, updates, searches, Keepers and Lacing (03 to 06). -/

namespace Sys2Proof.Machine
open Sys2Proof

/-- On-die state of the table unit (R90, R93, R95). The descriptors themselves are in memory at TBL_BASE. -/
structure TableUnit where
  /-- Reader count of slot s of handle h at 4h + s. -/
  readers : Tab Nat := []
  /-- Commands waiting in TABLE_RETIRE: context to (handle, slot). -/
  retires : Tab (Nat × Nat) := []
  /-- TABLE_PUBLISH whose image the unit is reading, which holds every other request back (R90): context, its incarnation. -/
  busy : Option (Nat × Nat) := none
deriving DecidableEq, Repr

/-- One record of an update batch: what was asked and what became of it (R201 to R207). -/
structure BatchRec where
  id : Nat
  list : Nat
  prev : Nat
  status : Status := .ok
  epoch : Nat := 0
  /-- Sent to its owner node and not yet answered (R209). -/
  waiting : Bool := false
  /-- Applied by another node, whose epoch has its own seals. -/
  foreign : Bool := false
deriving DecidableEq, Repr

/-- A running UPSERT_BATCH or DELETE_BATCH (R200 to R206). -/
structure Batch where
  coll : Nat
  upsert : Bool
  recs : List BatchRec
  out : Nat
  /-- Epoch in which this node applied its records, if it applied any. -/
  epoch : Option Nat := none
deriving DecidableEq, Repr

/-- A record applied here for another node: answered once its epoch has sealed (R206, R209). -/
structure FwdRec where
  coll : Nat
  id : Nat
  epoch : Nat
  node : Nat
  /-- The sender's own reference to the record. -/
  ref : Nat
  status : Status := .ok
deriving DecidableEq, Repr

/-- A seal that is due or running on a collection (R195 to R199). -/
structure Seal where
  /-- EPOCH_SEAL commands that complete with it. -/
  cmds : List Nat := []
  /-- A seal message: seal up to this epoch. -/
  upto : Option Nat := none
  /-- A follower has reported that it refuses this seal. -/
  refused : Bool := false
  /-- The timer made it due (R195). -/
  timer : Bool := false
deriving DecidableEq, Repr

/-- A rebuild of one list (R214 to R216). -/
structure Rebuild where
  coll : Nat
  list : Nat
  fn : Nat
  /-- The collection image it works under. -/
  img : List Byte := []
  /-- Commands that complete with it: contexts. -/
  cmds : List Nat := []
  /-- Started by the device itself (R214). -/
  auto : Bool := false
  promoted : Bool := false
  floor : Nat := 0
  cut : Nat := 0
  /-- The directory version that step 2 reads, bound while it reads (R94, R215). -/
  binds : List (Nat × Nat) := []
  /-- The directory entry step 2 read (R114). -/
  entry : List Byte := []
  /-- What steps 2 and 3 read, as the scan object (empty: not read yet) and refine object that step 4 writes. -/
  scanObj : List Byte := []
  refObj : List Byte := []
  /-- New directory entry, once the objects are written. -/
  newEntry : List Byte := []
  /-- Objects of the new segment (object numbers), freed if the rebuild ends without publishing. -/
  newObjs : List Nat := []
  /-- Published: version, retiring (handle, slot), old storage to free. -/
  published : Option Nat := none
  retiring : Option (Nat × Nat) := none
  oldObjs : List Nat := []
deriving DecidableEq, Repr

/-- Update logic of the CTX_POOL block (R185 to R219). -/
structure Updates where
  /-- Allocation pointer of the snapshot table (R191). -/
  snapPtr : Nat := 0
  /-- Event queue: collection, type, list. -/
  events : List (Nat × Nat × Nat) := []
  batches : Tab Batch := []
  fwd : List FwdRec := []
  /-- Forwarded records that wait for the table unit (R90): sender, its map generation, the record. -/
  fwdWait : List (Nat × Nat × FwdUpdate) := []
  /-- Commands waiting at step 1 of R196. -/
  heldBatches : List Nat := []
  seals : Tab Seal := []
  /-- Time of the last refused timer seal, by collection. -/
  refusedAt : Tab Nat := []
  /-- EPOCH_SEAL commands forwarded to the seal leader, waiting for its seal: context to (collection, open epoch then). -/
  forwarded : Tab (Nat × Nat) := []
  /-- Running rebuilds, by collection × 2^24 + list. -/
  rebuilds : Tab Rebuild := []
  /-- Lists under DELTA_PRESSURE whose rebuild has not published: collection × 2^24 + list. -/
  pressure : List Nat := []
  /-- Directory roots that rebuilds wrote: object numbers. -/
  roots : List Nat := []
  /-- Lists under EPOCH_AGED: raised by the last age sweep, and not rebuilt since (R218). -/
  aged : List Nat := []
  /-- Time of the last age sweep pass, by collection. -/
  sweptAt : Tab Nat := []
deriving DecidableEq, Repr

/-- Phases of a query (R131). -/
inductive QPhase where
  | waitCore | embed | coarse | candidate | rerankModel | filter | write | finished
deriving DecidableEq, Repr

/-- A candidate on its way to the result (R149, R168, R174). -/
structure Cand where
  key : Nat
  id : Nat
  /-- Segment position of an item of a sealed segment; address of a delta record. -/
  tag : Nat := 0
  list : Nat := 0
  tier : Nat := 0
  delta : Bool := false
  exact : Bool := false
  model : Bool := false
  /-- Partial-list index and position within it (R175). -/
  part : Nat := 0
  pos : Nat := 0
deriving DecidableEq, Repr

/-- A finished partial list waiting at Lacing (R171). -/
structure PList where
  ents : List Cand := []
  full : Bool := false
  lastKey : Nat := 0xFFFFFFFF
  tieTail : Nat := 0
deriving DecidableEq, Repr

/-- One shard of a fan-out (R156 to R160). -/
structure Shard where
  node : Nat
  /-- Status, flags, TIE_DROPPED and key of record K − 1 that it returned. -/
  result : Option (Status × Nat × Nat × Nat) := none
deriving DecidableEq, Repr

/-- Result of a coarse selection (R109 to R112, R136). -/
structure Probe where
  /-- Selected lists in probe order: key, list. -/
  sel : List (Nat × Nat) := []
  /-- Keys handed to the Keeper, in ascending centroid id. -/
  offered : List Nat := []
  ghostSkip : Bool := false
  few : Bool := false
  nans : Nat := 0
  bad : Nat := 0
  hops : Nat := 0
  limited : Bool := false
deriving DecidableEq, Repr

/-- The state of one query (R131 to R148). -/
structure Query where
  phase : QPhase := .waitCore
  core : Nat := 0
  lac : Nat := 0
  /-- Lacing pool slot held (R174). -/
  slot : Bool := false
  /-- Query vector, FP32 bits. -/
  vec : List Word := []
  /-- Probe order: key, list (R137). -/
  probes : List (Nat × Nat) := []
  coarseDone : Bool := false
  /-- What its keys give, once the GEMM that it shares has computed them (R133, R136). -/
  probe : Option Probe := none
  /-- Chain of its coarse selection: Keeper, first segment, segments; a 64-segment chain also holds the other Keeper of the core (R173). -/
  chain : Option (Nat × Nat × Nat) := none
  /-- Directory entries of the probed lists, as the CANDIDATE phase read them. -/
  ents : Tab (List Byte) := []
  /-- Streams made for the CANDIDATE phase; streams whose partial list has been merged. -/
  streams : Nat := 0
  merged : Nat := 0
  parts : Tab PList := []
  pool : List Cand := []
  tPool : Nat := 0
  /-- The ordered set handed on (R145), and its size before the filter. -/
  ordered : List Cand := []
  /-- Full vectors of the ordered set, for a model (R292). -/
  full : List (List Word) := []
  /-- Candidates evaluated by the filter, items scored, lists scanned. -/
  evaluated : Nat := 0
  scored : Nat := 0
  scanned : Nat := 0
  survivors : List Cand := []
  flags : Nat := 0
  status : Status := .ok
  tie : Nat := 0
  count : Nat := 0
  /-- Table slots bound by the running phase. -/
  binds : List (Nat × Nat) := []
  /-- It waits for a pool slot (R174). -/
  asked : Bool := false
  /-- Shards of its fan-out, in the order of the shard list. -/
  shards : List Shard := []
  /-- Time the query reached its present phase; for a query whose GEMM has run, the time of that. -/
  since : Nat := 0
deriving DecidableEq, Repr

/-- Where the copy bound by a stream lies (R138, R149 TIER). -/
inductive Place where
  | seat | hide (stack : Nat) | neighbour (ext : Nat) | flash (channel : Nat)
deriving DecidableEq, Repr

/-- A scan stream: one piece of one list (R139, R140, R167). -/
structure Stream where
  list : Nat := 0
  part : Nat := 0
  delta : Bool := false
  /-- Piece index within the sealed segment. -/
  piece : Nat := 0
  /-- Object number bound plus 1 (0 for none) and where its copy lies. -/
  obj : Nat := 0
  /-- The scan of its list has begun: the copy it will read, and where, are fixed (R138, R304). -/
  bound : Bool := false
  place : Place := .seat
  /-- Tier code of the copy it reads from. -/
  tier : Nat := 0
  /-- Segment positions [next, stop) still to be scored. -/
  next : Nat := 0
  stop : Nat := 0
  /-- Insert records that a delta piece found at its start: block, index in it (R213). -/
  recs : List (Nat × Nat) := []
  /-- Unit scanning it: engine number, once its scan has started. -/
  engine : Option Nat := none
  started : Bool := false
  /-- Stream opened on its stack or Edger. -/
  opened : Bool := false
  /-- KiB of tombstone store held there. -/
  tombKib : Nat := 0
  waitFrom : Nat := 0
  /-- Keeper number, first segment, segments (R165). -/
  chain : Option (Nat × Nat × Nat) := none
  limit : Nat := 0
  /-- Candidates scored and not yet examined at the gate. -/
  offered : List Cand := []
  /-- Admitted candidates that wait to be inserted, at most 16 (R169). -/
  queue : List Cand := []
  /-- The last NCLK cycle in which the gate examined candidates of the chain, and how many then. -/
  gateAt : Nat × Nat := (0, 0)
  /-- First NCLK cycle in which the chain can insert again (R165). -/
  insFrom : Nat := 0
  /-- Time at which its next read could be asked for (R322). -/
  readFrom : Nat := 0
  /-- The wait for its next tranche has been counted as late. -/
  late : Bool := false
  ents : List Cand := []
  tieTail : Nat := 0
  badKeys : Nat := 0
  /-- Threshold last sent to the scanner, and when (R170). -/
  thresh : Nat := 0xFFFFFFFF
  sentAt : Nat := 0
  /-- Everything scored: the end marker has been sent. -/
  ended : Bool := false
  /-- Number of its free values (log entry 3). -/
  seed : Nat := 0
deriving DecidableEq, Repr

/-- A search: a SEARCH or SEARCH_BATCH command, or a sub-search of another node (R129, R157). -/
structure Search where
  coll : Nat := 0
  /-- The bound collection descriptor image, 256 bytes (R94). -/
  image : List Byte := []
  k : Nat := 1
  nprobe : Nat := 1
  ef : Nat := 0
  f : Nat := 1
  rr : Nat := 0
  model : Bool := false
  fanout : Bool := false
  prescan : Bool := false
  hammingMax : Nat := 0
  /-- Queries as read from the descriptor: bytes of each. -/
  inputs : List (List Byte) := []
  format : Nat := 0
  filter : List Byte := []
  batch : Bool := false
  out : Nat := 0
  snap : Option Nat := none
  epoch : Nat := 0
  /-- Sub-search: coordinator node and transport tag. -/
  origin : Option (Nat × Nat) := none
  /-- It holds a read pin (R157). -/
  readPin : Bool := false
  /-- Sub-search: time by which it must have answered, and the map generation it carries. -/
  deadline : Option Nat := none
  mapGen : Nat := 0
  /-- Tables bound for the whole search. -/
  binds : List (Nat × Nat) := []
  started : Nat := 0
deriving DecidableEq, Repr

/-- All searches: a command's search has its context's index; a sub-search an index from 4096 on. -/
structure SearchState where
  all : Tab Search := []
  /-- Queries at 256 × search + query. -/
  queries : Tab Query := []
  /-- Streams at 32768 × (256 × search + query) + partial-list index. -/
  streams : Tab Stream := []
  /-- Core given to the previous query (R132), and Lacing unit of each die last chosen. -/
  lastCore : Nat := 7
  lastLac : Tab Nat := []
  /-- Engine of each core last given a piece (R255). -/
  lastEng : Tab Nat := []
deriving DecidableEq, Repr

/-- Keepers and Lacing units beyond what the streams and queries hold. -/
structure KeeperState where
  /-- Grant pointer of each Keeper (R166, R469). -/
  ptr : Tab Nat := []
  /-- Longest chain wait of each Keeper (R183). -/
  waitMax : Tab Nat := []
  /-- Rotating pointer for pool slots of each Lacing unit. -/
  lacPtr : Tab Nat := []
  /-- Rotating pointer of each Keeper's gate; the last cycle in which it examined candidates, and how many then (R169). -/
  gatePtr : Tab Nat := []
  gateAt : Tab (Nat × Nat) := []
deriving DecidableEq, Repr

end Sys2Proof.Machine
end

