-- ==== Sys2Proof/Machine/TypesC.lean ====
section
/-! DEFINITION. State of engines, barriers, Skivers and model runs (07, 08). -/

namespace Sys2Proof.Machine
open Sys2Proof

/-- A window of a tile program (R234). -/
structure Window where
  kind : Nat := 0
  base : Nat := 0
  len : Nat := 0
  write : Bool := false
deriving DecidableEq, Repr

/-- Who owns an engine (ENG_STAT.OWNER). -/
inductive EngOwner where
  | idle | kernel | group | reserved
deriving DecidableEq, Repr

/-- A stationary tile: where it was loaded from and in what form (R224, R225). -/
structure Tile where
  fmt : Nat := 0
  sparse : Bool := false
  cols : Nat := 0
  depth : Nat := 0
  off : Nat := 0
  /-- Weights as loaded: bytes of the elements and of the metadata or scales. -/
  data : List Byte := []
  extra : List Byte := []
  /-- Its weights are left open, as the free value of this number: nothing has loaded it, or more than a tile holds (log entry 17). -/
  loose : Option Nat := none
deriving DecidableEq, Repr

/-- A loop the issue unit is in: first instruction, length, times left after this one. -/
structure LoopFrame where
  first : Nat
  len : Nat
  left : Nat
deriving DecidableEq, Repr

/-- An asynchronous instruction that its unit has accepted and not yet performed (R236, R246, R574). -/
structure Pend where
  w : BitVec 128
  /-- Token it retires. -/
  tok : Option Nat := none
  /-- Source and destination offsets of a DMA transfer, X registers added; bytes of a row, rows, strides. -/
  src : Nat := 0
  dst : Nat := 0
  len : Nat := 0
  count : Nat := 0
  srcStride : Nat := 0
  dstStride : Nat := 0
  /-- Pieces of at most 4 KiB of a transfer that have been moved. -/
  pos : Nat := 0
deriving DecidableEq, Repr

/-- One engine (R221, R246, R248). -/
structure Engine where
  owner : EngOwner := .idle
  ctx : Nat := 0
  /-- Group it is reserved for or runs in: the run's number. -/
  group : Nat := 0
  pc : Nat := 0
  stalled : Bool := false
  ended : Bool := false
  /-- Tokens 0 to 15 that are busy. -/
  tokens : List Nat := []
  /-- Asynchronous instructions that wait for their data or their unit, in issue order. -/
  pend : List Pend := []
  x : Tab Word := []
  v : Tab (List Word) := []
  loops : List LoopFrame := []
  /-- Accumulator rows at 512 × bank + row, 512 columns each; zero where not listed. -/
  acc : Tab (List Word) := []
  /-- Rows whose accumulators are INT32: the last matrix instruction on them had an integer pairing. -/
  accInt : List Nat := []
  active : Option Tile := none
  shadow : Option Tile := none
  istore : List (BitVec 128) := []
  wins : List Window := []
  /-- Generation recorded at BAR_ARRIVE, by barrier (R240). -/
  arrivedIn : Tab Nat := []
  /-- It has arrived for the BAR_SYNC that it is at. -/
  syncing : Bool := false
  /-- Position in its group. -/
  pos : Nat := 0
  started : Nat := 0
  retired : Nat := 0
  nans : Nat := 0
  /-- Elements saturated since its program started, in all and by slot; SAT_STEP events its STEPs raised. -/
  sats : Nat := 0
  slotSats : Tab Nat := []
  events : Nat := 0
  /-- Array clock: gate closed; time its wake is complete (R574). -/
  gated : Bool := true
  awakeAt : Nat := 0
  /-- Scan stream whose kernel it runs (R255). -/
  stream : Option Nat := none
  /-- ACLK cycle in which it became idle. -/
  idleFrom : Nat := 0
  /-- Its program has ended early and work it accepted is still finishing (R253). -/
  stopping : Bool := false
  /-- NCLK time at which its instruction store is loaded and it starts (R251); while it stops, the time at which it is free at the latest. -/
  readyAt : Nat := 0
deriving DecidableEq, Repr

/-- One barrier of a core (R239). -/
structure Barrier where
  /-- Participant positions: those of every running group that uses it. -/
  mask : Nat := 0
  arrived : Nat := 0
  gen : Nat := 0
  /-- Positions whose engine has executed END (R241). -/
  ended : Nat := 0
deriving DecidableEq, Repr

/-- A group of engines: a RUN_PROGRAM command, or one stage repetition of a model run (R249 to R253, R280). -/
structure Group where
  ctx : Nat := 0
  cinc : Nat := 0
  core : Nat := 0
  /-- Engine positions asked for, and those now reserved. -/
  mask : Nat := 0
  /-- A model run takes this many positions as they become free (R280); 0 for a group that names its positions. -/
  want : Nat := 0
  reserved : Nat := 0
  running : Bool := false
  image : List Byte := []
  wins : List Window := []
  startAt : Nat := 0
  /-- ACLK cycles from its start to its last END so far (R252). -/
  clks : Nat := 0
  /-- Model run it serves (0 for RUN_PROGRAM). -/
  run : Nat := 0
deriving DecidableEq, Repr

/-- One scale slot: exactly the slot record of R270. -/
structure Slot where
  initScale : Word := 0x3F800000
  depth : Nat := 16
  head : Nat := 0
  count : Nat := 0
  curAmax : Word := 0
  scale : Word := 0x3F800000
  stepSat : Nat := 0
  satLimit : Nat := 0
  steps : Nat := 0
  hist : List Word := []
deriving DecidableEq, Repr

/-- A queued SAT_STEP event (R275). -/
structure SatEvent where
  slot : Nat
  core : Nat
  ctx : Nat
  sat : Nat
deriving DecidableEq, Repr

/-- Where a model run stands (R280). -/
inductive RunStep where
  | lane | engines | gather | stage | ready | finished
deriving DecidableEq, Repr

/-- What a model run's output is for. -/
inductive RunUse where
  /-- Input j of an EMBED command. -/
  | embed (input : Nat)
  /-- A RERANK command. -/
  | rerank
  /-- EMBED phase of a query. -/
  | queryEmbed (q : Nat)
  /-- RERANK_MODEL phase of a query. -/
  | queryRerank (q : Nat)
deriving DecidableEq, Repr

/-- One model run (R280 to R287). -/
structure Run where
  use : RunUse
  /-- Context (or sub-search number) it runs for, with the context incarnation. -/
  ctx : Nat := 0
  cinc : Nat := 0
  /-- Model handle and its bound image: address and length. -/
  handle : Nat := 0
  base : Nat := 0
  /-- Home core; 8 while it waits for an enabled one. -/
  core : Nat := 8
  /-- Its group of engines, once it has a lane. -/
  group : Nat := 0
  lane : Option Nat := none
  mask : Nat := 0
  step : RunStep := .lane
  stage : Nat := 0
  rep : Nat := 0
  units : Nat := 0
  cands : Nat := 0
  query : List Byte := []
  candBytes : List Byte := []
  candStride : Nat := 0
  /-- Run's own amax and saturations by slot; elements saturated in all. -/
  amax : Tab Word := []
  slotSat : Tab Nat := []
  sats : Nat := 0
  /-- SAT_STEP events that STEPs of its programs raised. -/
  events : Nat := 0
  /-- A token was invalid or missing (R403). -/
  dropped : Bool := false
  /-- Bound token row table, if any: handle, slot. -/
  tokens : Option (Nat × Nat) := none
  /-- GATHER rows of the present stage still to come. -/
  gather : Option Nat := none
  /-- AWL_ATTN still to be done in this stage. -/
  attn : Bool := false
  /-- Its attention has written the arena; the caches' copies of it are still to be invalidated (R284, R344). -/
  attnOut : Bool := false
  repRunning : Bool := false
  since : Nat := 0
deriving DecidableEq, Repr

/-- A running EMBED or RERANK command (R288 to R290). -/
structure ModelCmd where
  rerank : Bool := false
  inputs : Nat := 0
  left : Nat := 0
  sats : Nat := 0
  events : Nat := 0
  outFmt : Nat := 0
  normalise : Bool := false
  out : Nat := 0
  ids : List Nat := []
  dropped : Bool := false
  /-- Tables its one phase binds. -/
  binds : List (Nat × Nat) := []
deriving DecidableEq, Repr

/-- Engines, barriers, groups, Skivers, model runs. -/
structure EngState where
  eng : Tab Engine := []
  /-- Barrier b of core c at 16 × c + b (R239). -/
  bars : Tab Barrier := []
  groups : Tab Group := []
  nextGroup : Nat := 1
  /-- Grant pointer of each core for its engines. -/
  grantPtr : Tab Nat := []
  /-- Scale slots at 16 × engine + slot. -/
  slots : Tab Slot := []
  /-- SAT_STEP events by engine, oldest first. -/
  satEvents : Tab (List SatEvent) := []
  runs : Tab Run := []
  nextRun : Nat := 1
  cmds : Tab ModelCmd := []
deriving DecidableEq, Repr

end Sys2Proof.Machine
end

