-- ==== Sys2Proof/Machine/TypesD.lean ====
section
/-! DEFINITION. State of the Tack room, Hide stacks and Awl units, flash channels and Edgers, Saddlebag (09 to 12). -/

namespace Sys2Proof.Machine
open Sys2Proof

/-- A pool the Tack room allocates from (R296). -/
inductive Pool where
  | seat | hide (stack : Nat) | flash (channel : Nat) | nbr (ext : Nat)
deriving DecidableEq, Repr

/-- Storage allocated from a pool, in 64 KiB units from the pool's own base, charged to a function (R296, R318). -/
structure Alloc where
  pool : Pool
  /-- Seat: granule of seat memory. Hide: granule of the stack. Flash: 64 KiB unit of the logical space (16 logical
  units). Neighbour: 64 KiB unit of the extent. -/
  start : Nat
  len : Nat
  fn : Nat
deriving DecidableEq, Repr

/-- Kinds of migration (R299 MIG_KIND). -/
inductive MigKind where
  | move | addNbr | dropNbr
deriving DecidableEq, Repr

/-- A migration running on an object (R306). Its state is MIG of the object's table entry. -/
structure Migration where
  kind : MigKind
  target : Option Alloc := none
  /-- The copy to free at the end: its allocation and tier code. -/
  old : Option Alloc := none
  oldTier : Nat := 0
  mismatches : Nat := 0
  /-- PIN command that waits for it, and that the object is to be PINNED at the switch (R316). -/
  pinFor : Option Nat := none
  pin : Bool := false
  /-- 4 KiB units written to the target; of a neighbour copy, units read back and found equal. -/
  copied : Nat := 0
  verified : Nat := 0
  /-- Number of this migration, and its writes to another node that are not answered yet. -/
  id : Nat := 0
  out : Nat := 0
deriving DecidableEq, Repr

/-- A 4 KiB unit in the staging cache (R305). -/
structure StageUnit where
  obj : Nat
  unit : Nat
  /-- CLOCK reference bit. -/
  used : Bool := true
deriving DecidableEq, Repr

/-- Who waits for a read. -/
inductive Reader where
  | master (m : Nat)
  | command (ctx cinc : Nat)
  /-- A phase of a query. -/
  | query (k : Nat)
  | stream (sid : Nat)
  | saddle (req : Nat)
deriving DecidableEq, Repr

/-- An access that waits for a staging fill (R305, R322). -/
structure StageWait where
  obj : Nat
  unit : Nat
  who : Reader
  addr : Nat
  len : Nat
  since : Nat
  late : Bool := false
  /-- Its unit has come and found no place of the staging cache free (STAGE_FULL). -/
  full : Bool := false
deriving DecidableEq, Repr

/-- The bind of a byte access that waits for the bytes [addr, addr + len) of its copy (R300, R304). -/
structure ObjBind where
  who : Reader
  obj : Nat
  tier : Nat
  addr : Nat
  len : Nat
  since : Nat
deriving DecidableEq, Repr

/-- States of a neighbour extent (R320, R321). -/
inductive NbrState where
  | free | active | losing
deriving DecidableEq, Repr

/-- A neighbour extent given to the Tack room. -/
structure NbrExt where
  st : NbrState := .free
  base : Nat := 0
  len : Nat := 0
  lease : Nat := 0
  ackAt : Nat := 0
  renewAt : Nat := 0
  /-- Transport tag of a renewal in flight. -/
  renewTag : Option Nat := none
deriving DecidableEq, Repr

/-- A PIN command waiting for its moves (R317). -/
structure PinCmd where
  objs : List Nat := []
  changed : Nat := 0
  skipped : Nat := 0
  failed : Nat := 0
deriving DecidableEq, Repr

/-- A PIN move that waits for a running migration to end. -/
structure PinWait where
  obj : Nat
  tier : Nat
  stack : Option Nat
  ctx : Nat
deriving DecidableEq, Repr

/-- A register request that waits for a Tack room that takes no work (R603). -/
inductive ObjAsk where
  /-- ALLOC_REQ of a master's result index, with ALLOC_FN as it was. -/
  | alloc (m : Nat) (v : Word) (fn : Nat)
  | seal (m obj : Nat)
  | free (m obj : Nat)
  | nbrAdd (ext : Nat)
  | nbrWithdraw (ext : Nat)
deriving DecidableEq, Repr

/-- The Tack room (09). Object table entries are in memory at OBJ_BASE. -/
structure Tack where
  /-- Requests that wait, first in, first out. -/
  asks : List ObjAsk := []
  allocs : List Alloc := []
  /-- Bound readers at 4 × object + tier code. -/
  readers : Tab Nat := []
  migs : Tab Migration := []
  pins : Tab PinCmd := []
  pinWaits : List PinWait := []
  /-- Units of the staging cache that hold data, by place. -/
  stage : Tab StageUnit := []
  stageHand : Nat := 0
  waits : List StageWait := []
  held : List ObjBind := []
  /-- Migrations started. -/
  nextMig : Nat := 0
  nbr : Tab NbrExt := []
  halvedAt : Nat := 0
  /-- Per-master ALLOC_FN and OBJ_RESULT. -/
  allocFn : Tab Nat := []
  result : Tab Word := []
  /-- Objects whose table entry had an uncorrectable error (R324). -/
  badEntry : List Nat := []
  /-- Flash storage freed and not yet deallocated at the Currier (R364). -/
  deallocs : List Alloc := []
  /-- Pools being demoted from down to their low watermark (R310): 0 the seat pool, 1 + n stack n. -/
  demoting : List Nat := []
deriving DecidableEq, Repr

/-- A stitch running on a unit. -/
structure Stitch where
  owner : AwlOwner
  fn : Nat
  start : Nat := 0
  /-- What its work reads and writes of the stack: offset and length. -/
  ranges : List (Nat × Nat) := []
deriving DecidableEq, Repr

/-- An AWL_SEQ being run (R334 to R340). -/
structure AwlSeq where
  stack : Nat := 0
  steps : List Byte := []
  nsteps : Nat := 0
  step : Nat := 0
  units : Nat := 512
  rows : Nat := 0
  /-- A unit has taken the present step. -/
  begun : Bool := false
  /-- ATTN rows of the present step already written. -/
  attnDone : List Nat := []
  cycles : Nat := 0
  yielded : Nat := 0
  seq : Nat := 0
deriving DecidableEq, Repr

/-- An AWL_FENCE waiting: its stacks, and its place in fetch order (R343). -/
structure AwlFence where
  mask : Nat
  seq : Nat
  /-- Model runs whose attention had started. -/
  runs : List Nat := []
deriving DecidableEq, Repr

/-- One Hide stack and its Awl units. -/
structure Stack where
  /-- Stitches running, by unit. -/
  stitches : Tab Stitch := []
  /-- Units that yielded at a stitch end, with the time. -/
  unitPtr : Nat := 0
  /-- Banks with a refresh due that waits for a stitch: 0 to 1023. -/
  refreshWait : List Nat := []
  /-- Stack in self-refresh (R575). -/
  selfRefresh : Bool := false
deriving DecidableEq, Repr

/-- Hide stacks, AWL_SEQ commands and fences. -/
structure HideState where
  stackTab : Tab Stack := []
  seqs : Tab AwlSeq := []
  fences : Tab AwlFence := []
  /-- Attention rows done of a model run's AWL_ATTN stage: run to rows. -/
  attn : Tab (List Nat) := []
deriving DecidableEq, Repr

/-- State of a multi-plane flash block (R366 to R372). -/
inductive BlockState where
  | free | opened | full | verified | retired
deriving DecidableEq, Repr

/-- One multi-plane block of a die. -/
structure Block where
  st : BlockState := .free
  /-- Open set it serves (R371): 0 the SLC buffer writer, 1 the native writer, 2 the collection writer; 3 + s holds set s's parity. -/
  set : Nat := 0
  erases : Nat := 0
  /-- Plane pages programmed. -/
  pages : Nat := 0
  /-- Order in which it was opened and became full. -/
  openedAt : Nat := 0
  fullAt : Nat := 0
  /-- Its valid units have been copied into these blocks; it is erased once they are verified (R367, R369). -/
  dest : List Nat := []
  /-- It has been emptied by folding or collection. -/
  emptied : Bool := false
deriving DecidableEq, Repr

/-- An accepted unit whose program has not completed: the die it is assigned to, and what the unit read as before. -/
structure PendingUnit where
  unit : Nat
  die : Nat
  old : List Byte := []
  /-- Function its write is charged to (R307, R370). -/
  fn : Nat := 0
deriving DecidableEq, Repr

/-- A program in progress on a die. -/
structure Prog where
  die : Nat
  /-- Block at 4096 × die + block, first plane page. -/
  block : Nat
  page : Nat
  native : Bool
  /-- Units it holds, in order; empty for a parity page. -/
  units : List Nat := []
  /-- Stripe whose parity page it is. -/
  parity : Option Nat := none
deriving DecidableEq, Repr

/-- A READ issued and not yet taken (R364): the object's unit it stages, its logical unit, and the block its location was bound in. -/
structure FlashRead where
  obj : Nat
  ounit : Nat
  lu : Nat
  block : Option Nat := none
  decoded : Bool := false
deriving DecidableEq, Repr

/-- An open Edger stream (R383, R384) is the scan stream itself; the Edger keeps the store space it holds. -/
structure EdgerUse where
  sid : Nat
  tableBytes : Nat
  tombKib : Nat
deriving DecidableEq, Repr

/-- One flash channel (11). -/
structure Channel where
  /-- Brought up in this boot (R359). -/
  up : Bool := false
  /-- Manufacturer id and model that its dies report. -/
  ident : List Byte := []
  inService : Bool := false
  outCause : Nat := 0
  dies : Nat := 0
  qlc : Bool := false
  twoTbit : Bool := false
  planes : Nat := 0
  blocksPerDie : Nat := 0
  pagesPerBlock : Nat := 0
  /-- Bus rate code it runs at (R359); only durations depend on it. -/
  rate : Nat := 3
  luCount : Nat := 0
  /-- Format sequence number of its record, 0 for none. -/
  fmtSeq : Nat := 0
  /-- Contents of the logical space: a unit that is not listed is zeros (R363). -/
  data : Tab (List Byte) := []
  /-- Unrecoverable units (R361). -/
  lost : List Nat := []
  /-- Logical-to-physical map of R365: die in [30:27], block in [26:15], plane page in [14:2], codeword in [1:0], by unit. -/
  map : Tab Nat := []
  /-- Units deallocated since their map page was last written back, with their contents before (R364). -/
  stale : Tab (List Byte) := []
  /-- Map pages dirty: page to time. -/
  dirty : Tab Nat := []
  /-- Blocks at 4096 × die + block; a good block that is not listed is free and never erased. -/
  blocks : Tab Block := []
  pend : List PendingUnit := []
  /-- Stripes whose parity page has not been programmed: 2^24 × set + stripe, to the dies that hold its data pages. -/
  stripes : Tab (List Nat) := []
  /-- Next stripe of each die in each set, at 16 × set + die. -/
  setPos : Tab Nat := []
  progs : List Prog := []
  /-- Units accepted since reset: every fourth takes the next die (R374). -/
  accepted : Nat := 0
  order : Nat := 0
  lastWrite : Nat := 0
  reads : List FlashRead := []
  /-- Units due to be rewritten that no page or no ledger room has let move yet (R362, R376). -/
  refresh : List Nat := []
  edger : List EdgerUse := []
  /-- Last short ZQ calibration by die. -/
  zqAt : Tab Nat := []
  /-- Good blocks of each die at format, and blocks retired on it since. -/
  goodAt : Tab Nat := []
  retiredSince : Tab Nat := []
deriving DecidableEq, Repr

/-- The Currier and the hold-up ledger (11). -/
structure Flash where
  ch : Tab Channel := []
  /-- Sequence number of the last format. -/
  fmtSeq : Nat := 0
  /-- Writes and programs that wait for the ledger: channel, unit (R376). -/
  waiting : List (Nat × Nat) := []
  /-- Time and debt of step 1 of the power-fail sequence (R380). -/
  flushFrom : Nat := 0
  flushDebt : Nat := 0
  /-- Records of the last flush: duration in µs and debt, once it has completed. -/
  record : Option (Nat × Nat) := none
  /-- The last flush did not reach its end (R382). -/
  recordMissing : Bool := false
deriving DecidableEq, Repr

/-- A line of a row cache (R399, R400). -/
structure CacheLine where
  handle : Nat
  version : Nat
  /-- 0 rows, 1 index. -/
  extent : Nat
  off : Nat
  freq : Nat := 1
deriving DecidableEq, Repr

/-- A read of storage in flight, in one of the 64 fill slots (R401). -/
structure Fill where
  line : CacheLine
  /-- Global address read and bytes wanted. -/
  addr : Nat
  len : Nat := 256
  /-- Version retired while in flight, or a read that bypasses the cache: not installed (R402). -/
  doomed : Bool := false
  /-- The read bypasses the cache. -/
  bypass : Bool := false
  since : Nat := 0
  late : Bool := false
  /-- Requests and key positions that wait for it. -/
  waiters : List (Nat × Nat) := []
  /-- Data from another node, with its poisoned 64-byte pieces, once it has arrived. -/
  data : Option (List Byte × List Nat) := none
  failed : Bool := false
deriving DecidableEq, Repr

/-- What a request's rows are for. -/
inductive GatherUse where
  | filter (q : Nat)
  | tokens (run : Nat)
deriving DecidableEq, Repr

/-- A line delivered to a lookup: key position, extent, offset, data and poisoned 64-byte pieces. -/
structure GotLine where
  pos : Nat
  ext : Nat
  off : Nat
  data : List Byte
  bad : List Nat := []
deriving DecidableEq, Repr

/-- A gather request held by a Saddlebag instance (R396 to R406). -/
structure GatherReq where
  inst : Nat
  use : GatherUse
  handle : Nat
  version : Nat
  image : List Byte
  keys : List Nat
  /-- Key positions whose lookup has begun. -/
  begun : List Nat := []
  got : List GotLine := []
  /-- Decoded rows by position; a dropped row is `none`. -/
  rows : Tab (Option (List Word)) := []
deriving DecidableEq, Repr

/-- One Saddlebag instance (12). -/
structure SbInst where
  /-- Lines at 16 × set + way. -/
  lines : Tab CacheLine := []
  /-- Hits to a set since its last halving. -/
  hits : Tab Nat := []
  /-- Fill slots 0 to 63. -/
  fills : Tab Fill := []
  /-- Lookups, by request and key position, that wait for a fill slot (R401). -/
  slotWait : List (Nat × Nat) := []
  /-- Soft resets so far: answers to reads sent before one reach no fill. -/
  resets : Nat := 0
  /-- Function after the one served last (R469), and the lookups begun in a cycle (R397). -/
  ptr : Nat := 0
  startedAt : Nat × Nat := (0, 0)
deriving DecidableEq, Repr

/-- Both instances and their requests. -/
structure Saddle where
  inst : Tab SbInst := []
  reqs : Tab GatherReq := []
  next : Nat := 0
deriving DecidableEq, Repr

end Sys2Proof.Machine
end

