-- ==== Sys2Proof/Machine/TypesE.lean ====
section
/-! DEFINITION. State of links, transport and Latigo (13, 14). -/

namespace Sys2Proof.Machine
open Sys2Proof

/-- Link states (LNK_STAT.STATE). -/
inductive LinkState where
  | down | training | up | retrain | failed
deriving DecidableEq, Repr

/-- One fabric port (R414 to R424). -/
structure Port where
  st : LinkState := .down
  rttNs : Nat := 0
  /-- Failed attempts since ENABLE or the last UP. -/
  attempts : Nat := 0
  txNext : Nat := 0
  rxExpect : Nat := 0
  /-- DATA flits sent and not acknowledged, oldest first: SEQ and bytes. -/
  replay : List (Nat × List Byte) := []
  /-- Peer's allocation and cumulative freed totals by VC; flits sent by VC. -/
  peerAlloc : Tab Nat := []
  freed : Tab Nat := []
  sent : Tab Nat := []
  /-- Flits received and credits freed by VC. -/
  rxFreed : Tab Nat := []
  /-- Freed totals sent last by VC, and the VC after the one sent last (R422). -/
  told : Tab Nat := []
  credPtr : Nat := 0
  /-- Message being assembled by VC. -/
  asm : Tab (List Byte) := []
  /-- A RETRY_REQ is outstanding: sends so far and time of the last. -/
  retry : Option (Nat × Nat) := none
  /-- Since when a message on the VC waits for credits. -/
  stalled : Tab Nat := []
deriving DecidableEq, Repr

/-- What an outstanding transport request is for (R430). -/
inductive TagUse where
  /-- Lines wanted by a command's context. -/
  | cmdRead (ctx cinc addr len : Nat)
  | cmdWrite (ctx cinc addr : Nat)
  /-- An access of a master through the neighbour window or to a global address. -/
  | masterRead (m addr len : Nat)
  | masterWrite (m addr : Nat)
  /-- A write that another node asked for through this node's neighbour window: who is answered, under which tag and generation. -/
  | forward (node tag gen : Nat)
  /-- An interrupt message of a function (R471). -/
  | intMsg (fn : Nat)
  /-- A destination line of POOL_REDUCE at its own home. -/
  | reduce (ctx cinc addr : Nat)
  /-- A service request: sub-search of a shard, forwarded update, reply, seal. -/
  | subSearch (cinc k shard : Nat)
  | update (ctx cinc record : Nat)
  | service
  /-- An EPOCH_SEAL forwarded to the seal leader. -/
  | sealFwd (ctx cinc : Nat)
  /-- A lease or region command's request, an automatic renewal of a handle at a node. -/
  | lease (ctx cinc : Nat)
  | renewal (node handle : Nat)
  | region (ctx cinc : Nat)
  /-- A line fetch of Saddlebag. -/
  | saddle (inst index : Nat)
  /-- Boot image fetched from a fabric peer. -/
  | recovery (off : Nat)
  /-- A write of a migration to its neighbour extent: object and the migration's number. -/
  | migWrite (obj id : Nat)
  /-- Renewal of the lease of a neighbour extent. -/
  | nbrRenew (ext : Nat)
  /-- Request of a local caching agent to a remote home. -/
  | agent (c addr : Nat)
deriving DecidableEq, Repr

/-- An outstanding tag entry. -/
structure TagEntry where
  use : TagUse
  /-- Generation carried in TAG[15:13]. -/
  gen : Nat
  node : Nat
  sent : Nat
  msg : Nat := 0
  /-- Local address at the responder. -/
  addr : Nat := 0
deriving DecidableEq, Repr

/-- The transport (R425 to R433). -/
structure Transport where
  tags : Tab TagEntry := []
  /-- Generation of each entry (3 bits). -/
  gens : Tab Nat := []
  /-- Requests that wait for a tag entry, with the function charged. -/
  waiting : List (TagUse × Msg × Charge) := []
  /-- Messages made and not yet taken by a port's Rein instance, by outbox number. -/
  outbox : Tab Msg := []
  nextOut : Nat := 0
  /-- Messages assembled from flits, or answered by the device itself, and not yet acted on. -/
  inbox : List Msg := []
deriving DecidableEq, Repr

/-- Links and transport. -/
structure Fabric where
  ports : Tab Port := []
  tp : Transport := {}
  /-- Laser inputs, 4 × tile + input, that have been at or above LOW_CDBM for 1 ms. -/
  laserGood : List Nat := []
  tileFault : List Nat := []
  /-- TILE_HOT and light shedding: tiles that do not transmit. -/
  dark : Bool := false
  /-- Lines fetched for readers that have no context: sub-searches and the device's own rebuilds. -/
  bufs : Tab RemoteBuf := []
deriving DecidableEq, Repr

/-- Requests the home serves by transaction. -/
inductive HomeReq where
  | rdShared | rdOwn | upgrade | wb
  | ncRead | ncWrite | ncReduce
deriving DecidableEq, Repr

/-- A transaction of the home on one line (R443, R446). -/
structure Txn where
  req : HomeReq
  /-- Requesting agent: node in [11:0], agent index in [15:12]. -/
  who : Nat := 0
  /-- Tag echoed in the answer to another node. -/
  tag : Nat := 0
  data : List Byte := []
  poison : Bool := false
  /-- Agents snooped and not answered, with the cycle at which the snoop times out. -/
  waiting : Tab Nat := []
  /-- Agents that keep a shared copy. -/
  keep : List Nat := []
  /-- Map generation the request carries, for the in-flight count of R499; `none` for this node's own agents. -/
  mapGen : Option Nat := none
deriving DecidableEq, Repr

/-- A lease slot of an export at the lender (R454). -/
structure LeaseSlot where
  node : Nat
  readOnly : Bool := false
  /-- Time of the receipt that granted or renewed it. -/
  since : Nat
  /-- Its term has ended; it waits for the end of grace. -/
  ended : Bool := false
  /-- Reclaim at this time at the latest (fence). -/
  graceEnd : Option Nat := none
deriving DecidableEq, Repr

/-- A lease this node holds at another (R455, R456). -/
structure BorrowedLease where
  node : Nat
  handle : Nat
  fn : Nat
  auto : Bool := false
  /-- Send time of the LEASE_REQ that granted or renewed it. -/
  since : Nat
  lastSent : Nat
  lost : Bool := false
deriving DecidableEq, Repr

/-- A LEASE_RENEW waiting for its LEASE_GNT. -/
structure LeaseCmd where
  op : Nat
  auto : Bool
  node : Nat
  handle : Nat
  sent : Nat
deriving DecidableEq, Repr

/-- An entry of the reclaim list (R458, R459). -/
structure Reclaim where
  node : Nat
  entered : Nat
  /-- Handle of the lease whose reclaim put the node here. -/
  handle : Nat := 0
deriving DecidableEq, Repr

/-- A queued Latigo event (R467). -/
structure LatEvent where
  node : Nat
  agent : Nat := 0
  typ : Nat
  info : Nat
deriving DecidableEq, Repr

/-- State of a line in a local control core's caches, as the home and the spec see it (R441, R444). -/
structure AgentLine where
  modified : Bool := false
  exclusive : Bool := false
  data : List Byte := []
  poison : Bool := false
  /-- A WB of it has been sent and CMP_WB has not arrived. -/
  wbSent : Bool := false
  /-- The request for it was refused or timed out: the access completes with poison and nothing stays (R445). -/
  refused : Bool := false
  /-- Granted by GNT_UNTRACKED: no home tracks it, and it stays for the one access that asked for it. -/
  untracked : Bool := false
deriving DecidableEq, Repr

/-- A pool operation or DMA_COPY under way (R72, R463 to R466), line by line. -/
structure Mover where
  /-- 0 fill, 1 copy, 2 compare, 3 reduce, 4 DMA. -/
  op : Nat
  src : Nat := 0
  dst : Nat := 0
  /-- Lines in all and lines done. -/
  lines : Nat := 0
  done : Nat := 0
  pattern : List Byte := []
  fmt : Nat := 0
  mode : Nat := 0
  /-- From the last line down: a copy onto a later range that overlaps its source. -/
  down : Bool := false
  /-- Why a source line was unusable, if one was. -/
  bad : Option Status := none
  differ : Nat := 0
  first : Option Nat := none
  /-- The present line's write or reduction is with another node. -/
  out : Bool := false
  /-- Stack on whose Awl units it runs (R350). -/
  awl : Option Nat := none
deriving DecidableEq, Repr

/-- The Latigo home and the local caching agents (14). Directory entries and region descriptors are in memory. -/
structure Latigo where
  /-- Transactions by line (address over 64). -/
  busy : Tab Txn := []
  /-- Requests that wait for a BUSY line, oldest first: line and request. -/
  waiting : List (Nat × Txn) := []
  suspects : List Nat := []
  /-- Lease slots at 64 × export + slot; generations of the slots (1 where not listed). -/
  slots : Tab LeaseSlot := []
  gens : Tab Nat := []
  reclaim : List Reclaim := []
  /-- Nodes that wait for a free entry of the reclaim list. -/
  reclaimWait : List Reclaim := []
  /-- Nodes whose lease was reclaimed since they last acquired one. -/
  reclaimed : List Nat := []
  /-- RD_REQs, WR_REQs and reductions that wait for lines to be recalled from caching agents, oldest first. -/
  held : List Msg := []
  sweepFrom : Nat := 0
  events : List LatEvent := []
  borrowed : List BorrowedLease := []
  leaseCmds : Tab LeaseCmd := []
  regionCmds : List Nat := []
  movers : Tab Mover := []
  /-- Lines held by local agents: (global address over 64) × 16 + agent. -/
  lines : Tab AgentLine := []
  /-- Local agents' own requests outstanding: (global address over 64) × 16 + agent. -/
  asking : List Nat := []
deriving DecidableEq, Repr

end Sys2Proof.Machine
end

