-- ==== Sys2Proof/Machine/TypesF.lean ====
section
/-! DEFINITION. State of composition, boot and Brand, the management port, clocks and power, fuses and pins (16, 17, 19, 20). -/

namespace Sys2Proof.Machine
open Sys2Proof

/-- Composition state of this node (CMP_STAT.STATE, R516). -/
inductive CmpNode where
  | unassigned | joining | admitted | fenced
deriving DecidableEq, Repr

/-- A live map generation: its number and where its image lies in seat memory (R497, R499). -/
structure MapGen where
  gen : Nat
  base : Nat
  len : Nat
  /-- For the old generation: when the install that made it old took effect. -/
  since : Nat := 0
deriving DecidableEq, Repr

/-- Where an ADMIT stands (R511). -/
inductive AdmitStep where
  | copy | publish | replay | joinReady | waitSeal | finalReplay
deriving DecidableEq, Repr

/-- A running ADMIT (R509 to R511). -/
structure Admit where
  coll : Nat
  partner : Nat
  pTbl : Nat
  /-- P_UPD_BASE of R509; no step of R511 reads it. -/
  pUpd : Nat
  pColl : Nat
  snap : Nat
  step : AdmitStep := .copy
  list : Nat := 0
  objs : List Nat := []
  replayed : Nat := 0
  copied : Nat := 0
  /-- Local directory pages and segment floors built so far: list to (entry bytes). -/
  entries : Tab (List Byte) := []
  /-- Epoch of the partner's first seal message after JOIN_READY. -/
  e0 : Option Nat := none
deriving DecidableEq, Repr

/-- A joiner this node sends records to (R511 step 4, R513). -/
structure JoinFwd where
  coll : Nat
  node : Nat
  /-- The joiner's own collection index, from the tag of its JOIN_READY where the message names it; else equal to `coll`. -/
  active : Bool := false
  /-- e0: the epoch of the seal after JOIN_READY. -/
  e0 : Nat := 0
deriving DecidableEq, Repr

/-- A partner's record that waits for a later open epoch (R512). -/
structure HeldRec where
  node : Nat
  u : FwdUpdate
deriving DecidableEq, Repr

/-- Composition (16). -/
structure Compose where
  st : CmpNode := .unassigned
  cur : Option MapGen := none
  old : Option MapGen := none
  /-- Admission table: node to (state, fence epoch). -/
  adm : Tab (Nat × Nat) := []
  /-- Own fence epoch when this node was fenced. -/
  fencedAt : Nat := 0
  /-- A self-test has passed since the last cold reset or self-fence. -/
  testOk : Bool := false
  testRunning : Bool := false
  /-- Time of the last MEMBER message from FM_NODE, and of the last heartbeat sent. -/
  lastFm : Nat := 0
  lastHb : Nat := 0
  progress : Nat := 0
  admits : Tab Admit := []
  joins : List JoinFwd := []
  /-- Partners whose records and seals this node takes while it joins: collection, node (R512, R513). -/
  partners : List (Nat × Nat × Nat) := []
  held : List HeldRec := []
deriving DecidableEq, Repr

/-- What the boot ROM is doing (R525, R527). -/
inductive BootPhase where
  | off | body | trainWait | network | fabric | done | halted
deriving DecidableEq, Repr

/-- Stages of network recovery (R528). -/
inductive NetStage where
  | link | discover | request | arp | tftp
deriving DecidableEq, Repr

/-- Recovery state of the ROM (R527 to R529). -/
structure Recovery where
  /-- Since when the present source runs. -/
  since : Nat := 0
  fec : Bool := false
  fecAt : Nat := 0
  stage : NetStage := .link
  /-- Retransmissions of the present exchange, and when the last message left. -/
  tries : Nat := 0
  sentAt : Nat := 0
  leased : Nat := 0
  mask : Nat := 0
  router : Nat := 0
  server : Nat := 0
  file : List Byte := []
  /-- MAC address the server or router answered with. -/
  peerMac : Option Nat := none
  block : Nat := 0
  blksize : Nat := 512
  got : List Byte := []
  /-- Fabric recovery: bytes read, retries of the present read. -/
  retries : Nat := 0
deriving DecidableEq, Repr

/-- Brand operations (R536). -/
inductive BrandOp where
  | commit (value : Nat)
  | revoke (slot : Nat)
  | keyProg (slot : Nat) (hash : List Byte)
  | extend (mr : Nat) (digest : List Byte)
  | quote (addr : Nat)
deriving DecidableEq, Repr

/-- Brand and boot (17). -/
structure Brand where
  phase : BootPhase := .off
  /-- Header of the image being booted or running: 256 bytes. -/
  header : List Byte := []
  op : Option BrandOp := none
  /-- MR_0 to MR_7 (64 bytes; zeros where not listed). -/
  mr : Tab (List Byte) := []
  rcv : Recovery := {}
  /-- Control cores running. -/
  running : List Nat := []
  /-- Where each running core was released. -/
  entries : Tab Nat := []
  hideTrained : Bool := false
  /-- Last answer on the SMBus target. -/
  smb : List Byte := []
deriving DecidableEq, Repr

/-- What the ROM sends on the management port during network recovery (R528). -/
inductive NetMsg where
  /-- DHCPDISCOVER with the 16-byte DEVICE_ID in option 61; DHCPREQUEST of an address from a server. -/
  | discover (id : List Byte)
  | request (server addr : Nat)
  | arpRequest (ip : Nat)
  | arpReply (ip mac : Nat)
  /-- TFTP: read request with its block size, acknowledgement, error code 0. -/
  | readRequest (file : List Byte) (blksize : Nat)
  | ack (block : Nat)
  | error
deriving DecidableEq, Repr

/-- Management port (17). -/
structure Mgmt where
  /-- Interrupt inboxes of the control cores: LO, HI. -/
  inbox : Tab (List (Word × Word)) := []
  /-- Last word written to CC_INBOX_LO, by 64 × master + core. -/
  lastLo : Tab Word := []
  /-- Last frame the port sent. -/
  frame : List Byte := []
  /-- What the ROM sent last. -/
  net : List NetMsg := []
deriving DecidableEq, Repr

/-- Clocks and power (19). -/
structure Power where
  /-- The clock domains other than BCLK are stopped until RESET_N (R565, R580). -/
  stopped : Bool := false
  /-- Load shedding began (R575), and is complete. -/
  shedAt : Option Nat := none
  shed : Bool := false
  /-- Operating points demanded by the power limit, the current limit and the thermal throttle. -/
  ptPower : Nat := 0
  ptCurrent : Nat := 0
  ptThermal : Nat := 0
  avsDead : Bool := false
  avsMiss : Tab Nat := []
  /-- Since when the power, the current and the Tree sensors have stayed below their release levels. -/
  lowPower : Option Nat := none
  lowCurrent : Tab Nat := []
  coolTree : Option Nat := none
  lastTStep : Option Nat := none
  /-- Envelope E and last estimate of controlled power, in mW. -/
  env : Nat := 0
  est : Nat := 0
  filler : Bool := false
  temps : Tab Nat := []
  peak : Tab Nat := []
  /-- Stacks throttled, with the time since when they are 3 °C below. -/
  hot : List Nat := []
  coolStack : Tab Nat := []
  hotTile : List Nat := []
  tripped : Bool := false
  /-- FREF_156 is absent: the ports and the management link await it. -/
  frefGone : Bool := false
  /-- Bits of CLK_STAT whose PLL or reference has been lost. -/
  lost : Nat := 0
  /-- Times of the last estimate, power check, sensor read, and of each rail's last reading and adjustment. -/
  govAt : Nat := 0
  limitAt : Nat := 0
  thermAt : Nat := 0
  readAt : Tab Nat := []
  adaptAt : Tab Nat := []
deriving DecidableEq, Repr

/-- One-time fuses of Brand (R521): a programmed bit never returns to 0. -/
structure Fuses where
  /-- Key-hash slots 0 to 3; a slot that is not listed is blank. -/
  keys : Tab (List Byte) := []
  /-- Revoked slots. -/
  revoked : List Nat := []
  /-- Programmed bits of the anti-rollback thermometer. -/
  arb : Nat := 0
  debugLock : Bool := false
  mac : Nat := 0
  secret : List Byte := []
deriving DecidableEq, Repr

/-- Pins of R586 whose level a command or the device sets. -/
structure Pins where
  resetN : Bool := false
  pwrFailN : Bool := true
  thermTripN : Bool := true
  holdupDone : Bool := false
  flWpN : Bool := false
  flCe : Bool := false
deriving DecidableEq, Repr

end Sys2Proof.Machine
end

