-- ==== Sys2Proof/Machine/State.lean ====
section
/-! DEFINITION. The state of the block, its stops, and the state after reset. -/

namespace Sys2Proof.Machine
open Sys2Proof

/-- Why a command stops the machine: no command does. The block goes on whatever it is asked (R7, R8), so there is no such reason. -/
inductive Fault where
deriving DecidableEq, Repr

/-- Why a command is refused. -/
inductive Refusal where
  /-- The command has no meaning in this model. Raised by an arm of `exec` that no meaning has replaced. SAFE. -/
  | notModelled (mnemonic : String)
deriving DecidableEq, Repr

/-- The device: everything a command can change but the fuses. -/
structure Dev where
  /-- Time since cold reset, in NCLK cycles of 1.6 GHz (R563). -/
  now : Nat := 0
  /-- ACLK cycles that have passed, in sixteenths (R570). -/
  aphase : Nat := 0
  /-- Number of the next free value: the model's own counter, from 1 (log entry 3). -/
  draws : Nat := 1
  /-- Order code and BLK_ID [7:0], as fused at test (R4, R34, R596). -/
  part : Part := .zq6448
  stepping : Nat := 0x21
  pins : Pins := {}
  /-- Stored registers by register-space offset (plus 2^32 × (1 + select) for a banked one); reset value where not listed. -/
  regs : Tab Word := []
  /-- Per-master shadows (R59): 2^32 × master + register-space offset. -/
  shadow : Tab Word := []
  /-- RQ_SEL, kept per master (R491): 2^20 × master + REIN instance. -/
  rqSel : Tab Nat := []
  /-- Bits of W1C registers that hardware set in the present NCLK cycle (R16), by register-space offset. -/
  fresh : Tab Word := []
  /-- Block pages in whose soft reset the present cycle lies (R598). -/
  resetting : List Nat := []
  /-- Counters (R59): (page × 256 + bank) × 32 + position; 64 bits, saturating. -/
  cnts : Tab Nat := []
  mem : Memory := {}
  cp : CtxPool := {}
  fns : Tab Fn := []
  reins : Tab Rein := []
  ras : Ras := {}
  tbl : TableUnit := {}
  upd : Updates := {}
  srch : SearchState := {}
  kpr : KeeperState := {}
  eng : EngState := {}
  tack : Tack := {}
  hide : HideState := {}
  flash : Flash := {}
  sb : Saddle := {}
  fab : Fabric := {}
  lat : Latigo := {}
  cmp : Compose := {}
  brd : Brand := {}
  mgmt : Mgmt := {}
  pwr : Power := {}
  /-- What the last access by a master was answered. -/
  resp : Response := {}
deriving DecidableEq, Repr

/-- The machine: the device, its fuses, and the commands that wait for it, first in first out. -/
structure State where
  pending : List Instr := []
  fuses : Fuses := {}
  dev : Dev := {}
deriving DecidableEq, Repr

/-- The machine held in cold reset, before RESET_N rises (R546, R548): no memory is written or valid, every register holds its reset
value, nothing waits. The fuse contents are a part's own (log entry 4). -/
def State.reset : State where
  pending := []
  fuses := { keys := [(0, (List.range 64).map (fun i => BitVec.ofNat 8 (i + 1)))] }
  dev := {}

end Sys2Proof.Machine
end

