-- ==== Sys2Proof/Machine/Ops.lean ====
section
/-! DEFINITION. The named operations over registers, counters, interrupt and error bits, RAS records and memory. -/

namespace Sys2Proof.Machine
open Sys2Proof

/-- A command's effect on the device, the fuses and the queue untouched. -/
def onDev (f : Dev → Dev) (s : State) : Host.Outcome State Fault Refusal := .next { s with dev := f s.dev }

/-- The same for a command that names a unit. An index past the part's last unit names nothing that could act or be acted on (R4, R6), and
the command changes nothing (log entry 7). -/
def onUnit (has : Dev → Bool) (f : Dev → Dev) (s : State) : Host.Outcome State Fault Refusal :=
  .next { s with dev := if has s.dev then f s.dev else s.dev }

/-! Free values and time. -/

/-- The `i`-th free value of the present draw (log entry 3). -/
def Dev.free (d : Dev) (i : Nat) : Nat := Config.free [d.draws, i]
/-- Count one draw. -/
def Dev.drawn (d : Dev) : Dev := { d with draws := d.draws + 1 }
/-- A choice among `n` possibilities that the spec leaves open. -/
def Dev.pick (d : Dev) (n : Nat) : Nat := d.free 0 % n

/-- NCLK cycles of a µs and a ms. -/
def usCycles (us : Nat) : Nat := 1600 * us
def msCycles (ms : Nat) : Nat := 1600000 * ms
/-- Device time in whole µs. -/
def Dev.us (d : Dev) : Nat := d.now / 1600
/-- The time CSR: 100 MHz (R517). -/
def Dev.timeCsr (d : Dev) : Nat := d.now / 16

/-! Registers. -/

/-- Register-space offset of a register of a page. -/
def keyOf (p off : Nat) : Nat := 0x10000 * p + off
/-- Where the copy of a banked register for select value `sel` is kept. -/
def bankKey (p off sel : Nat) : Nat := 2 ^ 32 * (sel + 1) + keyOf p off

/-- Eight lanes to a port: BKL_CFG.GROUP8 of BUCKLE_0 (R410). -/
def Dev.eight (d : Dev) : Bool := fbit (Tab.getD d.regs (keyOf 0x1E0 0x100) 0) 0

/-- Reset value of a stored register of page p. -/
def Dev.regReset (d : Dev) (p off : Nat) : Word :=
  match blkOfPage p with
  | none => 0
  | some (b, n) => w32 (Machine.regReset b n off d.eight)

/-- Stored value of a register of page p. -/
def Dev.pg (d : Dev) (p off : Nat) : Word := (Tab.find? d.regs (keyOf p off)).getD (d.regReset p off)
/-- Store a register of page p. -/
def Dev.setPg (d : Dev) (p off : Nat) (v : Word) : Dev := { d with regs := Tab.set d.regs (keyOf p off) v }
/-- Stored value of a named register of instance n. -/
def Dev.rg (d : Dev) (r : RegId) (n : Nat := 0) : Word := d.pg (r.blk.page n) r.off
/-- Store a named register. -/
def Dev.setRg (d : Dev) (r : RegId) (v : Word) (n : Nat := 0) : Dev := d.setPg (r.blk.page n) r.off v
/-- Stored value of a banked register. -/
def Dev.rgb (d : Dev) (r : RegId) (sel : Nat) (n : Nat := 0) : Word :=
  (Tab.find? d.regs (bankKey (r.blk.page n) r.off sel)).getD (d.regReset (r.blk.page n) r.off)
/-- Store a banked register. -/
def Dev.setRgb (d : Dev) (r : RegId) (sel : Nat) (v : Word) (n : Nat := 0) : Dev :=
  { d with regs := Tab.set d.regs (bankKey (r.blk.page n) r.off sel) v }
/-- Hardware sets bits of a W1C register of page p, in the present cycle (R15, R16). -/
def Dev.setW1c (d : Dev) (p off : Nat) (bits : Word) : Dev :=
  { d.setPg p off (d.pg p off ||| bits) with
    fresh := Tab.set d.fresh (keyOf p off) (Tab.getD d.fresh (keyOf p off) 0 ||| bits) }
/-- What a W1C register holds after a write of `v`: its bits stay that hardware set in the same cycle (R16). -/
def Dev.afterW1c (d : Dev) (p off : Nat) (v : Word) : Word := d.pg p off &&& ~~~(v &&& ~~~(Tab.getD d.fresh (keyOf p off) 0))
/-- Field of a stored register. -/
def Dev.fd (d : Dev) (r : RegId) (hi lo : Nat) (n : Nat := 0) : Nat := fld (d.rg r n) hi lo
/-- Set a field of a stored register. -/
def Dev.setFd (d : Dev) (r : RegId) (hi lo v : Nat) (n : Nat := 0) : Dev := d.setRg r (putFld (d.rg r n) hi lo v) n
/-- A 52-bit address held in a LO and a HI register. -/
def Dev.addr52 (d : Dev) (lo hi : RegId) (n : Nat := 0) : Nat := (d.rg lo n).toNat + 2 ^ 32 * fld (d.rg hi n) 19 0
/-- A 64-bit address held in a LO and a HI register. -/
def Dev.addr64 (d : Dev) (lo hi : RegId) (n : Nat := 0) : Nat := (d.rg lo n).toNat + 2 ^ 32 * (d.rg hi n).toNat

/-- BLK_CTL.ENABLE of a page. -/
def Dev.enabled (d : Dev) (p : Nat) : Bool := fbit (d.pg p R.blkCtl) 0
/-- BLK_CTL.FREEZE of a page. -/
def Dev.frozen (d : Dev) (p : Nat) : Bool := fbit (d.pg p R.blkCtl) 2
/-- The package works: its clocks run, and it is not shedding load (R380, R565, R575, R580). -/
def Dev.alive (d : Dev) : Bool := !d.pwr.stopped && d.pwr.shedAt.isNone
/-- The block accepts and does work: enabled (R603), not frozen (R56), the package working. -/
def Dev.runs (d : Dev) (p : Nat) : Bool := d.enabled p && !d.frozen p && d.alive
/-- Work that a block has accepted goes on: ENABLE 0 lets it finish, FREEZE holds it (R55, R56, R603). -/
def Dev.goesOn (d : Dev) (p : Nat) : Bool := !d.frozen p && d.alive
/-- Commands already fetched go on: a clear CTX_POOL.ENABLE stops command fetch and nothing else (R602). -/
def Dev.ctxWorks (d : Dev) : Bool := !d.frozen 6 && d.alive
/-- Pages of single blocks. -/
def pgRas : Nat := 0x2
def pgBrand : Nat := 0x3
def pgMgmt : Nat := 0x4
def pgHoldup : Nat := 0x5
def pgCtx : Nat := 0x6
def pgTack : Nat := 0x7
def pgLat : Nat := 0x8
def pgCur : Nat := 0x9
def pgEdg (c : Nat) : Nat := 0x100 + c
def pgBuckle : Nat := 0x1E0
/-- Page of FN_f. -/
def pgFn (f : Nat) : Nat := 0x1000 + f

/-! Counters (R59). -/

/-- Key of a counter. -/
def cntKey (p bank i : Nat) : Nat := 32 * (256 * p + bank) + i
/-- A counter's value. -/
def Dev.cnt (d : Dev) (p bank i : Nat) : Nat := Tab.getD d.cnts (cntKey p bank i) 0
/-- Add to a counter; it saturates (R21), and stands still while its block is frozen (R56). -/
def Dev.bump (d : Dev) (p bank i : Nat) (n : Nat := 1) : Dev :=
  if n = 0 || d.frozen p then d
  else { d with cnts := Tab.set d.cnts (cntKey p bank i) (sat 64 (d.cnt p bank i + n)) }

/-- Add a count that the spec leaves open. -/
def Dev.bumpFree (d : Dev) (p bank i n : Nat) : Dev := { d with cnts := (d.bump p bank i n).cnts, draws := d.draws + 1 }

/-! Functions and interrupt messages. -/

/-- State of FN_f. -/
def Dev.fn (d : Dev) (f : Nat) : Fn := Tab.getD d.fns f {}
/-- Change FN_f. -/
def Dev.setFn (d : Dev) (f : Nat) (x : Fn) : Dev := { d with fns := Tab.set d.fns f x }

/-- A message to function g is taken (R472). -/
def Dev.takesMsg (d : Dev) (g : Nat) : Bool :=
  match (d.fn g).st with
  | .enabled => true
  | .quiescing => !(d.fn g).pendingEnable
  | _ => false

/-- Set INT_STAT bits of a page (R55), with the message of R57; `fuel` bounds a chain of overflow messages (R474). -/
def Dev.intSet (fuel : Nat) (d : Dev) (p bits : Nat) : Dev :=
  match fuel with
  | 0 => d
  | fuel + 1 =>
    let st := d.pg p R.intStat
    let en := d.pg p R.intEn
    let st' := st ||| w32 bits
    let d1 := d.setW1c p R.intStat (w32 bits)
    if (st &&& en) = 0 && (st' &&& en) != 0 then
      let vec := d1.pg p R.intVec
      let g := fld vec 9 0
      let m : IntMsg := { kind := if 0x1000 ≤ p then 2 else 1, index := if 0x1000 ≤ p then p - 0x1000 else p,
                          vector := fld vec 23 16 }
      if !d1.takesMsg g then d1.bump (pgFn g) 0 6
      else if (d1.fn g).queue.contains m then d1.bump (pgFn g) 0 4
      else if (d1.fn g).queue.length < 64 then d1.setFn g { d1.fn g with queue := (d1.fn g).queue ++ [m] }
      else
        let d2 := (d1.setFn g { d1.fn g with overflow := true }).bump (pgFn g) 0 5
        if (d1.fn g).overflow then d2 else Dev.intSet fuel d2 (pgFn g) 8
    else d1

/-- Set one INT_STAT bit of a page. -/
def Dev.setInt (d : Dev) (p bit : Nat) : Dev := Dev.intSet 1026 d p (2 ^ bit)

/-- Queue a message of a source for function g (R472, R474). -/
def Dev.raise (d : Dev) (g : Nat) (m : IntMsg) : Dev :=
  if !d.takesMsg g then d.bump (pgFn g) 0 6
  else if (d.fn g).queue.contains m then d.bump (pgFn g) 0 4
  else if (d.fn g).queue.length < 64 then d.setFn g { d.fn g with queue := (d.fn g).queue ++ [m] }
  else
    let d2 := (d.setFn g { d.fn g with overflow := true }).bump (pgFn g) 0 5
    if (d.fn g).overflow then d2 else d2.setInt (pgFn g) 3

/-- After a W1C write of INT_STAT: a message when causes remain (R57). -/
def Dev.intAgain (d : Dev) (p : Nat) : Dev :=
  if (d.pg p R.intStat &&& d.pg p R.intEn) != 0 then
    let vec := d.pg p R.intVec
    d.raise (fld vec 9 0) { kind := if 0x1000 ≤ p then 2 else 1, index := if 0x1000 ≤ p then p - 0x1000 else p,
                            vector := fld vec 23 16 }
  else d

/-! RAS records (R557 to R560). -/

/-- The RAS block takes an error record: merged into the newest, dropped on a full queue, or appended (R558). -/
def Dev.rasTake (d : Dev) (r : RasRec) : Dev :=
  let cls := if r.typ = 1 then 0 else if r.typ = 2 then 1 else if r.typ = 3 then 2 else 3
  let add := fun (d : Dev) =>
    if 64 ≤ d.ras.queue.length then
      ((d.setW1c pgRas R.rasStat.off 0x100).bump pgRas 0 5).setInt pgRas 3
    else
      let r' := { r with seq := d.ras.seq % 65536, count := 1 }
      let note := fbit (d.rg R.rasNotify) 0 && (r.typ = 5 || fbit (d.rg R.rasNotify) r.typ)
      let ras := { d.ras with queue := d.ras.queue ++ [r'], seq := d.ras.seq + 1,
                              notify := if note then d.ras.notify ++ [r'] else d.ras.notify }
      (({ d with ras := ras }).bump pgRas 0 cls).setInt pgRas 0
  match d.ras.queue.getLast? with
  | some q =>
    if q.typ = r.typ && q.bit = r.bit && q.page = r.page && q.addr / 64 = r.addr / 64 then
      let q' := { q with count := sat 16 (q.count + 1) }
      ({ d with ras := { d.ras with queue := d.ras.queue.dropLast ++ [q'] } }).bump pgRas 0 4
    else add d
  | none => add d

/-- Queue an error record, detected now; it waits while the block is frozen (R55). -/
def Dev.rasPush (d : Dev) (r : RasRec) : Dev :=
  let r := { r with time := d.timeCsr }
  if d.frozen pgRas then { d with ras := { d.ras with late := d.ras.late ++ [r] } } else d.rasTake r

/-- A resumed RAS block takes the records that waited. -/
def Dev.rasResume (d : Dev) : Dev := d.ras.late.foldl (fun d r => d.rasTake r) { d with ras := { d.ras with late := [] } }

/-- A record without a syndrome. -/
def Dev.rasEvent (d : Dev) (typ bit p addr : Nat) : Dev :=
  d.rasPush { seq := 0, typ := typ, bit := bit, page := pageCode p, addr := addr, syndrome := 0, word := 0xFF, count := 1, time := 0 }

/-- ERR_STAT bit and ERR_ADDR of a page (R58), without a record. -/
def Dev.errBit (d : Dev) (p bit addr : Nat) : Dev :=
  let st := d.pg p R.errStat
  let d1 := if st = 0 then (d.setPg p R.errAddrLo (w32 addr)).setPg p R.errAddrHi (w32 (addr / 2 ^ 32 % 2 ^ 20)) else d
  d1.setW1c p R.errStat (w32 (2 ^ bit))

/-- An error event: its ERR_STAT bit, and an EVENT record at a 0-to-1 change with ERR_EN set (R58, R557). -/
def Dev.setErr (d : Dev) (p bit addr : Nat) : Dev :=
  let was := fbit (d.pg p R.errStat) bit
  let d1 := d.errBit p bit addr
  if !was && fbit (d.pg p R.errEn) bit then d1.rasEvent 4 bit p addr else d1

/-- A fault of the whole package (R560): a FATAL record whatever ERR_EN says. -/
def Dev.fatal (d : Dev) (p bit addr : Nat) : Dev :=
  (d.errBit pgRas 3 addr).rasEvent 5 bit p addr

/-- The aligned second of device time that has begun: the counts of R559 start again. -/
def Dev.ceSecond (d : Dev) : Dev :=
  let n := d.now / 1600000000
  if d.ras.second < n then { d with ras := { d.ras with second := n, ceCount := [], storm := [] } } else d

/-- A corrected word (R543, R559): the page's correctable bit and a CE record, or the storm of R559. -/
def Dev.ceWord (d : Dev) (p ibit addr syn word : Nat) : Dev :=
  let d := (d.setInt p ibit).ceSecond
  let n := Tab.getD d.ras.ceCount p 0 + 1
  let d := { d with ras := { d.ras with ceCount := Tab.set d.ras.ceCount p n } }
  let lim := fld (d.rg R.rasThresh) 15 0
  if lim != 0 && lim < n then
    let d := d.bump pgRas 0 6
    if d.ras.storm.contains p then d
    else (({ d with ras := { d.ras with storm := insNat d.ras.storm p } }).rasEvent 4 0xFE p 0).setInt pgRas 1
  else d.rasPush { seq := 0, typ := 1, bit := ibit, page := pageCode p, addr := addr, syndrome := syn, word := word, count := 1, time := 0 }

/-- An uncorrectable word (R543): ERR_STAT bit and UE record. -/
def Dev.ueWord (d : Dev) (p ebit addr syn word : Nat) : Dev :=
  let d1 := d.errBit p ebit addr
  if fbit (d.pg p R.errEn) ebit then
    d1.rasPush { seq := 0, typ := 2, bit := ebit, page := pageCode p, addr := addr, syndrome := syn, word := word, count := 1, time := 0 }
  else d1

/-- Poison consumed (R557). -/
def Dev.poisonUsed (d : Dev) (p addr syn word : Nat) : Dev :=
  d.rasPush { seq := 0, typ := 3, bit := 0, page := pageCode p, addr := addr, syndrome := syn, word := word, count := 1, time := 0 }

/-- An access to an address of no region (R49). -/
def Dev.unmapped (d : Dev) (addr : Nat) : Dev := d.setErr pgRas 0 addr
/-- A register access of the wrong width or alignment (R53). -/
def Dev.badAccess (d : Dev) (addr : Nat) : Dev := d.setErr pgRas 1 addr

/-! The local memory map (R48 to R51). -/

/-- Regions of R48. -/
inductive Region where
  | seat | engSram (i : Nat) | coreSram (c : Nat) | hide (n : Nat) | nbr | regs | obj | hole
deriving DecidableEq, Repr

def hideBase : Nat := 0x10000000000
def nbrBase : Nat := 0x400000000000
def regBase : Nat := 0xF00000000000
def objBase : Nat := 0x8000000000000

/-- Region of a local address (R48, R50). -/
def regionOf (part : Part) (a : Nat) : Region :=
  if a < 2 ^ 36 then .seat
  else if 0x2000000000 ≤ a && a < 0x2020000000 then
    let i := a % 2 ^ 29 / 0x800000
    if i < part.engines then .engSram i else .hole
  else if 0x2020000000 ≤ a && a < 0x2040000000 then
    let o := a % 2 ^ 29
    if o % 0x4000000 < 48 * 2 ^ 20 then .coreSram (o / 0x4000000) else .hole
  else if hideBase ≤ a && a < hideBase + 2 ^ 40 then .hide (a / 2 ^ 36 - 16)
  else if nbrBase ≤ a && a < nbrBase + 2 ^ 44 then .nbr
  else if regBase ≤ a && a < regBase + 2 ^ 32 then .regs
  else if objBase ≤ a && a < objBase + 2 ^ 51 then .obj
  else .hole

/-- Storage whose bytes the memory holds: seat memory, SRAM, Hide. -/
def Region.stored : Region → Bool
  | .seat => true
  | .engSram _ => true
  | .coreSram _ => true
  | .hide _ => true
  | _ => false

/-- Storage with a valid bit per line (R547). -/
def Region.lined : Region → Bool
  | .seat => true
  | .hide _ => true
  | _ => false

/-- Page that reports errors of a stored address (R545). -/
def ownerPage (a : Nat) (r : Region) : Nat :=
  match r with
  | .seat => 0xC + a / 2 ^ 35
  | .engSram i => 0x40 + i
  | .coreSram c => 0x10 + c
  | .hide n => 0xC0 + n
  | _ => pgRas

/-- Is stack n out of service (R352)? -/
def Dev.stackOut (d : Dev) (n : Nat) : Bool := fbit (d.rg R.hideStat n) 0

/-- Take a stack out of service (R352): OFFLINE, INT_STAT.OFFLINE. -/
def Dev.stackOff (d : Dev) (n : Nat) : Dev :=
  if d.stackOut n then d else (d.setFd R.hideStat 0 0 1 n).setInt (Blk.page .hideCtl n) 2

/-- The line is valid, or needs no valid bit. -/
def Dev.lineValid (d : Dev) (l : Nat) : Bool :=
  if (regionOf d.part (64 * l)).lined then d.mem.valid.contains l else true

/-- The 64 bytes of a line, corrected (R543, R547); a stack out of service gives zeros. -/
def Dev.lineData (d : Dev) (l : Nat) : List Byte :=
  if d.lineValid l then ((List.range 8).map (fun i => d.mem.word (8 * l + i))).flatten else List.replicate 64 0

/-- The line is delivered poisoned (R43, R552, R553). -/
def Dev.linePoison (d : Dev) (l : Nat) : Bool :=
  d.ras.bridge.contains l || match regionOf d.part (64 * l) with
  | .hide n => d.stackOut n || (d.lineValid l && d.mem.lineLost l)
  | _ => d.lineValid l && d.mem.lineLost l

/-- Bytes of stored memory, corrected, with no effect: what the device's own logic reads. -/
def Dev.peek (d : Dev) (a n : Nat) : List Byte :=
  if n = 0 then [] else
  let l0 := a / 64
  let l1 := (a + n - 1) / 64
  slice (((List.range (l1 + 1 - l0)).map (fun i => d.lineData (l0 + i))).flatten) (a - 64 * l0) n

/-- Little-endian value of `n` bytes of memory. -/
def Dev.peekN (d : Dev) (a n : Nat) : Nat := leNat (d.peek a n)

/-- Some line of the range is poisoned. -/
def Dev.bad (d : Dev) (a n : Nat) : Bool :=
  if n = 0 then false else (List.range ((a + n - 1) / 64 + 1 - a / 64)).any (fun i => d.linePoison (a / 64 + i))

/-- Count uncorrectable words of a stack against its limit (R559). -/
def Dev.hideUe (d : Dev) (n k : Nat) : Dev :=
  let u := sat 64 (Tab.getD d.ras.hideUe n 0 + k)
  let d := ({ d with ras := { d.ras with hideUe := Tab.set d.ras.hideUe n u } } : Dev).bump (0xC0 + n) 0 5 k
  let lim := fld (d.rg R.rasThresh) 23 16
  if lim != 0 && lim ≤ u && !d.stackOut n then
    ((d.stackOff n).rasEvent 4 0xFD (0xC0 + n) 0).setInt pgRas 2
  else d

/-- What reading word `w` reports and corrects (R543, R550). -/
def Dev.touchWord (d : Dev) (w : Nat) : Dev :=
  let r := regionOf d.part (8 * w)
  let p := ownerPage (8 * w) r
  let a := 64 * (w / 8)
  let syn := synOf (d.mem.disc w)
  match d.mem.wclass w with
  | .good => d
  | .poisoned => d
  | .bad =>
    let d := d.ueWord p 0 a syn (w % 8)
    match r with
    | .hide n => d.hideUe n 1
    | .seat => d.bump p 0 3
    | _ => d
  | _ =>
    let d := d.ceWord p 0 a syn (w % 8)
    let d := match r with
      | .seat => d.bump p 0 2
      | .hide _ => d.bump p 0 4
      | _ => d
    if r.lined then
      let m := d.mem
      ({ d with mem := (m.putRaw (8 * w) (m.word w)).putDisc w 0 }).bump pgRas 0 7
    else d

/-- The bridge loses the transfer of a line: an uncorrectable error, which the storage's own page reports (R43). -/
def Dev.bridgeHit (d : Dev) (l : Nat) : Dev :=
  let d : Dev := { d with ras := { d.ras with bridge := delNat d.ras.bridge l } }
  let r := regionOf d.part (64 * l)
  if r.stored then d.ueWord (ownerPage (64 * l) r) 0 (64 * l) 0 0xFF
  else d.rasPush { seq := 0, typ := 2, bit := 0xFF, page := pgRas, addr := 64 * l, syndrome := 0, word := 0xFF, count := 1, time := 0 }

/-- A line lost on its way from memory is delivered poisoned; the source is rewritten so where it is seat memory or Hide (R43, R552). -/
def Dev.bridgeRead (d : Dev) (l : Nat) : Dev :=
  let d := d.bridgeHit l
  if (regionOf d.part (64 * l)).lined then ({ d with mem := (d.mem.setValid l).poisonLine l } : Dev).bump pgRas 0 8 else d

/-- What reading line `l` reports: corrections in place, poison in place, poison consumed (R543, R550, R552, R557). -/
def Dev.touchLine (d : Dev) (l : Nat) : Dev :=
  let r := regionOf d.part (64 * l)
  let off := match r with
    | .hide n => d.stackOut n
    | _ => false
  if off then d.poisonUsed (ownerPage (64 * l) r) (64 * l) 0 0xFF
  else if d.ras.bridge.contains l then d.bridgeRead l
  else if !d.lineValid l then
    (match r with
     | .seat => d.bump (ownerPage (64 * l) r) 0 4
     | _ => d)
  else
    let ue := (List.range 8).any (fun i => d.mem.wclass (8 * l + i) == .bad)
    let po := (List.range 8).find? (fun i => d.mem.wclass (8 * l + i) == .poisoned)
    let d := (List.range 8).foldl (fun d i => d.touchWord (8 * l + i)) d
    let d := match po with
      | some i => if ue then d else d.poisonUsed (ownerPage (64 * l) r) (64 * l) 0xFF i
      | none => d
    if ue && r.lined then ({ d with mem := d.mem.poisonLine l }).bump pgRas 0 8 else d

/-- Channel, pseudo-channel and bank pair of an offset in a Hide stack (R327). -/
def hideChannel (o : Nat) : Nat := o / 4096 % 32
def hidePseudo (o : Nat) : Nat := o / 4096 / 32 % 2
def hidePair (o : Nat) : Nat := o / 4096 / 64 % 8
/-- The Awl unit that owns the bank pair of an offset (R326). -/
def hideUnit (o : Nat) : Nat := 16 * hideChannel o + 8 * hidePseudo o + hidePair o
/-- Units whose bank pairs hold the bytes [o, o + n) of a stack; 512 granules in a row reach them all. -/
def hideUnits (o n : Nat) : List Nat :=
  if n = 0 then [] else ((List.range (min 512 ((o + n - 1) / 4096 + 1 - o / 4096))).map (fun i => hideUnit (o + 4096 * i))).eraseDups

/-! Rein queues: entering items and tagging heads (R482 to R487). -/

/-- State of a Rein instance. -/
def Dev.rein (d : Dev) (i : Nat) : Rein := Tab.getD d.reins i {}
/-- Replace it. -/
def Dev.setRein (d : Dev) (i : Nat) (r : Rein) : Dev := { d with reins := Tab.set d.reins i r }
/-- Page of REIN_i. -/
def pgRein (i : Nat) : Nat := 0x140 + i
/-- Function queue f of an instance; one that was never used stands at virtual time (R487). -/
def Rein.q (r : Rein) (f : Nat) : ReinQ := Tab.getD r.queues f { finish := r.v }
def Rein.setQ (r : Rein) (f : Nat) (q : ReinQ) : Rein := { r with queues := Tab.set r.queues f q }

/-- Counter of one function of REIN bank 1 (R491). -/
def fnCntKey (i f k : Nat) : Nat := 2 ^ 40 + 32 * (1024 * pgRein i + f) + k
def Dev.bumpFn (d : Dev) (i f k : Nat) (n : Nat := 1) : Dev :=
  if n = 0 || d.frozen (pgRein i) then d
  else { d with cnts := Tab.set d.cnts (fnCntKey i f k) (sat 64 (Tab.getD d.cnts (fnCntKey i f k) 0 + n)) }

/-- Rates and bursts of a queue as R485 reads them. -/
def Dev.rqCirOf (d : Dev) (i f : Nat) : Nat := (d.rgb R.rqCir f i).toNat
def Dev.rqPirOf (d : Dev) (i f : Nat) : Nat := max (d.rgb R.rqPir f i).toNat (d.rqCirOf i f)
def Dev.rqCbsOf (d : Dev) (i f : Nat) : Nat := max (d.rgb R.rqCbs f i).toNat 16384
def Dev.rqPbsOf (d : Dev) (i f : Nat) : Nat := max (d.rgb R.rqPbs f i).toNat 16384
/-- Weight of a queue: 0 is read as 1 (R491). -/
def Dev.rqWeightOf (d : Dev) (i f : Nat) : Nat := max (fld (d.rgb R.rqWeight f i) 11 0) 1

/-- Colours of R485. -/
inductive Colour where
  | green | yellow | red
deriving DecidableEq, Repr

/-- Colour of an item of cost l at queue f (R485): a rate of all ones never limits. -/
def Dev.colour (d : Dev) (i f l : Nat) : Colour :=
  let q := (d.rein i).q f
  if d.rqPirOf i f != 0xFFFFFFFF && q.tp < 1600 * l then .red
  else if d.rqCirOf i f != 0xFFFFFFFF && q.tc < 1600 * l then .yellow
  else .green

/-- Tag units of an item (R487). -/
def tagOf (l w : Nat) : Nat := ceilDiv (l * 256) w

/-- Set the tags of queue f's head if it has become eligible (R487), or count it held red. -/
def Dev.reinHead (d : Dev) (i f : Nat) : Dev :=
  let r := d.rein i
  let q := r.q f
  match q.items with
  | [] => d.setRein i (r.setQ f { q with tagged := false, wasEligible := false, redCounted := false })
  | it :: _ =>
    if q.tagged then d
    else if d.colour i f it.cost == .red then
      let d1 := d.setRein i (r.setQ f { q with wasEligible := false, redCounted := true })
      if q.redCounted then d1 else (d1.bump (pgRein i) 0 6).bumpFn i f 2
    else
      let s := if q.wasEligible then q.finish else serialMax 48 r.v q.finish
      let e := (s + tagOf it.cost (d.rqWeightOf i f)) % 2 ^ 48
      let none_ := r.queues.all (fun x => !x.2.tagged)
      let d1 := d.setRein i { (r.setQ f { q with start := s, finish := e, tagged := true, redCounted := false }) with
                              servedAt := if none_ then d.now else r.servedAt }
      if q.wasEligible then d1 else (d1.bump (pgRein i) 0 11).bumpFn i f 4

/-- Enter an item: into a strict queue, or into its function's queue of the weighted group (R482, R483). -/
def Dev.reinPut (d : Dev) (i : Nat) (strict : Option Nat) (it : ReinItem) : Dev :=
  let r := d.rein i
  match strict with
  | some k => d.setRein i { r with strict := Tab.upd r.strict k [] (fun l => l ++ [it]) }
  | none => (d.setRein i (r.setQ it.fn { r.q it.fn with items := (r.q it.fn).items ++ [it] })).reinHead i it.fn

/-- Function charged for work of no function (R483): REIN_CFG.DEFAULT_FN of the instance. -/
def Dev.defaultFn (d : Dev) (i : Nat) : Nat := fld (d.rg R.reinCfg i) 25 16
/-- Costs of a transfer of n bytes in items of at most 16,384, which every function queue can afford (R484, R485). -/
def itemCosts : Nat → Nat → List Nat
  | 0, _ => []
  | k + 1, n => if n = 0 then [] else min n 16384 :: itemCosts k (n - 16384)
/-- Enter an access of `n` bytes through the base interface of stack s. It is performed at once and its items only count it: a reader in the
middle of a command cannot wait here for each selection (DESIGN CHOICE, log entry 39). -/
def Dev.reinBase (d : Dev) (s n : Nat) (who : Charge) : Dev :=
  let i := 80 + s
  (itemCosts (n / 16384 + 1) n).foldl (fun d c => d.reinPut i who.strict { fn := who.fn.getD (d.defaultFn i), owner := who.owner, kind := .base, cost := c }) d

/-- An access through the base interface of stack s: its bytes, and the row cycles in which it meets Awl work at one bank pair. How many those
are the spec leaves open; there are none where no running stitch works at a bank pair the access reaches (R329, R353). -/
def Dev.baseAccess (d : Dev) (s o n pos : Nat) (who : Charge := {}) : Dev :=
  let us := hideUnits o n
  let met := (Tab.vals (Tab.getD d.hide.stackTab s {}).stitches).any (fun t => t.ranges.any (fun r => (hideUnits r.1 r.2).any us.contains))
  let d := (d.bump (0xC0 + s) 0 pos n).reinBase s n who
  if met then d.bumpFree (0xC0 + s) 0 6 (d.free 7 % (n + 1)) else d

/-- Read lines of a range for a reader: every report and correction. -/
def Dev.touchLines (d : Dev) (a n : Nat) : Dev :=
  if n = 0 then d else (List.range ((a + n - 1) / 64 + 1 - a / 64)).foldl (fun d i => d.touchLine (a / 64 + i)) d

/-- The same for a reader other than an Awl unit: bytes of seat memory and Hide are counted. -/
def Dev.touch (d : Dev) (a n : Nat) (who : Charge := {}) : Dev :=
  if n = 0 then d else
  match regionOf d.part a with
  | .seat => (d.touchLines a n).bump (ownerPage a .seat) 0 0 n
  | .hide s => (d.touchLines a n).baseAccess s (a % 2 ^ 36) n 0 who
  | _ => d.touchLines a n

/-- Apply an armed flip mask of a page to the first word of its write (R58, R556). -/
def Dev.flipArmed (d : Dev) (p w : Nat) : Dev :=
  let ctl := d.pg p R.eccFlipCtl
  if fbit ctl 0 then
    let mask := (d.pg p R.eccFlipLo).toNat + 2 ^ 32 * (d.pg p R.eccFlipHi).toNat + 2 ^ 64 * fld ctl 15 8
    ({ d with mem := d.mem.flip w mask }).setPg p R.eccFlipCtl (putFld ctl 0 0 0)
  else d

/-- Words that `n` bytes at `a` cover in part. -/
def edgeWords (a n : Nat) : List Nat := (if a % 8 != 0 then [a / 8] else []) ++ (if (a + n) % 8 != 0 then [(a + n - 1) / 8] else [])

/-- A partial write reads the words of a valid line whose other bytes it keeps, with what their reading reports (R547, R601). -/
def Dev.readEdges (d : Dev) (a n : Nat) : Dev :=
  let seen := if d.lineValid (a / 64) then edgeWords a n else []
  let e := seen.eraseDups.foldl (fun d w => d.touchWord w) d
  match seen.find? (fun w => (d.mem.wclass w) == .poisoned) with
  | some w => if seen.any (fun w => (d.mem.wclass w) == .bad) then e else e.poisonUsed (ownerPage a (regionOf d.part a)) (64 * (a / 64)) 0xFF (w % 8)
  | none => e

/-- A partial write leaves its line poisoned: a word it reads is lost, or the line holds a poisoned word. -/
def Dev.edgesLost (d : Dev) (a n : Nat) : Bool :=
  d.lineValid (a / 64) && ((edgeWords a n).any (fun w => (d.mem.wclass w).lost) ||
    (List.range 8).any (fun i => d.mem.wclass (8 * (a / 64) + i) == .poisoned))

/-- Put bytes within one line: each word they touch is as a reader gets it elsewhere, with good check bits. -/
def Memory.putPart (m : Memory) (a : Nat) (b : List Byte) : Memory :=
  let fixed := (edgeWords a b.length).foldl (fun m w => m.putRaw (8 * w) (m.word w)) m
  (List.range ((a + b.length - 1) / 8 + 1 - a / 8)).foldl (fun m i => m.putDisc (a / 8 + i) 0) (fixed.putRaw a b)

/-- Write the bytes `b` at `a` within one line, `poison` set when the data is poisoned (R547, R554, R601). -/
def Dev.storeKept (d : Dev) (a : Nat) (b : List Byte) (poison : Bool) : Dev :=
  let l := a / 64
  let r := regionOf d.part a
  let out := match r with
    | .hide n => d.stackOut n
    | _ => false
  if out || b.length = 0 then d
  else if b.length = 64 then
    let m := (d.mem.clearLine l).putRaw a b
    let m := if r.lined then m.setValid l else m
    let m := if poison then m.poisonLine l else m
    ({ d with mem := m }).flipArmed (ownerPage a r) (8 * l)
  else
    let e := d.readEdges a b.length
    let m := (if d.lineValid l then e.mem else e.mem.clearLine l).putPart a b
    let m := if r.lined then m.setValid l else m
    let m := if d.edgesLost a b.length || poison then m.poisonLine l else m
    ({ e with mem := m }).flipArmed (ownerPage a r) (a / 8)

/-- The same over the bridges: data whose transfer fails arrives poisoned (R43). -/
def Dev.storeLine (d : Dev) (a : Nat) (b : List Byte) (poison : Bool := false) : Dev :=
  if b.length != 0 && d.ras.bridge.contains (a / 64) then (d.bridgeHit (a / 64)).storeKept a b true else d.storeKept a b poison

/-- Write bytes at an address of stored memory, line by line (R547, R601). -/
def Dev.storeGo : Nat → Dev → Nat → List Byte → Bool → Dev
  | 0, d, _, _, _ => d
  | k + 1, d, a, b, p =>
    if b.isEmpty then d
    else
      let n := 64 - a % 64
      Dev.storeGo k (d.storeLine a (b.take n) p) (a + n) (b.drop n) p

/-- Write bytes at an address of stored memory. -/
def Dev.storeLines (d : Dev) (a : Nat) (b : List Byte) (poison : Bool := false) : Dev := Dev.storeGo (b.length + 1) d a b poison

/-- The same for a writer other than an Awl unit: bytes of seat memory and Hide are counted. -/
def Dev.store (d : Dev) (a : Nat) (b : List Byte) (poison : Bool := false) (who : Charge := {}) : Dev :=
  match regionOf d.part a with
  | .seat => (d.storeLines a b poison).bump (ownerPage a .seat) 0 1 b.length
  | .hide s => (d.storeLines a b poison).baseAccess s (a % 2 ^ 36) b.length 1 who
  | _ => d.storeLines a b poison

/-- Store a number of `n` bytes. -/
def Dev.storeN (d : Dev) (a n v : Nat) : Dev := d.store a (natLe n v)

/-- What the environment's condition does before an access (R43, R543, R549): the stored bits that changed. -/
def Dev.condition (d : Dev) (c : MemCond) : Dev :=
  match c with
  | .clean => d
  | .cellError w mask =>
    if (regionOf d.part (8 * w)).stored && d.lineValid (w / 8) then { d with mem := d.mem.flip w mask.toNat } else d
  | .validUe l =>
    let r := regionOf d.part (64 * l)
    if r.lined then
      let bit := match r with
        | .seat => 1
        | _ => 0
      let p := ownerPage (64 * l) r
      let d := d.ueWord p bit (64 * l) 0 0xFF
      let d := match r with
        | .seat => d.bump p 0 5
        | .hide n => d.hideUe n 1
        | _ => d
      ({ d with mem := (d.mem.setValid l).poisonLine l }).bump pgRas 0 8
    else d
  | .validCe l =>
    let r := regionOf d.part (64 * l)
    if r.lined then
      let bit := match r with
        | .seat => 1
        | _ => 0
      let p := ownerPage (64 * l) r
      let d := d.ceWord p bit (64 * l) 0 0xFF
      match r with
      | .seat => d.bump p 0 5
      | _ => d.bump p 0 4
    else d
  | .bridgeFail dead => if dead then d.fatal pgRas 3 0 else d
  | .bridgeLine l dead =>
    let d : Dev := if (regionOf d.part (64 * l)).stored then { d with ras := { d.ras with bridge := insNat d.ras.bridge l } } else d
    if dead then d.fatal pgRas 3 0 else d
  | .cacheCe _ => d.ceWord pgRas 5 0 0 0xFF
  | .cacheUe _ _ => d
  | .store _ => d

/-- The transfer of an access at `a` will fail on its bridge (R43). -/
def Dev.bridgeArm (d : Dev) (a : Nat) (c : MemCond) : Dev :=
  match c with
  | .bridgeFail _ => if (regionOf d.part a).stored then { d with ras := { d.ras with bridge := insNat d.ras.bridge (a / 64) } } else d
  | _ => d

end Sys2Proof.Machine
end

