-- ==== Sys2Proof/Machine/ReinOps.lean ====
section
/-! DEFINITION. Rein queues (R482 to R489): entering, tagging, colouring, selecting and removing items. -/

namespace Sys2Proof.Machine
open Sys2Proof

/-- Eligible queues of a colour whose head the resource can take. -/
def Dev.reinHeads (d : Dev) (i : Nat) (can : ReinItem → Bool) (c : Colour) : List (Nat × Nat) :=
  let r := d.rein i
  r.queues.filterMap (fun (f, q) =>
    match q.items with
    | it :: _ => if q.tagged && can it && d.colour i f it.cost == c then some (f, q.finish) else none
    | [] => none)

/-- Distance of a tag from V in 48-bit serial-number arithmetic. -/
def tagDist (v t : Nat) : Nat := (t + 2 ^ 47 + 2 ^ 48 - v) % 2 ^ 48

/-- The queue of least finish tag; equal tags by R469 with the instance's pointer (R486). -/
def leastTag (v ptr : Nat) (l : List (Nat × Nat)) : Option (Nat × Nat) :=
  match (l.map (fun x => tagDist v x.2)).min? with
  | none => none
  | some m =>
    match rotatePickL ((l.filter (fun x => tagDist v x.2 == m)).map Prod.fst) ptr 1024 with
    | (some f, p) => some (f, p)
    | (none, _) => none

/-- The first strict queue whose head the resource can take (R486). -/
def Rein.strictHead (r : Rein) (can : ReinItem → Bool) : Option (Nat × ReinItem) :=
  (List.range 4).findSome? (fun k =>
    match (Tab.getD r.strict k []).head? with
    | some it => if can it then some (k, it) else none
    | none => none)

/-- Take an item from strict queue k. -/
def Dev.takeStrict (d : Dev) (i k : Nat) (it : ReinItem) : Dev :=
  let r := d.rein i
  let passed := r.queues.any (fun x => x.2.tagged)
  let d1 := d.setRein i { r with strict := Tab.upd r.strict k [] List.tail }
  let d2 := ((d1.bump (pgRein i) 0 k it.cost).bumpFn i it.fn 5 it.cost)
  if passed then d2.bump (pgRein i) 0 7 else d2

/-- The tag of a queue that waits more than 2^44 behind V is replaced by V (R487). -/
def ReinQ.near (q : ReinQ) (v : Nat) : ReinQ :=
  let b := (v + 2 ^ 48 - q.finish) % 2 ^ 48
  if !q.tagged && decide (2 ^ 44 < b) && decide (b < 2 ^ 47) then { q with finish := v } else q

/-- Take the head of queue f, of colour c, charging its buckets and moving V (R485 to R487). -/
def Dev.takeWeighted (d : Dev) (i f ptr : Nat) (c : Colour) : Dev :=
  let r := d.rein i
  let q := r.q f
  match q.items with
  | [] => d
  | it :: rest =>
    let q1 := { q with items := rest, tagged := false, wasEligible := true, redCounted := false,
                       tp := q.tp - it.cost * 1600, tc := if c == .green then q.tc - it.cost * 1600 else q.tc }
    let d1 := d.setRein i { r with queues := (Tab.set r.queues f q1).map (fun (e : Nat × ReinQ) => (e.1, e.2.near q.finish)), v := q.finish, ptr := ptr,
                                   servedAt := d.now }
    let k := if c == .green then 0 else 1
    ((d1.bump (pgRein i) 0 (4 + k) it.cost).bumpFn i f k it.cost).reinHead i f

/-- One selection (R486): the item taken, if any. -/
def Dev.reinSelect (d : Dev) (i : Nat) (can : ReinItem → Bool) : Dev × Option ReinItem :=
  let r := d.rein i
  match r.strictHead can with
  | some (k, it) => (d.takeStrict i k it, some it)
  | none =>
    match leastTag r.v r.ptr (d.reinHeads i can .green) with
    | some (f, p) => (d.takeWeighted i f p .green, (r.q f).items.head?)
    | none =>
      match leastTag r.v r.ptr (d.reinHeads i can .yellow) with
      | some (f, p) => (d.takeWeighted i f p .yellow, (r.q f).items.head?)
      | none => (d, none)

/-! Work that waits to be selected (R482). -/

/-- Two items belong to one piece of work. -/
def ItemKind.same : ItemKind → ItemKind → Bool
  | .flash _ a _, .flash _ b _ => a == b
  | .stitch a, .stitch b => a == b
  | _, _ => false
/-- An instance holds an item of this kind in a queue. -/
def Rein.holds (r : Rein) (k : ItemKind) : Bool :=
  r.strict.any (fun e => e.2.any (fun it => it.kind == k)) || r.queues.any (fun e => e.2.items.any (fun it => it.kind == k))

/-- Take items out of an instance's queues; a queue that loses its head tags the next one (R488). -/
def Dev.reinPull (d : Dev) (i : Nat) (gone : ReinItem → Bool) : Dev × List ReinItem :=
  let r := d.rein i
  let out := (Tab.vals r.strict).flatten.filter gone ++ ((Tab.vals r.queues).map (fun q => q.items.filter gone)).flatten
  if out.isEmpty then (d, []) else
  let keep := fun (l : List ReinItem) => l.filter (fun it => !gone it)
  let hit := r.queues.filterMap (fun (f, q) => match q.items with
    | it :: _ => if gone it then some f else none
    | [] => none)
  let r1 := { r with strict := r.strict.map (fun (k, l) => (k, keep l)),
                     queues := r.queues.map (fun (f, q) => (f, { q with items := keep q.items, tagged := q.tagged && !hit.contains f })) }
  (hit.foldl (fun d f => d.reinHead i f) (d.setRein i r1), out)

/-- Enter the items of a piece of work that are neither queued nor selected yet. -/
def Dev.reinEnter (d : Dev) (i : Nat) (strict : Option Nat) (its : List ReinItem) : Dev :=
  its.foldl (fun d it => if (d.rein i).given.contains it.kind || (d.rein i).holds it.kind then d else d.reinPut i strict it) d
/-- Forget what an instance has selected for a piece of work. -/
def Dev.reinUngive (d : Dev) (i : Nat) (k : ItemKind) : Dev :=
  d.setRein i { d.rein i with given := (d.rein i).given.filter (fun g => !g.same k) }
/-- An instance has selected every item of a piece of work. -/
def Dev.reinGiven (d : Dev) (i : Nat) (its : List ReinItem) : Bool := its.all (fun it => (d.rein i).given.contains it.kind)
/-- The piece of work begins: what was selected for it is used up. -/
def Dev.reinUse (d : Dev) (i : Nat) (its : List ReinItem) : Dev := its.foldl (fun d it => d.reinUngive i it.kind) d
/-- Do a piece of work once its resource has selected every item of it; until then its items are entered, and it waits (R482). -/
def Dev.viaRein (d : Dev) (i : Nat) (strict : Option Nat) (its : List ReinItem) (k : Dev → Dev) : Dev :=
  if d.reinGiven i its then k (d.reinUse i its) else d.reinEnter i strict its
/-- Work of an instance is over before it was done: nothing of it stays queued or selected. -/
def Dev.reinForget (d : Dev) (i : Nat) (k : ItemKind) : Dev := (d.reinPull i (fun it => it.kind.same k)).1.reinUngive i k

/-- Remove the items of an instance that `gone` names, counted (R478, R488); the outbox entries of removed messages go with them. -/
def Dev.reinPurge1 (d : Dev) (gone : ReinItem → Bool) (i : Nat) : Dev :=
  let (d, out) := d.reinPull i gone
  let msgs := out.filterMap (fun it => match it.kind with
    | .message n => some n
    | _ => none)
  let box := msgs.foldl (fun b n => Tab.del b n) d.fab.tp.outbox
  let d : Dev := { d with fab := { d.fab with tp := { d.fab.tp with outbox := box } } }
  out.foldl (fun d it => (d.bump (pgRein i) 0 9).bumpFn i it.fn 3) d

/-- Remove items from every instance. -/
def Dev.reinPurge (d : Dev) (gone : ReinItem → Bool) : Dev := (List.range 96).foldl (fun d i => d.reinPurge1 gone i) d

/-- Fill the buckets of an instance for one NCLK cycle, and tag heads that turn eligible (R485). -/
def Dev.reinTick (d : Dev) (i : Nat) : Dev :=
  if d.frozen (pgRein i) then d else
  let r := d.rein i
  let qs := r.queues.map (fun (f, q) =>
    (f, { q with tc := min (q.tc + d.rqCirOf i f) (max q.tc (d.rqCbsOf i f * 1600)),
                 tp := min (q.tp + d.rqPirOf i f) (max q.tp (d.rqPbsOf i f * 1600)) }))
  let d1 := d.setRein i { r with queues := qs }
  let d2 := (Tab.keys qs).foldl (fun d f => d.reinHead i f) d1
  let busy := qs.filter (fun x => !x.2.items.isEmpty)
  if !busy.isEmpty && busy.all (fun x => !x.2.tagged) then d2.bump (pgRein i) 0 8 else d2

/-- A head that a new rate or burst leaves red is not eligible (R486): its tags are set again when it wakes. -/
def Dev.reinRecheck (d : Dev) (i f : Nat) : Dev :=
  let r := d.rein i
  let q := r.q f
  match q.items with
  | [] => d
  | it :: _ =>
    if q.tagged && d.colour i f it.cost == .red then
      (d.setRein i (r.setQ f { q with tagged := false, wasEligible := false, finish := q.start })).reinHead i f
    else d

/-- Cut a queue's buckets to its bursts (R488). -/
def Dev.reinCut (d : Dev) (i f : Nat) : Dev :=
  let r := d.rein i
  let q := r.q f
  (d.setRein i (r.setQ f { q with tc := min q.tc (d.rqCbsOf i f * 1600), tp := min q.tp (d.rqPbsOf i f * 1600) })).reinRecheck i f

end Sys2Proof.Machine
end

