-- ==== Sys2Proof/Machine/Fab.lean ====
section
/-! DEFINITION. Fabric: node id and routes, messages and flits, tags, and the sending of messages (13, R500). -/

namespace Sys2Proof.Machine
open Sys2Proof

/-- This node's id (R425). -/
def Dev.node (d : Dev) : Nat := d.fd R.fabNode 11 0
/-- FAB_NODE.VALID. -/
def Dev.nodeValid (d : Dev) : Bool := fbit (d.rg R.fabNode) 31
/-- Is a global address local (R70, R425)? -/
def Dev.isLocal (d : Dev) (g : Nat) : Bool := g / 2 ^ 52 % 4096 == d.node
/-- Local part of a global address. -/
def localPart (g : Nat) : Nat := g % 2 ^ 52

/-- Current map generation's number, 0 with none live. -/
def Dev.curGen (d : Dev) : Nat := match d.cmp.cur with
  | some g => g.gen
  | none => 0
/-- A generation is live here. -/
def Dev.genLive (d : Dev) (g : Nat) : Bool :=
  (match d.cmp.cur with
   | some x => x.gen == g
   | none => false) ||
  (match d.cmp.old with
   | some x => x.gen == g
   | none => false)
/-- Admission entry of a node: state, fence epoch (R498). -/
def Dev.admEntry (d : Dev) (n : Nat) : Nat × Nat := Tab.getD d.cmp.adm n (0, 0)
/-- This node's own fence epoch (R498). -/
def Dev.ownFence (d : Dev) : Nat := (d.admEntry d.node).2
/-- FM_NODE of the current generation's image (R496). -/
def Dev.fmNode (d : Dev) : Option Nat := d.cmp.cur.map (fun g => d.peekN (g.base + 4) 4 % 4096)

/-- Ports of the device (R33). -/
def Dev.ports (d : Dev) : Nat := if d.eight then 16 else 32
def Dev.port (d : Dev) (p : Nat) : Port := Tab.getD d.fab.ports p {}
def Dev.setPort (d : Dev) (p : Nat) (x : Port) : Dev := { d with fab := { d.fab with ports := Tab.set d.fab.ports p x } }
def pgLink (p : Nat) : Nat := 0x1C0 + p
/-- The port is UP. -/
def Dev.portUp (d : Dev) (p : Nat) : Bool := decide (p < d.ports) && (d.port p).st == .up

/-- Port by which messages to a node leave (R426). -/
def Dev.routeOf (d : Dev) (dst : Nat) : Option Nat :=
  let r := d.rgb R.fabRoute dst
  if fbit r 5 && d.portUp (fld r 4 0) then some (fld r 4 0)
  else if fbit r 13 && d.portUp (fld r 12 8) then some (fld r 12 8)
  else none

/-! Messages as bytes (R427). -/

/-- Header and data of a message. -/
def msgBytes (m : Msg) : List Byte :=
  natLe 1 m.msg ++ natLe 1 m.code ++ natLe 2 m.tag ++
  natLe 4 (m.src % 4096 + m.dst % 4096 * 4096 + b2n m.unassigned * 2 ^ 24) ++
  natLe 2 m.mapGen ++ natLe 2 m.len ++ natLe 4 m.fence ++ natLe 8 m.addr ++ natLe 4 m.aux ++ natLe 4 0 ++ m.data

/-- A message read back from its bytes. -/
def msgOf (vc : Nat) (l : List Byte) : Msg :=
  { msg := leAt l 0 1, code := leAt l 1 1, tag := leAt l 2 2, src := bits (leAt l 4 4) 11 0, dst := bits (leAt l 4 4) 23 12,
    unassigned := (leAt l 4 4).testBit 24, mapGen := leAt l 8 2, len := leAt l 10 2, fence := leAt l 12 4, addr := leAt l 16 8,
    aux := leAt l 24 4, data := l.drop 32, vc := vc }

/-- Flits of a message (R429). -/
def flitsOf (m : Msg) : Nat := ceilDiv (32 + m.data.length) 236

/-- Rein queue of a VC on a fabric port (R483). -/
def vcStrict (vc : Nat) : Option Nat :=
  if vc = 1 || vc = 2 || vc = 3 || vc = 6 then some 0 else if vc = 0 || vc = 5 then some 1 else none

/-- Put a message on its port's Rein queue, charged to `who`; false when no port is UP (R426). A strict queue of `who` overrides that of the
message's VC (R483). -/
def Dev.sendMsg (d : Dev) (m : Msg) (who : Charge := {}) : Dev × Bool :=
  match d.routeOf m.dst with
  | none => (d, false)
  | some p =>
    let n := d.fab.tp.nextOut
    let tp := { d.fab.tp with outbox := Tab.set d.fab.tp.outbox n m, nextOut := n + 1 }
    let d1 := { d with fab := { d.fab with tp := tp } }
    (d1.reinPut p (who.strict <|> vcStrict m.vc) { fn := who.fn.getD (d.defaultFn p), owner := who.owner, kind := .message n, cost := 256 * flitsOf m }, true)

/-- Answer a request (R428): a response or a NACK on VC_5; counted. -/
def Dev.reply (d : Dev) (m : Msg) (msg code : Nat) (addr : Nat := 0) (data : List Byte := []) (vc : Nat := 5) (aux : Nat := 0) : Dev :=
  let r : Msg := { msg := msg, code := code, tag := m.tag, src := d.node, dst := m.src, unassigned := !d.nodeValid,
                   mapGen := d.curGen, len := data.length, fence := d.ownFence, addr := addr, aux := aux, data := data, vc := vc }
  let d1 := (d.sendMsg r).1
  if code != 0 then d1.bump pgBuckle 1 3 else d1

/-- A NACK (R433). -/
def Dev.nack (d : Dev) (m : Msg) (code : Nat) (addr : Nat := 0) : Dev := d.reply m 0xFF code addr

/-! Tags (R430). -/

/-- A free tag entry; which one is the device's own choice. -/
def Dev.freeTag (d : Dev) : Option Nat :=
  let s := d.pick 8192
  if d.fab.tp.tags.length < 8192 then
    rotateFrom (fun t => !Tab.has d.fab.tp.tags t) s 8192 8192
  else none

/-- Put a request on the fabric under tag entry t. -/
def Dev.launch (d : Dev) (t : Nat) (use : TagUse) (m : Msg) (who : Charge) : Dev × Bool :=
  let g := Tab.getD d.fab.tp.gens t 0
  let own := match use with
    | .recovery _ => m.fence
    | _ => d.ownFence
  let m1 := { m with tag := t + g * 8192, src := d.node, fence := own }
  match d.sendMsg m1 who with
  | (_, false) => (d, false)
  | (d1, true) =>
    let e : TagEntry := { use := use, gen := g, node := m.dst, sent := d.now, msg := m.msg, addr := m.addr }
    let tp := { d1.fab.tp with tags := Tab.set d1.fab.tp.tags t e, gens := Tab.set d1.fab.tp.gens t ((g + 1) % 8) }
    (({ d1 with fab := { d1.fab with tp := tp } }).drawn.bump pgBuckle 1 0, true)

/-- Send a request (R430): false when it fails at once with NOT_HERE (R425, R426); it waits when no tag entry is free. -/
def Dev.sendReq (d : Dev) (use : TagUse) (m : Msg) (who : Charge := {}) : Dev × Bool :=
  if !d.nodeValid || (d.routeOf m.dst).isNone then (d, false)
  else match d.freeTag with
    | some t => d.launch t use m who
    | none => ({ d with fab := { d.fab with tp := { d.fab.tp with waiting := d.fab.tp.waiting ++ [(use, m, who)] } } }, true)

/-- Whose Rein item a request is. -/
def ownerOf : TagUse → ItemOwner
  | .cmdRead c i _ _ => if c < 4096 then .command c i else if 2 ^ 40 ≤ c then .command ((c - 2 ^ 40) / 32768 / 256) i else .work
  | .cmdWrite c i _ => .command c i
  | .reduce c i _ => .command c i
  | .update c i _ => .command c i
  | .lease c i => .command c i
  | .region c i => .command c i
  | .sealFwd c i => .command c i
  | .subSearch i k _ => .command (k / 256) i
  | _ => .work

/-- An outstanding request finds no way to its node: a NACK NOT_HERE, as if a response had come back (R426). -/
def Dev.notHere (d : Dev) (t : Nat) (e : TagEntry) : Dev :=
  let n : Msg := { msg := 0xFF, code := 1, tag := t + e.gen * 8192, src := e.node, dst := d.node, vc := 5 }
  { d with fab := { d.fab with tp := { d.fab.tp with inbox := d.fab.tp.inbox ++ [n] } } }

/-- Free a tag entry, and send the request that waited longest for one. -/
def Dev.freeTagEntry (d : Dev) (t : Nat) : Dev :=
  let d1 := { d with fab := { d.fab with tp := { d.fab.tp with tags := Tab.del d.fab.tp.tags t } } }
  match d1.fab.tp.waiting with
  | [] => d1
  | (u, m, who) :: rest =>
    let d2 := { d1 with fab := { d1.fab with tp := { d1.fab.tp with waiting := rest } } }
    match d2.launch t u m who with
    | (d3, true) => d3
    | (_, false) =>
      let g := Tab.getD d2.fab.tp.gens t 0
      let e : TagEntry := { use := u, gen := g, node := m.dst, sent := d2.now, msg := m.msg, addr := m.addr }
      ({ d2 with fab := { d2.fab with tp := { d2.fab.tp with tags := Tab.set d2.fab.tp.tags t e, gens := Tab.set d2.fab.tp.gens t ((g + 1) % 8) } } } : Dev).notHere t e

/-- The outstanding request a response answers: tag and source node match (R430). -/
def Dev.matchTag (d : Dev) (m : Msg) : Option (Nat × TagEntry) :=
  match Tab.find? d.fab.tp.tags (m.tag % 8192) with
  | some e => if e.gen == m.tag / 8192 && e.node == m.src then some (m.tag % 8192, e) else none
  | none => none

/-- A received message is taken from the messages assembled from flits, if it was one of them. -/
def Dev.took (d : Dev) (m : Msg) : Dev :=
  { d with fab := { d.fab with tp := { d.fab.tp with inbox := d.fab.tp.inbox.erase m } } }

/-- The node is fenced. -/
def Dev.isFenced (d : Dev) : Bool := d.cmp.st == .fenced

/-- R425 and R500: the NACK code and ADDR with which a request is refused, if it is. -/
def Dev.judge (d : Dev) (m : Msg) : Option (Nat × Nat) :=
  let e := d.admEntry m.src
  if !d.nodeValid || m.dst != d.node || m.unassigned then some (1, 0)
  else if d.isFenced then some (3, 2 ^ 32 + e.2)
  else if e.1 = 0 || e.1 = 3 || serialAfter 32 e.2 m.fence then some (3, e.2)
  else if e.1 = 1 && !((m.msg = 1 && m.vc = 7) || m.msg = 0x48) then some (3, e.2)
  else if !d.genLive m.mapGen then some (2, 0)
  else none

/-- Counters and events of a refusal (R500, R516). -/
def Dev.judged (d : Dev) (m : Msg) (code : Nat) : Dev :=
  let d := if code = 3 then d.bump pgBuckle 2 3 else if code = 2 then d.bump pgBuckle 2 4 else d
  match d.cmp.cur with
  | some g => if code = 2 && serialAfter 16 m.mapGen g.gen then d.setInt pgBuckle 4 else d
  | none => d

/-! Links. -/

/-- Laser inputs that light a port: 4 × tile + input (R33, R412). -/
def Dev.inputsOf (d : Dev) (p : Nat) : List Nat := if d.eight then [p] else [p / 2]
/-- Tile of a port. -/
def Dev.tileOf (d : Dev) (p : Nat) : Nat := if d.eight then p / 4 else p / 8
/-- Ports that laser input j of tile b lights. -/
def Dev.portsLit (d : Dev) (b j : Nat) : List Nat := if d.eight then [4 * b + j] else [8 * b + 2 * j, 8 * b + 2 * j + 1]
/-- Receive and replay buffer of a port, in flits (R417, R422). -/
def Dev.bufFlits (d : Dev) : Nat := if d.eight then 8192 else 4096
/-- RX_ALLOC of a VC. -/
def Dev.rxAlloc (d : Dev) (p v : Nat) : Nat := fld (d.rg (R.lnkCred v) p) 15 0

/-- The credit allocation forbids training (R424). -/
def Dev.credBad (d : Dev) (p : Nat) : Bool :=
  let l := (List.range 8).map (fun v => d.rxAlloc p v)
  decide (d.bufFlits < l.foldl (· + ·) 0) || l.any (fun x => decide (x < 18))

/-- A port that is DOWN starts training when nothing forbids it (R413, R424, R434, R435, R565, R579). -/
def Dev.trainCheck (d : Dev) (p : Nat) : Dev :=
  let x := d.port p
  let b := d.tileOf p
  if x.st == .down && decide (p < d.ports) && d.enabled (pgLink p) && !d.fab.tileFault.contains b && !d.pwr.frefGone &&
     !d.pwr.hotTile.contains b && (d.inputsOf p).all (fun j => d.fab.laserGood.contains j) && !d.fab.dark then
    if d.credBad p then d.setErr (pgLink p) 1 0
    else d.setPort p { x with st := .training }
  else d

/-- A port enters RETRAIN (R418 to R420). -/
def Dev.portRetrain (d : Dev) (p : Nat) : Dev :=
  let x := d.port p
  if x.st == .up then ((d.setPort p { x with st := .retrain, retry := none }).setInt (pgLink p) 2).bump (pgLink p) 0 6 else d

/-- A link protocol error (R419, R423). -/
def Dev.linkError (d : Dev) (p : Nat) : Dev := ((d.setErr (pgLink p) 0 0).bump (pgLink p) 0 11).portRetrain p

/-- Credits this end holds on a VC (R422). -/
def Port.credits (x : Port) (v : Nat) : Nat :=
  Tab.getD x.peerAlloc v 0 + Tab.getD x.freed v 0 - Tab.getD x.sent v 0

/-- VCs whose freed total has changed since it was sent, in rotation (R422). -/
def Port.owed (x : Port) : List Nat :=
  ((List.range 8).map (fun i => (x.credPtr + i) % 8)).filter (fun v => Tab.getD x.rxFreed v 0 != Tab.getD x.told v 0)
/-- A valid credit field for VC v, or none (R415). -/
def Port.credField (x : Port) (v : Option Nat) : Nat :=
  match v with
  | some v => v + 8 + Tab.getD x.rxFreed v 0 % 65536 * 16
  | none => 0
/-- The port once a flit has carried the freed totals of `vs`. -/
def Port.tell (x : Port) (vs : List Nat) : Port :=
  { x with told := vs.foldl (fun t v => Tab.set t v (Tab.getD x.rxFreed v 0)) x.told,
           credPtr := match vs.getLast? with
             | some v => (v + 1) % 8
             | none => x.credPtr }

/-- A flit's 64-bit control words (R415): ACK_SEQ, and credit fields for up to two VCs `vs`. -/
def Port.flitHead (x : Port) (typ vc : Nat) (som eom : Bool) (seq len : Nat) (vs : List Nat) : List Byte :=
  natLe 8 (typ + vc * 16 + b2n som * 128 + b2n eom * 256 + seq % 65536 * 2 ^ 16 + (x.rxExpect + 65535) % 65536 * 2 ^ 32 +
           2 ^ 48 + len * 2 ^ 56) ++
  natLe 8 (x.credField vs[0]? + 2 ^ 20 * x.credField vs[1]?)

/-- A whole flit with its CRC (R415). -/
def flitBytes (head payload : List Byte) : List Byte :=
  let body := slice (head ++ payload) 0 252
  body ++ natLe 4 (crc32c body)

/-- A message and the tag entry of an outstanding request belong together. -/
def TagEntry.isFor (e : TagEntry) (t : Nat) (m : Msg) : Bool := m.tag == t + e.gen * 8192 && m.dst == e.node && m.msg == e.msg

/-- A message that no port can take: the request it is fails at once (R426). -/
def Dev.strand (d : Dev) (n : Nat) (m : Msg) : Dev :=
  let d : Dev := { d with fab := { d.fab with tp := { d.fab.tp with outbox := Tab.del d.fab.tp.outbox n } } }
  match Tab.find? d.fab.tp.tags (m.tag % 8192) with
  | some e => if e.isFor (m.tag % 8192) m then d.notHere (m.tag % 8192) e else d
  | none => d
/-- Messages queued for a port that is no longer UP leave by the other port of their route, or not at all (R426). -/
def Dev.reroute (d : Dev) (p : Nat) : Dev :=
  let r := d.rein p
  let l := ((List.range 4).map (fun k => (Tab.getD r.strict k []).map (fun it => (some k, it)))).flatten ++
    ((Tab.vals r.queues).map (fun q => q.items.map (fun it => ((none : Option Nat), it)))).flatten
  let d := (d.reinPull p (fun _ => true)).1
  l.foldl (fun (d : Dev) e => match e.2.kind with
    | .message n => (match Tab.find? d.fab.tp.outbox n with
      | some m => (match d.routeOf m.dst with
        | some q => d.reinPut q e.1 e.2
        | none => d.strand n m)
      | none => d)
    | _ => d) d

/-- A port goes DOWN (R420): its link state and the messages in flight on it are lost; those that have not left take another way. -/
def Dev.portDown (d : Dev) (p : Nat) : Dev :=
  let x := d.port p
  if x.st == .down then d else
  let d := d.setPort p { st := .down, attempts := x.attempts, rttNs := x.rttNs }
  if x.st == .up || x.st == .retrain then (d.setInt (pgLink p) 1).reroute p else d

/-- The first flit of a request leaves: its 50 µs begin (R430). -/
def Dev.msgLeaves (d : Dev) (m : Msg) : Dev :=
  match Tab.find? d.fab.tp.tags (m.tag % 8192) with
  | some e => if e.isFor (m.tag % 8192) m then
      { d with fab := { d.fab with tp := { d.fab.tp with tags := Tab.set d.fab.tp.tags (m.tag % 8192) { e with sent := d.now } } } } else d
  | none => d

/-- Send the flits of a message on a port, into the replay buffer (R417, R423). -/
def Dev.sendFlits (d : Dev) (p : Nat) (m : Msg) : Dev :=
  let x := d.port p
  let b := msgBytes m
  let n := flitsOf m
  let (x, fl) := (List.range n).foldl (fun (acc : Port × List (Nat × List Byte)) i =>
    let pay := (b.drop (236 * i)).take 236
    let seq := (acc.1.txNext + i) % 65536
    let vs := acc.1.owed.take 2
    (acc.1.tell vs, acc.2 ++ [(seq, flitBytes (acc.1.flitHead 1 m.vc (i == 0) (i + 1 == n) seq pay.length vs) pay)])) (x, [])
  (d.setPort p { x with txNext := (x.txNext + n) % 65536, replay := x.replay ++ fl,
                        sent := Tab.upd x.sent m.vc 0 (· + n), stalled := Tab.del x.stalled m.vc }).bump (pgLink p) 0 0 n

/-- VCs of a port with a message at hand for which it holds too few credits (R423). -/
def Dev.creditWaits (d : Dev) (p : Nat) : List Nat :=
  let r := d.rein p
  let its := (Tab.vals r.strict).flatten ++ ((Tab.vals r.queues).map (fun q => q.items)).flatten
  (its.filterMap (fun it => match it.kind with
    | .message n => (Tab.find? d.fab.tp.outbox n).bind (fun m => if flitsOf m ≤ (d.port p).credits m.vc then none else some m.vc)
    | _ => none)).eraseDups
/-- Where a port waits for credits, since when, and the LCLK cycles of it: 425 to every 512 NCLK cycles (R423, R434). -/
def Dev.creditTick (d : Dev) (p : Nat) : Dev :=
  let x := d.port p
  if x.st != .up then d
  else
    let vs := d.creditWaits p
    let d := if vs == Tab.keys x.stalled then d
      else d.setPort p { x with stalled := (x.stalled.filter (fun e => vs.contains e.1)) ++ ((vs.filter (fun v => !Tab.has x.stalled v)).map (fun v => (v, d.now))) }
    if vs.isEmpty then d else d.bump (pgLink p) 0 9 (425 * d.now / 512 - 425 * (d.now - 1) / 512)

/-- The port can take the message of a Rein item: UP, credits for every flit, room in the replay buffer (R417, R423). -/
def Dev.portCan (d : Dev) (p : Nat) (it : ReinItem) : Bool :=
  match it.kind with
  | .message n =>
    match Tab.find? d.fab.tp.outbox n with
    | some m =>
      let x := d.port p
      x.st == .up && decide (flitsOf m ≤ x.credits m.vc) &&
      decide (x.replay.length + flitsOf m ≤ d.bufFlits)
    | none => true
  | _ => true

end Sys2Proof.Machine
end

