-- ==== Sys2Proof/Machine/Home.lean ====
section
/-! DEFINITION. The Latigo home: windows, directory, snoops, transactions, leases and events (R436 to R459). -/

namespace Sys2Proof.Machine
open Sys2Proof

/-! Windows and the directory (R438, R439). -/

/-- Base and length of window w. -/
def Dev.winBase (d : Dev) (w : Nat) : Nat := (d.rgb R.latWinBaseLo w).toNat + 2 ^ 32 * fld (d.rgb R.latWinBaseHi w) 19 0
def Dev.winLen (d : Dev) (w : Nat) : Nat := 65536 * fld (d.rgb R.latWinLen w) 17 0
/-- Start of the directory. -/
def Dev.dirBase (d : Dev) : Nat := 2 ^ 21 * (d.addr52 R.latDirBaseLo R.latDirBaseHi / 2 ^ 21)

/-- The coherent window a local address lies in, while the home is enabled. -/
def Dev.winAt (d : Dev) (a : Nat) : Option Nat :=
  if d.enabled pgLat then
    firstBelow 16 (fun w => fbit (d.rgb R.latWinCtl w) 0 && decide (d.winBase w ≤ a) && decide (a < d.winBase w + d.winLen w))
  else none

/-- Address of the directory entry of a local address in window w. -/
def Dev.dirAddr (d : Dev) (w a : Nat) : Nat :=
  d.dirBase + 16 * (fld (d.rgb R.latWinDir w) 27 0 + (a - d.winBase w) / 64)

/-- A directory entry (R439). -/
structure Dir where
  /-- 0 UNCACHED, 1 SHARED, 2 OWNED. -/
  st : Nat := 0
  bcast : Bool := false
  ptrs : List Nat := []
deriving DecidableEq, Repr

/-- An entry read from its 16 bytes. -/
def dirOf (l : List Byte) : Dir :=
  let f := leAt l 8 1
  { st := bits f 1 0, bcast := f.testBit 2,
    ptrs := ((List.range 4).filter (fun i => f.testBit (3 + i))).map (fun i => leAt l (2 * i) 2) }

/-- The 16 bytes of an entry. -/
def dirBytes (x : Dir) : List Byte :=
  let p := if x.bcast then [] else x.ptrs.take 4
  ((List.range 4).map (fun i => natLe 2 (p.getD i 0))).flatten ++
  natLe 1 (x.st + b2n x.bcast * 4 + (2 ^ p.length - 1) * 8) ++ natLe 7 0

/-- Agent of this node. -/
def Dev.localAgent (d : Dev) (c : Nat) : Nat := d.node + 4096 * c
def Dev.isLocalAgent (d : Dev) (a : Nat) : Bool := a % 4096 == d.node

/-! Leases (R453, R454). -/

/-- Export e: in use, base, length. -/
def Dev.expValid (d : Dev) (e : Nat) : Bool := d.enabled pgLat && fbit (d.rgb R.latExpCtl e) 0
def Dev.expCoherent (d : Dev) (e : Nat) : Bool := fbit (d.rgb R.latExpCtl e) 1
def Dev.expReadOnly (d : Dev) (e : Nat) : Bool := fbit (d.rgb R.latExpCtl e) 2
def Dev.expCovers (d : Dev) (e a : Nat) : Bool :=
  let b := (d.rgb R.latExpBaseLo e).toNat + 2 ^ 32 * fld (d.rgb R.latExpBaseHi e) 19 0
  d.expValid e && decide (b ≤ a) && decide (a < b + 65536 * (d.rgb R.latExpLen e).toNat)
/-- An export that covers an address. -/
def Dev.exportAt (d : Dev) (a : Nat) : Option Nat := firstBelow 256 (fun e => d.expCovers e a)

/-- The lease term and grace (R454). -/
def leaseTerm : Nat := msCycles 20
def leaseGrace : Nat := msCycles 2

/-- A slot's term still runs. -/
def Dev.slotLive (d : Dev) (x : LeaseSlot) : Bool := !x.ended && decide (d.now < x.since + leaseTerm) && x.graceEnd.isNone

/-- A node holds an unexpired lease on export e; for a write, one that is not read-only. -/
def Dev.holdsLease (d : Dev) (n e : Nat) (write : Bool := false) : Bool :=
  d.lat.slots.any (fun (k, x) => k / 64 == e && x.node == n && d.slotLive x && !(write && x.readOnly))

/-- A node holds some lease on some COHERENT export. -/
def Dev.holdsCoherent (d : Dev) (n : Nat) : Bool :=
  d.lat.slots.any (fun (k, x) => x.node == n && d.expCoherent (k / 64))

/-- Queue a Latigo event (R467). -/
def Dev.latEvent (d : Dev) (e : LatEvent) : Dev :=
  if 64 ≤ d.lat.events.length then d.bump pgLat 0 17
  else { d with lat := { d.lat with events := d.lat.events ++ [e] } }.setInt pgLat 0

/-- Generation of a lease slot: starts at 1 (R454). -/
def Dev.slotGen (d : Dev) (k : Nat) : Nat := Tab.getD d.lat.gens k 1
/-- Handle of a slot. -/
def Dev.slotHandle (d : Dev) (k : Nat) : Nat := k / 64 + k % 64 * 256 + d.slotGen k % 2 ^ 18 * 2 ^ 14

/-- Reclaim the lease in a slot (R458). -/
def Dev.reclaimSlot (d : Dev) (k : Nat) : Dev :=
  match Tab.find? d.lat.slots k with
  | none => d
  | some x =>
    let h := d.slotHandle k
    let g := if d.slotGen k + 1 < 2 ^ 18 then d.slotGen k + 1 else 1
    let d1 := { d with lat := { d.lat with slots := Tab.del d.lat.slots k, gens := Tab.set d.lat.gens k g,
                                           reclaimed := insNat d.lat.reclaimed x.node } }
    let d2 :=
      if d1.holdsCoherent x.node || (d1.lat.reclaim ++ d1.lat.reclaimWait).any (fun r => r.node == x.node) then d1
      else if d1.lat.reclaim.length < 32 then
        { d1 with lat := { d1.lat with reclaim := d1.lat.reclaim ++ [{ node := x.node, entered := d1.now, handle := h }] } }
      else
        { d1 with lat := { d1.lat with reclaimWait := d1.lat.reclaimWait ++ [({ node := x.node, entered := d1.now, handle := h } : Reclaim)] } }.setInt pgLat 2
    (d2.bump pgLat 0 10).latEvent { node := x.node, typ := 3, info := h }

/-! Lines. -/

/-- Poison a line of memory (R448 to R450, R459). -/
def Dev.poisonMem (d : Dev) (l : Nat) : Dev :=
  let r := regionOf d.part (64 * l)
  if r.stored then
    ({ d with mem := ((if r.lined then d.mem.setValid l else d.mem).poisonLine l) }).bump pgLat 0 5
  else d

/-- Key of a line in a local agent's caches. -/
def Dev.lineKey (d : Dev) (g c : Nat) : Nat := (if d.isLocal g then 2 ^ 52 * d.node + localPart g else g) / 64 * 16 + c

/-- Write a directory entry. -/
def Dev.putDir (d : Dev) (e : Nat) (x : Dir) : Dev := d.store e (dirBytes x)

/-- The broadcast set of a line (R440). -/
def Dev.bcastSet (d : Dev) (a : Nat) : List Nat :=
  let nodes := (d.lat.slots.filterMap (fun (k, x) =>
    if d.expCoherent (k / 64) && d.expCovers (k / 64) a && d.slotLive x && x.node != d.node then some x.node else none)).eraseDups
  (List.range 16).map d.localAgent ++ (nodes.map (fun n => (List.range 16).map (fun c => n + 4096 * c))).flatten

/-- Snoop time limit of an agent, in cycles (R448). -/
def Dev.snoopLimit (d : Dev) (agent : Nat) : Nat :=
  let us := min (max (d.fd R.latCfg 6 0) 1) 64
  usCycles us + (if d.isLocalAgent agent then 0 else match d.routeOf (agent % 4096) with
    | some p => (d.port p).rttNs * 16 / 10
    | none => 0)

/-- Send a snoop to an agent (R442); one to this node's cores goes over the on-die network. -/
def Dev.sendSnoop (d : Dev) (a agent : Nat) (inv bc : Bool) : Dev :=
  let d := d.bump pgLat 0 1
  if d.isLocalAgent agent then d
  else if bc && agent / 4096 != 0 then d
  else
    let m : Msg := { msg := if inv then 0x51 else 0x50, src := d.node, dst := agent % 4096, mapGen := d.curGen, fence := d.ownFence,
                     addr := a / 64 * 64, aux := (if bc then 512 else agent / 4096 * 16), vc := 1 }
    (d.sendMsg m).1

/-- A round of snoops. The 16 agents of another node are reached by one message with BCAST; where one of them is not to be snooped, the others
are snooped one by one (R440, R442, R443, R449). -/
def Dev.sendSnoops (d : Dev) (a : Nat) (gs : List Nat) (inv bc : Bool) : Dev :=
  let whole := fun n => bc && (List.range 16).all (fun c => gs.contains (n + 4096 * c))
  gs.foldl (fun d g => d.sendSnoop a g inv (whole (g % 4096))) d

/-- Look up a line's entry (R443; whether the directory cache holds it is left open, log entry 65): an uncorrectable error of the entry (R450), which poisons the whole directory line and so loses the
four entries in it, and pointers to reclaimed nodes (R459). -/
def Dev.dirLook (d : Dev) (w a : Nat) : Dev × Dir :=
  let e := d.dirAddr w a
  let lost := d.bad e 16
  let ce := !lost && (d.mem.wclass (e / 8) != .good || d.mem.wclass (e / 8 + 1) != .good) && d.lineValid (e / 64)
  let d := (d.touch e 16).bumpFree pgLat 0 8 (d.pick 2)
  let d := if ce then d.setInt pgLat 3 else d
  if lost then
    let d := d.setErr pgLat 0 (a / 64 * 64)
    let i := e % 64 / 16
    let drop := fun (d : Dev) (b : Nat) =>
      let d := d.sendSnoops b ((d.bcastSet b).filter (fun g => !d.lat.suspects.contains g)) true true
      let k := d.lineKey (2 ^ 52 * d.node + b) 0 / 16
      ({ d with lat := { d.lat with lines := d.lat.lines.filter (fun e => e.1 / 16 != k) } } : Dev).poisonMem (b / 64)
    let near := (List.range 4).filterMap (fun k =>
      let b := a / 64 * 64 + 64 * k - 64 * i
      if 64 * i ≤ a / 64 * 64 + 64 * k && d.winAt b == some w then some b else none)
    let d := near.foldl drop d
    let d := d.store (e / 64 * 64) (List.replicate 64 0)
    (d, {})
  else
    let x := dirOf (d.peek e 16)
    let gone := fun p => d.lat.reclaim.any (fun r => r.node == p % 4096)
    if x.ptrs.any gone then
      if x.st = 2 then ((d.poisonMem (a / 64)).putDir e {}, {})
      else
        let y := { x with ptrs := x.ptrs.filter (fun p => !gone p) }
        let y := if y.ptrs.isEmpty && !y.bcast then {} else y
        (d.putDir e y, y)
    else (d, x)

/-- Home accesses to coherent windows take strict queue 0 of a stack (R483). -/
def homeCharge : Charge := { strict := some 0 }

/-- Answer a caching agent: a CMP message, or over the on-die network its grant takes effect at once (R442, R443). -/
def Dev.grant (d : Dev) (a : Nat) (t : Txn) (msg code : Nat) (withData : Bool) : Dev :=
  let l := a / 64
  let d := if withData then d.touch (64 * l) 64 homeCharge else d
  let poison := withData && d.linePoison l
  let data := if withData then d.lineData l else []
  if d.isLocalAgent t.who then
    let k := d.lineKey (2 ^ 52 * d.node + 64 * l) (t.who / 4096)
    let asking := delNat d.lat.asking k
    let lines :=
      if code != 0 then Tab.del d.lat.lines k
      else if msg = 0x60 then Tab.set d.lat.lines k { data := data, poison := poison }
      else if msg = 0x61 then Tab.set d.lat.lines k { exclusive := true, data := data, poison := poison }
      else if msg = 0x62 then Tab.upd d.lat.lines k {} (fun x => { x with exclusive := true })
      else if msg = 0x64 then Tab.del d.lat.lines k
      else d.lat.lines
    { d with lat := { d.lat with lines := lines, asking := asking } }
  else
    let m : Msg := { msg := msg, code := code, tag := t.tag, src := d.node, dst := t.who % 4096, mapGen := d.curGen,
                     len := data.length, fence := d.ownFence, addr := 64 * l,
                     aux := t.who / 4096 * 16 + b2n poison * 256, data := data, vc := 3 }
    (d.sendMsg m).1

/-- A reader joins the sharers (R440). -/
def Dir.addSharer (x : Dir) (r : Nat) : Dir :=
  if x.bcast || x.ptrs.contains r then { x with st := 1 }
  else if x.ptrs.length < 4 then { x with st := 1, ptrs := x.ptrs ++ [r] }
  else { st := 1, bcast := true, ptrs := [] }

/-- Agents a request must snoop in a directory state, and whether they are invalidated (R443, R446). -/
def Dev.snoops (d : Dev) (a : Nat) (x : Dir) (t : Txn) : List Nat × Bool :=
  let sharers := fun (r : Option Nat) =>
    (if x.bcast then d.bcastSet a else x.ptrs).filter (fun p => some p != r)
  match t.req, x.st with
  | .rdShared, 2 => (x.ptrs.filter (fun o => o != t.who), false)
  | .rdShared, _ => ([], false)
  | .rdOwn, 0 => ([], true)
  | .rdOwn, _ => (sharers (some t.who), true)
  | .upgrade, 0 => ([], true)
  | .upgrade, _ => (sharers (some t.who), true)
  | .wb, _ => ([], true)
  | .ncRead, 2 => (x.ptrs, false)
  | .ncRead, _ => ([], false)
  | _, 0 => ([], true)
  | _, _ => (sharers none, true)

/-- End a transaction whose snoops are answered: the response and the state after (R443, R446). -/
def Dev.finishTxn (d : Dev) (w a : Nat) (x : Dir) (t : Txn) : Dev :=
  let e := d.dirAddr w a
  let owned : Dir := { st := 2, ptrs := [t.who] }
  let d := match t.req with
    | .ncRead => d
    | .ncWrite => d
    | .ncReduce => d
    | _ => d.bump pgLat 0 0
  match t.req with
  | .rdShared =>
    if x.st = 0 then (d.putDir e owned).grant a t 0x61 0 true
    else if x.st = 1 then (d.putDir e (x.addSharer t.who)).grant a t 0x60 0 true
    else if x.ptrs.contains t.who then d.grant a t 0x61 0 true
    else (d.putDir e (({ st := 1, ptrs := t.keep } : Dir).addSharer t.who)).grant a t 0x60 0 true
  | .rdOwn => (d.putDir e owned).grant a t 0x61 0 true
  | .upgrade =>
    if x.st = 1 && !x.bcast && x.ptrs.contains t.who then (d.putDir e owned).grant a t 0x62 0 false
    else (d.putDir e owned).grant a t 0x61 0 true
  | .wb =>
    if x.st = 2 && x.ptrs.contains t.who then
      ((d.store (a / 64 * 64) (slice t.data 0 64) t.poison homeCharge).putDir e {}).grant a t 0x64 0 false
    else d.grant a t 0x64 0 false
  | .ncRead =>
    if x.st = 2 then d.putDir e (if t.keep.isEmpty then {} else { st := 1, ptrs := t.keep }) else d
  | _ => if x.st = 0 then d else (d.putDir e {}).bump pgLat 0 7

/-- Begin a transaction on a line that is not BUSY: snoops go out, or it ends at once (R443, R448, R449). -/
def Dev.beginTxn (d : Dev) (w a : Nat) (t : Txn) : Dev :=
  let (d, x) := d.dirLook w a
  let (sn, inv) := d.snoops a x t
  let (sus, live) := sn.partition (fun g => d.lat.suspects.contains g)
  let d := if x.st = 2 && !sus.isEmpty then d.poisonMem (a / 64) else d
  let bc := x.bcast && inv
  let d := if bc && !live.isEmpty then d.bump pgLat 0 3 else d
  if live.isEmpty then d.finishTxn w a x t
  else
    let d := d.sendSnoops a live inv bc
    let wt := live.foldl (fun (m : Tab Nat) g => Tab.set m g (d.now + d.snoopLimit g)) []
    { d with lat := { d.lat with busy := Tab.set d.lat.busy (a / 64) { t with waiting := wt } } }

/-- A request reaches the home: it begins, or waits behind a BUSY line or a full transaction table (R443). -/
def Dev.homeRequest (d : Dev) (w a : Nat) (t : Txn) : Dev :=
  if Tab.has d.lat.busy (a / 64) || d.lat.waiting.any (fun x => x.1 == a / 64) || decide (1024 ≤ d.lat.busy.length) then
    { d with lat := { d.lat with waiting := d.lat.waiting ++ [(a / 64, t)] } }
  else d.beginTxn w a t

/-- Begin the requests that no longer wait, oldest first (R443). -/
def Dev.homeNext : Nat → Dev → Dev
  | 0, d => d
  | k + 1, d =>
    if 1024 ≤ d.lat.busy.length then d else
    match d.lat.waiting.find? (fun x => !Tab.has d.lat.busy x.1) with
    | none => d
    | some (l, t) =>
      let d1 := { d with lat := { d.lat with waiting := d.lat.waiting.erase (l, t) } }
      match d1.winAt (64 * l) with
      | some w => Dev.homeNext k (d1.beginTxn w (64 * l) t)
      | none => Dev.homeNext k d1

/-- A snooped agent has answered, or counts as having answered (R443, R448): its copy's fate, and the end of the transaction when it was
the last. The second component says whether a transaction ended. -/
def Dev.snoopAnswered (d : Dev) (l agent : Nat) (keeps : Bool) : Dev × Bool :=
  match Tab.find? d.lat.busy l with
  | none => (d, false)
  | some t =>
    let t1 := { t with waiting := Tab.del t.waiting agent, keep := if keeps then t.keep ++ [agent] else t.keep }
    if t1.waiting.isEmpty then
      let d1 := { d with lat := { d.lat with busy := Tab.del d.lat.busy l } }
      match d1.winAt (64 * l) with
      | some w =>
        let x := dirOf (d1.peek (d1.dirAddr w (64 * l)) 16)
        (d1.finishTxn w (64 * l) x t1, true)
      | none => (d1, true)
    else ({ d with lat := { d.lat with busy := Tab.set d.lat.busy l t1 } }, false)

/-- Does reading the line need data from an owner? -/
def Dev.ownedElsewhere (d : Dev) (w a : Nat) : Bool :=
  let x := dirOf (d.peek (d.dirAddr w a) 16)
  decide (x.st = 2)

/-- Does any agent hold the line? -/
def Dev.heldLine (d : Dev) (w a : Nat) : Bool := (dirOf (d.peek (d.dirAddr w a) 16)).st != 0

/-- Lines of a local range that a non-caching agent must recall first (R446): owned ones for a read, any held one for a write. -/
def Dev.toRecall (d : Dev) (a n : Nat) (write : Bool) : List (Nat × Nat) :=
  if n = 0 || !d.enabled pgLat then [] else
  (List.range ((a + n - 1) / 64 + 1 - a / 64)).filterMap (fun i =>
    let l := a / 64 + i
    match d.winAt (64 * l) with
    | some w =>
      if Tab.has d.lat.busy l || (if write then d.heldLine w (64 * l) else d.ownedElsewhere w (64 * l)) then some (w, l) else none
    | none => none)

/-- A block serves what reaches it: it is enabled and not frozen (R55, R603). -/
def Dev.takes (d : Dev) (p : Nat) : Bool := d.enabled p && !d.frozen p
/-- The controller of a stored address serves its accesses: SEAT_CTL or HIDE_CTL; through a disabled or frozen one they wait (R603). -/
def Dev.memOn (d : Dev) (a : Nat) : Bool :=
  match regionOf d.part a with
  | .seat => d.takes (0xC + a / 2 ^ 35)
  | .hide n => d.takes (0xC0 + n)
  | _ => true
/-- An access to a range of memory must wait: for its controller, or for lines to be recalled. -/
def Dev.blocked (d : Dev) (a n : Nat) (write : Bool) : Bool :=
  n != 0 && (!d.memOn a || !d.memOn (a + n - 1)) || !(d.toRecall a n write).isEmpty

/-- Start the recalls of a range; those of lines already BUSY are under way. -/
def Dev.recall (d : Dev) (a n : Nat) (write : Bool) : Dev :=
  (d.toRecall a n write).foldl (fun d (w, l) =>
    if Tab.has d.lat.busy l then d
    else d.beginTxn w (64 * l) { req := if write then .ncWrite else .ncRead }) d

/-- A lease this node holds is lost (R456). -/
def Dev.leaseLost (d : Dev) (b : BorrowedLease) : Dev :=
  if b.lost then d else
  let d1 := { d with lat := { d.lat with borrowed := d.lat.borrowed.map (fun (x : BorrowedLease) =>
    if x.node == b.node && x.handle == b.handle then { x with lost := true, auto := false } else x) } }
  (d1.setInt pgLat 1).latEvent { node := b.node, typ := 2, info := b.handle }

/-- A lease this node holds still lasts on its own clock (R454). -/
def Dev.leaseGood (d : Dev) (node handle : Nat) : Bool :=
  d.lat.borrowed.any (fun x => x.node == node && x.handle == handle && !x.lost && decide (d.now < x.since + leaseTerm))

/-! The neighbour window (R457). -/

/-- Where an access through the neighbour window goes. -/
inductive NbrTarget where
  | unmapped
  /-- The entry's lease is lost: reads are poisoned, writes discarded. -/
  | dead
  | remote (coherent : Bool) (g : Nat)
deriving DecidableEq, Repr

def Dev.nbrTarget (d : Dev) (a : Nat) : NbrTarget :=
  let i := a % 2 ^ 44 / 2 ^ 34
  let m := d.rgb R.nwinMap i
  if !fbit m 31 then .unmapped
  else
    let node := fld m 29 18
    let h := (d.rgb R.nwinLease i).toNat
    if h != 0 && !d.leaseGood node h then .dead
    else .remote (fbit m 30) (2 ^ 52 * node + 2 ^ 34 * fld m 17 0 + a % 2 ^ 34)

end Sys2Proof.Machine
end

