-- ==== Sys2Proof/Machine/TackOps.lean ====
section
/-! DEFINITION. The Tack room's operations: the object table, pools, quotas, binds and the reading of objects (R295 to R305, R318 to R324). -/

namespace Sys2Proof.Machine
open Sys2Proof

/-- OBJ_CFG.SLOTS_LOG2, read as the nearest of 16 to 25. -/
def Dev.slotsLog2 (d : Dev) : Nat := min (max (d.fd R.objCfg 4 0) 16) 25
/-- Slots of 64 MiB (R298). -/
def Dev.slots (d : Dev) : Nat := 2 ^ d.slotsLog2
def slotBytes : Nat := 2 ^ 26
/-- Start of object i. -/
def objAddr (i : Nat) : Nat := objBase + slotBytes * i
/-- Start of the object table (R299). -/
def Dev.objTable (d : Dev) : Nat := 2 ^ 21 * (d.addr52 R.objBaseLo R.objBaseHi / 2 ^ 21)

/-- An object table entry (R299). -/
structure ObjEntry where
  /-- 0 FREE, 1 FILLING, 2 SEALED, 3 CONT, 4 FREEING. -/
  st : Nat := 0
  primary : Nat := 0
  nbr : Bool := false
  pinned : Bool := false
  lost : Bool := false
  /-- 0 STABLE, 1 COPYING, 2 VERIFYING, 3 SWITCHED. -/
  mig : Nat := 0
  kind : Nat := 0
  /-- 0 NONE, 1 HOT, 2 WARM, 3 COLD. -/
  hint : Nat := 0
  quarantine : Bool := false
  fn : Nat := 0
  len : Nat := 0
  loc : Nat := 0
  nbrLoc : Nat := 0
  heat : Nat := 0
  gen : Nat := 0
  readers : Nat := 0
deriving DecidableEq, Repr

/-- An entry read from its 32 bytes. -/
def objOf (l : List Byte) : ObjEntry :=
  let a := leAt l 0 1
  let b := leAt l 1 1
  { st := bits a 2 0, primary := bits a 4 3, nbr := a.testBit 5, pinned := a.testBit 6, lost := a.testBit 7,
    mig := bits b 1 0, kind := bits b 3 2, hint := bits b 5 4, quarantine := b.testBit 6,
    fn := leAt l 2 2 % 1024, len := leAt l 4 4, loc := leAt l 8 8, nbrLoc := leAt l 16 4, heat := leAt l 20 1,
    gen := leAt l 21 1, readers := leAt l 22 2 }

/-- The 32 bytes of an entry. -/
def objBytes (e : ObjEntry) : List Byte :=
  natLe 1 (e.st + e.primary * 8 + b2n e.nbr * 32 + b2n e.pinned * 64 + b2n e.lost * 128) ++
  natLe 1 (e.mig + e.kind * 4 + e.hint * 16 + b2n e.quarantine * 64) ++ natLe 2 e.fn ++ natLe 4 e.len ++ natLe 8 e.loc ++
  natLe 4 e.nbrLoc ++ natLe 1 e.heat ++ natLe 1 e.gen ++ natLe 2 e.readers ++ natLe 8 0

/-- Address of entry i. -/
def Dev.objEntryAt (d : Dev) (i : Nat) : Nat := d.objTable + 32 * i
/-- Entry i. -/
def Dev.obj (d : Dev) (i : Nat) : ObjEntry := objOf (d.peek (d.objEntryAt i) 32)
/-- Write entry i. -/
def Dev.putObj (d : Dev) (i : Nat) (e : ObjEntry) : Dev := d.store (d.objEntryAt i) (objBytes e)
/-- Change entry i. -/
def Dev.updObj (d : Dev) (i : Nat) (f : ObjEntry → ObjEntry) : Dev := d.putObj i (f (d.obj i))

/-- Slots an object of `n` 64 KiB units takes. -/
def slotsOf (n : Nat) : Nat := ceilDiv n 1024

/-! Pools (R296). -/

/-- Units of a pool. -/
def Dev.poolCap (d : Dev) : Pool → Nat
  | .seat => min (d.fd R.poolSeatLen 20 0) (2 ^ 20 - d.fd R.poolSeatBase 19 0)
  | .hide n => if d.stackOut n then 0 else 16384 * min (d.fd R.poolHide 6 0) 64
  | .flash c => match Tab.find? d.flash.ch c with
    | some x => if x.inService then x.luCount / 16 else 0
    | none => 0
  | .nbr e => match Tab.find? d.tack.nbr e with
    | some x => if x.st == .active then x.len else 0
    | none => 0

/-- Local address of unit `s` of a pool (byte-addressable ones). -/
def Dev.poolAddr (d : Dev) (p : Pool) (s : Nat) : Nat :=
  match p with
  | .seat => 65536 * (d.fd R.poolSeatBase 19 0 + s)
  | .hide n => hideBase + 2 ^ 36 * n + (2 ^ 36 - 2 ^ 30 * min (d.fd R.poolHide 6 0) 64) + 65536 * s
  | .flash _ => 0
  | .nbr e => (match Tab.find? d.tack.nbr e with
    | some x => x.base
    | none => 0) + 65536 * s

/-- Tier code of a pool (R295). -/
def Pool.tier : Pool → Nat
  | .seat => 0
  | .hide _ => 1
  | .nbr _ => 2
  | .flash _ => 3

/-- Units allocated in a pool. -/
def Dev.poolUsed (d : Dev) (p : Pool) : Nat :=
  ((d.tack.allocs.filter (fun a => a.pool == p)).map (fun a => a.len)).foldl (· + ·) 0
/-- Units free in a pool. -/
def Dev.poolFree (d : Dev) (p : Pool) : Nat := d.poolCap p - d.poolUsed p

/-- Units [s, s + n) of a pool are free. -/
def Dev.poolFits (d : Dev) (p : Pool) (s n : Nat) : Bool :=
  decide (s + n ≤ d.poolCap p) &&
  (d.tack.allocs ++ d.tack.deallocs).all (fun a => a.pool != p || decide (a.start + a.len ≤ s) || decide (s + n ≤ a.start))

/-- Where a run of `n` units is allocated: any place it fits, the choice being the device's own. -/
def Dev.poolPlace (d : Dev) (p : Pool) (n : Nat) : Option Nat :=
  let s := d.pick (max (d.poolCap p) 1)
  if d.poolFits p s n then some s
  else (0 :: ((d.tack.allocs ++ d.tack.deallocs).filter (fun a => a.pool == p)).map (fun a => a.start + a.len)).find? (fun s => d.poolFits p s n)

/-! Quotas (R318, R319). -/

/-- Limit of a function in a tier. -/
def Dev.quotaLimit (d : Dev) (f tier : Nat) : Nat := (d.rgb R.quotaLimit (tier * 1024 + f)).toNat
/-- Usage: what the function's allocations hold. -/
def Dev.quotaUsed (d : Dev) (f tier : Nat) : Nat :=
  ((d.tack.allocs.filter (fun a => a.fn == f && a.pool.tier == tier)).map (fun a => a.len)).foldl (· + ·) 0
/-- A charge fits (0xFFFF_FFFF means no limit). -/
def Dev.quotaFits (d : Dev) (f tier n : Nat) : Bool :=
  d.quotaLimit f tier == 0xFFFFFFFF || decide (d.quotaUsed f tier + n ≤ d.quotaLimit f tier)

/-- Allocate and charge, if the pool has room. -/
def Dev.allocIn (d : Dev) (p : Pool) (n f : Nat) : Option (Dev × Alloc) :=
  match d.poolPlace p n with
  | none => none
  | some s =>
    let a : Alloc := { pool := p, start := s, len := n, fn := f }
    some (({ d with tack := { d.tack with allocs := d.tack.allocs ++ [a] } } : Dev).drawn, a)

/-- A LOSING extent that holds no copy any more becomes FREE (R321). -/
def Dev.nbrSettle (d : Dev) (e : Nat) : Dev :=
  match Tab.find? d.tack.nbr e with
  | some x =>
    if x.st == .losing && d.tack.allocs.all (fun a => a.pool != .nbr e) then
      ({ d with tack := { d.tack with nbr := Tab.del d.tack.nbr e } } : Dev).setInt pgTack 1
    else d
  | none => d

/-- Free and uncharge; flash storage is deallocated at the Currier before it is used again (R364). -/
def Dev.freeAlloc (d : Dev) (a : Alloc) : Dev :=
  let d : Dev := { d with tack := { d.tack with allocs := d.tack.allocs.erase a } }
  match a.pool with
  | .flash _ => { d with tack := { d.tack with deallocs := d.tack.deallocs ++ [a] } }
  | .nbr e => d.nbrSettle e
  | _ => d

/-- The stack in service with the most free pool space, lowest index on a tie (R312). -/
def Dev.bestStack (d : Dev) (ok : Nat → Bool) : Option Nat :=
  (List.range 16).foldl (fun (b : Option Nat) n =>
    if d.stackOut n || !ok n then b
    else match b with
      | none => some n
      | some m => if d.poolFree (.hide m) < d.poolFree (.hide n) then some n else b) none

/-- The channel in service with the most free logical units, lowest on a tie (R312). -/
def Dev.bestChannel (d : Dev) : Option Nat :=
  (Tab.keys d.flash.ch).foldl (fun (b : Option Nat) c =>
    if d.poolCap (.flash c) = 0 then b
    else match b with
      | none => some c
      | some m => if d.poolFree (.flash m) < d.poolFree (.flash c) then some c else b) none

/-- PRIMARY_LOC of a copy in a pool (R299). -/
def Dev.locOf (d : Dev) (a : Alloc) : Nat :=
  match a.pool with
  | .flash c => 16 * a.start + 2 ^ 48 * c
  | p => d.poolAddr p a.start

/-- The allocation of an object's copy of a tier. -/
def Dev.copyAlloc (d : Dev) (e : ObjEntry) (tier : Nat) : Option Alloc :=
  if tier = 2 then
    d.tack.allocs.find? (fun a => a.pool == .nbr (e.nbrLoc % 64) && a.start == e.nbrLoc / 64 && a.len == e.len)
  else d.tack.allocs.find? (fun a => a.pool.tier == tier && d.locOf a == e.loc && a.len == e.len)

/-! Binds (R304). -/

/-- Readers of a copy. -/
def Dev.readersOf (d : Dev) (o tier : Nat) : Nat := Tab.getD d.tack.readers (4 * o + tier) 0
/-- Readers over all copies. -/
def Dev.allReaders (d : Dev) (o : Nat) : Nat := ((List.range 4).map (fun t => d.readersOf o t)).foldl (· + ·) 0

/-- The copy a bind takes: tier code (R304). -/
def Dev.bindTier (d : Dev) (e : ObjEntry) : Nat :=
  if e.primary = 0 || e.primary = 1 then e.primary
  else if e.nbr then
    match Tab.find? d.tack.nbr (e.nbrLoc % 64) with
    | some x => if x.st == .active then 2 else 3
    | none => 3
  else 3

/-- The copy of a tier is lost with its tier (R323). -/
def Dev.copyDead (d : Dev) (e : ObjEntry) (tier : Nat) : Bool :=
  match tier with
  | 1 => d.stackOut (e.loc / 2 ^ 36 - 16)
  | 3 => match Tab.find? d.flash.ch (e.loc / 2 ^ 48) with
    | some c => !c.inService
    | none => true
  | _ => false

/-- One more access: HEAT rises by 1, saturating (R309). -/
def Dev.heatUp (d : Dev) (o : Nat) : Dev := d.updObj o (fun e => { e with heat := min (e.heat + 1) 255 })

/-- Uncorrectable error in an object's entry (R324). -/
def Dev.tableUe (d : Dev) (o : Nat) : Dev :=
  let d := (d.setErr pgTack 1 (d.objEntryAt o)).touchLines (d.objEntryAt o) 32
  { d with tack := { d.tack with badEntry := insNat d.tack.badEntry o } }

/-- A bind reads an object's entry: a corrected word is reported (R545). -/
def Dev.entryLook (d : Dev) (o : Nat) : Dev :=
  let a := d.objEntryAt o
  if d.lineValid (a / 64) && (List.range 4).any (fun i => (d.mem.wclass (a / 8 + i)).corrected) then (d.touchLines a 32).setInt pgTack 3 else d

/-- Add a reader of a copy. -/
def Dev.addReader (d : Dev) (o tier : Nat) : Dev :=
  let d := { d with tack := { d.tack with readers := Tab.upd d.tack.readers (4 * o + tier) 0 (· + 1) } }
  d.updObj o (fun e => { e with readers := sat 16 (d.allReaders o) })

/-- The reader that a migration of object o is to the fabric. -/
def migReader (o : Nat) : Nat := 2 ^ 34 + o

/-- Writes to an allocation wait for the ledger no longer. -/
def Dev.writesOff (d : Dev) (a : Alloc) : Dev :=
  match a.pool with
  | .flash c => { d with flash := { d.flash with waiting := d.flash.waiting.filter (fun w => !(w.1 == c && decide (16 * a.start ≤ w.2) && decide (w.2 < 16 * (a.start + a.len)))) } }
  | _ => d

/-- Abandon a migration that has not switched (R308): its target is freed, and a PIN that waits for it counts a failure (R317). -/
def Dev.migAbandon (d : Dev) (o : Nat) : Dev :=
  match Tab.find? d.tack.migs o with
  | none => d
  | some m =>
    if (d.obj o).mig = 3 then d else
    let d := match m.target with
      | some a => (d.freeAlloc a).writesOff a
      | none => d
    let pins := match m.pinFor with
      | some c => Tab.upd? d.tack.pins c (fun (p : PinCmd) => { p with failed := p.failed + 1 })
      | none => d.tack.pins
    let d : Dev := { d with tack := { d.tack with migs := Tab.del d.tack.migs o, pins := pins },
                            fab := { d.fab with bufs := Tab.del d.fab.bufs (migReader o) } }
    (d.updObj o (fun e => { e with mig := 0, kind := 0 })).bump pgTack 0 5

/-- PIN moves that wait for an object that is freed fail (R317). -/
def Dev.pinsGone (d : Dev) (o : Nat) : Dev :=
  let mine := d.tack.pinWaits.filter (fun w => w.obj == o)
  let pins := mine.foldl (fun t w => Tab.upd? t w.ctx (fun (p : PinCmd) => { p with failed := p.failed + 1 })) d.tack.pins
  { d with tack := { d.tack with pinWaits := d.tack.pinWaits.filter (fun w => w.obj != o), pins := pins } }

/-- Free every copy of an object whose readers have ended, and its slots (R300). -/
def Dev.freeObject (d : Dev) (o : Nat) : Dev :=
  let e := d.obj o
  let drop := fun (d : Dev) t => match d.copyAlloc e t with
    | some a => d.freeAlloc a
    | none => d
  let d := drop d e.primary
  let d := if e.nbr then drop d 2 else d
  let d := match Tab.find? d.tack.migs o with
    | some m =>
      let d := match m.old with
        | some a => d.freeAlloc a
        | none => d
      let d := match m.target with
        | some a => if e.mig = 3 then d else d.freeAlloc a
        | none => d
      { d with tack := { d.tack with migs := Tab.del d.tack.migs o } }
    | none => d
  let d := (List.range (slotsOf e.len - 1)).foldl (fun d i => d.putObj (o + 1 + i) { gen := (d.obj (o + 1 + i)).gen }) d
  let d := d.putObj o { gen := (e.gen + 1) % 256 }
  { d with tack := { d.tack with badEntry := delNat d.tack.badEntry o, stage := d.tack.stage.filter (fun u => u.2.obj != o) } }

/-- What happens when readers of an object have ended: FREEING ends, and a switched migration frees its old copy (R300, R306). -/
def Dev.settle (d : Dev) (o : Nat) : Dev :=
  let e := d.obj o
  if e.st = 4 && d.allReaders o = 0 then d.freeObject o
  else
    match Tab.find? d.tack.migs o with
    | some m =>
      if e.mig = 3 && d.readersOf o m.oldTier = 0 then
        let d := match m.old with
          | some a => d.freeAlloc a
          | none => d
        let d := if m.oldTier = 3 then { d with tack := { d.tack with stage := d.tack.stage.filter (fun u => u.2.obj != o) } } else d
        let d := { d with tack := { d.tack with migs := Tab.del d.tack.migs o } }
        d.updObj o (fun e => { e with mig := 0, kind := 0 })
      else d
    | none => d

/-- A reader of a copy ends (R304). -/
def Dev.dropReader (d : Dev) (o tier : Nat) : Dev :=
  let n := d.readersOf o tier
  let t := if n ≤ 1 then Tab.del d.tack.readers (4 * o + tier) else Tab.set d.tack.readers (4 * o + tier) (n - 1)
  let d := { d with tack := { d.tack with readers := t } }
  let d := d.updObj o (fun e => { e with readers := sat 16 (d.allReaders o) })
  d.settle o

/-- The bind that a waiting access of a reader holds on object o. -/
def Dev.heldBind (d : Dev) (who : Reader) (o : Nat) : Option ObjBind := d.tack.held.find? (fun b => b.who == who && b.obj == o)

/-- A byte access that must wait holds its bind: on the copy of `tier`, where it has none yet (R300, R304). -/
def Dev.hold (d : Dev) (who : Reader) (o tier a n : Nat) : Dev :=
  match d.heldBind who o with
  | some _ => d
  | none =>
    ({ d with tack := { d.tack with held := d.tack.held ++ [{ who := who, obj := o, tier := tier, addr := a, len := n, since := d.now }] } } : Dev).addReader o tier

/-- A held bind is let go. -/
def Dev.unhold (d : Dev) (b : ObjBind) : Dev :=
  ({ d with tack := { d.tack with held := d.tack.held.erase b } } : Dev).dropReader b.obj b.tier

/-- What readers wait for at the Tack room ends, with the binds they hold (R304). -/
def Dev.dropReads (d : Dev) (mine : Reader → Nat → Bool) : Dev :=
  let d : Dev := { d with tack := { d.tack with waits := d.tack.waits.filter (fun w => !mine w.who w.obj) } }
  (d.tack.held.filter (fun b => mine b.who b.obj)).foldl (fun d b => d.unhold b) d

/-- Report TIER_FAIL for an object whose only copy failed (R323). -/
def Dev.tierFailed (d : Dev) (o : Nat) : Dev :=
  let d := if (d.obj o).lost then d else (d.updObj o (fun e => { e with lost := true })).setInt pgTack 2
  (d.dropReads (fun _ p => p == o)).bump pgTack 1 7

/-- The object whose configured slots and length hold an address of the tiered range, whatever its state: object, entry, offset (R298). -/
def Dev.objSlot (d : Dev) (a : Nat) : Option (Nat × ObjEntry × Nat) :=
  let i := a % 2 ^ 51 / slotBytes
  if d.slots ≤ i then none
  else
    let e0 := d.obj i
    let o := if e0.st = 3 then e0.len else i
    let e := d.obj o
    if e.st != 0 && e.st != 3 && decide (a < objAddr o + 65536 * e.len) then some (o, e, a - objAddr o) else none

/-- The object at an address of the tiered range, for a new bind: object, entry, offset (R298, R300). -/
def Dev.objAt (d : Dev) (a : Nat) : Option (Nat × ObjEntry × Nat) :=
  (d.objSlot a).filter (fun x => x.2.1.st == 1 || x.2.1.st == 2)

/-- The object an access of a reader reads: through a new bind, or through the one it holds though the object has become FREEING (R300). -/
def Dev.objFor (d : Dev) (who : Reader) (a : Nat) : Option (Nat × ObjEntry × Nat) :=
  (d.objSlot a).filter (fun x => x.2.1.st == 1 || x.2.1.st == 2 || (x.2.1.st == 4 && (d.heldBind who x.1).isSome))

/-- An object as the copy of `tier` that a reader bound: a migration that has switched leaves the old copy where it was (R306). -/
def Dev.boundObj (d : Dev) (o tier : Nat) : ObjEntry :=
  let e := d.obj o
  if tier = 2 || e.primary = tier then e
  else match Tab.find? d.tack.migs o with
    | some m => (match m.old with
      | some a => { e with primary := tier, loc := d.locOf a }
      | none => e)
    | none => e

/-! Flash units as the Tack room sees them (R363, R364). -/

/-- 4 KiB of a channel's logical space. -/
def Dev.flashUnit (d : Dev) (c u : Nat) : List Byte :=
  match Tab.find? d.flash.ch c with
  | some x => slice (Tab.getD x.data u []) 0 4096
  | none => List.replicate 4096 0
/-- A unit cannot be given as good data: it is unrecoverable, or its data in the write buffer is poisoned (R361, R387). -/
def Dev.flashBad (d : Dev) (c u : Nat) : Option Status :=
  match Tab.find? d.flash.ch c with
  | some x => if !x.lost.contains u then none else if x.pend.any (fun p => p.unit == u) then some .poisoned else some .mediaError
  | none => some .tierFail

/-- Units [o / 4096 …] of a flash copy that cover bytes [off, off + n). -/
def unitsOf (off n : Nat) : List Nat := if n = 0 then [] else (List.range ((off + n - 1) / 4096 + 1 - off / 4096)).map (fun i => off / 4096 + i)

/-- Bytes of a flash copy. -/
def Dev.flashBytes (d : Dev) (loc off n : Nat) : List Byte :=
  let c := loc / 2 ^ 48
  let u0 := loc % 2 ^ 48
  slice (((unitsOf off n).map (fun u => d.flashUnit c (u0 + u))).flatten) (off % 4096) n
def Dev.flashRangeBad (d : Dev) (loc off n : Nat) : Option Status :=
  (unitsOf off n).findSome? (fun u => d.flashBad (loc / 2 ^ 48) (loc % 2 ^ 48 + u))

/-- Bytes of an object's primary copy with no stall: what the copy holds. Where the device's own logic reads an image again that it has fetched
from a neighbour copy, these stand for that copy, which R303 has found equal (log entry 12). -/
def Dev.copyBytes (d : Dev) (e : ObjEntry) (tier off n : Nat) : List Byte :=
  if tier = 0 || tier = 1 then d.peek (e.loc + off) n
  else if e.primary = 3 then d.flashBytes e.loc off n
  else d.peek (e.loc + off) n

/-- Whether those bytes are unusable, and why. -/
def Dev.copyBad (d : Dev) (e : ObjEntry) (tier off n : Nat) : Option Status :=
  if tier = 0 || tier = 1 then (if d.bad (e.loc + off) n then some .poisoned else none)
  else if e.primary = 3 then (if tier = 2 then none else d.flashRangeBad e.loc off n)
  else if d.bad (e.loc + off) n then some .poisoned else none

/-- Units of the staging cache (R305, R325). -/
def Dev.stageCap (d : Dev) : Nat := 256 * min (max (d.fd R.stageLen 12 0) 16) 4096
def Dev.staged (d : Dev) (o u : Nat) : Bool := d.tack.stage.any (fun s => s.2.obj == o && s.2.unit == u)
/-- Drop an object's units from the staging cache. -/
def Dev.unstage (d : Dev) (o : Nat) : Dev := { d with tack := { d.tack with stage := d.tack.stage.filter (fun u => u.2.obj != o) } }

/-- An access finds units staged: their CLOCK bits are set and the hits counted. -/
def Dev.stageHit (d : Dev) (o : Nat) (us : List Nat) : Dev :=
  ({ d with tack := { d.tack with stage := d.tack.stage.map (fun s => if s.2.obj == o && us.contains s.2.unit then (s.1, { s.2 with used := true }) else s) } } : Dev).bump pgTack 0 11 us.length

/-- Where the staging cache holds unit u of an object. -/
def Dev.stagedAt (d : Dev) (o u : Nat) : Nat :=
  65536 * d.fd R.stageBase 19 0 + 4096 * ((List.find? (fun s => s.2.obj == o && s.2.unit == u) d.tack.stage).map Prod.fst).getD 0
/-- Ranges of the staging cache that hold bytes [off, off + n) of an object, all of whose units are staged. -/
def Dev.stagedParts (d : Dev) (o off n : Nat) : List (Nat × Nat) :=
  (unitsOf off n).map (fun u =>
    let lo := max off (4096 * u)
    (d.stagedAt o u + lo % 4096, min (off + n) (4096 * (u + 1)) - lo))
/-- Read staged bytes: what they are, and why they are no good (R305, R361, R554). -/
def Dev.stagedRead (d : Dev) (o : Nat) (e : ObjEntry) (off n : Nat) : Dev × List Byte × Option Status :=
  let ps := d.stagedParts o off n
  let bad := match d.flashRangeBad e.loc off n with
    | some st => some st
    | none => if ps.any (fun p => d.bad p.1 p.2) then some .poisoned else none
  ((ps.foldl (fun d p => d.touch p.1 p.2) d).stageHit o (unitsOf off n), (ps.map (fun p => d.peek p.1 p.2)).flatten, bad)

/-- An access waits for units that are not staged: one stall of the access (R305, R322). -/
def Dev.stageMiss (d : Dev) (o : Nat) (us : List Nat) (who : Reader) (a n : Nat) : Dev :=
  let old := d.tack.waits.any (fun w => w.obj == o && w.who == who)
  let new := us.filter (fun u => !d.tack.waits.any (fun w => w.obj == o && w.unit == u && w.who == who))
  let d := if old || new.isEmpty then d else d.bump pgTack 1 0
  { d with tack := { d.tack with waits := d.tack.waits ++ new.map (fun u => { obj := o, unit := u, who := who, addr := a, len := n, since := d.now }) } }

end Sys2Proof.Machine
end

