-- ==== Sys2Proof/Machine/Cmd.lean ====
section
/-! DEFINITION. Commands in contexts: their fields, how they end, and how they read and write memory anywhere (R49, R63 to R78, R597). -/

namespace Sys2Proof.Machine
open Sys2Proof

/-- Code of a status (R77). -/
def Status.code : Status → Nat
  | .ok => 0x00 | .superseded => 0x10 | .versionConflict => 0x11 | .mapStale => 0x12 | .fenced => 0x13
  | .ctxLost => 0x20 | .poisoned => 0x21 | .tierFail => 0x22 | .mediaError => 0x23
  | .quota => 0x30 | .snapshotExpired => 0x31 | .snapshotPinLimit => 0x32
  | .invalidCmd => 0x40 | .badCollection => 0x41 | .badTable => 0x42 | .abortedReset => 0x50 | .timeout => 0x51

/-- Status of a code that another node sends back. -/
def statusOf (c : Nat) : Status :=
  ([.ok, .superseded, .versionConflict, .mapStale, .fenced, .ctxLost, .poisoned, .tierFail, .mediaError, .quota, .snapshotExpired,
    .snapshotPinLimit, .invalidCmd, .badCollection, .badTable, .abortedReset, .timeout] : List Status).find? (fun s => s.code == c)
    |>.getD .tierFail

/-- Status that a NACK code names where a chapter names none (R433). -/
def nackStatus (code : Nat) : Status :=
  if code = 2 then .mapStale else if code = 3 then .fenced else if code = 7 || code = 8 then .invalidCmd else .tierFail

/-- Rank of causes that reach a context in one cycle (R597): the lower decides. -/
def Status.rank : Status → Nat
  | .abortedReset => 0 | .ctxLost => 1 | .fenced => 2 | .mapStale => 3 | .poisoned => 4 | .mediaError => 5
  | .tierFail => 6 | .badTable => 7 | .timeout => 8 | _ => 9

/-- Context c, if a command holds it. -/
def Dev.ctx? (d : Dev) (c : Nat) : Option Ctx := Tab.find? d.cp.held c
/-- Replace a held context. -/
def Dev.setCtx (d : Dev) (c : Nat) (x : Ctx) : Dev := { d with cp := { d.cp with held := Tab.set d.cp.held c x } }
/-- Change a held context. -/
def Dev.updCtx (d : Dev) (c : Nat) (f : Ctx → Ctx) : Dev :=
  match d.ctx? c with
  | some x => d.setCtx c (f x)
  | none => d

/-! Fields of a command entry (R70). -/
def Ctx.n (x : Ctx) (o w : Nat) : Nat := leAt x.entry o w
def Ctx.opcode (x : Ctx) : Nat := x.n 0 1
def Ctx.fence (x : Ctx) : Bool := (x.n 1 1).testBit 0
def Ctx.coll (x : Ctx) : Nat := bits (x.n 4 4) 11 0
def Ctx.snapIdx (x : Ctx) : Nat := bits (x.n 4 4) 23 12
def Ctx.snapGen (x : Ctx) : Nat := bits (x.n 4 4) 31 24
def Ctx.desc (x : Ctx) : Nat := x.n 8 8
def Ctx.out (x : Ctx) : Nat := x.n 16 8
def Ctx.outLen (x : Ctx) : Nat := x.n 24 4
def Ctx.descLen (x : Ctx) : Nat := x.n 28 4
/-- Every byte of OPSPEC from `o` on is zero. -/
def Ctx.zeroFrom (x : Ctx) (o : Nat) : Bool := (slice x.entry o (64 - o)).all (fun b => b == 0)

/-- µs from fetch (SPEC1 of many opcodes), 32 bits. -/
def Dev.sinceFetch (d : Dev) (x : Ctx) : Nat := sat 32 ((d.now - x.fetched) / 1600)

/-- The context waits to start: fetched, FENCE satisfied, no earlier command of its ring still to start, no cause (R64, R597). -/
def Dev.canStart (d : Dev) (c : Nat) (op : Nat) : Bool :=
  match d.ctx? c with
  | some x =>
    x.opcode == op && x.ready && !x.started && x.done.isNone && x.cause.isNone && d.ctxWorks &&
    d.cp.held.all (fun (_, y) => !(y.fn == x.fn && y.sq == x.sq && decide (y.seq < x.seq) && y.ready && !y.started && y.done.isNone))
  | none => false

/-- The command goes on: held, started, not ended. -/
def Dev.live (d : Dev) (c : Nat) : Bool :=
  match d.ctx? c with
  | some x => x.started && x.done.isNone
  | none => false

/-- The cause that stands when `st` reaches a context at time t (R597): the first one, or of one cycle the one that ranks higher. -/
def causeAfter (t : Nat) (st : Status) (c : Option (Status × Nat)) : Option (Status × Nat) :=
  match c with
  | none => if st.rank < 9 then some (st, t) else none
  | some (s0, t0) => if t0 = t && decide (st.rank < s0.rank) then some (st, t0) else some (s0, t0)

/-- A cause is recorded against a command that goes on to its next cancellation point. -/
def Dev.noteCause (d : Dev) (c : Nat) (st : Status) : Dev :=
  d.updCtx c (fun x => if x.done.isSome then x else { x with cause := causeAfter d.now st x.cause })

/-- A cause reaches a command that has ended: one of the cycle in which it ended may still decide its status. -/
def Dev.lateCause (d : Dev) (c : Nat) (st : Status) : Dev :=
  d.updCtx c (fun x => match causeAfter d.now st x.cause with
    | some (s, t) => if x.cause.isSome then { x with cause := some (s, t), done := x.done.map (fun r => { r with status := s }) } else x
    | none => x)

/-- End a command with its record's contents (R73, R78): flags other than STALLED_TIER only with OK or SUPERSEDED. A cause recorded before
decides the status (R597); lines still on their way find nothing any more (R69). -/
def Dev.finish (d : Dev) (c : Nat) (r : Compl) : Dev :=
  match d.ctx? c with
  | none => d
  | some x =>
    if x.done.isSome then d.lateCause c r.status else
    let why := causeAfter d.now r.status x.cause
    let st := match why with
      | some (s, _) => s
      | none => r.status
    let stall := if x.stalled then 16 else 0
    let old := if x.oldTable then 32 else 0
    let fl := if st = .ok || st = .superseded then r.flags ||| stall ||| old else (r.flags &&& 16) ||| stall
    let d1 := d.setCtx c { x with done := some { r with status := st, flags := fl, fin := d.cp.finSeq }, started := true, cause := why,
                                  remote := { wrOut := x.remote.wrOut } }
    { d1 with cp := { d1.cp with finSeq := d1.cp.finSeq + 1 } }

/-- End a command with a status and no counts. -/
def Dev.finishSt (d : Dev) (c : Nat) (st : Status) : Dev := d.finish c { status := st }

/-- End with OK and the given fields. -/
def Dev.finishOk (d : Dev) (c : Nat) (count spec0 spec1 : Nat) (flags : Nat := 0) : Dev :=
  d.finish c { status := .ok, count := sat 32 count, spec0 := spec0, spec1 := spec1, flags := flags }

/-- The command has taken its first effect. -/
def Dev.start (d : Dev) (c : Nat) : Dev := d.updCtx c (fun x => { x with started := true })

/-- A command's own deadline, in µs from its fetch; 0 for none. -/
def Dev.setDeadline (d : Dev) (c us : Nat) : Dev :=
  if us = 0 then d else d.updCtx c (fun x => { x with deadline := some (x.fetched + usCycles us) })

/-- Node fenced: what a command that names a collection, or uses the fabric, a lease, region or pool, ends with (R506). -/
def Dev.fencedEnd (d : Dev) : Bool := d.isFenced

/-! Mapped addresses (R48, R49). -/

/-- A local address that is mapped, and where the mapped stretch it lies in ends: of its region, its object, or its entry of the neighbour
window. -/
def Dev.mappedEnd (d : Dev) (a : Nat) : Option Nat :=
  match regionOf d.part a with
  | .hole => none
  | .seat => some (2 ^ 36)
  | .engSram _ => some (0x2000000000 + 0x800000 * d.part.engines)
  | .coreSram _ => some (a - a % 0x4000000 + 48 * 2 ^ 20)
  | .hide _ => some (hideBase + 2 ^ 40)
  | .nbr => (match d.nbrTarget a with
    | .unmapped => none
    | _ => some (a - a % 2 ^ 34 + 2 ^ 34))
  | .regs => if a % 2 ^ 32 / 65536 < 0x1400 then some (regBase + 0x14000000) else none
  | .obj => (d.objAt a).map (fun o => objAddr o.1 + 65536 * o.2.1.len)
/-- A local address is mapped. -/
def Dev.mappedAt (d : Dev) (a : Nat) : Bool := (d.mappedEnd a).isSome

/-- Every address from `a` up to `e` is mapped: stretch by stretch. -/
def Dev.mappedTo : Nat → Dev → Nat → Nat → Bool
  | 0, _, a, e => decide (e ≤ a)
  | k + 1, d, a, e => decide (e ≤ a) || (match d.mappedEnd a with
    | some b => Dev.mappedTo k d b e
    | none => false)

/-- A range named by a global address is mapped throughout (R49): a remote one is judged by its node. Lengths are below 2^32 bytes, and every
stretch but the last holds at least 64 KiB. -/
def Dev.mapped (d : Dev) (g n : Nat) : Bool :=
  if d.isLocal g then decide (localPart g + n ≤ 2 ^ 52) && Dev.mappedTo (n / 65536 + 2) d (localPart g) (localPart g + n) else true

/-! Reading and writing for a command. -/

/-- The command an item belongs to, while it stands in its context. -/
def Dev.itemCmd (d : Dev) (it : ReinItem) : Option Nat :=
  match it.owner with
  | .command c i => if (d.ctx? c).any (fun x => x.cinc == i) then some c else none
  | .work => none

/-- What a read gives. -/
inductive Got where
  | ready (bytes : List Byte) (bad : Option Status)
  | wait
  | fail (st : Status)
deriving DecidableEq, Repr

/-- A request header of this node to another, for a command's map generation (R427, R494). -/
def Dev.request (d : Dev) (msg node addr len : Nat) (gen : Nat) (vc : Nat) (data : List Byte := []) (aux : Nat := 0) : Msg :=
  { msg := msg, dst := node, src := d.node, mapGen := gen, len := len, fence := d.ownFence, addr := addr, aux := aux,
    data := data, vc := vc }

def Dev.query? (d : Dev) (k : Nat) : Option Query := Tab.find? d.srch.queries k
def Dev.setQuery (d : Dev) (k : Nat) (x : Query) : Dev := { d with srch := { d.srch with queries := Tab.set d.srch.queries k x } }
def Dev.updQuery (d : Dev) (k : Nat) (f : Query → Query) : Dev :=
  match d.query? k with
  | some x => d.setQuery k (f x)
  | none => d

/-- STALLED_TIER on a query and its command (R78, R142). -/
def Dev.stallQuery (d : Dev) (k : Nat) : Dev :=
  (d.updQuery k (fun q => { q with flags := q.flags ||| 16 })).updCtx (k / 256) (fun x => { x with stalled := true })

/-- STALLED_TIER on the command a reader belongs to (R78, R322). -/
def Dev.stallReader (d : Dev) (w : Reader) : Dev :=
  match w with
  | .command c i => d.updCtx c (fun x => if x.cinc = i then { x with stalled := true } else x)
  | .query k => d.stallQuery k
  | .stream s => d.stallQuery (s / 32768)
  | _ => d

/-- Lines of a global range. -/
def linesOf (g n : Nat) : List Nat := if n = 0 then [] else (List.range ((g + n - 1) / 64 + 1 - g / 64)).map (fun i => g / 64 + i)

/-- Group rising line numbers into runs of at most 64. -/
def runsOf : List Nat → List (Nat × Nat)
  | [] => []
  | l :: t =>
    match runsOf t with
    | (s, n) :: r => if s = l + 1 && n < 64 then (l, n + 1) :: r else (l, 1) :: (s, n) :: r
    | [] => [(l, 1)]

/-- Query k (256 × search + query) as a reader: what it waits for at the Tack room is its own, what it fetches its search's. -/
def qRd (k : Nat) : Nat := 2 ^ 32 + k
/-- The reader whose buffer a reader uses: a query's is its search's. -/
def bufReader (i : Nat) : Nat := if 2 ^ 32 ≤ i && decide (i < 2 ^ 33) then (i - 2 ^ 32) / 256 else i

/-- Lines that reader i has fetched from other nodes: in its context, or kept for a reader that has none. -/
def Dev.bufOf (d : Dev) (i : Nat) : RemoteBuf :=
  match d.ctx? i with
  | some x => x.remote
  | none => Tab.getD d.fab.bufs i {}
/-- Replace them. -/
def Dev.setBuf (d : Dev) (i : Nat) (b : RemoteBuf) : Dev :=
  match d.ctx? i with
  | some x => d.setCtx i { x with remote := b }
  | none => { d with fab := { d.fab with bufs := Tab.set d.fab.bufs i b } }
/-- Where the lines that a reader fetches from a neighbour copy are kept. -/
def Reader.buf : Reader → Nat
  | .command c _ => c
  | .query k => k / 256
  | .master m => 2 ^ 35 + m
  | .saddle n => 2 ^ 36 + n
  | .stream sn => 2 ^ 40 + sn

/-- Key of a list's rebuild. -/
def listKey (c l : Nat) : Nat := 2 ^ 24 * c + l
/-- Reader that a rebuild is: its command, or one of its own. -/
def Rebuild.reader (r : Rebuild) : Nat := r.cmds.headD (2 ^ 20 + listKey r.coll r.list)
/-- The rebuild that reader i is. -/
def Dev.rebuildOf (d : Dev) (i : Nat) : Option Rebuild := (Tab.vals d.upd.rebuilds).find? (fun r => r.reader == i)

/-- Search number of the command that a gather of rows serves. -/
def Dev.gatherSid (d : Dev) (u : GatherUse) : Option Nat :=
  match u with
  | .filter q => some (q / 256)
  | .tokens r => (Tab.find? d.eng.runs r).map (fun x => match x.use with
    | .queryEmbed q => q / 256
    | .queryRerank q => q / 256
    | _ => x.ctx)
/-- The same of a fill's first waiter: 64 × instance + slot. -/
def Dev.fillSid (d : Dev) (n : Nat) : Option Nat :=
  ((((Tab.find? d.sb.inst (n / 64)).bind (fun y => Tab.find? y.fills (n % 64))).bind (fun f => f.waiters.head?)).bind
    (fun w => Tab.find? d.sb.reqs w.1)).bind (fun x => d.gatherSid x.use)

/-- What the work of search number i is charged to: the command in that context; of a fan-out's own shard, the command that asked; a search that
another node asked for belongs to no command here. A promoted rebuild takes strict queue 2 (R483). -/
def Dev.chargeSid (d : Dev) (i : Nat) : Charge :=
  let strict := if (d.rebuildOf i).any (fun r => r.promoted) then some 2 else none
  match d.ctx? i with
  | some x => { fn := x.fn, owner := .command i x.cinc, strict := strict }
  | none => match (Tab.find? d.srch.all i).bind (fun (s : Search) => s.origin) with
    | some (n, ref) => (match d.ctx? (ref / 2 ^ 18 % 4096) with
      | some x => if n = d.node then { fn := x.fn, owner := .command (ref / 2 ^ 18 % 4096) x.cinc } else {}
      | none => {})
    | none => (match d.rebuildOf i with
      | some r => { fn := r.fn, strict := strict }
      | none => {})

/-- Search number, or other number, that a reader works under. -/
def Dev.readerSid (d : Dev) (i : Nat) : Nat :=
  if 2 ^ 40 ≤ i then (i - 2 ^ 40) / 32768 / 256
  else if 2 ^ 36 ≤ i then (d.fillSid (i - 2 ^ 36)).getD i
  else i

/-- Map generation of a reader's requests, what they are charged to, and its incarnation: a stream's and a query's are its command's; a
migration is charged to its object's function (R307), the reading of a ring to the ring's (R483). -/
def Dev.readerIs (d : Dev) (i : Nat) : Nat × Charge × Nat :=
  let c := d.readerSid i
  match d.ctx? c with
  | some x => (x.mapGen, d.chargeSid c, x.cinc)
  | none =>
    let gen := match Tab.find? d.srch.all c with
      | some s => s.mapGen
      | none => d.curGen
    if 2 ^ 34 ≤ i && decide (i < 2 ^ 35) then
      (match Tab.find? d.tack.migs (i - 2 ^ 34) with
       | some m => (gen, { fn := (d.obj (i - 2 ^ 34)).fn }, m.id)
       | none => (gen, {}, 0))
    else if 2 ^ 21 ≤ i && decide (i < 2 ^ 22) then (gen, { fn := some ((i - 2 ^ 21) / 8) }, 0)
    else (gen, d.chargeSid c, 0)
/-- What a reader's work is charged to. -/
def Dev.chargeOf (d : Dev) (i : Nat) : Charge := (d.readerIs i).2.1

/-- Let go of lines that reader i has fetched. -/
def Dev.dropLines (d : Dev) (i : Nat) (ls : List Nat) : Dev :=
  let b := d.bufOf i
  d.setBuf i { b with lines := b.lines.filter (fun e => !ls.contains e.1) }
/-- Where on another node a global address lies, if it does: there by itself, or through the neighbour window. -/
def Dev.remoteOf (d : Dev) (g : Nat) : Option Nat :=
  if !d.isLocal g then some g
  else if regionOf d.part (localPart g) == .nbr then (match d.nbrTarget (localPart g) with
    | .remote _ g' => some g'
    | _ => none)
  else none

/-- Read a range that lies on another node, for reader i (R429). -/
def Dev.remoteRead (d : Dev) (i g n vc : Nat) : Dev × Got :=
  let b := d.bufOf i
  let (gen, who, cinc) := d.readerIs i
  let ls := linesOf g n
  let miss := ls.filter (fun l => !Tab.has b.lines l)
  match ls.findSome? (fun l => Tab.find? b.fails l) with
  | some st => (d, .fail st)
  | none =>
    if miss.isEmpty then
      let all := ls.map (fun l => Tab.getD b.lines l ([], false))
      (d, .ready (slice ((all.map Prod.fst).flatten) (g % 64) n) (if all.any Prod.snd then some .poisoned else none))
    else if d.isFenced then (d, .fail .fenced)
    else
      let need := miss.filter (fun l => !b.asked.contains l)
      let send := fun (acc : Dev × Bool) (r : Nat × Nat) =>
        let (d, ok) := acc
        let a := 64 * r.1
        let (d1, ok1) := d.sendReq (.cmdRead i cinc a (64 * r.2)) (d.request 1 (a / 2 ^ 52) (a % 2 ^ 52) (64 * r.2) gen vc) who
        (d1, ok && ok1)
      let (d1, ok) := (runsOf need).foldl send (d, true)
      if ok then (d1.setBuf i { d1.bufOf i with asked := (d1.bufOf i).asked ++ need }, .wait)
      else (d1, .fail .tierFail)

/-- An extent serves reads of its copies: it is ACTIVE (R321). -/
def Dev.extentUp (d : Dev) (x : Nat) : Bool :=
  match Tab.find? d.tack.nbr x with
  | some z => z.st == .active
  | none => false

/-- Read bytes of the neighbour window for reader i (R457). -/
def Dev.windowRead (d : Dev) (i a n : Nat) : Dev × Got :=
  match d.nbrTarget a with
  | .remote _ g => d.remoteRead i g n 7
  | .dead => (d, .ready (List.replicate n 0) (some .poisoned))
  | .unmapped => (d, .fail .tierFail)
/-- Window address of byte `off` of an object's neighbour copy. -/
def Dev.nbrAt (d : Dev) (e : ObjEntry) (off : Nat) : Nat := d.poolAddr (.nbr (e.nbrLoc % 64)) (e.nbrLoc / 64) + off

/-- A reader whose bound copy is the neighbour's and serves no more is bound to the primary (R321, R322): `why` its counter. -/
def Dev.rebound (d : Dev) (who : Reader) (o a n why : Nat) : Dev :=
  let t := (d.obj o).primary
  let d := match d.heldBind who o with
    | some b =>
      let d : Dev := { d with tack := { d.tack with held := d.tack.held.map (fun x => if x == b then { b with tier := t } else x) } }
      (d.addReader o t).dropReader o b.tier
    | none => d.hold who o t a n
  (d.stallReader who).bump pgTack 1 why

/-- Read an object's bytes from a primary copy that a reader has bound, for a bind it holds when it must wait (R304, R305, R323). -/
def Dev.copyLook (d : Dev) (who : Reader) (o t off a n : Nat) : Dev × Got :=
  let e := d.boundObj o t
  if e.lost || d.copyDead e t then (d.tierFailed o, .fail .tierFail)
  else if t = 3 then
    let miss := (unitsOf off n).filter (fun u => !d.staged o u)
    if miss.isEmpty then
      let (d, b, bad) := d.stagedRead o e off n
      (d, .ready b bad)
    else ((d.hold who o t a n).stageMiss o miss who a n, .wait)
  else if !d.memOn (e.loc + off) then (d.hold who o t a n, .wait)
  else (d.touch (e.loc + off) n (d.chargeOf who.buf), .ready (d.copyBytes e t off n) (d.copyBad e t off n))

/-- Read an object's bytes through the copy a bind takes, or the one that a waiting access holds (R304, R305, R321 to R324). What it holds it
still holds afterwards. -/
def Dev.objLook (d : Dev) (who : Reader) (a n : Nat) : Dev × Got :=
  match d.objFor who a with
  | none => (d.unmapped a, .ready (List.replicate n 0) none)
  | some (o, e, off) =>
    if !d.enabled pgTack then (d, .wait)
    else if d.tack.badEntry.contains o || d.bad (d.objEntryAt o) 32 then (d.tableUe o, .fail .poisoned)
    else
      let d := d.entryLook o
      let t := match d.heldBind who o with
        | some b => b.tier
        | none => d.bindTier e
      if t != 2 then d.copyLook who o t off a n
      else if !d.extentUp (e.nbrLoc % 64) then (d.rebound who o a n 5).copyLook who o e.primary off a n
      else match d.windowRead who.buf (d.nbrAt e off) n with
        | (d, .ready b none) => (d, .ready b none)
        | (d, .wait) => (d.hold who o 2 a n, .wait)
        | (d, _) => (d.rebound who o a n 6).copyLook who o e.primary off a n

/-- An access that has held its bind is over, unless the reader waits for more of the object: it was late where it waited more than LATE_US for
a stack or a neighbour (R322); the late waits for the staging cache have their own row. A master and Saddlebag keep nothing of what they fetched. -/
def Dev.objDone (d : Dev) (who : Reader) (o : Nat) : Dev :=
  let d := match d.heldBind who o with
    | none => d
    | some b => if d.tack.waits.any (fun w => w.who == who && w.obj == o) then d else
      let late := decide (b.since + usCycles (d.fd R.tackLate 15 0) < d.now) && (b.tier == 1 || b.tier == 2)
      (if late then (d.stallReader who).bump pgTack 1 (if b.tier = 1 then 3 else 4) else d).unhold b
  match who with
  | .master _ => { d with fab := { d.fab with bufs := Tab.del d.fab.bufs who.buf } }
  | .saddle _ => { d with fab := { d.fab with bufs := Tab.del d.fab.bufs who.buf } }
  | _ => d

/-- Read an object's bytes; an access that need not wait any more lets its bind go. -/
def Dev.objRead (d : Dev) (who : Reader) (a n : Nat) : Dev × Got :=
  let o := (d.objSlot a).map Prod.fst
  match d.objLook who a n, o with
  | (d, .wait), _ => (d, .wait)
  | (d, g), some o => (d.objDone who o, g)
  | (d, g), none => (d, g)

/-- Who a reader's accesses to objects belong to. -/
def Dev.objReader (d : Dev) (i : Nat) : Reader :=
  if 2 ^ 32 ≤ i && decide (i < 2 ^ 33) then .query (i - 2 ^ 32)
  else .command i (match d.ctx? i with
    | some x => x.cinc
    | none => 0)

/-- Device scratch at the top of a core's SRAM, in MiB (R238, CORE_SCRATCH). -/
def Dev.coreScratchMib (d : Dev) (c : Nat) : Nat := min (max (d.fd R.coreScratch 5 0 c) 4) 32
/-- The core in whose device scratch a local address lies. -/
def Dev.scratchOf (d : Dev) (a : Nat) : Option Nat :=
  match regionOf d.part a with
  | .coreSram c => if (48 - d.coreScratchMib c) * 2 ^ 20 ≤ a % 0x4000000 then some c else none
  | _ => none
/-- Queries in their search phases that are homed on core c: their data stand in its scratch (R131, R238). -/
def Dev.homed (d : Dev) (c : Nat) : List Nat :=
  (d.srch.queries.filter (fun (q : Nat × Query) => q.2.core == c &&
    !(q.2.phase == .waitCore || q.2.phase == .write || q.2.phase == .finished))).map Prod.fst
/-- Bytes of stored memory as a reader gets them. Scratch that holds data of queries reads as something the spec does not lay out: a free
value (R238). -/
def Dev.given? (d : Dev) (a n : Nat) : Dev × List Byte :=
  match d.scratchOf a with
  | some c =>
    if (d.homed c).isEmpty then (d, d.peek a n)
    else (d.drawn, (List.range n).map (fun i => BitVec.ofNat 8 (d.free i)))
  | none => (d, d.peek a n)

/-- Read `n` bytes at a global address for reader i: the command in context i, a phase of a query (`qRd`), or a reader of the device's own. -/
def Dev.cmdRead (d : Dev) (i g n : Nat) (vc : Nat := 4) : Dev × Got :=
  let c := bufReader i
  if n = 0 then (d, .ready [] none)
  else if !d.isLocal g then d.remoteRead c g n vc
  else
    let a := localPart g
    match regionOf d.part a with
    | .obj => d.objRead (d.objReader i) a n
    | .nbr =>
      match d.nbrTarget a with
      | .unmapped => (d.unmapped a, .ready (List.replicate n 0) none)
      | .dead => (d, .ready (List.replicate n 0) (some .poisoned))
      | .remote _ g' => d.remoteRead c g' n 7
    | .regs => (d, .ready (List.replicate n 0) none)
    | .hole => (d.unmapped a, .ready (List.replicate n 0) none)
    | _ =>
      if !d.blocked a n false then
        let bad := d.bad a n
        let (d, b) := (d.touch a n (d.chargeOf c)).given? a n
        (d, .ready b (if bad then some .poisoned else none))
      else (d.recall a n false, .wait)

/-- Pieces of a write in the forms of R429: 64-byte multiples, or 8 or 4 bytes. -/
def wrPieces : Nat → Nat → List Byte → List (Nat × List Byte)
  | 0, _, _ => []
  | k + 1, g, b =>
    if b.isEmpty then []
    else
      let n := if g % 64 = 0 && 64 ≤ b.length then 64 else if g % 8 = 0 && 8 ≤ b.length then 8 else 4
      (g, slice b 0 n) :: wrPieces k (g + n) (b.drop n)

/-- AUX of a WR_REQ: POISON in bit 8, where Latigo messages have it (R442). R72 and R554 have a poisoned line written poisoned wherever it
goes, and R429 names no place for the mark (log entry 23). -/
def wrPoison (poison : Bool) : Nat := 256 * b2n poison

/-- Send a command's remote writes; it waits for every answer before its record (R74, R429). -/
def Dev.remoteWrite (d : Dev) (c g : Nat) (b : List Byte) (vc : Nat) (poison : Bool := false) : Dev × Option Status :=
  if d.isFenced then (d, some .fenced)
  else
    let (gen, who, cinc) := d.readerIs c
    let send := fun (acc : Dev × Bool) (p : Nat × List Byte) =>
      let (d, ok) := acc
      let (d1, ok1) := d.sendReq (.cmdWrite c cinc p.1) (d.request 2 (p.1 / 2 ^ 52) (p.1 % 2 ^ 52) p.2.length gen vc p.2 (wrPoison poison)) who
      ((if ok1 then d1.setBuf c { d1.bufOf c with wrOut := (d1.bufOf c).wrOut + 1 } else d1), ok && ok1)
    let (d1, ok) := (wrPieces (b.length + 1) g b).foldl send (d, true)
    (d1, if ok then none else some .tierFail)

/-- A write to the tiered range (R300). -/
def Dev.objWrite (d : Dev) (a : Nat) (b : List Byte) (poison : Bool) (who : Charge := {}) : Dev :=
  match d.objAt a with
  | none => d.unmapped a
  | some (_, e, off) =>
    if e.st = 2 then (d.setErr pgTack 0 a).bump pgTack 0 8
    else d.store (e.loc + off) b poison who

/-- A command's write must wait: for its memory controller, or for lines to be recalled first. -/
def Dev.writeBusy (d : Dev) (g n : Nat) : Bool :=
  d.isLocal g && (match regionOf d.part (localPart g) with
    | .obj => (match d.objAt (localPart g) with
      | some (_, e, off) => e.st == 1 && !d.memOn (e.loc + off)
      | none => false)
    | _ => d.blocked (localPart g) n true)

/-- Write bytes at a global address for the command in context c; the caller has made sure nothing must be recalled. -/
def Dev.cmdWrite (d : Dev) (c g : Nat) (b : List Byte) (poison : Bool := false) (vc : Nat := 4) : Dev × Option Status :=
  if b.isEmpty then (d, none)
  else if !d.isLocal g then d.remoteWrite c g b vc poison
  else
    let a := localPart g
    match regionOf d.part a with
    | .obj => (d.objWrite a b poison (d.chargeOf c), none)
    | .nbr =>
      match d.nbrTarget a with
      | .unmapped => (d.unmapped a, none)
      | .dead => (d, none)
      | .remote _ g' => d.remoteWrite c g' b 7 poison
    | .regs => (d, none)
    | .hole => (d.unmapped a, none)
    | _ => (d.store a b poison (d.chargeOf c), none)

/-- One access of a command to an object raises its HEAT once (R309). -/
def Dev.heatAt (d : Dev) (g : Nat) : Dev :=
  if d.isLocal g && regionOf d.part (localPart g) == .obj then
    match d.objAt (localPart g) with
    | some (o, _, _) => d.heatUp o
    | none => d
  else d

/-- Objects that a span of addresses touches. -/
def Dev.objsIn (d : Dev) (g n : Nat) : List Nat :=
  let a := localPart g
  if d.isLocal g && regionOf d.part a == .obj then
    (List.range ((a + n - 1) / slotBytes + 1 - a / slotBytes)).filterMap (fun i =>
      (d.objAt (if i = 0 then a else slotBytes * (a / slotBytes + i))).map Prod.fst)
  else []
/-- One access that touches objects binds each of them once, however it is split (R304, R309). -/
def Dev.heatAll (d : Dev) (l : List Nat) : Dev := l.eraseDups.foldl (fun d o => d.heatUp o) d

/-- Run the rest of a command on the bytes it reads; a read that fails ends it. -/
def Dev.withBytes (d : Dev) (c g n : Nat) (k : Dev → List Byte → Option Status → Dev) : Dev :=
  match d.cmdRead c g n with
  | (d, .ready b bad) => k d b bad
  | (d, .wait) => d
  | (d, .fail st) => d.finishSt c st

end Sys2Proof.Machine
end

