-- ==== Sys2Proof/Machine/Delta.lean ====
section
/-! DEFINITION. Collection images, delta heads and blocks, collection state records, snapshots, and objects the device makes for itself
(R98 to R120, R185 to R193, R302). -/

namespace Sys2Proof.Machine
open Sys2Proof

/-! Fields of a collection descriptor image (R98, R188, R493). -/

def cState (i : List Byte) : Nat := leAt i 64 1
def cMetric (i : List Byte) : Nat := leAt i 65 1
def cDim (i : List Byte) : Nat := leAt i 66 2
def cFormat (i : List Byte) : Nat := leAt i 68 1
def cRefine (i : List Byte) : Nat := leAt i 69 1
def cPqm (i : List Byte) : Nat := leAt i 70 2
def cResidual (i : List Byte) : Bool := (leAt i 72 2).testBit 0
def cPrescan (i : List Byte) : Bool := (leAt i 72 2).testBit 1
def cGraph (i : List Byte) : Bool := (leAt i 72 2).testBit 2
def cLists (i : List Byte) : Nat := leAt i 76 4
def cListCap (i : List Byte) : Nat := leAt i 80 4
def cCentTbl (i : List Byte) : Nat := leAt i 84 2
def cCodeTbl (i : List Byte) : Nat := leAt i 86 2
def cDirTbl (i : List Byte) : Nat := leAt i 88 2
def cAttrTbl (i : List Byte) : Nat := leAt i 90 2
def cEncTbl (i : List Byte) : Nat := leAt i 92 2
def cRerTbl (i : List Byte) : Nat := leAt i 94 2
def cTokTbl (i : List Byte) : Nat := leAt i 96 2
def cEfMin (i : List Byte) : Nat := leAt i 98 2
def cMaxHops (i : List Byte) : Nat := if leAt i 100 2 = 0 then 1024 else leAt i 100 2
def cHeads (i : List Byte) : Nat := leAt i 104 8
/-- The value of a field whose 0 stands for a default. -/
def orDefault (v dflt : Nat) : Nat := if v = 0 then dflt else v
def cSealUs (i : List Byte) : Nat := orDefault (leAt i 128 4) 1000
def cHistory (i : List Byte) : Nat := orDefault (leAt i 132 4) 1000
def cDeltaCeil (i : List Byte) : Nat := orDefault (leAt i 136 4) 16384
def cTombHard (i : List Byte) : Nat := orDefault (leAt i 140 2) 8192
def cRebuildFn (i : List Byte) : Nat := leAt i 142 2 % 1024
def cAuto (i : List Byte) : Bool := (leAt i 144 4).testBit 0
def cPromote (i : List Byte) : Bool := (leAt i 144 4).testBit 1
def cFollow (i : List Byte) : Bool := (leAt i 144 4).testBit 2
def cInit (i : List Byte) : Nat := leAt i 148 4
def cSweepMs (i : List Byte) : Nat := orDefault (leAt i 152 4) 60000
def cSharded (i : List Byte) : Bool := (leAt i 192 2).testBit 0
def cGroup (i : List Byte) : Nat := leAt i 194 2
def cLeader (i : List Byte) : Nat := leAt i 196 2

/-- Bytes per vector of a format (R102); for PQ4FS, half of m. -/
def vecBytes (fmt dim m : Nat) : Nat :=
  match fmt with
  | 0 => 2 * dim
  | 1 => 2 * dim
  | 2 => dim
  | 3 => dim + 2
  | 4 => m
  | _ => m / 2
/-- CODE_BYTES of a scan object (R116): a 32-vector block for PQ4FS. -/
def codeBytes (fmt dim m : Nat) : Nat := if fmt = 5 then 16 * m else vecBytes fmt dim m

/-- Sizes of an insert record's parts (R120). -/
def insSign (i : List Byte) : Nat := if cPrescan i then cDim i / 8 else 0
def insVec (i : List Byte) : Nat := if cRefine i = 0xFF then 0 else vecBytes (cRefine i) (cDim i) 0
def insCode (i : List Byte) : Nat := if cFormat i = 5 then 0 else codeBytes (cFormat i) (cDim i) (cPqm i)
def insStride (i : List Byte) : Nat := (16 + insCode i + insSign i + insVec i + 15) / 16 * 16

/-! Objects the device makes (R301, R302). -/

/-- Lowest free run of `n` slots (R301). -/
def Dev.freeRun (d : Dev) (n : Nat) : Option Nat :=
  firstBelow (d.slots + 1 - n) (fun i => (List.range n).all (fun k => (d.obj (i + k)).st == 0))

/-- Write the entries of a new FILLING object. -/
def Dev.makeObject (d : Dev) (o units fn : Nat) (a : Alloc) : Dev :=
  let e := d.obj o
  let d := d.putObj o { st := 1, primary := a.pool.tier, fn := fn, len := units, loc := d.locOf a, gen := e.gen }
  (List.range (slotsOf units - 1)).foldl (fun d k => d.putObj (o + 1 + k) { st := 3, len := o, gen := (d.obj (o + 1 + k)).gen }) d

/-- Allocation of a rebuild's or ADMIT's object (R302): seat, else the best Hide stack, else none. -/
def Dev.newObject (d : Dev) (fn units : Nat) : Option (Dev × Nat) :=
  if !d.enabled pgTack then none else
  match d.freeRun (slotsOf units) with
  | none => none
  | some o =>
    let seat := if d.quotaFits fn 0 units then d.allocIn .seat units fn else none
    match seat with
    | some (d1, a) => some (d1.makeObject o units fn a, o)
    | none =>
      if d.quotaFits fn 1 units then
        match d.bestStack (fun n => decide (units ≤ d.poolFree (.hide n))) with
        | some n => match d.allocIn (.hide n) units fn with
          | some (d1, a) => some (d1.makeObject o units fn a, o)
          | none => none
        | none => none
      else none

/-- Seal an object. -/
def Dev.sealObject (d : Dev) (o : Nat) : Dev := d.updObj o (fun e => if e.st = 1 then { e with st := 2 } else e)
/-- Free an object (R300): FREEING, and FREE at once when nothing reads it. A running migration of it is abandoned (R308). -/
def Dev.releaseObject (d : Dev) (o : Nat) : Dev :=
  if (d.obj o).st = 1 || (d.obj o).st = 2 then (((d.migAbandon o).pinsGone o).updObj o (fun e => { e with st := 4 })).settle o else d
/-- The object that starts at a global address of this node. -/
def Dev.objStart (d : Dev) (g : Nat) : Option Nat :=
  if g != 0 && d.isLocal g && regionOf d.part (localPart g) == .obj && localPart g % slotBytes == 0 then
    some (localPart g % 2 ^ 51 / slotBytes)
  else none
/-- Global address of an object. -/
def Dev.objGlobal (d : Dev) (o : Nat) : Nat := 2 ^ 52 * d.node + objAddr o
/-- Free the object at an address, if one starts there. -/
def Dev.releaseAt (d : Dev) (g : Nat) : Dev := match d.objStart g with
  | some o => d.releaseObject o
  | none => d

/-! Delta heads and blocks (R119, R120). -/

/-- A delta head. -/
structure DHead where
  ins : Nat := 0
  tomb : Nat := 0
  insN : Nat := 0
  tombN : Nat := 0
  last : Nat := 0
  rebuilding : Bool := false
deriving DecidableEq, Repr

def headAt (img : List Byte) (l : Nat) : Nat := cHeads img + 32 * l
def Dev.head (d : Dev) (img : List Byte) (l : Nat) : DHead :=
  let b := d.peek (headAt img l) 32
  { ins := leAt b 0 8, tomb := leAt b 8 8, insN := leAt b 16 4, tombN := leAt b 20 4, last := leAt b 24 4, rebuilding := (leAt b 28 4).testBit 0 }
def Dev.putHead (d : Dev) (img : List Byte) (l : Nat) (h : DHead) : Dev :=
  d.store (headAt img l) (natLe 8 h.ins ++ natLe 8 h.tomb ++ natLe 4 h.insN ++ natLe 4 h.tombN ++ natLe 4 h.last ++ natLe 4 (b2n h.rebuilding))
def Dev.updHead (d : Dev) (img : List Byte) (l : Nat) (f : DHead → DHead) : Dev := d.putHead img l (f (d.head img l))

/-- Blocks of a chain from its first, at most `fuel`. -/
def Dev.chainGo (d : Dev) : Nat → Nat → List Nat
  | 0, _ => []
  | k + 1, b => if b = 0 then [] else b :: Dev.chainGo d k (d.peekN b 8)
def Dev.chain (d : Dev) (first : Nat) : List Nat := d.chainGo 1048577 first
/-- RECS of a block. -/
def Dev.blockRecs (d : Dev) (b : Nat) : Nat := d.peekN (b + 12) 2

/-- Records a block of inserts holds. For PQ4FS, each 32 records follow their code block, and a last group takes what room is left (log entry
13). -/
def insCap (img : List Byte) : Nat :=
  if cFormat img = 5 then
    let g := 16 * cPqm img + 32 * insStride img
    32 * ((65536 - 64) / g) + ((65536 - 64) % g - 16 * cPqm img) / insStride img
  else (65536 - 64) / insStride img
/-- Offset of record i in a block of inserts. -/
def insOff (img : List Byte) (i : Nat) : Nat :=
  if cFormat img = 5 then 64 + i / 32 * (16 * cPqm img + 32 * insStride img) + 16 * cPqm img + i % 32 * insStride img
  else 64 + i * insStride img
/-- Offset of the code block that holds record i (PQ4FS). -/
def insCodeBlock (img : List Byte) (i : Nat) : Nat := 64 + i / 32 * (16 * cPqm img + 32 * insStride img)
def tombCap : Nat := (65536 - 64) / 16

/-- All ones: padding and voided records (R103, R207). -/
def noId : Nat := 2 ^ 64 - 1

/-- An insert record read back. -/
structure InsRec where
  block : Nat
  idx : Nat
  addr : Nat
  id : Nat
  ie : Nat
deriving DecidableEq, Repr

/-- Insert record i of block b. -/
def Dev.insAt (d : Dev) (img : List Byte) (p : Nat × Nat) : InsRec :=
  let a := p.1 + insOff img p.2
  { block := p.1, idx := p.2, addr := a, id := d.peekN a 8, ie := d.peekN (a + 8) 4 }
/-- Insert records of a list, oldest first. -/
def Dev.insRecs (d : Dev) (img : List Byte) (h : DHead) : List InsRec :=
  ((d.chain h.ins).map (fun b => (List.range (d.blockRecs b)).map (fun i => d.insAt img (b, i)))).flatten
/-- Log tombstones of a list, oldest first: id, epoch. -/
def Dev.tombRecs (d : Dev) (h : DHead) : List (Nat × Nat) :=
  ((d.chain h.tomb).map (fun b => (List.range (d.blockRecs b)).map (fun i =>
    (d.peekN (b + 64 + 16 * i) 8, d.peekN (b + 64 + 16 * i + 8) 4)))).flatten

/-- Scan code of an insert record: codes of one vector (R103, R120). -/
def Dev.insCodeOf (d : Dev) (img : List Byte) (r : InsRec) : List Byte :=
  if cFormat img = 5 then
    let v := r.idx % 32
    let cb := r.block + insCodeBlock img r.idx
    (List.range (cPqm img)).map (fun j => BitVec.ofNat 8 (d.peekN (cb + 16 * j + v % 16) 1 / (if v < 16 then 1 else 16) % 16))
  else d.peek (r.addr + 16) (insCode img)
/-- Sign code of an insert record. -/
def Dev.insSignOf (d : Dev) (img : List Byte) (r : InsRec) : List Byte := d.peek (r.addr + 16 + insCode img) (insSign img)
/-- Full vector of the insert record at an address. -/
def Dev.insVecAt (d : Dev) (img : List Byte) (a : Nat) : List Byte := d.peek (a + 16 + insCode img + insSign img) (insVec img)
/-- Full vector of an insert record. -/
def Dev.insVecOf (d : Dev) (img : List Byte) (r : InsRec) : List Byte := d.insVecAt img r.addr

/-- Seat granule of a block. -/
def Dev.blockAlloc (d : Dev) (b : Nat) : Option Alloc :=
  d.tack.allocs.find? (fun a => a.pool == .seat && a.len == 1 && d.poolAddr .seat a.start == b)

/-- A new block (R120): none when the quota or the pool forbids it. -/
def Dev.newBlock (d : Dev) (fn list stride kind : Nat) : Option (Dev × Nat) :=
  if !d.enabled pgTack || !d.quotaFits fn 0 1 then none
  else match d.allocIn .seat 1 fn with
    | none => none
    | some (d1, a) =>
      let b := d1.poolAddr .seat a.start
      some (d1.store b (natLe 8 0 ++ natLe 4 list ++ natLe 2 0 ++ natLe 2 stride ++ natLe 1 kind ++ List.replicate 47 0), b)

/-- A new block is needed for one more record. -/
def Dev.needsBlock (d : Dev) (first cap : Nat) : Bool :=
  match (d.chain first).getLast? with
  | none => true
  | some b => decide (cap ≤ d.blockRecs b)

/-- The block a record goes into, linked at the chain's end when it is new. -/
def Dev.roomIn (d : Dev) (img : List Byte) (fn l : Nat) (tomb : Bool) : Option (Dev × Nat) :=
  let h := d.head img l
  let first := if tomb then h.tomb else h.ins
  let cap := if tomb then tombCap else insCap img
  if !d.needsBlock first cap then (d.chain first).getLast?.map (fun b => (d, b))
  else match d.newBlock fn l (if tomb then 16 else insStride img) (b2n tomb) with
    | none => none
    | some (d1, b) =>
      match (d1.chain first).getLast? with
      | some p => some (d1.storeN p 8 b, b)
      | none => some (d1.updHead img l (fun h => if tomb then { h with tomb := b } else { h with ins := b }), b)

/-- Append a tombstone (R204 step 4). -/
def Dev.appendTomb (d : Dev) (img : List Byte) (fn l id e : Nat) : Dev :=
  match d.roomIn img fn l true with
  | none => d
  | some (d1, b) =>
    let n := d1.blockRecs b
    let d2 := d1.store (b + 64 + 16 * n) (natLe 8 id ++ natLe 4 e ++ natLe 4 0)
    (d2.storeN (b + 12) 2 (n + 1)).updHead img l (fun h => { h with tombN := h.tombN + 1, last := e })

/-- Append an insert record (R204 step 5): its code, sign code and full vector already encoded. -/
def Dev.appendIns (d : Dev) (img : List Byte) (fn l id e : Nat) (code sign vec : List Byte) : Dev :=
  match d.roomIn img fn l false with
  | none => d
  | some (d1, b) =>
    let n := d1.blockRecs b
    let a := b + insOff img n
    let rec_ := natLe 8 id ++ natLe 4 e ++ natLe 4 0 ++ slice code 0 (insCode img) ++ slice sign 0 (insSign img) ++ slice vec 0 (insVec img)
    let d2 := d1.store a (slice rec_ 0 (insStride img))
    let d3 := if cFormat img = 5 then
        (List.range (cPqm img)).foldl (fun d j =>
          let p := b + insCodeBlock img n + 16 * j + n % 16
          let old := d.peekN p 1
          let q := leAt code j 1 % 16
          d.storeN p 1 (if n % 32 < 16 then old / 16 * 16 + q else old % 16 + 16 * q)) d2
      else d2
    (d3.storeN (b + 12) 2 (n + 1)).updHead img l (fun h => { h with insN := h.insN + 1, last := e })

/-- R186: a is before b; a is at or before b; the age of x. -/
def eLt (a b : Nat) : Bool := serialAfter 32 b a
def eLe (a b : Nat) : Bool := a % 2 ^ 32 == b % 2 ^ 32 || eLt a b
def eAge (x now : Nat) : Nat := (now + 2 ^ 32 - x % 2 ^ 32) % 2 ^ 32
/-- The earlier of two epochs. -/
def eMin (a b : Nat) : Nat := if eLt b a then b else a

/-- Drop the leading blocks all of whose records lie at or before `cut`: the blocks to free and the first that stays. -/
def Dev.dropBlocks (d : Dev) (epochsOf : Nat → List Nat) (cut : Nat) : List Nat → List Nat × Nat
  | [] => ([], 0)
  | b :: rest =>
    if (epochsOf b).all (fun e => eLe e cut) then
      let r := Dev.dropBlocks d epochsOf cut rest
      (b :: r.1, r.2)
    else ([], b)

/-- Truncate a list's delta to the records after `cut` (R216). -/
def Dev.truncate (d : Dev) (img : List Byte) (l cut : Nat) : Dev :=
  let h := d.head img l
  let insE := fun b => (List.range (d.blockRecs b)).map (fun i => d.peekN (b + insOff img i + 8) 4)
  let tombE := fun b => (List.range (d.blockRecs b)).map (fun i => d.peekN (b + 64 + 16 * i + 8) 4)
  let (fi, bi) := d.dropBlocks insE cut (d.chain h.ins)
  let (ft, bt) := d.dropBlocks tombE cut (d.chain h.tomb)
  let ni := ((d.insRecs img h).filter (fun r => eLt cut r.ie)).length
  let nt := ((d.tombRecs h).filter (fun r => eLt cut r.2)).length
  let d1 := d.putHead img l { h with ins := bi, tomb := bt, insN := ni, tombN := nt }
  (fi ++ ft).foldl (fun d b => match d.blockAlloc b with
    | some a => d.freeAlloc a
    | none => d) d1

/-! Update state in memory (R189, R190). -/

def Dev.updBase (d : Dev) : Nat := 2 ^ 19 * (d.addr52 R.updBaseLo R.updBaseHi / 2 ^ 19)
/-- Field of collection c's state record. -/
def Dev.cs (d : Dev) (c off n : Nat) : Nat := d.peekN (d.updBase + 64 * c + off) n
def Dev.setCs (d : Dev) (c off n v : Nat) : Dev := d.storeN (d.updBase + 64 * c + off) n v
def Dev.openEpoch (d : Dev) (c : Nat) : Nat := d.cs c 0 4
def Dev.lastSealed (d : Dev) (c : Nat) : Nat := (d.openEpoch c + 2 ^ 32 - 1) % 2 ^ 32
def Dev.oldestPin (d : Dev) (c : Nat) : Nat := d.cs c 4 4
def Dev.readFloor (d : Dev) (c : Nat) : Nat := d.cs c 8 4
def Dev.oldestStored (d : Dev) (c : Nat) : Nat := d.cs c 12 4
def Dev.csFlag (d : Dev) (c bit : Nat) : Bool := (d.cs c 20 4).testBit bit
def Dev.setCsFlag (d : Dev) (c bit : Nat) (v : Bool) : Dev :=
  let f := d.cs c 20 4
  d.setCs c 20 4 (if v then f ||| 2 ^ bit else if f.testBit bit then f - 2 ^ bit else f)

/-- A snapshot table entry (R190). -/
structure Snap where
  coll : Nat := 0
  /-- 0 FREE, 1 OPEN, 2 CLOSING. -/
  st : Nat := 0
  fn : Nat := 0
  epoch : Nat := 0
  pins : Nat := 0
  gen : Nat := 0
deriving DecidableEq, Repr

def Dev.snapAt (d : Dev) (i : Nat) : Nat := d.updBase + 0x40000 + 16 * i
def Dev.snap (d : Dev) (i : Nat) : Snap :=
  let b := d.peek (d.snapAt i) 16
  { coll := bits (leAt b 0 2) 11 0, st := bits (leAt b 0 2) 13 12, fn := leAt b 2 2 % 1024, epoch := leAt b 4 4,
    pins := leAt b 8 2, gen := leAt b 10 1 }
def Dev.putSnap (d : Dev) (i : Nat) (s : Snap) : Dev :=
  d.store (d.snapAt i) (natLe 2 (s.coll + 4096 * s.st) ++ natLe 2 s.fn ++ natLe 4 s.epoch ++ natLe 2 s.pins ++ natLe 1 s.gen ++ natLe 5 0)

/-- Snapshots of collection c that are OPEN or CLOSING. -/
def Dev.snapsOf (d : Dev) (c : Nat) : List Snap :=
  ((List.range 4096).map d.snap).filter (fun s => s.st != 0 && s.coll == c)
/-- Epochs of the read pins on collection c (R157). -/
def Dev.readPins (d : Dev) (c : Nat) : List Nat :=
  (Tab.vals d.srch.all).filterMap (fun s => if s.readPin && s.coll == c then some s.epoch else none)

/-- Recompute OLDEST_PIN, SNAPSHOTS and READ_PINS of collection c (R189). -/
def Dev.fixPins (d : Dev) (c : Nat) : Dev :=
  let ss := d.snapsOf c
  let rp := d.readPins c
  let old := (ss.map (fun s => s.epoch) ++ rp).foldl eMin (d.lastSealed c)
  ((d.setCs c 4 4 old).setCs c 16 2 ss.length).setCs c 18 2 rp.length

/-- Close a snapshot entry (R192). -/
def Dev.closeSnap (d : Dev) (i : Nat) : Dev :=
  let s := d.snap i
  (d.putSnap i { s with gen := (s.gen + 1) % 256, st := if s.pins = 0 then 0 else 2 }).fixPins s.coll

/-- A search's pin on a snapshot ends; a CLOSING entry becomes FREE with its last pin (R192). -/
def Dev.unpinSnap (d : Dev) (i : Nat) : Dev :=
  let s := d.snap i
  let s1 := { s with pins := s.pins - 1 }
  (d.putSnap i (if s1.pins = 0 && s.st = 2 then { s1 with st := 0 } else s1)).fixPins s.coll

/-- Queue an update event (R219). -/
def Dev.updEvent (d : Dev) (c typ list : Nat) : Dev :=
  if 64 ≤ d.upd.events.length then d.bump pgCtx 3 11
  else ({ d with upd := { d.upd with events := d.upd.events ++ [(c, typ, list)] } } : Dev).setInt pgCtx 0

/-- REBUILDS_PROMOTED and REBUILDS_RUNNING of collection c. -/
def Dev.fixRebuilds (d : Dev) (c : Nat) : Dev :=
  let rs := (Tab.vals d.upd.rebuilds).filter (fun r => r.coll == c)
  (d.setCs c 28 4 rs.length).setCsFlag c 2 (rs.any (fun r => r.promoted && r.published.isNone))

/-- Remove a rebuild: REBUILDING is cleared (R215). -/
def Dev.dropRebuild (d : Dev) (img : List Byte) (r : Rebuild) : Dev :=
  let d := { d with upd := { d.upd with rebuilds := Tab.del d.upd.rebuilds (listKey r.coll r.list) },
                    fab := { d.fab with bufs := Tab.del d.fab.bufs (2 ^ 20 + listKey r.coll r.list) } }
  (d.updHead img r.list (fun h => { h with rebuilding := false })).fixRebuilds r.coll

/-- Finish commands that wait for a rebuild. -/
def Dev.finishAll (d : Dev) (cs : List Nat) (r : Compl) : Dev := cs.foldl (fun d c => d.finish c r) d

end Sys2Proof.Machine
end

