-- ==== Sys2Proof/Machine/Float.lean ====
section
/-! DEFINITION. Number formats and FP32 arithmetic (R227 to R233): exact values, rounding, conversions, and sums in an order the spec
leaves open. -/

namespace Sys2Proof.Machine
open Sys2Proof

/-- A value of any floating format: NaN, an infinity, or (-1)^neg × m × 2^e exactly. -/
inductive Fv where
  | nan
  | inf (neg : Bool)
  | fin (neg : Bool) (m : Nat) (e : Int)
deriving DecidableEq, Repr

/-- A binary format: exponent and fraction widths, bias, and which code points are special (R229). -/
structure Fmt where
  ew : Nat
  mw : Nat
  bias : Nat
  /-- It has infinities, and NaNs at every other code of the all-ones exponent. -/
  ieee : Bool := true
  /-- Only the all-ones code is NaN (E4M3). -/
  oneNan : Bool := false
deriving DecidableEq, Repr

def fp32 : Fmt := { ew := 8, mw := 23, bias := 127 }
def bf16 : Fmt := { ew := 8, mw := 7, bias := 127 }
def fp16 : Fmt := { ew := 5, mw := 10, bias := 15 }
def e4m3 : Fmt := { ew := 4, mw := 3, bias := 7, ieee := false, oneNan := true }
def e5m2 : Fmt := { ew := 5, mw := 2, bias := 15 }
def e2m1 : Fmt := { ew := 2, mw := 1, bias := 1, ieee := false }

/-- Value of a code point (R229). -/
def Fmt.decode (f : Fmt) (x : Nat) : Fv :=
  let m := x % 2 ^ f.mw
  let e := x / 2 ^ f.mw % 2 ^ f.ew
  let s := x / 2 ^ (f.mw + f.ew) % 2 == 1
  let ones := decide (e = 2 ^ f.ew - 1)
  if f.ieee && ones then (if m = 0 then .inf s else .nan)
  else if f.oneNan && ones && decide (m = 2 ^ f.mw - 1) then .nan
  else if e = 0 then .fin s m (1 - (f.bias : Int) - (f.mw : Int))
  else .fin s (2 ^ f.mw + m) ((e : Int) - (f.bias : Int) - (f.mw : Int))

/-- Largest finite code point (without sign). -/
def Fmt.maxCode (f : Fmt) : Nat :=
  if f.ieee then (2 ^ f.ew - 1) * 2 ^ f.mw - 1
  else if f.oneNan then 2 ^ (f.ew + f.mw) - 2
  else 2 ^ (f.ew + f.mw) - 1

/-- Round to nearest, ties to even, on a division by 2^k. -/
def rneShift (m k : Nat) : Nat :=
  let q := m / 2 ^ k
  let r := m % 2 ^ k
  if 2 * r > 2 ^ k || (2 * r = 2 ^ k && q % 2 = 1) then q + 1 else q

/-- Code point magnitude of m × 2^e, m > 0, by round to nearest even, with no upper bound. -/
def Fmt.roundMag (f : Fmt) (m : Nat) (e : Int) : Nat :=
  let top : Int := (Nat.log2 m : Int) + e
  let qmin : Int := 1 - (f.bias : Int) - (f.mw : Int)
  let q := max (top - (f.mw : Int)) qmin
  let v := if q ≤ e then m * 2 ^ (e - q).toNat else rneShift m (q - e).toNat
  if q = qmin then v else (q - qmin).toNat * 2 ^ f.mw + v

/-- Sign bit of a format. -/
def Fmt.sign (f : Fmt) (neg : Bool) : Nat := if neg then 2 ^ (f.ew + f.mw) else 0

/-- Conversion under R231. -/
def Fmt.encode (f : Fmt) (v : Fv) : Nat :=
  match v with
  | .nan => if f.ieee then (2 ^ f.ew - 1) * 2 ^ f.mw + (if f.mw = 2 then 3 else 2 ^ (f.mw - 1)) else 0
  | .inf s => f.sign s + (if f.ieee then (2 ^ f.ew - 1) * 2 ^ f.mw else f.maxCode)
  | .fin s m e =>
    if m = 0 then f.sign s
    else
      let x := f.roundMag m e
      if f.maxCode < x then
        f.sign s + (if f.ieee && f.mw != 2 then (2 ^ f.ew - 1) * 2 ^ f.mw else f.maxCode)
      else f.sign s + x

/-- FP32 value of a word. -/
def val32 (w : Word) : Fv := fp32.decode w.toNat
/-- FP32 word of a value. -/
def word32 (v : Fv) : Word := w32 (fp32.encode v)
/-- Subnormals are flushed to zero with their sign. -/
def ftz (w : Word) : Word := if w.toNat / 2 ^ 23 % 256 = 0 then w &&& 0x80000000 else w

/-- Is a value NaN, infinite, zero? -/
def Fv.isNan : Fv → Bool
  | .nan => true
  | _ => false
def Fv.isInf : Fv → Bool
  | .inf _ => true
  | _ => false
def Fv.finite (v : Fv) : Bool := !v.isNan && !v.isInf
def Fv.isZero : Fv → Bool
  | .fin _ 0 _ => true
  | _ => false
def Fv.neg : Fv → Bool
  | .nan => false
  | .inf s => s
  | .fin s _ _ => s
def Fv.abs : Fv → Fv
  | .nan => .nan
  | .inf _ => .inf false
  | .fin _ m e => .fin false m e
def Fv.negate : Fv → Fv
  | .nan => .nan
  | .inf s => .inf (!s)
  | .fin s m e => .fin (!s) m e

/-- A signed integer as a value. -/
def Fv.ofInt (i : Int) : Fv := .fin (decide (i < 0)) i.natAbs 0

/-- Exact product. -/
def Fv.mul : Fv → Fv → Fv
  | .nan, _ => .nan
  | _, .nan => .nan
  | .inf s, v => if v.isZero then .nan else .inf (s != v.neg)
  | v, .inf s => if v.isZero then .nan else .inf (s != v.neg)
  | .fin s m e, .fin t n f => .fin (s != t) (m * n) (e + f)

/-- Exact sum. -/
def Fv.add : Fv → Fv → Fv
  | .nan, _ => .nan
  | _, .nan => .nan
  | .inf s, .inf t => if s == t then .inf s else .nan
  | .inf s, _ => .inf s
  | _, .inf s => .inf s
  | .fin s m e, .fin t n f =>
    if m = 0 && n = 0 then .fin (s && t) 0 0
    else
      let g := min e f
      let a : Int := (if s then -1 else 1) * (m * 2 ^ (e - g).toNat : Nat)
      let b : Int := (if t then -1 else 1) * (n * 2 ^ (f - g).toNat : Nat)
      let c := a + b
      .fin (decide (c < 0)) c.natAbs g

/-- Quotient, with a sticky bit below enough digits for every format here. -/
def Fv.div : Fv → Fv → Fv
  | .nan, _ => .nan
  | _, .nan => .nan
  | .inf _, .inf _ => .nan
  | .inf s, v => .inf (s != v.neg)
  | .fin s _ _, .inf t => .fin (s != t) 0 0
  | .fin s m e, .fin t n f =>
    if n = 0 then (if m = 0 then .nan else .inf (s != t))
    else if m = 0 then .fin (s != t) 0 0
    else
      let k := 64 + Nat.log2 n
      let q := m * 2 ^ k / n
      let r := m * 2 ^ k % n
      .fin (s != t) (2 * q + (if r = 0 then 0 else 1)) (e - f - (k : Int) - 1)

/-- Exact order of two values that are not NaN: a before b. -/
def Fv.lt (a b : Fv) : Bool :=
  match a, b with
  | .nan, _ => false
  | _, .nan => false
  | .inf s, .inf t => s && !t
  | .inf s, _ => s
  | _, .inf t => !t
  | .fin s m e, .fin t n f =>
    let g := min e f
    let x : Int := (if s then -1 else 1) * (m * 2 ^ (e - g).toNat : Nat)
    let y : Int := (if t then -1 else 1) * (n * 2 ^ (f - g).toNat : Nat)
    decide (x < y)

/-- Equal values, zeros of either sign being equal. -/
def Fv.eqv (a b : Fv) : Bool := !a.isNan && !b.isNan && !a.lt b && !b.lt a

/-! FP32 operations of the vector unit: subnormal inputs and results are zero (R231, R233). -/

def fAdd (a b : Word) : Word := ftz (word32 ((val32 (ftz a)).add (val32 (ftz b))))
def fSub (a b : Word) : Word := ftz (word32 ((val32 (ftz a)).add (val32 (ftz b)).negate))
def fMul (a b : Word) : Word := ftz (word32 ((val32 (ftz a)).mul (val32 (ftz b))))
def fFma (a b c : Word) : Word := ftz (word32 (((val32 (ftz a)).mul (val32 (ftz b))).add (val32 (ftz c))))
def fDiv (a b : Word) : Word := ftz (word32 ((val32 (ftz a)).div (val32 (ftz b))))
def fNeg (a : Word) : Word := a ^^^ 0x80000000
def fLt (a b : Word) : Bool := (val32 (ftz a)).lt (val32 (ftz b))
/-- Larger and smaller of two values, neither being NaN. -/
def fMax (a b : Word) : Word := if fLt a b then ftz b else ftz a
def fMin (a b : Word) : Word := if fLt b a then ftz b else ftz a
/-- The larger and the smaller of two values; where one is NaN the spec states no result, and it is left open (log entry 18). -/
def vMax (seed : List Nat) (a b : Word) : Word := if (val32 a).isNan || (val32 b).isNan then w32 (Config.free (seed ++ [0x4A])) else fMax a b
def vMin (seed : List Nat) (a b : Word) : Word := if (val32 a).isNan || (val32 b).isNan then w32 (Config.free (seed ++ [0x4B])) else fMin a b
/-- An FP32 result at most 2 units in the last place from the correctly rounded `w` (R233): which, is left open. Zeros and infinities stand;
what falls below the normal numbers is flushed, and no finite value becomes infinite. -/
def within2 (seed : List Nat) (w : Word) : Word :=
  let m := w.toNat % 2 ^ 31
  if m < 0x00800000 || 0x7F800000 ≤ m then w
  else
    let k := m + Config.free seed % 5 - 2
    w32 (w.toNat - m + (if k < 0x00800000 then 0 else min k 0x7F7FFFFF))
/-- Reciprocal. -/
def fRecip (seed : List Nat) (a : Word) : Word := within2 seed (fDiv 0x3F800000 a)

/-- Integer square root of a number, by bits. -/
def isqrtGo (n : Nat) : Nat → Nat → Nat
  | 0, r => r
  | k + 1, r => let c := r + 2 ^ k; isqrtGo n k (if c * c ≤ n then c else r)
def isqrt (n : Nat) : Nat := isqrtGo n (Nat.log2 n / 2 + 1) 0

/-- Square root of a value, with a sticky bit. -/
def Fv.sqrt : Fv → Fv
  | .nan => .nan
  | .inf s => if s then .nan else .inf false
  | .fin s m e =>
    if m = 0 then .fin s 0 0
    else if s then .nan
    else
      let odd := e % 2 != 0
      let m1 := if odd then 2 * m else m
      let e1 := if odd then e - 1 else e
      let n := m1 * 2 ^ 128
      let r := isqrt n
      .fin false (2 * r + (if r * r = n then 0 else 1)) (e1 / 2 - 65)

/-- Reciprocal square root. -/
def fRsqrt (seed : List Nat) (a : Word) : Word :=
  within2 seed (ftz (word32 ((Fv.fin false 1 0).div (val32 (ftz a)).sqrt)))
/-- 2^(k / 2^40) for k below 2^40, times 2^62: the bits of k, from the top, multiply in the square roots of 2 one after another. -/
def exp2Go (k : Nat) : Nat → Nat → Nat → Nat
  | 0, _, acc => acc
  | n + 1, c, acc => exp2Go k n (isqrt (c * 2 ^ 62)) (if k.testBit n then acc * c / 2 ^ 62 else acc)
def exp2Frac (k : Nat) : Nat := exp2Go k 40 (isqrt (2 ^ 125)) (2 ^ 62)
/-- 2^v, rounded. -/
def Fv.exp2 (v : Fv) : Word :=
  match v with
  | .nan => 0x7FC00000
  | .inf s => if s then 0 else 0x7F800000
  | .fin s m e =>
    if m != 0 && decide (10 ≤ (Nat.log2 m : Int) + e) then (if s then 0 else 0x7F800000)
    else
      let t : Int := (if s then -1 else 1) * ((if 0 ≤ e + 40 then m * 2 ^ (e + 40).toNat else m / 2 ^ (-e - 40).toNat : Nat) : Int)
      ftz (word32 (.fin false (exp2Frac (t % 2 ^ 40).toNat) (t / 2 ^ 40 - 62)))
/-- log2 of e, times 2^64. -/
def log2e : Nat := 26613026195688644983
/-- Exponent: 2^x, or e^x where `nat` says so. -/
def fExp (seed : List Nat) (nat : Bool) (a : Word) : Word :=
  let v := val32 (ftz a)
  within2 seed (if nat then (v.mul (.fin false log2e (-64))).exp2 else v.exp2)

/-! FP32 arithmetic outside the vector unit: subnormals are values like any other (R229). -/

def xAdd (a b : Word) : Word := word32 ((val32 a).add (val32 b))
def xMul (a b : Word) : Word := word32 ((val32 a).mul (val32 b))
def xDiv (a b : Word) : Word := word32 ((val32 a).div (val32 b))
def xLt (a b : Word) : Bool := (val32 a).lt (val32 b)
def xMax (a b : Word) : Word := if xLt a b then b else a

/-! Sums in an open order (R227). -/

/-- Take element i out of a list. -/
def takeAt {α : Type} (l : List α) (i : Nat) (dflt : α) : α × List α := (l.getD i dflt, l.eraseIdx i)

/-- Add FP32 numbers by some sequence of additions, the order being left open. -/
def sumGo (seed : List Nat) : Nat → List Word → Word
  | 0, l => l.headD 0
  | k + 1, l =>
    match l with
    | [] => 0
    | [a] => a
    | _ =>
      let (a, l1) := takeAt l (Config.free (seed ++ [k, 0]) % l.length) 0
      let (b, l2) := takeAt l1 (Config.free (seed ++ [k, 1]) % l1.length) 0
      sumGo seed k (fAdd a b :: l2)

/-- FP32 sum in an open order. -/
def fSum (seed : List Nat) (l : List Word) : Word := sumGo seed l.length l

/-- Exact values summed by some sequence of FP32 additions (R227). -/
def vSumGo (seed : List Nat) : Nat → List Fv → Fv
  | 0, l => l.headD (.fin false 0 0)
  | k + 1, l =>
    match l with
    | [] => .fin false 0 0
    | [a] => a
    | _ =>
      let (a, l1) := takeAt l (Config.free (seed ++ [k, 0]) % l.length) .nan
      let (b, l2) := takeAt l1 (Config.free (seed ++ [k, 1]) % l1.length) .nan
      vSumGo seed k (val32 (ftz (word32 (a.add b))) :: l2)
def vSum (seed : List Nat) (l : List Fv) : Word := ftz (word32 (vSumGo seed l.length l))

/-- Products summed in an open order (R227). -/
def fDot (seed : List Nat) (a b : List Word) : Word := fSum seed (List.zipWith fMul a b)

/-- dst ⊕ src of a reduction (R337, R463): FP32 where `fp`, else INT32, whose addition wraps; mode 0 adds, 1 takes the larger, 2 the smaller. -/
def redElt (fp : Bool) (mode : Nat) (y x : Word) : Word :=
  let seed := [0, 0x4C, y.toNat, x.toNat]
  if fp then (if mode = 0 then fAdd y x else if mode = 1 then vMax seed y x else vMin seed y x)
  else if mode = 0 then y + x else if mode = 1 then (if y.slt x then x else y) else if x.slt y then x else y

/-! Integers (R231). -/

/-- Round a finite value to the nearest integer, ties to even. -/
def Fv.toInt : Fv → Int
  | .fin s m e =>
    let v : Nat := if 0 ≤ e then m * 2 ^ e.toNat else rneShift m (-e).toNat
    if s then -(v : Int) else v
  | _ => 0

/-- Convert to a signed integer of n bits: saturates; NaN gives 0. -/
def Fv.satInt (v : Fv) (n : Nat) : Int :=
  let hi : Int := 2 ^ (n - 1) - 1
  let lo : Int := -(2 ^ (n - 1))
  match v with
  | .nan => 0
  | .inf s => if s then lo else hi
  | v => max lo (min hi v.toInt)

/-- Two's complement of width n. -/
def wrapInt (n : Nat) (i : Int) : Nat := (i % 2 ^ n).toNat
/-- The signed value of an n-bit code. -/
def sInt (n x : Nat) : Int := if 2 ^ (n - 1) ≤ x % 2 ^ n then (x % 2 ^ n : Int) - 2 ^ n else (x % 2 ^ n : Int)

/-- Bits of an element of the format codes of R244. -/
def eltBits (f : Nat) : Nat :=
  if f = 1 || f = 5 then 4 else if f = 0 || f = 2 || f = 3 || f = 4 then 8 else if f = 6 || f = 7 then 16 else 32

/-- Element i of an array in a format of R244, as a code. -/
def eltCode (f : Nat) (l : List Byte) (i : Nat) : Nat :=
  if eltBits f = 4 then leAt l (i / 2) 1 / (if i % 2 = 0 then 1 else 16) % 16
  else leAt l (i * (eltBits f / 8)) (eltBits f / 8)

/-- Value of an element code (R229); MX elements before their scale. -/
def eltVal (f x : Nat) : Fv :=
  if f = 0 then .ofInt (sInt 8 x) else if f = 1 then .ofInt (sInt 4 x)
  else if f = 2 || f = 4 then e4m3.decode x else if f = 3 then e5m2.decode x
  else if f = 5 then e2m1.decode x else if f = 6 then bf16.decode x else if f = 7 then fp16.decode x
  else if f = 8 then fp32.decode x else .ofInt (sInt 32 x)

/-- Code of a value in a format of R244 (R231). -/
def eltEnc (f : Nat) (v : Fv) : Nat :=
  if f = 0 then wrapInt 8 (v.satInt 8) else if f = 1 then wrapInt 4 (v.satInt 4)
  else if f = 2 || f = 4 then e4m3.encode v else if f = 3 then e5m2.encode v
  else if f = 5 then e2m1.encode v else if f = 6 then bf16.encode v else if f = 7 then fp16.encode v
  else if f = 8 then fp32.encode v else wrapInt 32 (v.satInt 32)

/-- FP32 numbers as bytes. -/
def wordsBytes (l : List Word) : List Byte := (l.map (fun w => natLe 4 w.toNat)).flatten
/-- Words of a byte string. -/
def bytesWords (l : List Byte) : List Word := (List.range (l.length / 4)).map (fun i => w32 (leAt l (4 * i) 4))

/-- Elements 0 to n − 1 of an array, as FP32. -/
def eltWords (f n : Nat) (l : List Byte) : List Word := (List.range n).map (fun i => word32 (eltVal f (eltCode f l i)))

end Sys2Proof.Machine
end

