-- ==== Sys2Proof/Machine/TileImage.lean ====
section
/-! DEFINITION. Tile program images: windows, instruction fields and the checks of a load (R234, R235, R242 to R245, R261 to R263). -/

namespace Sys2Proof.Machine
open Sys2Proof

/-! Fields of an instruction (R243, R244). -/

/-- Bits [hi:lo] of an instruction. -/
def ifl (w : BitVec 128) (hi lo : Nat) : Nat := bits w.toNat hi lo
def iClass (w : BitVec 128) : Nat := ifl w 3 0
def iOp (w : BitVec 128) : Nat := ifl w 11 4
def iToken (w : BitVec 128) : Nat := ifl w 15 12
def iTokEn (w : BitVec 128) : Bool := ifl w 16 16 = 1

/-- OP byte of the operation at place i of class c: QUANT's are numbered by R261. -/
def opByte (c i : Nat) : Nat := if c = 6 then i else (Config.opCode c i).toNat

/-- Operations each class lists (R244, R261): CTRL NOP, END, LOOP; SCALAR add, subtract, multiply, and, or, xor, shift, move immediate;
DMA, WLOAD, MMA one each; VEC the operations of R233 with load and store; QUANT five; SYNC BAR_ARRIVE, BAR_WAIT, BAR_SYNC, WAIT, FENCE; EMIT one. -/
def opCount (c : Nat) : Nat :=
  match c with
  | 0 => 3
  | 1 => 8
  | 5 => 22
  | 6 => 5
  | 7 => 5
  | 8 => 1
  | _ => 1

/-- The instruction is operation i of class c. -/
def isOp (w : BitVec 128) (c i : Nat) : Bool := iClass w == c && iOp w == opByte c i
/-- Place of an instruction's operation in its class's list. -/
def opIndex (w : BitVec 128) : Option Nat := firstBelow (opCount (iClass w)) (fun i => iOp w == opByte (iClass w) i)

def iNop : BitVec 128 → Bool := fun w => isOp w 0 0
def iEnd : BitVec 128 → Bool := fun w => isOp w 0 1
def iLoop : BitVec 128 → Bool := fun w => isOp w 0 2

/-- Operand bits an instruction of each class defines. -/
def operandMask (w : BitVec 128) : Nat :=
  match iClass w with
  | 0 => if iLoop w then maskOf 63 32 else 0
  | 1 => maskOf 46 32 ||| maskOf 95 64
  | 2 => maskOf 34 32 ||| maskOf 48 36 ||| maskOf 127 64
  | 3 => maskOf 36 32 ||| maskOf 63 40 ||| maskOf 127 64
  | 4 => maskOf 38 32 ||| maskOf 63 48 ||| maskOf 72 64 ||| maskOf 127 80
  | 5 => maskOf 55 32 ||| maskOf 95 64
  | 6 => if iOp w = 0 then maskOf 122 32 else if iOp w = 1 then maskOf 41 38 else maskOf 41 38 ||| maskOf 95 64
  | 7 => if isOp w 7 3 then maskOf 47 32 else if isOp w 7 4 then 0 else maskOf 35 32
  | _ => maskOf 127 32

/-- No reserved class, OP or bit (R243 to R245). -/
def iKnown (w : BitVec 128) : Bool :=
  decide (iClass w ≤ 8) && (opIndex w).isSome && ifl w 31 17 == 0 &&
  ((w.toNat / 2 ^ 32 * 2 ^ 32) &&& (2 ^ 128 - 1 - operandMask w)) == 0

/-- A pairing of R226: activation and stationary format codes. -/
def pairOk (a s : Nat) : Bool :=
  (a == 0 && s == 0) || (a == 1 && s == 1) || (a == 0 && s == 1) || ((a == 2 || a == 3) && (s == 2 || s == 3)) ||
  (a == 4 && s == 4) || (a == 5 && s == 5) || (a == 4 && s == 5) || (a == 6 && s == 6) || (a == 7 && s == 7)

/-- The accumulator of a pairing is INT32. -/
def pairInt (a : Nat) : Bool := a == 0 || a == 1

/-! Images (R242). -/

def progImgInstrs (img : List Byte) : Nat := leAt img 4 4
def progImgEntry (img : List Byte) : Nat := leAt img 8 4
/-- Instruction i of an image. -/
def imgInstr (img : List Byte) (i : Nat) : BitVec 128 := BitVec.ofNat 128 (leAt img (192 + 16 * i) 16)
/-- Window w as the image declares it. -/
def imgWindow (img : List Byte) (w : Nat) : Window :=
  let f := leAt img (76 + 16 * w) 4
  { kind := bits f 1 0, base := leAt img (64 + 16 * w) 8, len := leAt img (72 + 16 * w) 4, write := f.testBit 2 }

/-- Header of an image (R242), given the length the command or stage states. -/
def imgHeaderOk (img : List Byte) (len : Nat) : Bool :=
  leAt img 0 1 == 1 && leAt img 1 1 < 4 && leAt img 2 2 == 0 && decide (1 ≤ progImgInstrs img) && decide (progImgInstrs img ≤ 16384) &&
  decide (progImgEntry img < progImgInstrs img) && leAt img 12 4 == 192 + 16 * progImgInstrs img && leAt img 12 4 == len &&
  (slice img 16 48).all (fun b => b == 0) &&
  (List.range 8).all (fun w => decide (leAt img (76 + 16 * w) 4 < 8))


/-- A window is valid on core c (R234, R235). -/
def Dev.winOk (d : Dev) (c : Nat) (w : Window) : Bool :=
  match w.kind with
  | 0 => true
  | 1 => decide (1 ≤ w.len) && decide (w.base + w.len ≤ 2 ^ 23)
  | 2 => decide (1 ≤ w.len) && decide (w.base + w.len ≤ (48 - d.coreScratchMib c) * 2 ^ 20)
  | _ =>
    w.base % 64 == 0 && w.len % 64 == 0 && decide (1 ≤ w.len) && d.mapped w.base w.len &&
    (match regionOf d.part (localPart w.base), regionOf d.part (localPart w.base + w.len - 1) with
     | .seat, .seat => true
     | .hide _, .hide _ => true
     | .nbr, .nbr => true
     | .obj, .obj => true
     | _, _ => false)

/-- What a load's scan has seen: open loops (instructions left in each), formats used. -/
structure Scan where
  ok : Bool := true
  loops : List Nat := []
  sparse : Bool := false
  mx : Bool := false
  /-- The next slot is the second word of a DMA pair. -/
  second : Bool := false
deriving DecidableEq, Repr

/-- A window operand is usable. -/
def winUse (ws : List Window) (i : Nat) (write : Bool) : Bool :=
  let w := ws.getD i {}
  w.kind != 0 && (!write || w.write)

/-- The checks of one instruction at place i of n (R245, R263). -/
def scanInstr (ws : List Window) (n : Nat) (s : Scan) (i : Nat) (w : BitVec 128) : Scan :=
  let loops := (s.loops.map (· - 1)).filter (fun k => decide (0 < k))
  let s := { s with loops := loops }
  if s.second then { s with second := false }
  else if !iKnown w then { s with ok := false }
  else
    let f := ifl w 35 32
    match iClass w with
    | 0 =>
      if iLoop w then
        let body := ifl w 63 48
        { s with ok := s.ok && decide (1 ≤ ifl w 47 32) && decide (i + 1 + body ≤ n) && decide (loops.length < 4),
                 loops := (body + 1) :: loops }
      else s
    | 2 => { s with ok := s.ok && winUse ws (ifl w 34 32) false && winUse ws (ifl w 38 36) true && decide (i + 1 < n), second := true }
    | 3 =>
      let sp := ifl w 36 36 = 1
      { s with ok := s.ok && decide (f ≤ 7) && !(sp && (f == 6 || f == 7)) && !((f == 4 || f == 5) && ifl w 63 48 % 32 != 0),
               sparse := s.sparse || sp, mx := s.mx || f == 4 || f == 5 }
    | 4 =>
      { s with ok := s.ok && decide (f ≤ 7) && decide (1 ≤ ifl w 63 48) && decide (ifl w 63 48 ≤ 512), mx := s.mx || f == 4 || f == 5 }
    | 5 =>
      let v := ifl w 55 52
      { s with ok := s.ok && decide (v ≤ 9), mx := s.mx || v == 4 || v == 5 }
    | 6 =>
      if iOp w = 0 then
        let cols := ifl w 122 114 + 1
        { s with ok := s.ok && decide (f ≤ 7) && !(ifl w 37 37 = 1 && decide (4 ≤ f)) &&
                       !((f == 4 || f == 5) && cols % 32 != 0) && decide (ifl w 55 47 + ifl w 64 56 + 1 ≤ 512),
                 mx := s.mx || f == 4 || f == 5 }
      else s
    | 7 => if isOp w 7 3 || isOp w 7 4 then s else { s with ok := s.ok && decide (f ≤ 7) }
    | 8 => { s with ok := false }
    | _ => s

/-! Pairings (R226): which tile each matrix instruction meets follows from the one stream of instructions and its loops. -/

/-- Leave the loops whose body ends before `n`, or go round again. -/
def loopNext : Nat → List LoopFrame → Nat → List LoopFrame × Nat
  | 0, l, n => (l, n)
  | _ + 1, [], n => ([], n)
  | k + 1, f :: t, n =>
    if n = f.first + f.len then (if 0 < f.left then ({ f with left := f.left - 1 } :: t, f.first) else loopNext k t n) else (f :: t, n)

/-- Rounds of a loop that show every tile its instructions meet: what a round does to the two tiles puts a loaded one or one of the two in
each place, so that after three rounds only their exchange goes on. -/
def roundsSeen (n : Nat) : Nat := if n ≤ 4 then n else 3 + (n + 1) % 2

/-- Follow the program: `act` and `shd` are the formats of the active and the shadow tile, where it has loaded them. -/
def pairGo (img : List Byte) (n : Nat) : Nat → List LoopFrame → Nat → Option Nat → Option Nat → Bool
  | 0, _, _, _, _ => true
  | k + 1, loops, pc, act, shd =>
    let w := imgInstr img pc
    if n ≤ pc || iEnd w then true
    else if iLoop w && ifl w 63 48 != 0 then
      pairGo img n k ({ first := pc + 1, len := ifl w 63 48, left := roundsSeen (ifl w 47 32) - 1 } :: loops) (pc + 1) act shd
    else
      let nx := loopNext 5 loops (pc + if iClass w = 2 then 2 else 1)
      if iClass w = 3 then pairGo img n k nx.1 nx.2 act (some (ifl w 35 32))
      else if iClass w = 4 then
        let (a, s) := if ifl w 37 37 = 1 then (shd, act) else (act, shd)
        (match a with
         | some g => pairOk (ifl w 35 32) g
         | none => true) && pairGo img n k nx.1 nx.2 a s
      else pairGo img n k nx.1 nx.2 act shd

/-- Every pairing that arises as the program runs is one of R226. -/
def pairsOk (img : List Byte) : Bool := pairGo img (progImgInstrs img) (342 * (progImgInstrs img + 1)) [] (progImgEntry img) none none

/-- The program part of an image passes R245 with these windows. -/
def progOk (ws : List Window) (img : List Byte) : Bool :=
  let n := progImgInstrs img
  let s := (List.range n).foldl (fun s i => scanInstr ws n s i (imgInstr img i)) {}
  let u := leAt img 1 1
  s.ok && !(s.sparse && !u.testBit 0) && !(s.mx && !u.testBit 1) && pairsOk img

end Sys2Proof.Machine
end

