-- ==== Sys2Proof/Machine/Tables.lean ====
section
/-! DEFINITION. The table unit: descriptors, binds and reader counts, image checks, and the map a collection's shards follow
(R79 to R114, R276 to R279, R392 to R394, R494 to R496). -/

namespace Sys2Proof.Machine
open Sys2Proof

/-! Descriptors (R82). -/

/-- A slot of a table descriptor. -/
structure TSlot where
  base : Nat := 0
  len : Nat := 0
  ver : Nat := 0
  /-- 0 FREE, 1 CURRENT, 2 SUPERSEDED, 3 RETIRING. -/
  st : Nat := 0
deriving DecidableEq, Repr

/-- A table descriptor. -/
structure TDesc where
  kind : Nat := 0
  /-- 0 ABSENT, 1 LIVE, 2 WITHDRAWN. -/
  st : Nat := 0
  cur : Nat := 0
  ver : Nat := 0
  slots : List TSlot := []
deriving DecidableEq, Repr

def Dev.tblBase (d : Dev) : Nat := 2 ^ 23 * (d.addr52 R.tblBaseLo R.tblBaseHi / 2 ^ 23)
def Dev.tdescAt (d : Dev) (h : Nat) : Nat := d.tblBase + 128 * h
/-- A descriptor read from its 128 bytes. -/
def tdescOf (b : List Byte) : TDesc :=
  { kind := leAt b 0 1, st := leAt b 1 1, cur := leAt b 2 1 % 4, ver := leAt b 4 4,
    slots := (List.range 4).map (fun s =>
      { base := leAt b (16 + 24 * s) 8, len := leAt b (24 + 24 * s) 4, ver := leAt b (28 + 24 * s) 4, st := leAt b (32 + 24 * s) 1 }) }
/-- Descriptor of a handle. -/
def Dev.tdesc (d : Dev) (h : Nat) : TDesc := tdescOf (d.peek (d.tdescAt h) 128)
/-- Its 128 bytes. -/
def tdescBytes (x : TDesc) : List Byte :=
  natLe 1 x.kind ++ natLe 1 x.st ++ natLe 1 x.cur ++ natLe 1 0 ++ natLe 4 x.ver ++ natLe 8 0 ++
  ((List.range 4).map (fun s =>
    let y := x.slots.getD s {}
    natLe 8 y.base ++ natLe 4 y.len ++ natLe 4 y.ver ++ natLe 1 y.st ++ natLe 7 0)).flatten ++ natLe 16 0
def Dev.putTdesc (d : Dev) (h : Nat) (x : TDesc) : Dev := d.store (d.tdescAt h) (tdescBytes x)
def TDesc.slot (x : TDesc) (s : Nat) : TSlot := x.slots.getD s {}
def TDesc.setSlot (x : TDesc) (s : Nat) (y : TSlot) : TDesc := { x with slots := x.slots.set s y }
/-- The CURRENT slot of a LIVE handle. -/
def TDesc.current (x : TDesc) : Option (Nat × TSlot) := if x.st = 1 then some (x.cur, x.slot x.cur) else none
/-- Lowest FREE slot. -/
def TDesc.freeSlot (x : TDesc) : Option Nat := firstBelow 4 (fun s => (x.slot s).st == 0)
/-- The number after CUR_VERSION (R83). -/
def TDesc.nextVer (x : TDesc) : Nat := if x.ver = 2 ^ 32 - 1 then 1 else x.ver + 1
/-- The descriptor is read poisoned. -/
def Dev.tdescBad (d : Dev) (h : Nat) : Bool := d.bad (d.tdescAt h) 128

/-- A new current version (R89). -/
def TDesc.publish (x : TDesc) (kind s base len : Nat) : TDesc :=
  let old := if x.st = 1 then x.setSlot x.cur { x.slot x.cur with st := 2 } else x
  { (old.setSlot s { base := base, len := len, ver := x.nextVer, st := 1 }) with kind := kind, st := 1, cur := s, ver := x.nextVer }
/-- A withdrawal (R89). -/
def TDesc.withdraw (x : TDesc) : TDesc :=
  { (x.setSlot x.cur { x.slot x.cur with st := 2 }) with st := 2, ver := x.nextVer }

/-! Reader counts (R95). -/

def Dev.tblReaders (d : Dev) (h s : Nat) : Nat := Tab.getD d.tbl.readers (4 * h + s) 0

/-- Step 7 of a rebuild, when its old root's slot has become FREE (R215, R216). -/
def Dev.rebuildFinish (d : Dev) (r : Rebuild) : Dev :=
  let d := r.oldObjs.foldl (fun d o => d.releaseObject o) d
  let d := d.truncate r.img r.list r.cut
  let d := d.dropRebuild r.img r
  (d.finishAll r.cmds { count := 0, spec0 := r.published.getD 0, spec1 := r.cut }).bump pgCtx 3 9

/-- A RETIRING slot without readers becomes FREE, and what waits for that completes (R93, R216). -/
def Dev.slotFree (d : Dev) (h s : Nat) : Dev :=
  let x := d.tdesc h
  if (x.slot s).st = 3 && d.tblReaders h s = 0 then
    let y := x.slot s
    let d1 := d.putTdesc h (x.setSlot s { y with st := 0 })
    let waits := d1.tbl.retires.filter (fun e => e.2 == (h, s))
    let d2 := { d1 with tbl := { d1.tbl with retires := d1.tbl.retires.filter (fun e => e.2 != (h, s)) } }
    let d3 := waits.foldl (fun d e => (d.finish e.1 { spec0 := y.base, spec1 := y.len }).bump pgCtx 1 3) d2
    ((Tab.vals d3.upd.rebuilds).filter (fun r => r.retiring == some (h, s))).foldl (fun d r => (d.bump pgCtx 1 3).rebuildFinish r) d3
  else d

/-- A reader of a slot ends. -/
def Dev.unbind1 (d : Dev) (b : Nat × Nat) : Dev :=
  let k := 4 * b.1 + b.2
  let n := Tab.getD d.tbl.readers k 0
  let d := { d with tbl := { d.tbl with readers := if n ≤ 1 then Tab.del d.tbl.readers k else Tab.set d.tbl.readers k (n - 1) } }
  d.slotFree b.1 b.2

/-- Some slot of a list is no longer CURRENT (R96). -/
def Dev.anyOld (d : Dev) (l : List (Nat × Nat)) : Bool := l.any (fun b => ((d.tdesc b.1).slot b.2).st != 1)

/-- End binds held for command or sub-search i, noting OLD_TABLE (R95, R96). -/
def Dev.unbind (d : Dev) (i : Nat) (l : List (Nat × Nat)) : Dev :=
  let d := if d.anyOld l then d.updCtx i (fun x => { x with oldTable := true }) else d
  l.foldl (fun d b => d.unbind1 b) d

/-- Add a reader. -/
def Dev.addTblReader (d : Dev) (b : Nat × Nat) : Dev :=
  { d with tbl := { d.tbl with readers := Tab.upd d.tbl.readers (4 * b.1 + b.2) 0 (· + 1) } }

/-! Image checks (R85, R86). -/

/-- The address and length of an image break no condition of R86. An image where no object stands, or that runs past its object, breaks them,
so that it fails step 5 and is no unmapped access of R49 (DEDUCED, log entry 62). -/
def Dev.imgPlaceOk (d : Dev) (g n : Nat) : Bool :=
  let a := localPart g
  d.isLocal g && a % 64 == 0 && decide (64 ≤ n) && d.mapped a n &&
  (match regionOf d.part a, regionOf d.part (a + n - 1) with
   | .seat, .seat => true
   | .hide _, .hide _ => true
   | .obj, .obj => true
   | _, _ => false)

/-- Zero bytes of a header from o up to 64. -/
def zeroTo64 (h : List Byte) (o : Nat) : Bool := (slice h o (64 - o)).all (fun b => b == 0)

/-- The common header (R85). -/
def hdrOk (h : List Byte) (kind len : Nat) : Bool :=
  leAt h 0 1 == kind && leAt h 1 1 == 1 && leAt h 2 2 == 0 && leAt h 8 4 == len

/-- Every field of a collection image is within its range (R98, R99, R188, R493), ignoring what other tables say. -/
def collFieldsOk (i : List Byte) : Bool :=
  let fmt := cFormat i
  let pq := fmt == 4 || fmt == 5
  let act := cState i == 1 || cState i == 2
  let tbl := fun h => h == 0 || decide (4096 ≤ h)
  zeroTo64 i 16 && leAt i 4 4 == 1 && leAt i 12 4 == 256 &&
  decide (cState i ≤ 2) && decide (cMetric i ≤ 2) && decide (32 ≤ cDim i) && decide (cDim i ≤ 4096) && cDim i % 32 == 0 &&
  decide (fmt ≤ 5) && (decide (cRefine i ≤ 3) || cRefine i == 0xFF) &&
  (if pq then decide (8 ≤ cPqm i) && decide (cPqm i ≤ 256) && cDim i % cPqm i == 0 && (fmt == 4 || cPqm i % 2 == 0) else cPqm i == 0) &&
  (!cPrescan i || pq) && decide (leAt i 72 2 < 8) && leAt i 74 2 == 0 &&
  decide (1 ≤ cLists i) && decide (cLists i ≤ cListCap i) && decide (cListCap i ≤ 16777216) &&
  tbl (cCentTbl i) && tbl (cCodeTbl i) && tbl (cDirTbl i) && tbl (cAttrTbl i) && tbl (cEncTbl i) && tbl (cRerTbl i) && tbl (cTokTbl i) &&
  (pq || cCodeTbl i == 0) && (!act || (cCentTbl i != 0 && cDirTbl i != 0 && (!pq || cCodeTbl i != 0))) &&
  decide (leAt i 100 2 ≤ 4096) && leAt i 102 2 == 0 && cHeads i % 64 == 0 && decide (cHeads i < 2 ^ 52) &&
  decide (cHeads i + 32 * cListCap i ≤ 2 ^ 36) && (slice i 112 16).all (fun b => b == 0) &&
  (leAt i 128 4 == 0 || leAt i 128 4 == 0xFFFFFFFF || (decide (100 ≤ leAt i 128 4) && decide (leAt i 128 4 ≤ 1000000))) &&
  decide (leAt i 132 4 ≤ 2 ^ 28) && (leAt i 136 4 == 0 || (decide (64 ≤ leAt i 136 4) && decide (leAt i 136 4 ≤ 1048576))) &&
  (leAt i 140 2 == 0 || (decide (256 ≤ leAt i 140 2) && decide (leAt i 140 2 ≤ 8192))) && decide (leAt i 142 2 < 1024) &&
  decide (leAt i 144 4 < 8) && (leAt i 152 4 == 0 || (decide (1000 ≤ leAt i 152 4) && decide (leAt i 152 4 ≤ 3600000))) &&
  (slice i 156 36).all (fun b => b == 0) && decide (leAt i 192 2 < 2) && decide (cGroup i < 4096) &&
  (cSharded i || cGroup i == 0) && decide (cLeader i < 1024) && (slice i 198 58).all (fun b => b == 0)

/-- A later publish changes no field that R100 fixes, and LIST_COUNT keeps its rule. `cur` is the current image, none when the handle has
none. -/
def collChangeOk (cur : Option (List Byte)) (i : List Byte) : Bool :=
  match cur with
  | none => true
  | some c =>
    let free := cState i == 0 || cState c == 0
    (free || (cMetric c == cMetric i && cDim c == cDim i && cFormat c == cFormat i && cRefine c == cRefine i && cPqm c == cPqm i &&
      cResidual c == cResidual i && cPrescan c == cPrescan i && cListCap c == cListCap i && cHeads c == cHeads i)) &&
    (cState i == 0 || decide (cLists c ≤ cLists i))

/-- Bytes of an image without a stall: what its current copy holds. -/
def Dev.peekImg (d : Dev) (g n : Nat) : List Byte :=
  let a := localPart g
  match regionOf d.part a with
  | .obj => match d.objAt a with
    | some (_, e, off) => d.copyBytes e (d.bindTier e) off n
    | none => List.replicate n 0
  | _ => d.peek a n

/-- Header of a handle's current version, if the handle is LIVE and of the kind. -/
def Dev.liveHeader (d : Dev) (h kind : Nat) : Option (Nat × List Byte) :=
  let x := d.tdesc h
  match x.current with
  | some (_, s) => if x.kind = kind then some (s.base, d.peekImg s.base 64) else none
  | none => none

/-- Checks of a collection image against other tables (R99). -/
def Dev.collTablesOk (d : Dev) (i : List Byte) : Bool :=
  if cState i = 0 then true
  else
    let want := fun h k => h == 0 || (d.liveHeader h k).isSome
    want (cCentTbl i) 1 && want (cCodeTbl i) 2 && want (cDirTbl i) 3 && want (cAttrTbl i) 4 && want (cEncTbl i) 5 &&
    want (cRerTbl i) 5 && want (cTokTbl i) 6 &&
    (match d.liveHeader (cCentTbl i) 1 with
     | some (_, h) => (cGraph i || decide (leAt h 4 4 ≤ 262144)) && (!cGraph i || (leAt h 19 1).testBit 0)
     | none => false)

/-- Header checks of a centroid table (R106). ENTRY_BYTES, which the kind does not define, may hold any value (DESIGN CHOICE, log entry 62). -/
def centHdrOk (h : List Byte) (len : Nat) : Bool :=
  let n := leAt h 4 4
  let dim := leAt h 16 2
  let g := (leAt h 19 1).testBit 0
  let inside := fun o s => o % 64 == 0 && decide (64 ≤ o) && decide (o + s ≤ len)
  decide (n ≤ 16777216) && decide (leAt h 18 1 ≤ 1) &&
  decide (leAt h 19 1 < 2) && leAt h 22 2 == 0 && (slice h 52 12).all (fun b => b == 0) && (g || decide (n ≤ 262144)) &&
  inside (leAt h 24 4) (n * dim * 2) && inside (leAt h 28 4) n &&
  (if g then decide (1 ≤ leAt h 20 1) && decide (leAt h 20 1 ≤ 64) && decide (1 ≤ leAt h 21 1) && decide (leAt h 21 1 ≤ 4) &&
      inside (leAt h 32 4) (n * leAt h 20 1 * 4)
   else leAt h 20 1 == 0 && leAt h 21 1 == 0 && leAt h 32 4 == 0)

/-- Header checks of a codebook (R105). -/
def codeHdrOk (h : List Byte) (len : Nat) : Bool :=
  let m := leAt h 4 4
  let dim := leAt h 18 2
  let ks := leAt h 16 2
  let f := leAt h 20 1
  (f == 4 || f == 5) && ks == (if f = 4 then 256 else 16) && decide (8 ≤ m) && decide (m ≤ 256) && dim % m == 0 && decide (1 ≤ dim) &&
  leAt h 12 4 == ks * (dim / m) * 2 && len == 64 + m * (ks * (dim / m) * 2) && (slice h 21 43).all (fun b => b == 0)

/-- Header checks of a list directory root (R113). -/
def dirHdrOk (h : List Byte) (len : Nat) : Bool :=
  let n := leAt h 16 4
  leAt h 12 4 == 8 && leAt h 4 4 == (n + 4095) / 4096 && decide (1 ≤ n) && decide (n ≤ 16777216) && len == 64 + 8 * leAt h 4 4 &&
  (slice h 20 44).all (fun b => b == 0)

/-- Row size of a row format (R393). -/
def rowBytes (f dim : Nat) : Nat :=
  match f with
  | 0 => 4 * dim
  | 1 => 2 * dim
  | 2 => 4 + dim
  | _ => 4 + dim / 2

/-- One region of R48 holds the range, on the node its address names (R394). -/
def Dev.oneRegion (d : Dev) (g n : Nat) : Bool :=
  let a := localPart g
  let same := match regionOf d.part a, regionOf d.part (a + n - 1) with
    | .hole, _ => false
    | .regs, _ => false
    | .hide _, .hide _ => true
    | x, y => x == y
  decide (1 ≤ n) && same

/-- Checks of an attribute or row table image (R392, R394). -/
def Dev.rowHdrOk (d : Dev) (kind : Nat) (h : List Byte) (len : Nat) : Bool :=
  let r := leAt h 4 4
  let st := leAt h 12 4
  let f := leAt h 16 1
  let k := leAt h 17 1
  let mode := k % 4
  let pres := k.testBit 2
  let dim := leAt h 18 2
  let idx := leAt h 40 8
  let bl := leAt h 48 1
  let idxLen := if mode = 1 then 128 * 2 ^ bl else (r + 7) / 8
  len == 64 && decide (1 ≤ r) && decide (f ≤ 3) && decide (mode ≤ 1) && decide (k < 16) && decide (1 ≤ dim) &&
  decide (dim ≤ (if kind = 4 then 256 else 4096)) && leAt h 20 4 == 0 && st % 16 == 0 && decide (rowBytes f dim ≤ st) &&
  (f != 3 || dim % 2 == 0) && !(mode = 1 && kind != 4) && !(pres && mode != 0) && ((idx != 0) == (pres || mode == 1)) &&
  leAt h 24 8 % 64 == 0 && idx % 64 == 0 &&
  (if mode = 1 then decide (4 ≤ bl) && decide (bl ≤ 32) && decide (1 ≤ leAt h 49 1) && decide (leAt h 49 1 ≤ 8) else bl == 0 && leAt h 49 1 == 0) &&
  (if kind = 6 then decide (leAt h 50 1 ≤ 1) && leAt h 32 8 == 0 && mode == 0 else leAt h 50 1 == 0) &&
  (slice h 51 13).all (fun b => b == 0) && d.oneRegion (leAt h 24 8) (r * st) && (idx == 0 || d.oneRegion idx idxLen)

/-! Model images (R276 to R279). -/

def mClass (h : List Byte) : Nat := leAt h 16 1 % 16
def mCandKind (h : List Byte) : Nat := leAt h 16 1 / 16
def mInput (h : List Byte) : Nat := leAt h 17 1
def mInFmt (h : List Byte) : Nat := leAt h 18 1
def mEngines (h : List Byte) : Nat := leAt h 19 1
def mUnitElems (h : List Byte) : Nat := leAt h 20 2
def mMaxUnits (h : List Byte) : Nat := leAt h 22 2
def mVecDim (h : List Byte) : Nat := leAt h 24 2
def mSlots (h : List Byte) : Nat := leAt h 26 1
def mLanes (h : List Byte) : Nat := leAt h 27 1
def mStages (h : List Byte) : Nat := leAt h 4 4
def mOffStages (h : List Byte) : Nat := leAt h 32 4
def mKv (h : List Byte) : Nat := leAt h 36 2
def mScratch (h : List Byte) : Nat := leAt h 38 2
def mKvAddr (h : List Byte) : Nat := leAt h 40 8
def mScratchAddr (h : List Byte) : Nat := leAt h 48 8
def mStateAddr (h : List Byte) : Nat := leAt h 56 8

/-- Fields of a model header within their ranges, and where its writable storage lies (R276, R279). -/
def Dev.modelHdrOk (d : Dev) (h : List Byte) (len : Nat) : Bool :=
  let raw := mInput h == 2 || mInput h == 3
  let lanes := 8 * mLanes h
  let sc := localPart (mScratchAddr h)
  let kv := localPart (mKvAddr h)
  let stt := localPart (mStateAddr h)
  leAt h 12 4 == 32 && decide (1 ≤ mStages h) && decide (mClass h ≤ 2) && decide (mCandKind h ≤ 1) && (mClass h != 0 || mCandKind h == 0) &&
  decide (mInput h ≤ 3) && (if raw then mInFmt h == 0 || mInFmt h == 2 || mInFmt h == 6 || mInFmt h == 7 else mInFmt h == 0) &&
  decide (1 ≤ mEngines h) && decide (mEngines h ≤ d.part.perCore) && (raw == (mUnitElems h != 0)) && decide (1 ≤ mMaxUnits h) &&
  decide (mMaxUnits h ≤ 8192) && decide (mSlots h ≤ 16) && decide (1 ≤ mLanes h) && decide (mLanes h ≤ 8) && leAt h 28 2 == 0 &&
  leAt h 30 2 == 0 && decide (1 ≤ mScratch h) && decide (mScratch h ≤ 256) && decide (mOffStages h + 32 * mStages h ≤ len) &&
  d.isLocal (mScratchAddr h) && decide (sc + 2 ^ 20 * (lanes * mScratch h) ≤ 2 ^ 36) &&
  (if mSlots h = 0 then true else d.isLocal (mStateAddr h) && decide (1 ≤ mStateAddr h) && decide (stt + 128 * 128 ≤ 2 ^ 36)) &&
  (mSlots h != 0 || mStateAddr h == 0) &&
  (if mKv h = 0 then mKvAddr h == 0
   else d.isLocal (mKvAddr h) && (List.range lanes).all (fun l =>
     match regionOf d.part (kv + 2 ^ 20 * (l * mKv h)), regionOf d.part (kv + 2 ^ 20 * ((l + 1) * mKv h) - 1) with
     | .hide a, .hide b => a == b
     | _, _ => false))

/-- A stage entry (R277). -/
structure Stage where
  progOff : Nat := 0
  progLen : Nat := 0
  w5Off : Nat := 0
  w5Len : Nat := 0
  rep : Nat := 1
  gather : Bool := false
  attn : Bool := false
  stride : Nat := 0
  gatherOff : Nat := 0
deriving DecidableEq, Repr

def stageOf (b : List Byte) : Stage :=
  { progOff := leAt b 0 4, progLen := leAt b 4 4, w5Off := leAt b 8 4, w5Len := leAt b 12 4, rep := leAt b 16 2,
    gather := (leAt b 18 2).testBit 0, attn := (leAt b 18 2).testBit 1, stride := leAt b 20 4, gatherOff := leAt b 24 4 }

/-- Checks of stage s (R277, R279): `img` is the whole image. -/
def Dev.stageOk (d : Dev) (img : List Byte) (s : Nat) : Bool :=
  let b := slice img (mOffStages img + 32 * s) 32
  let x := stageOf b
  let p := slice img x.progOff x.progLen
  let decl := (List.range 8).map (imgWindow p)
  let used := fun k w => ({ kind := if k then 3 else 0, len := 64, write := w } : Window)
  let ws := decl.take 4 ++ [used (mKv img != 0) true, used true false, used true false, used true true]
  x.progOff % 64 == 0 && decide (x.progOff + x.progLen ≤ img.length) && imgHeaderOk p x.progLen &&
  (decl.drop 4).all (fun w => w.kind == 0) && (decl.take 4).all (fun w => (List.range 8).all (fun c => d.winOk c w)) && progOk ws p &&
  x.w5Off % 64 == 0 && decide (1 ≤ x.w5Len) && x.w5Len % 64 == 0 && decide (1 ≤ x.rep) &&
  decide (x.w5Off + (x.rep - 1) * x.stride + x.w5Len ≤ img.length) && decide (leAt b 18 2 < 4) && leAt b 28 4 == 0 &&
  (!x.attn || mKv img != 0) && (!x.gather || mInput img == 1)

/-! Binds (R94 to R97). -/

/-- What a bind answers. -/
inductive Bind where
  | ok (slots : List (Nat × Nat))
  | wait
  | bad (st : Status)
deriving DecidableEq, Repr

/-- A table wanted by a phase: handle, kind, and the comparison of R97 on its header. -/
structure Want where
  h : Nat
  kind : Nat
  chk : Nat
deriving DecidableEq, Repr

/-- The comparison of a header with the bound collection image (R97): `chk` 1 centroid, 2 codebook, 3 directory, 5 encoder, 7 scorer of a
query that is raw, 8 scorer of a query that is a vector; others compare nothing. -/
def hdrAgrees (img h : List Byte) (chk : Nat) : Bool :=
  match chk with
  | 1 => leAt h 4 4 == cLists img && leAt h 16 2 == cDim img && (!cGraph img || (leAt h 19 1).testBit 0)
  | 2 => leAt h 4 4 == cPqm img && leAt h 18 2 == cDim img && leAt h 20 1 == cFormat img
  | 3 => leAt h 16 4 == cLists img
  | 5 => mClass h == 0 && mVecDim h == cDim img
  | 7 => (mClass h == 1 || mClass h == 2) && mCandKind h == 0 && mVecDim h == cDim img
  | 8 => (mClass h == 1 || mClass h == 2) && mCandKind h == 0 && mVecDim h == cDim img && mInput h == 0
  | _ => true

/-- The table unit is reading the image of a publish, and every other request waits for it (R90). The publish that ends gives the unit back. -/
def Dev.tblBusy (d : Dev) : Bool :=
  match d.tbl.busy with
  | none => false
  | some (c, cinc) => match d.ctx? c with
    | some x => x.cinc == cinc && x.done.isNone
    | none => false

/-- The slots that a bind of tables takes, each checked (R94, R97). -/
def Dev.bindLook (d : Dev) (i : Nat) (img : List Byte) (ws : List Want) : Dev × Bind :=
  let look := fun (acc : Dev × Bind) (w : Want) =>
    match acc with
    | (d, .ok l) =>
      if d.tdescBad w.h then (d.touch (d.tdescAt w.h) 128, .bad .poisoned)
      else
        let x := d.tdesc w.h
        match x.current with
        | none => (d, .bad .badTable)
        | some (s, y) =>
          if x.kind != w.kind then (d, .bad .badTable)
          else match d.cmdRead i y.base 64 with
            | (d, .ready hb none) => if hdrAgrees img hb w.chk then (d, .ok (l ++ [(w.h, s)])) else (d, .bad .badTable)
            | (d, .ready _ (some st)) => (d, .bad st)
            | (d, .wait) => (d, .wait)
            | (d, .fail st) => (d, .bad st)
    | other => other
  if d.tblBusy then (d, .wait) else ws.foldl look (d, .ok [])

/-- Bind the tables of a phase in one request (R94). A failed bind binds none, and a phase that reads no table binds nothing (R121). -/
def Dev.bindAll (d : Dev) (i : Nat) (img : List Byte) (ws : List Want) : Dev × Bind :=
  match d.bindLook i img ws with
  | (d, .ok l) =>
    let d := l.foldl (fun d b => (d.addTblReader b).heatAt ((d.tdesc b.1).slot b.2).base) d
    (if l.isEmpty then d else d.bump pgCtx 1 4, .ok l)
  | r => r

/-- Base address of a bound slot's image. -/
def Dev.boundBase (d : Dev) (b : Nat × Nat) : Nat := ((d.tdesc b.1).slot b.2).base
/-- The slot bound for handle h in a list of binds. -/
def bindOf (l : List (Nat × Nat)) (h : Nat) : Option (Nat × Nat) := l.find? (fun b => b.1 == h)

/-! The composition map as a reader sees it (R494 to R496). -/

/-- Base of the image of a live generation. -/
def Dev.mapBase (d : Dev) (gen : Nat) : Option Nat :=
  match d.cmp.cur with
  | some g => if g.gen = gen then some g.base else (match d.cmp.old with
    | some o => if o.gen = gen then some o.base else none
    | none => none)
  | none => none
def Dev.mapGroups (d : Dev) (b : Nat) : Nat := d.peekN (b + 8) 4
/-- Shard count of a group; its shard list's address. -/
def Dev.mapShards (d : Dev) (b g : Nat) : Nat := d.peekN (b + d.peekN (b + 16) 4 + 8 * g) 2
def Dev.mapShardNode (d : Dev) (b g i : Nat) : Nat := d.peekN (b + d.peekN (b + d.peekN (b + 16) 4 + 8 * g + 4) 4 + 2 * i) 2 % 4096

/-- The conditions a sharded collection's bind checks (R494). -/
def Dev.shardOk (d : Dev) (img : List Byte) (gen : Nat) : Bool :=
  if !cSharded img then true
  else match d.mapBase gen with
    | some b => decide (cGroup img < d.mapGroups b) && decide (cLeader img < d.mapShards b (cGroup img))
    | none => false

/-- Owner node of an item (R495): this node when the collection is not sharded; none when the generation is no longer live. -/
def Dev.ownerNode (d : Dev) (img : List Byte) (gen x : Nat) : Option Nat :=
  if !cSharded img then some d.node
  else match d.mapBase gen with
    | some b =>
      let h := x * 0x9E3779B97F4A7C15 % 2 ^ 64
      some (d.mapShardNode b (cGroup img) (h / 2 ^ 32 * d.mapShards b (cGroup img) / 2 ^ 32))
    | none => none

/-- Node of shard i of a collection's group. -/
def Dev.shardNode (d : Dev) (img : List Byte) (gen i : Nat) : Option Nat :=
  (d.mapBase gen).map (fun b => d.mapShardNode b (cGroup img) i)

/-- An ADMIT runs on collection c (R511). -/
def Dev.admitOn (d : Dev) (c : Nat) : Bool := (Tab.vals d.cmp.admits).any (fun a => a.coll == c)

/-- Partner from which a joining node receives the records of collection c (R512, R513). -/
def Dev.partnerOf (d : Dev) (c : Nat) : Option Nat :=
  if d.cmp.st == .joining then (d.cmp.partners.find? (fun p => p.1 == c)).map (fun p => p.2.1) else none

/-- The collection that is loaded from collection `pc` of partner `src` (R509, R511). -/
def Dev.joinColl (d : Dev) (src pc : Nat) : Option Nat :=
  (d.cmp.partners.find? (fun p => p.2.1 == src && p.2.2 == pc)).map Prod.fst

/-- The bound image of a collection: none when it cannot be read now. -/
inductive CollGot where
  | ok (img : List Byte) (slot : Nat × Nat)
  | wait
  | bad (st : Status)
deriving DecidableEq, Repr

/-- Look a collection up (R94, R97, R101): LIVE, of kind 0 and not INACTIVE. -/
def Dev.lookColl (d : Dev) (i c : Nat) : Dev × CollGot :=
  if d.isFenced then (d, .bad .fenced)
  else if d.tblBusy then (d, .wait)
  else if d.tdescBad c then (d.touch (d.tdescAt c) 128, .bad .poisoned)
  else
    let x := d.tdesc c
    match x.current with
    | none => (d, .bad .badCollection)
    | some (s, y) =>
      match d.cmdRead i y.base 256 with
      | (d, .ready b none) => if cState b = 0 then (d, .bad .badCollection) else (d, .ok b (c, s))
      | (d, .ready _ (some st)) => (d, .bad st)
      | (d, .wait) => (d, .wait)
      | (d, .fail st) => (d, .bad st)

/-- What a command that would change a collection, or one that is sharded, asks of the image it binds (R101, R494). -/
def Dev.collFits (d : Dev) (img : List Byte) (active : Bool) : Bool := (!active || cState img == 1) && d.shardOk img d.curGen

/-- Bind a command's collection for its whole life, and the map generation with it (R94, R494). `need` 1 asks for ACTIVE. -/
def Dev.bindColl (d : Dev) (i c : Nat) (active : Bool) : Dev × CollGot :=
  match d.lookColl i c with
  | (d, .ok img slot) =>
    if !d.collFits img active then (d, .bad .badCollection)
    else
      let d := d.addTblReader slot
      (d.updCtx i (fun x => { x with binds := x.binds ++ [slot], mapGen := d.curGen }), .ok img slot)
  | r => r

end Sys2Proof.Machine
end

