-- ==== Sys2Proof/Machine/Coarse.lean ====
section
/-! DEFINITION. Vectors and keys: encoding (R104), sort keys (R134, R135), centroid tables, the graph walk and list selection (R106 to R112),
and what a segment's bytes hold (R102, R103, R116, R117, R210, R211). -/

namespace Sys2Proof.Machine
open Sys2Proof

/-! Vectors. -/

/-- The bytes of a vector in format f (R102), as FP32. -/
def vecOf (f dim : Nat) (b : List Byte) : List Word :=
  match f with
  | 0 => eltWords 6 dim b
  | 1 => eltWords 7 dim b
  | 2 => eltWords 2 dim b
  | _ =>
    let sc := word32 (fp16.decode (leAt b dim 2))
    (List.range dim).map (fun i => fMul sc (word32 (.ofInt (sInt 8 (leAt b i 1)))))

/-- The elements of a query or update vector: 0 FP32, 1 BF16, 2 FP16 (R124, R200). -/
def inVec (f dim : Nat) (b : List Byte) : List Word := eltWords (if f = 0 then 8 else if f = 1 then 6 else 7) dim b

/-- Bytes per element of those formats. -/
def inBytes (f : Nat) : Nat := if f = 0 then 4 else 2

/-- All elements zero, subnormals counting as zero (R104). -/
def allZero (v : List Word) : Bool := v.all (fun w => (val32 (ftz w)).isZero)
/-- No NaN and no infinity. -/
def allFinite (v : List Word) : Bool := v.all (fun w => (val32 w).finite)

/-- Largest magnitude. -/
def maxAbs (v : List Word) : Word := v.foldl (fun m w => fMax m (ftz w &&& 0x7FFFFFFF)) 0

/-- Unit length (R104 step 1): divided by the largest magnitude before the length is taken. -/
def normalise (seed : List Nat) (v : List Word) : List Word :=
  let m := maxAbs v
  let y := v.map (fun w => fDiv w m)
  let r := fRsqrt (seed ++ [1]) (fDot (seed ++ [2]) y y)
  y.map (fun w => fMul w r)

/-- Smallest FP16 at or above a finite value of positive sign. -/
def f16Up (v : Fv) : Nat :=
  let x := fp16.encode v
  if (fp16.decode x).lt v then x + 1 else x

/-- INT8_S16 code of a vector (R104 step 3). -/
def encInt8 (v : List Word) : List Byte :=
  let m := val32 (maxAbs v)
  if m.isZero then v.map (fun _ => (0 : Byte)) ++ natLe 2 0
  else
    let sc := f16Up (m.div (.fin false 127 0))
    let s := fp16.decode sc
    v.map (fun w => BitVec.ofNat 8 (wrapInt 8 (max (-127) (min 127 ((val32 (ftz w)).div s).toInt)))) ++ natLe 2 sc

/-- Squared Euclidean distance. -/
def sqDist (seed : List Nat) (a b : List Word) : Word :=
  fSum seed (List.zipWith (fun x y => let t := fSub x y; fMul t t) a b)

/-- Sub-vector j of m. -/
def subVec (v : List Word) (m j : Nat) : List Word := (v.drop (j * (v.length / m))).take (v.length / m)

/-- Centroid c of sub-quantiser j in a codebook image (R105). -/
def bookCent (book : List Byte) (j c : Nat) : List Word :=
  let n := leAt book 18 2 / leAt book 4 4
  let k := leAt book 16 2
  eltWords 7 n (slice book (64 + 2 * n * (j * k + c)) (2 * n))

/-- Index of the least of a list of distances, the lower on a tie (R104 step 4). -/
def leastIdx (l : List Word) : Nat :=
  (l.zipIdx.foldl (fun (b : Option (Word × Nat)) x => match b with
    | none => some x
    | some y => if fLt x.1 y.1 then some x else b) none).elim 0 Prod.snd

/-- PQ codes of a vector, one byte each (R104 step 4). -/
def encPq (seed : List Nat) (book : List Byte) (v : List Word) : List Byte :=
  let m := leAt book 4 4
  (List.range m).map (fun j =>
    BitVec.ofNat 8 (leastIdx ((List.range (leAt book 16 2)).map (fun c => sqDist (seed ++ [j, c]) (subVec v m j) (bookCent book j c)))))

/-- Sign code (R102): bit d is 1 when component d is below zero. -/
def encSign (v : List Word) : List Byte :=
  (List.range (v.length / 8)).map (fun k =>
    BitVec.ofNat 8 (((List.range 8).map (fun i => if fLt (v.getD (8 * k + i) 0) 0 then 2 ^ i else 0)).foldl (· + ·) 0))

/-- Scan code, or full vector, of x in format f; PQ codes come one byte each and are packed where they are stored. -/
def encCode (seed : List Nat) (f : Nat) (book : List Byte) (x : List Word) : List Byte :=
  match f with
  | 0 => (x.map (fun w => natLe 2 (eltEnc 6 (val32 w)))).flatten
  | 1 => (x.map (fun w => natLe 2 (eltEnc 7 (val32 w)))).flatten
  | 2 => (x.map (fun w => natLe 1 (eltEnc 2 (val32 w)))).flatten
  | 3 => encInt8 x
  | _ => encPq seed book x

/-! Keys (R134, R135). -/

/-- Sort key of a value, and whether it was NaN. -/
def sortKey (w : Word) : Nat × Bool :=
  let nan := (val32 w).isNan
  let v := if nan then 0x7F800000 else if w = 0x80000000 then 0 else w.toNat
  (if 2 ^ 31 ≤ v then 2 ^ 32 - 1 - v else v + 2 ^ 31, nan)

/-- Value to encode for a metric (R134). -/
def metricVal (seed : List Nat) (metric : Nat) (q x : List Word) : Word :=
  match metric with
  | 0 => sqDist seed q x
  | 1 => fNeg (fDot seed q x)
  | _ => fSub 0x3F800000 (fDot seed q x)

/-- Key of an item. -/
def metricKey (seed : List Nat) (metric : Nat) (q x : List Word) : Nat × Bool := sortKey (metricVal seed metric q x)

/-! Centroid tables (R106 to R108). -/

def ctN (t : List Byte) : Nat := leAt t 4 4
def ctVec (t : List Byte) (c : Nat) : List Word :=
  let dim := leAt t 16 2
  eltWords (if leAt t 18 1 = 0 then 6 else 7) dim (slice t (leAt t 24 4 + 2 * dim * c) (2 * dim))
/-- State of centroid c: 0 LIVE, 1 GHOST, 2 REMOVED; another byte counts as REMOVED. -/
def ctStateByte (t : List Byte) (c : Nat) : Nat := leAt t (leAt t 28 4 + c) 1
def ctState (t : List Byte) (c : Nat) : Nat := min (ctStateByte t c) 2
/-- Neighbour words of centroid c. -/
def ctNbrs (t : List Byte) (c : Nat) : List Nat :=
  (List.range (leAt t 20 1)).map (fun w => leAt t (leAt t 32 4 + 4 * (c * leAt t 20 1 + w)) 4)

/-- Order of pairs (key, id). -/
def pairLt (a b : Nat × Nat) : Bool := decide (a.1 < b.1) || (a.1 == b.1 && decide (a.2 < b.2))
/-- Insert into a list of pairs in order. -/
def insPair (x : Nat × Nat) : List (Nat × Nat) → List (Nat × Nat)
  | [] => [x]
  | y :: t => if pairLt x y then x :: y :: t else y :: insPair x t

/-- State of a walk (R110). -/
structure Walk where
  visited : List Nat := []
  frontier : List (Nat × Nat) := []
  best : List (Nat × Nat) := []
  hops : Nat := 0
  /-- Every key computed. -/
  seen : List (Nat × Nat) := []
  nans : Nat := 0
  /-- Invalid states and words treated (R107, R108). -/
  bad : Nat := 0
  /-- It stopped because hops reached max_hops. -/
  limited : Bool := false
deriving DecidableEq, Repr

/-- Compute a centroid's key and offer it; `always` for an entry point. -/
def Walk.offer (key : Nat → Nat × Bool) (ef : Nat) (always : Bool) (s : Walk) (c : Nat) : Walk :=
  let (k, nan) := key c
  let take := always || decide (s.best.length < ef) || (match s.best.getLast? with
    | some l => pairLt (k, c) l
    | none => true)
  let s := { s with seen := s.seen ++ [(k, c)], nans := s.nans + b2n nan }
  if take then { s with frontier := insPair (k, c) s.frontier, best := (insPair (k, c) s.best).take ef } else s

/-- One hop's batch: the neighbours not skipped, not REMOVED and not visited. A VALID word whose target's state byte is invalid is one treated
word, counted once (DESIGN CHOICE, log entry 62). -/
def Walk.batch (t : List Byte) (s : Walk) (ws : List Nat) : Walk × List Nat :=
  ws.foldl (fun (acc : Walk × List Nat) w =>
    let (s, l) := acc
    if !w.testBit 31 then (s, l)
    else
      let c := w % 2 ^ 24
      if ctN t ≤ c || ctState t c == 2 then ({ s with bad := s.bad + 1 }, l)
      else if s.visited.contains c then (s, l)
      else ({ s with visited := c :: s.visited }, l ++ [c])) (s, [])

/-- Hops, at most max_hops of them. -/
def walkGo (t : List Byte) (key : Nat → Nat × Bool) (ef : Nat) : Nat → Walk → Walk
  | 0, s => { s with limited := !s.frontier.isEmpty }
  | n + 1, s =>
    match s.frontier with
    | [] => s
    | x :: rest =>
      let s := { s with frontier := rest }
      if s.best.length == ef && (match s.best.getLast? with
          | some l => pairLt l x
          | none => false) then s
      else
        let (s, b) := Walk.batch t { s with hops := s.hops + 1 } (ctNbrs t x.2)
        walkGo t key ef n (b.foldl (Walk.offer key ef false) s)

/-- graph_walk of R110. -/
def graphWalk (t : List Byte) (key : Nat → Nat × Bool) (ef maxHops : Nat) : Walk :=
  let entries := ((List.range (leAt t 21 1)).map (fun i => leAt t (36 + 4 * i) 4)).eraseDups
  walkGo t key ef maxHops (entries.foldl (fun s e => Walk.offer key ef true { s with visited := e :: s.visited } e) {})

/-- R111 and R112: the nprobe best LIVE lists, and GHOST_SKIP. `reached` are the centroids whose key was computed, `live` those handed to
the Keeper. -/
def selectLists (nprobe : Nat) (live ghosts : List (Nat × Nat)) : List (Nat × Nat) × Bool × Bool :=
  let sel := (live.foldl (fun l x => insPair x l) []).take nprobe
  let few := decide (sel.length < nprobe)
  let skip := (match sel.getLast? with
    | some l => ghosts.any (fun g => pairLt g l)
    | none => false) || (few && !ghosts.isEmpty)
  (sel, skip, few)

/-- Walk width (R110). -/
def walkWidth (img : List Byte) (nprobe ef : Nat) : Nat := min (max (max nprobe (cEfMin img)) ef) 4096

/-- Value of a centroid in the brute-force product (R254): the query streams as an activation row in the table's format against the centroid, the
exact products summed under R227; for squared Euclidean the vector unit forms ‖q‖² − 2q·c + ‖c‖², of the row that streams, in an order left open. -/
def gemmVal (seed : List Nat) (metric : Nat) (q c : List Word) : Word :=
  let dot := vSum (seed ++ [1]) (List.zipWith (fun x y => (val32 x).mul (val32 y)) q c)
  match metric with
  | 0 => fSum (seed ++ [2]) [fDot (seed ++ [3]) q q, fMul 0xC0000000 dot, fDot (seed ++ [4]) c c]
  | 1 => fNeg dot
  | _ => fSub 0x3F800000 dot
/-- A query as an activation row in the format of a centroid table. -/
def gemmRow (t : List Byte) (q : List Word) : List Word :=
  let f := if leAt t 18 1 = 0 then 6 else 7
  q.map (fun w => word32 (eltVal f (eltEnc f (val32 w))))

/-- The coarse phase of one query (R109 to R112, R136). -/
def coarseSelect (seed : List Nat) (img t : List Byte) (q : List Word) (nprobe ef : Nat) : Probe :=
  if cGraph img then
    let key := fun c => metricKey (seed ++ [c]) (cMetric img) q (ctVec t c)
    let w := graphWalk t key (walkWidth img nprobe ef) (cMaxHops img)
    let live := w.best.filter (fun x => ctState t x.2 == 0)
    let ghosts := w.seen.filter (fun x => ctState t x.2 == 1)
    let (sel, skip, few) := selectLists nprobe live ghosts
    { sel := sel, offered := ((live.map (fun (x : Nat × Nat) => (x.2, x.1))).foldl (fun l x => insPair x l) []).map Prod.snd, ghostSkip := skip,
      few := few, nans := w.nans, bad := w.bad, hops := w.hops, limited := w.limited }
  else
    let row := gemmRow t q
    let key := fun c => sortKey (gemmVal (seed ++ [c]) (cMetric img) row (ctVec t c))
    let ids := List.range (ctN t)
    let ks := ids.map (fun c => (key c, c))
    let live := (ks.filter (fun x => ctState t x.2 == 0)).map (fun x => (x.1.1, x.2))
    let ghosts := (ks.filter (fun x => ctState t x.2 == 1)).map (fun x => (x.1.1, x.2))
    let (sel, skip, few) := selectLists nprobe live ghosts
    { sel := sel, offered := live.map Prod.fst, ghostSkip := skip, few := few, nans := (ks.filter (fun x => x.1.2)).length,
      bad := (ids.filter (fun c => decide (2 < ctStateByte t c))).length }

/-- Count what a selection met (R107, R108, R112, R121, R135). -/
def Dev.probeCount (d : Dev) (p : Probe) : Dev :=
  let d := (d.bump pgCtx 2 12 p.nans).bump pgCtx 1 6 p.bad
  let d := if p.few then d.bump pgCtx 1 7 else d
  if p.limited then d.bump pgCtx 1 8 else d

/-! Sealed segments (R116, R117). -/

def sgItems (g : List Byte) : Nat := leAt g 4 4
def sgTombs (g : List Byte) : List (Nat × Nat) :=
  (List.range (leAt g 8 4)).map (fun i => (leAt g (leAt g 36 4 + 16 * i) 8, leAt g (leAt g 36 4 + 16 * i + 8) 4))
def sgId (g : List Byte) (i : Nat) : Nat := leAt g (64 + 8 * i) 8
def sgIe (g : List Byte) (i : Nat) : Nat := leAt g (leAt g 24 4 + 4 * i) 4
/-- Scan code of item i: PQ codes one byte each. -/
def sgCode (img g : List Byte) (i : Nat) : List Byte :=
  let o := leAt g 28 4
  if cFormat img = 5 then
    let m := cPqm img
    let v := i % 32
    (List.range m).map (fun j => BitVec.ofNat 8 (leAt g (o + i / 32 * 16 * m + 16 * j + v % 16) 1 / (if v < 16 then 1 else 16) % 16))
  else slice g (o + i * leAt g 14 2) (leAt g 14 2)
def sgSign (img g : List Byte) (i : Nat) : List Byte := slice g (leAt g 32 4 + i * (cDim img / 8)) (cDim img / 8)
def sgHasSign (g : List Byte) : Bool := (leAt g 13 1).testBit 0

/-- The header of a scan object agrees with the directory entry and the collection (R118). -/
def sgHdrOk (img g : List Byte) (list segLen : Nat) : Bool :=
  leAt g 0 4 == list && leAt g 12 1 == cFormat img && leAt g 14 2 == codeBytes (cFormat img) (cDim img) (cPqm img) && leAt g 40 4 == segLen

/-- The header of a refine object agrees (R118): items and length as the directory entry has them. -/
def rfHdrOk (img r : List Byte) (list items refineLen : Nat) : Bool :=
  leAt r 0 4 == list && leAt r 8 1 == cRefine img && leAt r 4 4 == items && decide (vecBytes (cRefine img) (cDim img) 0 ≤ leAt r 12 4) &&
  decide (64 + items * leAt r 12 4 ≤ refineLen)

/-- An item vector from a scan code (R134). `cent` is the list's centroid when RESIDUAL is set. -/
def codeVec (img book : List Byte) (cent : List Word) (code : List Byte) : List Word :=
  if cFormat img = 4 || cFormat img = 5 then
    let x := ((List.range (cPqm img)).map (fun j => bookCent book j (leAt code j 1))).flatten
    if cResidual img then List.zipWith fAdd x cent else x
  else vecOf (cFormat img) (cDim img) code

/-- Hamming distance of two sign codes. -/
def hamming (a b : List Byte) : Nat := popNat (8 * a.length) (leNat a ^^^ leNat b)

/-! Visibility (R210, R211). -/

/-- sealed_visible of R211; `log` holds the log tombstones. -/
def sealedVisible (id ie s : Nat) (carried log : List (Nat × Nat)) (e : Nat) : Bool :=
  id != noId && eLe ie s &&
  carried.all (fun t => !(t.1 == id && eLt ie t.2 && eLe t.2 s)) &&
  log.all (fun t => !(t.1 == id && eLt e t.2 && eLt ie t.2 && eLe t.2 s))

/-- delta_visible of R211. -/
def deltaVisible (id ie s : Nat) (log : List (Nat × Nat)) (e : Nat) : Bool :=
  id != noId && eLt e ie && sealedVisible id ie s [] log e

/-! Directory entries (R113, R114). -/

structure DirEnt where
  seg : Nat := 0
  refine : Nat := 0
  items : Nat := 0
  segLen : Nat := 0
  refineLen : Nat := 0
  epoch : Nat := 0
deriving DecidableEq, Repr

def dirEntOf (b : List Byte) : DirEnt :=
  { seg := leAt b 0 8, refine := leAt b 8 8, items := leAt b 16 4, segLen := leAt b 20 4, refineLen := leAt b 24 4, epoch := leAt b 28 4 }
def dirEntBytes (e : DirEnt) : List Byte :=
  natLe 8 e.seg ++ natLe 8 e.refine ++ natLe 4 e.items ++ natLe 4 e.segLen ++ natLe 4 e.refineLen ++ natLe 4 e.epoch ++ List.replicate 32 0
/-- An empty list's entry: all fields zero. -/
def DirEnt.isEmpty (e : DirEnt) : Bool := e == {}

/-- A reader's result that carries a value. -/
inductive GotV (α : Type) where
  | ok (v : α)
  | wait
  | bad (st : Status)
deriving DecidableEq, Repr

/-- Go on with a value once it is there; `bad` says what its failure does. -/
def GotV.after {α : Type} (x : Dev × GotV α) (bad : Dev → Status → Dev) (k : Dev → α → Dev) : Dev :=
  match x with
  | (d, .ok v) => k d v
  | (d, .wait) => d
  | (d, .bad st) => bad d st

/-- The same where what follows is itself a read. -/
def GotV.andThen {α β : Type} (x : Dev × GotV α) (k : Dev → α → Dev × GotV β) : Dev × GotV β :=
  match x with
  | (d, .ok v) => k d v
  | (d, .wait) => (d, .wait)
  | (d, .bad st) => (d, .bad st)

/-- Read `n` bytes at a global address whole, unpoisoned. -/
def Dev.need (d : Dev) (i g n : Nat) (vc : Nat := 4) : Dev × GotV (List Byte) :=
  match d.cmdRead i g n vc with
  | (d, .ready b none) => (d, .ok b)
  | (d, .ready _ (some st)) => (d, .bad st)
  | (d, .wait) => (d, .wait)
  | (d, .fail st) => (d, .bad st)

/-- Directory entry of list l through the root at a global address (R113). -/
def Dev.dirEntry (d : Dev) (i root l : Nat) (vc : Nat := 4) : Dev × GotV (List Byte) :=
  match d.need i (root + 64 + 8 * (l / 4096)) 8 vc with
  | (d, .ok b) =>
    let page := leNat b
    if page = 0 then (d, .ok (List.replicate 64 0)) else d.need i (page + 64 * (l % 4096)) 64 vc
  | (d, .wait) => (d, .wait)
  | (d, .bad st) => (d, .bad st)

/-- Directory entry of list l through the root at a local address, as its current copy holds it. -/
def Dev.peekEntry (d : Dev) (root l : Nat) : DirEnt :=
  let page := leNat (d.peekImg (root + 64 + 8 * (l / 4096)) 8)
  if page = 0 then {} else dirEntOf (d.peekImg (page + 64 * (l % 4096)) 64)

/-- The whole image of a bound slot. -/
def Dev.boundImage (d : Dev) (i : Nat) (b : Nat × Nat) : Dev × GotV (List Byte) :=
  let s := (d.tdesc b.1).slot b.2
  d.need i s.base s.len

end Sys2Proof.Machine
end

