-- ==== Sys2Proof/Machine/TableCmds.lean ====
section
/-! DEFINITION. TABLE_PUBLISH and TABLE_RETIRE (R87 to R93, R185, R402). -/

namespace Sys2Proof.Machine
open Sys2Proof

/-- Bits of the entry that every command keeps reserved (R20, R70). -/
def Ctx.cflagsOk (x : Ctx) : Bool := decide (x.n 1 1 < 2)

/-- Read and check an image (step 5 of R88): none when it stands, else the status it ends with; a read may have to wait. -/
inductive ImgGot where
  | good
  | wait
  | bad (st : Status)
deriving DecidableEq, Repr

/-- The image of collection h's current version. -/
def Dev.collNow (d : Dev) (h : Nat) : Option (List Byte) :=
  match (d.tdesc h).current with
  | some (_, s) => if (d.tdesc h).kind = 0 then some (d.peekImg s.base 256) else none
  | none => none

/-- The entry points of a table with a graph are LIVE or GHOST centroids. -/
def Dev.entriesOk (d : Dev) (g : Nat) (hb : List Byte) : Bool :=
  !(leAt hb 19 1).testBit 0 || (List.range (leAt hb 21 1)).all (fun i =>
    decide (leAt hb (36 + 4 * i) 4 < leAt hb 4 4) &&
      decide (leAt (d.peekImg (g + leAt hb 28 4 + leAt hb (36 + 4 * i) 4) 1) 0 1 ≤ 1))

/-- Check the rest of an image whose common header stands. -/
def Dev.imgBodyOk (d : Dev) (h kind : Nat) (g len : Nat) (hb body : List Byte) : Bool :=
  if kind = 0 then len == 256 && collFieldsOk body && d.collTablesOk body && collChangeOk (d.collNow h) body
  else if kind = 1 then centHdrOk hb len && d.entriesOk g hb
  else if kind = 2 then codeHdrOk hb len
  else if kind = 3 then dirHdrOk hb len
  else if kind = 5 then d.modelHdrOk hb len && (List.range (mStages hb)).all (fun s => d.stageOk body s)
  else d.rowHdrOk kind hb len

/-- How many bytes of an image its check reads, in one read from its start (DESIGN CHOICE, log entry 62): of a centroid table that is up to the
end of its states, so that poison among its vectors is found before a header that fails. -/
def imgReads (kind len : Nat) (hb : List Byte) : Nat :=
  match kind with
  | 0 => 256
  | 1 => leAt hb 28 4 + leAt hb 4 4
  | 5 => len
  | _ => 64

/-- Step 5 of R88. -/
def Dev.imgCheck (d : Dev) (c h kind g len : Nat) : Dev × ImgGot :=
  let no := ImgGot.bad (if kind = 0 then .badCollection else .badTable)
  if !d.imgPlaceOk g len then (d, no)
  else match d.cmdRead c g 64 with
    | (d, .wait) => (d, .wait)
    | (d, .fail st) => (d, .bad st)
    | (d, .ready _ (some st)) => (d, .bad st)
    | (d, .ready hb none) =>
      if !hdrOk hb kind len then (d, no)
      else match d.cmdRead c g (min len (imgReads kind len hb)) with
        | (d, .wait) => (d, .wait)
        | (d, .fail st) => (d, .bad st)
        | (d, .ready _ (some st)) => (d, .bad st)
        | (d, .ready body none) => (d, if d.imgBodyOk h kind g len hb body then .good else no)

/-- The state record of a collection first published ACTIVE or READ_ONLY (R185). A record of zeros has OPEN_EPOCH equal to READ_FLOOR,
which no initialised record has. -/
def Dev.firstPublish (d : Dev) (c : Nat) (img : List Byte) : Dev :=
  if cState img != 0 && d.openEpoch c == d.readFloor c then
    let i := cInit img
    d.store (d.updBase + 64 * c) (natLe 4 ((i + 1) % 2 ^ 32) ++ natLe 4 i ++ natLe 4 i ++ natLe 4 i ++ natLe 2 0 ++ natLe 2 0 ++ natLe 4 0 ++
      natLe 4 0 ++ natLe 4 0 ++ natLe 8 d.us ++ List.replicate 24 0)
  else d

/-- Ends of TABLE_PUBLISH, counted (R121); the table unit is free again (R90). -/
def Dev.pubEnd (d : Dev) (c : Nat) (st : Status) (spec0 spec1 : Nat) : Dev :=
  let d : Dev := { d with tbl := { d.tbl with busy := none } }
  let d1 := d.finish c { status := st, spec0 := spec0, spec1 := spec1 }
  match st with
  | .ok => d1.bump pgCtx 1 0
  | .versionConflict => d1.bump pgCtx 1 1
  | .badTable => d1.bump pgCtx 1 2
  | .badCollection => d1.bump pgCtx 1 2
  | _ => d1

/-- Fields of a TABLE_PUBLISH and of a TABLE_RETIRE command (R87, R92). -/
def pubFieldsOk (x : Ctx) : Bool :=
  x.cflagsOk && decide (x.n 34 1 ≤ 6) && ((x.n 34 1 == 0) == decide (x.n 32 2 < 4096)) && x.n 35 1 == 0 && x.zeroFrom 40
def retireFieldsOk (x : Ctx) : Bool := x.cflagsOk && x.n 34 2 == 0 && x.zeroFrom 40

/-- The table unit holds the publish of context c while it reads the image: every other request waits (R90). -/
def Dev.pubWait (d : Dev) (c : Nat) (x : Ctx) : Dev :=
  ({ d with tbl := { d.tbl with busy := some (c, x.cinc) } } : Dev).updCtx c (fun x => { x with started := false })

/-- The request of context c reaches the table unit: none, or its own, holds the unit (R90). -/
def Dev.tblMine (d : Dev) (c : Nat) : Bool := !d.tblBusy || d.tbl.busy.map Prod.fst == some c

/-- TABLE_PUBLISH (R87 to R91). -/
def tablePublishOp (c : Nat) (d : Dev) : Dev :=
  if !d.canStart c 0x10 || !d.tblMine c then d else
  match d.ctx? c with
  | none => d
  | some x =>
    let h := x.n 32 2
    let kind := x.n 34 1
    let g := x.desc
    let len := x.descLen
    let wd := g == 0 && len == 0
    let d := d.start c
    if !pubFieldsOk x then d.pubEnd c .invalidCmd 0 0
    else if d.tdescBad h then (d.touch (d.tdescAt h) 128).pubEnd c .poisoned 0 0
    else
      let t := d.tdesc h
      if (t.st != 0 && t.kind != kind) || (wd && t.st != 1) then d.pubEnd c .badTable 0 0
      else if x.n 36 4 != (if t.st = 0 then 0 else t.ver) then d.pubEnd c .versionConflict t.ver 0
      else if wd then (d.putTdesc h t.withdraw).pubEnd c .ok t.nextVer 0xFFFFFFFF
      else match t.freeSlot with
        | none => d.pubEnd c .versionConflict t.ver 1
        | some s =>
          match d.imgCheck c h kind g len with
          | (d, .wait) => d.pubWait c x
          | (d, .bad st) => d.pubEnd c st 0 0
          | (d, .good) =>
            let d1 := d.putTdesc h (t.publish kind s g len)
            let d2 := if kind = 0 then d1.firstPublish h (d1.peekImg g 256) else d1
            d2.pubEnd c .ok t.nextVer s

def execTablePublish (ctx : Nat) (s : State) : Host.Outcome State Fault Refusal :=
  onUnit (fun _ => decide (ctx < 4096)) (tablePublishOp ctx) s

/-- Lines and fills of a retired version leave both row caches (R402). -/
def Dev.cacheDrop (d : Dev) (h ver : Nat) : Dev :=
  let one := fun (i : SbInst) =>
    { i with lines := i.lines.filter (fun e => !(e.2.handle == h && e.2.version == ver)),
             fills := i.fills.map (fun f => if f.2.line.handle == h && f.2.line.version == ver then (f.1, { f.2 with doomed := true }) else f) }
  let d := d.sb.inst.foldl (fun (d : Dev) e => d.bump (0xA + e.1) 0 10 ((e.2.lines.filter (fun l => l.2.handle == h && l.2.version == ver)).length)) d
  { d with sb := { d.sb with inst := d.sb.inst.map (fun e => (e.1, one e.2)) } }

/-- Make a slot RETIRING (R84, R93, R402). -/
def Dev.setRetiring (d : Dev) (h s : Nat) : Dev :=
  let t := d.tdesc h
  let d1 := d.putTdesc h (t.setSlot s { t.slot s with st := 3 })
  if t.kind = 4 || t.kind = 6 then d1.cacheDrop h (t.slot s).ver else d1

/-- TABLE_RETIRE (R92, R93). A refusal leaves SPEC0 at 0, of which R92 says nothing (DESIGN CHOICE, log entry 62). -/
def tableRetireOp (c : Nat) (d : Dev) : Dev :=
  if !d.canStart c 0x11 || d.tblBusy then d else
  match d.ctx? c with
  | none => d
  | some x =>
    let h := x.n 32 2
    let ver := x.n 36 4
    let d := d.start c
    if !retireFieldsOk x then d.finishSt c .invalidCmd
    else if d.tdescBad h then (d.touch (d.tdescAt h) 128).finishSt c .poisoned
    else
      let t := d.tdesc h
      let conflict := fun k => d.finish c { status := .versionConflict, spec1 := k }
      if t.st = 0 || decide (6 < t.kind) then d.finishSt c .badTable
      else match firstBelow 4 (fun s => (t.slot s).st != 0 && (t.slot s).ver == ver) with
        | none => conflict 3
        | some s =>
          if (t.slot s).st = 1 then conflict 2
          else if (t.slot s).st = 3 then conflict 4
          else
            let d1 := d.setRetiring h s
            ({ d1 with tbl := { d1.tbl with retires := Tab.set d1.tbl.retires c (h, s) } } : Dev).slotFree h s

def execTableRetire (ctx : Nat) (s : State) : Host.Outcome State Fault Refusal :=
  onUnit (fun _ => decide (ctx < 4096)) (tableRetireOp ctx) s

/-- A TABLE_RETIRE that ends before its slot is FREE: the slot returns to SUPERSEDED (R93). -/
def Dev.retireCancel (d : Dev) (c : Nat) : Dev :=
  match Tab.find? d.tbl.retires c with
  | none => d
  | some (h, s) =>
    let t := d.tdesc h
    let d1 := d.putTdesc h (t.setSlot s { t.slot s with st := 2 })
    { d1 with tbl := { d1.tbl with retires := Tab.del d1.tbl.retires c } }

end Sys2Proof.Machine
end

