-- ==== Sys2Proof/Machine/Updates.lean ====
section
/-! DEFINITION. Updates: services, applying a record, voiding, pressure, batches, seals and rebuilds (R195 to R218, R512, R513). -/

namespace Sys2Proof.Machine
open Sys2Proof

/-- Send a service payload (R431). -/
def Dev.sendSvc (d : Dev) (use : TagUse) (svc dst gen : Nat) (contents : List Nat) (who : Charge := {}) : Dev × Bool :=
  let b := Config.payload svc contents
  d.sendReq use { msg := 3, dst := dst, src := d.node, mapGen := gen, len := b.length, aux := svc, data := b, vc := 4 } who

/-- Result of a write by a command. -/
inductive Put where
  | done
  | wait
  | fail (st : Status)
deriving DecidableEq, Repr

/-- Write for a command: first what must be recalled is, then the bytes go. -/
def Dev.put (d : Dev) (c g : Nat) (b : List Byte) (poison : Bool := false) : Dev × Put :=
  if d.writeBusy g b.length then (d.recall (localPart g) b.length true, .wait)
  else match d.cmdWrite c g b poison with
    | (d, none) => (d, .done)
    | (d, some st) => (d, .fail st)

/-! Applying a record (R203, R204, R207). -/

/-- A record as it is applied. -/
structure URec where
  upsert : Bool
  id : Nat
  /-- List to insert into (all ones: the device chooses), or list of a delete. -/
  list : Nat
  prev : Nat := 0xFFFFFFFF
  vec : List Word := []
deriving DecidableEq, Repr

/-- Check 1 of R203 on a record. -/
def recValid (img : List Byte) (r : URec) : Bool :=
  let okList := fun l => decide (l < cLists img) || l == 0xFFFFFFFF
  r.id != noId && okList r.list && okList r.prev && (r.upsert || r.list != 0xFFFFFFFF) &&
  (!r.upsert || (allFinite r.vec && !(cMetric img = 2 && allZero r.vec)))

/-- DELTA_PRESSURE of a list (R217), and the rebuild it starts (R214) is left to `auto`. -/
def Dev.raisePressure (d : Dev) (c l : Nat) : Dev × Bool :=
  if d.upd.pressure.contains (listKey c l) then (d, false)
  else
    let d := { d with upd := { d.upd with pressure := insNat d.upd.pressure (listKey c l) } }
    ((d.setCs c 24 4 (d.cs c 24 4 + 1)).updEvent c 1 l, true)

/-- Step 0 and 1 of a rebuild (R215). -/
def Dev.startRebuild (d : Dev) (c : Nat) (img : List Byte) (l fn : Nat) (cmds : List Nat) (promote : Bool) : Dev :=
  let last := d.lastSealed c
  let floor := eMin (d.oldestPin c) ((last + 2 ^ 32 - cHistory img) % 2 ^ 32)
  let d := d.updHead img l (fun h => { h with rebuilding := true })
  let d := if eLt (d.readFloor c) floor then d.setCs c 8 4 floor else d
  let p := promote || (cPromote img && d.upd.pressure.contains (listKey c l))
  let r : Rebuild := { coll := c, list := l, fn := fn, img := img, cmds := cmds, promoted := p, floor := floor, cut := last, auto := cmds.isEmpty }
  ({ d with upd := { d.upd with rebuilds := Tab.set d.upd.rebuilds (listKey c l) r } } : Dev).fixRebuilds c

/-- A list raises DELTA_PRESSURE or EPOCH_AGED: the device's own rebuild starts when AUTO_REBUILD is set and none runs (R214). -/
def Dev.autoRebuild (d : Dev) (c : Nat) (img : List Byte) (l : Nat) : Dev :=
  if cAuto img && cState img == 1 && !Tab.has d.upd.rebuilds (listKey c l) then d.startRebuild c img l (cRebuildFn img) [] false else d

/-- Raise DELTA_PRESSURE, with what follows. -/
def Dev.pressureOn (d : Dev) (c : Nat) (img : List Byte) (l : Nat) : Dev :=
  match d.raisePressure c l with
  | (d, true) =>
    let d := { d with upd := { d.upd with rebuilds := d.upd.rebuilds.map (fun (e : Nat × Rebuild) =>
      if e.1 == listKey c l && cPromote img && e.2.published.isNone then (e.1, { e.2 with promoted := true }) else e) } }
    (d.fixRebuilds c).autoRebuild c img l
  | (d, false) => d

/-- SEALED_EPOCH of list l in the current directory; none for an empty list, and where no directory is LIVE. -/
def Dev.sealedEpoch (d : Dev) (img : List Byte) (l : Nat) : Option Nat :=
  match (d.tdesc (cDirTbl img)).current with
  | some (_, s) => let e := d.peekEntry s.base l
                   if e.isEmpty then none else some e.epoch
  | none => none

/-- An epoch after a list's SEALED_EPOCH: its record is live (R217). -/
def afterSealed (e : Option Nat) (t : Nat) : Bool := match e with
  | some e => eLt e t
  | none => true

/-- Live inserts and live tombstones of a list (R217): the records after SEALED_EPOCH. -/
def Dev.liveRecs (d : Dev) (img : List Byte) (l : Nat) : Nat × Nat :=
  let e := d.sealedEpoch img l
  let h := d.head img l
  (((d.insRecs img h).filter (fun r => afterSealed e r.ie)).length, ((d.tombRecs h).filter (fun t => afterSealed e t.2)).length)

/-- After an append: the live delta above DELTA_CEIL raises DELTA_PRESSURE (R217). -/
def Dev.ceilCheck (d : Dev) (c : Nat) (img : List Byte) (l : Nat) : Dev :=
  let n := d.liveRecs img l
  if cDeltaCeil img < n.1 + n.2 then d.pressureOn c img l else d

/-- Void earlier records of an item id in the open epoch (R207): inserts lose their id, results become SUPERSEDED. -/
def Dev.voidId (d : Dev) (c : Nat) (img : List Byte) (id e : Nat) : Dev :=
  let recs := ((List.range (cLists img)).map (fun l =>
    let h := d.head img l
    if h.ins != 0 && h.last == e then (d.insRecs img h).filter (fun r => r.id == id && r.ie == e) else [])).flatten
  let d := recs.foldl (fun d r => d.storeN r.addr 8 noId) d
  let hit := fun (r : BatchRec) => r.id == id && r.epoch == e && r.status == .ok && !r.foreign && !r.waiting
  let n := ((Tab.vals d.upd.batches).map (fun b => if b.coll = c && b.epoch == some e then (b.recs.filter hit).length else 0)).foldl (· + ·) 0
  let bs := d.upd.batches.map (fun (k, b) =>
    (k, if b.coll = c && b.epoch == some e then
          { b with recs := b.recs.map (fun r => if hit r then { r with status := .superseded, epoch := 0 } else r) } else b))
  let hitF := fun (f : FwdRec) => f.coll == c && f.id == id && f.epoch == e && f.status == .ok
  let m := (d.upd.fwd.filter hitF).length
  let fs := d.upd.fwd.map (fun f => if hitF f then { f with status := .superseded } else f)
  ({ d with upd := { d.upd with batches := bs, fwd := fs } } : Dev).bump pgCtx 3 2 (n + m)

/-- Scan code, sign code and full vector of an insert (R104). -/
def encodeRec (seed : List Nat) (img ct book : List Byte) (l : Nat) (vec : List Word) : List Byte × List Byte × List Byte :=
  let x := if cMetric img = 2 then normalise (seed ++ [0]) vec else vec
  let xr := if cResidual img then List.zipWith fSub x (ctVec ct l) else x
  let code := if cFormat img = 4 || cFormat img = 5 then encPq (seed ++ [1]) book xr else encCode seed (cFormat img) book x
  (code, if cPrescan img then encSign xr else [], if cRefine img = 0xFF then [] else encCode seed (cRefine img) [] x)

/-- Send a record applied here to the joiners that follow the collection (R511 step 4, R513). -/
def Dev.toJoiners (d : Dev) (c : Nat) (r : URec) (e : Nat) : Dev :=
  (d.cmp.joins.filter (fun j => j.coll == c && j.active)).foldl (fun d j =>
    (d.sendSvc .service 3 j.node d.curGen ([c, b2n r.upsert, r.id, r.list, r.prev, 1, e] ++ r.vec.map (fun w => w.toNat))).1.bump pgBuckle 2 14) d

/-- Apply one record that this node owns in epoch e (checks 4 to 6 of R203, R204): its status, OK when it was applied. -/
def Dev.applyRec (d : Dev) (c : Nat) (img ct book : List Byte) (fn e : Nat) (r : URec) : Dev × Status :=
  let seed := [d.draws, 1]
  let x := if cMetric img = 2 then normalise (seed ++ [0]) r.vec else r.vec
  let asked := r.upsert && r.list == 0xFFFFFFFF
  let p := coarseSelect (seed ++ [2]) img ct x 1 0
  let choice : Option Nat := if asked then p.sel.head?.map Prod.snd else some r.list
  let d := if asked then d.probeCount p else d
  let tl := if r.upsert then r.prev else r.list
  let has := tl != 0xFFFFFFFF && (d.tombRecs (d.head img tl)).any (fun t => t.1 == r.id && t.2 == e)
  let wantTomb := tl != 0xFFFFFFFF && !has
  let room1 := if wantTomb then (d.roomIn img fn tl true).map Prod.fst else some d
  let room2 := room1.bind (fun d1 => if r.upsert then (match choice with
    | some l => (d1.roomIn img fn l false).map Prod.fst
    | none => some d1) else some d1)
  match room2 with
  | none => (d.bump pgCtx 3 3, .quota)
  | some _ =>
    if wantTomb && decide (cTombHard img < (d.liveRecs img tl).2 + 1) then ((d.pressureOn c img tl).bump pgCtx 3 3, .quota)
    else match choice with
      | none => (d, .badTable)
      | some l =>
        let d := d.voidId c img r.id e
        let d := if wantTomb then d.appendTomb img fn tl r.id e else d
        let d := if r.upsert then
            let (code, sign, full) := encodeRec (seed ++ [3]) img ct book l r.vec
            d.appendIns img fn l r.id e code sign full
          else d
        let d := d.setCsFlag c 0 true
        let d := if wantTomb then d.ceilCheck c img tl else d
        let d := if r.upsert then d.ceilCheck c img l else d
        let d := d.bump pgCtx 3 (if r.upsert then 0 else 1)
        ((d.toJoiners c { r with list := l } e).drawn, .ok)

/-- Tables an update binds (R204). -/
def updWants (img : List Byte) (upsert anyChoice : Bool) : List Want :=
  if !upsert then []
  else (if anyChoice || cResidual img then [{ h := cCentTbl img, kind := 1, chk := 1 }] else []) ++
    (if cFormat img = 4 || cFormat img = 5 then [{ h := cCodeTbl img, kind := 2, chk := 2 }] else [])

/-- Images of the centroid table and codebook among bound slots; empty where none is bound. -/
def Dev.updImages (d : Dev) (i : Nat) (img : List Byte) (bs : List (Nat × Nat)) : Dev × GotV (List Byte × List Byte) :=
  let get := fun (d : Dev) (h : Nat) => match (if h = 0 then none else bindOf bs h) with
    | some b => d.boundImage i b
    | none => (d, GotV.ok [])
  match get d (cCentTbl img) with
  | (d, .ok ct) => (match get d (cCodeTbl img) with
    | (d, .ok bk) => (d, .ok (ct, bk))
    | (d, .wait) => (d, .wait)
    | (d, .bad st) => (d, .bad st))
  | (d, .wait) => (d, .wait)
  | (d, .bad st) => (d, .bad st)

/-! Batches (R202, R206). -/

/-- Result array of a batch (R202). -/
def batchBytes (b : Batch) : List Byte :=
  (b.recs.map (fun r => natLe 1 r.status.code ++ natLe 3 0 ++ natLe 4 r.epoch)).flatten

/-- A batch may complete: no record waits, and its epoch has sealed here. -/
def Dev.batchReady (d : Dev) (b : Batch) : Bool :=
  b.recs.all (fun r => !r.waiting) && (match b.epoch with
    | some e => eLe e (d.lastSealed b.coll)
    | none => true)

/-- Complete a batch that is ready (R206): result array first, then its record. It waits while a line must be recalled. -/
def Dev.batchTry (d : Dev) (c : Nat) : Dev :=
  match Tab.find? d.upd.batches c with
  | none => d
  | some b =>
    if !d.batchReady b then d else
    match d.ctx? c with
    | none => d
    | some x =>
      match d.put c b.out (batchBytes b) with
      | (d, .wait) => d
      | (d, r) =>
        let d := { d with upd := { d.upd with batches := Tab.del d.upd.batches c } }
        match r with
        | .fail st => d.finishSt c st
        | _ =>
          let ok := b.recs.filter (fun r => r.status == .ok)
          let sup := (b.recs.filter (fun r => r.status == .superseded)).length
          let oth := b.recs.length - ok.length - sup
          let newest := ok.foldl (fun m r => if m = 0 then r.epoch else serialMax 32 m r.epoch) 0
          let _ := x
          d.finishOk c ok.length (sup + oth * 2 ^ 32) newest

/-! Seals (R195 to R199). -/

/-- The node that leads the collection's seals (R199, R495): this one when it is not sharded. -/
def Dev.leaderOf (d : Dev) (img : List Byte) : Option Nat :=
  if cSharded img then d.shardNode img d.curGen (cLeader img) else some d.node
/-- This node's seals of the collection follow another node. -/
def Dev.follows (d : Dev) (img : List Byte) : Bool := cFollow img && d.leaderOf img != some d.node

/-- The other nodes that hold a shard of the collection. -/
def Dev.otherShards (d : Dev) (img : List Byte) : List Nat :=
  match d.mapBase d.curGen with
  | some b => if cSharded img then
      (((List.range (d.mapShards b (cGroup img))).map (fun i => d.mapShardNode b (cGroup img) i)).filter (fun n => n != d.node)).eraseDups else []
  | none => []

/-- The current image of collection c, if LIVE. -/
def Dev.collImage (d : Dev) (c : Nat) : Option (List Byte) :=
  match (d.tdesc c).current with
  | some (_, s) => if (d.tdesc c).kind = 0 then some (d.peekImg s.base 256) else none
  | none => none

/-- A join goes on: some live generation makes this node an owner of the collection and does not admit the joiner (R513). -/
def Dev.joinOn (d : Dev) (j : JoinFwd) : Bool :=
  let gs := d.cmp.cur.toList ++ d.cmp.old.toList
  gs.any (fun g => d.peekN (g.base + 64 + 8 * j.node) 4 % 4 != 2 &&
    match d.collImage j.coll with
    | some img => !cSharded img || (List.range (d.mapShards g.base (cGroup img))).any (fun i => d.mapShardNode g.base (cGroup img) i == d.node)
    | none => false)

/-- Joins that no live generation keeps end (R513). -/
def Dev.joinsSettle (d : Dev) : Dev := { d with cmp := { d.cmp with joins := d.cmp.joins.filter (fun j => d.joinOn j) } }

/-- Contents of a SEAL_MSG payload: 0 a seal of an epoch, 1 a forwarded EPOCH_SEAL, 2 a refusal. -/
def Dev.sendSeal (d : Dev) (dst c kind e : Nat) (use : TagUse := .service) : Dev := (d.sendSvc use 5 dst d.curGen [c, kind, e]).1

/-- A seal falls due (R195); the seal leader of a sharded collection tells the other shards (R199, log entry 15). -/
def Dev.sealDue (d : Dev) (c : Nat) (img : List Byte) (f : Seal → Seal) : Dev :=
  let was := Tab.has d.upd.seals c
  let d := { d with upd := { d.upd with seals := Tab.upd d.upd.seals c {} f } }
  if was || !(cSharded img && d.leaderOf img == some d.node) then d
  else (d.otherShards img).foldl (fun d n => d.sendSeal n c 0 (d.openEpoch c)) d

/-- Record replies that wait for a seal of epoch e of collection c (R206, R209). -/
def Dev.fwdReplies (d : Dev) (c : Nat) : Dev :=
  let due := d.upd.fwd.filter (fun f => f.coll == c && eLe f.epoch (d.lastSealed c))
  let d := { d with upd := { d.upd with fwd := d.upd.fwd.filter (fun f => !(f.coll == c && eLe f.epoch (d.lastSealed c))) } }
  due.foldl (fun d f => (d.sendSvc .service 4 f.node d.curGen [f.ref, f.status.code, if f.status == .ok then f.epoch else 0]).1) d

/-- Partner side of a join at a seal of epoch e (R511 step 4): new joiners follow from here, and all hear of the seal. -/
def Dev.joinSeal (d : Dev) (c e : Nat) : Dev :=
  let d := { d with cmp := { d.cmp with joins := d.cmp.joins.map (fun (j : JoinFwd) => if j.coll == c && !j.active then { j with active := true, e0 := e } else j) } }
  (d.cmp.joins.filter (fun j => j.coll == c)).foldl (fun d j => d.sendSeal j.node c 0 e) d

/-- A seal of the collection has ended: its held batches resume (R196, R220). -/
def Dev.unheld (d : Dev) (c : Nat) : Dev :=
  { d with upd := { d.upd with heldBatches := d.upd.heldBatches.filter (fun k => (d.ctx? k).map Ctx.coll != some c) } }

/-- EPOCH_SEAL commands of this follower end with the refusal of the seal they asked for (R197, R199, log entry 15). -/
def Dev.refuseFwd (d : Dev) (c : Nat) : Dev :=
  let fw := (d.upd.forwarded.filter (fun x => x.2.1 == c)).map Prod.fst
  let d := { d with upd := { d.upd with forwarded := d.upd.forwarded.filter (fun x => x.2.1 != c) } }
  d.finishAll fw { status := .snapshotPinLimit, spec0 := d.oldestPin c, spec1 := d.oldestStored c }

/-- EPOCH_SEAL commands of this follower whose seal has reached step 5 here complete: those that `due` names (R199). -/
def Dev.sealedFwd (d : Dev) (c e : Nat) (due : Nat → Bool) : Dev :=
  let fw := (d.upd.forwarded.filter (fun x => x.2.1 == c && due x.2.2)).map Prod.fst
  let d := { d with upd := { d.upd with forwarded := d.upd.forwarded.filter (fun x => !fw.contains x.1) } }
  fw.foldl (fun d k => d.finishOk k 0 e 0) d

/-- Steps 2 to 5 of a seal that passes (R196). -/
def Dev.sealNow (d : Dev) (c : Nat) : Dev :=
  let e := d.openEpoch c
  let d := (d.setCs c 0 4 ((e + 1) % 2 ^ 32)).setCsFlag c 0 false
  let d := ((d.setCsFlag c 1 false).setCs c 32 8 d.us).fixPins c
  let d := d.bump pgCtx 3 6
  let s := Tab.getD d.upd.seals c {}
  let more := match s.upto with
    | some u => eLe ((e + 1) % 2 ^ 32) u
    | none => false
  let d := { d with upd := { d.upd with seals := if more then Tab.set d.upd.seals c { upto := s.upto } else Tab.del d.upd.seals c } }
  let d := s.cmds.foldl (fun d k => d.finishOk k 0 e 0) d
  let d := d.sealedFwd c e (fun t => eLe t e)
  let d := if more then d else d.unheld c
  let d := (d.upd.batches.filter (fun b => b.2.coll == c)).foldl (fun d b => d.batchTry b.1) d
  (d.fwdReplies c).joinSeal c e

/-- A refused seal (R197). A timer's rearms the timer. A follower tells its leader, and the leader the nodes that may have asked it for the
seal (R199, log entry 15). -/
def Dev.sealRefuse (d : Dev) (c : Nat) (img : List Byte) : Dev :=
  let s := Tab.getD d.upd.seals c {}
  let d := { d with upd := { d.upd with seals := Tab.del d.upd.seals c,
                                        refusedAt := if s.timer then Tab.set d.upd.refusedAt c d.us else d.upd.refusedAt } }
  let d := d.unheld c
  let d := ((d.setCsFlag c 1 true).updEvent c 2 0xFFFFFFFF).bump pgCtx 3 7
  let r : Compl := { status := .snapshotPinLimit, spec0 := d.oldestPin c, spec1 := d.oldestStored c }
  let d := d.finishAll s.cmds r
  let d := if d.follows img then
      (match d.leaderOf img with
       | some l => d.sendSeal l c 2 (d.openEpoch c)
       | none => d)
    else if cSharded img && d.leaderOf img == some d.node then (d.otherShards img).foldl (fun d n => d.sendSeal n c 2 (d.openEpoch c)) d
    else d
  d.refuseFwd c

/-- A seal of open epoch e keeps the limits of R197. -/
def Dev.sealPasses (d : Dev) (c : Nat) : Bool :=
  let e1 := (d.openEpoch c + 1) % 2 ^ 32
  decide (eAge (d.oldestPin c) e1 ≤ 2 ^ 30) && decide (eAge (d.oldestStored c) e1 ≤ 2 ^ 30)

/-! Rebuilds (R215, R302). -/

/-- A version a rebuild handles. -/
structure Ver where
  id : Nat
  ie : Nat
  code : List Byte
  sign : List Byte
  full : List Byte
deriving DecidableEq, Repr

/-- Put bytes at an offset of a growing string, padding with zeros. -/
def padTo (l : List Byte) (n : Nat) : List Byte := l ++ List.replicate (n - l.length) 0
/-- Round up to 64. -/
def up64 (n : Nat) : Nat := (n + 63) / 64 * 64

/-- Codes of a segment in storage order (R103). -/
def packCodes (img : List Byte) (vs : List Ver) : List Byte :=
  if cFormat img = 5 then
    let m := cPqm img
    let q := fun v j => leAt ((vs.getD v { id := noId, ie := 0, code := [], sign := [], full := [] }).code) j 1 % 16
    ((List.range (vs.length / 32)).map (fun b => (List.range (16 * m)).map (fun k =>
      BitVec.ofNat 8 (q (32 * b + k % 16) (k / 16) + 16 * q (32 * b + 16 + k % 16) (k / 16))))).flatten
  else (vs.map (fun v => slice v.code 0 (codeBytes (cFormat img) (cDim img) (cPqm img)))).flatten

/-- A scan object (R116). -/
def scanObject (img : List Byte) (list : Nat) (vs0 : List Ver) (tombs : List (Nat × Nat)) (sign : Bool) : List Byte :=
  let pad : Ver := { id := noId, ie := 0, code := [], sign := [], full := [] }
  let vs := if cFormat img = 5 then vs0 ++ List.replicate ((32 - vs0.length % 32) % 32) pad else vs0
  let n := vs.length
  let oIe := up64 (64 + 8 * n)
  let oCo := up64 (oIe + 4 * n)
  let codes := packCodes img vs
  let oSi := up64 (oCo + codes.length)
  let signs := if sign then (vs.map (fun v => slice v.sign 0 (cDim img / 8))).flatten else []
  let oTo := up64 (oSi + signs.length)
  let total := oTo + 16 * tombs.length
  let es := vs0.map (fun v => v.ie)
  let mn := match es with
    | [] => 0
    | e :: t => t.foldl eMin e
  let mx := match es with
    | [] => 0
    | e :: t => t.foldl (serialMax 32) e
  let head := natLe 4 list ++ natLe 4 n ++ natLe 4 tombs.length ++ natLe 1 (cFormat img) ++ natLe 1 (b2n sign) ++
    natLe 2 (codeBytes (cFormat img) (cDim img) (cPqm img)) ++ natLe 4 mn ++ natLe 4 mx ++ natLe 4 oIe ++ natLe 4 oCo ++
    natLe 4 (if sign then oSi else 0) ++ natLe 4 (if tombs.isEmpty then 0 else oTo) ++ natLe 4 total ++ natLe 20 0
  let b := head ++ (vs.map (fun v => natLe 8 v.id)).flatten
  let b := padTo b oIe ++ (vs.map (fun v => natLe 4 v.ie)).flatten
  let b := padTo b oCo ++ codes
  let b := padTo b oSi ++ signs
  padTo b oTo ++ (tombs.map (fun t => natLe 8 t.1 ++ natLe 4 t.2 ++ natLe 4 0)).flatten

/-- A refine object (R117). -/
def refineObject (img : List Byte) (list : Nat) (vs0 : List Ver) : List Byte :=
  let vb := vecBytes (cRefine img) (cDim img) 0
  let n := if cFormat img = 5 then (vs0.length + 31) / 32 * 32 else vs0.length
  natLe 4 list ++ natLe 4 n ++ natLe 1 (cRefine img) ++ natLe 3 0 ++ natLe 4 vb ++ natLe 48 0 ++
  padTo ((vs0.map (fun v => slice v.full 0 vb)).flatten) (n * vb)

/-- Steps 2 and 3: the versions and tombstones of the new segment, the cut, and whether sign codes are kept (R215, R216). -/
def Dev.rebuildRead (d : Dev) (r : Rebuild) (e : DirEnt) (seg ref : List Byte) : List Ver × List (Nat × Nat) × Nat × Bool :=
  let img := r.img
  let h := d.head img r.list
  let n := if e.seg = 0 then 0 else sgItems seg
  let vb := leAt ref 12 4
  let old := ((List.range n).filter (fun i => sgId seg i != noId)).map (fun i =>
    ({ id := sgId seg i, ie := sgIe seg i, code := sgCode img seg i, sign := if sgHasSign seg then sgSign img seg i else [],
       full := slice ref (64 + i * vb) (insVec img) } : Ver))
  let log := (d.tombRecs h).filter (fun t => eLt e.epoch t.2 && eLe t.2 r.cut)
  let carried := if e.seg = 0 then [] else sgTombs seg
  let tombs0 := carried ++ log
  let dead := (tombs0.filter (fun t => eLt r.floor t.2)).map Prod.fst
  let ins := (d.insRecs img h).filter (fun x => x.id != noId && eLt e.epoch x.ie && eLe x.ie r.cut)
  let cut := match ins.find? (fun x => dead.contains x.id) with
    | some x => (x.ie + 2 ^ 32 - 1) % 2 ^ 32
    | none => r.cut
  let live := (ins.filter (fun x => eLe x.ie cut)).map (fun x =>
    ({ id := x.id, ie := x.ie, code := d.insCodeOf img x, sign := d.insSignOf img x, full := d.insVecOf img x } : Ver))
  let tombs := tombs0.filter (fun t => eLe t.2 cut)
  let gone := fun (v : Ver) => tombs.any (fun t => t.1 == v.id && eLt v.ie t.2 && eLe t.2 r.floor)
  let kept := ((old ++ live).filter (fun v => !gone v)).map (fun v => if eLe v.ie r.floor then { v with ie := r.floor } else v)
  let carry := ((tombs.filter (fun t => eLt r.floor t.2)).foldl (fun l t => insPair t l) []).eraseDups
  (kept, carry, cut, cPrescan img && (n = 0 || sgHasSign seg))

/-- A new sealed object that holds `b` (R302). -/
def Dev.objectOf (d : Dev) (fn : Nat) (b : List Byte) : Option (Dev × Nat) :=
  match d.newObject fn (max 1 ((b.length + 65535) / 65536)) with
  | some (d1, o) => some ((d1.objWrite (objAddr o) b false).sealObject o, o)
  | none => none

/-- Step 2 is over: its bind ends, and the commands that wait for the rebuild note whether the version was still current (R95, R96). -/
def Dev.rebuildUnbind (d : Dev) (r : Rebuild) : Dev :=
  let d := if d.anyOld r.binds then r.cmds.foldl (fun d c => d.updCtx c (fun x => { x with oldTable := true })) d else d
  r.binds.foldl (fun d b => d.unbind1 b) d

/-- End a rebuild without publishing (R215, R216, R302). -/
def Dev.rebuildEnd (d : Dev) (r : Rebuild) (st : Status) (spec0 : Nat := 0) : Dev :=
  let d := d.rebuildUnbind r
  let d := r.newObjs.foldl (fun d o => d.releaseObject o) d
  let d := d.dropRebuild r.img r
  d.finishAll r.cmds { status := st, spec0 := spec0 }

/-- Store a rebuild's record. -/
def Dev.setRebuild (d : Dev) (r : Rebuild) : Dev :=
  { d with upd := { d.upd with rebuilds := Tab.set d.upd.rebuilds (listKey r.coll r.list) r } }

/-- Step 2 begins: the current directory version is bound, once (R94, R215). -/
def Dev.rebuildBind (d : Dev) (r : Rebuild) : Dev × GotV Rebuild :=
  if !r.binds.isEmpty then (d, .ok r)
  else match d.bindAll r.reader r.img [{ h := cDirTbl r.img, kind := 3, chk := 3 }] with
    | (d, .ok bs) => (d.setRebuild { r with binds := bs }, .ok { r with binds := bs })
    | (d, .wait) => (d, .wait)
    | (d, .bad st) => (d, .bad st)

/-- What step 2 reads: the directory entry, the old scan object, the old refine object. Their headers are not checked: R118 asks that of
scanners and of the exact re-rank alone. -/
def Dev.rebuildOld (d : Dev) (r : Rebuild) : Dev × GotV (List Byte × List Byte × List Byte) :=
  let i := r.reader
  GotV.andThen (d.dirEntry i ((r.binds.head?.map d.boundBase).getD 0) r.list) fun d eb =>
  let e := dirEntOf eb
  GotV.andThen (d.need i e.seg (if e.seg = 0 then 0 else e.segLen)) fun d seg =>
  let rl := if e.seg = 0 || cRefine r.img = 0xFF || e.refine = 0 then 0 else e.refineLen
  GotV.andThen (d.need i e.refine rl) fun d ref => (d, .ok (eb, seg, ref))

/-- Step 4: the new scan object and refine object are written. It waits while TACK takes no request (R603). -/
def Dev.rebuildWrite (d : Dev) (r : Rebuild) : Dev :=
  if !d.enabled pgTack then d
  else match d.objectOf r.fn r.scanObj with
  | none => d.rebuildEnd r .quota
  | some (d1, o1) =>
    let ne : DirEnt := { seg := d1.objGlobal o1, items := leAt r.scanObj 4 4, segLen := r.scanObj.length, epoch := r.cut }
    let ro := r.refObj
    let r := { r with scanObj := [], refObj := [] }
    if ro.isEmpty then d1.setRebuild { r with newEntry := dirEntBytes ne, newObjs := [o1] }
    else match d1.objectOf r.fn ro with
      | none => d1.rebuildEnd { r with newObjs := [o1] } .quota
      | some (d2, o2) =>
        let ne2 := { ne with refine := d2.objGlobal o2, refineLen := ro.length }
        d2.setRebuild { r with newEntry := dirEntBytes ne2, newObjs := [o1, o2] }

/-- The most items a sealed segment holds (R115). -/
def segmentMax : Nat := 1048576

/-- Steps 2 to 4 (R215): read, then write the new objects. Waits while a read waits. A list whose versions no sealed segment can hold ends its
rebuild with QUOTA (R115, log entry 63). -/
def Dev.rebuildBuild (d : Dev) (r : Rebuild) : Dev :=
  if !r.scanObj.isEmpty then d.rebuildWrite r else
  GotV.after (d.rebuildBind r) (fun d st => d.rebuildEnd r st) fun d r =>
  GotV.after (d.rebuildOld r) (fun d st => d.rebuildEnd r st) fun d x =>
    let (vs, carry, cut, sign) := d.rebuildRead r (dirEntOf x.1) x.2.1 x.2.2
    let d := if cut != r.cut then d.bump pgCtx 3 10 else d
    if segmentMax < vs.length then d.rebuildEnd r .quota else
    let d := d.rebuildUnbind r
    let r := { r with binds := [], cut := cut, entry := x.1, scanObj := scanObject r.img r.list vs carry sign,
                      refObj := if cRefine r.img = 0xFF then [] else refineObject r.img r.list vs }
    (d.setRebuild r).rebuildWrite r

/-- Addresses that a version names for a list: its page, scan object and refine object. -/
def Dev.namedBy (d : Dev) (base l : Nat) : List Nat :=
  let page := leNat (d.peekImg (base + 64 + 8 * (l / 4096)) 8)
  let e := d.peekEntry base l
  if page = 0 then [] else [page, e.seg, e.refine]

/-- Addresses that the handle's versions other than the one in slot `cs`, not yet retired, name for a list. -/
def Dev.stillNamed (d : Dev) (h cs l : Nat) : List Nat :=
  (((List.range 4).filter (fun k => k != cs && ((d.tdesc h).slot k).st != 0)).map (fun k => d.namedBy ((d.tdesc h).slot k).base l)).flatten

/-- What step 5 reads: the current root and the list's page (zeros where it has none). -/
def Dev.rebuildRoot (d : Dev) (i l : Nat) (s : TSlot) : Dev × GotV (List Byte × List Byte) :=
  GotV.andThen (d.need i s.base s.len) fun d root =>
  let pa := leAt root (64 + 8 * (l / 4096)) 8
  GotV.andThen (d.need i pa (if pa = 0 then 0 else 262144)) fun d page =>
  (d, .ok (root, if pa = 0 then List.replicate 262144 0 else page))

/-- Step 6 (R215): the new root becomes the current version, and the old version is retired. `olds` is the storage only it named. -/
def Dev.rebuildSwitch (d : Dev) (r : Rebuild) (cs fs base len ot : Nat) (olds : List Nat) : Dev :=
  let h := cDirTbl r.img
  let t := d.tdesc h
  let d := (d.putTdesc h (t.publish 3 fs (d.objGlobal ot) len)).bump pgCtx 1 0
  let key := listKey r.coll r.list
  let d := if d.upd.pressure.contains key then d.setCs r.coll 24 4 (d.cs r.coll 24 4 - 1) else d
  let wasRoot := match d.objStart base with
    | some o => if d.upd.roots.contains o then [o] else []
    | none => []
  let u := { d.upd with pressure := delNat d.upd.pressure key, aged := delNat d.upd.aged key,
                        roots := ot :: d.upd.roots.filter (fun o => !wasRoot.contains o) }
  let d := ({ d with upd := u } : Dev).setRetiring h cs
  let keep := d.stillNamed h cs r.list
  let free := (olds.filter (fun a => a != 0 && !keep.contains a)).filterMap d.objStart
  let d := d.setRebuild { r with published := some t.nextVer, retiring := some (h, cs), oldObjs := free ++ wasRoot, newObjs := [] }
  (d.fixRebuilds r.coll).slotFree h cs

/-- Step 5 (R215): the new page and root, when the list's entry is still the one step 2 read. While TACK takes no request (R603) it waits
as `d0`. -/
def Dev.rebuildPages (d0 d : Dev) (r : Rebuild) (cs fs base len ver : Nat) (root page : List Byte) : Dev :=
  let now := dirEntOf (slice page (64 * (r.list % 4096)) 64)
  let was := dirEntOf r.entry
  if !(now.seg == was.seg && now.refine == was.refine && now.items == was.items && now.epoch == was.epoch) then
    (d.bump pgCtx 3 14).rebuildEnd r .versionConflict ver
  else if !d.enabled pgTack then d0
  else match d.objectOf r.fn (patch page (64 * (r.list % 4096)) r.newEntry) with
    | none => d.rebuildEnd r .quota
    | some (d1, op) =>
      match d1.objectOf r.fn (patch root (64 + 8 * (r.list / 4096)) (natLe 8 (d1.objGlobal op))) with
      | none => d1.rebuildEnd { r with newObjs := r.newObjs ++ [op] } .quota
      | some (d2, ot) => d2.rebuildSwitch r cs fs base len ot [leAt root (64 + 8 * (r.list / 4096)) 8, was.seg, was.refine]

/-- Steps 5 and 6 (R215): publish the new root in one request, then retire the old version; step 7 follows when its readers have ended. -/
def Dev.rebuildPublish (d : Dev) (r : Rebuild) : Dev :=
  let d0 := d
  let t := d.tdesc (cDirTbl r.img)
  if d.tblBusy then d else
  match t.current, t.freeSlot with
  | none, _ => (d.bump pgCtx 3 14).rebuildEnd r .badTable
  | some _, none => d
  | some (cs, s), some fs =>
    GotV.after (d.rebuildRoot r.reader r.list s) (fun d st => d.rebuildEnd r st) fun d x =>
      Dev.rebuildPages d0 d r cs fs s.base s.len t.ver x.1 x.2

end Sys2Proof.Machine
end

