-- ==== Sys2Proof/Machine/EngOps.lean ====
section
/-! DEFINITION. Engines and groups: ownership, reservation, start and release (R221, R246 to R253, R274, R285). -/

namespace Sys2Proof.Machine
open Sys2Proof

def Dev.engine (d : Dev) (e : Nat) : Engine := Tab.getD d.eng.eng e {}
def Dev.setEngine (d : Dev) (e : Nat) (x : Engine) : Dev := { d with eng := { d.eng with eng := Tab.set d.eng.eng e x } }
def Dev.updEngine (d : Dev) (e : Nat) (f : Engine → Engine) : Dev := d.setEngine e (f (d.engine e))
/-- Core of an engine; position within it; engine of a position (R28, R249). -/
def Dev.engCore (d : Dev) (e : Nat) : Nat := e / d.part.perCore
def Dev.engPos (d : Dev) (e : Nat) : Nat := e % d.part.perCore
def Dev.engAt (d : Dev) (core p : Nat) : Nat := core * d.part.perCore + p
def pgEng (e : Nat) : Nat := 0x40 + e
def pgCore (c : Nat) : Nat := 0x10 + c
def pgSkv (e : Nat) : Nat := 0x80 + e
def pgKpr (k : Nat) : Nat := 0x20 + k
def pgLac (l : Nat) : Nat := 0x30 + l
/-- Local address of engine SRAM and of core SRAM (R48). -/
def engSram (e : Nat) : Nat := 0x2000000000 + 0x800000 * e
def coreSramAt (c : Nat) : Nat := 0x2020000000 + 0x4000000 * c

def Dev.group? (d : Dev) (g : Nat) : Option Group := Tab.find? d.eng.groups g
def Dev.setGroup (d : Dev) (g : Nat) (x : Group) : Dev := { d with eng := { d.eng with groups := Tab.set d.eng.groups g x } }

/-- Positions of a mask, ascending. -/
def maskPos (m : Nat) : List Nat := (List.range 8).filter (fun p => m.testBit p)
/-- Engines of a group. -/
def Dev.groupEngs (d : Dev) (x : Group) : List Nat := (maskPos x.reserved).map (fun p => d.engAt x.core p)

/-- Present operating point (R570). -/
def Dev.point (d : Dev) : Nat := d.fd R.pwrStat 2 0
/-- ACLK cycles that have passed: ACLK makes 11 minus the point of them in 16 NCLK cycles. -/
def Dev.aclk (d : Dev) : Nat := d.aphase / 16

/-- The array's gate has closed by now: idle for IDLE_DELAY (R256, R574). -/
def Dev.gateShut (d : Dev) (e : Nat) (x : Engine) : Bool :=
  x.gated || (x.owner == .idle && fbit (d.rg R.engCfg e) 0 && decide (x.idleFrom + d.fd R.engCfg 23 8 e * 256 ≤ d.aclk))

/-- An engine is free of its owner. -/
def Dev.engFree (d : Dev) (e : Nat) : Dev :=
  d.updEngine e (fun x => { x with owner := .idle, ctx := 0, group := 0, stream := none, pend := [], tokens := [], loops := [],
                                   stalled := false, syncing := false, stopping := false, idleFrom := d.aclk })

/-- An engine's group has gone: it issues nothing more, its transfers stop, and what else it has accepted finishes before it is free, at most
4 µs from now (R253). -/
def Dev.engStop (d : Dev) (e : Nat) : Dev :=
  let left := (d.engine e).pend.filter (fun p => bits p.w.toNat 3 0 != 2)
  if left.isEmpty then d.engFree e
  else d.updEngine e (fun x => { x with pend := left, loops := [], stalled := false, syncing := false, stopping := true, readyAt := d.now + usCycles 4 })

/-- An engine can be given work: idle and enabled, its core enabled (R603). -/
def Dev.engIdle (d : Dev) (e : Nat) : Bool :=
  decide (e < d.part.engines) && (d.engine e).owner == .idle && d.runs (pgEng e) && d.runs (pgCore (d.engCore e))

/-- The function a command or search works for: the index of its requests at arbiters whose chapter names none (R469). It is the command's; of a
sub-search of this node's own the coordinating command's, and 0 of another node's (log entry 64). -/
def Dev.sidFn (d : Dev) (sid : Nat) : Nat :=
  match d.ctx? sid with
  | some x => x.fn
  | none => match (Tab.find? d.srch.all sid).bind (fun (s : Search) => s.origin) with
    | some (n, ref) => if n = d.node then (match d.ctx? (ref / 2 ^ 18 % 4096) with
        | some x => x.fn
        | none => 0) else 0
    | none => 0

/-- A group waits for position p of its core. -/
def Group.wants (x : Group) (p : Nat) : Bool :=
  !x.running && !x.reserved.testBit p &&
  (if x.want = 0 then x.mask.testBit p else decide (popNat 8 x.reserved < x.want))

/-- A group has every engine it asks for. -/
def Group.full (x : Group) : Bool := if x.want = 0 then x.reserved == x.mask else popNat 8 x.reserved == x.want

/-- Scale slots of an engine that its program starts with (R274): cleared. -/
def Dev.clearSlots (d : Dev) (e : Nat) : Dev :=
  { d with eng := { d.eng with slots := d.eng.slots.filter (fun s => s.1 / 16 != e) } }

/-! Barriers (R239 to R241). -/

/-- Barrier b of core c. -/
def Dev.bar (d : Dev) (c b : Nat) : Barrier := Tab.getD d.eng.bars (16 * c + b) {}
def Dev.setBar (d : Dev) (c b : Nat) (x : Barrier) : Dev := { d with eng := { d.eng with bars := Tab.set d.eng.bars (16 * c + b) x } }

/-- Bits of `a` that `b` has not. -/
def bitsOut (a b : Nat) : Nat := a - (a &&& b)

/-- BAR_0 to BAR_7 of a core with the positions of a group taken out, or put in as participants that have not arrived. -/
def Dev.groupBars (d : Dev) (c ps : Nat) (into : Bool) : Dev :=
  (List.range 8).foldl (fun d b =>
    let x := d.bar c b
    d.setBar c b { x with mask := if into then x.mask ||| ps else bitsOut x.mask ps, arrived := bitsOut x.arrived ps,
                          ended := bitsOut x.ended ps }) d

/-- A generation of barrier b completes when every participant of group g has arrived, ended engines arriving by themselves. Groups that run on
one core at once have positions of their own in the same barrier, and one does not wait for another (DESIGN CHOICE, log entry 16). -/
def Dev.barCheck (d : Dev) (g b : Nat) : Dev :=
  match d.group? g with
  | none => d
  | some y =>
    let x := d.bar y.core b
    let m := y.reserved
    if x.arrived &&& m != 0 && m &&& (x.arrived ||| x.ended) == m then
      (d.setBar y.core b { x with arrived := bitsOut x.arrived m, gen := (x.gen + 1) % 256 }).bump (pgCore y.core) 0 0
    else d

/-- What the device's own kernels, run on the positions `ps` of a core, do to BAR_8 to BAR_15: how many generations each barrier passes is
left open (DESIGN CHOICE, log entry 16). -/
def Dev.kernelBars (d : Dev) (c ps : Nat) : Dev :=
  ((List.range 8).foldl (fun d i =>
    let x := d.bar c (8 + i)
    let n := Config.free [d.draws, 90, i]
    (d.setBar c (8 + i) { x with mask := ps, gen := (x.gen + n) % 256 }).bump (pgCore c) 0 0 n) d).drawn

/-- Start a group's program on every engine it has reserved, on one cycle (R248, R251), once its image has been copied into their instruction
stores, which takes up to 1 µs (DESIGN CHOICE, log entry 5). `keep` leaves the scale slots as they were loaded. -/
def Dev.groupStart (d : Dev) (g : Nat) (keep : Bool) : Dev :=
  match d.group? g with
  | none => d
  | some x =>
    let ps := maskPos x.reserved
    let prog := (List.range (progImgInstrs x.image)).map (imgInstr x.image)
    let go := d.now + Config.free [d.draws, 91] % (usCycles 1 + 1)
    let one := fun (d : Dev) (k : Nat × Nat) =>
      let e := d.engAt x.core k.1
      let old := d.engine e
      let n : Engine := { old with owner := .group, ctx := x.ctx, group := g, pc := progImgEntry x.image, stalled := false, ended := false,
                                   tokens := [], pend := [], x := [(1, w32 k.2), (2, w32 ps.length)], v := [], loops := [], istore := prog,
                                   wins := x.wins, arrivedIn := [], syncing := false, pos := k.2, started := go, readyAt := go, retired := 0, nans := 0, sats := 0,
                                   slotSats := [], events := 0,
                                   gated := d.gateShut e old }
      let d := (d.setEngine e n).bump (pgEng e) 0 11
      if keep then d else d.clearSlots e
    let d := (((ps.zipIdx).foldl one d).groupBars x.core x.reserved true).drawn
    d.setGroup g { x with running := true, startAt := go, clks := 0 }

/-- Of groups that wait, the one that R469 picks by the functions they work for, and the pointer after it. -/
def Dev.groupPick (d : Dev) (gs : Tab Group) (ptr : Nat) : Option Nat × Nat :=
  let r := rotatePickL (gs.map (fun g => d.sidFn g.2.ctx)) ptr 1024
  (r.1.bind (fun f => (gs.filter (fun g => d.sidFn g.2.ctx == f)).head?.map Prod.fst), r.2)

/-- Give an idle engine to the group that waits for it, by R469 among them; a RUN_PROGRAM group that has them all starts (R251). -/
def Dev.engReserve (d : Dev) (e : Nat) : Dev :=
  if !d.engIdle e then d else
  let c := d.engCore e
  let p := d.engPos e
  match d.groupPick (d.eng.groups.filter (fun x => x.2.core == c && x.2.wants p)) (Tab.getD d.eng.grantPtr c 0) with
  | (none, _) => d
  | (some g, ptr) =>
    match d.group? g with
    | none => d
    | some x =>
      let y := { x with reserved := x.reserved ||| 2 ^ p, mask := x.mask ||| 2 ^ p }
      let d := (d.setGroup g y).updEngine e (fun n => { n with owner := .reserved, ctx := x.ctx, group := g, gated := d.gateShut e n })
      let d := { d with eng := { d.eng with grantPtr := Tab.set d.eng.grantPtr c ptr } }
      let d := if y.run = 0 then d.bump (pgCore c) 0 2 else d
      if y.full && y.run = 0 then d.groupStart g false else d

/-- Take every idle engine of a core that a new group waits for, lower positions first. -/
def Dev.coreReserve (d : Dev) (c : Nat) : Dev := (List.range d.part.perCore).foldl (fun d p => d.engReserve (d.engAt c p)) d

/-- A search kernel of function f asks for an engine of core c in the same cycle as the groups that wait for one that is idle (R251): by R469
among their functions it comes first, or they take theirs and it asks again. -/
def Dev.kernelTurn (d : Dev) (c f : Nat) : Dev × Bool :=
  let idle := (List.range d.part.perCore).filter (fun p => d.engIdle (d.engAt c p))
  let want := d.eng.groups.filter (fun x => x.2.core == c && idle.any (fun p => x.2.wants p))
  if want.isEmpty then (d, true)
  else match rotatePickL (f :: want.map (fun g => d.sidFn g.2.ctx)) (Tab.getD d.eng.grantPtr c 0) 1024 with
    | (some w, ptr) =>
      if w = f then ({ d with eng := { d.eng with grantPtr := Tab.set d.eng.grantPtr c ptr } }, true) else (d.coreReserve c, false)
    | (none, _) => (d, true)

/-- Remove a group and free its engines. -/
def Dev.dropGroup (d : Dev) (g : Nat) : Dev :=
  match d.group? g with
  | none => d
  | some x =>
    let d := ((d.groupEngs x).foldl (fun d e => d.engStop e) d).groupBars x.core x.reserved false
    { d with eng := { d.eng with groups := Tab.del d.eng.groups g } }

/-- A new group's number. -/
def Dev.addGroup (d : Dev) (x : Group) : Dev × Nat :=
  let g := d.eng.nextGroup
  ({ d with eng := { d.eng with groups := Tab.set d.eng.groups g x, nextGroup := g + 1 } }, g)

/-- The next enabled core after the one given last (R132), and the pointer after it. -/
def Dev.nextCore (d : Dev) : Option Nat :=
  ((List.range 8).map (fun i => (d.srch.lastCore + 1 + i) % 8)).find? (fun c => d.runs (pgCore c))
def Dev.gaveCore (d : Dev) (c : Nat) : Dev := { d with srch := { d.srch with lastCore := c } }

/-! Scale slots (R265, R270 to R275). -/

def Dev.slotOf (d : Dev) (e j : Nat) : Slot := Tab.getD d.eng.slots (16 * e + j) {}
def Dev.setSlot (d : Dev) (e j : Nat) (s : Slot) : Dev := { d with eng := { d.eng with slots := Tab.set d.eng.slots (16 * e + j) s } }

/-- A slot record (R270). -/
def slotBytes128 (s : Slot) : List Byte :=
  natLe 4 s.initScale.toNat ++ natLe 4 ((s.depth - 1) % 16 + s.head * 16 + s.count * 256) ++ natLe 4 s.curAmax.toNat ++
  natLe 4 s.scale.toNat ++ natLe 4 s.stepSat ++ natLe 4 s.satLimit ++ natLe 4 s.steps ++ natLe 4 0 ++
  ((List.range 16).map (fun j => natLe 4 (s.hist.getD j 0).toNat)).flatten ++ natLe 32 0

/-- A slot read from a record, `none` when R273 loads the cleared state instead. -/
def slotOfBytes (b : List Byte) : Option Slot :=
  let f := leAt b 4 4
  let depth := bits f 3 0 + 1
  if depth < bits f 12 8 || depth ≤ bits f 7 4 then none
  else some { initScale := w32 (leAt b 0 4), depth := depth, head := bits f 7 4, count := bits f 12 8, curAmax := w32 (leAt b 8 4),
              scale := w32 (leAt b 12 4), stepSat := leAt b 16 4, satLimit := leAt b 20 4, steps := leAt b 24 4,
              hist := (List.range 16).map (fun j => w32 (leAt b (32 + 4 * j) 4)) }

/-- The slot after STEP, and whether it raises SAT_STEP (R271, R275). -/
def Slot.step (s : Slot) : Slot × Bool :=
  let h := (s.hist ++ List.replicate (16 - s.hist.length) 0).set s.head s.curAmax
  ({ s with hist := h, head := (s.head + 1) % s.depth, count := min (s.count + 1) s.depth, steps := (s.steps + 1) % 2 ^ 32,
            curAmax := 0, stepSat := 0 },
   s.satLimit != 0 && decide (s.satLimit ≤ s.stepSat))

/-- Largest entry of the valid history: the `count` newest (R265). With a NaN among them, which only a loaded record can bring, it is left
open (log entry 18). -/
def Slot.histMax (s : Slot) : Word :=
  match (List.range s.count).map (fun i => s.hist.getD ((s.head + s.depth - 1 - i) % s.depth) 0) with
  | [] => 0
  | a :: t => if (a :: t).any (fun w => (val32 w).isNan) then w32 (Config.free (0 :: 0x5E :: (a :: t).map (fun w => w.toNat))) else t.foldl xMax a

/-- INIT_SCALE as it is used (R269). -/
def Slot.init (s : Slot) : Word :=
  let v := val32 s.initScale
  if v.finite && !v.isZero && !v.neg then s.initScale else 0x3F800000

/-- Raise SAT_STEP on an engine's Skiver (R275). -/
def Dev.satStep (d : Dev) (e slot ctx sat : Nat) : Dev :=
  let q := Tab.getD d.eng.satEvents e []
  let d := d.bump (pgSkv e) 0 6
  if 4 ≤ q.length then d.bump (pgSkv e) 0 7
  else
    let ev : SatEvent := { slot := slot, core := d.engCore e, ctx := ctx, sat := sat }
    ({ d with eng := { d.eng with satEvents := Tab.set d.eng.satEvents e (q ++ [ev]) } } : Dev).setInt (pgSkv e) 0

end Sys2Proof.Machine
end

