-- ==== Sys2Proof/Machine/Release.lean ====
section
/-! DEFINITION. Ends: streams, queries, searches, model runs and groups give back what they hold (R95, R130, R142, R152 to R160, R181,
R253, R287). -/

namespace Sys2Proof.Machine
open Sys2Proof

/-! Searches, queries and streams by number. -/

def Dev.search? (d : Dev) (sid : Nat) : Option Search := Tab.find? d.srch.all sid
def Dev.setSearch (d : Dev) (sid : Nat) (x : Search) : Dev := { d with srch := { d.srch with all := Tab.set d.srch.all sid x } }
/-- Number of query q of search sid; of partial list j of a query. -/
def qKey (sid q : Nat) : Nat := 256 * sid + q
def sKey (k j : Nat) : Nat := 32768 * k + j
def Dev.stream? (d : Dev) (s : Nat) : Option Stream := Tab.find? d.srch.streams s
def Dev.setStream (d : Dev) (s : Nat) (x : Stream) : Dev := { d with srch := { d.srch with streams := Tab.set d.srch.streams s x } }

/-- Give back what a stream holds beyond its chain: its bind, its engine, its place on a stack or an Edger. -/
def Dev.freeScan (d : Dev) (s : Nat) (x : Stream) : Dev :=
  let d := match x.engine with
    | some e => d.engFree e
    | none => d
  let d := match x.place with
    | .hide n => { d with hide := { d.hide with stackTab := Tab.upd? d.hide.stackTab n (fun (k : Stack) =>
        { k with stitches := k.stitches.filter (fun t => t.2.owner != AwlOwner.stream s) }) } }
    | .flash c => { d with flash := { d.flash with ch := Tab.upd? d.flash.ch c (fun (k : Channel) =>
        { k with edger := k.edger.filter (fun u => u.sid != s) }) } }
    | _ => d
  let d := d.dropReads (fun w _ => w == Reader.stream s)
  let d := { d with fab := { d.fab with bufs := Tab.del d.fab.bufs (Reader.stream s).buf } }
  if x.obj != 0 then d.dropReader (x.obj - 1) x.tier else d

/-- Remove a stream. -/
def Dev.dropStream (d : Dev) (s : Nat) : Dev :=
  match d.stream? s with
  | none => d
  | some x =>
    let d := { d with srch := { d.srch with streams := Tab.del d.srch.streams s } }
    d.freeScan s x

/-- Remove gathers for a use. -/
def Dev.dropGathers (d : Dev) (use : GatherUse) : Dev :=
  { d with sb := { d.sb with reqs := d.sb.reqs.filter (fun r => r.2.use != use) } }

/-- Remove a model run: its engines and lane are free, its gather and attention end. -/
def Dev.takeRun (d : Dev) (r : Nat) : Dev :=
  match Tab.find? d.eng.runs r with
  | none => d
  | some x =>
    let d := d.dropGroup x.group
    let d := d.dropGathers (.tokens r)
    let st := d.hide.stackTab.map (fun (k : Nat × Stack) => (k.1, { k.2 with stitches := k.2.stitches.filter (fun t => t.2.owner != AwlOwner.attn r) }))
    { d with eng := { d.eng with runs := Tab.del d.eng.runs r },
             hide := { d.hide with attn := Tab.del d.hide.attn r, stackTab := st } }

/-- A model run ends early (R287, R293). -/
def Dev.dropRun (d : Dev) (r : Nat) : Dev := if Tab.has d.eng.runs r then (d.bump pgCtx 4 2).takeRun r else d

/-- Runs of a query. -/
def Dev.queryRuns (d : Dev) (k : Nat) : List Nat :=
  (d.eng.runs.filter (fun r => r.2.use == .queryEmbed k || r.2.use == .queryRerank k)).map Prod.fst

/-- Reference of shard i of the fan-out of query q of the command in context c. -/
def subRef (cinc c q i : Nat) : Nat := 1024 * (256 * (4096 * cinc + c) + q) + i

/-- End binds of a query's phase, noting OLD_TABLE for the query as well (R96). -/
def Dev.unbindQ (d : Dev) (k : Nat) (l : List (Nat × Nat)) : Dev :=
  let d := if d.anyOld l then d.updQuery k (fun q => { q with flags := q.flags ||| 32 }) else d
  d.unbind (k / 256) l

/-- End the work a query has on this node as a search: streams, runs, gathers, waits, the binds of its phase, its pool slot (R153, R181). -/
def Dev.dropPhase (d : Dev) (k : Nat) : Dev :=
  let ss := (Tab.keys d.srch.streams).filter (fun s => s / 32768 == k)
  let d := ss.foldl (fun d s => d.dropStream s) d
  let d := (d.queryRuns k).foldl (fun d r => d.dropRun r) d
  let d := d.dropGathers (.filter k)
  let d := d.dropReads (fun w _ => w == Reader.query k)
  match d.query? k with
  | none => d
  | some q => (d.unbindQ k q.binds).updQuery k (fun q => { q with binds := [], chain := none, slot := false, asked := false, parts := [], pool := [] })

/-- Queries of a search. -/
def Dev.queriesOf (d : Dev) (sid : Nat) : List Nat := (Tab.keys d.srch.queries).filter (fun k => k / 256 == sid)

/-- A query that ends otherwise than by its WRITE phase counts as one with STALLED_TIER where it carries the flag (R78, R163). -/
def Dev.stallCount (d : Dev) (q : Query) : Dev :=
  if q.phase != .finished && q.status == .ok && q.flags.testBit 4 then d.bump pgCtx 2 6 else d

/-- Take away a search's queries, whose work has ended. -/
def Dev.delQueries (d : Dev) (sid : Nat) : Dev :=
  let d := ((d.queriesOf sid).filterMap d.query?).foldl (fun d q => d.stallCount q) d
  { d with srch := { d.srch with queries := d.srch.queries.filter (fun q => q.1 / 256 != sid) } }

/-- Release a search whose queries have gone: the tables it holds whole, its snapshot or read pin, the lines it fetched (R95, R130, R157). -/
def Dev.dropSearch (d : Dev) (sid : Nat) : Dev :=
  match d.search? sid with
  | none => d
  | some s =>
    let d := d.unbind sid s.binds
    let d := { d with srch := { d.srch with all := Tab.del d.srch.all sid }, fab := { d.fab with bufs := Tab.del d.fab.bufs sid } }
    let d := match s.snap with
      | some i => d.unpinSnap i
      | none => d
    if s.readPin then d.fixPins s.coll else d

/-- Release a sub-search, with its queries (R157, R158). -/
def Dev.dropSub (d : Dev) (sid : Nat) : Dev :=
  (((d.queriesOf sid).foldl (fun d k => d.dropPhase k) d).delQueries sid).dropSearch sid

/-- The sub-searches that run here for query k of a command of this node (R156). -/
def Dev.ownSubs (d : Dev) (k : Nat) : List Nat :=
  match d.ctx? (k / 256) with
  | none => []
  | some x => (d.srch.all.filter (fun e => match e.2.origin with
    | some (n, ref) => n == d.node && ref / 1024 == subRef x.cinc (k / 256) (k % 256) 0 / 1024
    | none => false)).map Prod.fst

/-- End a query's work, that of its own node's shard among it (R153, R158, R181). -/
def Dev.dropQuery (d : Dev) (k : Nat) : Dev := (d.ownSubs k).foldl (fun d i => d.dropSub i) (d.dropPhase k)

/-- End all the work of a search's queries. -/
def Dev.dropQueries (d : Dev) (sid : Nat) : Dev := ((d.queriesOf sid).foldl (fun d k => d.dropQuery k) d).delQueries sid

/-- Release a search and all that works for it. -/
def Dev.releaseSearch (d : Dev) (sid : Nat) : Dev := (d.dropQueries sid).dropSearch sid

/-! Result records (R149). -/

/-- The 16 bytes of a candidate's record. -/
def candRecord (c : Cand) : List Byte :=
  natLe 8 c.id ++ natLe 4 c.key ++
  natLe 4 (c.list % 2 ^ 24 + c.tier % 8 * 2 ^ 24 + b2n c.delta * 2 ^ 27 + b2n c.exact * 2 ^ 28 + b2n c.model * 2 ^ 29)
/-- An empty record (R146). -/
def emptyRecord : List Byte := natLe 8 (2 ^ 64 - 1) ++ natLe 4 0xFFFFFFFF ++ natLe 4 0
/-- A record read back. -/
def recordCand (b : List Byte) : Cand :=
  let t := leAt b 12 4
  { id := leAt b 0 8, key := leAt b 8 4, list := t % 2 ^ 24, tier := bits t 26 24, delta := t.testBit 27, exact := t.testBit 28, model := t.testBit 29 }

/-! Shard results and the ends of queries. -/

/-- A shard's result reaches the coordinator (R157, R159): its records become partial list i. -/
def Dev.shardResult (d : Dev) (src : Nat) (r : SubResult) : Dev :=
  let i := r.ref % 1024
  let q := r.ref / 1024 % 256
  let c := r.ref / 2 ^ 18 % 4096
  let k := qKey c q
  match d.ctx? c, d.search? c, d.query? k with
  | some x, some s, some y =>
    if x.cinc != r.ref / 2 ^ 30 || x.done.isSome then d.bump pgCtx 0 1 else
    match y.shards[i]? with
    | some sh =>
      if sh.result.isSome || sh.node != src || y.phase != .candidate then d else
      let st := statusOf r.status
      let ents := ((r.records.take s.k).map recordCand).zipIdx.map (fun p => { p.1 with part := i, pos := p.2 })
      let ents := if st == .ok then ents else []
      let kth := match ents[s.k - 1]? with
        | some e => e.key
        | none => 0xFFFFFFFF
      let d := if st == .ok then d else d.bump pgCtx 2 14
      let last := (ents.getLast?.map (fun (e : Cand) => e.key)).getD 0xFFFFFFFF
      d.setQuery k { y with shards := y.shards.set i { sh with result := some (st, r.flags, r.tie, kth) },
                            parts := Tab.set y.parts i { ents := ents, full := decide (s.k ≤ ents.length), lastKey := last },
                            evaluated := y.evaluated + r.evaluated, scored := y.scored + r.scored, scanned := y.scanned + r.lists,
                            flags := y.flags ||| (r.flags &&& 0x10) }
    | none => d
  | _, _, _ => d

/-- Send a shard's result to the coordinator at `node`. -/
def Dev.sendSubResult (d : Dev) (node : Nat) (r : SubResult) : Dev :=
  if node = d.node then d.shardResult node r
  else
    let body := [r.ref, r.status, r.flags, r.tie, r.lists, r.evaluated, r.scored, r.records.length] ++
      (r.records.flatten).map (fun b => b.toNat)
    (d.sendSvc .service 2 node d.curGen body).1

/-- Answer a sub-search, and release it (R157). -/
def Dev.subAnswer (d : Dev) (sid : Nat) (r : SubResult) : Dev :=
  match d.search? sid with
  | none => d
  | some s =>
    let d := d.releaseSearch sid
    match s.origin with
    | none => d
    | some (node, _) => (d.bump pgBuckle 2 2).sendSubResult node r

/-- Statuses that end one query of a batch and leave the others running (R152). -/
def queryOwn (st : Status) : Bool :=
  st == .tierFail || st == .mediaError || st == .poisoned || st == .badTable || st == .invalidCmd

/-- A query ends with a status other than OK (R142, R150, R152, R157). -/
def Dev.queryEnd (d : Dev) (k : Nat) (st : Status) : Dev :=
  let sid := k / 256
  match d.search? sid with
  | none => d
  | some s =>
    let d := d.dropQuery k
    match s.origin with
    | some (_, ref) => d.subAnswer sid { ref := ref, status := st.code, flags := (match d.query? k with
        | some q => q.flags &&& 16
        | none => 0) }
    | none =>
      if s.batch && queryOwn st then (match d.query? k with
          | some q => d.stallCount q
          | none => d).updQuery k (fun q => { q with phase := .write, since := d.now, status := st, ordered := [], survivors := [], count := 0, flags := q.flags &&& 16, tie := 0 })
      else (d.dropQueries sid).finishSt sid st

/-- An EMBED or RERANK command ends with a status: all its runs end (R287, R289). -/
def Dev.modelCmdEnd (d : Dev) (c : Nat) (r : Compl) : Dev :=
  match Tab.find? d.eng.cmds c with
  | none => d
  | some m =>
    let rs := (d.eng.runs.filter (fun x => x.2.ctx == c && (match x.2.use with
      | .embed _ => true
      | .rerank => true
      | _ => false))).map Prod.fst
    let d := rs.foldl (fun d i => d.dropRun i) d
    let d := d.unbind c m.binds
    let d := { d with eng := { d.eng with cmds := Tab.del d.eng.cmds c } }
    d.finish c r

/-- A model run ends early (R287). -/
def Dev.runFail (d : Dev) (r : Nat) (st : Status) : Dev :=
  match Tab.find? d.eng.runs r with
  | none => d
  | some x =>
    let d := d.dropRun r
    match x.use with
    | .embed _ => d.modelCmdEnd x.ctx { status := st }
    | .rerank => d.modelCmdEnd x.ctx { status := st }
    | .queryEmbed k => d.queryEnd k st
    | .queryRerank k => d.queryEnd k st

/-- A group ends early (R253): its command, or the run it serves, ends with the status. -/
def Dev.groupStop (d : Dev) (g : Nat) (st : Status) : Dev :=
  match d.group? g with
  | none => d
  | some x =>
    if x.run = 0 then ((d.bump (pgCore x.core) 0 8).dropGroup g).finishSt x.ctx st else d.runFail x.run st

end Sys2Proof.Machine
end

