-- ==== Sys2Proof/Machine/Currier.lean ====
section
/-! DEFINITION. The Currier: bring-up, the logical space, blocks, parity, the hold-up ledger (R355 to R377, R382, R388 to R390). -/

namespace Sys2Proof.Machine
open Sys2Proof

def Dev.chan? (d : Dev) (c : Nat) : Option Channel := Tab.find? d.flash.ch c
def Dev.setChan (d : Dev) (c : Nat) (x : Channel) : Dev := { d with flash := { d.flash with ch := Tab.set d.flash.ch c x } }
/-- CUR_STAT.STATE: 0 UNFORMATTED, 1 REPLAYING, 2 READY, 3 FORMATTING, 4 FLUSHED. -/
def Dev.curState (d : Dev) : Nat := d.fd R.curStat 3 0
def Dev.setCurState (d : Dev) (v : Nat) : Dev := d.setFd R.curStat 3 0 v
/-- HOLDUP_STAT.FLUSHING. -/
def Dev.flushing (d : Dev) : Bool := fbit (d.rg R.holdupStat) 1
/-- The channel takes work: in service, the Currier READY and running, no flush. -/
def Dev.chanRuns (d : Dev) (c : Nat) : Bool :=
  (match d.chan? c with
   | some x => x.inService
   | none => false) && d.curState == 2 && d.runs pgCur && !d.flushing

/-! The channel's Rein instance (R370). -/

/-- REIN_(32+c). -/
def chanRein (c : Nat) : Nat := 32 + c
/-- CUR_CFG.WORK_FN. -/
def Dev.workFn (d : Dev) : Nat := d.fd R.curCfg 9 0
/-- Background work (R370). -/
def Dev.workCharge (d : Dev) : Charge := { fn := d.workFn }
/-- One part of an operation on a die, of cost n (R484: data bytes, or 64 for an operation without data). -/
def Dev.flashItem (d : Dev) (c die : Nat) (op : FlashOp) (part n : Nat) (who : Charge) : ReinItem :=
  { fn := who.fn.getD (d.defaultFn (chanRein c)), owner := who.owner, kind := .flash die op part, cost := n }
/-- Reads of logical units, one item for each that is read from its die: 4,096 bytes of data each (DEDUCED, log entry 39). -/
def Dev.unitItems (d : Dev) (c : Nat) (x : Channel) (us : List Nat) (op : FlashOp) (who : Charge) : List ReinItem :=
  us.filterMap (fun u => (Tab.find? x.map u).map (fun l => d.flashItem c (l / 32768 / 4096) op u 4096 who))
/-- Transfers of a run of `n` data bytes to or from a die, in items of at most one plane page. -/
def Dev.pageItems (d : Dev) (c die : Nat) (op : FlashOp) (from_ n : Nat) (who : Charge) : List ReinItem :=
  ((itemCosts (n / 16384 + 1) n).zipIdx).map (fun p => d.flashItem c die op (from_ + p.2) p.1 who)
/-- Reading the units of a block and programming them into other pages. -/
def Dev.copyItems (d : Dev) (c k : Nat) (x : Channel) (us : List Nat) (op : FlashOp) : List ReinItem :=
  d.unitItems c x us op d.workCharge ++ d.pageItems c (k / 4096) op (2 ^ 40) (4096 * us.length) d.workCharge

/-! Blocks (R366 to R369). -/

def Channel.block (x : Channel) (k : Nat) : Block := Tab.getD x.blocks k {}
def Channel.setBlock (x : Channel) (k : Nat) (b : Block) : Channel := { x with blocks := Tab.set x.blocks k b }
/-- Plane pages a block holds: all of them in native mode, 1/3 (TLC) or 1/4 (QLC) in SLC mode (R368). -/
def Channel.pagesOf (x : Channel) (set : Nat) : Nat :=
  if set = 1 || set = 2 then x.pagesPerBlock else x.pagesPerBlock / (if x.qlc then 4 else 3)
/-- Blocks of a die that are not free. -/
def Channel.notFree (x : Channel) (die : Nat) : Nat := (x.blocks.filter (fun e => e.1 / 4096 == die && e.2.st != BlockState.free)).length
def Channel.freeOn (x : Channel) (die : Nat) : Nat := x.blocksPerDie - x.notFree die
/-- Free block of least erase count, then of lowest number (R366). -/
def Channel.bestFree (x : Channel) (die : Nat) : Option Nat :=
  (List.range x.blocksPerDie).foldl (fun (b : Option Nat) i =>
    let k := 4096 * die + i
    if (x.block k).st != .free then b
    else match b with
      | none => some k
      | some j => if (x.block k).erases < (x.block j).erases then some k else b) none
/-- Blocks in use by purpose. -/
def Channel.used (x : Channel) (p : Nat → Bool) : Nat :=
  (x.blocks.filter (fun e => p e.2.set && (e.2.st == .opened || e.2.st == .full || e.2.st == .verified))).length
def Channel.retired (x : Channel) : Nat := (x.blocks.filter (fun e => e.2.st == .retired)).length
/-- b_good of R368. -/
def Channel.good (x : Channel) : Nat := x.dies * x.blocksPerDie - x.retired

/-- CUR_SLC fields as they are used. -/
def Dev.curRes (d : Dev) : Nat := min (max (d.fd R.curSlc 15 8) 2) 64
/-- n_slc of R368. -/
def Dev.nSlc (d : Dev) (x : Channel) : Nat :=
  let avail := x.good - x.used (fun s => s == 1 || s == 2) - x.dies * d.curRes - x.used (fun s => decide (3 ≤ s))
  min avail (max (d.fd R.curSlc 7 0 * x.dies) (min (d.fd R.curSlc 31 16 * x.dies) (avail * min (d.fd R.curCfg 22 16) 100 / 100)))
/-- Buffer blocks that hold data. -/
def Channel.slcUsed (x : Channel) : Nat := x.used (fun s => s == 0)
/-- SLC_AT_MIN when a buffer has fallen to its least size (R388). -/
def Dev.slcMin (d : Dev) (c : Nat) (before : Nat) : Dev :=
  match d.chan? c with
  | some x => if d.nSlc x ≤ d.fd R.curSlc 7 0 * x.dies && d.fd R.curSlc 7 0 * x.dies < before then d.setInt pgCur 2 else d
  | none => d
/-- A die of the channel has fewer free blocks than RES; every die has more (R370). -/
def Dev.gcLow (d : Dev) (x : Channel) : Bool := (List.range x.dies).any (fun i => decide (x.freeOn i < d.curRes))
def Dev.gcHigh (d : Dev) (x : Channel) : Bool := (List.range x.dies).all (fun i => decide (d.curRes < x.freeOn i))
/-- Strict queue 3 holds an item of the channel's collection. -/
def Dev.gcStrict (d : Dev) (c : Nat) : Bool := !(Tab.getD (d.rein (chanRein c)).strict 3 []).isEmpty
/-- Queued collection moves to strict queue 3 while a die is short of free blocks, and returns when every die has more (R370). -/
def Dev.gcQueue (d : Dev) (c : Nat) : Dev :=
  match d.chan? c with
  | none => d
  | some x =>
    let mine := fun (it : ReinItem) => match it.kind with
      | .flash _ (.collect _) _ => true
      | _ => false
    let dest := if d.gcLow x then some (some 3) else if d.gcHigh x && d.gcStrict c then some none else none
    match dest with
    | none => d
    | some q =>
      let (d, its) := d.reinPull (chanRein c) mine
      its.foldl (fun d it => d.reinPut (chanRein c) q it) d
/-- Store a channel whose blocks have changed. -/
def Dev.putChan (d : Dev) (c : Nat) (x : Channel) : Dev :=
  let before := match d.chan? c with
    | some y => d.nSlc y
    | none => 0
  ((d.setChan c x).slcMin c before).gcQueue c

/-- The open block of a set on a die, or a free one opened for it (R366, R368). Writers leave RES blocks of a die free; collection and parity
take them. -/
def Dev.openBlock (d : Dev) (x : Channel) (set die : Nat) : Option (Channel × Nat) :=
  match List.find? (fun (e : Nat × Block) => e.1 / 4096 == die && e.2.st == .opened && e.2.set == set) x.blocks with
  | some (k, _) => some (x, k)
  | none =>
    if (set ≤ 1 && x.freeOn die ≤ d.curRes) || (set = 0 && d.nSlc x ≤ x.slcUsed) then none
    else (x.bestFree die).map (fun k =>
      (({ x.setBlock k { x.block k with st := .opened, set := set, pages := 0, openedAt := x.order, dest := [], emptied := false } with order := x.order + 1 } : Channel), k))

/-- Take `n` plane pages of an open block, which is full once it has no page left. -/
def Channel.takePages (x : Channel) (k n : Nat) : Channel :=
  let b := x.block k
  let p := b.pages + n
  if x.pagesOf b.set ≤ p then { x.setBlock k { b with pages := p, st := .full, fullAt := x.order } with order := x.order + 1 }
  else x.setBlock k { b with pages := p }

/-! Stripes (R371). -/

/-- Dies a stripe i of any set takes data from; the die of its parity page. -/
def Channel.parityDie (x : Channel) (key : Nat) : Nat := key % 2 ^ 24 % max x.dies 1
/-- A data page of a set on a die joins its stripe. -/
def Channel.stripeAdd (x : Channel) (set die : Nat) : Channel :=
  let i := Tab.getD x.setPos (16 * set + die) 0
  let i := if i % max x.dies 1 = die then i + 1 else i
  { x with setPos := Tab.set x.setPos (16 * set + die) (i + 1), stripes := Tab.upd x.stripes (2 ^ 24 * set + i) [] (fun l => insNat l die) }
/-- Stripes whose data pages are all there and whose parity page falls on a die. -/
def Channel.parityDue (x : Channel) (die : Nat) : Option Nat :=
  (List.find? (fun (e : Nat × List Nat) => x.parityDie e.1 == die && decide (x.dies ≤ e.2.length + 1)) x.stripes).map Prod.fst

/-! The ledger (R374 to R376). -/

/-- M_d. -/
def Channel.depth (x : Channel) (die : Nat) : Nat :=
  ceilDiv ((x.pend.filter (fun u => u.die == die)).length) 4 + (x.stripes.filter (fun e => x.parityDie e.1 == die)).length + 1
/-- M: the deepest die; 0 while no die is known. -/
def Dev.holdDepth (d : Dev) : Nat :=
  d.flash.ch.foldl (fun m e => ((List.range e.2.dies).map (fun i => e.2.depth i)).foldl max m) 0
/-- N. -/
def Dev.nativeProgs (d : Dev) : Nat := (d.flash.ch.map (fun e => (e.2.progs.filter (fun p => p.native)).length)).foldl (· + ·) 0
/-- The debt in µJ (R375). -/
def Dev.debtFor (d : Dev) (m n : Nat) : Nat :=
  if m = 0 then 0
  else d.fd R.holdupFixed 31 0 + d.fd R.holdupPower 15 0 * ((if 0 < n then d.fd R.holdupTprog 31 16 else 0) + d.fd R.holdupTprog 15 0 * m)
def Dev.holdDebt (d : Dev) : Nat := d.debtFor d.holdDepth d.nativeProgs
/-- HOLDUP_BUDGET as it reads. -/
def Dev.holdBudget (d : Dev) : Nat := min (d.fd R.holdupBudget 31 0) 30000000
/-- The debt stays within 80 % of the budget, with `n` more native programs. -/
def Dev.ledgerOk (d : Dev) (n : Nat := 0) : Bool :=
  d.holdBudget != 0 && decide (5 * d.debtFor d.holdDepth (d.nativeProgs + n) ≤ 4 * d.holdBudget)
/-- Work waits for the ledger (R376). -/
def Dev.ledgerWait (d : Dev) (c u : Nat) : Dev :=
  if d.flash.waiting.contains (c, u) then d
  else
    let was := d.flash.waiting.isEmpty
    let d : Dev := { d with flash := { d.flash with waiting := d.flash.waiting ++ [(c, u)] } }
    if was then d.setInt pgHoldup 0 else d
/-- It waits no longer. -/
def Dev.ledgerGo (d : Dev) (c u : Nat) : Dev := { d with flash := { d.flash with waiting := d.flash.waiting.erase (c, u) } }
/-- HOLDUP bank 0 position 2: the largest DEPTH. -/
def Dev.depthMark (d : Dev) : Dev :=
  if d.frozen pgHoldup then d else { d with cnts := Tab.set d.cnts (cntKey pgHoldup 0 2) (max (d.cnt pgHoldup 0 2) d.holdDepth) }

/-! Out of service (R373). -/

/-- Nothing of a channel stays queued or selected at its Rein instance. -/
def Dev.chanForget (d : Dev) (c : Nat) : Dev :=
  let d := (d.reinPull (chanRein c) (fun _ => true)).1
  d.setRein (chanRein c) { d.rein (chanRein c) with given := [] }
/-- Streams open on the Edger of a channel end, and their queries with them, for a cause of the channel's or the Edger's (R387, R391). -/
def Dev.edgerEnd (d : Dev) (c : Nat) (st : Status) : Dev :=
  match d.chan? c with
  | none => d
  | some x => (((x.edger.map (fun u => u.sid / 32768)).eraseDups).foldl (fun d k => d.queryEnd k st) d).bump (pgEdg c) 0 10 x.edger.length

/-- Take a channel out of service: nothing waits for its bus any more, and its Edger's streams end with TIER_FAIL (R373, R387). -/
def Dev.channelOut (d : Dev) (c cause : Nat) : Dev :=
  match d.chan? c with
  | some x =>
    if x.inService then
      let d := (d.chanForget c).edgerEnd c .tierFail
      (d.setChan c { (d.chan? c).getD x with inService := false, outCause := cause, reads := [], refresh := [] }).setInt pgCur 0
    else d
  | none => d

/-- A block is retired (R366), and with it, above 2 % of a die's good blocks, the channel (R373). -/
def Dev.blockRetire (d : Dev) (c k : Nat) : Dev :=
  match d.chan? c with
  | none => d
  | some x =>
    let die := k / 4096
    let n := Tab.getD x.retiredSince die 0 + 1
    let d := ((d.putChan c { x.setBlock k { x.block k with st := .retired } with retiredSince := Tab.set x.retiredSince die n }).setInt pgCur 1).bump pgCur 0 10
    if Tab.getD x.goodAt die 0 < 50 * n then d.channelOut c 5 else d

/-! Programs. -/

/-- Pending units of a die that no program holds. -/
def Channel.loose (x : Channel) (die : Nat) : List PendingUnit :=
  x.pend.filter (fun u => u.die == die && x.progs.all (fun p => !p.units.contains u.unit))

/-- Items of a program: a page at a time, under the function of the page's oldest unit (R307, R370); a parity page is background work. -/
def Dev.progItems (d : Dev) (c : Nat) (x : Channel) (p : Prog) : List ReinItem :=
  match p.parity with
  | some _ => [d.flashItem c p.die .program 0 16384 d.workCharge]
  | none => (List.range (ceilDiv p.units.length 4)).map (fun i =>
      let fn := ((p.units[4 * i]?).bind (fun u => x.pend.find? (fun w => w.unit == u))).map (fun w => w.fn)
      d.flashItem c p.die .program i 16384 { fn := fn })

/-- Start a program on an idle die (R367, R371, R376): a parity page that is due, else the die's oldest whole pages, one for each plane at
most, in the SLC buffer where it has an erased page and in a native block otherwise. -/
def Dev.progStart (d : Dev) (c die : Nat) : Dev :=
  match d.chan? c with
  | none => d
  | some x =>
    if !d.chanRuns c || x.progs.any (fun p => p.die == die) then d
    else match x.parityDue die with
      | some key =>
        (match d.openBlock x (3 + key / 2 ^ 24) die with
         | some (x, k) =>
           let p : Prog := { die := die, block := k, page := (x.block k).pages, native := false, parity := some key }
           (d.putChan c (({ x with progs := x.progs ++ [p] } : Channel).takePages k 1)).reinEnter (chanRein c) none (d.progItems c x p)
         | none => d)
      | none =>
        let n := min x.planes ((x.loose die).length / 4)
        if n = 0 then d
        else
          let set := if fbit (d.rg R.curCfg) 23 && (d.openBlock x 0 die).isSome then 0 else 1
          match d.openBlock x set die with
          | none => d
          | some (x, k) =>
            let n := min n (x.pagesOf set - (x.block k).pages)
            let us := ((x.loose die).take (4 * n)).map (fun u => u.unit)
            let x1 := (List.range n).foldl (fun (x : Channel) _ => x.stripeAdd set die) x
            let p : Prog := { die := die, block := k, page := (x.block k).pages, native := set == 1, units := us }
            let d1 := (d.putChan c (({ x1 with progs := x1.progs ++ [p] } : Channel).takePages k n)).reinEnter (chanRein c) none (d.progItems c x p)
            if d1.ledgerOk then (d1.ledgerGo c (2 ^ 48 + die)).depthMark else d.ledgerWait c (2 ^ 48 + die)

/-- Start what can start on every die of a channel. -/
def Dev.progAll (d : Dev) (c : Nat) : Dev :=
  match d.chan? c with
  | some x => (List.range x.dies).foldl (fun d i => d.progStart c i) d
  | none => d

/-- Map pages hold 1,024 entries of 32 bits (log entry 21). -/
def mapPage (u : Nat) : Nat := u / 1024
/-- A unit's map entry changes. -/
def Channel.mapSet (x : Channel) (now u loc : Nat) : Channel :=
  { x with map := Tab.set x.map u loc, dirty := if Tab.has x.dirty (mapPage u) then x.dirty else Tab.set x.dirty (mapPage u) now }

/-- Units whose valid copy lies in a block. -/
def Channel.unitsIn (x : Channel) (k : Nat) : List Nat := (x.map.filter (fun e => e.2 / 32768 == k)).map Prod.fst

/-- Each die keeps erased reserve pages for at least its depth: that counts in the acceptance of a write (R380). -/
def Channel.reserveOk (x : Channel) (die : Nat) : Bool := decide (x.depth die ≤ x.freeOn die * x.pagesOf 0)

/-- The Currier accepts a WRITE of one unit (R364, R374 to R376), or it waits: for its share of the write buffer, or for the ledger. A write
to a channel out of service is discarded (R373). -/
def Dev.curWrite (d : Dev) (c u : Nat) (b : List Byte) (fn : Nat) : Dev × Bool :=
  match d.chan? c with
  | none => (d, false)
  | some x =>
    if !x.inService && d.curState == 2 && d.runs pgCur && !d.flushing then (d, true)
    else if !d.chanRuns c then (d, false)
    else
      let share := min (max (d.fd R.curWbufLen 15 0) 48) 16384 * 256 / max d.part.channels 1
      let die := x.accepted / 4 % max x.dies 1
      let old := slice (Tab.getD x.data u []) 0 4096
      let x1 := { x with pend := (x.pend.filter (fun p => p.unit != u || x.progs.any (fun g => g.units.contains u))) ++ [{ unit := u, die := die, old := old, fn := fn }],
                         data := Tab.set x.data u (slice b 0 4096), lost := delNat x.lost u, accepted := x.accepted + 1, lastWrite := d.now }
      let d1 := d.setChan c x1
      if share ≤ x.pend.length then (d, false)
      else if !d1.ledgerOk || !x1.reserveOk die then (d.ledgerWait c u, false)
      else
        let d := (((d1.ledgerGo c u).bump pgCur 0 1).bump pgHoldup 0 0).depthMark
        (d.progStart c die, true)

/-! Moving units: folding, collection, refresh and rebuilding (R362, R367, R369, R372). -/

/-- A die on which a set can take a page, from the rotating start on. -/
def Dev.pageDie (d : Dev) (x : Channel) (set : Nat) : Option (Channel × Nat) :=
  ((List.range x.dies).map (fun i => (x.order + i) % max x.dies 1)).findSome? (fun i => d.openBlock x set i)

/-- Copy units into pages of a set, four to a page: the channel after, and the blocks that took them. -/
def Dev.copyUnits (d : Dev) (set now : Nat) : Nat → Channel → List Nat → List Nat → Option (Channel × List Nat)
  | 0, x, _, dest => some (x, dest)
  | n + 1, x, us, dest =>
    if us.isEmpty then some (x, dest)
    else match d.pageDie x set with
      | none => none
      | some (x, k) =>
        let pg := (x.block k).pages
        let x1 := ((us.take 4).zipIdx).foldl (fun (x : Channel) u => x.mapSet now u.1 (32768 * k + 4 * pg + u.2)) x
        Dev.copyUnits d set now n ((x1.stripeAdd set (k / 4096)).takePages k 1) (us.drop 4) (insNat dest k)

/-- Copy units to a set if the ledger lets the native programs start (R376). -/
def Dev.relocate (d : Dev) (c : Nat) (x : Channel) (set : Nat) (us : List Nat) : Option (Dev × Channel × List Nat) :=
  match d.copyUnits set d.now (us.length + 1) x us [] with
  | none => none
  | some (y, dest) => if us.isEmpty || (d.setChan c y).ledgerOk 1 then some (d, y, dest) else none

/-- A copy that cannot start waits for the ledger, where it is the ledger that holds it back and not the want of an erased page (R369, R376). -/
def Dev.relocWait (d : Dev) (c key : Nat) (x : Channel) (set : Nat) (us : List Nat) : Dev :=
  if (d.copyUnits set d.now (us.length + 1) x us []).isSome then d.ledgerWait c key else d

/-- Rewrite a unit to a new location as background work (R362), once a page and the ledger let it. -/
def Dev.refreshOne (d : Dev) (c lu : Nat) : Dev :=
  match d.chan? c with
  | none => d
  | some x =>
    if !d.chanRuns c then d
    else match Tab.find? x.map lu with
    | none => d.setChan c { x with refresh := delNat x.refresh lu }
    | some loc => match d.relocate c x 1 [lu] with
      | some (d, y, _) =>
        (((d.ledgerGo c (2 ^ 52 + lu)).putChan c { y with refresh := delNat y.refresh lu }).bump pgCur 0 6).reinEnter (chanRein c) none
          (d.pageItems c (loc / 32768 / 4096) (.rewrite lu) 0 4096 d.workCharge)
      | none => d.relocWait c (2 ^ 52 + lu) x 1 [lu]
/-- What may start on a channel starts: programs, and rewrites that waited. -/
def Dev.chanGo (d : Dev) (c : Nat) : Dev :=
  let d := d.progAll c
  match d.chan? c with
  | some x => x.refresh.foldl (fun d u => d.refreshOne c u) d
  | none => d

/-! The end of a program. -/

/-- What a program that has ended leaves: its stripe's parity is there, or its units have their place on the die. -/
def Channel.programmed (x : Channel) (now : Nat) (p : Prog) : Channel :=
  match p.parity with
  | some key => { x with stripes := Tab.del x.stripes key }
  | none =>
    let x := { x with pend := x.pend.filter (fun u => !p.units.contains u.unit) }
    (p.units.zipIdx).foldl (fun (x : Channel) u =>
      if Tab.has x.data u.1 then x.mapSet now u.1 (32768 * p.block + 4 * (p.page + u.2 / 4) + u.2 % 4) else x) x

/-- A program of a die ends after `ns` (R377), with a status failure when not `ok` (R366). -/
def Dev.programEnd (d : Dev) (c die ns : Nat) (ok : Bool) : Dev :=
  match d.chan? c with
  | none => d
  | some x =>
    match x.progs.find? (fun p => p.die == die) with
    | none => d
    | some p =>
      let us := ceilDiv ns 1000
      let f := if p.native then (31, 16) else (15, 0)
      let d := if d.fd R.holdupTprog f.1 f.2 < us then
          ((d.setFd R.holdupTprog f.1 f.2 (min us 65535)).setInt pgHoldup 1).bump pgHoldup 0 (if p.native then 4 else 3)
        else d
      let x := { x with progs := x.progs.erase p }
      if !ok then ((d.setChan c x).blockRetire c p.block).chanGo c
      else (d.setChan c (x.programmed d.now p)).chanGo c
/-- PROGRAM_DONE (R366, R370, R377): the program that the bus has taken ends. A flush runs outside Rein. -/
def programDoneOp (c die ns : Nat) (ok : Bool) (d : Dev) : Dev :=
  match (d.chan? c).bind (fun x => (x.progs.find? (fun p => p.die == die)).map (fun p => (x, p))) with
  | none => d
  | some (x, p) => if d.flushing then d.programEnd c die ns ok else d.viaRein (chanRein c) none (d.progItems c x p) fun d => d.programEnd c die ns ok
def execProgramDone (channel die ns : Nat) (ok : Bool) (s : State) : Host.Outcome State Fault Refusal :=
  onUnit (fun d => decide (channel < d.part.channels) && decide (die < 16)) (programDoneOp channel die ns ok) s

/-! Folding, collection, erasing and verification (R366, R367, R369, R372). -/

/-- The block a fold takes: the oldest full block of the buffer, on an idle channel an open one too (R367). -/
def Channel.foldPick (x : Channel) (idle : Bool) : Option (Nat × Block) :=
  (x.blocks.filter (fun e => e.2.set == 0 && !e.2.emptied && (e.2.st == .full || e.2.st == .verified || (idle && e.2.st == .opened)) &&
    x.progs.all (fun p => p.block != e.1))).foldl (fun (b : Option (Nat × Block)) e => match b with
      | none => some e
      | some y => if e.2.openedAt < y.2.openedAt then some e else some y) none

/-- The buffer of a channel has had no accepted write for 10 ms (R367). -/
def Dev.foldIdle (d : Dev) (x : Channel) : Bool := decide (x.lastWrite + msCycles 10 ≤ d.now)

/-- FOLD_START (R367): buffer use above FOLD_START percent, or 10 ms without an accepted write. Folding takes the oldest full block of the
buffer, or on an idle channel the oldest one. -/
def foldStartOp (c : Nat) (d : Dev) : Dev :=
  match d.chan? c with
  | none => d
  | some x =>
    if !d.chanRuns c || !(d.foldIdle x || decide (d.nSlc x * d.fd R.curGc 15 8 < 100 * x.slcUsed)) then d.ledgerGo c (2 ^ 49)
    else match x.foldPick (d.foldIdle x) with
      | none => d
      | some (k, _) =>
        let us := x.unitsIn k
        match d.relocate c x 1 us with
        | none => d.relocWait c (2 ^ 49) x 1 us
        | some (d, y, dest) =>
          let b := y.block k
          d.viaRein (chanRein c) none (d.copyItems c k x us (.fold k)) fun d =>
          ((d.ledgerGo c (2 ^ 49)).putChan c (y.setBlock k { b with dest := dest, emptied := true, st := if b.st == .opened then .full else b.st })).bump pgCur 0 7 us.length
def execFoldStart (channel : Nat) (s : State) : Host.Outcome State Fault Refusal :=
  onUnit (fun d => decide (channel < d.part.channels)) (foldStartOp channel) s

/-- The block garbage collection takes on a die: the closed native block with the fewest valid units, the older on a tie (R369). -/
def Channel.gcPick (x : Channel) (die : Nat) : Option (Nat × Block) :=
  let key := fun (e : Nat × Block) => 2 ^ 40 * (x.unitsIn e.1).length + e.2.openedAt
  (x.blocks.filter (fun e => e.1 / 4096 == die && (e.2.set == 1 || e.2.set == 2) && !e.2.emptied &&
    (e.2.st == .full || e.2.st == .verified))).foldl (fun (b : Option (Nat × Block)) e => match b with
      | none => some e
      | some y => if key e < key y then some e else some y) none

/-- GC_START (R369): a die with fewer than GC_START free blocks. -/
def gcStartOp (c die : Nat) (d : Dev) : Dev :=
  match d.chan? c with
  | none => d
  | some x =>
    if !d.chanRuns c || decide (x.dies ≤ die) || decide (d.fd R.curGc 7 0 ≤ x.freeOn die) then d.ledgerGo c (2 ^ 50 + die)
    else match x.gcPick die with
      | none => d
      | some (k, _) =>
        let us := x.unitsIn k
        match d.relocate c x 2 us with
        | none => d.relocWait c (2 ^ 50 + die) x 2 us
        | some (d, y, dest) =>
          d.viaRein (chanRein c) (if d.gcLow x then some 3 else none) (d.copyItems c k x us (.collect k)) fun d =>
          ((d.ledgerGo c (2 ^ 50 + die)).putChan c (y.setBlock k { y.block k with dest := dest, emptied := true })).bump pgCur 0 8 us.length
def execGcStart (channel die : Nat) (s : State) : Host.Outcome State Fault Refusal :=
  onUnit (fun d => decide (channel < d.part.channels) && decide (die < 16)) (gcStartOp channel die) s

/-- Every copy of a block's units has been verified. -/
def Channel.copiesSafe (x : Channel) (b : Block) : Bool :=
  b.dest.all (fun k => (x.block k).st == .verified || (x.block k).st == .free || (x.block k).emptied)

/-- A block may be erased: emptied with its copies verified, or a parity block none of whose data blocks is unverified; no read of it is
outstanding (R364, R367, R369, R372). -/
def Channel.erasable (x : Channel) (k : Nat) : Bool :=
  let b := x.block k
  (b.st == .full || b.st == .verified) && x.reads.all (fun r => r.block != some k) && x.progs.all (fun p => p.block != k) &&
  (if 3 ≤ b.set then
    x.blocks.all (fun e => e.2.set + 3 != b.set || !(e.2.st == .opened || e.2.st == .full) || decide (b.fullAt < e.2.openedAt))
   else b.emptied && x.copiesSafe b && (x.unitsIn k).isEmpty)

/-- ENDURANCE × 16 of the die profile (R357, R366). -/
def Dev.endurance (d : Dev) : Nat := d.peekN (4096 * (d.addr52 R.curProfileLo R.curProfileHi / 4096) + 30) 2 * 16

/-- ERASE_DONE (R366): a block that may be erased has been; a status failure, or its last rated cycle, retires it. -/
def eraseDoneOp (c die blk : Nat) (ok : Bool) (d : Dev) : Dev :=
  let k := 4096 * die + blk
  match d.chan? c with
  | none => d
  | some x =>
    if !d.chanRuns c || !x.erasable k then d
    else d.viaRein (chanRein c) none [d.flashItem c die (.erase k) 0 64 d.workCharge] fun d =>
    if !ok then d.blockRetire c k
    else
      let n := (x.block k).erases + 1
      let d := (d.putChan c (x.setBlock k { st := .free, erases := n })).bump pgCur 0 9
      if d.endurance ≤ n then d.blockRetire c k else d.chanGo c
def execEraseDone (channel die block : Nat) (ok : Bool) (s : State) : Host.Outcome State Fault Refusal :=
  onUnit (fun d => decide (channel < d.part.channels) && decide (die < 16) && decide (block < 4096)) (eraseDoneOp channel die block ok) s

/-- BLOCK_VERIFY (R372): a full block has been read back; `bad` lists its codewords (4 × page + codeword) that did not decode at step 1 within
VERIFY_BITS. Their units are rebuilt and rewritten elsewhere, and the block is retired. -/
def blockVerifyOp (c die blk : Nat) (bad : List Nat) (d : Dev) : Dev :=
  let k := 4096 * die + blk
  match d.chan? c with
  | none => d
  | some x =>
    let b := x.block k
    if !x.inService || !(d.curState == 1 || d.curState == 2) || !d.runs pgCur || d.flushing || b.st != .full || decide (3 ≤ b.set) then d
    else d.viaRein (chanRein c) none (d.pageItems c die (.verify k) 0 (16384 * b.pages) d.workCharge) fun d =>
    if bad.isEmpty then (d.setChan c (x.setBlock k { b with st := .verified })).bump pgCur 0 11
    else
      let us := (x.map.filter (fun e => e.2 / 32768 == k && bad.contains (e.2 % 32768))).map Prod.fst
      match d.relocate c x 1 us with
      | none => d.relocWait c (2 ^ 51) x 1 us
      | some (d, y, _) => ((d.ledgerGo c (2 ^ 51)).setChan c y).bump pgCur 0 4 bad.length |>.blockRetire c k
def execBlockVerify (channel die block : Nat) (bad : List Nat) (s : State) : Host.Outcome State Fault Refusal :=
  onUnit (fun d => decide (channel < d.part.channels) && decide (die < 16) && decide (block < 4096)) (blockVerifyOp channel die block bad) s

/-- MAP_WRITEBACK (R365): a dirty map page is written back. -/
def mapWritebackOp (c page : Nat) (d : Dev) : Dev :=
  match d.chan? c with
  | none => d
  | some x =>
    if d.chanRuns c && Tab.has x.dirty page then
      d.viaRein (chanRein c) none [d.flashItem c (page % max x.dies 1) (.map page) 0 4096 d.workCharge] fun d =>
      (d.setChan c { x with dirty := Tab.del x.dirty page, stale := x.stale.filter (fun e => mapPage e.1 != page) }).bump pgCur 0 12
    else d
def execMapWriteback (channel page : Nat) (s : State) : Host.Outcome State Fault Refusal :=
  onUnit (fun d => decide (channel < d.part.channels)) (mapWritebackOp channel page) s

/-- ZQ_CALIBRATION (R358): every ZQ_MS on an idle die. -/
def zqCalibrationOp (c die : Nat) (d : Dev) : Dev :=
  match d.chan? c with
  | none => d
  | some x =>
    let idle := x.progs.all (fun p => p.die != die) && x.reads.all (fun r => r.decoded || (match r.block with
      | some k => k / 4096 != die
      | none => true))
    if d.chanRuns c && die < x.dies && idle && decide (Tab.getD x.zqAt die 0 + msCycles (max (d.fd R.curOnfi 15 8) 1) ≤ d.now) then
      d.viaRein (chanRein c) none [d.flashItem c die .calibrate 0 64 d.workCharge] fun d => d.setChan c { x with zqAt := Tab.set x.zqAt die d.now }
    else d
def execZqCalibration (channel die : Nat) (s : State) : Host.Outcome State Fault Refusal :=
  onUnit (fun d => decide (channel < d.part.channels) && decide (die < 16)) (zqCalibrationOp channel die) s

/-- DIE_TIMEOUT (R373). -/
def dieTimeoutOp (c : Nat) (d : Dev) : Dev := d.channelOut c 4
def execDieTimeout (channel : Nat) (s : State) : Host.Outcome State Fault Refusal :=
  onUnit (fun d => decide (channel < d.part.channels)) (dieTimeoutOp channel) s

/-- CHANNEL_OFFLINE: CUR_CH_CTL.OFFLINE takes the channel that CUR_CH_SEL names out of service (R373, R389). -/
def channelOfflineOp (d : Dev) : Dev := d.channelOut (d.fd R.curChSel 5 0) 6
def execChannelOffline (s : State) : Host.Outcome State Fault Refusal := onDev channelOfflineOp s

/-! Bring-up, format and restart (R356, R359, R363, R382, R389). -/

/-- The die profile agrees with the dies of channel 0 (R357). -/
def Dev.profileOk (d : Dev) (p : FlashProbe) : Bool :=
  let a := 4096 * (d.addr52 R.curProfileLo R.curProfileHi / 4096)
  d.peek a 2 == [1, p.mfr] && d.peek (a + 4) 20 == slice p.model 0 20
/-- Population rules of R356. -/
def Dev.populationOk (d : Dev) (p : FlashProbe) : Bool :=
  p.uniform && p.onfi && decide (4 ≤ p.dies) && decide (p.dies ≤ 16) && p.dies % 2 == 0 && p.pageBytes == 16384 && decide (2048 ≤ p.spareBytes) &&
  decide (2 ≤ p.planes) && decide (p.planes ≤ 6) && decide (p.blocksPerDie ≤ 4096) && decide (p.pagesPerBlock ≤ 8192) &&
  (match d.chan? 0 with
   | some z => !z.up || (z.dies == p.dies && z.ident == p.mfr :: slice p.model 0 20 && z.planes == p.planes && z.blocksPerDie == p.blocksPerDie &&
       z.pagesPerBlock == p.pagesPerBlock && z.qlc == p.qlc && z.twoTbit == p.twoTbit)
   | none => true)

/-- Every channel has been brought up: STATE follows from the format records (R389). -/
def Dev.formatState (d : Dev) : Dev :=
  let xs := (Tab.vals d.flash.ch).filter (fun x => x.inService && x.fmtSeq != 0)
  if xs.isEmpty then d.setCurState 0
  else
    let q := (xs.map (fun x => x.fmtSeq)).foldl max 0
    let d := (Tab.keys d.flash.ch).foldl (fun d c => match d.chan? c with
      | some x => if x.inService && x.fmtSeq != q then d.channelOut c 7 else d
      | none => d) d
    ({ d with flash := { d.flash with fmtSeq := q } } : Dev).setCurState 1

/-- Channel c has been brought up. -/
def Dev.chanUp (d : Dev) (c : Nat) : Bool :=
  match d.chan? c with
  | some z => z.up
  | none => false

/-- Cause of a channel that is out of service from its bring-up, 0 for none (R357, R359). -/
def Dev.bringupCause (d : Dev) (c : Nat) (p : FlashProbe) : Nat :=
  let prof := if c = 0 then d.profileOk p else match d.chan? 0 with
    | some z => z.outCause != 1
    | none => false
  let rate := min (d.fd R.curOnfi 1 0) p.maxRate
  let trained := p.fails = 0 || (p.fails = 1 && decide (0 < rate))
  if !prof then 1 else if !d.populationOk p then 2 else if !trained then 3 else 0

/-- A channel as its bring-up finds it. -/
def Dev.chanFound (d : Dev) (c : Nat) (p : FlashProbe) : Channel :=
  let x := Tab.getD d.flash.ch c {}
  let rate := min (d.fd R.curOnfi 1 0) p.maxRate
  let bad := p.badBlocks.foldl (fun (t : Tab Block) b => Tab.set t (4096 * b.1 + b.2) { st := .retired }) x.blocks
  { x with up := true, ident := p.mfr :: slice p.model 0 20, inService := d.bringupCause c p == 0, outCause := d.bringupCause c p, dies := p.dies,
           qlc := p.qlc, twoTbit := p.twoTbit, planes := p.planes, blocksPerDie := p.blocksPerDie, pagesPerBlock := p.pagesPerBlock,
           rate := if p.fails = 1 then rate - 1 else rate, blocks := bad }

/-- BUS_BRINGUP (R357, R359): channel 0 comes first, whose dies the others are compared with. -/
def busBringupOp (c : Nat) (p : FlashProbe) (d : Dev) : Dev :=
  if (Tab.getD d.flash.ch c {}).up || !d.runs pgCur || (c != 0 && !d.chanUp 0) then d
  else
    let cause := d.bringupCause c p
    let prof := c = 0 && d.profileOk p
    let d := d.setChan c (d.chanFound c p)
    let d := if cause = 0 then d else d.setInt pgCur 0
    let a := 4096 * (d.addr52 R.curProfileLo R.curProfileHi / 4096)
    let d := if prof then d.setRg R.holdupTprog (w32 (d.peekN (a + 24) 2 + 65536 * d.peekN (a + 26) 2)) else d
    if (List.range d.part.channels).all (fun i => d.chanUp i) then d.formatState else d
def execBusBringup (channel : Nat) (probe : FlashProbe) (s : State) : Host.Outcome State Fault Refusal :=
  onUnit (fun d => decide (channel < d.part.channels)) (busBringupOp channel probe) s

/-- CURRIER_READY (R382): the power-fail records have been read and the open sets found have been closed and verified. -/
def currierReadyOp (d : Dev) : Dev :=
  let left := (Tab.vals d.flash.ch).any (fun x => x.inService && x.blocks.any (fun e => decide (e.2.set < 3) && e.2.st == .full && !e.2.emptied))
  if d.curState != 1 || left || !d.runs pgCur then d
  else
    let d := match d.flash.record with
      | some (us, debt) => (((d.setRg R.holdupLastUs (w32 us)).setRg R.holdupLastDebt (w32 debt)).bump pgHoldup 0 5)
      | none => d
    let d := if d.flash.recordMissing then d.setInt pgHoldup 2 else d
    ({ d with flash := { d.flash with record := none, recordMissing := false } } : Dev).setCurState 2
def execCurrierReady (s : State) : Host.Outcome State Fault Refusal := onDev currierReadyOp s

/-- FORMAT_START: CUR_FMT.START, ignored unless the TACK page is disabled (R389). -/
def formatStartOp (d : Dev) : Dev :=
  if d.enabled pgTack || !d.runs pgCur || d.flushing || !(d.curState == 0 || d.curState == 2) then d
  else (d.setFd R.curFmt 31 31 1).setCurState 3
def execFormatStart (s : State) : Host.Outcome State Fault Refusal := onDev formatStartOp s

/-- OP_PCT as it is used. -/
def Dev.opPct (d : Dev) : Nat := min (max (d.fd R.curFmt 5 0) 7) 50
/-- LU_COUNT at a format (R363). -/
def Dev.luCount (d : Dev) (x : Channel) : Nat :=
  (x.good - x.dies * d.curRes - x.dies * 3) * (x.pagesPerBlock * 4) * (100 - d.opPct) / 100

/-- A channel after a format: every good block erased and free, its logical space empty, erase counts and retired blocks kept. -/
def Dev.formatted (d : Dev) (x : Channel) (q : Nat) : Channel :=
  let keys := ((List.range x.dies).map (fun i => (List.range x.blocksPerDie).map (fun b => 4096 * i + b))).flatten
  let blocks := keys.map (fun k => (k, if (x.block k).st == .retired then x.block k else { st := .free, erases := (x.block k).erases + 1 }))
  let goodAt := (List.range x.dies).map (fun i => (i, x.blocksPerDie - (x.blocks.filter (fun e => e.1 / 4096 == i && e.2.st == .retired)).length))
  { x with inService := true, outCause := 0, fmtSeq := q, luCount := d.luCount x, blocks := blocks, data := [], lost := [], map := [], stale := [], dirty := [],
           pend := [], stripes := [], setPos := [], progs := [], reads := [], refresh := [], goodAt := goodAt, retiredSince := [] }

/-- FMT_DONE (R389). -/
def fmtDoneOp (d : Dev) : Dev :=
  if d.curState != 3 then d
  else
    let q := d.flash.fmtSeq + 1
    let ch := d.flash.ch.map (fun e => if e.2.inService || e.2.outCause == 7 then (e.1, d.formatted e.2 q) else e)
    let n := (ch.map (fun e => if e.2.fmtSeq = q then e.2.good else 0)).foldl (· + ·) 0
    let d := (Tab.keys d.flash.ch).foldl (fun d c => d.chanForget c) d
    let d : Dev := { d with flash := { d.flash with ch := ch, fmtSeq := q, waiting := [] } }
    (((d.setFd R.curFmt 31 31 0).setCurState 2).setInt pgCur 4).bump pgCur 0 9 n
def execFmtDone (s : State) : Host.Outcome State Fault Refusal := onDev fmtDoneOp s

/-- Units accepted and not programmed when a channel restarts: what they read as then (R365, R382). `kept` says that a flush programmed them;
`lost` that a flush did not reach its end. -/
def Channel.replayUnits (x : Channel) (kept lost : Bool) : Channel :=
  if kept then x
  else if lost then { x with lost := x.pend.foldl (fun l u => insNat l u.unit) x.lost }
  else { x with data := (x.pend.reverse).foldl (fun t u => if u.old.all (fun b => b == 0) then Tab.del t u.unit else Tab.set t u.unit u.old) x.data }

/-- A channel whose format did not run to its end: no record, no logical space, nothing in it (R389). -/
def Channel.unformatted (x : Channel) : Channel :=
  { x with fmtSeq := 0, luCount := 0, data := [], lost := [], map := [], stale := [], dirty := [], pend := [], stripes := [], progs := [], reads := [], refresh := [],
           edger := [], blocks := x.blocks.map (fun e => (e.1, if e.2.st == .retired then e.2 else { st := .free, erases := e.2.erases })) }

/-- A channel at a restart: nothing in flight; open blocks closed; a unit deallocated since its page's write-back reads as zeros or with its
old contents (R364, R365, R382). -/
def Dev.chanRestart (d : Dev) (c : Nat) (x : Channel) (kept lost fmt : Bool) : Channel :=
  if fmt then { x.unformatted with up := false, inService := false, outCause := 0 }
  else
    let x := x.replayUnits kept lost
    let back := x.stale.filter (fun e => Config.free [d.draws, 410, c, e.1] % 2 == 1)
    { x with up := false, inService := false, outCause := 0, pend := [], progs := [], reads := [], refresh := [], edger := [], dirty := [], stale := [],
             stripes := [], accepted := 0, lastWrite := 0, zqAt := [],
             data := back.foldl (fun t e => if Tab.has t e.1 then t else Tab.set t e.1 e.2) x.data,
             blocks := x.blocks.map (fun e => (e.1, if e.2.st == .opened then { e.2 with st := .full } else e.2)) }

/-- The Currier at a restart: the flash keeps what it held (R382, R389). -/
def Dev.flashRestart (d : Dev) : Flash :=
  let kept := d.flash.record.isSome && d.curState == 4
  let lost := d.flushing && !kept
  { ch := d.flash.ch.map (fun e => (e.1, d.chanRestart e.1 e.2 kept lost (d.curState == 3))), fmtSeq := d.flash.fmtSeq,
    record := if kept then d.flash.record else none, recordMissing := lost || (kept && d.flash.recordMissing) }

/-! READ and DEALLOCATE (R361, R362, R364). -/

/-- Whose the READ of a unit is: the first access that waits for it (R370). -/
def Dev.readCharge (d : Dev) (o u : Nat) : Charge :=
  match d.tack.waits.find? (fun w => w.obj == o && w.unit == u) with
  | some w => d.chargeOf w.who.buf
  | none => {}
/-- Item of an outstanding READ. -/
def Dev.readItems (d : Dev) (c : Nat) (r : FlashRead) : List ReinItem :=
  match r.block with
  | some k => [d.flashItem c (k / 4096) (.read r.obj r.ounit) 0 4096 (d.readCharge r.obj r.ounit)]
  | none => []

/-- CURRIER_READ: the READ of one unit that a staging miss asks for binds its physical location (R364). A unit never written reads as zeros
without a media access (R363). -/
def currierReadOp (o u : Nat) (d : Dev) : Dev :=
  let e := d.boundObj o 3
  let c := e.loc / 2 ^ 48
  match d.chan? c with
  | none => d
  | some x =>
    if !d.chanRuns c || e.primary != 3 || !d.tack.waits.any (fun w => w.obj == o && w.unit == u) || x.reads.any (fun r => r.obj == o && r.ounit == u) then d
    else
      let lu := e.loc % 2 ^ 48 + u
      let loc := Tab.find? x.map lu
      let r : FlashRead := { obj := o, ounit := u, lu := lu, block := loc.map (fun l => l / 32768), decoded := loc.isNone }
      let who := d.readCharge o u
      let d := d.reinForget (chanRein c) (.flash 0 (.read o u) 0)
      ((d.setChan c { x with reads := x.reads ++ [r] }).bump pgCur 0 0).reinEnter (chanRein c) who.strict (d.readItems c r)
def execCurrierRead (obj unit : Nat) (s : State) : Host.Outcome State Fault Refusal := onDev (currierReadOp obj unit) s

/-- READ_DECODE: the codeword of an outstanding READ has been decoded. `step` is the step of R361 that yielded it, 5 when none did; `bits` the
bits corrected. Step 4 needs a block that is open or not yet verified; a unit so read, or read beyond REFRESH_BITS, is rewritten (R362). -/
def readDecodeOp (c lu step bits : Nat) (d : Dev) : Dev :=
  match d.chan? c with
  | none => d
  | some x =>
    match x.reads.find? (fun r => r.lu == lu && !r.decoded) with
    | none => d
    | some r =>
      d.viaRein (chanRein c) (d.readCharge r.obj r.ounit).strict (d.readItems c r) fun d =>
      let open_ := match r.block with
        | some k => (x.block k).st == .opened || (x.block k).st == .full
        | none => false
      let x := { x with reads := x.reads.map (fun q => if q.lu == lu then { q with decoded := true } else q) }
      let d := if 2 ≤ step then d.bump pgCur 0 3 else d
      let fail := 5 ≤ step || (step = 4 && !open_)
      if fail then (d.setChan c { x with lost := insNat x.lost lu }).bump pgCur 0 5
      else
        let d := if step = 4 then d.bump pgCur 0 4 else d
        if 2 ≤ step || decide (d.fd R.curLdpc 15 8 < bits) then (d.setChan c { x with refresh := insNat x.refresh lu }).refreshOne c lu
        else d.setChan c x
def execReadDecode (channel lu step bits : Nat) (s : State) : Host.Outcome State Fault Refusal :=
  onUnit (fun d => decide (channel < d.part.channels)) (readDecodeOp channel lu step bits) s

/-- Empty a run of units. -/
def Channel.deallocate (x : Channel) (now start n : Nat) : Channel :=
  let inr := fun (u : Nat) => decide (start ≤ u) && decide (u < start + n)
  let gone := x.data.filter (fun e => inr e.1)
  { x with data := x.data.filter (fun e => !inr e.1), map := x.map.filter (fun e => !inr e.1), lost := x.lost.filter (fun u => !inr u), refresh := x.refresh.filter (fun u => !inr u),
           pend := x.pend.filter (fun p => !inr p.unit || x.progs.any (fun g => g.units.contains p.unit)),
           stale := gone.foldl (fun t e => Tab.set t e.1 e.2) x.stale,
           dirty := gone.foldl (fun t e => if Tab.has t (mapPage e.1) then t else Tab.set t (mapPage e.1) now) x.dirty }

/-- DEALLOCATE: the oldest storage that the Tack room has freed on a channel (R364). -/
def deallocateOp (c : Nat) (d : Dev) : Dev :=
  match d.tack.deallocs.find? (fun a => a.pool == .flash c), d.chan? c with
  | some a, some x =>
    if d.curState == 2 && d.runs pgCur && !d.flushing then
      let d : Dev := { d with tack := { d.tack with deallocs := d.tack.deallocs.erase a } }
      (d.setChan c (x.deallocate d.now (16 * a.start) (16 * a.len))).bump pgCur 0 2 (16 * a.len)
    else d
  | _, _ => d
def execDeallocate (channel : Nat) (s : State) : Host.Outcome State Fault Refusal :=
  onUnit (fun d => decide (channel < d.part.channels)) (deallocateOp channel) s

end Sys2Proof.Machine
end

