-- ==== Sys2Proof/Machine/Filter.lean ====
section
/-! DEFINITION. Filter programs: their check and their verdict on a row (R126 to R128). -/

namespace Sys2Proof.Machine
open Sys2Proof

/-- Fields of an instruction (R126). -/
def fOp (i : List Byte) : Nat := leAt i 0 1
def fField (i : List Byte) : Nat := leAt i 1 1
def fType (i : List Byte) : Nat := leAt i 2 1
def fImm (i : List Byte) : Nat := leAt i 4 4

/-- The instructions of a program. -/
def filterInstrs (prog : List Byte) : List (List Byte) := (List.range (prog.length / 8)).map (fun k => slice prog (8 * k) 8)

/-- It reads a field: a comparison, ANY or ALL (R127). -/
def fReads (op : Nat) : Bool := (decide (0x10 ≤ op) && decide (op ≤ 0x15)) || op == 0x18 || op == 0x19
/-- Operands it takes from the stack. -/
def fNeeds (op : Nat) : Nat := if op = 0x20 || op = 0x21 then 2 else if op = 0x22 || op = 0 then 1 else 0
/-- Values it leaves in their place. -/
def fPushes (op : Nat) : Nat := if op = 0 then 0 else 1

/-- An instruction's own fields are legal (R128). -/
def filterInstrOk (fields : Nat) (i : List Byte) : Bool :=
  let op := fOp i
  leAt i 3 1 == 0 && decide (fType i ≤ 2) &&
  (if fReads op then decide (fField i < fields) && !((op == 0x18 || op == 0x19) && fType i != 0)
   else (op == 0 || op == 1 || op == 0x20 || op == 0x21 || op == 0x22) && fField i == 0 && fType i == 0 && fImm i == 0)

/-- Depth after the instructions, `none` where R128 fails. -/
def filterDepth : List (List Byte) → Nat → Bool
  | [], _ => false
  | i :: rest, n =>
    let op := fOp i
    if op = 0 then rest.isEmpty && n == 1
    else decide (fNeeds op ≤ n) && decide (n - fNeeds op + fPushes op ≤ 8) && filterDepth rest (n - fNeeds op + fPushes op)

/-- R128. -/
def filterOk (prog : List Byte) (fields : Nat) : Bool :=
  (filterInstrs prog).all (filterInstrOk fields) && filterDepth (filterInstrs prog) 0

/-- Order of a field and an immediate under TYPE: less, equal; both false for an unordered pair. -/
def filterOrder (typ : Nat) (a b : Word) : Bool × Bool :=
  if typ = 2 then ((val32 a).lt (val32 b), (val32 a).eqv (val32 b))
  else if typ = 1 then (a.slt b, a == b) else (a.ult b, a == b)

/-- A comparison: EQ, NE, LT, LE, GT, GE. -/
def filterCmp (op typ : Nat) (a b : Word) : Bool :=
  let (lt, eq) := filterOrder typ a b
  let nan := typ == 2 && ((val32 a).isNan || (val32 b).isNan)
  match op with
  | 0x10 => eq
  | 0x11 => !eq
  | 0x12 => lt
  | 0x13 => lt || eq
  | 0x14 => !lt && !eq && !nan
  | _ => !lt && !nan

/-- Run a program on a row. -/
def filterGo (row : List Word) : List (List Byte) → List Bool → Bool
  | [], st => st.headD false
  | i :: rest, st =>
    let op := fOp i
    let a := row.getD (fField i) 0
    let b := w32 (fImm i)
    let x := st.headD false
    let y := (st.drop 1).headD false
    if op = 0 then x
    else if op = 1 then filterGo row rest (true :: st)
    else if op = 0x18 then filterGo row rest (((a &&& b) != 0) :: st)
    else if op = 0x19 then filterGo row rest (((a &&& b) == b) :: st)
    else if op = 0x20 then filterGo row rest ((y && x) :: st.drop 2)
    else if op = 0x21 then filterGo row rest ((y || x) :: st.drop 2)
    else if op = 0x22 then filterGo row rest ((!x) :: st.drop 1)
    else filterGo row rest (filterCmp op (fType i) a b :: st)

/-- The verdict of a program on a row. -/
def filterVerdict (prog : List Byte) (row : List Word) : Bool := filterGo row (filterInstrs prog) []

end Sys2Proof.Machine
end

