-- ==== Sys2Proof/Machine/Keeper.lean ====
section
/-! DEFINITION. Keepers and Lacing: chains, insertion, merge passes and tie accounting (R164 to R184). -/

namespace Sys2Proof.Machine
open Sys2Proof

/-- What becomes of a candidate at the gate (R168). -/
inductive KEvent where
  | badKey | above | atLast | inserted | evicted
deriving DecidableEq, Repr

/-- Insert after every held entry whose key is at or below the candidate's. -/
def insCand (c : Cand) : List Cand → List Cand
  | [] => [c]
  | e :: t => if e.key ≤ c.key then e :: insCand c t else c :: e :: t

/-- keeper_insert of R168: held entries, TIE_TAIL and what happened. -/
def keeperInsert (limit : Nat) (l : List Cand) (tie : Nat) (c : Cand) : List Cand × Nat × KEvent :=
  if c.key = 0xFFFFFFFF then (l, tie, .badKey)
  else
    let last := (l.getLast?.map (fun (e : Cand) => e.key)).getD 0xFFFFFFFF
    if l.length = limit && decide (last < c.key) then (l, tie, .above)
    else if l.length = limit && last == c.key then (l, sat 16 (tie + 1), .atLast)
    else
      let m := insCand c l
      if m.length ≤ limit then (m, tie, .inserted)
      else
        let ev := (m.getLast?.map (fun (e : Cand) => e.key)).getD 0
        let m' := m.dropLast
        let now := (m'.getLast?.map (fun (e : Cand) => e.key)).getD 0
        (m', if ev = now then sat 16 (tie + 1) else 0, .evicted)

/-- What the gate does with a candidate that R168 rejects as the chain stands: it uses its gate slot and no place in the queue (R169). -/
def gateRejects (limit : Nat) (l : List Cand) (tie : Nat) (c : Cand) : Option (Nat × KEvent) :=
  match keeperInsert limit l tie c with
  | (_, t, .badKey) => some (t, .badKey)
  | (_, t, .above) => some (t, .above)
  | (_, t, .atLast) => some (t, .atLast)
  | _ => none

/-- Keeper counters of what became of a candidate (R183). -/
def Dev.kprCount (d : Dev) (k : Nat) (e : KEvent) : Dev :=
  match e with
  | .badKey => (d.bump (pgKpr k) 0 5).setInt (pgKpr k) 0
  | .above => d.bump (pgKpr k) 0 2
  | .atLast => d.bump (pgKpr k) 0 3
  | .inserted => d.bump (pgKpr k) 0 1
  | .evicted => (d.bump (pgKpr k) 0 1).bump (pgKpr k) 0 4

/-! The function a query works for: the index of its requests at arbiters whose chapter names none (R469). -/

/-- Its search's. -/
def Dev.queryFn (d : Dev) (k : Nat) : Nat := d.sidFn (k / 256)

/-- R469 among requests, each of the query `q` gives: the function it serves, and of that function the first in the list. -/
def Dev.fnPick (d : Dev) (l : List Nat) (q : Nat → Nat) (ptr : Nat) : Option Nat × Nat :=
  let r := rotatePickL (l.map (fun x => d.queryFn (q x))) ptr 1024
  (r.1.bind (fun f => l.find? (fun x => d.queryFn (q x) == f)), r.2)

/-! Chains (R165, R166). -/

/-- Segments of the smallest chain for a limit. -/
def segsFor (limit : Nat) : Nat :=
  if limit ≤ 64 then 1 else if limit ≤ 128 then 2 else if limit ≤ 256 then 4 else if limit ≤ 512 then 8 else if limit ≤ 1024 then 16
  else if limit ≤ 2048 then 32 else 64

/-- Chains held in Keeper k: first segment, segments. -/
def Dev.chainsIn (d : Dev) (k : Nat) : List (Nat × Nat) :=
  (Tab.vals d.srch.streams).filterMap (fun s => match s.chain with
    | some (kk, f, n) => if kk = k then some (f, n) else none
    | none => none) ++
  (Tab.vals d.srch.queries).filterMap (fun q => match q.chain with
    | some (kk, f, n) => if kk = k then some (f, min n 32) else if n = 64 && kk + 1 = k then some (0, 32) else none
    | none => none)
/-- First segments where a chain of n segments could stand. -/
def Dev.chainRoom (d : Dev) (k n : Nat) : List Nat :=
  let held := d.chainsIn k
  ((List.range (32 / n)).map (fun i => i * n)).filter (fun f => held.all (fun h => decide (h.1 + h.2 ≤ f) || decide (f + n ≤ h.1)))

/-- Its centroid keys come from a GEMM that queries of one batch share (R136). -/
def Search.shares (s : Search) : Bool := s.batch && !cGraph s.image

/-- A query's coarse selection asks for a chain: of how many segments. One that shares a GEMM asks once its keys are there. -/
def coarseAsk (s : Search) (y : Query) : Option Nat :=
  if y.phase == .coarse && !y.coarseDone && y.chain.isNone && !s.fanout && (!s.shares || y.probe.isSome) then some (segsFor s.nprobe) else none

/-- Keepers on which a coarse selection of core c waits for a chain of `n` segments: for one of 64 both at once (R166, R173). -/
def coarseKeepers (c n : Nat) : List Nat := if n = 64 then [2 * c, 2 * c + 1] else [2 * c]
/-- Requests for 32- and 64-segment chains that Keeper k has: segments, and when they were made (R166). -/
def Dev.wideAsks (d : Dev) (k : Nat) : List (Nat × Nat) :=
  d.srch.queries.filterMap (fun e => if e.2.core != k / 2 then none else
    match (d.search? (e.1 / 256)).bind (fun s => coarseAsk s e.2) with
    | some n => if n = 64 || (n = 32 && k % 2 == 0) then some (n, e.2.since) else none
    | none => none)

/-- A 32- or 64-segment request is blocking Keeper k (R166). -/
def Dev.widePending (d : Dev) (k : Nat) : Bool := !(d.wideAsks k).isEmpty

/-- A request for `n` segments made at `t` waits behind one that blocks it: any wide one blocks a narrower chain; of a 32- and a 64-segment
request each blocks the other, and the one made first goes first (R166; the order of the two is DESIGN CHOICE, log entry 64). -/
def Dev.behindWide (d : Dev) (k n t : Nat) : Bool :=
  (d.wideAsks k).any (fun w => decide (n < 32) || (w.1 != n && decide (w.2 < t)))

/-- The coarse selection of a query can take the chain of `n` segments that it asked for at `t` (R166, R173). -/
def Dev.coarseRoom (d : Dev) (core n t : Nat) : Bool :=
  let k := 2 * core
  if n = 64 then d.runs (pgKpr k) && d.runs (pgKpr (k + 1)) && (d.chainsIn k).isEmpty && (d.chainsIn (k + 1)).isEmpty && !d.behindWide k n t
  else d.runs (pgKpr k) && !(d.chainRoom k n).isEmpty && !d.behindWide k n t

/-- The stream of a query that requests a chain now: the lowest without one (R166). -/
def Dev.nextChain (d : Dev) (q : Nat) : Option Nat :=
  (Tab.keys (d.srch.streams.filter (fun s => s.1 / 32768 == q && s.2.chain.isNone))).head?

/-- Keeper k can give stream number s its chain, given the Keeper it asks first. -/
def Dev.chainFits (d : Dev) (k : Nat) (x : Stream) : Bool :=
  d.runs (pgKpr k) && !d.widePending k && !(d.chainRoom k (segsFor x.limit)).isEmpty

/-- The Keeper a stream's request is for now: KEEPER_(2c + j % 2), or the other one of the core when that has no room. -/
def Dev.asksKeeper (d : Dev) (core : Nat) (x : Stream) : Nat :=
  let k := 2 * core + x.part % 2
  let o := 2 * core + (x.part + 1) % 2
  if d.chainFits k x then k else if d.chainFits o x then o else k

/-! Lacing (R174 to R178). -/

/-- Order of R175. -/
def candLt (a b : Cand) : Bool :=
  decide (a.key < b.key) || (a.key == b.key && (decide (a.part < b.part) || (a.part == b.part && decide (a.pos < b.pos))))
/-- Insert in the order of R175. -/
def insLac (c : Cand) : List Cand → List Cand
  | [] => [c]
  | e :: t => if candLt e c then e :: insLac c t else c :: e :: t

/-- What a pass has done so far. -/
structure Pass where
  out : List Cand := []
  cut : List Cand := []
  dups : Nat := 0
  /-- Duplicates whose better copy stood in the same partial list. -/
  inner : Nat := 0
  consumed : Nat := 0
deriving DecidableEq, Repr

/-- One entry at the root (R176). A duplicate counts as one within its own partial list where the copy emitted stands in that list; of two
copies both displaced by a better one of another list, neither does (R172; DESIGN CHOICE, log entry 64). -/
def Pass.take (p : Nat) (s : Pass) (c : Cand) : Pass :=
  let full := decide (p ≤ s.out.length)
  let last := (s.out.getLast?.map (fun (e : Cand) => e.key)).getD 0
  if full && c.key != last then { s with cut := s.cut ++ [c] }
  else
    let s := { s with consumed := s.consumed + 1 }
    match s.out.find? (fun e => e.id == c.id) with
    | some e => { s with dups := s.dups + 1, inner := s.inner + b2n (e.part == c.part) }
    | none => if full then { s with cut := s.cut ++ [c] } else { s with out := s.out ++ [c] }

/-- after_pass of R178: T_POOL, and how many Keeper tie tails it could not attribute. -/
def afterPass (p : Nat) (out : List Cand) (oldFull : Bool) (oldLast tPool : Nat) (cut : List Cand) (merged : List PList) : Nat × Nat :=
  if out.length < p then (0, (merged.filter (fun l => l.full && decide (0 < l.tieTail))).length)
  else
    let last := (out.getLast?.map (fun (e : Cand) => e.key)).getD 0
    let t0 := if !oldFull || last != oldLast then 0 else tPool
    let t1 := (cut.filter (fun e => e.key == last)).length
    let t2 := (merged.map (fun l => if l.full && l.lastKey == last then l.tieTail else 0)).foldl (· + ·) 0
    (sat 16 (t0 + t1 + t2), (merged.filter (fun l => l.full && decide (l.lastKey < last))).length)

/-- The queries that hold a pool slot of Lacing unit l. -/
def Dev.poolsHeld (d : Dev) (l : Nat) : Nat := (d.srch.queries.filter (fun e => e.2.slot && e.2.lac == l)).length

/-- Pool size of a query: P, or K for a coordinator's merge (R174). -/
def Search.poolSize (s : Search) : Nat := if s.fanout then s.k else s.k * s.f

/-- tie_dropped of R179. `flt` says that the filter ran. A coordinator's pool cut always counts: its candidates carried their final keys from
their shards (R147, R160; DEDUCED, log entry 64). -/
def tieDropped (s : Search) (q : Query) (flt : Bool) (n stop : Nat) : Nat :=
  if n < s.k then 0
  else
    let res := if flt then q.survivors else q.ordered
    let kk := (res[s.k - 1]?.map (fun (e : Cand) => e.key)).getD 0
    let t := ((q.ordered.drop stop).filter (fun e => e.key == kk)).length
    let last := (q.pool.getLast?.map (fun (e : Cand) => e.key)).getD 0xFFFFFFFF
    sat 16 (if (s.fanout || (s.rr = 0 && !s.model)) && q.pool.length = s.poolSize && last == kk then t + q.tPool else t)

end Sys2Proof.Machine
end

