-- ==== Sys2Proof/Machine/Search.lean ====
section
/-! DEFINITION. Searches: their start, fan-out and coarse phase (R122 to R137, R156 to R161). -/

namespace Sys2Proof.Machine
open Sys2Proof

/-! Fields of OPSPEC (R123) and the descriptor (R124). -/

def Ctx.sF (x : Ctx) : Nat := if x.n 38 1 = 0 then 1 else x.n 38 1
def Ctx.sFlag (x : Ctx) (i : Nat) : Bool := (x.n 40 2).testBit i
/-- Queries of a search command. -/
def Ctx.sQueries (x : Ctx) (batch : Bool) : Nat := if batch then x.n 42 2 else 1

/-- Check 1 of R129 on the entry. -/
def Dev.searchArgsOk (d : Dev) (x : Ctx) (batch : Bool) : Bool :=
  x.cflagsOk && decide (1 ≤ x.n 32 2) && decide (x.n 32 2 ≤ 1024) && decide (1 ≤ x.n 34 2) && decide (x.n 34 2 ≤ 4096) && decide (x.n 36 2 ≤ 4096) &&
  decide (x.n 38 1 ≤ 16) && decide (x.n 39 1 ≤ 16) && decide (x.n 39 1 ≤ x.sF) && decide (x.n 32 2 * x.sF ≤ 1024) && decide (x.n 40 2 < 8) &&
  (!x.sFlag 0 || decide (1 ≤ x.n 39 1)) && (if batch then decide (1 ≤ x.n 42 2) && decide (x.n 42 2 ≤ 256) else decide (x.n 42 2 ≤ 1)) &&
  (x.sFlag 2 || x.n 48 2 == 0) && x.zeroFrom 50 && x.desc % 64 == 0 && x.out % 64 == 0 && decide (64 ≤ x.descLen) &&
  d.mapped x.desc x.descLen && d.mapped x.out x.outLen

def sdFormat (h : List Byte) : Nat := leAt h 0 1
def sdDim (h : List Byte) : Nat := leAt h 2 2
def sdStride (h : List Byte) : Nat := leAt h 4 4
def sdOffQ (h : List Byte) : Nat := leAt h 8 4
def sdOffF (h : List Byte) : Nat := leAt h 12 4
def sdFLen (h : List Byte) : Nat := leAt h 16 2
def sdRaw (h : List Byte) : Nat := leAt h 20 4

/-- Check 1 of R129 on the descriptor's header. -/
def searchHdrOk (h : List Byte) (len q : Nat) : Bool :=
  decide (sdFormat h ≤ 3) && leAt h 1 1 == 0 && (sdFormat h != 3 || sdDim h == 0) && sdStride h % 64 == 0 && decide (1 ≤ sdStride h) &&
  sdOffQ h % 64 == 0 && decide (64 ≤ sdOffQ h) && sdOffF h % 8 == 0 &&
  (if sdOffF h = 0 then sdFLen h == 0 else decide (1 ≤ sdFLen h) && decide (sdFLen h ≤ 64)) && leAt h 18 2 == 0 &&
  decide (sdRaw h ≤ sdStride h) && (sdFormat h == 3 || sdRaw h == 0) && (slice h 24 40).all (fun b => b == 0) &&
  decide (sdOffQ h + q * sdStride h ≤ len) && (sdOffF h == 0 || decide (sdOffF h + 8 * sdFLen h ≤ len))

/-- Bytes of query j. -/
def sdQuery (h b : List Byte) (j : Nat) : List Byte :=
  slice b (sdOffQ h + j * sdStride h) (if sdFormat h = 3 then sdRaw h else sdDim h * inBytes (sdFormat h))
/-- The filter program. -/
def sdFilter (h b : List Byte) : List Byte := if sdOffF h = 0 then [] else slice b (sdOffF h) (8 * sdFLen h)

/-- Check 3 of R129. -/
def searchAgrees (x : Ctx) (img h : List Byte) (inputs : List (List Byte)) : Bool :=
  (if sdFormat h = 3 then cEncTbl img != 0
   else sdDim h == cDim img && (cMetric img != 2 || inputs.all (fun b => !allZero (inVec (sdFormat h) (cDim img) b)))) &&
  (x.n 39 1 == 0 || cRefine img != 0xFF) && (!x.sFlag 0 || cRerTbl img != 0) && (sdOffF h == 0 || cAttrTbl img != 0) &&
  (!x.sFlag 2 || (cPrescan img && decide (x.n 48 2 ≤ cDim img)))

/-- Query vectors as a search uses them (R104 step 1, R125). -/
def queryVec (seed : List Nat) (img : List Byte) (format : Nat) (b : List Byte) : List Word :=
  let v := inVec format (cDim img) b
  if cMetric img = 2 then normalise seed v else v

/-- Bytes of a block of a SEARCH_BATCH's result (R151). -/
def batchBlock (k : Nat) : Nat := up64 (32 + 16 * k)

/-- Bind the attribute table and check the filter (check 4 of R129): the bind, or the status. -/
def Dev.filterBind (d : Dev) (sid : Nat) (img prog : List Byte) : Dev × GotV (List (Nat × Nat)) :=
  if prog.isEmpty then (d, .ok [])
  else
    let ws : List Want := [{ h := cAttrTbl img, kind := 4, chk := 0 }]
    match d.bindLook sid img ws with
    | (d, .wait) => (d, .wait)
    | (d, .bad st) => (d, .bad st)
    | (d, .ok bs) =>
      match bs.head? with
      | none => (d, .bad .badTable)
      | some b =>
        GotV.andThen (d.need sid (d.boundBase b) 64) fun d h =>
          if !filterOk prog (leAt h 18 2) then (d, .bad .invalidCmd)
          else match d.bindAll sid img ws with
            | (d, .ok bs) => (d, .ok bs)
            | (d, .wait) => (d, .wait)
            | (d, .bad st) => (d, .bad st)

/-- Create the queries of a search; one whose START stalled on a late tier carries the flag (R78, R131). -/
def Dev.addQueries (d : Dev) (sid : Nat) (vecs : List (List Word)) (stalled : Bool := false) : Dev :=
  (vecs.zipIdx).foldl (fun d v => d.setQuery (qKey sid v.2) { vec := v.1, since := d.now, flags := 16 * b2n stalled }) d

/-- Bytes of output that a search needs (R127). -/
def searchNeeds (x : Ctx) (batch : Bool) : Nat := if batch then x.sQueries batch * batchBlock (x.n 32 2) else 16 * x.n 32 2

/-- The inputs of a search descriptor. -/
def searchInputs (x : Ctx) (batch : Bool) (h b : List Byte) : List (List Byte) := (List.range (x.sQueries batch)).map (sdQuery h b)

/-- The handle names an open snapshot of the collection (R193). -/
def Dev.snapOpen (d : Dev) (x : Ctx) : Bool :=
  let snap := d.snap x.snapIdx
  snap.st == 1 && snap.coll == x.coll && snap.gen == x.snapGen

/-- The search of a SEARCH or SEARCH_BATCH command. -/
def Dev.searchOf (d : Dev) (x : Ctx) (batch : Bool) (h b img : List Byte) (binds : List (Nat × Nat)) : Search :=
  { coll := x.coll, image := img, k := x.n 32 2, nprobe := x.n 34 2, ef := x.n 36 2, f := x.sF, rr := x.n 39 1,
    model := x.sFlag 0, fanout := x.sFlag 1, prescan := x.sFlag 2, hammingMax := x.n 48 2, inputs := searchInputs x batch h b,
    format := sdFormat h, filter := sdFilter h b, batch := batch, out := x.out, snap := some x.snapIdx,
    epoch := (d.snap x.snapIdx).epoch, binds := binds, started := d.now, mapGen := d.curGen }

/-- A search that passed its checks starts: its pins, its deadline, its queries (R130). -/
def Dev.searchStart (d : Dev) (c : Nat) (x : Ctx) (batch : Bool) (h b img : List Byte) (slot : Nat × Nat) (attr : List (Nat × Nat)) : Dev :=
  let s := d.searchOf x batch h b img (slot :: attr)
  let snap := d.snap x.snapIdx
  let d := ((d.start c).setDeadline c (x.n 44 4)).addTblReader slot
  let d := d.updCtx c (fun y => { y with mapGen := d.curGen })
  let d := d.putSnap x.snapIdx { snap with pins := snap.pins + 1 }
  let vecs := (s.inputs.zipIdx).map (fun p => if s.format = 3 then [] else queryVec [d.draws, 21, p.2] img s.format p.1)
  ((d.setSearch c s).addQueries c vecs x.stalled).drawn

/-- What is left of R129 once the collection has been looked up, and the search's start (R130). -/
def Dev.searchBegin (d : Dev) (c : Nat) (x : Ctx) (batch : Bool) (h b img : List Byte) (slot : Nat × Nat) : Dev :=
  if !d.shardOk img d.curGen then d.finishSt c .badCollection
  else if !searchAgrees x img h (searchInputs x batch h b) then d.finishSt c .invalidCmd
  else match d.filterBind c img (sdFilter h b) with
    | (d, .wait) => d
    | (d, .bad st) => d.finishSt c st
    | (d, .ok attr) =>
      if x.outLen < searchNeeds x batch then (d.unbind c attr).finishSt c .invalidCmd
      else if !d.snapOpen x then (d.unbind c attr).finishSt c .snapshotExpired
      else d.searchStart c x batch h b img slot attr

/-- SEARCH and SEARCH_BATCH (R122 to R130, R133). -/
def Dev.searchCmd (d : Dev) (c op : Nat) (batch : Bool) : Dev :=
  if !d.canStart c op then d else
  match d.ctx? c with
  | none => d
  | some x =>
    if !d.searchArgsOk x batch then d.finishSt c .invalidCmd
    else GotV.after (d.need c x.desc 64) (fun d st => d.finishSt c st) fun d h =>
      if !searchHdrOk h x.descLen (x.sQueries batch) then d.finishSt c .invalidCmd
      else GotV.after (d.need c x.desc x.descLen) (fun d st => d.finishSt c st) fun d b =>
        if d.admitOn x.coll then d.finishSt c .badCollection
        else match d.lookColl c x.coll with
        | (d, .wait) => d
        | (d, .bad st) => d.finishSt c st
        | (d, .ok img slot) => d.searchBegin c x batch h b img slot

def searchOp (c : Nat) (d : Dev) : Dev := d.searchCmd c 0x01 false
/-- SEARCH. -/
def execSearch (ctx : Nat) (s : State) : Host.Outcome State Fault Refusal := onUnit (fun _ => decide (ctx < 4096)) (searchOp ctx) s
def searchBatchOp (c : Nat) (d : Dev) : Dev := d.searchCmd c 0x02 true
/-- SEARCH_BATCH. -/
def execSearchBatch (ctx : Nat) (s : State) : Host.Outcome State Fault Refusal := onUnit (fun _ => decide (ctx < 4096)) (searchBatchOp ctx) s

/-! Running queries. -/

/-- Searches and their phases run: CTX_POOL is not frozen, the search goes on, no cause has ended it (R597). -/
def Dev.qRuns (d : Dev) (sid : Nat) : Bool :=
  !d.frozen pgCtx && d.alive &&
  (match d.search? sid with
   | some s => s.origin.isSome || (d.live sid && (match d.ctx? sid with
     | some x => x.cause.isNone
     | none => false))
   | none => false)

/-- A query in a phase, with its search. -/
def Dev.inPhase (d : Dev) (k : Nat) (p : QPhase) : Option (Search × Query) :=
  if !d.qRuns (k / 256) then none
  else match d.search? (k / 256), d.query? k with
    | some s, some q => if q.phase == p then some (s, q) else none
    | _, _ => none

/-- Move a query to a phase. -/
def Dev.toPhase (d : Dev) (k : Nat) (p : QPhase) : Dev := d.updQuery k (fun q => { q with phase := p, since := d.now })

/-- Tables a phase binds, once (R94): those already bound, or a new bind. -/
def Dev.phaseBind (d : Dev) (k : Nat) (img : List Byte) (ws : List Want) : Dev × GotV (List (Nat × Nat)) :=
  match d.query? k with
  | none => (d, .wait)
  | some q =>
    if !q.binds.isEmpty then (d, .ok q.binds)
    else match d.bindAll (qRd k) img ws with
      | (d, .ok bs) => (d.updQuery k (fun q => { q with binds := bs }), .ok bs)
      | (d, .wait) => (d, .wait)
      | (d, .bad st) => (d, .bad st)

/-- A phase ends: its binds end (R95). -/
def Dev.phaseEnd (d : Dev) (k : Nat) (p : QPhase) : Dev :=
  match d.query? k with
  | none => d
  | some q => ((d.unbindQ k q.binds).updQuery k (fun q => { q with binds := [] })).toPhase k p

/-! Fan-out (R156 to R161). -/

/-- Node of each shard of a fan-out: one, this node, for a collection that is not sharded. -/
def Dev.fanNodes (d : Dev) (img : List Byte) (gen : Nat) : Option (List Nat) :=
  if !cSharded img then some [d.node]
  else (d.mapBase gen).map (fun b => (List.range (d.mapShards b (cGroup img))).map (fun i => d.mapShardNode b (cGroup img) i))

/-- What a shard node refuses a sub-search for, before it looks at its collection (R161). -/
def Dev.subRefused (d : Dev) (src gen : Nat) : Option Status :=
  let a := d.admEntry src
  if d.isFenced || (src != d.node && (a.1 == 0 || a.1 == 3)) then some .fenced
  else if gen != 0 && !d.genLive gen then some .mapStale
  else none

/-- The search a shard runs for a sub-search of node `src` (R157, R158). -/
def Dev.subSearchOf (d : Dev) (src : Nat) (p : SubSearch) (img : List Byte) (binds : List (Nat × Nat)) : Search :=
  { coll := p.coll, image := img, k := p.k, nprobe := p.nprobe, ef := p.ef, f := p.f, rr := p.rr, model := p.model,
    prescan := p.prescan, hammingMax := p.hammingMax, filter := p.filter, epoch := p.epoch,
    origin := some (src, p.ref), readPin := true, binds := binds, started := d.now, mapGen := p.mapGen,
    deadline := some (d.now + (if p.deadline = 0 then msCycles 100 else p.deadline)) }

/-- A sub-search starts on this node (R157), or is refused; false while it must wait for a read. The node holds at most 12,288 of them, the
model's own limit, and refuses another with TIER_FAIL, for the spec gives neither a limit nor a status (DESIGN CHOICE, log entry 64). -/
def Dev.subBegin (d : Dev) (src : Nat) (p : SubSearch) : Dev × Bool :=
  let no := fun (d : Dev) (st : Status) => (d.sendSubResult src { ref := p.ref, status := st.code }, true)
  match d.subRefused src p.mapGen with
  | some st => no d st
  | none =>
    match firstBelow 12288 (fun i => (d.search? (4096 + i)).isNone) with
    | none => no d .tierFail
    | some i =>
      let sid := 4096 + i
      if d.admitOn p.coll then no d .badCollection
      else match d.lookColl sid p.coll with
      | (d, .wait) => (d, false)
      | (d, .bad st) => no d st
      | (d, .ok img slot) =>
        if eLt p.epoch (d.readFloor p.coll) then no d .snapshotExpired
        else match d.filterBind sid img p.filter with
          | (d, .wait) => (d, false)
          | (d, .bad st) => no d st
          | (d, .ok attr) =>
            let d := d.addTblReader slot
            (((d.setSearch sid (d.subSearchOf src p img (slot :: attr))).addQueries sid [p.vec]).fixPins p.coll, true)

/-- Sub-search i of query k. -/
def Dev.subOf (d : Dev) (k i : Nat) (s : Search) (q : Query) (x : Ctx) : SubSearch :=
  { coll := s.coll, ref := subRef x.cinc (k / 256) (k % 256) i, k := s.k, nprobe := s.nprobe, ef := s.ef, f := s.f, rr := s.rr, model := s.model,
    prescan := s.prescan, hammingMax := s.hammingMax, filter := s.filter, epoch := s.epoch, mapGen := x.mapGen,
    deadline := (match x.deadline with
      | some t => max (t - d.now) 1
      | none => 0), vec := q.vec }

/-- Send a sub-search to another node. -/
def Dev.subSend (d : Dev) (k node : Nat) (x : Ctx) (i : Nat) (ss : SubSearch) : Dev :=
  let body := [ss.coll, ss.ref, ss.k, ss.nprobe, ss.ef, ss.f, ss.rr, b2n ss.model, b2n ss.prescan, ss.hammingMax, ss.filter.length,
    leNat ss.filter, ss.epoch, ss.mapGen, ss.deadline] ++ ss.vec.map (fun w => w.toNat)
  let (d, ok) := d.sendSvc (.subSearch x.cinc k i) 1 node x.mapGen body { fn := x.fn, owner := .command (k / 256) x.cinc }
  if ok then d else d.shardResult node { ref := ss.ref, status := Status.tierFail.code }

/-- A query's sub-searches, its own node's first (R156); that one may have to wait for a read, and the others with it. -/
def Dev.fanOut (d : Dev) (k : Nat) : Dev :=
  let sid := k / 256
  match d.search? sid, d.query? k, d.ctx? sid with
  | some s, some q, some x =>
    match d.fanNodes s.image x.mapGen with
    | none => d.queryEnd k .mapStale
    | some ns =>
      let d1 := d.setQuery k { q with shards := ns.map (fun n => ({ node := n } : Shard)), streams := ns.length, phase := .candidate, since := d.now }
      let own := match (ns.zipIdx).find? (fun p => p.1 == d.node) with
        | some p => d1.subBegin d.node (d.subOf k p.2 s q x)
        | none => (d1, true)
      if !own.2 then own.1.updQuery k (fun y => { y with shards := [], streams := 0, phase := .coarse, since := q.since })
      else
        let d2 := own.1.bump pgCtx 2 13 ns.length
        (ns.zipIdx).foldl (fun d p => if p.1 = d.node then d else d.subSend k p.1 x p.2 (d.subOf k p.2 s q x)) d2
  | _, _, _ => d

/-- A query has its vector: the COARSE phase begins, or the fan-out (R131, R156). -/
def Dev.afterVec (d : Dev) (k : Nat) : Dev :=
  match d.search? (k / 256) with
  | none => d
  | some s =>
    let d := d.toPhase k .coarse
    if s.fanout then d.fanOut k else d

/-- SUB_SEARCH (R157, R161). A sub-search whose tables must be read first is taken up again by its own row. -/
def subSearchOp (src : Nat) (p : SubSearch) (d : Dev) : Dev :=
  if !d.ctxWorks then d else (d.subBegin src p).1
def execSubSearch (src : Nat) (p : SubSearch) (s : State) : Host.Outcome State Fault Refusal :=
  onUnit (fun _ => decide (src < 4096)) (subSearchOp src p) s

/-- SUB_RESULT (R159). -/
def subResultOp (src : Nat) (r : SubResult) (d : Dev) : Dev := d.shardResult src r
def execSubResult (src : Nat) (r : SubResult) (s : State) : Host.Outcome State Fault Refusal :=
  onUnit (fun _ => decide (src < 4096)) (subResultOp src r) s

/-- Some sub-search of a fan-out is late: it has not come back by the command's deadline, or within 100 ms of its sending where the command has
none (R158). -/
def Dev.fanLate (d : Dev) (sid : Nat) : Bool :=
  (d.queriesOf sid).any (fun k => match d.query? k, d.ctx? sid with
    | some q, some x => q.shards.any (fun h => h.result.isNone) && decide (x.deadline.getD (q.since + msCycles 100) ≤ d.now)
    | _, _ => false)

/-- SUBSEARCH_TIMEOUT (R158): at the coordinator, which cancels what is outstanding; at a shard, whose sub-search then ends. -/
def subsearchTimeoutOp (sid : Nat) (d : Dev) : Dev :=
  match d.search? sid with
  | none => d
  | some s =>
    match s.origin with
    | some (_, ref) =>
      if (match s.deadline with
          | some t => decide (t ≤ d.now)
          | none => false) then d.subAnswer sid { ref := ref, status := Status.timeout.code }
      else d
    | none =>
      if d.qRuns sid && d.fanLate sid then
        let d := d.updCtx sid (fun x => { x with cause := some (.timeout, d.now) })
        (d.dropQueries sid).finishSt sid .timeout
      else d
def execSubsearchTimeout (sid : Nat) (s : State) : Host.Outcome State Fault Refusal :=
  onUnit (fun _ => decide (sid < 16384)) (subsearchTimeoutOp sid) s

/-! Home cores and the coarse phase. -/

/-! GEMMs that queries of one batch share (R132, R133, R136). -/

/-- Queries that wait for their GEMM, with the times at which they came, in that order: the windows they form, each from its first query's time,
of those that came within 2 µs of it, at most 64. -/
def gemmWindows (l : List (Nat × Nat)) : List (Nat × List Nat) :=
  l.foldl (fun ws e => match ws.getLast? with
    | some (t, ks) => if e.1 ≤ t + usCycles 2 && ks.length < 64 then ws.dropLast ++ [(t, ks ++ [e.2])] else ws ++ [(e.1, [e.2])]
    | none => [(e.1, [e.2])]) []

/-- The windows of a search's queries on a core. -/
def Dev.gemms (d : Dev) (sid c : Nat) : List (Nat × List Nat) :=
  gemmWindows (((d.queriesOf sid).filterMap (fun k => match d.query? k with
    | some q => if q.phase == .coarse && q.probe.isNone && q.core == c then some (q.since, k) else none
    | none => none)).foldl (fun l x => insPair x l) [])

/-- Queries of a search that have core c and no centroid keys yet. -/
def Dev.unkeyed (d : Dev) (sid c : Nat) : Nat :=
  ((d.queriesOf sid).filter (fun k => match d.query? k with
    | some q => (q.phase == .embed || (q.phase == .coarse && q.probe.isNone)) && q.core == c
    | none => false)).length

/-- A query that starts now will share a GEMM with queries on core c: their window is open. A raw query reaches COARSE only when its model has
run; 64 such queries in a row take one core (DESIGN CHOICE, log entry 64). -/
def Dev.joins (d : Dev) (s : Search) (sid c : Nat) : Bool :=
  d.runs (pgCore c) &&
  (if s.format = 3 then decide (0 < d.unkeyed sid c) && decide (d.unkeyed sid c < 64)
   else match (d.gemms sid c).getLast? with
    | some (t, ks) => decide (d.now ≤ t + usCycles 2) && decide (ks.length < 64)
    | none => false)

/-- The core a query takes: that of the queries it shares a coarse GEMM with, or the next enabled one (R132). -/
def Dev.coreFor (d : Dev) (s : Search) (sid : Nat) : Option Nat :=
  match (if s.shares then (List.range 8).find? (fun c => d.joins s sid c) else none) with
  | some c => some c
  | none => d.nextCore

/-- QUERY_START (R132): the query waits while no core is enabled, and a sub-search while its epoch has not sealed here (R157). -/
def queryStartOp (sid q : Nat) (d : Dev) : Dev :=
  let k := qKey sid q
  match d.inPhase k .waitCore with
  | none => d
  | some (s, _) =>
    if s.origin.isSome && eLt (d.lastSealed s.coll) s.epoch then d
    else match d.coreFor s sid with
      | none => d
      | some c =>
        let die := c / 4
        let l := 2 * die + (Tab.getD d.srch.lastLac die 1 + 1) % 2
        let d := d.gaveCore c
        let d := { d with srch := { d.srch with lastLac := Tab.set d.srch.lastLac die (l % 2) } }
        let d := (d.bump pgCtx 2 0).updQuery k (fun y => { y with core := c, lac := l })
        if s.format = 3 && s.origin.isNone then d.toPhase k .embed else d.afterVec k
def execQueryStart (sid q : Nat) (s : State) : Host.Outcome State Fault Refusal :=
  onUnit (fun _ => decide (sid < 16384) && decide (q < 256)) (queryStartOp sid q) s

/-- Idle engines of a core, in rotating order (R254, R255). -/
def Dev.coreEngines (d : Dev) (c : Nat) : List Nat :=
  let n := d.part.perCore
  let last := Tab.getD d.srch.lastEng c (n - 1)
  (((List.range n).map (fun i => (last + 1 + i) % n)).filter (fun p => d.engIdle (d.engAt c p))).map (fun p => d.engAt c p)
/-- It has been given work. -/
def Dev.gaveEngine (d : Dev) (e : Nat) : Dev :=
  let c := d.engCore e
  ({ d with srch := { d.srch with lastEng := Tab.set d.srch.lastEng c (d.engPos e) } } : Dev).bump (pgCore c) 0 1
/-- `n` pieces of work have gone round the idle engines `es` of a core: `grants` of them were grants (R254, R257). -/
def Dev.gaveRound (d : Dev) (c : Nat) (es : List Nat) (n grants : Nat) : Dev :=
  let e := es.getD ((n + es.length - 1) % es.length) 0
  ({ d with srch := { d.srch with lastEng := Tab.set d.srch.lastEng c (d.engPos e) } } : Dev).bump (pgCore c) 0 1 grants

/-- Idle engines of core c for a search kernel of function f, in rotating order; none while a group that waits for one comes first (R251). -/
def Dev.kernelEngines (d : Dev) (c f : Nat) : Dev × List Nat :=
  match d.kernelTurn c f with
  | (d, true) => (d, d.coreEngines c)
  | (d, false) => (d, [])
/-- A program of the device's own starts on an engine, with cleared slots (R256, R274). -/
def Dev.kernelOn (d : Dev) (e : Nat) : Dev := (d.clearSlots e).bump (pgEng e) 0 11

/-- A coarse selection's chain of `n` segments is granted on KEEPER_(2c): the Keeper's counts (R183). -/
def Dev.chainGranted (d : Dev) (core n : Nat) : Dev :=
  let d := d.bump (pgKpr (2 * core)) 0 6
  if 16 < n then d.bump (pgKpr (2 * core)) 0 11 else d

/-- A query's centroid keys go through its chain, and its probe set is fixed (R111, R112, R136, R173). -/
def Dev.coarseDo (d : Dev) (k : Nat) (s : Search) (q : Query) (p : Probe) : Dev :=
  let kp := 2 * q.core
  let go := fun (acc : (List Cand × Nat) × Dev) (key : Nat) =>
    let r := keeperInsert s.nprobe acc.1.1 acc.1.2 { key := key, id := 0 }
    ((r.1, r.2.1), (acc.2.bump (pgKpr kp) 0 0).kprCount kp r.2.2)
  let d := (p.offered.foldl go (([], 0), d)).2
  let d := (d.bump (pgKpr kp) 0 10).probeCount p
  d.updQuery k (fun y => { y with probes := p.sel, coarseDone := true, chain := none, probe := none, flags := y.flags ||| (if p.ghostSkip then 64 else 0) })

/-- Tables of the COARSE phase. -/
def coarseWants (img : List Byte) : List Want := [{ h := cCentTbl img, kind := 1, chk := 1 }]

/-- The image of the one table of a phase's bind. -/
def Dev.firstImage (d : Dev) (i : Nat) (bs : List (Nat × Nat)) : Dev × GotV (List Byte) :=
  match bs.head? with
  | some b => d.boundImage i b
  | none => (d, .ok [])

/-- Keepers that a coarse chain holds. -/
def chainKeepers (c : Option (Nat × Nat × Nat)) : List Nat :=
  match c with
  | some (k, _, n) => if n = 64 then [k, k + 1] else [k]
  | none => []

/-- The engines' part of a selection: 512-centroid groups go round the core's engines, each granted once, and the rows of `qs` queries pass each
group's K-chunks; a walk's batches, of its entry points and of each hop, are granted one by one (R254, R257). -/
def Dev.coarseEngines (d : Dev) (c : Nat) (es : List Nat) (img ct : List Byte) (qs hops : Nat) : Dev :=
  let n := if cGraph img then hops + 1 else max (ceilDiv (ctN ct) 512) 1
  let used := es.take n
  let d := used.foldl (fun d e => d.kernelOn e) d
  if cGraph img then (d.gaveRound c es n n).bump (pgCore c) 0 6 hops
  else
    let rows := fun i => 4 * qs * ceilDiv (cDim img) 512 * ((n + es.length - 1 - i) / es.length)
    let d := (used.zipIdx).foldl (fun d e => d.bump (pgEng e.1) 0 1 (rows e.2)) d
    ((d.gaveRound c es n used.length).bump (pgCore c) 0 5).kernelBars c ((used.map (fun e => 2 ^ d.engPos e)).foldl (· + ·) 0)

/-- COARSE_PHASE (R136), of a query that holds its chain: the keys are computed, or have come from the GEMM it shared, and select its lists. -/
def coarsePhaseOp (sid q : Nat) (d : Dev) : Dev :=
  let k := qKey sid q
  match d.inPhase k .coarse with
  | none => d
  | some (s, y) =>
    if s.fanout then d.fanOut k
    else if y.coarseDone || y.chain.isNone || (chainKeepers y.chain).any (fun k => !d.goesOn (pgKpr k)) then d
    else match y.probe with
      | some p => (d.coarseDo k s y p).phaseEnd k .candidate
      | none =>
        if s.shares || !d.runs (pgCore y.core) then d
        else
          let (d, es) := d.kernelEngines y.core (d.queryFn k)
          if es.isEmpty then d else GotV.after (d.phaseBind k s.image (coarseWants s.image)) (fun d st => d.queryEnd k st) fun d bs =>
          GotV.after (d.firstImage (qRd k) bs) (fun d st => d.queryEnd k st) fun d ct =>
            let p := coarseSelect [d.draws, 20] s.image ct y.vec s.nprobe s.ef
            ((d.coarseEngines y.core es s.image ct 1 p.hops).drawn.coarseDo k s y p).phaseEnd k .candidate
def execCoarsePhase (sid q : Nat) (s : State) : Host.Outcome State Fault Refusal :=
  onUnit (fun _ => decide (sid < 16384) && decide (q < 256)) (coarsePhaseOp sid q) s

/-- The GEMM's keys reach the queries that share it; each holds the bind until it has its probe set, and asks for its chain from now. -/
def Dev.gemmDone (d : Dev) (s : Search) (ks : List Nat) (bs : List (Nat × Nat)) (ct : List Byte) : Dev :=
  let d := (ks.drop 1).foldl (fun d k => (bs.foldl (fun d b => d.addTblReader b) d).updQuery k (fun q => { q with binds := bs })) d
  let d := if ks.length < 2 then d else d.bump pgCtx 2 17 ks.length
  ks.foldl (fun d k => match d.query? k with
    | some q => d.drawn.setQuery k { q with probe := some (coarseSelect [d.draws, 20] s.image ct q.vec s.nprobe s.ef), since := d.now }
    | none => d) d

/-- The first window of a search's queries on core c is over: one GEMM and one bind for them all (R133, R136). What it waits for, each of them
waits for. -/
def Dev.gemmRun (d : Dev) (sid c : Nat) : Dev :=
  match d.search? sid, (d.gemms sid c).head? with
  | some s, some (t0, k0 :: rest) =>
    if !d.qRuns sid || !s.shares || (d.now < t0 + usCycles 2 && rest.length < 63) || !d.runs (pgCore c) then d
    else
      let (d, es) := d.kernelEngines c (d.queryFn k0)
      if es.isEmpty then d else match d.phaseBind k0 s.image (coarseWants s.image) with
      | (d, .wait) => rest.foldl (fun d k => (d.bindLook (qRd k) s.image (coarseWants s.image)).1) d
      | (d, .bad st) => (k0 :: rest).foldl (fun d k => d.queryEnd k st) d
      | (d, .ok bs) => match d.firstImage (qRd k0) bs with
        | (d, .wait) => rest.foldl (fun d k => (d.firstImage (qRd k) bs).1) d
        | (d, .bad st) => (k0 :: rest).foldl (fun d k => d.queryEnd k st) d
        | (d, .ok ct) => (d.coarseEngines c es s.image ct (rest.length + 1) 0).gemmDone s (k0 :: rest) bs ct
  | _, _ => d

/-- COARSE_BATCH_WINDOW (R133, R136). -/
def coarseBatchWindowOp (sid : Nat) (d : Dev) : Dev := (List.range 8).foldl (fun d c => d.gemmRun sid c) d
def execCoarseBatchWindow (sid : Nat) (s : State) : Host.Outcome State Fault Refusal :=
  onUnit (fun _ => decide (sid < 4096)) (coarseBatchWindowOp sid) s

end Sys2Proof.Machine
end

