-- ==== Sys2Proof/Machine/Scan.lean ====
section
/-! DEFINITION. Scans: streams, what a scanner scores, and the rows that open, feed and end them (R138 to R142, R164 to R172, R210 to R213,
R255, R345, R346, R383 to R387). -/

namespace Sys2Proof.Machine
open Sys2Proof

def pgHide (n : Nat) : Nat := 0xC0 + n
def pgAwl (n : Nat) : Nat := 0xD0 + n

/-! The copy a scan reads. -/

/-- The storage a stream scans, and where its segment begins in it: the bound copy of an object, or a segment that software placed at a seat or
Hide address, which no Tack room manages (R297, R304). -/
def Dev.segCopy (d : Dev) (x : Stream) (g : Nat) : ObjEntry × Nat :=
  if x.obj = 0 then ({ st := 2, primary := x.tier, loc := localPart g }, 0)
  else (d.boundObj (x.obj - 1) x.tier, localPart g - objAddr (x.obj - 1))

/-- What reading parts of a scanned segment meets: the reports of memory reads, and the first failure (R142, R323, R387). -/
def Dev.copyTouch (d : Dev) (x : Stream) (g : Nat) (parts : List (Nat × Nat)) : Dev × Option Status :=
  let (e, base) := d.segCopy x g
  if e.lost || d.copyDead e x.tier then (if x.obj = 0 then d else d.tierFailed (x.obj - 1), some .tierFail)
  else
    let bad := parts.findSome? (fun p => if p.2 = 0 then none else d.copyBad e x.tier (base + p.1) p.2)
    (if x.tier = 0 then parts.foldl (fun d p => d.touch (e.loc + base + p.1) p.2) d
     else if x.tier = 1 then parts.foldl (fun d p => d.touchLines (e.loc + base + p.1) p.2) d else d, bad)

/-- Fetch parts of a segment whose bound copy is a neighbour's, for stream sn (R304); other copies are read where they stand. -/
def Dev.partsIn (d : Dev) (sn : Nat) (x : Stream) (g : Nat) (parts : List (Nat × Nat)) : Dev × GotV Unit :=
  if x.tier != 2 then (d, .ok ())
  else
    let (e, base) := d.segCopy x g
    parts.foldl (fun (acc : Dev × GotV Unit) p =>
      if p.2 = 0 then acc
      else
        let (d, r) := acc.1.windowRead (Reader.stream sn).buf (d.nbrAt e (base + p.1)) p.2
        (d, match acc.2, r with
          | .bad st, _ => .bad st
          | _, .fail st => .bad st
          | _, .ready _ (some st) => .bad st
          | .wait, _ => .wait
          | _, .wait => .wait
          | .ok _, .ready _ none => .ok ())) (d, .ok ())

/-- Bytes of a scanned segment: of a neighbour copy, those that have been fetched. -/
def Dev.copyAll (d : Dev) (sn : Nat) (x : Stream) (g n : Nat) : List Byte :=
  let (e, base) := d.segCopy x g
  if x.tier != 2 then d.copyBytes e x.tier base n
  else match d.nbrTarget (d.nbrAt e base) with
    | .remote _ a =>
      let b := d.bufOf (Reader.stream sn).buf
      slice (((linesOf a n).map (fun l => (Tab.getD b.lines l (List.replicate 64 0, false)).1)).flatten) (a % 64) n
    | _ => List.replicate n 0

/-! Scoring (R134, R135, R141). -/

/-- Hash of an item id for the tombstone filter (R345). -/
def tombHash (id : Nat) : Nat := id * 0x9E3779B97F4A7C15 % 2 ^ 64 / 2 ^ 48

/-- What a tranche needs beside its items. -/
structure ScanCtx where
  img : List Byte
  book : List Byte
  cent : List Word
  q : List Word
  qsign : List Byte
  prescan : Bool
  hammingMax : Nat
  s : Nat
  e : Nat
  carried : List (Nat × Nat)
  log : List (Nat × Nat)
  /-- Distances come from UINT8 tables, as the Awl units and the Edgers hold them. -/
  lut : Bool
  seed : List Nat
  /-- Number of the list's scale and bias, which the device chooses. -/
  tseed : Nat
deriving DecidableEq, Repr

/-- Entry of a list's distance tables (R141): sub-quantiser j, code c, from the query, the codebook and, with RESIDUAL, the list's centroid. -/
def ScanCtx.entry (x : ScanCtx) (j c : Nat) : Word :=
  let m := cPqm x.img
  let b := bookCent x.book j c
  let v := if cResidual x.img then List.zipWith fAdd b (subVec x.cent m j) else b
  let q := subVec x.q m j
  if cMetric x.img = 0 then sqDist (x.seed ++ [60, j, c]) q v else fDot (x.seed ++ [60, j, c]) q v

/-- Scale and bias of a list's quantised tables: the device's own choice, left open (R345, R384). -/
def ScanCtx.scale (x : ScanCtx) : Word := w32 (Config.free [x.tseed, 31])
def ScanCtx.bias (x : ScanCtx) : Word := w32 (Config.free [x.tseed, 32])

/-- The UINT8 entry that stands for a table value: the nearest code, the bias shared out among the sub-quantisers (DEDUCED, log entry 13). -/
def ScanCtx.code8 (x : ScanCtx) (w : Word) : Nat :=
  let share := (val32 x.bias).div (.fin false (max (cPqm x.img) 1) 0)
  (max 0 (min 255 (((val32 w).add share.negate).div (val32 x.scale)).toInt)).toNat

/-- Value that quantised tables give for a code (R134, R141, R345, R384). -/
def ScanCtx.lutValue (x : ScanCtx) (code : List Byte) : Word :=
  let sum := (code.zipIdx.map (fun p => x.code8 (x.entry p.2 p.1.toNat))).foldl (· + ·) 0
  let v := fFma x.scale (word32 (.ofInt (sum : Nat))) x.bias
  if cMetric x.img = 0 then v else if cMetric x.img = 1 then fNeg v else fSub 0x3F800000 v

/-- Key of a scan code, and whether its value was NaN. -/
def ScanCtx.key (x : ScanCtx) (i : Nat) (code : List Byte) : Nat × Bool :=
  if x.lut && (cFormat x.img = 4 || cFormat x.img = 5) then sortKey (x.lutValue code)
  else metricKey (x.seed ++ [i]) (cMetric x.img) x.q (codeVec x.img x.book x.cent code)

/-- One item: it is visible, it passed the pre-scan, its key. -/
structure Scored where
  id : Nat
  pos : Nat
  visible : Bool
  passed : Bool
  key : Nat := 0
  nan : Bool := false
deriving DecidableEq, Repr

/-- Judge and score an item: visibility, then the pre-scan, then the key (R212). -/
def ScanCtx.item (x : ScanCtx) (delta : Bool) (pos id ie : Nat) (code : List Byte) (sign : Option (List Byte)) : Scored :=
  let vis := if delta then deltaVisible id ie x.s x.log x.e else sealedVisible id ie x.s x.carried x.log x.e
  let ok := vis && (!x.prescan || (match sign with
    | some g => decide (hamming g x.qsign ≤ x.hammingMax)
    | none => true))
  if ok then
    let k := x.key pos code
    { id := id, pos := pos, visible := vis, passed := true, key := k.1, nan := k.2 }
  else { id := id, pos := pos, visible := vis, passed := false }

/-- A tranche's length. -/
def trancheLen : Nat := 512

/-- Where a tranche is scored, for its counters. -/
inductive Scanner where
  | engine (e : Nat) | awl (n : Nat) | edger (c : Nat)
deriving DecidableEq, Repr

/-- Counters of a tranche. How many pages of carried tombstones the Edger's cache misses is free, up to all of them for every hit (DESIGN CHOICE,
log entry 65). -/
def Dev.scanCount (d : Dev) (w : Scanner) (x : ScanCtx) (r : List Scored) (sent dropped : Nat) : Dev :=
  let toms := (x.log.filter (fun t => eLt x.e t.2 && eLe t.2 x.s)) ++ x.carried
  let hit := r.filter (fun i => toms.any (fun t => tombHash t.1 == tombHash i.id))
  let vain := hit.filter (fun i => !toms.any (fun t => t.1 == i.id))
  let scored := (r.filter (fun i => i.passed)).length
  match w with
  | .engine _ => d
  | .awl n => ((((d.bump (pgAwl n) 0 6).bump (pgAwl n) 0 7 sent).bump (pgAwl n) 0 8 dropped).bump (pgAwl n) 0 9 hit.length).bump (pgAwl n) 0 10 vain.length
  | .edger c => (((((((d.bump (pgEdg c) 0 1).bump (pgEdg c) 0 2 r.length).bump (pgEdg c) 0 3 scored).bump (pgEdg c) 0 4 sent).bump (pgEdg c) 0 5 dropped).bump
      (pgEdg c) 0 6 hit.length).bump (pgEdg c) 0 7 vain.length).bumpFree (pgEdg c) 0 8 (d.pick (hit.length * ceilDiv x.carried.length 256 + 1))

/-- A stream's survivors go to its gate; at its last position its end marker follows, and its engine is free. Every scanner
discards what lies above its threshold (R170, R255, R346, R385). -/
def Dev.scanned (d : Dev) (sn : Nat) (x : Stream) (w : Scanner) (sc : ScanCtx) (r : List Scored) (n : Nat) : Dev :=
  let good := r.filter (fun i => i.passed)
  let cands := good.map (fun i => ({ key := i.key, id := i.id, tag := i.pos, list := x.list, tier := x.tier, delta := x.delta, part := x.part } : Cand))
  let keep := cands.filter (fun c => decide (c.key ≤ x.thresh))
  let fin := decide (x.stop ≤ x.next + n)
  let d := d.scanCount w sc r keep.length (cands.length - keep.length)
  let d := d.bump pgCtx 2 12 (good.filter (fun i => i.nan)).length
  let d := d.setStream sn { x with next := x.next + n, offered := keep, ended := fin, engine := if fin then none else x.engine, readFrom := d.now, late := false }
  let d := match x.engine with
    | some e => if fin then d.engFree e else d
    | none => d
  (d.updQuery (sn / 32768) (fun q => { q with scored := q.scored + good.length })).drawn

/-- Images of the codebook and the centroid that scoring needs, from the phase's binds (R131). -/
def Dev.scanTables (d : Dev) (k : Nat) (s : Search) (y : Query) (l : Nat) : Dev × GotV (List Byte × List Word) :=
  let get := fun (d : Dev) (h : Nat) (want : Bool) => if !want then (d, GotV.ok []) else match bindOf y.binds h with
    | some b => d.boundImage (qRd k) b
    | none => (d, GotV.ok [])
  GotV.andThen (get d (cCodeTbl s.image) (cFormat s.image == 4 || cFormat s.image == 5)) fun d bk =>
    GotV.andThen (get d (cCentTbl s.image) (cResidual s.image)) fun d ct =>
      (d, .ok (bk, if cResidual s.image then ctVec ct l else []))

/-- Scoring context of a stream. -/
def Dev.scanCtx (d : Dev) (s : Search) (y : Query) (x : Stream) (book : List Byte) (cent : List Word) (carried : List (Nat × Nat)) (lut : Bool) : ScanCtx :=
  let e := dirEntOf (Tab.getD y.ents x.list [])
  { img := s.image, book := book, cent := cent, q := y.vec,
    qsign := encSign (if cResidual s.image then List.zipWith fSub y.vec cent else y.vec), prescan := s.prescan, hammingMax := s.hammingMax,
    s := s.epoch, e := e.epoch, carried := carried, log := d.tombRecs (d.head s.image x.list), lut := lut, seed := [d.draws, 33], tseed := x.seed }

/-- Poison in the blocks of a list's tombstone log. -/
def Dev.tombBad (d : Dev) (img : List Byte) (l : Nat) : Bool :=
  (d.chain (d.head img l).tomb).any (fun b => d.bad b (64 + 16 * d.blockRecs b))

/-- The data of a stream's tranche comes more than LATE_US after it could be asked for: its query stalled on a late tier, which is counted under
its cause (R142, R322; DEDUCED, log entry 64). -/
def Dev.tierWait (d : Dev) (sn : Nat) (x : Stream) : Dev :=
  if x.delta || x.late || x.tier = 0 || decide (d.now ≤ x.readFrom + usCycles (d.fd R.tackLate 15 0)) then d
  else ((d.setStream sn { x with late := true }).stallReader (.stream sn)).bump pgTack 1 (if x.tier = 1 then 3 else if x.tier = 2 then 4 else 2)

/-- A stream whose neighbour copy serves no more is bound to the primary, where it reads the rest of its piece; `why` is the counter (R321 to
R323). -/
def Dev.rebind (d : Dev) (sn : Nat) (x : Stream) (why : Nat) : Dev :=
  let o := x.obj - 1
  let t := (d.obj o).primary
  let d := (((d.setStream sn { x with tier := t }).addReader o t).dropReader o 2).stallReader (.stream sn)
  ({ d with fab := { d.fab with bufs := Tab.del d.fab.bufs (Reader.stream sn).buf } } : Dev).bump pgTack 1 why

/-! Awl units (R330, R331). -/

/-- A stack's state. -/
def Dev.stack (d : Dev) (n : Nat) : Stack := Tab.getD d.hide.stackTab n {}
def Dev.setStack (d : Dev) (n : Nat) (x : Stack) : Dev := { d with hide := { d.hide with stackTab := Tab.set d.hide.stackTab n x } }
/-- Awl units of a stack (R330). -/
def awlUnits : Nat := 512

/-- A free unit of a stack, in rotating order. -/
def Dev.freeUnit (d : Dev) (n : Nat) : Option Nat :=
  let k := d.stack n
  ((List.range awlUnits).map (fun i => (k.unitPtr + i) % awlUnits)).find? (fun u => !Tab.has k.stitches u)

/-- Start a stitch on a unit (R331). -/
def Dev.startStitch (d : Dev) (n u : Nat) (s : Stitch) : Dev :=
  let k := d.stack n
  (d.setStack n { k with stitches := Tab.set k.stitches u s, unitPtr := (u + 1) % awlUnits }).bump (pgAwl n) 0 2

/-- REIN_(80+n). -/
def stackRein (n : Nat) : Nat := 80 + n
/-- AWL_CFG.STITCH_MAX as it is used. -/
def Dev.stitchMax (d : Dev) (n : Nat) : Nat := min (max (d.fd R.awlCfg 10 0 n) 64) 1024
/-- Cost of a stitch that moves `bytes` through its unit's bank port, at 16 bytes a row cycle (R331, R484). -/
def Dev.stitchCost (d : Dev) (n bytes : Nat) : Nat := 16 * min (d.stitchMax n) (max (ceilDiv bytes 16) 1)
/-- A free unit takes the next stitch of an owner in REIN_(80+n) order, and goes on with `k` (R331). The row cycles it uses are counted; those of
a sequence when its step ends. -/
def Dev.stitchGo (d : Dev) (n : Nat) (o : AwlOwner) (bytes : Nat) (ranges : List (Nat × Nat)) (who : Charge) (k : Dev → Dev) : Dev :=
  match d.freeUnit n with
  | none => d
  | some u =>
    let fn := who.fn.getD (d.defaultFn (stackRein n))
    let rows := match o with
      | .seq _ => 0
      | _ => d.stitchCost n bytes / 16
    d.viaRein (stackRein n) who.strict [{ fn := fn, owner := who.owner, kind := .stitch o, cost := d.stitchCost n bytes }] fun d =>
      k ((d.bump (pgAwl n) 0 3 rows).startStitch n u { owner := o, fn := fn, start := d.now, ranges := ranges })

/-- What a stream on a stack reads of it: its segment. -/
def Dev.scanRange (d : Dev) (sn : Nat) (x : Stream) : Nat × Nat :=
  let e := dirEntOf (Tab.getD ((d.query? (sn / 32768)).elim [] (fun y => y.ents)) x.list [])
  let c := d.segCopy x e.seg
  ((c.1.loc + c.2) % 2 ^ 36, e.segLen)

/-- Run a stream's tranche that reads `parts` of its segment once its scanner may: an Edger when its channel's Rein instance has selected the
reads of the codewords they lie in, an Awl unit when its stack's has selected the stitch, an engine at once (R331, R370). -/
def Dev.tranchePaid (d : Dev) (sn : Nat) (w : Scanner) (x : Stream) (seg : Nat) (parts : List (Nat × Nat)) (k : Dev → Dev) : Dev :=
  let who := d.chargeOf (Reader.stream sn).buf
  let (e, base) := d.segCopy x seg
  match w with
  | .engine _ => if x.tier < 2 && !d.memOn (e.loc + base) then d else k d
  | .awl n => d.stitchGo n (.stream sn) ((parts.map Prod.snd).foldl (· + ·) 0) [d.scanRange sn x] who k
  | .edger c =>
    match d.chan? c with
    | none => k d
    | some h =>
      let us := ((parts.map (fun p => unitsOf (base + p.1) p.2)).flatten.eraseDups).map (fun u => e.loc % 2 ^ 48 + u)
      d.viaRein (chanRein c) who.strict (d.unitItems c h us (.tranche sn) who) k

/-- Score the next tranche of a sealed piece. -/
def Dev.scanSealed (d : Dev) (sn : Nat) (w : Scanner) (s : Search) (y : Query) (x : Stream) : Dev :=
  let k := sn / 32768
  let img := s.image
  let e := dirEntOf (Tab.getD y.ents x.list [])
  let n := min trancheLen (x.stop - x.next)
  let o := x.obj - 1
  if x.tier = 2 && !d.extentUp ((d.obj o).nbrLoc % 64) then d.rebind sn x 5 else
  let fail := fun (d : Dev) (st : Status) =>
    let d := match w with
      | .edger c => d.bump (pgEdg c) 0 10
      | _ => d
    d.queryEnd k st
  GotV.after (d.scanTables k s y x.list) fail fun d t =>
    GotV.after (d.partsIn sn x e.seg [(0, 64)]) (fun d _ => d.rebind sn x 6) fun d _ =>
    let g := d.copyAll sn x e.seg e.segLen
    let sign := s.prescan && sgHasSign g
    let code := if cFormat img = 5 then (leAt g 28 4 + x.next / 32 * 16 * cPqm img, ceilDiv n 32 * 16 * cPqm img)
      else (leAt g 28 4 + x.next * leAt g 14 2, n * leAt g 14 2)
    let parts := [(0, 64), (64 + 8 * x.next, 8 * n), (leAt g 24 4 + 4 * x.next, 4 * n), code, (leAt g 36 4, 16 * leAt g 8 4)] ++
      (if sign then [(leAt g 32 4 + x.next * (cDim img / 8), n * (cDim img / 8))] else [])
    let byUnit := (match w with
      | .engine _ => x.tier == 3
      | _ => false)
    let miss := if byUnit then ((parts.map (fun p => unitsOf ((d.segCopy x e.seg).2 + p.1) p.2)).flatten.eraseDups).filter (fun u => !d.staged o u) else []
    if !miss.isEmpty && !d.copyDead (d.boundObj o 3) 3 then d.stageMiss o miss (.stream sn) (objAddr o) 0 else
    let reads := if x.next = 0 then parts else parts.filter (fun p => !(p.1 == 0 || p.1 == leAt g 36 4))
    d.tranchePaid sn w x e.seg reads fun d =>
    match d.copyTouch x e.seg ([(0, 64)]) with
    | (d, some st) => fail d st
    | (d, none) =>
      if !sgHdrOk img g x.list e.segLen then fail (d.bump pgCtx 1 9) .badTable
      else GotV.after (d.partsIn sn x e.seg parts) (fun d _ => d.rebind sn x 6) fun d _ =>
      let g := d.copyAll sn x e.seg e.segLen
      match d.copyTouch x e.seg (parts.drop 1) with
        | (d, some st) => fail d st
        | (d, none) =>
          let lut := match w with
            | .engine _ => false
            | _ => true
          if d.tombBad img x.list then fail d .poisoned else
          let sc := d.scanCtx s y x t.1 t.2 (sgTombs g) lut
          let r := (List.range n).map (fun i =>
            let p := x.next + i
            sc.item false p (sgId g p) (sgIe g p) (sgCode img g p) (if sign then some (sgSign img g p) else none))
          d.scanned sn x w sc r n

/-- Score the next tranche of a delta piece, of the records its start found (R213); a record is known by its address. -/
def Dev.scanDelta (d : Dev) (sn : Nat) (w : Scanner) (s : Search) (y : Query) (x : Stream) : Dev :=
  let k := sn / 32768
  let img := s.image
  let n := min trancheLen (x.stop - x.next)
  GotV.after (d.scanTables k s y x.list) (fun d st => d.queryEnd k st) fun d t =>
    let recs := ((x.recs.drop x.next).take n).map (d.insAt img)
    if recs.any (fun r => !d.memOn r.addr) then d else
    let bad := d.bad (headAt img x.list) 32 || recs.any (fun r => d.bad r.addr (insStride img)) || d.tombBad img x.list
    let d := recs.foldl (fun d r => d.touch r.addr (insStride img)) d
    if bad then d.queryEnd k .poisoned
    else
      let sc := d.scanCtx s y x t.1 t.2 [] false
      let r := recs.map (fun p => sc.item true p.addr p.id p.ie (d.insCodeOf img p) (if s.prescan then some (d.insSignOf img p) else none))
      d.scanned sn x w sc r n

/-- The next tranche of stream sn at a scanner: none while candidates of the last one still wait at the gate (R169). -/
def Dev.scanStep (d : Dev) (sn : Nat) (w : Scanner) : Dev :=
  let k := sn / 32768
  match d.stream? sn, d.inPhase k .candidate with
  | some x, some (s, y) =>
    if !x.started || x.ended || !x.offered.isEmpty then d
    else if x.delta then d.scanDelta sn w s y x
    else
      let d := d.tierWait sn x
      d.scanSealed sn w s y ((d.stream? sn).getD x)
  | _, _ => d

/-- EMIT (R244, R255): an engine's scan kernel sends the keys of its next positions to its Keeper stream. -/
def engEmitOp (e : Nat) (d : Dev) : Dev :=
  let x := d.engine e
  match x.stream with
  | some sn => if x.owner == .kernel && d.runs (pgEng e) then (d.bump (pgEng e) 0 2).scanStep sn (.engine e) else d
  | none => d
def execEngEmit (eng : Nat) (s : State) : Host.Outcome State Fault Refusal := onUnit (fun d => decide (eng < d.part.engines)) (engEmitOp eng) s

/-! Chains and the gate. -/

/-- The chain that a query requests now: a stream's, or none for that of its coarse selection (R166, R173). -/
def Dev.chainAsk (d : Dev) (k q : Nat) : Option (Option (Nat × Stream)) :=
  match d.inPhase q .candidate, d.inPhase q .coarse with
  | some (_, y), _ => if y.core = k / 2 then (d.nextChain q).bind (fun sn => (d.stream? sn).bind (fun x =>
      if d.asksKeeper y.core x = k && d.chainFits k x then some (some (sn, x)) else none)) else none
  | none, some (s, y) => (match coarseAsk s y with
    | some n => if 2 * y.core = k && d.coarseRoom y.core n y.since then some none else none
    | none => none)
  | none, none => none

/-- The longest wait for a chain of Keeper k (R183). -/
def Dev.chainWaited (d : Dev) (k wait : Nat) : Dev :=
  { d with kpr := { d.kpr with waitMax := Tab.set d.kpr.waitMax k (max (Tab.getD d.kpr.waitMax k 0) (sat 32 wait)) } }

/-- First segment of a grant of `n` segments: one of the rooms, which one left open. -/
def Dev.chainPlace (d : Dev) (k n : Nat) : Nat := (d.chainRoom k n).getD (d.pick (d.chainRoom k n).length) 0

/-- Give a chain of Keeper k to a query's coarse selection. -/
def Dev.chainToCoarse (d : Dev) (k q : Nat) (s : Search) (y : Query) : Dev :=
  let f := d.chainPlace k (min (segsFor s.nprobe) 32)
  let n := segsFor s.nprobe
  (coarseKeepers y.core n).foldl (fun e i => e.chainWaited i (d.now - y.since))
    (((d.updQuery q (fun z => { z with chain := some (k, f, n) })).drawn).chainGranted y.core n)

/-- Give a chain of Keeper k to a stream; the query's next stream then waits from now. -/
def Dev.chainToStream (d : Dev) (k q sn : Nat) (x : Stream) : Dev :=
  let f := d.chainPlace k (segsFor x.limit)
  let e := (d.setStream sn { x with chain := some (k, f, segsFor x.limit) }).drawn
  let e := match e.nextChain q with
    | some m => (match e.stream? m with
      | some z => e.setStream m { z with waitFrom := d.now }
      | none => e)
    | none => e
  (e.chainWaited k (d.now - x.waitFrom)).bump (pgKpr k) 0 6

/-- CHAIN_GRANT (R166): the requests that Keeper k can serve now, by R469 among their functions. -/
def chainGrantOp (k : Nat) (d : Dev) : Dev :=
  let qs := (Tab.keys d.srch.queries).filter (fun q => (d.chainAsk k q).isSome)
  match d.fnPick qs id (Tab.getD d.kpr.ptr k 0) with
  | (none, _) => d
  | (some q, ptr) =>
    let d1 : Dev := { d with kpr := { d.kpr with ptr := Tab.set d.kpr.ptr k ptr } }
    match d.chainAsk k q with
    | none => d
    | some none =>
      (match d.inPhase q .coarse with
       | some (s, y) => d1.chainToCoarse k q s y
       | none => d)
    | some (some (sn, x)) => d1.chainToStream k q sn x
def execChainGrant (keeper : Nat) (s : State) : Host.Outcome State Fault Refusal := onUnit (fun _ => decide (keeper < 16)) (chainGrantOp keeper) s

/-- A stream's number. -/
def streamNo (sid q j : Nat) : Nat := sKey (qKey sid q) j
/-- Operands of a stream's row are in range. -/
def streamOk (sid q j : Nat) : Bool := decide (sid < 16384) && decide (q < 256) && decide (j < 32768)

/-- Candidates a Keeper's gate examines in an NCLK cycle, and of those for one chain; places of a chain's input queue (R169). -/
def gateWidth : Nat := 16
def gateShare : Nat := 4
def queuePlaces : Nat := 16

/-- Keeper k's gate can examine the next candidate of a stream now (R169): one is offered, its chain's queue has a place, and the cycle's widths
are not used up. -/
def Dev.gateAsks (d : Dev) (k : Nat) (x : Stream) : Bool :=
  (match x.chain with
   | some (j, _, _) => j == k
   | none => false) &&
  !x.offered.isEmpty && decide (x.queue.length < queuePlaces) && !(x.gateAt.1 == d.now && decide (gateShare ≤ x.gateAt.2))
def Dev.gateFull (d : Dev) (k : Nat) : Bool :=
  let g := Tab.getD d.kpr.gateAt k (0, 0)
  g.1 == d.now && decide (gateWidth ≤ g.2)

/-- One more examined in this cycle. -/
def tally (now : Nat) (g : Nat × Nat) : Nat × Nat := if g.1 = now then (now, g.2 + 1) else (now, 1)

/-- The stream that Keeper k's gate serves next: by R469 among the functions of those that ask (R169). -/
def Dev.gateNext (d : Dev) (k : Nat) : Option Nat × Nat :=
  if d.gateFull k then (none, 0)
  else d.fnPick ((d.srch.streams.filter (fun e => d.gateAsks k e.2)).map Prod.fst) (fun sn => sn / 32768) (Tab.getD d.kpr.gatePtr k 0)

/-- The chain inserts its oldest queued candidate, one in an NCLK cycle (R165, R168). -/
def Dev.chainInsert (d : Dev) (k sn : Nat) (x : Stream) : Dev :=
  match x.queue with
  | [] => d
  | c :: rest =>
    if d.now < x.insFrom then d
    else
      let r := keeperInsert x.limit x.ents x.tieTail c
      (d.setStream sn { x with queue := rest, ents := r.1, tieTail := r.2.1, insFrom := d.now + 1 }).kprCount k r.2.2

/-- The gate examines a stream's next candidate: rejected under R168 as the chain stands, or admitted to its queue (R169). -/
def Dev.gateTake (d : Dev) (k sn : Nat) (x : Stream) (ptr : Nat) : Dev :=
  match x.offered with
  | [] => d
  | c :: rest =>
    let d : Dev := { d with kpr := { d.kpr with gatePtr := Tab.set d.kpr.gatePtr k ptr, gateAt := Tab.upd d.kpr.gateAt k (0, 0) (tally d.now) } }
    let d := d.bump (pgKpr k) 0 0
    let y := { x with offered := rest, gateAt := tally d.now x.gateAt, readFrom := if rest.isEmpty then d.now else x.readFrom }
    match gateRejects x.limit x.ents x.tieTail c with
    | some (t, e) => (d.setStream sn { y with tieTail := t, badKeys := x.badKeys + b2n (e == .badKey) }).kprCount k e
    | none => d.setStream sn { y with queue := x.queue ++ [c] }

/-- KEEPER_INSERT (R168, R169): a stream's chain inserts its oldest admitted candidate, and the gate examines the stream's next one when it is
the stream's turn. -/
def keeperInsertOp (sid q j : Nat) (d : Dev) : Dev :=
  let sn := streamNo sid q j
  match (d.stream? sn).bind (fun x => x.chain) with
  | none => d
  | some (k, _, _) =>
    if !d.goesOn (pgKpr k) then d
    else
      let d := match d.stream? sn with
        | some x => d.chainInsert k sn x
        | none => d
      match d.gateNext k, d.stream? sn with
      | (some n, ptr), some x => if n = sn then d.gateTake k sn x ptr else d
      | _, _ => d
def execKeeperInsert (sid q j : Nat) (s : State) : Host.Outcome State Fault Refusal := onUnit (fun _ => streamOk sid q j) (keeperInsertOp sid q j) s

/-- KPR_CFG.FEEDBACK_PERIOD as it is used (R183). -/
def Dev.feedbackPeriod (d : Dev) (k : Nat) : Nat := max (d.fd R.kprCfg 15 8 k) 8

/-- Key of a chain's last entry. -/
def Stream.lastKey (x : Stream) : Nat := (x.ents.getLast?.map (fun (e : Cand) => e.key)).getD 0xFFFFFFFF
/-- Feedback is due: a full chain's last key is below the threshold its scanner has, and the period has passed. -/
def Dev.feedbackDue (d : Dev) (k : Nat) (x : Stream) : Bool :=
  d.goesOn (pgKpr k) && fbit (d.rg R.kprCfg k) 0 && decide (x.ents.length = x.limit) && decide (x.lastKey < x.thresh) &&
  decide (x.sentAt + d.feedbackPeriod k ≤ d.now)

/-- THRESHOLD_FEEDBACK (R170). -/
def thresholdFeedbackOp (sid q j : Nat) (d : Dev) : Dev :=
  let sn := streamNo sid q j
  match d.stream? sn with
  | none => d
  | some x =>
    match x.chain with
    | none => d
    | some (k, _, _) =>
      if d.feedbackDue k x then (d.setStream sn { x with thresh := x.lastKey, sentAt := d.now }).bump (pgKpr k) 0 9 else d
def execThresholdFeedback (sid q j : Nat) (s : State) : Host.Outcome State Fault Refusal :=
  onUnit (fun _ => streamOk sid q j) (thresholdFeedbackOp sid q j) s

/-- The partial list that a chain drains (R171, R175). -/
def Stream.partialList (x : Stream) : PList :=
  { ents := x.ents.zipIdx.map (fun p => { p.1 with pos := p.2 }), full := x.ents.length == x.limit, tieTail := x.tieTail,
    lastKey := (x.ents.getLast?.map (fun (e : Cand) => e.key)).getD 0xFFFFFFFF }

/-- STREAM_END (R171): the chain drains to Lacing, its segments and the scanned copy are free. -/
def streamEndOp (sid q j : Nat) (d : Dev) : Dev :=
  let sn := streamNo sid q j
  let k := qKey sid q
  match d.stream? sn, d.inPhase k .candidate with
  | some x, some (_, y) =>
    match x.chain with
    | none => d
    | some (kp, _, _) =>
      if !x.ended || !x.offered.isEmpty || !x.queue.isEmpty || !d.goesOn (pgKpr kp) || !d.goesOn (pgLac y.lac) then d
      else
        ((d.dropStream sn).updQuery k (fun y => { y with parts := Tab.set y.parts x.part x.partialList })).bump (pgKpr kp) 0 8
  | _, _ => d
def execStreamEnd (sid q j : Nat) (s : State) : Host.Outcome State Fault Refusal := onUnit (fun _ => streamOk sid q j) (streamEndOp sid q j) s

/-! Scans on stacks and Edgers. -/

/-- Log tombstones a stream sends: those with E < t ≤ s (R212). -/
def Dev.logSet (d : Dev) (s : Search) (y : Query) (l : Nat) : Nat :=
  let e := dirEntOf (Tab.getD y.ents l [])
  ((d.tombRecs (d.head s.image l)).filter (fun t => eLt e.epoch t.2 && eLe t.2 s.epoch)).length

/-- KiB of tombstone store held on a stack. -/
def Dev.tombHeld (d : Dev) (n : Nat) : Nat :=
  ((Tab.vals d.srch.streams).map (fun s => if s.opened && s.place == Place.hide n then s.tombKib else 0)).foldl (· + ·) 0

/-- Open a stream on its stack if its log set finds room (R345). -/
def Dev.awlOpen (d : Dev) (sn n : Nat) (s : Search) (y : Query) (x : Stream) : Dev :=
  let kib := ceilDiv (16 * d.logSet s y x.list) 1024
  if d.runs (pgAwl n) && decide (d.tombHeld n + kib ≤ 2048) then (d.setStream sn { x with opened := true, tombKib := kib }).reinForget (80 + n) (.stitch (.stream sn))
  else d.setStream sn x

/-- Bytes of an Edger's table store that a stream takes (R384): UINT8 tables or the FP32 query, and the query's sign code. -/
def edgTables (s : Search) : Nat :=
  let img := s.image
  (if cFormat img = 4 then 256 * cPqm img else if cFormat img = 5 then 16 * cPqm img else 4 * cDim img) + (if s.prescan then cDim img / 8 else 0)

/-- Open a stream on its Edger if there is a stream, table and tombstone room for it (R383, R384). -/
def Dev.edgOpen (d : Dev) (sn c : Nat) (s : Search) (y : Query) (x : Stream) : Dev :=
  match Tab.find? d.flash.ch c with
  | none => d.setStream sn x
  | some h =>
    let t := up64 (edgTables s)
    let kib := ceilDiv (16 * d.logSet s y x.list) 1024
    let usedT := (h.edger.map (fun u => u.tableBytes)).foldl (· + ·) 0
    let usedK := (h.edger.map (fun u => u.tombKib)).foldl (· + ·) 0
    if d.runs (pgEdg c) && decide (h.edger.length < 8) && decide (usedT + t ≤ 65536) && decide (usedK + kib ≤ 512) then
      let h := { h with edger := h.edger ++ [{ sid := sn, tableBytes := t, tombKib := kib }] }
      ((({ d with flash := { d.flash with ch := Tab.set d.flash.ch c h } } : Dev).setStream sn { x with opened := true, tombKib := kib }).bump (pgEdg c) 0 0).reinForget
        (chanRein c) (.flash 0 (.tranche sn) 0)
    else d.setStream sn x

/-- A waiting stream. -/
def Dev.openWait (d : Dev) (sn : Nat) (f : Dev → Search → Query → Stream → Dev) : Dev :=
  match d.stream? sn, d.inPhase (sn / 32768) .candidate with
  | some x, some (s, y) => if x.started && !x.opened then f d s y x else d
  | _, _ => d

/-- AWL_STREAM_OPEN (R345): a stream that waited for tombstone store. -/
def awlStreamOpenOp (sid q j : Nat) (d : Dev) : Dev :=
  d.openWait (streamNo sid q j) fun d s y x => match x.place with
    | .hide n => d.awlOpen (streamNo sid q j) n s y x
    | _ => d
def execAwlStreamOpen (sid q j : Nat) (s : State) : Host.Outcome State Fault Refusal := onUnit (fun _ => streamOk sid q j) (awlStreamOpenOp sid q j) s

/-- EDGER_STREAM_OPEN (R384). -/
def edgerStreamOpenOp (sid q j : Nat) (d : Dev) : Dev :=
  d.openWait (streamNo sid q j) fun d s y x => match x.place with
    | .flash c => d.edgOpen (streamNo sid q j) c s y x
    | _ => d
def execEdgerStreamOpen (sid q j : Nat) (s : State) : Host.Outcome State Fault Refusal := onUnit (fun _ => streamOk sid q j) (edgerStreamOpenOp sid q j) s

/-- AWL_TRANCHE (R331, R346): a free unit of the stack takes the stream's next tranche as a stitch, in the order of its Rein instance. -/
def awlTrancheOp (sid q j : Nat) (d : Dev) : Dev :=
  let sn := streamNo sid q j
  match d.stream? sn with
  | none => d
  | some x =>
    match x.place with
    | .hide n =>
      if !x.opened || x.ended || !x.offered.isEmpty || !d.runs (pgAwl n) then d else d.scanStep sn (.awl n)
    | _ => d
def execAwlTranche (sid q j : Nat) (s : State) : Host.Outcome State Fault Refusal := onUnit (fun _ => streamOk sid q j) (awlTrancheOp sid q j) s

/-- EDGER_TRANCHE (R385). -/
def edgerTrancheOp (sid q j : Nat) (d : Dev) : Dev :=
  let sn := streamNo sid q j
  match d.stream? sn with
  | none => d
  | some x =>
    match x.place with
    | .flash c => if x.opened && d.runs (pgEdg c) then d.scanStep sn (.edger c) else d
    | _ => d
def execEdgerTranche (sid q j : Nat) (s : State) : Host.Outcome State Fault Refusal := onUnit (fun _ => streamOk sid q j) (edgerTrancheOp sid q j) s

/-! The start of a piece's scan. -/

/-- Give a stream to an engine's scan kernel. -/
def Dev.kernelStart (d : Dev) (sn e : Nat) (x : Stream) : Dev :=
  let d := ((d.gaveEngine e).kernelOn e).setStream sn { x with engine := some e, opened := true }
  (d.updEngine e (fun n => { n with owner := .kernel, ctx := sn / 32768 / 256 % 4096, stream := some sn, gated := d.gateShut e n })).bump (pgCore (d.engCore e)) 0 7

/-- Where a list's scan finds its segment, and who scans it: the object (plus 1; 0 for storage that no Tack room manages), its tier and place
(R138, R297, R304). -/
def Dev.residence (d : Dev) (g : Nat) : Dev × GotV (Nat × Nat × Place) :=
  let a := localPart g
  match regionOf d.part a with
  | .seat => (d, if d.isLocal g then .ok (0, 0, .seat) else .bad .tierFail)
  | .hide n => (d, if d.isLocal g && !d.stackOut n then .ok (0, 1, .hide n) else .bad .tierFail)
  | _ =>
    if !d.enabled pgTack then (d, .wait)
    else match (if d.isLocal g then d.objAt a else none) with
    | none => (d, .bad .tierFail)
    | some (o, oe, _) =>
      if d.tack.badEntry.contains o || d.bad (d.objEntryAt o) 32 then (d.tableUe o, .bad .poisoned)
      else
        let d := d.entryLook o
        let t := d.bindTier oe
        if oe.lost || d.copyDead oe t then (d.tierFailed o, .bad .tierFail)
        else
          let p : Place := match t with
            | 0 => .seat
            | 1 => .hide (oe.loc / 2 ^ 36 - 16)
            | 2 => .neighbour (oe.nbrLoc % 64)
            | _ => .flash (oe.loc / 2 ^ 48)
          (d, .ok (o + 1, t, p))

/-- The scan of list l of query k begins: each of its sealed pieces binds the copy reported now, and keeps it (R138, R304, R309). -/
def Dev.listBegin (d : Dev) (k l : Nat) (r : Nat × Nat × Place) : Dev :=
  let ps := d.srch.streams.filter (fun e => e.1 / 32768 == k && e.2.list == l && !e.2.delta && !e.2.bound)
  ps.foldl (fun d e =>
    let d := d.setStream e.1 { e.2 with obj := r.1, tier := r.2.1, place := r.2.2, bound := true }
    if r.1 = 0 then d else (d.addReader (r.1 - 1) r.2.1).heatUp (r.1 - 1)) (d.bump pgCtx 2 (7 + r.2.1))

/-- The scanner that a piece takes, if it can now: an engine where engines scan it (none stands for its stack or channel). -/
def Dev.scannerFor (d : Dev) (core fn : Nat) : Place → Dev × Option (Option Nat)
  | .hide _ => (d, some none)
  | .flash _ => (d, some none)
  | _ => match d.kernelEngines core fn with
    | (d, e :: _) => (d, some (some e))
    | (d, []) => (d, none)

/-- A bound piece is opened at the scanner of its tier (R138). -/
def Dev.pieceOpen (d : Dev) (sn : Nat) (s : Search) (y : Query) (e : Option Nat) : Dev :=
  match d.stream? sn with
  | none => d
  | some z =>
    let x := { z with started := true, readFrom := d.now }
    match x.place, e with
    | .hide n, _ => d.awlOpen sn n s y x
    | .flash c, _ => d.edgOpen sn c s y x
    | _, some g => d.kernelStart sn g x
    | _, none => d

/-- The scan of a sealed piece starts, and with the first of its list the list's (R138, R304). -/
def Dev.scanSealedStart (d : Dev) (sn : Nat) (s : Search) (y : Query) (x : Stream) : Dev :=
  let k := sn / 32768
  let f := d.queryFn k
  if x.bound then (match d.scannerFor y.core f x.place with
    | (d, some e) => d.pieceOpen sn s y e
    | (d, none) => d)
  else GotV.after (d.residence (dirEntOf (Tab.getD y.ents x.list [])).seg) (fun d st => d.queryEnd k st) fun d r =>
    match d.scannerFor y.core f r.2.2 with
    | (d, some e) => (d.listBegin k x.list r).pieceOpen sn s y e
    | (d, none) => d

/-- SCAN_PIECE (R138, R139): a piece whose stream has its chain. An empty delta piece counts as a delta piece scanned (R163; DESIGN CHOICE, log
entry 64). -/
def scanPieceOp (sid q j : Nat) (d : Dev) : Dev :=
  let sn := streamNo sid q j
  let k := qKey sid q
  match d.stream? sn, d.inPhase k .candidate with
  | some x, some (s, y) =>
    if x.started || x.chain.isNone || !d.runs (pgCore y.core) then d
    else if x.delta then
      let recs := (d.insRecs s.image (d.head s.image x.list)).map (fun r => (r.block, r.idx))
      let n := recs.length
      if n = 0 then (d.setStream sn { x with started := true, opened := true, ended := true }).bump pgCtx 2 11
      else match d.kernelEngines y.core (d.queryFn k) with
        | (d, []) => d
        | (d, e :: _) => (d.kernelStart sn e { x with started := true, stop := n, recs := recs }).bump pgCtx 2 11
    else d.scanSealedStart sn s y x
  | _, _ => d
def execScanPiece (sid q j : Nat) (s : State) : Host.Outcome State Fault Refusal := onUnit (fun _ => streamOk sid q j) (scanPieceOp sid q j) s

end Sys2Proof.Machine
end

