-- ==== Sys2Proof/Machine/Merge.lean ====
section
/-! DEFINITION. The CANDIDATE and WRITE phases: streams made, Lacing passes, exact re-rank, results (R131, R139, R140, R143 to R152, R159,
R160, R174 to R179). -/

namespace Sys2Proof.Machine
open Sys2Proof

/-! Pool slots (R174). -/

/-- A Lacing unit can give a pool slot. -/
def Dev.lacRoom (d : Dev) (l : Nat) : Bool := d.runs (pgLac l) && decide (d.poolsHeld l < 16)
/-- Queries that wait for a slot of a Lacing unit. -/
def Dev.slotAskers (d : Dev) (l : Nat) : List Nat :=
  (d.srch.queries.filter (fun e => e.2.asked && !e.2.slot && e.2.lac == l && d.qRuns (e.1 / 256))).map Prod.fst

/-- A query takes a slot when its CANDIDATE phase begins, and waits when none is free. -/
def Dev.takeSlot (d : Dev) (k : Nat) (y : Query) : Dev :=
  if d.lacRoom y.lac && (d.slotAskers y.lac).isEmpty then d.updQuery k (fun q => { q with slot := true })
  else d.updQuery k (fun q => { q with asked := true })

/-- POOL_SLOT_GRANT: a free slot goes to a waiting query, by the function it serves (R174, R469). -/
def poolSlotGrantOp (l : Nat) (d : Dev) : Dev :=
  if !d.lacRoom l then d
  else match d.fnPick (d.slotAskers l) id (Tab.getD d.kpr.lacPtr l 0) with
    | (none, _) => d
    | (some k, ptr) =>
      ({ d with kpr := { d.kpr with lacPtr := Tab.set d.kpr.lacPtr l ptr } } : Dev).updQuery k (fun q => { q with slot := true, asked := false })
def execPoolSlotGrant (lac : Nat) (s : State) : Host.Outcome State Fault Refusal := onUnit (fun _ => decide (lac < 4)) (poolSlotGrantOp lac) s

/-! Streams of a query (R139, R140). -/

/-- Items of a piece. -/
def pieceLen : Nat := 262144

/-- The streams of one list, their partial-list indices counted from `j`. -/
def listStreams (p l : Nat) (e : DirEnt) (now seed j : Nat) : List Stream :=
  let n := if e.seg = 0 then 0 else ceilDiv e.items pieceLen
  ((List.range n).map (fun i =>
    ({ list := l, part := j + i, piece := i, next := pieceLen * i, stop := min (pieceLen * (i + 1)) e.items, waitFrom := now, limit := p,
       seed := seed } : Stream))) ++
  [{ list := l, part := j + n, delta := true, waitFrom := now, limit := p, seed := seed }]

/-- Tables of the CANDIDATE phase (R131). -/
def candWants (img : List Byte) : List Want :=
  [{ h := cDirTbl img, kind := 3, chk := 3 }] ++
  (if cFormat img = 4 || cFormat img = 5 then [{ h := cCodeTbl img, kind := 2, chk := 2 }] else []) ++
  (if cResidual img then [{ h := cCentTbl img, kind := 1, chk := 1 }] else [])

/-- Directory entries of the probed lists, for reader `rd`. -/
def Dev.readEntries (d : Dev) (rd root : Nat) (ls : List Nat) : Dev × GotV (Tab (List Byte)) :=
  ls.foldl (fun acc l => GotV.andThen acc fun d t => GotV.andThen (d.dirEntry rd root l) fun d b => (d, .ok (Tab.set t l b))) (d, GotV.ok [])

/-- Make a query's streams. -/
def Dev.makeStreams (d : Dev) (k : Nat) (s : Search) (y : Query) (ents : Tab (List Byte)) : Dev :=
  let p := s.k * s.f
  let all := (y.probes.map Prod.snd).foldl (fun (l : List Stream) i =>
    l ++ listStreams p i (dirEntOf (Tab.getD ents i [])) d.now (d.draws + l.length) l.length) []
  let d := all.foldl (fun d x => d.setStream (sKey k x.part) x) d
  let d := { d with draws := d.draws + all.length }
  d.updQuery k (fun q => { q with ents := ents, streams := all.length, scanned := y.probes.length })

/-! Exact re-rank (R143). -/

/-- Full vector of a candidate: a delta record's own, by its address, or the refine object's at its segment position, for reader `rd`. -/
def Dev.fullVec (d : Dev) (rd : Nat) (s : Search) (y : Query) (c : Cand) : Dev × GotV (List Word) :=
  let img := s.image
  let e := dirEntOf (Tab.getD y.ents c.list [])
  let n := vecBytes (cRefine img) (cDim img) 0
  if c.delta then
    let bad := d.bad c.tag (insStride img)
    (d.touch c.tag (insStride img), if bad then .bad .poisoned else .ok (vecOf (cRefine img) (cDim img) (d.insVecAt img c.tag)))
  else
    GotV.andThen (d.need rd e.refine 64) fun d h =>
      if !rfHdrOk img h c.list e.items e.refineLen then (d.bump pgCtx 1 9, .bad .badTable)
      else GotV.andThen (d.need rd (e.refine + 64 + c.tag * leAt h 12 4) n) fun d b => (d, .ok (vecOf (cRefine img) (cDim img) b))

/-- Exact keys of the re-rank set, in pool order. -/
def Dev.exactKeys (d : Dev) (rd : Nat) (s : Search) (y : Query) (set : List Cand) : Dev × GotV (List (Cand × Bool × List Word)) :=
  (set.zipIdx).foldl (fun acc c => GotV.andThen acc fun d l =>
    GotV.andThen (d.fullVec rd s y c.1) fun d v =>
      let r := metricKey [d.draws, 40, c.2] (cMetric s.image) y.vec v
      (d, .ok (l ++ [({ c.1 with key := r.1, exact := true }, r.2, v)]))) (d, GotV.ok [])

/-- Order by key, equal keys keeping their order. -/
def byKey (l : List Cand) : List Cand := l.foldl (fun m c => insCand c m) []

/-- Phase after the CANDIDATE phase, or after the model's. -/
def afterOrder (s : Search) (model : Bool) : QPhase :=
  if s.model && !model && !s.fanout then .rerankModel else if s.filter.isEmpty || s.fanout then .write else .filter

/-- Every partial list is merged: the set is ordered (R143). -/
def Dev.candOrder (d : Dev) (k : Nat) (s : Search) (y : Query) : Dev :=
  if s.rr = 0 || s.fanout then (d.updQuery k (fun q => { q with ordered := y.pool })).phaseEnd k (afterOrder s false)
  else
    let set := y.pool.take (s.k * s.rr)
    GotV.after (d.exactKeys (qRd k) s y set) (fun d st => d.queryEnd k st) fun d l =>
      let d := (((set.filter (fun c => !c.delta)).map (fun c => (dirEntOf (Tab.getD y.ents c.list [])).refine))).foldl (fun d a => if a = 0 then d else d.heatAt a) d
      let d := (d.bump pgCtx 2 12 (l.filter (fun c => c.2.1)).length).drawn
      let ord := byKey (l.map Prod.fst)
      let full := ord.map (fun c => ((l.find? (fun z => z.1 == c)).map (fun z => z.2.2)).getD [])
      (d.updQuery k (fun q => { q with ordered := ord, full := full })).phaseEnd k (afterOrder s false)

/-- The first shard, by index, that returned another status than OK (R160). -/
def shardBad (l : List Shard) : Option Status :=
  l.findSome? (fun h => match h.result with
    | some (st, _) => if st == .ok then none else some st
    | none => none)

/-- CANDIDATE_PHASE: its start, and its end once every partial list is merged (R131, R159). -/
def candidatePhaseOp (sid q : Nat) (d : Dev) : Dev :=
  let k := qKey sid q
  match d.inPhase k .candidate with
  | none => d
  | some (s, y) =>
    if !y.slot then d.takeSlot k y
    else if s.fanout then
      if y.shards.any (fun h => h.result.isNone) || y.merged < y.streams then d
      else match shardBad y.shards with
        | some st => d.queryEnd k st
        | none => (d.bump (pgLac y.lac) 0 10).candOrder k s y
    else if y.streams = 0 && !y.probes.isEmpty then
      GotV.after (d.phaseBind k s.image (candWants s.image)) (fun d st => d.queryEnd k st) fun d bs =>
        match bindOf bs (cDirTbl s.image) with
        | none => d.queryEnd k .badTable
        | some b =>
          GotV.after (d.readEntries (qRd k) (d.boundBase b) (y.probes.map Prod.snd)) (fun d st => d.queryEnd k st) fun d ents =>
            d.makeStreams k s y ents
    else if y.merged < y.streams then d
    else d.candOrder k s y
def execCandidatePhase (sid q : Nat) (s : State) : Host.Outcome State Fault Refusal :=
  onUnit (fun _ => decide (sid < 16384) && decide (q < 256)) (candidatePhaseOp sid q) s

/-! Lacing passes. -/

/-- LAC_CFG.TREE_LEAVES as it is used (R184). -/
def Dev.leaves (d : Dev) (l : Nat) : Nat := min (max (d.fd R.lacCfg 3 0 l) 1) 8

/-- What a pass reads: the pool and the partial lists it takes, in the order of the merge (R176). -/
def passInputs (y : Query) (take : Tab PList) : List Cand :=
  (y.pool ++ (take.map (fun (e : Nat × PList) => e.2.ents)).flatten).foldl (fun l c => insLac c l) []
/-- Tie counts after a pass (R178). -/
def passTies (s : Search) (y : Query) (take : Tab PList) (r : Pass) : Nat × Nat :=
  afterPass s.poolSize r.out (decide (y.pool.length = s.poolSize)) ((y.pool.getLast?.map (fun (e : Cand) => e.key)).getD 0) y.tPool r.cut
    (take.map Prod.snd)
/-- Counters of a pass (R184); position 10 counts a coordinator's merge as a whole, at its end. -/
def Dev.passCount (d : Dev) (pg taken : Nat) (r : Pass) (ties : Nat) : Dev :=
  let last := (r.out.getLast?.map (fun (e : Cand) => e.key)).getD 0
  let d := ((((d.bump pg 0 0).bump pg 0 1 taken).bump pg 0 2 r.consumed).bump pg 0 3 r.out.length).bump pg 0 4 r.dups
  (((d.bump pg 0 5 r.inner).bump pg 0 6 r.cut.length).bump pg 0 7 (r.cut.filter (fun c => c.key == last)).length).bump pg 0 8 ties

/-- LACING_PASS (R176 to R178). -/
def lacingPassOp (sid q : Nat) (d : Dev) : Dev :=
  let k := qKey sid q
  match d.inPhase k .candidate with
  | none => d
  | some (s, y) =>
    if !y.slot || !d.goesOn (pgLac y.lac) then d
    else
      let take := y.parts.take (d.leaves y.lac)
      if take.isEmpty then d
      else
        let r := (passInputs y take).foldl (Pass.take s.poolSize) {}
        let t := passTies s y take r
        let e := d.passCount (pgLac y.lac) take.length r t.2
        e.updQuery k (fun z => { z with parts := z.parts.drop take.length, pool := r.out, tPool := t.1, merged := z.merged + take.length,
                                        flags := z.flags ||| (if r.dups = 0 then 0 else 8) })
def execLacingPass (sid q : Nat) (s : State) : Host.Outcome State Fault Refusal :=
  onUnit (fun _ => decide (sid < 16384) && decide (q < 256)) (lacingPassOp sid q) s

/-! The WRITE phase. -/

/-- A query's result: records, flags, TIE_DROPPED (R145 to R148, R160, R179). -/
structure Result where
  recs : List Cand
  flags : Nat
  tie : Nat
deriving DecidableEq, Repr

/-- The result of a query. Without a filter `stop` is K, as the later text of R179 says and its head does not (DESIGN CHOICE, log entry 64). -/
def resultOf (s : Search) (y : Query) : Result :=
  let flt := !s.filter.isEmpty && !s.fanout
  let recs := if flt then y.survivors else y.ordered.take s.k
  let n := recs.length
  let kk := (recs[s.k - 1]?.map (fun (e : Cand) => e.key)).getD 0xFFFFFFFF
  let own := tieDropped s y flt n (if flt then y.evaluated else s.k)
  let shardTies := y.shards.map (fun h => match h.result with
    | some (_, _, t, key) => if n = s.k && key == kk then t else 0
    | none => 0)
  let tie := sat 16 (shardTies.foldl (· + ·) own)
  let shardFlags := y.shards.map (fun h => match h.result with
    | some (_, f, _) => f
    | none => 0)
  let short := decide (n < s.k)
  let fshort := short && (if s.fanout then shardFlags.any (fun f => f.testBit 1) else flt && decide (n < y.evaluated))
  let others := shardFlags.foldl (fun a f => a ||| (f &&& 0xF0)) y.flags
  { recs := recs, tie := tie, flags := others ||| (b2n short + 2 * b2n fshort + 4 * b2n (tie != 0)) }

/-- K records: those of the result, then empty ones (R146). -/
def resultBytes (k : Nat) (l : List Cand) : List Byte :=
  (l.map candRecord).flatten ++ ((List.range (k - l.length)).map (fun _ => emptyRecord)).flatten

/-- Header of a query of a SEARCH_BATCH (R151). -/
def queryHeader (y : Query) : List Byte :=
  natLe 1 y.status.code ++ natLe 1 0 ++ natLe 2 y.flags ++ natLe 4 y.count ++ natLe 2 (sat 16 y.tie) ++ natLe 2 (sat 16 y.scanned) ++
  natLe 4 (sat 32 y.scored) ++ natLe 16 0

/-- Counters of a query that ends OK (R163). -/
def Dev.queryCount (d : Dev) (f : Nat) : Dev :=
  let d := d.bump pgCtx 2 1
  (List.range 5).foldl (fun d i => if f.testBit i then d.bump pgCtx 2 (2 + i) else d) d

/-- SPEC0 of R150. -/
def searchSpec0 (scanned evaluated scored : Nat) : Nat := sat 16 scanned + sat 16 evaluated * 2 ^ 16 + sat 32 scored * 2 ^ 32

/-- A query has written what it writes: it gives back all it held. -/
def Dev.queryDone (d : Dev) (k : Nat) (r : Result) : Dev :=
  let d := (d.dropQuery k).updQuery k (fun q => { q with phase := .finished, count := r.recs.length, flags := r.flags, tie := r.tie })
  d.queryCount r.flags

/-- The last query of a batch has been written: the command completes (R152). -/
def Dev.batchDone (d : Dev) (sid : Nat) : Dev :=
  let ys := (d.queriesOf sid).filterMap d.query?
  if !ys.all (fun y => y.phase == .finished) then d
  else
    let sum := fun (f : Query → Nat) => (ys.map f).foldl (· + ·) 0
    let spec1 := match d.ctx? sid with
      | some x => d.sinceFetch x
      | none => 0
    d.finish sid { status := .ok, flags := (ys.map (fun y => y.flags)).foldl (· ||| ·) 0, count := (ys.filter (fun y => y.status == .ok)).length,
                   tie := sat 16 (sum (fun y => y.tie)), spec0 := searchSpec0 (sum (fun y => y.scanned)) (sum (fun y => y.evaluated)) (sum (fun y => y.scored)),
                   spec1 := spec1 }

/-- WRITE of one query of a batch: it begins once every query has reached WRITE (R152, R154). -/
def Dev.writeBatch (d : Dev) (k : Nat) (s : Search) (y : Query) : Dev :=
  let sid := k / 256
  let ready := (d.queriesOf sid).all (fun i => match d.query? i with
    | some z => z.phase == .write || z.phase == .finished
    | none => true)
  if !ready then d
  else
    let ok := y.status == .ok
    let r : Result := if ok then resultOf s y else { recs := [], flags := y.flags, tie := 0 }
    let h := queryHeader { y with count := r.recs.length, flags := r.flags, tie := r.tie }
    match d.put sid (s.out + k % 256 * batchBlock s.k) (if ok then h ++ resultBytes s.k r.recs else h) with
    | (d, .wait) => d
    | (d, .fail st) => (d.dropQueries sid).finishSt sid st
    | (d, .done) =>
      let d := if ok then d.queryDone k r else (d.dropQuery k).updQuery k (fun q => { q with phase := .finished })
      d.batchDone sid

/-- WRITE_PHASE (R150 to R152, R157). -/
def writePhaseOp (sid q : Nat) (d : Dev) : Dev :=
  let k := qKey sid q
  match d.inPhase k .write with
  | none => d
  | some (s, y) =>
    if s.batch then d.writeBatch k s y
    else
      let r := resultOf s y
      match s.origin with
      | some (_, ref) =>
        (d.queryDone k r).subAnswer sid { ref := ref, status := 0, flags := r.flags, tie := r.tie, lists := sat 16 y.scanned, evaluated := sat 16 y.evaluated,
                                               scored := sat 32 y.scored, records := r.recs.map candRecord }
      | none => match d.put sid s.out (resultBytes s.k r.recs) with
        | (d, .wait) => d
        | (d, .fail st) => d.queryEnd k st
        | (d, .done) =>
          let spec1 := match d.ctx? sid with
            | some x => d.sinceFetch x
            | none => 0
          (d.queryDone k r).finish sid { status := .ok, flags := r.flags, count := r.recs.length, tie := r.tie,
                                         spec0 := searchSpec0 y.scanned y.evaluated y.scored, spec1 := spec1 }
def execWritePhase (sid q : Nat) (s : State) : Host.Outcome State Fault Refusal :=
  onUnit (fun _ => decide (sid < 16384) && decide (q < 256)) (writePhaseOp sid q) s

end Sys2Proof.Machine
end

