-- ==== Sys2Proof/Machine/Models.lean ====
section
/-! DEFINITION. Model runs, EMBED and RERANK, and the model phases of a search (R276 to R293). -/

namespace Sys2Proof.Machine
open Sys2Proof

def Dev.run? (d : Dev) (r : Nat) : Option Run := Tab.find? d.eng.runs r
def Dev.setRun (d : Dev) (r : Nat) (x : Run) : Dev := { d with eng := { d.eng with runs := Tab.set d.eng.runs r x } }
def Dev.updRun (d : Dev) (r : Nat) (f : Run → Run) : Dev := { d with eng := { d.eng with runs := Tab.upd? d.eng.runs r f } }
/-- A new run. -/
def Dev.addRun (d : Dev) (x : Run) : Dev :=
  let d := { d with eng := { d.eng with runs := Tab.set d.eng.runs d.eng.nextRun { x with since := d.now }, nextRun := d.eng.nextRun + 1 } }
  d.bump pgCtx 4 0

/-- Units of a raw input of `n` bytes (R283): none where the length is not valid. -/
def rawUnits (h : List Byte) (n : Nat) : Option Nat :=
  let sz := if mInput h = 1 then 4 else mUnitElems h * (eltBits (mInFmt h) / 8)
  if mInput h = 0 || sz = 0 || n % sz != 0 then none
  else if decide (1 ≤ n / sz) && decide (n / sz ≤ mMaxUnits h) then some (n / sz) else none

/-- Header of a run's model image. -/
def Dev.runHdr (d : Dev) (x : Run) : List Byte := d.peekImg x.base 64
/-- Stage s of it. -/
def Dev.runStage (d : Dev) (x : Run) (s : Nat) : Stage := stageOf (d.peekImg (x.base + mOffStages (d.runHdr x) + 32 * s) 32)

/-! Storage of a run (R278, R281, R282). -/

def Run.laneNo (x : Run) (h : List Byte) : Nat := x.core * mLanes h + x.lane.getD 0
/-- Global address of a run's scratch; of its KV arena. -/
def Run.scratch (x : Run) (h : List Byte) : Nat := mScratchAddr h + 2 ^ 20 * (x.laneNo h * mScratch h)
def Run.arena (x : Run) (h : List Byte) : Nat := mKvAddr h + 2 ^ 20 * (x.laneNo h * mKv h)

/-- The run input block and its data (R282). The places of the query and the candidates are the model's choice (log entry 19). -/
def Run.block (x : Run) : List Byte :=
  let co := 64 + up64 x.query.length
  natLe 2 x.units ++ natLe 2 x.cands ++ natLe 4 64 ++ natLe 4 co ++ natLe 4 x.candStride ++ natLe 48 0 ++ slice x.query 0 (up64 x.query.length) ++ x.candBytes
/-- Bytes from the scratch's start to W7 (R281). -/
def Run.w7Off (x : Run) : Nat := 65536 * ((x.block.length + 65535) / 65536)
/-- W7 of a run. -/
def Run.w7 (x : Run) (h : List Byte) : Window :=
  { kind := 3, base := x.scratch h + x.w7Off, len := 2 ^ 20 * mScratch h - x.w7Off, write := true }

/-- Windows of repetition i of a stage (R281). -/
def Run.windows (x : Run) (h : List Byte) (st : Stage) (i : Nat) (prog : List Byte) : List Window :=
  (List.range 4).map (imgWindow prog) ++
  [if mKv h = 0 then {} else { kind := 3, base := x.arena h, len := 2 ^ 20 * mKv h, write := true },
   { kind := 3, base := x.base + st.w5Off + i * st.stride, len := st.w5Len },
   { kind := 3, base := x.scratch h, len := up64 x.block.length }, x.w7 h]

/-- Local address of the scale state record of (core, slot). -/
def scaleRec (h : List Byte) (core j : Nat) : Nat := localPart (mStateAddr h) + 128 * (16 * core + j)

/-! Lanes and engines (R280 steps 0 to 2). -/

/-- Lanes of a model that runs hold on a core. -/
def Dev.lanesHeld (d : Dev) (x : Run) : List Nat :=
  (Tab.vals d.eng.runs).filterMap (fun y => if y.handle = x.handle && y.base = x.base && y.core = x.core then y.lane else none)

/-- MODEL_LANE_GRANT (R280): a home core if the run has none yet, a free lane, then a request for ENGINES positions of the core. -/
def modelLaneGrantOp (r : Nat) (d : Dev) : Dev :=
  match d.run? r with
  | none => d
  | some x =>
    if x.step != .lane then d
    else
      let h := d.runHdr x
      let core := if x.core < 8 then some x.core else d.nextCore
      match core with
      | none => d
      | some c =>
        let d := if x.core < 8 then d else (d.gaveCore c).updRun r (fun y => { y with core := c })
        let x := { x with core := c }
        match firstBelow (mLanes h) (fun l => !(d.lanesHeld x).contains l) with
        | none => d
        | some l =>
          let cinc := match d.ctx? x.ctx with
            | some y => y.cinc
            | none => 0
          let g : Group := { ctx := x.ctx, cinc := cinc, core := c, want := mEngines h, run := r }
          let (d, n) := d.addGroup g
          (d.setRun r { x with lane := some l, step := .engines, group := n, cinc := cinc }).coreReserve c
def execModelLaneGrant (run : Nat) (s : State) : Host.Outcome State Fault Refusal := onDev (modelLaneGrantOp run) s

/-! Stages (R280 step 4, R281 to R285). -/

/-- Ask for a stage's token rows (R283, R405). -/
def Dev.askRows (d : Dev) (r : Nat) (x : Run) : Dev :=
  match x.tokens with
  | none => d.updRun r (fun y => { y with step := .ready })
  | some b =>
    let s := (d.tdesc b.1).slot b.2
    let keys := (List.range x.units).map (fun i => leAt x.query (4 * i) 4)
    let q : GatherReq := { inst := x.core / 4, use := .tokens r, handle := b.1, version := s.ver, image := d.peekImg s.base 64, keys := keys }
    let d := { d with sb := { d.sb with reqs := Tab.set d.sb.reqs d.sb.next q, next := d.sb.next + 1 } }
    d.updRun r (fun y => { y with step := .gather, gather := some (d.sb.next - 1) })

/-- A run enters stage s, or has finished its last (R280). -/
def Dev.enterStage (d : Dev) (r s : Nat) : Dev :=
  match d.run? r with
  | none => d
  | some x =>
    let h := d.runHdr x
    let d := d.setRun r { x with stage := s, rep := 0, attn := false, attnOut := false, repRunning := false, gather := none, step := if mStages h ≤ s then .finished else .ready }
    if decide (s < mStages h) && (d.runStage x s).gather then d.askRows r x else d

/-- Load the slots of one engine at the start of a repetition (R285). -/
def Dev.loadSlots (d : Dev) (e : Nat) (x : Run) (h : List Byte) : Dev :=
  (List.range 16).foldl (fun d j =>
    if mSlots h ≤ j then d.setSlot e j {}
    else
      let b := d.peek (scaleRec h x.core j) 128
      let d := d.touch (scaleRec h x.core j) 128
      let amax := Tab.getD x.amax j 0
      match slotOfBytes b with
      | some s => d.setSlot e j { s with curAmax := amax, stepSat := 0 }
      | none => (d.setSlot e j { curAmax := amax }).bump (pgSkv e) 0 8) d

/-- Start repetition i of the run's stage. -/
def Dev.repStart (d : Dev) (r : Nat) (x : Run) : Dev :=
  let h := d.runHdr x
  let st := d.runStage x x.stage
  let prog := d.peekImg (x.base + st.progOff) st.progLen
  if d.bad (localPart (x.base + st.progOff)) st.progLen then d.runFail r .poisoned
  else match d.group? x.group with
    | none => d
    | some g =>
      let es := d.groupEngs g
      let d := es.foldl (fun d e => d.loadSlots e x h) d
      let d := d.setGroup x.group { g with image := prog, wins := x.windows h st x.rep prog }
      ((d.groupStart x.group true).updRun r (fun y => { y with repRunning := true, step := .stage })).bump pgCtx 4 4

/-- A repetition has ended on every engine: its amax and saturations join the run's (R285). -/
def Dev.repFold (d : Dev) (r : Nat) (x : Run) (es : List Nat) : Dev :=
  let h := d.runHdr x
  let slots := List.range (mSlots h)
  let amax := slots.foldl (fun t j => es.foldl (fun t e => Tab.set t j (xMax (Tab.getD t j 0) (d.slotOf e j).curAmax)) t) x.amax
  let ss := slots.foldl (fun t j => es.foldl (fun t e => Tab.set t j (Tab.getD t j 0 + Tab.getD (d.engine e).slotSats j 0)) t) x.slotSat
  let n := (es.map (fun e => (d.engine e).sats)).foldl (· + ·) 0
  let ev := (es.map (fun e => (d.engine e).events)).foldl (· + ·) 0
  d.updRun r (fun y => { y with amax := amax, slotSat := ss, sats := y.sats + n, events := y.events + ev, repRunning := false, rep := y.rep + 1 })

/-- STAGE_REPETITION (R280, R281, R284, R285): the input block is written once the engines are reserved; then each repetition starts when
the one before has retired END on every engine, and each stage when the one before has ended. -/
def stageRepetitionOp (r : Nat) (d : Dev) : Dev :=
  match d.run? r with
  | none => d
  | some x =>
    match d.group? x.group with
    | none => d
    | some g =>
      match x.step with
      | .engines =>
        if !g.full then d
        else match d.put x.ctx (x.scratch (d.runHdr x)) x.block with
          | (d, .wait) => d
          | (d, .fail st) => d.runFail r st
          | (d, .done) => d.enterStage r 0
      | .ready => d.repStart r x
      | .stage =>
        let es := d.groupEngs g
        if x.attn then d
        else if !x.repRunning || !es.all (fun e => (d.engine e).ended) then d
        else
          let d := d.repFold r x es
          let st := d.runStage x x.stage
          if x.rep + 1 < st.rep then
            match d.run? r with
            | some y => d.repStart r y
            | none => d
          else if st.attn then d.updRun r (fun y => { y with attn := true })
          else d.enterStage r (x.stage + 1)
      | _ => d
def execStageRepetition (run : Nat) (s : State) : Host.Outcome State Fault Refusal := onDev (stageRepetitionOp run) s

/-! The end of a run (R280 step 5, R286). -/

/-- Close one step on each scale state record: the device after, and events raised. -/
def Dev.pushAmax (d : Dev) (x : Run) (h : List Byte) (e : Nat) : Dev × Nat :=
  (List.range (mSlots h)).foldl (fun (acc : Dev × Nat) j =>
    let (d, n) := acc
    let a := scaleRec h x.core j
    let s := (slotOfBytes (d.peek a 128)).getD {}
    let sat' := sat 32 (s.stepSat + Tab.getD x.slotSat j 0)
    let (t, ev) := ({ s with curAmax := Tab.getD x.amax j 0, stepSat := sat' } : Slot).step
    let d := (d.store a (slotBytes128 t)).bump pgCtx 4 5
    if ev then (d.satStep e j (x.ctx % 4096) sat', n + 1) else (d, n)) (d, 0)

/-- Bytes of an EMBED output vector (R288). -/
def embedBytes (seed : List Nat) (m : ModelCmd) (v : List Word) : List Byte :=
  let v := if m.normalise && !allZero v then normalise seed v else v
  if m.outFmt = 0 then wordsBytes v else (v.map (fun w => natLe 2 (eltEnc (if m.outFmt = 1 then 6 else 7) (val32 w)))).flatten

/-- Key of a model score (R134, R135). -/
def scoreKey (t : Word) : Nat × Bool := sortKey (fNeg (ftz t))

/-- What a run's output does for the command or query it serves; it may have to wait for a write. -/
def Dev.deliver (d : Dev) (x : Run) (out : List Word) : Dev × Put :=
  match x.use with
  | .embed i => match Tab.find? d.eng.cmds x.ctx with
    | some m =>
      let n := up64 (out.length * (if m.outFmt = 0 then 4 else 2))
      d.put x.ctx (m.out + i * n) (embedBytes [d.draws, 50, i] m out)
    | none => (d, .done)
  | .rerank => match Tab.find? d.eng.cmds x.ctx with
    | some m =>
      let cs := (out.zip m.ids).map (fun p => ({ key := (scoreKey p.1).1, id := p.2, model := true } : Cand))
      d.put x.ctx m.out ((byKey cs).map candRecord).flatten
    | none => (d, .done)
  | .queryEmbed _ => (d, .done)
  | .queryRerank _ => (d, .done)

/-- The command or query goes on after its run. -/
def Dev.runDone (d : Dev) (x : Run) (out : List Word) (events : Nat) : Dev :=
  let drop := if x.dropped then 128 else 0
  match x.use with
  | .queryEmbed k =>
    match d.search? (k / 256) with
    | none => d
    | some s =>
      if cMetric s.image = 2 && allZero out then d.queryEnd k .invalidCmd
      else
        let v := if cMetric s.image = 2 then normalise [d.draws, 51] out else out
        let d := d.drawn.updQuery k (fun q => { q with vec := v, flags := q.flags ||| drop })
        (d.phaseEnd k .coarse).afterVec k
  | .queryRerank k =>
    match d.search? (k / 256), d.query? k with
    | some s, some q =>
      let cs := (q.ordered.zip out).map (fun p => { p.1 with key := (scoreKey p.2).1, model := true, exact := false })
      let d := d.bump pgCtx 2 12 (out.filter (fun t => (scoreKey t).2)).length
      let d := d.updQuery k (fun q => { q with ordered := byKey cs, full := [], flags := q.flags ||| drop })
      d.phaseEnd k (afterOrder s true)
    | _, _ => d
  | _ => match Tab.find? d.eng.cmds x.ctx with
    | none => d
    | some m =>
      let d := if m.rerank then d.bump pgCtx 2 12 (out.filter (fun t => (scoreKey t).2)).length else d
      let m := { m with left := m.left - 1, sats := m.sats + x.sats, events := m.events + x.events + events, dropped := m.dropped || x.dropped }
      let d := { d with eng := { d.eng with cmds := Tab.set d.eng.cmds x.ctx m } }
      if m.left = 0 then
        let spec1 := match d.ctx? x.ctx with
          | some c => d.sinceFetch c
          | none => 0
        d.modelCmdEnd x.ctx { status := .ok, count := m.inputs, spec0 := sat 32 m.sats + sat 32 m.events * 2 ^ 32, spec1 := spec1, flags := if m.dropped then 128 else 0 }
      else d

/-- RUN_END (R280 step 5, R286). -/
def runEndOp (r : Nat) (d : Dev) : Dev :=
  match d.run? r with
  | none => d
  | some x =>
    if x.step != .finished then d
    else
      let h := d.runHdr x
      let n := if x.cands = 0 then mVecDim h else x.cands
      GotV.after (d.need x.ctx (x.w7 h).base (4 * n)) (fun d st => d.runFail r st) fun d b =>
        let out := bytesWords b
        match d.deliver x out with
        | (d, .wait) => d
        | (d, .fail st) => d.runFail r st
        | (d, .done) =>
          let e := match d.group? x.group with
            | some g => (d.groupEngs g).headD 0
            | none => 0
          let (d, ev) := d.pushAmax x h e
          ((d.takeRun r).bump pgCtx 4 1).runDone x out ev
def execRunEnd (run : Nat) (s : State) : Host.Outcome State Fault Refusal := onDev (runEndOp run) s

/-! EMBED and RERANK (R288 to R290). -/

/-- The collection a model command names when MODEL is 0: its image and slot, and whether it has the table asked for. -/
def Dev.modelColl (d : Dev) (c : Nat) (x : Ctx) (model : Nat) (tbl : List Byte → Nat) : Dev × GotV (Option (List Byte × (Nat × Nat))) :=
  if model != 0 then (d, .ok none)
  else match d.lookColl c x.coll with
    | (d, .wait) => (d, .wait)
    | (d, .bad st) => (d, .bad st)
    | (d, .ok img slot) => if tbl img = 0 || !d.shardOk img d.curGen then (d, .bad .badCollection) else (d, .ok (some (img, slot)))

/-- What a model command binds: the model, and the token row table where it has one. -/
def modelWants (model token : Nat) : List Want :=
  [{ h := model, kind := 5, chk := 0 }] ++ (if token = 0 then [] else [{ h := token, kind := 6, chk := 0 }])
/-- A bind's answer as a read's. -/
def Bind.got : Dev × Bind → Dev × GotV (List (Nat × Nat))
  | (d, .ok bs) => (d, .ok bs)
  | (d, .wait) => (d, .wait)
  | (d, .bad st) => (d, .bad st)
/-- The slots a model command's tables would be bound at, and the model's header: the checks of R97 on the tables by themselves. -/
def Dev.modelLook (d : Dev) (c model token : Nat) : Dev × GotV (List (Nat × Nat)) := Bind.got (d.bindLook c [] (modelWants model token))
/-- Bind a model command's tables in one request. -/
def Dev.modelBind (d : Dev) (c model token : Nat) : Dev × GotV (List (Nat × Nat)) := Bind.got (d.bindAll c [] (modelWants model token))
/-- Header of the model among a command's slots. -/
def Dev.modelHdr (d : Dev) (bs : List (Nat × Nat)) : List Byte := d.peekImg ((bs.head?.map d.boundBase).getD 0) 64

/-- Token row table bound, if any. -/
def tokenBind (bs : List (Nat × Nat)) (token : Nat) : Option (Nat × Nat) := if token = 0 then none else bindOf bs token

/-- Start a model command's runs. -/
def Dev.modelStart (d : Dev) (c : Nat) (coll : Option (List Byte × (Nat × Nat))) (m : ModelCmd) (us : Nat) (runs : List Run) : Dev :=
  let d := (d.start c).setDeadline c us
  let d := match coll with
    | some (_, slot) => (d.addTblReader slot).updCtx c (fun y => { y with binds := y.binds ++ [slot], mapGen := d.curGen })
    | none => d
  let d := { d with eng := { d.eng with cmds := Tab.set d.eng.cmds c m } }
  runs.foldl (fun d r => match d.nextCore with
    | some k => (d.gaveCore k).addRun { r with core := k }
    | none => d.addRun r) d

/-- Checks of R289 that need the model's header: OUT_LEN of check 1, then checks 3 and 4. With MODEL 0 the header is compared with the
collection's image as for a search (R97, R291). -/
def embedOk (x : Ctx) (img h : List Byte) (token : Nat) : Option Status :=
  let v := up64 (mVecDim h * (if x.n 44 1 = 0 then 4 else 2))
  if x.outLen < x.n 34 2 * v then some .invalidCmd
  else if mClass h != 0 || (x.n 32 2 == 0 && !hdrAgrees img h 5) then some .badTable
  else if (rawUnits h (x.n 40 4)).isNone || (token != 0) != (mInput h == 1) then some .invalidCmd
  else none

/-- Checks of R288 and R289 on the fields of EMBED. -/
def Dev.embedArgsOk (d : Dev) (x : Ctx) : Bool :=
  x.cflagsOk && decide (1 ≤ x.n 34 2) && decide (x.n 34 2 ≤ 256) && decide (1 ≤ x.n 36 4) && x.n 36 4 % 64 == 0 && decide (x.n 40 4 ≤ x.n 36 4) &&
  decide (x.n 44 1 ≤ 2) && decide (x.n 45 1 ≤ 1) && x.zeroFrom 52 && x.desc % 64 == 0 && x.out % 64 == 0 && decide (x.n 34 2 * x.n 36 4 ≤ x.descLen) &&
  d.mapped x.desc x.descLen && d.mapped x.out x.outLen
/-- Model handle and token table handle of EMBED (R288): its own fields, or the collection's. -/
def embedModel (x : Ctx) (img : List Byte) : Nat := if x.n 32 2 = 0 then cEncTbl img else x.n 32 2
def embedToken (x : Ctx) (img : List Byte) : Nat := if x.n 46 2 != 0 then x.n 46 2 else if x.n 32 2 = 0 then cTokTbl img else 0
/-- EMBED's state, and its runs: one for each input. -/
def embedCmd (x : Ctx) (bs : List (Nat × Nat)) : ModelCmd :=
  { inputs := x.n 34 2, left := x.n 34 2, outFmt := x.n 44 1, normalise := x.n 45 1 == 1, out := x.out, binds := bs }
def embedRun (c : Nat) (x : Ctx) (h b : List Byte) (model base token : Nat) (bs : List (Nat × Nat)) (i : Nat) : Run :=
  { use := .embed i, ctx := c, cinc := x.cinc, handle := model, base := base, units := (rawUnits h (x.n 40 4)).getD 0,
    query := slice b (i * x.n 36 4) (x.n 40 4), tokens := tokenBind bs token }

/-- EMBED (R288, R289). -/
def embedOp (c : Nat) (d : Dev) : Dev :=
  if !d.canStart c 0x18 then d else
  match d.ctx? c with
  | none => d
  | some x =>
    if !d.embedArgsOk x then d.finishSt c .invalidCmd
    else GotV.after (d.modelColl c x (x.n 32 2) cEncTbl) (fun d st => d.finishSt c st) fun d coll =>
      let img := (coll.map Prod.fst).getD []
      let model := embedModel x img
      let token := embedToken x img
      GotV.after (d.modelLook c model token) (fun d st => d.finishSt c st) fun d ls =>
        match embedOk x img (d.modelHdr ls) token with
        | some st => d.finishSt c st
        | none =>
          GotV.after (d.need c x.desc (x.n 34 2 * x.n 36 4)) (fun d st => d.finishSt c st) fun d b =>
            GotV.after (d.modelBind c model token) (fun d st => d.finishSt c st) fun d bs =>
              let base := (bs.head?.map d.boundBase).getD 0
              d.modelStart c coll (embedCmd x bs) (x.n 48 4) ((List.range (x.n 34 2)).map (embedRun c x (d.modelHdr bs) b model base token bs))
def execEmbed (ctx : Nat) (s : State) : Host.Outcome State Fault Refusal := onUnit (fun _ => decide (ctx < 4096)) (embedOp ctx) s

/-- Checks of R290 that need the model's header; with MODEL 0 it is compared with the collection's image as for a search (R97, R292). -/
def rerankOk (x : Ctx) (img h : List Byte) (token : Nat) : Option Status :=
  let q := if mInput h = 0 then x.n 44 4 == 4 * mVecDim h else (rawUnits h (x.n 44 4)).isSome
  let k := if mCandKind h = 0 then x.n 40 4 == 4 * mVecDim h else mInput h == 0 || (rawUnits h (x.n 40 4)).isSome
  if !(mClass h == 1 || mClass h == 2) || (x.n 32 2 == 0 && !hdrAgrees img h 7) then some .badTable
  else if !q || !k || (token != 0) != (mInput h == 1) then some .invalidCmd
  else none

/-- Checks of R290 on the fields of RERANK. -/
def Dev.rerankArgsOk (d : Dev) (x : Ctx) : Bool :=
  x.cflagsOk && decide (1 ≤ x.n 34 2) && decide (x.n 34 2 ≤ 1024) && x.n 36 4 % 64 == 0 && decide (64 + x.n 40 4 ≤ x.n 36 4) && x.zeroFrom 54 &&
  x.desc % 64 == 0 && x.out % 64 == 0 && decide (up64 (x.n 44 4) + x.n 34 2 * x.n 36 4 ≤ x.descLen) && decide (16 * x.n 34 2 ≤ x.outLen) &&
  d.mapped x.desc x.descLen && d.mapped x.out x.outLen
/-- The candidate records of RERANK, and whether each has an id and a zero header. -/
def rerankRecs (x : Ctx) (b : List Byte) : List (List Byte) :=
  (List.range (x.n 34 2)).map (fun i => slice b (up64 (x.n 44 4) + i * x.n 36 4) (x.n 36 4))
def rerankRecsOk (recs : List (List Byte)) : Bool := !recs.any (fun r => leAt r 0 8 == noId || !(slice r 8 56).all (fun z => z == 0))
/-- Model handle and token table handle of RERANK: its own fields, or the collection's. -/
def rerankModel (x : Ctx) (img : List Byte) : Nat := if x.n 32 2 = 0 then cRerTbl img else x.n 32 2
def rerankToken (x : Ctx) (img : List Byte) : Nat := if x.n 52 2 != 0 then x.n 52 2 else if x.n 32 2 = 0 then cTokTbl img else 0
/-- RERANK's state, and its one run. -/
def rerankCmd (x : Ctx) (recs : List (List Byte)) (bs : List (Nat × Nat)) : ModelCmd :=
  { rerank := true, inputs := x.n 34 2, left := 1, out := x.out, ids := recs.map (fun r => leAt r 0 8), binds := bs }
def rerankRun (c : Nat) (x : Ctx) (h b : List Byte) (recs : List (List Byte)) (model base token : Nat) (bs : List (Nat × Nat)) : Run :=
  { use := .rerank, ctx := c, cinc := x.cinc, handle := model, base := base, units := if mInput h = 0 then 0 else (rawUnits h (x.n 44 4)).getD 0,
    cands := x.n 34 2, query := slice b 0 (x.n 44 4), candBytes := (recs.map (fun r => slice (slice r 64 (x.n 40 4)) 0 (up64 (x.n 40 4)))).flatten,
    candStride := up64 (x.n 40 4), tokens := tokenBind bs token }

/-- RERANK (R290). -/
def rerankOp (c : Nat) (d : Dev) : Dev :=
  if !d.canStart c 0x19 then d else
  match d.ctx? c with
  | none => d
  | some x =>
    if !d.rerankArgsOk x then d.finishSt c .invalidCmd
    else GotV.after (d.need c x.desc (up64 (x.n 44 4) + x.n 34 2 * x.n 36 4)) (fun d st => d.finishSt c st) fun d b =>
      let recs := rerankRecs x b
      if !rerankRecsOk recs then d.finishSt c .invalidCmd
      else GotV.after (d.modelColl c x (x.n 32 2) cRerTbl) (fun d st => d.finishSt c st) fun d coll =>
        let img := (coll.map Prod.fst).getD []
        let model := rerankModel x img
        let token := rerankToken x img
        GotV.after (d.modelLook c model token) (fun d st => d.finishSt c st) fun d ls =>
          match rerankOk x img (d.modelHdr ls) token with
          | some st => d.finishSt c st
          | none =>
            GotV.after (d.modelBind c model token) (fun d st => d.finishSt c st) fun d bs =>
              let base := (bs.head?.map d.boundBase).getD 0
              d.modelStart c coll (rerankCmd x recs bs) (x.n 48 4) [rerankRun c x (d.modelHdr bs) b recs model base token bs]
def execRerank (ctx : Nat) (s : State) : Host.Outcome State Fault Refusal := onUnit (fun _ => decide (ctx < 4096)) (rerankOp ctx) s

/-! Models inside a search (R291, R292). -/

/-- Bind a model phase's tables and start its run; `raw` is the query side when it is raw. -/
def Dev.phaseRun (d : Dev) (k : Nat) (s : Search) (y : Query) (h chk : Nat) (mk : List Byte → Run) (raw : Bool) : Dev :=
  let tok := cTokTbl s.image
  let ws := [({ h := h, kind := 5, chk := chk } : Want)] ++ (if tok = 0 then [] else [{ h := tok, kind := 6, chk := 0 }])
  GotV.after (d.phaseBind k s.image ws) (fun d st => d.queryEnd k st) fun d bs =>
    if !(d.queryRuns k).isEmpty then d
    else
      let base := match bindOf bs h with
        | some b => d.boundBase b
        | none => 0
      let hd := d.peekImg base 64
      let x := mk hd
      let bad := raw && ((rawUnits hd x.query.length).isNone || (mInput hd == 1 && tok == 0))
      if bad then d.queryEnd k .invalidCmd
      else d.addRun { x with ctx := k / 256, handle := h, base := base, core := y.core, units := if raw then (rawUnits hd x.query.length).getD 0 else 0,
                             tokens := tokenBind bs tok }

/-- EMBED_PHASE (R291). -/
def embedPhaseOp (sid q : Nat) (d : Dev) : Dev :=
  let k := qKey sid q
  match d.inPhase k .embed with
  | none => d
  | some (s, y) => d.phaseRun k s y (cEncTbl s.image) 5 (fun _ => { use := .queryEmbed k, query := s.inputs.getD q [] }) true
def execEmbedPhase (sid q : Nat) (s : State) : Host.Outcome State Fault Refusal :=
  onUnit (fun _ => decide (sid < 16384) && decide (q < 256)) (embedPhaseOp sid q) s

/-- RERANK_MODEL_PHASE (R292): one scorer run over the re-rank set, in its order. An empty set needs none. -/
def rerankModelPhaseOp (sid q : Nat) (d : Dev) : Dev :=
  let k := qKey sid q
  match d.inPhase k .rerankModel with
  | none => d
  | some (s, y) =>
    let isRaw := s.format == 3 && s.origin.isNone
    if y.ordered.isEmpty then d.phaseEnd k (afterOrder s true)
    else
      let cb := (y.full.map (fun v => slice (wordsBytes v) 0 (up64 (4 * v.length)))).flatten
      let hdr := match d.query? k with
        | some z => (match bindOf z.binds (cRerTbl s.image) with
          | some b => d.peekImg (d.boundBase b) 64
          | none => (match (d.tdesc (cRerTbl s.image)).current with
            | some (_, t) => d.peekImg t.base 64
            | none => []))
        | none => []
      let raw := isRaw && mInput hdr != 0
      d.phaseRun k s y (cRerTbl s.image) (if isRaw then 7 else 8) (fun h =>
        { use := .queryRerank k, cands := y.ordered.length, query := if mInput h = 0 then wordsBytes y.vec else s.inputs.getD q [],
          candBytes := cb, candStride := up64 (4 * cDim s.image) }) raw
def execRerankModelPhase (sid q : Nat) (s : State) : Host.Outcome State Fault Refusal :=
  onUnit (fun _ => decide (sid < 16384) && decide (q < 256)) (rerankModelPhaseOp sid q) s

end Sys2Proof.Machine
end

