-- ==== Sys2Proof/Machine/Awl.lean ====
section
/-! DEFINITION. Hide stacks and Awl units: AWL_SEQ, AWL_FENCE, attention, stitches and refresh, a stack out of service (R326 to R354). -/

namespace Sys2Proof.Machine
open Sys2Proof

/-! Steps (R335 to R337). -/

/-- A step of a sequence: its 64 bytes. -/
abbrev AStep := List Byte
def AStep.op (s : AStep) : Nat := leAt s 0 1
def AStep.fmt (s : AStep) : Nat := leAt s 1 1
def AStep.mode (s : AStep) : Nat := leAt s 2 1
def AStep.rows (s : AStep) : Nat := leAt s 4 4
def AStep.src (s : AStep) : Nat := leAt s 8 8
def AStep.dst (s : AStep) : Nat := leAt s 16 8
def AStep.aux (s : AStep) : Nat := leAt s 24 8
def AStep.len (s : AStep) : Nat := leAt s 32 4
def AStep.sstr (s : AStep) : Nat := leAt s 36 4
def AStep.dstr (s : AStep) : Nat := leAt s 40 4
def AStep.astr (s : AStep) : Nat := leAt s 44 4
def AStep.imm (s : AStep) : Nat := leAt s 48 8
/-- Tokens of an ATTN step (R348). -/
def AStep.tokens (s : AStep) : Nat := s.imm % 2 ^ 32

/-- Bytes of an element of the step's format. -/
def AStep.elt (s : AStep) : Nat := eltBits s.fmt / 8
/-- Bytes of a row's source, auxiliary operand and destination. -/
def AStep.srcLen (s : AStep) : Nat :=
  match s.op with
  | 1 => s.len * s.elt
  | 2 => if s.fmt = 0 then s.len else (s.len + 1) / 2
  | 3 => s.len * s.elt
  | 4 => 0
  | 7 => 4 * s.len
  | 8 => s.tokens * 2 * s.len * s.elt
  | _ => s.len
def AStep.auxLen (s : AStep) : Nat :=
  match s.op with
  | 1 => s.len * s.elt
  | 2 => s.len * (if s.fmt = 0 then 256 else 16)
  | 6 => s.len
  | 8 => 4 * s.len
  | _ => 0
def AStep.dstLen (s : AStep) : Nat :=
  match s.op with
  | 1 => 4
  | 2 => 4
  | 6 => 4
  | 4 => s.len
  | 5 => s.len
  | _ => 4 * s.len

/-- The auxiliary operand is loaded once into the table store, for every row (R337). -/
def AStep.shared (s : AStep) : Bool := s.op == 1 || s.op == 2

/-- Check 1 of R339 on a step. -/
def AStep.shapeOk (s : AStep) : Bool :=
  let f := s.fmt
  (match s.op with
   | 1 => f == 0 || f == 2 || f == 6 || f == 7
   | 2 => f == 0 || f == 1
   | 3 => f == 6 || f == 8
   | 4 => f == 0
   | 5 => f == 0
   | 6 => f == 0
   | 7 => f == 8 || f == 9
   | 8 => f == 2 || f == 6
   | _ => false) &&
  (if s.op = 7 then decide (s.mode ≤ 2) else s.mode == 0) && leAt s 3 1 == 0 && leAt s 56 8 == 0 && decide (1 ≤ s.rows) && decide (s.rows ≤ 2 ^ 24) &&
  decide (s.src < 2 ^ 36) && decide (s.dst < 2 ^ 36) && decide (s.aux < 2 ^ 36)

/-- Check 3 of R339 on a step; `top` is where the stack's Hide pool begins. -/
def AStep.placeOk (s : AStep) (top : Nat) : Bool :=
  let fin := fun (o str n : Nat) => if n = 0 then 0 else o + (s.rows - 1) * str + n
  s.src % 16 == 0 && s.dst % 16 == 0 && s.aux % 16 == 0 && s.sstr % 16 == 0 && s.dstr % 16 == 0 && s.astr % 16 == 0 &&
  (if s.op = 4 || s.op = 5 || s.op = 6 then s.len % 16 == 0 else true) &&
  (if s.op = 1 then s.len % 32 == 0 && decide (32 ≤ s.len) && decide (s.len ≤ 4096) else true) &&
  (if s.op = 8 then s.len % 32 == 0 && decide (32 ≤ s.len) && decide (s.len ≤ 256) else true) &&
  (if s.op = 1 || s.op = 2 || s.op = 8 then decide (s.auxLen ≤ 65536) else true) &&
  decide (fin s.src s.sstr s.srcLen ≤ 2 ^ 36) && decide (fin s.aux (if s.shared then 0 else s.astr) s.auxLen ≤ 2 ^ 36) && decide (fin s.dst s.dstr s.dstLen ≤ top)

/-! What a row computes (R337, R348). -/

/-- a × b + c of the unit, whose intermediate rounding the spec leaves open (R232). -/
def awlMac (seed : List Nat) (a b c : Word) : Word := if Config.free seed % 2 = 0 then fFma a b c else fAdd (fMul a b) c

/-- State of an attention tranche: running maximum, sum, accumulator. -/
structure AttnAcc where
  m : Word := 0xFF800000
  l : Word := 0
  acc : List Word := []
deriving DecidableEq, Repr

/-- One token of attn_tranche. -/
def attnToken (seed : List Nat) (c : Word) (q : List Word) (a : AttnAcc) (t : Nat) (kv : List Word) : AttnAcc :=
  let dh := q.length
  let s := fMul c (fDot (seed ++ [t, 0]) q (kv.take dh))
  let m := vMax (seed ++ [t, 5]) a.m s
  let x := fExp (seed ++ [t, 1]) true (fSub a.m m)
  let p := fExp (seed ++ [t, 2]) true (fSub s m)
  { m := m, l := awlMac (seed ++ [t, 3]) a.l x p,
    acc := (List.zipWith (fun u v => awlMac (seed ++ [t, 4]) u x (fMul p v)) a.acc (kv.drop dh)) }

/-- attn_combine of two parts. -/
def attnJoin (seed : List Nat) (a b : AttnAcc) : AttnAcc :=
  let m := vMax (seed ++ [10]) a.m b.m
  let x := fExp (seed ++ [5]) true (fSub a.m m)
  let y := fExp (seed ++ [6]) true (fSub b.m m)
  { m := m, l := awlMac (seed ++ [7]) a.l x (fMul b.l y), acc := List.zipWith (fun u v => awlMac (seed ++ [8]) u x (fMul v y)) a.acc b.acc }

/-- One output row of ATTN: tranches of 256 tokens, combined in ascending order. -/
def attnRow (seed : List Nat) (c : Word) (q : List Word) (toks : List (List Word)) : List Word :=
  let dh := q.length
  if toks.isEmpty then List.replicate dh 0
  else
    let parts : List AttnAcc := (List.range (ceilDiv toks.length 256)).map (fun (i : Nat) =>
      (((toks.drop (256 * i)).take 256).zipIdx).foldl (fun (a : AttnAcc) (t : List Word × Nat) => attnToken (seed ++ [i]) c q a t.2 t.1) { acc := List.replicate dh 0 })
    let all : AttnAcc := match parts with
      | [] => ({} : AttnAcc)
      | p :: ps => (ps.zipIdx).foldl (fun (a : AttnAcc) (b : AttnAcc × Nat) => attnJoin (seed ++ [b.2]) a b.1) p
    all.acc.map (fun v => fMul v (fRecip (seed ++ [9]) all.l))

/-- Destination bytes of a row, from its source, auxiliary and old destination bytes. -/
def AStep.result (s : AStep) (seed : List Nat) (src aux old : List Byte) : List Byte :=
  let a := w32 (s.imm % 2 ^ 32)
  let n := s.len
  match s.op with
  | 1 =>
    if s.fmt = 0 then
      natLe 4 (word32 (.ofInt ((List.range n).foldl (fun (t : Int) i => t + sInt 8 (eltCode 0 src i) * sInt 8 (eltCode 0 aux i)) 0))).toNat
    else natLe 4 (fDot seed (eltWords s.fmt n src) (eltWords s.fmt n aux)).toNat
  | 2 =>
    let k := if s.fmt = 0 then 256 else 16
    let sum := ((List.range n).map (fun j => leAt aux (k * j + eltCode s.fmt src j % k) 1)).foldl (· + ·) 0
    natLe 4 (awlMac seed a (word32 (.ofInt (sum : Nat))) (w32 (s.imm / 2 ^ 32))).toNat
  | 3 => wordsBytes (List.zipWith (fun y x => awlMac seed a x y) (bytesWords old) (eltWords s.fmt n src))
  | 4 => ((List.range (n / 8)).map (fun _ => natLe 8 s.imm)).flatten
  | 5 => src
  | 6 => natLe 4 ((List.range (n / 8)).filter (fun i => leAt src (8 * i) 8 != leAt aux (8 * i) 8)).length
  | 7 =>
    wordsBytes (List.zipWith (redElt (s.fmt == 8) s.mode) (bytesWords old) (bytesWords src))
  | _ =>
    let rec' := 2 * n * s.elt
    wordsBytes (attnRow seed (w32 (s.imm / 2 ^ 32)) (bytesWords aux) ((List.range s.tokens).map (fun t => eltWords s.fmt (2 * n) (slice src (rec' * t) rec'))))

/-- The row's old destination is an operand. -/
def AStep.readsDst (s : AStep) : Bool := s.op == 3 || s.op == 7

/-- What a step reads and writes of its stack. -/
def AStep.ranges (s : AStep) : List (Nat × Nat) :=
  let len := fun (str n : Nat) => if n = 0 then 0 else (s.rows - 1) * str + n
  [(s.src, len s.sstr s.srcLen), (s.aux, len (if s.shared then 0 else s.astr) s.auxLen), (s.dst, len s.dstr s.dstLen)]

/-- Run row r of a step whose stack starts at `base`: false when it read poison, and its output is then written poisoned (R340, R341). -/
def Dev.awlRow (d : Dev) (base : Nat) (s : AStep) (r : Nat) : Dev × Bool :=
  let sa := base + s.src + r * s.sstr
  let aa := base + s.aux + (if s.shared then 0 else r * s.astr)
  let da := base + s.dst + r * s.dstr
  let bad := d.bad sa s.srcLen || d.bad aa s.auxLen || (s.readsDst && d.bad da s.dstLen)
  let out := s.result [d.draws, 60, r] (d.peek sa s.srcLen) (d.peek aa s.auxLen) (d.peek da s.dstLen)
  let d := (d.touchLines sa s.srcLen).touchLines aa s.auxLen
  ((d.storeLines da (slice out 0 s.dstLen) bad).drawn, !bad)

/-- Run rows in turn; stop at one that reads poison. -/
def Dev.awlRows (d : Dev) (base : Nat) (s : AStep) (rs : List Nat) : Dev × Nat × Bool :=
  rs.foldl (fun (acc : Dev × Nat × Bool) r =>
    match acc with
    | (d, n, true) => let (d, ok) := d.awlRow base s r; (d, n + b2n ok, ok)
    | _ => acc) (d, 0, true)

/-! Sequences. -/

def Dev.seq? (d : Dev) (c : Nat) : Option AwlSeq := Tab.find? d.hide.seqs c
def Dev.setSeq (d : Dev) (c : Nat) (x : AwlSeq) : Dev := { d with hide := { d.hide with seqs := Tab.set d.hide.seqs c x } }
/-- Step i of a sequence. -/
def AwlSeq.at (x : AwlSeq) (i : Nat) : AStep := slice x.steps (64 * i) 64

/-- Stitches of an owner on a stack. -/
def Dev.stitchesOf (d : Dev) (n : Nat) (o : AwlOwner) : List Nat := ((d.stack n).stitches.filter (fun s => s.2.owner == o)).map Prod.fst
/-- Remove an owner's stitches. -/
def Dev.dropStitches (d : Dev) (n : Nat) (o : AwlOwner) : Dev :=
  d.setStack n { d.stack n with stitches := (d.stack n).stitches.filter (fun s => s.2.owner != o) }

/-- A unit takes a stitch of the present step of a sequence, as REIN_(80+n) selects it: up to UNITS free ones do, in rotating order (R331, R338). -/
def Dev.seqUnits (d : Dev) (c : Nat) : Dev :=
  match d.seq? c with
  | none => d
  | some x =>
    if !d.runs (pgAwl x.stack) then d else
    let all := min x.units (x.at x.step).rows
    let rs := (x.at x.step).ranges
    let bytes := ceilDiv ((rs.map Prod.snd).foldl (· + ·) 0) (max all 1)
    let d := if (d.stitchesOf x.stack (.seq c)).length < all then d.stitchGo x.stack (.seq c) bytes rs (d.chargeSid c) id else d
    if (d.stitchesOf x.stack (.seq c)).isEmpty then d else d.setSeq c { x with begun := true }

/-- Fences that wait for nothing more complete (R343). -/
def Dev.fenceTry (d : Dev) : Dev :=
  d.hide.fences.foldl (fun d f =>
    let a := f.2
    let seqs := d.hide.seqs.any (fun s => a.mask.testBit s.2.stack && decide (s.2.seq < a.seq))
    let unstarted := d.cp.held.any (fun x => x.2.opcode == 0x20 && decide (x.2.seq < a.seq) && x.2.done.isNone && !x.2.started)
    let attn := d.eng.runs.any (fun r => r.2.attn && !r.2.attnOut && a.runs.contains r.1)
    if seqs || unstarted || attn || !d.live f.1 then d
    else
      let d := { d with hide := { d.hide with fences := Tab.del d.hide.fences f.1 } }
      ((List.range 16).foldl (fun d n => if a.mask.testBit n then d.bump (pgAwl n) 0 13 else d) d).finishOk f.1 0 0 0) d

/-- End a sequence. -/
def Dev.seqEnd (d : Dev) (c : Nat) (st : Status) : Dev :=
  match d.seq? c with
  | none => d
  | some x =>
    let d := d.dropStitches x.stack (.seq c)
    let d := { d with hide := { d.hide with seqs := Tab.del d.hide.seqs c } }
    let d := if st == .ok then d else d.bump (pgAwl x.stack) 0 1
    let spec1 := match d.ctx? c with
      | some y => d.sinceFetch y
      | none => 0
    let d := if st == .ok then d.finishOk c x.rows (sat 32 x.cycles + sat 32 x.yielded * 2 ^ 32) spec1 else d.finishSt c st
    d.fenceTry

/-- Where the Hide pool of stack n begins, as an offset (R296). -/
def Dev.hidePoolAt (d : Dev) : Nat := 2 ^ 36 - 2 ^ 30 * min (d.fd R.poolHide 6 0) 64

/-- The steps of a descriptor, and the stack it names. -/
def seqSteps (b : List Byte) : List AStep := (List.range (leAt b 2 2)).map (fun i => slice b (64 + 64 * i) 64)
def seqStack (b : List Byte) : Nat := localPart (leAt b 8 8) / 2 ^ 36 - 16

/-- Fields of an AWL_SEQ command (R339). -/
def Dev.seqEntryOk (d : Dev) (x : Ctx) : Bool :=
  x.cflagsOk && x.zeroFrom 36 && x.desc % 64 == 0 && decide (64 ≤ x.descLen) && d.mapped x.desc x.descLen

/-- A descriptor and its steps (R334 to R337). -/
def Dev.seqDescOk (d : Dev) (x : Ctx) (b : List Byte) : Bool :=
  let n := leAt b 2 2
  let base := leAt b 8 8
  leAt b 0 1 == 1 && leAt b 1 1 == 0 && decide (1 ≤ n) && decide (n ≤ 256) && decide (leAt b 4 2 ≤ 512) && leAt b 6 2 == 0 &&
  (slice b 16 48).all (fun z => z == 0) && decide (64 + 64 * n ≤ x.descLen) && (seqSteps b).all AStep.shapeOk &&
  d.isLocal base && decide (hideBase ≤ localPart base) && localPart base % 2 ^ 36 == 0 && decide (seqStack b < 16) &&
  (seqSteps b).all (fun s => AStep.placeOk s d.hidePoolAt)

/-- The sequence of a descriptor. -/
def seqOf (x : Ctx) (b : List Byte) : AwlSeq :=
  { stack := seqStack b, steps := (seqSteps b).flatten, nsteps := leAt b 2 2, units := if leAt b 4 2 = 0 then 512 else leAt b 4 2, seq := x.seq }

/-- AWL_SEQ (R334 to R339). -/
def awlSeqOp (c : Nat) (d : Dev) : Dev :=
  if !d.canStart c 0x20 then d else
  match d.ctx? c with
  | none => d
  | some x =>
    if !d.seqEntryOk x then d.finishSt c .invalidCmd
    else GotV.after (d.need c x.desc x.descLen) (fun d st => d.finishSt c st) fun d b =>
      if !d.seqDescOk x b then d.finishSt c .invalidCmd
      else if d.stackOut (seqStack b) then d.finishSt c .tierFail
      else ((((d.start c).setDeadline c (x.n 32 4)).bump (pgAwl (seqStack b)) 0 0).setSeq c (seqOf x b)).seqUnits c
def execAwlSeq (ctx : Nat) (s : State) : Host.Outcome State Fault Refusal := onUnit (fun _ => decide (ctx < 4096)) (awlSeqOp ctx) s

/-- A step is over: the next begins, or the sequence ends. How many row cycles its units used is left open. -/
def Dev.stepOver (d : Dev) (c : Nat) (x : AwlSeq) (rows : Nat) : Dev :=
  let used := d.free 0
  let d := (d.drawn.bump (pgAwl x.stack) 0 3 used).dropStitches x.stack (.seq c)
  let y := { x with step := x.step + 1, begun := false, attnDone := [], rows := x.rows + rows, cycles := x.cycles + used }
  let d := d.setSeq c y
  if y.step < y.nsteps then d.seqUnits c else d.seqEnd c .ok

/-- A sequence may work now: its command goes on and its stack is in service; a stack out of service ends it (R340). -/
def Dev.seqGo (d : Dev) (c : Nat) (k : Dev → AwlSeq → Dev) : Dev :=
  match d.seq? c with
  | none => d
  | some x =>
    if !d.live c then d
    else if d.stackOut x.stack then d.seqEnd c .tierFail
    else if !d.runs (pgAwl x.stack) || !d.runs (pgHide x.stack) then d
    else k d x

/-- AWL_STEP_DONE (R338): every row of the present step is written, and the next step starts. -/
def awlStepDoneOp (c : Nat) (d : Dev) : Dev :=
  d.seqGo c fun d x =>
    let s := x.at x.step
    if !x.begun then d.seqUnits c
    else if s.op = 8 then (if x.attnDone.length = s.rows then d.stepOver c x s.rows else d)
    else
      match d.awlRows (hideBase + 2 ^ 36 * x.stack) s (List.range s.rows) with
      | (d, n, true) => d.stepOver c x n
      | (d, _, false) => d.seqEnd c .poisoned
def execAwlStepDone (ctx : Nat) (s : State) : Host.Outcome State Fault Refusal := onUnit (fun _ => decide (ctx < 4096)) (awlStepDoneOp ctx) s

/-! Attention (R348, R349). -/

/-- After its attention a run goes on to the next stage, once no cache holds a line of the arena any more (R284, R344 step 4). -/
def Dev.attnNext (d : Dev) (r : Nat) (x : Run) (base len : Nat) : Dev :=
  if d.blocked base len true then d.recall base len true else d.enterStage r (x.stage + 1)

/-- The attention of a model stage: the spec gives neither the heads nor the places of its operands in the arena, so what it writes there is
left open; nothing outside the lane's arena changes. Modified lines of the arena in caches are written back first, and before the next stage
every cache drops what it holds of it (R344 steps 1 and 4). -/
def Dev.attnRun (d : Dev) (r : Nat) : Dev :=
  match d.run? r with
  | none => d
  | some x =>
    if !x.attn then d
    else
      let h := d.runHdr x
      let len := 2 ^ 20 * mKv h
      let base := localPart (x.arena h)
      let n := base / 2 ^ 36 - 16
      if x.attnOut then d.attnNext r x base len
      else if d.stackOut n then d.runFail r .tierFail
      else if !d.runs (pgAwl n) then d
      else if d.blocked base len false then d.recall base len false
      else d.stitchGo n (.attn r) len [(base % 2 ^ 36, len)] (d.chargeSid x.ctx) fun d =>
          let off := d.free 1 % max (len / 16) 1 * 16
          let cnt := d.free 2 % (len - off + 1)
          let out := (List.range cnt).map (fun i => BitVec.ofNat 8 (d.free (3 + i)))
          let d := (d.storeLines (base + off) out).bumpFree (pgAwl n) 0 12 (d.free 4 % 2 ^ 32)
          ((d.updRun r (fun y => { y with attnOut := true })).fenceTry).attnNext r x base len

/-- ATTN: row `row` of a sequence's ATTN step, or the attention of a model run's stage. -/
def attnOp (model : Bool) (n row : Nat) (d : Dev) : Dev :=
  if model then d.attnRun n
  else d.seqGo n fun d x =>
    let s := x.at x.step
    if !x.begun || s.op != 8 || decide (s.rows ≤ row) || x.attnDone.contains row then d
    else
      match d.awlRow (hideBase + 2 ^ 36 * x.stack) s row with
      | (d, true) => (d.bump (pgAwl x.stack) 0 12 s.tokens).setSeq n { x with attnDone := insNat x.attnDone row }
      | (d, false) => d.seqEnd n .poisoned
def execAttn (model : Bool) (owner row : Nat) (s : State) : Host.Outcome State Fault Refusal := onDev (attnOp model owner row) s

/-- Runs whose attention writes a stack of the mask (R343). -/
def Dev.attnRunsOn (d : Dev) (mask : Nat) : List Nat :=
  (d.eng.runs.filter (fun r => r.2.attn && mask.testBit (localPart (r.2.arena (d.runHdr r.2)) / 2 ^ 36 - 16))).map Prod.fst

/-- AWL_FENCE (R343). -/
def awlFenceOp (c : Nat) (d : Dev) : Dev :=
  if Tab.has d.hide.fences c then d.fenceTry
  else if !d.canStart c 0x21 then d else
  match d.ctx? c with
  | none => d
  | some x =>
    let mask := x.n 32 2
    if !(x.cflagsOk && x.zeroFrom 34 && mask != 0) then d.finishSt c .invalidCmd
    else
      let f : AwlFence := { mask := mask, seq := x.seq, runs := d.attnRunsOn mask }
      let d := d.start c
      ({ d with hide := { d.hide with fences := Tab.set d.hide.fences c f } } : Dev).fenceTry
def execAwlFence (ctx : Nat) (s : State) : Host.Outcome State Fault Refusal := onUnit (fun _ => decide (ctx < 4096)) (awlFenceOp ctx) s

/-! Stitches and refresh (R331 to R333). -/

/-- REFRESH_DUE (R332): bank b of a stack, numbered 32 × channel + 16 × pseudo-channel + bank, so that unit u owns banks 2u and 2u + 1 (R326). -/
def refreshDueOp (n b : Nat) (d : Dev) : Dev :=
  let k := d.stack n
  if k.selfRefresh || d.stackOut n then d
  else if Tab.has k.stitches (b / 2) then
    (if k.refreshWait.contains b then d else (d.setStack n { k with refreshWait := insNat k.refreshWait b }).bump (pgHide n) 0 3)
  else d.bump (pgHide n) 0 2
def execRefreshDue (stack bank : Nat) (s : State) : Host.Outcome State Fault Refusal :=
  onUnit (fun _ => decide (stack < 16) && decide (bank < 1024)) (refreshDueOp stack bank) s

/-- STITCH_END: the refreshes that waited for the unit run, and the cycles it yields are charged to its work (R333). -/
def stitchEndOp (n u : Nat) (d : Dev) : Dev :=
  let k := d.stack n
  match Tab.find? k.stitches u with
  | none => d
  | some s =>
    let due := k.refreshWait.filter (fun b => b / 2 == u)
    let y := 80 * due.length
    let d := d.setStack n { k with stitches := Tab.del k.stitches u, refreshWait := k.refreshWait.filter (fun b => b / 2 != u) }
    let d := (d.bump (pgHide n) 0 2 due.length).bump (pgAwl n) 0 4 y
    match s.owner with
    | .seq c => (match d.seq? c with
      | some x => d.setSeq c { x with yielded := x.yielded + y }
      | none => d)
    | .stream _ => d.bump (pgAwl n) 0 5 y
    | .attn _ => d.bump (pgAwl n) 0 5 y
    | .pool _ => d
def execStitchEnd (stack unit : Nat) (s : State) : Host.Outcome State Fault Refusal :=
  onUnit (fun _ => decide (stack < 16) && decide (unit < 512)) (stitchEndOp stack unit) s

/-! A stack out of service (R352). -/

/-- Work that a stack going out of service ends. -/
def Dev.stackEnds (d : Dev) (n : Nat) : Dev :=
  let cs := (d.hide.seqs.filter (fun s => s.2.stack == n)).map Prod.fst
  let d := cs.foldl (fun d c => d.seqEnd c .tierFail) d
  let ms := (d.lat.movers.filter (fun m => m.2.awl == some n)).map Prod.fst
  let d := ms.foldl (fun d c => ({ d with lat := { d.lat with movers := Tab.del d.lat.movers c } } : Dev).finishSt c .tierFail) d
  let qs := ((d.srch.streams.filter (fun s => (s.2.started || s.2.bound) && s.2.place == Place.hide n)).map (fun (s : Nat × Stream) => s.1 / 32768)).eraseDups
  qs.foldl (fun d k => d.queryEnd k .tierFail) d

/-- Take a stack out of service with what that ends. -/
def Dev.stackDown (d : Dev) (n : Nat) : Dev := if d.stackOut n then d else (d.stackOff n).stackEnds n

/-- LANE_FAIL. -/
def laneFailOp (n : Nat) (d : Dev) : Dev := (d.setErr (pgHide n) 1 0).stackDown n
def execLaneFail (stack : Nat) (s : State) : Host.Outcome State Fault Refusal := onUnit (fun _ => decide (stack < 16)) (laneFailOp stack) s

/-- OFFLINE_REQ: HIDE_CFG.OFFLINE_REQ written 1. -/
def offlineReqOp (n : Nat) (d : Dev) : Dev := d.stackDown n
def execOfflineReq (stack : Nat) (s : State) : Host.Outcome State Fault Refusal := onUnit (fun _ => decide (stack < 16)) (offlineReqOp stack) s

end Sys2Proof.Machine
end

