-- ==== Sys2Proof/Machine/Saddle.lean ====
section
/-! DEFINITION. Saddlebag: looking keys up, the row cache, dropped rows, gathers for the filter and for models, and the FILTER phase
(R145, R392 to R407). -/

namespace Sys2Proof.Machine
open Sys2Proof

def pgSad (i : Nat) : Nat := 0xA + i
def Dev.sbInst (d : Dev) (i : Nat) : SbInst := Tab.getD d.sb.inst i {}
def Dev.setSbInst (d : Dev) (i : Nat) (x : SbInst) : Dev := { d with sb := { d.sb with inst := Tab.set d.sb.inst i x } }
def Dev.gather? (d : Dev) (r : Nat) : Option GatherReq := Tab.find? d.sb.reqs r
def Dev.setGather (d : Dev) (r : Nat) (x : GatherReq) : Dev := { d with sb := { d.sb with reqs := Tab.set d.sb.reqs r x } }
def Dev.delGather (d : Dev) (r : Nat) : Dev := { d with sb := { d.sb with reqs := Tab.del d.sb.reqs r } }

/-! Image fields (R392). -/

def rtRows (h : List Byte) : Nat := leAt h 4 4
def rtStride (h : List Byte) : Nat := leAt h 12 4
def rtFmt (h : List Byte) : Nat := leAt h 16 1
def rtHashed (h : List Byte) : Bool := (leAt h 17 1).testBit 0
def rtPresent (h : List Byte) : Bool := (leAt h 17 1).testBit 2
def rtNoCache (h : List Byte) : Bool := (leAt h 17 1).testBit 3
def rtDim (h : List Byte) : Nat := leAt h 18 2
/-- Address and length of an extent: 0 the rows, 1 the bitmap or the hash index. -/
def rtAddr (h : List Byte) (ext : Nat) : Nat := if ext = 0 then leAt h 24 8 else leAt h 40 8
def rtLen (h : List Byte) (ext : Nat) : Nat :=
  if ext = 0 then rtRows h * rtStride h else if rtHashed h then 128 * 2 ^ leAt h 48 1 else (rtRows h + 7) / 8

/-- A decoded row (R393): the fused multiply-add rounds once, and subnormals are values like any other (R229). -/
def rowDecode (h b : List Byte) : List Word :=
  let n := rtDim h
  match rtFmt h with
  | 0 => (List.range n).map (fun j => w32 (leAt b (4 * j) 4))
  | 1 => eltWords 6 n b
  | f =>
    let s := fp16.decode (leAt b 0 2)
    let o := fp16.decode (leAt b 2 2)
    (List.range n).map (fun j =>
      let c := if f = 2 then leAt b (4 + j) 1 else leAt b (4 + j / 2) 1 / (if j % 2 = 0 then 1 else 16) % 16
      word32 ((s.mul (.ofInt (c : Nat))).add o))

/-! The row cache (R399 to R402). -/

/-- SB_CACHE_CFG.LINES_LOG2 as it is used; sets. -/
def Dev.sbSets (d : Dev) (i : Nat) : Nat := 2 ^ (min (max (d.fd R.sbCacheCfg 4 0 i) 14) 18) / 16
/-- Set of a tag: which one is left open (log entry 20). -/
def Dev.sbSet (d : Dev) (i : Nat) (l : CacheLine) : Nat := Config.free [0, 400, l.handle, l.version, l.extent, l.off] % d.sbSets i
/-- Seat address of a line's data. -/
def Dev.sbData (d : Dev) (i k : Nat) : Nat := 2 ^ 26 * (d.addr52 R.sbCacheBaseLo R.sbCacheBaseHi i / 2 ^ 26) + 256 * k
/-- Same tag. -/
def CacheLine.same (a b : CacheLine) : Bool := a.handle == b.handle && a.version == b.version && a.extent == b.extent && a.off == b.off
/-- Where a tag stands. -/
def SbInst.find (x : SbInst) (l : CacheLine) : Option (Nat × CacheLine) := List.find? (fun (e : Nat × CacheLine) => e.2.same l) x.lines

/-- A hit (R400): the count rises, and after AGE_HITS hits every count of the set is halved. -/
def Dev.sbHit (d : Dev) (i k : Nat) : Dev :=
  let x := d.sbInst i
  let st := k / 16
  let n := Tab.getD x.hits st 0 + 1
  let lines := Tab.upd? x.lines k (fun l => { l with freq := min (l.freq + 1) 15 })
  let d := if max (d.fd R.sbCfg 15 8 i) 16 ≤ n then
      d.setSbInst i { x with lines := lines.map (fun e => if e.1 / 16 = st then (e.1, { e.2 with freq := e.2.freq / 2 }) else e), hits := Tab.del x.hits st }
    else d.setSbInst i { x with lines := lines, hits := Tab.set x.hits st n }
  d.bump (pgSad i) 0 4

/-- Victim way of a set: an invalid one, or the lowest count, the lowest index on a tie (R400). -/
def SbInst.victim (x : SbInst) (st : Nat) : Nat × Option CacheLine :=
  match firstBelow 16 (fun w => !Tab.has x.lines (16 * st + w)) with
  | some w => (16 * st + w, none)
  | none =>
    let best := (List.range 16).foldl (fun (b : Nat × Nat) w =>
      let f := (Tab.getD x.lines (16 * st + w) { handle := 0, version := 0, extent := 0, off := 0 }).freq
      if f < b.1 then (f, w) else b) (16, 0)
    (16 * st + best.2, Tab.find? x.lines (16 * st + best.2))

/-- Install a filled line, or not (R400): the victim's count then falls by 1. -/
def Dev.sbInstall (d : Dev) (i : Nat) (l : CacheLine) (b : List Byte) : Dev :=
  let x := d.sbInst i
  let (k, v) := x.victim (d.sbSet i l)
  match v with
  | some o =>
    if 8 ≤ o.freq then (d.setSbInst i { x with lines := Tab.set x.lines k { o with freq := o.freq - 1 } }).bump (pgSad i) 0 6
    else (d.setSbInst i { x with lines := Tab.set x.lines k { l with freq := 1 } }).store (d.sbData i k) (slice b 0 256)
  | none => (d.setSbInst i { x with lines := Tab.set x.lines k { l with freq := 1 } }).store (d.sbData i k) (slice b 0 256)

/-- A range of stored memory held poisoned, by 64-byte piece from its start. -/
def Dev.badPieces (d : Dev) (a n : Nat) : List Nat := (List.range ((n + 63) / 64)).filter (fun k => d.linePoison (a / 64 + k))

/-- What a fill's storage answers now (R395, R398, R404). -/
inductive SbRead where
  | ok (b : List Byte) (bad : List Nat)
  | wait
  | fail
deriving DecidableEq, Repr

/-- Map generation under which a request reads other nodes. -/
def Dev.gatherGen (d : Dev) (u : GatherUse) : Nat :=
  match d.gatherSid u with
  | none => d.curGen
  | some sid => match d.ctx? sid with
    | some x => x.mapGen
    | none => match d.search? sid with
      | some s => s.mapGen
      | none => d.curGen

/-- Send the read of another node's line. -/
def Dev.sbAsk (d : Dev) (i s g n vc gen : Nat) : Dev × SbRead :=
  match d.sendReq (.saddle i (64 * (d.sbInst i).resets + s)) (d.request 1 (g / 2 ^ 52) (g % 2 ^ 52) (up64 n) gen vc) (d.chargeOf (Reader.saddle (64 * i + s)).buf) with
  | (d, true) => (d, .wait)
  | (d, false) => (d, .fail)

/-- Read a fill's storage; `first` sends the request to another node. -/
def Dev.sbRead (d : Dev) (i s : Nat) (f : Fill) (gen : Nat) (first : Bool) : Dev × SbRead :=
  let far := fun (d : Dev) (g vc : Nat) =>
    if f.failed then (d, SbRead.fail)
    else match f.data with
      | some (b, bad) => (d, SbRead.ok b bad)
      | none => if first then d.sbAsk i s g f.len vc gen else (d, SbRead.wait)
  if !d.isLocal f.addr then far d f.addr 4
  else
    let a := localPart f.addr
    match regionOf d.part a with
    | .obj => match d.objRead (.saddle (64 * i + s)) a f.len with
      | (d, .ready b none) => (if first then d else d.heatAt f.addr, .ok b [])
      | (d, .ready b (some _)) => (if first then d else d.heatAt f.addr, .ok b (List.range 4))
      | (d, .wait) => (d, .wait)
      | (d, .fail _) => (d, .fail)
    | .nbr => match d.nbrTarget a with
      | .remote _ g => far d g 7
      | _ => (d, .fail)
    | .hide n =>
      if d.stackOut n || (match regionOf d.part (a + f.len - 1) with
          | .hide m => d.stackOut m
          | _ => false) then (d, .fail)
      else if !d.blocked a f.len false then
        let d := d.touch a f.len (d.chargeOf (Reader.saddle (64 * i + s)).buf)
        (d, .ok (d.peek a f.len) (d.badPieces a f.len))
      else (d.recall a f.len false, .wait)
    | .seat =>
      if !d.blocked a f.len false then
        let d := d.touch a f.len
        (d, .ok (d.peek a f.len) (d.badPieces a f.len))
      else (d.recall a f.len false, .wait)
    | _ => (d, .fail)

/-- Start a read for key position `pos` of request r: a free fill slot, or the lookup waits for one (R401). -/
def Dev.sbFill (d : Dev) (r pos : Nat) (x : GatherReq) (l : CacheLine) (bypass : Bool) : Dev :=
  let y := d.sbInst x.inst
  match firstBelow 64 (fun s => !Tab.has y.fills s) with
  | none => if y.slotWait.contains (r, pos) then d else d.setSbInst x.inst { y with slotWait := y.slotWait ++ [(r, pos)] }
  | some s =>
    let n := min 256 (up64 (rtLen x.image l.extent - l.off))
    let f : Fill := { line := l, addr := rtAddr x.image l.extent + l.off, len := n, bypass := bypass, since := d.now, waiters := [(r, pos)] }
    let d := if bypass then d else d.bump (pgSad x.inst) 0 5
    let d := d.setSbInst x.inst { y with fills := Tab.set y.fills s f, slotWait := y.slotWait.erase (r, pos) }
    if d.isLocal f.addr && regionOf d.part (localPart f.addr) != .nbr then d
    else match d.sbRead x.inst s f (d.gatherGen x.use) true with
      | (d, .fail) => d.setSbInst x.inst { d.sbInst x.inst with fills := Tab.set (d.sbInst x.inst).fills s { f with failed := true } }
      | (d, _) => d

/-- STALLED_TIER on the command of a gather (R78, R401). -/
def Dev.stallGather (d : Dev) (u : GatherUse) : Dev :=
  let q := fun (d : Dev) (k : Nat) => (d.updQuery k (fun y => { y with flags := y.flags ||| 16 })).updCtx (k / 256) (fun x => { x with stalled := true })
  match u with
  | .filter k => q d k
  | .tokens r => match d.run? r with
    | some x => (match x.use with
      | .queryEmbed k => q d k
      | .queryRerank k => q d k
      | _ => d.updCtx x.ctx (fun y => { y with stalled := true }))
    | none => d

/-- One line of an extent for a lookup: from the request's delivered lines, from the cache, or by a fill. -/
def Dev.sbLine (d : Dev) (r pos ext off : Nat) : Dev × GotV GotLine :=
  match d.gather? r with
  | none => (d, .wait)
  | some x =>
    let i := x.inst
    let y := d.sbInst i
    let l : CacheLine := { handle := x.handle, version := x.version, extent := ext, off := off }
    match x.got.find? (fun g => g.pos == pos && g.ext == ext && g.off == off) with
    | some g => (d, .ok g)
    | none =>
      if y.fills.any (fun f => f.2.line.same l && f.2.waiters.contains (r, pos)) then (d, .wait)
      else
        let cached := fbit (d.rg R.sbCfg i) 0 && !rtNoCache x.image
        if !cached then (d.sbFill r pos x l true, .wait)
        else match List.find? (fun (f : Nat × Fill) => f.2.line.same l && !f.2.bypass) y.fills with
          | some (s, f) =>
            let d := ((d.setSbInst i { y with fills := Tab.set y.fills s { f with waiters := f.waiters ++ [(r, pos)] } }).bump (pgSad i) 0 5).bump (pgSad i) 0 7
            (if f.late then d.stallGather x.use else d, .wait)
          | none =>
            match y.find l with
            | some (k, _) =>
              let a := d.sbData i k
              if d.bad a 256 then
                let d := (d.touch a 256).setSbInst i { y with lines := Tab.del y.lines k }
                let d := (d.setErr (pgSad i) 1 a).bump (pgSad i) 0 11
                (d.sbFill r pos x l false, .wait)
              else
                let ce := (List.range 32).any (fun w => (d.mem.wclass (a / 8 + w)).corrected && d.lineValid ((a / 8 + w) / 8))
                let d := if ce then d.setInt (pgSad i) 1 else d
                let d := d.touch a 256
                (d.sbHit i k, .ok { pos := pos, ext := ext, off := off, data := d.peek a 256 })
            | none => (d.sbFill r pos x l false, .wait)

/-- Bytes [off, off + n) of an extent for a lookup (R397, R399). -/
def Dev.sbBytes (d : Dev) (r pos : Nat) (x : GatherReq) (ext off n : Nat) : Dev × GotV (List Byte) :=
  let g := rtAddr x.image ext
  if d.isLocal g && regionOf d.part (localPart g) == .seat then
    let a := localPart g + off
    if !d.blocked a n false then
      let d := d.touch a n
      (d, if d.bad a n then .bad .poisoned else .ok (d.peek a n))
    else (d.recall a n false, .wait)
  else
    let ls := if n = 0 then [] else (List.range ((off + n - 1) / 256 + 1 - off / 256)).map (fun i => 256 * (off / 256 + i))
    let step := fun (acc : Dev × GotV (List GotLine)) (o : Nat) =>
      let (d, v) := acc
      let (d, w) := d.sbLine r pos ext o
      (d, match v, w with
        | .ok l, .ok e => .ok (l ++ [e])
        | .bad st, _ => .bad st
        | _, .bad st => .bad st
        | _, _ => .wait)
    match ls.foldl step (d, .ok []) with
    | (d, .ok gs) =>
      let hit := gs.any (fun e => e.bad.any (fun k => decide (off < e.off + 64 * k + 64) && decide (e.off + 64 * k < off + n)))
      if hit then (d, .bad .poisoned) else (d, .ok (slice ((gs.map (fun e => slice e.data 0 256)).flatten) (off % 256) n))
    | (d, .wait) => (d, .wait)
    | (d, .bad st) => (d, .bad st)

/-! Lookups (R396, R397). -/

/-- What a key resolves to. -/
inductive RowAt where
  | row (i : Nat)
  | invalid
  | missing
deriving DecidableEq, Repr

/-- Entries of a bucket, in order: the key's row, an empty entry, or neither. -/
def bucketFind (rows key : Nat) (b : List Byte) : Option RowAt :=
  (List.range 8).findSome? (fun e =>
    let k := leAt b (16 * e) 8
    if k = key then some (if rows ≤ leAt b (16 * e + 8) 4 then .invalid else .row (leAt b (16 * e + 8) 4))
    else if k = 2 ^ 64 - 1 then some .missing else none)

/-- Probes p, p + 1, … of a hash index; the number of buckets read goes with the answer. -/
def Dev.hashProbe (d : Dev) (r pos : Nat) (x : GatherReq) (key b : Nat) : Nat → Nat → Dev × GotV (RowAt × Nat)
  | 0, p => (d, .ok (.missing, p))
  | n + 1, p =>
    match d.sbBytes r pos x 1 (128 * ((b + p) % 2 ^ leAt x.image 48 1)) 128 with
    | (d, .wait) => (d, .wait)
    | (d, .bad st) => (d, .bad st)
    | (d, .ok bytes) =>
      match bucketFind (rtRows x.image) key bytes with
      | some a => (d, .ok (a, p + 1))
      | none => Dev.hashProbe d r pos x key b n (p + 1)

/-- row_index of R396. -/
def Dev.rowIndex (d : Dev) (r pos : Nat) (x : GatherReq) (key : Nat) : Dev × GotV (RowAt × Nat) :=
  let h := x.image
  if rtHashed h then
    let hash := key * 0x9E3779B97F4A7C15 % 2 ^ 64
    d.hashProbe r pos x key (hash >>> (64 - leAt h 48 1)) (leAt h 49 1) 0
  else
    let i := (key + 2 ^ 64 - leAt h 32 8) % 2 ^ 64
    if rtRows h ≤ i then (d, .ok (.invalid, 0))
    else if rtPresent h then
      match d.sbBytes r pos x 1 (i / 8) 1 with
      | (d, .wait) => (d, .wait)
      | (d, .bad st) => (d, .bad st)
      | (d, .ok b) => (d, .ok (if (leNat b).testBit (i % 8) then .row i else .missing, 0))
    else (d, .ok (.row i, 0))

/-- End a request whose storage failed (R404). -/
def Dev.gatherFail (d : Dev) (r : Nat) (st : Status) : Dev :=
  match d.gather? r with
  | none => d
  | some x =>
    let d := d.delGather r
    match x.use with
    | .filter k => d.queryEnd k st
    | .tokens run => d.runFail run st

/-- Position beyond which a request's lookups do not run ahead (R405). -/
def Dev.gatherLimit (d : Dev) (x : GatherReq) : Nat :=
  match x.use with
  | .filter k => (match d.query? k with
    | some q => q.evaluated
    | none => 0) + min (d.fd R.sbCfg 23 16 x.inst) 64
  | .tokens _ => x.keys.length

/-- Put a lookup's outcome. -/
def Dev.rowPut (d : Dev) (r pos : Nat) (v : Option (List Word)) : Dev :=
  match d.gather? r with
  | none => d
  | some x => d.setGather r { x with rows := Tab.set x.rows pos v, got := x.got.filter (fun g => g.pos != pos) }

/-- The request has a lookup that can begin: at a key position it may run ahead to, the instance taking new requests, or this one having
begun (R55, R405). -/
def Dev.lookupAsks (d : Dev) (i : Nat) (x : GatherReq) : Bool :=
  x.inst == i && (if x.begun.isEmpty then d.runs (pgSad i) else d.goesOn (pgSad i)) &&
  (List.range (min x.keys.length (d.gatherLimit x + 1))).any (fun p => !x.begun.contains p && !Tab.has x.rows p)
/-- The request whose lookup instance i begins next: up to four a cycle, by R469 among their functions (R397). -/
def Dev.lookupNext (d : Dev) (i : Nat) : Option Nat × Nat :=
  let y := d.sbInst i
  if y.startedAt.1 == d.now && decide (4 ≤ y.startedAt.2) then (none, y.ptr)
  else d.fnPick ((d.sb.reqs.filter (fun e => d.lookupAsks i e.2)).map Prod.fst)
    (fun r => match (d.gather? r).bind (fun x => d.gatherSid x.use) with
      | some c => qKey c 0
      | none => 0) y.ptr

/-- Begin the lookup of key position `pos` of request r. -/
def Dev.lookupBegin (d : Dev) (r pos : Nat) (x : GatherReq) (ptr : Nat) : Dev :=
  let y := d.sbInst x.inst
  ((d.setSbInst x.inst { y with ptr := ptr, startedAt := tally d.now y.startedAt }).setGather r { x with begun := insNat x.begun pos }).bump (pgSad x.inst) 0 0

/-- The lookup of key position `pos` of request r, begun: its row is delivered or dropped. -/
def Dev.lookup (d : Dev) (r pos : Nat) : Dev :=
  match d.gather? r with
  | none => d
  | some x =>
    let p := pgSad x.inst
    GotV.after (d.rowIndex r pos x (x.keys.getD pos 0)) (fun d st => d.gatherFail r st) fun d a =>
      match a.1 with
      | .invalid => ((d.rowPut r pos none).bump p 0 2).bump p 0 13 (a.2 - 1)
      | .missing => ((d.rowPut r pos none).bump p 0 3).bump p 0 13 (a.2 - 1)
      | .row i =>
        GotV.after (d.sbBytes r pos x 0 (i * rtStride x.image) (rowBytes (rtFmt x.image) (rtDim x.image))) (fun d st => d.gatherFail r st) fun d b =>
          ((d.rowPut r pos (some (rowDecode x.image b))).bump p 0 1).bump p 0 13 (a.2 - 1)

/-- ROW_LOOKUP: the key at position `pos` of a request is resolved and its row delivered or dropped; reads still to come leave it to be
taken up again (R396, R397, R401, R403, R404). -/
def rowLookupOp (r pos : Nat) (d : Dev) : Dev :=
  match d.gather? r with
  | none => d
  | some x =>
    if Tab.has x.rows pos || decide (x.keys.length ≤ pos) || decide (d.gatherLimit x < pos) then d
    else if x.begun.contains pos then (if d.goesOn (pgSad x.inst) then d.lookup r pos else d)
    else match d.lookupNext x.inst with
      | (some n, ptr) => if n = r then (d.lookupBegin r pos x ptr).lookup r pos else d
      | (none, _) => d
def execRowLookup (req pos : Nat) (s : State) : Host.Outcome State Fault Refusal := onDev (rowLookupOp req pos) s

/-- Deliver a fill's data to those that wait for it. -/
def Dev.fillGive (d : Dev) (f : Fill) (b : List Byte) (bad : List Nat) : Dev :=
  f.waiters.foldl (fun (d : Dev) w =>
    match d.gather? w.1 with
    | some x => d.setGather w.1 { x with got := x.got ++ [{ pos := w.2, ext := f.line.extent, off := f.line.off, data := b, bad := bad }] }
    | none => d) d

/-- LINE_FILL_DONE: a fill's data has come; the line is installed or bypassed, and its waiters have it (R400 to R402, R404). A line with
poisoned data is delivered and not installed. -/
def lineFillDoneOp (i s : Nat) (d : Dev) : Dev :=
  match Tab.find? (d.sbInst i).fills s with
  | none => d
  | some f =>
    match d.sbRead i s f 0 false with
    | (d, .wait) => d
    | (d, .fail) =>
      let y := d.sbInst i
      let d := d.setSbInst i { y with fills := Tab.del y.fills s }
      ((f.waiters.map Prod.fst).eraseDups).foldl (fun d r => d.gatherFail r .tierFail) d
    | (d, .ok b bad) =>
      let y := d.sbInst i
      let d := (d.setSbInst i { y with fills := Tab.del y.fills s }).fillGive f b bad
      if f.doomed || f.bypass || !bad.isEmpty then d else d.sbInstall i f.line b
def execLineFillDone (saddle slot : Nat) (s : State) : Host.Outcome State Fault Refusal :=
  onUnit (fun _ => decide (saddle < 2) && decide (slot < 64)) (lineFillDoneOp saddle slot) s

/-- SB_LATE (R401). -/
def sbLateOp (i s : Nat) (d : Dev) : Dev :=
  let y := d.sbInst i
  match Tab.find? y.fills s with
  | none => d
  | some f =>
    if f.late || decide (d.now < f.since + usCycles (d.fd R.sbLate 15 0 i)) then d
    else
      let d := (d.setSbInst i { y with fills := Tab.set y.fills s { f with late := true } }).bump (pgSad i) 0 9
      f.waiters.foldl (fun (d : Dev) w => match d.gather? w.1 with
        | some x => d.stallGather x.use
        | none => d) d
def execSbLate (saddle slot : Nat) (s : State) : Host.Outcome State Fault Refusal :=
  onUnit (fun _ => decide (saddle < 2) && decide (slot < 64)) (sbLateOp saddle slot) s

/-! Gathers (R405, R406). -/

/-- Every key has been looked up. -/
def GatherReq.complete (x : GatherReq) : Bool := (List.range x.keys.length).all (fun i => Tab.has x.rows i)

/-- A row as it stands in W7 (R406). -/
def tokenRowBytes (h : List Byte) (v : Option (List Word)) : List Byte :=
  let es := if leAt h 50 1 = 0 then 4 else 2
  match v with
  | some l => (l.map (fun w => if leAt h 50 1 = 0 then natLe 4 w.toNat else natLe 2 (eltEnc 6 (val32 w)))).flatten
  | none => List.replicate (rtDim h * es) 0

/-- GATHER_DONE: the rows of a GATHER stage stand in W7, and its first repetition can start (R283, R403, R406). -/
def gatherDoneOp (r : Nat) (d : Dev) : Dev :=
  match d.run? r with
  | none => d
  | some x =>
    match x.step, x.gather with
    | .gather, some n =>
      match d.gather? n with
      | none => d
      | some g =>
        if !g.complete then d
        else
          let h := d.runHdr x
          let st := d.runStage x x.stage
          let w7 := x.w7 h
          let es := if leAt g.image 50 1 = 0 then 4 else 2
          let sz := up64 (rtDim g.image * es)
          let go := (List.range g.keys.length).foldl (fun (acc : Dev × Put) u => match acc with
            | (d, .done) => d.put x.ctx (w7.base + st.gatherOff + u * sz) (tokenRowBytes g.image (Tab.getD g.rows u none))
            | _ => acc) (d, .done)
          let drops := ((List.range g.keys.length).filter (fun u => (Tab.getD g.rows u none).isNone)).length
          match go with
          | (d, .done) =>
            ((d.delGather n).updRun r (fun y => { y with step := .ready, gather := none, dropped := y.dropped || decide (0 < drops) })).bump pgCtx 4 6 drops
          | (d, .wait) => d
          | (d, .fail st) => d.gatherFail n st
    | _, _ => d
def execGatherDone (run : Nat) (s : State) : Host.Outcome State Fault Refusal := onDev (gatherDoneOp run) s

/-- Evaluate the filter on the candidates whose rows have come, in order, until K survive or none is left (R145, R405). -/
def filterRun (k : Nat) (prog : List Byte) (rows : Tab (Option (List Word))) : Nat → Query → Query
  | 0, q => q
  | n + 1, q =>
    if k ≤ q.survivors.length then q
    else match q.ordered[q.evaluated]?, Tab.find? rows q.evaluated with
      | some c, some v =>
        let q1 := { q with evaluated := q.evaluated + 1 }
        match v with
        | none => filterRun k prog rows n { q1 with flags := q.flags ||| 128 }
        | some row => filterRun k prog rows n (if filterVerdict prog row then { q1 with survivors := q.survivors ++ [c] } else q1)
      | _, _ => q

/-- The gather of a query's filter: the ids of its candidates, in order, in the bound row table. -/
def Dev.filterGather (d : Dev) (k : Nat) (y : Query) (b : Nat × Nat) : GatherReq :=
  let t := (d.tdesc b.1).slot b.2
  { inst := y.core / 4, use := .filter k, handle := b.1, version := t.ver, image := d.peekImg t.base 64, keys := y.ordered.map (fun c => c.id) }
/-- The gather of query k's filter, if it has been made. -/
def Dev.filterReq (d : Dev) (k : Nat) : Option (Nat × GatherReq) :=
  List.find? (fun (e : Nat × GatherReq) => e.2.use == GatherUse.filter k) d.sb.reqs

/-- FILTER_PHASE (R145, R405): its gather is made, then the program runs on each candidate in order as its row comes. -/
def filterPhaseOp (sid q : Nat) (d : Dev) : Dev :=
  let k := qKey sid q
  match d.inPhase k .filter with
  | none => d
  | some (s, y) =>
    match d.filterReq k with
    | none =>
      if y.ordered.isEmpty then d.toPhase k .write
      else match bindOf s.binds (cAttrTbl s.image) with
        | none => d.queryEnd k .badTable
        | some b =>
          { d with sb := { d.sb with reqs := Tab.set d.sb.reqs d.sb.next (d.filterGather k y b), next := d.sb.next + 1 } }
    | some (n, g) =>
      let z := filterRun s.k s.filter g.rows y.ordered.length y
      let d := d.setQuery k z
      if s.k ≤ z.survivors.length || y.ordered.length ≤ z.evaluated then
        ((d.delGather n).bump (pgSad g.inst) 0 12 ((g.rows.filter (fun e => decide (z.evaluated ≤ e.1) && e.2.isSome)).length)).toPhase k .write
      else d
def execFilterPhase (sid q : Nat) (s : State) : Host.Outcome State Fault Refusal :=
  onUnit (fun _ => decide (sid < 16384) && decide (q < 256)) (filterPhaseOp sid q) s

/-- BLK_CTL.SOFT_RESET of a SADDLEBAG page (R407). -/
def Dev.saddleReset (d : Dev) (i : Nat) : Dev :=
  let rs := (d.sb.reqs.filter (fun e => e.2.inst == i)).map Prod.fst
  let d := rs.foldl (fun d r => d.gatherFail r .abortedReset) d
  let d := d.dropReads (fun w _ => match w with
    | .saddle n => n / 64 == i
    | _ => false)
  d.setSbInst i { resets := (d.sbInst i).resets + 1 }

end Sys2Proof.Machine
end

