-- ==== Sys2Proof/Machine/Tack.lean ====
section
/-! DEFINITION. The Tack room's commands: objects, placement, migration, HINT, staging, neighbour extents (R300 to R324). -/

namespace Sys2Proof.Machine
open Sys2Proof

/-! Objects (R300, R301). -/

/-- OBJ_RESULT of the master with result index m. -/
def Dev.objResult (d : Dev) (m obj code : Nat) : Dev :=
  { d with tack := { d.tack with result := Tab.set d.tack.result m (w32 (obj % 2 ^ 25 + code * 2 ^ 25 + 2 ^ 31)) } }

/-- A request to a Tack room that takes no work waits (R603). -/
def Dev.tackAsk (d : Dev) (a : ObjAsk) : Dev := { d with tack := { d.tack with asks := d.tack.asks ++ [a] } }

/-- The same for a request that has a result: DONE reads 0 until it is served. -/
def Dev.objWaits (d : Dev) (m : Nat) (a : ObjAsk) : Dev :=
  ({ d with tack := { d.tack with result := Tab.set d.tack.result m 0 } } : Dev).tackAsk a

/-- ALLOC_REQ served (R301): the refusals in their order, then the object. -/
def Dev.allocDo (d : Dev) (m : Nat) (v : Word) (fn : Nat) : Dev :=
  let n := fld v 18 0
  let hide := fbit v 19
  let any := fbit v 24
  if n = 0 || decide (262144 < n) || fld v 31 25 != 0 || (hide && !any && d.stackOut (fld v 23 20)) then d.objResult m 0 5
  else if !d.quotaFits fn (if hide then 1 else 0) n then d.objResult m 0 1
  else match d.freeRun (slotsOf n) with
    | none => d.objResult m 0 2
    | some o =>
      let pool := if !hide then some Pool.seat else if any then (d.bestStack (fun _ => true)).map Pool.hide else some (.hide (fld v 23 20))
      match pool with
      | none => d.objResult m 0 3
      | some p => match d.allocIn p n fn with
        | some (d, a) => (d.makeObject o n fn a).objResult m o 0
        | none => d.objResult m 0 3

/-- SEAL served (R300, R301). -/
def Dev.sealDo (d : Dev) (m o : Nat) : Dev :=
  if o < d.slots && (d.obj o).st = 1 then (d.sealObject o).objResult m o 0 else d.objResult m o 4

/-- FREE served (R300, R301, R308). -/
def Dev.freeDo (d : Dev) (m o : Nat) : Dev :=
  if o < d.slots && ((d.obj o).st = 1 || (d.obj o).st = 2) then (d.releaseObject o).objResult m o 0 else d.objResult m o 4

/-- ALLOC_REQ (R301, R603). -/
def allocReqOp (m : Master) (v : Word) (d : Dev) : Dev :=
  let fn := Tab.getD d.tack.allocFn m.index 0 % 1024
  if !d.runs pgTack then d.objWaits m.index (.alloc m.index v fn) else d.allocDo m.index v fn
def execAllocReq (m : Master) (v : Word) (s : State) : Host.Outcome State Fault Refusal := onDev (allocReqOp m v) s

/-- OBJ_CTL OP SEAL (R300, R301, R603). -/
def objSealOp (m : Master) (o : Nat) (d : Dev) : Dev :=
  if !d.runs pgTack then d.objWaits m.index (.seal m.index o) else d.sealDo m.index o
def execObjSeal (m : Master) (obj : Nat) (s : State) : Host.Outcome State Fault Refusal :=
  onUnit (fun _ => decide (obj < 2 ^ 25)) (objSealOp m obj) s

/-- OBJ_CTL OP FREE (R300, R301, R603). -/
def objFreeOp (m : Master) (o : Nat) (d : Dev) : Dev :=
  if !d.runs pgTack then d.objWaits m.index (.free m.index o) else d.freeDo m.index o
def execObjFree (m : Master) (obj : Nat) (s : State) : Host.Outcome State Fault Refusal :=
  onUnit (fun _ => decide (obj < 2 ^ 25)) (objFreeOp m obj) s

/-! Watermarks and order (R307, R310 to R312). -/

/-- High and low watermark of the seat and Hide pools, in percent. -/
def Dev.wmHigh (d : Dev) (tier : Nat) : Nat := if tier = 0 then d.fd R.tackWmark 7 0 else d.fd R.tackWmark 23 16
def Dev.wmLow (d : Dev) (tier : Nat) : Nat := min (if tier = 0 then d.fd R.tackWmark 15 8 else d.fd R.tackWmark 31 24) (d.wmHigh tier)
/-- A pool's use after `n` more units is within `pct` percent; flash and neighbour pools have no watermark, only room. -/
def Dev.poolWithin (d : Dev) (p : Pool) (n pct : Nat) : Bool :=
  match p with
  | .flash _ => decide (d.poolUsed p + n ≤ d.poolCap p)
  | .nbr _ => decide (d.poolUsed p + n ≤ d.poolCap p)
  | _ => decide ((d.poolUsed p + n) * 100 ≤ pct * d.poolCap p)
/-- Migrations allowed at once; running. -/
def Dev.migMax (d : Dev) : Nat := min (max (d.fd R.tackCfg 7 1) 1) 64
/-- A migration may start on an object, apart from its target (R307). -/
def Dev.migFree (_d : Dev) (e : ObjEntry) (pin : Bool) : Bool := e.st == 2 && !e.quarantine && e.mig == 0 && (pin || !e.pinned) && !e.lost

/-- Why a migration does not start. -/
inductive MigTry where
  | started (after : Dev)
  /-- MIG_MAX migrations are running. -/
  | full
  /-- Quota, watermark or space (R307). -/
  | refused

/-- Start a MOVE or ADD_NBR to a pool (R306, R307): the target is allocated and charged. -/
def Dev.migTo (d : Dev) (o : Nat) (p : Pool) (kind : MigKind) (pct : Nat) (pinFor : Option Nat) : MigTry :=
  let e := d.obj o
  if d.migMax ≤ d.tack.migs.length then .full
  else if !d.quotaFits e.fn p.tier e.len || !d.poolWithin p e.len (min pct (d.wmHigh p.tier)) then .refused
  else match d.allocIn p e.len e.fn with
    | none => .refused
    | some (d, a) =>
      let m : Migration := { kind := kind, target := some a, oldTier := e.primary, pinFor := pinFor, pin := pinFor.isSome, id := d.tack.nextMig + 1 }
      let d : Dev := { d with tack := { d.tack with migs := Tab.set d.tack.migs o m, nextMig := d.tack.nextMig + 1 } }
      let d := if e.primary = 3 then d.reinForget (chanRein (e.loc / 2 ^ 48)) (.flash 0 (.copy o) 0) else d
      let d := match p with
        | .flash c => d.reinForget (chanRein c) (.flash 0 (.check o) 0)
        | _ => d
      let c := match kind with
        | .move => if e.primary < p.tier && pinFor.isNone then 0 else 1
        | _ => 2
      .started ((d.updObj o (fun e => { e with mig := 1, kind := if kind == .move then 0 else 1 })).bump pgTack 0 c)

/-- Drop the neighbour copy of a STABLE object (R306). -/
def Dev.nbrDrop (d : Dev) (o : Nat) : Dev :=
  let e := d.obj o
  if e.nbr && e.mig = 0 then
    let m : Migration := { kind := .dropNbr, old := d.copyAlloc e 2, oldTier := 2 }
    let d : Dev := { d with tack := { d.tack with migs := Tab.set d.tack.migs o m } }
    (d.updObj o (fun e => { e with nbr := false, mig := 3, kind := 2 })).settle o
  else d

/-- Class of a hint in the order of R310: COLD, NONE, WARM, HOT. -/
def hintClass (h : Nat) : Nat := if h = 3 then 0 else if h = 0 then 1 else if h = 2 then 2 else 3
/-- Place of an object in the order of R310. -/
def Dev.demoteKey (d : Dev) (tier o : Nat) : Nat :=
  let e := d.obj o
  let past := d.quotaLimit e.fn tier != 0xFFFFFFFF && decide (d.quotaLimit e.fn tier < d.quotaUsed e.fn tier)
  (((if past then 0 else 1) * 4 + hintClass e.hint) * 256 + e.heat) * 2 ^ 25 + o
/-- Objects whose primary copy lies in a pool. -/
def Dev.poolObjs (d : Dev) (p : Pool) : List Nat :=
  (List.range d.slots).filter (fun o =>
    let e := d.obj o
    e.st == 2 && e.primary == p.tier && (match d.copyAlloc e e.primary with
      | some a => a.pool == p
      | none => false))
/-- Insertion by a key. -/
def insKey (key : Nat → Nat) (x : Nat) : List Nat → List Nat
  | [] => [x]
  | y :: t => if key x < key y then x :: y :: t else y :: insKey key x t

/-- Take the first object of an order that can be moved. -/
def Dev.demoteFirst (d : Dev) (tier : Nat) : List Nat → Dev × Bool
  | [] => (d, false)
  | o :: rest =>
    let tgt := if tier = 0 then (d.bestStack (fun _ => true)).map Pool.hide else d.bestChannel.map Pool.flash
    match tgt with
    | none => Dev.demoteFirst (d.bump pgTack 0 7) tier rest
    | some p => match d.migTo o p .move 100 none with
      | .started d => (d, true)
      | .full => (d, true)
      | .refused => Dev.demoteFirst (d.bump pgTack 0 7) tier rest

/-- Demotion from a pool (R310). -/
def Dev.demote (d : Dev) (tier n : Nat) : Dev :=
  let p : Pool := if tier = 0 then .seat else .hide n
  let k := if tier = 0 then 0 else 1 + n
  let past := !d.poolWithin p 0 (d.wmHigh tier)
  let under := d.poolWithin p 0 (d.wmLow tier)
  if under then { d with tack := { d.tack with demoting := delNat d.tack.demoting k } }
  else if !past && !d.tack.demoting.contains k then d
  else if d.migMax ≤ d.tack.migs.length then d
  else
    let d : Dev := { d with tack := { d.tack with demoting := insNat d.tack.demoting k } }
    let os := ((d.poolObjs p).filter (fun o => d.migFree (d.obj o) false)).foldl (fun l o => insKey (d.demoteKey tier) o l) []
    match d.demoteFirst tier os with
    | (d, true) => d
    | (d, false) => d.setInt pgTack 0

/-- Where an object is promoted to, if R311 says so. -/
def Dev.promoteTarget (d : Dev) (e : ObjEntry) : Option Pool :=
  let hot := decide (d.fd R.tackCfg 23 16 ≤ e.heat)
  let hide := (d.bestStack (fun _ => true)).map Pool.hide
  if e.hint = 1 && e.primary != 0 then some .seat
  else if e.hint = 0 && e.primary = 3 && hot then hide
  else if e.hint = 0 && e.primary = 1 && hot then some .seat
  else if e.hint = 2 && e.primary = 3 && hot then hide
  else none

/-- A refusal is counted (R319). -/
def Dev.migCount (d : Dev) : MigTry → Dev
  | .started d => d
  | .full => d
  | .refused => d.bump pgTack 0 7

/-- An extent needs room for a copy of higher HEAT than `h` (R311). -/
def Dev.nbrWanted (d : Dev) (ext h : Nat) : Bool :=
  (List.range d.slots).any (fun o =>
    let e := d.obj o
    d.migFree e false && e.primary == 3 && !e.nbr && e.hint != 3 && decide (d.fd R.tackCfg 31 24 ≤ e.heat) && decide (h < e.heat) &&
    decide (d.poolFree (.nbr ext) < e.len))

/-- MIGRATION_START (R306 to R316). -/
def migrationStartOp (m : MigStart) (d : Dev) : Dev :=
  if !d.runs pgTack then d else
  let placer := fbit (d.rg R.tackCfg) 0
  match m with
  | .demote t n => if placer && t < 2 && n < 16 then d.demote t n else d
  | .promote o =>
    let e := d.obj o
    if !placer || !d.migFree e false then d
    else match d.promoteTarget e with
      | some p => d.migCount (d.migTo o p .move (d.wmLow p.tier) none)
      | none => d
  | .cold o =>
    let e := d.obj o
    if !placer || !d.migFree e false || e.hint != 3 || e.primary = 3 then d
    else match d.bestChannel with
      | some c => d.migCount (d.migTo o (.flash c) .move 100 none)
      | none => d
  | .addNbr o x =>
    let e := d.obj o
    let pool := (List.range 16).any (fun n => !d.poolWithin (.hide n) 0 (d.wmLow 1))
    if !placer || !d.migFree e false || e.primary != 3 || e.nbr || e.hint = 3 || decide (e.heat < d.fd R.tackCfg 31 24) || !pool then d
    else d.migCount (d.migTo o (.nbr x) .addNbr 100 none)
  | .dropNbr o =>
    let e := d.obj o
    let losing := match Tab.find? d.tack.nbr (e.nbrLoc % 64) with
      | some x => x.st == .losing
      | none => false
    if e.nbr && e.mig = 0 && (losing || (placer && (e.primary != 3 || (!e.pinned && e.hint = 3) || d.nbrWanted (e.nbrLoc % 64) e.heat))) then d.nbrDrop o else d
  | .pin o =>
    match d.tack.pinWaits.find? (fun w => w.obj == o) with
    | none => d
    | some w =>
      let e := d.obj o
      if e.mig != 0 || e.st = 1 then d
      else
        let done := fun (d : Dev) (f : PinCmd → PinCmd) =>
          { d with tack := { d.tack with pinWaits := d.tack.pinWaits.erase w, pins := Tab.upd? d.tack.pins w.ctx f } }
        let fail := done d (fun p => { p with failed := p.failed + 1 })
        if e.primary = w.tier then
          ((done d (fun p => { p with changed := p.changed + 1 })).updObj o (fun e => { e with pinned := true })).bump pgTack 0 9
        else if !d.migFree e true then fail
        else
          let p := if w.tier = 0 then some Pool.seat
            else if w.tier = 3 then d.bestChannel.map Pool.flash
            else match w.stack with
              | some n => some (.hide n)
              | none => (d.bestStack (fun _ => true)).map Pool.hide
          match p with
          | none => fail
          | some p => match d.migTo o p .move 100 (some w.ctx) with
            | .started d => done d id
            | .full => d
            | .refused => fail.bump pgTack 0 7
def execMigrationStart (m : MigStart) (s : State) : Host.Outcome State Fault Refusal := onDev (migrationStartOp m) s

/-! The states of a migration (R306, R308). -/

/-- A migration's target does not take writes any more (R308). -/
def Dev.targetLost (d : Dev) (a : Alloc) : Bool :=
  match a.pool with
  | .seat => false
  | .hide n => d.stackOut n
  | .flash c => (match d.chan? c with
    | some x => !x.inService
    | none => true)
  | .nbr e => (match Tab.find? d.tack.nbr e with
    | some x => x.st != .active
    | none => true)

/-- A source read fails (R308): the migration is abandoned and the object quarantined. -/
def Dev.migQuarantine (d : Dev) (o : Nat) : Dev :=
  ((d.migAbandon o).updObj o (fun e => { e with quarantine := true })).bump pgTack 0 6

/-- MIGRATION_ABANDON (R308): the cause is there. -/
def migrationAbandonOp (o : Nat) (d : Dev) : Dev :=
  let e := d.obj o
  match Tab.find? d.tack.migs o with
  | none => d
  | some m =>
    if e.mig = 0 || e.mig = 3 then d
    else if (d.copyBad e e.primary 0 (65536 * e.len)).isSome then d.migQuarantine o
    else match m.target with
      | some a => if d.targetLost a then d.migAbandon o else d
      | none => d
def execMigrationAbandon (obj : Nat) (s : State) : Host.Outcome State Fault Refusal :=
  onUnit (fun _ => decide (obj < 2 ^ 25)) (migrationAbandonOp obj) s

/-- CURRIER_WRITE (R364, R376): a unit of a migration's flash target takes the source's bytes. -/
def currierWriteOp (c u : Nat) (d : Dev) : Dev :=
  let hit := fun (e : Nat × Migration) => (d.obj e.1).mig == 1 && (match e.2.target with
    | some a => a.pool == .flash c && decide (16 * a.start ≤ u) && decide (u < 16 * (a.start + a.len)) && u == 16 * a.start + e.2.copied
    | none => false)
  match List.find? hit d.tack.migs with
  | none => d
  | some (o, m) =>
    let e := d.obj o
    let off := 4096 * m.copied
    if (d.copyBad e e.primary off 4096).isSome then d.migQuarantine o
    else
      let d := if e.primary ≤ 1 then d.touch (e.loc + off) 4096 { fn := e.fn } else d
      match d.curWrite c u (d.copyBytes e e.primary off 4096) e.fn with
      | (d, true) => { d with tack := { d.tack with migs := Tab.set d.tack.migs o { m with copied := m.copied + 1 } } }
      | (d, false) => d
def execCurrierWrite (channel unit : Nat) (s : State) : Host.Outcome State Fault Refusal :=
  onUnit (fun d => decide (channel < d.part.channels)) (currierWriteOp channel unit) s

/-- Change a running migration. -/
def Dev.setMig (d : Dev) (o : Nat) (m : Migration) : Dev := { d with tack := { d.tack with migs := Tab.set d.tack.migs o m } }

/-- A write of a migration to its extent is answered: one that failed abandons it (R308). -/
def Dev.migWritten (d : Dev) (o i : Nat) (ok : Bool) : Dev :=
  match Tab.find? d.tack.migs o with
  | none => d
  | some m =>
    if m.id != i then d
    else if ok then d.setMig o { m with out := m.out - 1 }
    else d.migAbandon o

/-- A migration reads a flash copy at `loc` of its object through the channel's Rein instance, under the object's function (R307, R370). -/
def Dev.migFlash (d : Dev) (loc off n fn : Nat) (op : FlashOp) (k : Dev → Dev) : Dev :=
  match d.chan? (loc / 2 ^ 48) with
  | none => k d
  | some x =>
    let c := loc / 2 ^ 48
    d.viaRein (chanRein c) none (d.unitItems c x ((unitsOf off n).map (fun u => loc % 2 ^ 48 + u)) op { fn := some fn }) k
/-- The same of its source, where that is a flash copy. -/
def Dev.migSource (d : Dev) (o : Nat) (e : ObjEntry) (off n : Nat) (k : Dev → Dev) : Dev :=
  if e.primary = 3 then d.migFlash e.loc off n e.fn (.copy o) k else k d

/-- Send the next 4 KiB of a neighbour copy to its extent, as one write under the object's function (R307, R429). -/
def Dev.nbrCopy (d : Dev) (o : Nat) (e : ObjEntry) (m : Migration) (a : Alloc) : Dev :=
  let off := 4096 * m.copied
  match d.nbrTarget (d.poolAddr a.pool a.start + off) with
  | .remote _ g =>
    (match d.sendReq (.migWrite o m.id) (d.request 2 (g / 2 ^ 52) (g % 2 ^ 52) 4096 d.curGen 7 (d.copyBytes e e.primary off 4096)) { fn := e.fn } with
     | (d, true) => d.setMig o { m with copied := m.copied + 1, out := m.out + 1 }
     | (d, false) => d.migAbandon o)
  | _ => d.migAbandon o

/-- COPY_DONE (R306): the target's last byte is written. A neighbour copy is written 4 KiB by 4 KiB, each time this row is taken up, and its
last byte is written when the extent's node has acknowledged every write. -/
def copyDoneOp (o : Nat) (d : Dev) : Dev :=
  let e := d.obj o
  match Tab.find? d.tack.migs o with
  | none => d
  | some m =>
    let n := 65536 * e.len
    if e.mig != 1 || !d.enabled pgTack then d
    else match m.target with
      | none => d
      | some a =>
        if d.targetLost a then d
        else if (d.copyBad e e.primary 0 n).isSome then d.migQuarantine o
        else
          let go := fun (d : Dev) => (d.updObj o (fun e => { e with mig := 2 })).bump pgTack 0 12 n
          match a.pool with
          | .flash _ => if m.copied = 16 * e.len then go d else d
          | .nbr _ => if m.copied < 16 * e.len then d.migSource o e (4096 * m.copied) 4096 (fun d => d.nbrCopy o e m a) else if m.out = 0 then go d else d
          | p => d.migSource o e 0 n fun d =>
            go ((if e.primary ≤ 1 then d.touch e.loc n { fn := some e.fn } else d).store (d.poolAddr p a.start) (d.copyBytes e e.primary 0 n)
              false { fn := some e.fn })
def execCopyDone (obj : Nat) (s : State) : Host.Outcome State Fault Refusal :=
  onUnit (fun _ => decide (obj < 2 ^ 25)) (copyDoneOp obj) s

/-- What comparing a target with its source gives. -/
inductive Verify where
  | equal | differs | wait | failed
deriving DecidableEq, Repr

/-- The rest of a neighbour copy is read back 4 KiB by 4 KiB and compared (R303); one read is under way at a time. -/
def Dev.nbrVerify (d : Dev) (o : Nat) (e : ObjEntry) (m : Migration) (a : Alloc) : Dev × Verify :=
  if 16 * e.len ≤ m.verified then (d, .equal)
  else
    let off := 4096 * m.verified
    match d.windowRead (migReader o) (d.poolAddr a.pool a.start + off) 4096 with
    | (d, .wait) => (d, .wait)
    | (d, .fail _) => (d, .failed)
    | (d, .ready b bad) =>
      let d : Dev := { d with fab := { d.fab with bufs := Tab.del d.fab.bufs (migReader o) } }
      if bad.isSome || b != d.copyBytes e e.primary off 4096 then (d, .differs)
      else (d.setMig o { m with verified := m.verified + 1 }, if 16 * e.len ≤ m.verified + 1 then .equal else .wait)

/-- The target holds the source's bytes, every one of them good (R303). -/
def Dev.targetEqual (d : Dev) (o : Nat) (e : ObjEntry) (m : Migration) (a : Alloc) : Dev × Verify :=
  let n := 65536 * e.len
  let src := d.copyBytes e e.primary 0 n
  let got := fun (b : Bool) => if b then Verify.equal else .differs
  match a.pool with
  | .flash _ => (d, got (d.flashBytes (d.locOf a) 0 n == src && (d.flashRangeBad (d.locOf a) 0 n).isNone))
  | .nbr _ => d.nbrVerify o e m a
  | p => (d.touch (d.poolAddr p a.start) n { fn := some e.fn }, got (d.peek (d.poolAddr p a.start) n == src && !d.bad (d.poolAddr p a.start) n))

/-- The switch of R306. -/
def Dev.migSwitch (d : Dev) (o : Nat) (m : Migration) (a : Alloc) : Dev :=
  let e := d.obj o
  let d := d.bump pgTack 0 3
  match m.kind with
  | .move =>
    let d : Dev := { d with tack := { d.tack with migs := Tab.set d.tack.migs o { m with old := d.copyAlloc e e.primary, oldTier := e.primary } } }
    let d : Dev := match m.pinFor with
      | some c => ({ d with tack := { d.tack with pins := Tab.upd? d.tack.pins c (fun (p : PinCmd) => { p with changed := p.changed + 1 }) } } : Dev).bump pgTack 0 9
      | none => d
    (d.updObj o (fun e => { e with primary := a.pool.tier, loc := d.locOf a, mig := 3, pinned := e.pinned || m.pin })).settle o
  | _ =>
    let ext := match a.pool with
      | .nbr x => x
      | _ => 0
    let d : Dev := { d with tack := { d.tack with migs := Tab.del d.tack.migs o } }
    d.updObj o (fun e => { e with nbr := true, nbrLoc := ext + 64 * a.start, mig := 0, kind := 0 })

/-- A target that differs is rewritten once, and given up the second time (R306). -/
def Dev.migMismatch (d : Dev) (o : Nat) (m : Migration) (a : Alloc) : Dev :=
  let d := d.bump pgTack 0 4
  if m.mismatches = 0 then (d.setMig o { m with mismatches := 1, copied := 0, verified := 0 }).updObj o (fun e => { e with mig := 1 })
  else
    let d := d.freeAlloc a
    let pins := match m.pinFor with
      | some c => Tab.upd? d.tack.pins c (fun (p : PinCmd) => { p with failed := p.failed + 1 })
      | none => d.tack.pins
    let d : Dev := { d with tack := { d.tack with migs := Tab.del d.tack.migs o, pins := pins } }
    d.updObj o (fun e => { e with mig := 0, kind := 0 })

/-- What follows from comparing a migration's target with its source (R306, R308). -/
def Dev.migCheck (d : Dev) (o : Nat) (e : ObjEntry) (m : Migration) (a : Alloc) : Dev :=
  match d.targetEqual o e m a with
  | (d, .equal) => d.migSwitch o m a
  | (d, .differs) => d.migMismatch o m a
  | (d, .failed) => d.migAbandon o
  | (d, .wait) => d

/-- VERIFY_DONE (R306, R308). A neighbour copy is read back each time this row is taken up; an extent that cannot be read abandons it. -/
def verifyDoneOp (o : Nat) (d : Dev) : Dev :=
  let e := d.obj o
  match Tab.find? d.tack.migs o with
  | none => d
  | some m =>
    if e.mig != 2 || !d.enabled pgTack then d
    else match m.target with
      | none => d
      | some a =>
        if d.targetLost a then d
        else if (d.copyBad e e.primary 0 (65536 * e.len)).isSome then d.migQuarantine o
        else match a.pool with
          | .flash _ => d.migFlash (d.locOf a) 0 (65536 * e.len) e.fn (.check o) fun d => d.migCheck o e m a
          | .nbr _ => d.migCheck o e m a
          | _ => d.migSource o e 0 (65536 * e.len) fun d => d.migCheck o e m a
def execVerifyDone (obj : Nat) (s : State) : Host.Outcome State Fault Refusal :=
  onUnit (fun _ => decide (obj < 2 ^ 25)) (verifyDoneOp obj) s

/-- HEAT_HALVING (R309). -/
def heatHalvingOp (d : Dev) : Dev :=
  if d.runs pgTack && decide (d.tack.halvedAt + msCycles (max (d.fd R.tackCfg 15 8) 1) ≤ d.now) then
    let d : Dev := { d with tack := { d.tack with halvedAt := d.now } }
    (List.range d.slots).foldl (fun d o => if (d.obj o).heat = 0 then d else d.updObj o (fun e => { e with heat := e.heat / 2 })) d
  else d
def execHeatHalving (s : State) : Host.Outcome State Fault Refusal := onDev heatHalvingOp s

/-! HINT (R314 to R317). -/

/-- Head slots from slot i on whose object is FILLING or SEALED, at most n. -/
def Dev.hintObjs (d : Dev) (i n : Nat) : List Nat :=
  (((List.range (d.slots - i)).map (fun k => i + k)).filter (fun o => (d.obj o).st = 1 || (d.obj o).st = 2)).take n

/-- A target of a list's entry: the object its address lies in, or none where it is skipped (R314). -/
def Dev.hintAt (d : Dev) (g : Nat) : Option Nat :=
  if g != 0 && d.isLocal g && regionOf d.part (localPart g) == .obj then (d.objAt (localPart g)).map Prod.fst else none

/-- A HINT's effect on one object (R316). -/
def Dev.hintOne (d : Dev) (c : Nat) (x : Ctx) (o : Nat) : Dev :=
  let op := x.n 32 1
  let e := d.obj o
  let one := fun (d : Dev) => { d with tack := { d.tack with pins := Tab.upd d.tack.pins c {} (fun p => { p with changed := p.changed + 1 }) } }
  if op ≤ 2 then (one (d.updObj o (fun e => { e with hint := op }))).bump pgTack 0 9
  else if op = 3 then
    let d := (one (d.updObj o (fun e => { e with hint := 3 }))).bump pgTack 0 9
    if e.st = 2 && !e.pinned then d.nbrDrop o else d
  else if op = 5 then (one (d.updObj o (fun e => { e with pinned := false }))).bump pgTack 0 9
  else if x.n 34 1 = 0xFF || x.n 34 1 = e.primary then (one (d.updObj o (fun e => { e with pinned := true }))).bump pgTack 0 9
  else
    let w : PinWait := { obj := o, tier := x.n 34 1, stack := if (x.n 35 1).testBit 4 then none else some (x.n 35 1 % 16), ctx := c }
    { d with tack := { d.tack with pinWaits := d.tack.pinWaits ++ [w], pins := Tab.upd d.tack.pins c {} id } }

/-- A HINT whose moves have all ended completes (R317). -/
def Dev.hintEnd (d : Dev) (c : Nat) : Dev :=
  match d.ctx? c, Tab.find? d.tack.pins c with
  | some x, some p =>
    if d.tack.pinWaits.any (fun w => w.ctx == c) || d.tack.migs.any (fun m => m.2.pinFor == some c && (d.obj m.1).mig != 3) then d
    else
      let d : Dev := { d with tack := { d.tack with pins := Tab.del d.tack.pins c,
                                                    migs := d.tack.migs.map (fun m => if m.2.pinFor == some c then (m.1, { m.2 with pinFor := none }) else m) } }
      d.finishOk c p.changed (sat 32 p.skipped + sat 32 p.failed * 2 ^ 32) (d.sinceFetch x)
  | _, _ => d

/-- Apply a HINT to its targets; `skipped` objects were passed over. -/
def Dev.hintAll (d : Dev) (c : Nat) (x : Ctx) (os : List Nat) (skipped : Nat) : Dev :=
  let d := d.start c
  let d : Dev := { d with tack := { d.tack with pins := Tab.set d.tack.pins c { skipped := skipped } } }
  (os.foldl (fun d o => d.hintOne c x o) d).hintEnd c

/-- Fields of a HINT (check 1 of R315). A reserved PIN_TIER counts as one for PIN only, the operation the field is described for (DESIGN CHOICE,
log entry 64). -/
def Dev.hintArgs (d : Dev) (x : Ctx) : Bool :=
  let fl := x.n 33 1
  x.cflagsOk && decide (x.n 32 1 ≤ 5) && decide (fl < 8) && decide (x.n 35 1 < 32) && x.zeroFrom 44 && decide (1 ≤ x.n 36 4) && decide (x.n 36 4 ≤ 65536) &&
  (x.n 32 1 != 4 || x.n 34 1 == 0 || x.n 34 1 == 1 || x.n 34 1 == 3 || x.n 34 1 == 255) &&
  (if fl.testBit 0 then fl.testBit 1 || fl.testBit 2
   else match d.objStart x.desc with
    | some o => decide (o < d.slots)
    | none => false)

/-- HINT (R314 to R317): its effects at once; one that PINs completes when its moves have ended, taken up again by its own row. -/
def hintOp (c : Nat) (d : Dev) : Dev :=
  if d.live c && Tab.has d.tack.pins c then d.hintEnd c
  else if !d.canStart c 0x38 || !d.runs pgTack then d
  else match d.ctx? c with
    | none => d
    | some x =>
      let fl := x.n 33 1
      if !d.hintArgs x then d.finishSt c .invalidCmd
      else if !fl.testBit 0 then
        match d.objStart x.desc with
        | some o => d.hintAll c x (d.hintObjs o (x.n 36 4)) 0
        | none => d
      else match d.lookColl c x.coll with
        | (d, .wait) => d
        | (d, .bad st) => d.finishSt c st
        | (d, .ok img _) =>
          if !d.shardOk img d.curGen then d.finishSt c .badCollection
          else if cLists img < x.n 40 4 + x.n 36 4 then d.finishSt c .invalidCmd
          else
            let ws : List Want := [{ h := cDirTbl img, kind := 3, chk := 3 }]
            match d.bindLook c img ws with
            | (d, .wait) => d
            | (d, .bad st) => d.finishSt c st
            | (d, .ok bs) =>
              let root := (bs.head?.map d.boundBase).getD 0
              match d.readEntries c root ((List.range (x.n 36 4)).map (fun i => x.n 40 4 + i)) with
              | (d, .wait) => d
              | (d, .bad st) => d.finishSt c st
              | (d, .ok es) =>
                let d := (d.bindColl c x.coll false).1
                let d := (d.bindAll c img ws).1.unbind c bs
                let gs := ((Tab.vals es).map (fun b => (if fl.testBit 1 then [(dirEntOf b).seg] else []) ++ (if fl.testBit 2 then [(dirEntOf b).refine] else []))).flatten
                let os := gs.filterMap d.hintAt
                d.hintAll c x os (gs.length - os.length)
def execHint (ctx : Nat) (s : State) : Host.Outcome State Fault Refusal := onUnit (fun _ => decide (ctx < 4096)) (hintOp ctx) s

/-! The staging cache (R305, R322). -/

/-- An access reads a unit: one that waits for other units of its range (R305). -/
def Dev.unitRead (d : Dev) (u : StageUnit) : Bool :=
  d.tack.held.any (fun b => b.obj == u.obj && (unitsOf (b.addr - objAddr b.obj) b.len).contains u.unit)

/-- CLOCK: the place whose unit is replaced, and the cache after the hand has passed; units that an access reads are passed over. -/
def clockGo (cap : Nat) (keep : StageUnit → Bool) : Nat → Nat → Tab StageUnit → Option (Nat × Tab StageUnit)
  | 0, _, _ => none
  | n + 1, h, t =>
    match Tab.find? t (h % cap) with
    | some u =>
      if keep u then clockGo cap keep n (h + 1) t
      else if u.used then clockGo cap keep n (h + 1) (Tab.set t (h % cap) { u with used := false })
      else some (h % cap, t)
    | none => some (h % cap, t)

/-- The staging place a unit takes, and the cache with it free: a free one, or the one CLOCK gives; none while accesses read every unit (R305). -/
def Dev.stagePlace (d : Dev) : Option (Nat × Tab StageUnit) :=
  match firstBelow d.stageCap (fun i => !Tab.has d.tack.stage i) with
  | some i => some (i, d.tack.stage)
  | none => clockGo d.stageCap d.unitRead (2 * d.stageCap) d.tack.stageHand d.tack.stage

/-- Accesses that wait for unit u of an object find no place free: each stall is counted once (R322, STAGE_FULL). -/
def Dev.stageFull (d : Dev) (o u : Nat) : Dev :=
  let here := fun (w : StageWait) => w.obj == o && w.unit == u && !w.full
  let n := (d.tack.waits.filter here).length
  ({ d with tack := { d.tack with waits := d.tack.waits.map (fun w => if here w then { w with full := true } else w) } } : Dev).bump pgTack 1 1 n

/-- STAGING_FILL (R305, R309): the unit's read has been decoded; it takes a free place of the cache or the one CLOCK gives, and the accesses
that wait for it go on. -/
def stagingFillOp (o u : Nat) (d : Dev) : Dev :=
  let e := d.boundObj o 3
  let c := e.loc / 2 ^ 48
  match d.chan? c with
  | none => d
  | some x =>
    match x.reads.find? (fun r => r.obj == o && r.ounit == u && r.decoded) with
    | none => d
    | some r =>
      if !d.enabled pgTack then d
      else
        let dx := d.setChan c { x with reads := x.reads.erase r }
        if e.primary != 3 || d.staged o u then dx
        else match dx.stagePlace with
        | none => d.stageFull o u
        | some (k, t) =>
          let d := dx
          let tk := d.tack
          let d : Dev := { d with tack := { tk with stage := Tab.set t k { obj := o, unit := u }, stageHand := k + 1,
                                                    waits := tk.waits.filter (fun w => !(w.obj == o && w.unit == u)) } }
          let d := d.store (65536 * d.fd R.stageBase 19 0 + 4096 * k) (d.flashUnit c (e.loc % 2 ^ 48 + u)) ((d.flashBad c (e.loc % 2 ^ 48 + u)).isSome)
          (d.heatUp o).bump pgTack 0 10
def execStagingFill (obj unit : Nat) (s : State) : Host.Outcome State Fault Refusal :=
  onUnit (fun _ => decide (obj < 2 ^ 25)) (stagingFillOp obj unit) s

/-- TIER_LATE (R322): wait i of the staging cache has lasted longer than LATE_US. -/
def tierLateOp (i : Nat) (d : Dev) : Dev :=
  match d.tack.waits[i]? with
  | none => d
  | some w =>
    if w.late || !decide (w.since + usCycles (d.fd R.tackLate 15 0) < d.now) then d
    else (({ d with tack := { d.tack with waits := d.tack.waits.set i { w with late := true } } } : Dev).stallReader w.who).bump pgTack 1 2
def execTierLate (wait : Nat) (s : State) : Host.Outcome State Fault Refusal := onDev (tierLateOp wait) s

/-! Neighbour extents (R320, R321). -/

/-- Extents overlap. -/
def overlap (a m b n : Nat) : Bool := decide (a < b + n) && decide (b < a + m)

/-- An extent is added, or NBR_BAD (R320). -/
def Dev.nbrAddDo (d : Dev) (e : Nat) : Dev :=
  let base := 65536 * ((d.rgb R.nbrBaseLo e).toNat / 65536) + 2 ^ 32 * fld (d.rgb R.nbrBaseHi e) 19 0
  let n := (d.rgb R.nbrLen e).toNat
  let bad := Tab.has d.tack.nbr e || n = 0 || decide (base < nbrBase) || decide (nbrBase + 2 ^ 44 < base + 65536 * n) ||
    d.tack.nbr.any (fun x => overlap base (65536 * n) x.2.base (65536 * x.2.len))
  if bad then d.setErr pgTack 2 base
  else
    let x : NbrExt := { st := .active, base := base, len := n, lease := (d.rgb R.nbrLease e).toNat, ackAt := d.now, renewAt := d.now }
    { d with tack := { d.tack with nbr := Tab.set d.tack.nbr e x } }

/-- NBR_ADD of the extent that NBR_SEL selects (R320, R603). -/
def nbrAddOp (d : Dev) : Dev :=
  let e := d.fd R.nbrSel 5 0
  if !d.runs pgTack then d.tackAsk (.nbrAdd e) else d.nbrAddDo e
def execNbrAdd (s : State) : Host.Outcome State Fault Refusal := onDev nbrAddOp s

/-- An extent becomes LOSING: its copies are dropped, migrations to it abandoned (R306, R308, R321). -/
def Dev.nbrLose (d : Dev) (e : Nat) : Dev :=
  match Tab.find? d.tack.nbr e with
  | none => d
  | some x =>
    if x.st != .active then d
    else
      let d := ({ d with tack := { d.tack with nbr := Tab.set d.tack.nbr e { x with st := .losing, renewTag := none } } } : Dev).bump pgTack 0 13
      let adds := (d.tack.migs.filter (fun m => (match m.2.target with
        | some a => a.pool == .nbr e
        | none => false))).map Prod.fst
      let d := adds.foldl (fun d o => d.migAbandon o) d
      let os := (List.range d.slots).filter (fun o => (d.obj o).nbr && (d.obj o).nbrLoc % 64 == e)
      (os.foldl (fun d o => d.nbrDrop o) d).nbrSettle e

/-- NBR_WITHDRAW (R321, R603). -/
def nbrWithdrawOp (d : Dev) : Dev :=
  let e := d.fd R.nbrSel 5 0
  if d.runs pgTack then d.nbrLose e else d.tackAsk (.nbrWithdraw e)
def execNbrWithdraw (s : State) : Host.Outcome State Fault Refusal := onDev nbrWithdrawOp s

/-- Requests that waited for the Tack room are served, in the order they came (R603). -/
def Dev.tackServe (d : Dev) : Dev :=
  if !d.runs pgTack then d
  else
    let l := d.tack.asks
    l.foldl (fun d a => match a with
      | .alloc m v fn => d.allocDo m v fn
      | .seal m o => d.sealDo m o
      | .free m o => d.freeDo m o
      | .nbrAdd e => d.nbrAddDo e
      | .nbrWithdraw e => d.nbrLose e) ({ d with tack := { d.tack with asks := [] } } : Dev)

/-- TACK_LATE.NBR_STOP_MS and NBR_RENEW_MS as they are used. -/
def Dev.nbrStopMs (d : Dev) : Nat := min (max (d.fd R.tackLate 20 16) 2) 19
def Dev.nbrRenewMs (d : Dev) : Nat := min (max (d.fd R.tackLate 26 24) 1) 5

/-- NBR_STOP (R321). -/
def nbrStopOp (e : Nat) (d : Dev) : Dev :=
  match Tab.find? d.tack.nbr e with
  | some x => if d.enabled pgTack && decide (x.ackAt + msCycles d.nbrStopMs ≤ d.now) then d.nbrLose e else d
  | none => d
def execNbrStop (ext : Nat) (s : State) : Host.Outcome State Fault Refusal := onUnit (fun _ => decide (ext < 64)) (nbrStopOp ext) s

end Sys2Proof.Machine
end

