-- ==== Sys2Proof/Machine/Cancel.lean ====
section
/-! DEFINITION. Causes that end a command before its end: what it gives back, its status, deadlines and lost contexts (R69, R153, R478, R597). -/

namespace Sys2Proof.Machine
open Sys2Proof

/-- Update work of a command (R93, R206, R214 to R216). -/
def Dev.dropUpdates (d : Dev) (c : Nat) (st : Status) : Dev :=
  let seals := d.upd.seals.map (fun (e : Nat × Seal) => (e.1, { e.2 with cmds := delNat e.2.cmds c }))
  let mine := (Tab.vals d.upd.rebuilds).filter (fun r => r.cmds.contains c)
  let d : Dev := { d with upd := { d.upd with batches := Tab.del d.upd.batches c, heldBatches := delNat d.upd.heldBatches c,
                                              seals := seals, forwarded := Tab.del d.upd.forwarded c } }
  (mine.foldl (fun d r =>
    let r1 := { r with cmds := delNat r.cmds c }
    if r1.cmds.isEmpty && !r1.auto && r1.published.isNone then d.rebuildEnd r1 st else d.setRebuild r1) d).retireCancel c

/-- Engine and model work of a command (R253, R287). -/
def Dev.dropPrograms (d : Dev) (c : Nat) (st : Status) : Dev :=
  let gs := (d.eng.groups.filter (fun g => g.2.run == 0 && g.2.ctx == c)).map Prod.fst
  let d := gs.foldl (fun d g => d.groupStop g st) d
  d.modelCmdEnd c { status := st }

/-- PIN work of a command: a running move goes on as a placer move without pinning (R317). -/
def Dev.dropPins (d : Dev) (c : Nat) : Dev :=
  let migs := d.tack.migs.map (fun (m : Nat × Migration) => (m.1, if m.2.pinFor == some c then { m.2 with pinFor := none, pin := false } else m.2))
  let mine := fun (w : Reader) => match w with
    | .command i _ => i == c
    | _ => false
  ({ d with tack := { d.tack with pins := Tab.del d.tack.pins c, pinWaits := d.tack.pinWaits.filter (fun w => w.ctx != c), migs := migs } } : Dev).dropReads
    (fun w _ => mine w)

/-- Fabric work of a command: what waits is dropped, and late answers will find nothing. -/
def Dev.dropFabric (d : Dev) (c cinc : Nat) : Dev :=
  let tp := { d.fab.tp with waiting := d.fab.tp.waiting.filter (fun w => w.2.2.owner != .command c cinc) }
  { d with fab := { d.fab with tp := tp },
           lat := { d.lat with leaseCmds := Tab.del d.lat.leaseCmds c, regionCmds := delNat d.lat.regionCmds c, movers := Tab.del d.lat.movers c } }

/-- An ADMIT that ends otherwise than OK frees its local objects (R511). -/
def Dev.dropAdmit (d : Dev) (c : Nat) : Dev :=
  match Tab.find? d.cmp.admits c with
  | none => d
  | some a =>
    let d : Dev := { d with cmp := { d.cmp with admits := Tab.del d.cmp.admits c, partners := d.cmp.partners.filter (fun p => p.1 != a.coll) } }
    a.objs.foldl (fun d o => d.releaseObject o) d

/-- Awl work of a command (R340, R343). -/
def Dev.dropAwl (d : Dev) (c : Nat) (st : Status) : Dev :=
  let d := d.seqEnd c st
  { d with hide := { d.hide with fences := Tab.del d.hide.fences c } }

/-- Everything that works for the command in context c ends (R153, R478). -/
def Dev.dropWork (d : Dev) (c cinc : Nat) (st : Status) : Dev :=
  let d := d.releaseSearch c
  let d := d.dropPrograms c st
  let d := d.dropAwl c st
  let d := d.dropUpdates c st
  let d := d.dropPins c
  let d := d.dropAdmit c
  let d := d.dropFabric c cinc
  d.reinPurge (fun it => it.owner == .command c cinc)

/-- COUNT of a command that ends early: the bytes a DMA_COPY had written (R72). -/
def Dev.earlyCount (d : Dev) (c : Nat) : Nat :=
  match Tab.find? d.lat.movers c with
  | some m => if m.op = 4 then sat 32 (64 * m.done) else 0
  | none => 0

/-- A cause ends the command in context c and cancels its work (R597). -/
def Dev.endCmd (d : Dev) (c : Nat) (st : Status) : Dev :=
  match d.ctx? c with
  | none => d
  | some x =>
    if x.done.isSome then d.lateCause c st
    else (d.finish c { status := st, count := d.earlyCount c }).dropWork c x.cinc st

/-- CTX_LOST: an uncorrectable error in a context body (R69). -/
def ctxLostOp (c : Nat) (d : Dev) : Dev := d.endCmd c .ctxLost
def execCtxLost (ctx : Nat) (s : State) : Host.Outcome State Fault Refusal := onUnit (fun _ => decide (ctx < 4096)) (ctxLostOp ctx) s

/-- The WRITE phase of a search had begun by time t: every query had reached it (R152, R154). -/
def Dev.wroteBy (d : Dev) (c t : Nat) : Bool :=
  let qs := (d.queriesOf c).filterMap d.query?
  !qs.isEmpty && qs.all (fun q => q.phase == .finished || (q.phase == .write && decide (q.since ≤ t)))

/-- COMMAND_DEADLINE: DEADLINE_US has passed (R154, R253, R466 and the other chapters' deadlines). -/
def commandDeadlineOp (c : Nat) (d : Dev) : Dev :=
  match d.ctx? c with
  | some x => match x.deadline with
    | some t => if t ≤ d.now && d.ctxWorks && !d.wroteBy c t then d.endCmd c .timeout else d
    | none => d
  | none => d
def execCommandDeadline (ctx : Nat) (s : State) : Host.Outcome State Fault Refusal :=
  onUnit (fun _ => decide (ctx < 4096)) (commandDeadlineOp ctx) s

/-- LATE_SUBOP_RESULT: a result whose context incarnation has passed is discarded and counted (R69). -/
def lateSubopOp (c cinc : Nat) (d : Dev) : Dev :=
  if (match d.ctx? c with
      | some x => x.cinc == cinc && x.done.isNone
      | none => false) then d
  else d.bump pgCtx 0 1
def execLateSubopResult (ctx cinc : Nat) (s : State) : Host.Outcome State Fault Refusal :=
  onUnit (fun _ => decide (ctx < 4096)) (lateSubopOp ctx cinc) s

/-! Generations in flight and fencing (R499, R504 to R507). -/

/-- Opcodes that name a collection (R494). -/
def namesColl (op : Nat) : Bool := [0x01, 0x02, 0x08, 0x09, 0x0A, 0x0B, 0x12, 0x18, 0x19, 0x48].contains op

/-- Commands of this node bound to generation g (R494). -/
def Dev.boundTo (d : Dev) (g : Nat) : List Nat :=
  (d.cp.held.filter (fun x => x.2.started && x.2.mapGen == g &&
    (if x.2.opcode = 0x18 || x.2.opcode = 0x19 then !x.2.binds.isEmpty else namesColl x.2.opcode))).map Prod.fst

/-- In-flight count of generation g (R499): commands bound to it, and fabric requests served under it. -/
def Dev.inFlight (d : Dev) (g : Nat) : Nat :=
  (d.boundTo g).length + (d.srch.all.filter (fun s => s.2.origin.isSome && s.2.mapGen == g)).length +
  (d.lat.held.filter (fun m => m.mapGen == g)).length + (d.lat.waiting.filter (fun t => t.2.mapGen == some g)).length +
  (d.lat.busy.filter (fun t => t.2.mapGen == some g)).length

/-- The old generation retires (R499). -/
def Dev.mapRetire (d : Dev) : Dev :=
  match d.cmp.old with
  | none => d
  | some _ => ({ d with cmp := { d.cmp with old := none } } : Dev).joinsSettle.setInt pgBuckle 3

/-- The old generation retires when nothing is in flight under it. -/
def Dev.mapSettle (d : Dev) : Dev :=
  match d.cmp.old with
  | none => d
  | some g => if d.inFlight g.gen = 0 then d.mapRetire else d

/-- The count is forced to zero: commands bound to the old generation end MAP_STALE (R499). -/
def Dev.mapForce (d : Dev) : Dev :=
  match d.cmp.old with
  | none => d
  | some g =>
    let cs := (d.boundTo g.gen).filter (fun c => match d.ctx? c with
      | some x => x.done.isNone
      | none => false)
    (cs.foldl (fun d c => (d.endCmd c .mapStale).bump pgBuckle 2 5) d).mapRetire

/-- Commands that a self-fence ends (R506). -/
def Dev.fenceHits (d : Dev) (x : Ctx) : Bool :=
  x.done.isNone && (namesColl x.opcode || [0x28, 0x29, 0x2A, 0x2B, 0x40, 0x49].contains x.opcode ||
    !x.remote.asked.isEmpty || decide (0 < x.remote.wrOut) || (x.opcode == 0x30 && (!d.isLocal x.desc || !d.isLocal x.out)))

/-- The node fences itself (R506). -/
def Dev.fenceSelf (d : Dev) : Dev :=
  if d.isFenced then d else
  let d : Dev := { d with cmp := { d.cmp with st := .fenced, fencedAt := d.ownFence, testOk := false } }
  let d := (d.setInt pgBuckle 2).bump pgBuckle 2 7
  let cs := (d.cp.held.filter (fun x => d.fenceHits x.2)).map Prod.fst
  let d := cs.foldl (fun d c => d.endCmd c .fenced) d
  let subs := d.srch.all.filterMap (fun s => s.2.origin.map (fun o => (s.1, o.2)))
  let d := subs.foldl (fun d s => d.subAnswer s.1 { ref := s.2, status := Status.fenced.code }) d
  let d := d.lat.borrowed.foldl (fun d b => d.leaseLost b) d
  let d : Dev := { d with cmp := { d.cmp with partners := [] } }
  (Tab.keys d.tack.nbr).foldl (fun d e => d.nbrLose e) d

/-- A node's admission entry. -/
def Dev.setAdm (d : Dev) (n st f : Nat) : Dev := { d with cmp := { d.cmp with adm := Tab.set d.cmp.adm n (st, f) } }

/-- Leases of fenced nodes are reclaimed after 2 ms (R458). -/
def Dev.fenceLeases (d : Dev) : Dev :=
  let slots := d.lat.slots.map (fun (s : Nat × LeaseSlot) =>
    (s.1, if (d.admEntry s.2.node).1 == 3 && s.2.graceEnd.isNone then { s.2 with graceEnd := some (d.now + leaseGrace) } else s.2))
  { d with lat := { d.lat with slots := slots } }

/-- FENCE for another node: its entry is raised, and its leases are reclaimed (R505). -/
def Dev.fenceOther (d : Dev) (n f : Nat) : Dev :=
  ((d.setAdm n 3 (serialMax 32 f (d.admEntry n).2)).bump pgBuckle 2 8).fenceLeases

end Sys2Proof.Machine
end

