-- ==== Sys2Proof/Machine/Mover.lean ====
section
/-! DEFINITION. DMA_COPY and the pool operations, line by line (R72, R463 to R466). -/

namespace Sys2Proof.Machine
open Sys2Proof

def Dev.setMover (d : Dev) (c : Nat) (m : Mover) : Dev := { d with lat := { d.lat with movers := Tab.set d.lat.movers c m } }

/-- End a mover's command (R72, R466). -/
def Dev.moverEnd (d : Dev) (c : Nat) (m : Mover) (st : Status) : Dev :=
  let d : Dev := { d with lat := { d.lat with movers := Tab.del d.lat.movers c } }
  match d.ctx? c with
  | none => d
  | some x =>
    let bytes := sat 32 (64 * m.done)
    if m.op = 4 then d.finish c { status := st, count := bytes }
    else if st == .ok then
      d.finish c { count := if m.op = 2 then sat 32 m.differ else bytes, spec0 := if m.op = 2 then m.first.getD (2 ^ 64 - 1) else 0,
                   spec1 := d.sinceFetch x }
    else d.finishSt c st

/-- Destination of a reduction, element by element (R463, R465): FP32 or INT32; add, max or min. -/
def reduceLine (fmt mode : Nat) (dst src : List Byte) : List Byte :=
  wordsBytes (List.zipWith (redElt (fmt == 8) mode) (bytesWords dst) (bytesWords src))

/-- What becomes of a mover's line. -/
inductive Move where
  /-- Done. -/
  | next (m : Mover)
  /-- Its write or reduction has gone to another node. -/
  | sent (m : Mover)
  /-- It waits; the command's own row takes it up again. -/
  | wait
  | stop (st : Status)
deriving DecidableEq, Repr

/-- Virtual channel of an operation's fabric traffic (R421, R464). -/
def Mover.vc (m : Mover) : Nat := if m.op = 4 then 4 else 7
/-- Read a line. A pool operation that runs on Awl units reads in the banks, once no cache holds the line modified (R342, R350). -/
def Dev.moverRead (d : Dev) (c : Nat) (m : Mover) (g vc : Nat) : Dev × Got :=
  let a := localPart g
  if m.awl.isNone then d.cmdRead c g 64 vc
  else if d.blocked a 64 false then (d.recall a 64 false, .wait)
  else (d.touchLines a 64, .ready (d.peek a 64) (if d.bad a 64 then some .poisoned else none))

/-- Write a destination line, poisoned where its data is. -/
def Dev.moverPut (d : Dev) (c : Nat) (m : Mover) (g : Nat) (b : List Byte) (poison : Bool) : Dev × Move :=
  if d.writeBusy g 64 then (d.recall (localPart g) 64 true, .wait)
  else if m.awl.isSome then (d.storeLines (localPart g) b poison, .next m)
  else match d.cmdWrite c g b poison m.vc with
    | (d, some st) => (d, .stop st)
    | (d, none) =>
      match d.ctx? c with
      | some x => (d, if 0 < x.remote.wrOut then .sent m else .next m)
      | none => (d, .next m)

/-- Where AUX of NC_REDUCE holds FMT and MODE: the spec gives them no place (log entry 6). -/
def reduceAux (fmt mode : Nat) : Nat := leNat (Config.payload 0x44 [fmt, mode]) % 2 ^ 22 * 1024

/-- Reduce into a line of another node, by its own home (R464, R465). -/
def Dev.sendReduce (d : Dev) (c : Nat) (x : Ctx) (m : Mover) (g : Nat) (b : List Byte) (poison : Bool) : Dev × Move :=
  if d.isFenced then (d, .stop .fenced)
  else
    let q := d.request 0x44 (g / 2 ^ 52) (g % 2 ^ 52) 64 x.mapGen 0 b (reduceAux m.fmt m.mode + b2n poison * 256)
    match d.sendReq (.reduce c x.cinc g) q { fn := x.fn, owner := .command c x.cinc } with
    | (d, true) => (d, .sent m)
    | (d, false) => (d, .stop .tierFail)

/-- Reduce into the destination line at g, in one step by its home (R465). -/
def Dev.moverReduce (d : Dev) (c : Nat) (m : Mover) (g : Nat) (b : List Byte) (poison : Bool) : Dev × Move :=
  match d.ctx? c with
  | none => (d, .wait)
  | some x =>
    if !d.isLocal g then d.sendReduce c x m g b poison
    else
      let a := localPart g
      match regionOf d.part a with
      | .nbr =>
        match d.nbrTarget a with
        | .unmapped => (d, .stop .tierFail)
        | .dead => (d, .next m)
        | .remote _ g' => d.sendReduce c x m g' b poison
      | _ =>
        if d.writeBusy g 64 then (d.recall a 64 true, .wait)
        else match d.moverRead c m g 7 with
          | (d, .ready old bad) => d.moverPut c m g (reduceLine m.fmt m.mode old b) (poison || bad.isSome)
          | (d, .wait) => (d, .wait)
          | (d, .fail st) => (d, .stop st)

/-- Compare two lines, i the index of the line (R466). -/
def Mover.compare (m : Mover) (i : Nat) (a b : List Byte) : Mover :=
  let off := (List.range 8).filter (fun j => leAt a (8 * j) 8 != leAt b (8 * j) 8)
  { m with differ := m.differ + off.length, first := match m.first with
    | some o => some o
    | none => off.head?.map (fun j => 64 * i + 8 * j) }

/-- One line of an operation. -/
def Dev.moverLine (d : Dev) (c : Nat) (m : Mover) : Dev × Move :=
  let i := if m.down then m.lines - 1 - m.done else m.done
  let dst := m.dst + 64 * i
  if m.op = 0 then d.moverPut c m dst ((List.replicate 8 m.pattern).flatten) false
  else match d.moverRead c m (m.src + 64 * i) m.vc with
    | (d, .wait) => (d, .wait)
    | (d, .fail st) => (d, .stop st)
    | (d, .ready b bad) =>
      if m.op = 2 then
        match bad with
        | some st => (d, .stop st)
        | none =>
          match d.moverRead c m dst m.vc with
          | (d, .wait) => (d, .wait)
          | (d, .fail st) => (d, .stop st)
          | (d, .ready _ (some st)) => (d, .stop st)
          | (d, .ready b2 none) => (d, .next (m.compare i b b2))
      else
        let m1 := { m with bad := match m.bad with
          | some st => some st
          | none => bad }
        let d := match bad with
          | some st => d.noteCause c st
          | none => d
        if m.op = 3 then d.moverReduce c m1 dst b bad.isSome else d.moverPut c m1 dst b bad.isSome

/-- An operation has done its last line. One that ran on Awl units first has its result range invalidated in every cache (R351). -/
def Dev.moverDone (d : Dev) (c : Nat) (m : Mover) : Dev :=
  let n := 64 * m.lines
  if m.awl.isSome && m.op != 2 && d.blocked (localPart m.dst) n true then d.recall (localPart m.dst) n true
  else d.moverEnd c m (m.bad.getD .ok)

/-- Run an operation as far as it goes now; `fuel` bounds its lines. -/
def Dev.moverGo : Nat → Dev → Nat → Dev
  | 0, d, _ => d
  | k + 1, d, c =>
    match Tab.find? d.lat.movers c with
    | none => d
    | some m =>
      if m.out then d
      else if m.lines ≤ m.done then d.moverDone c m
      else match d.moverLine c m with
        | (d, .next m1) =>
          let d := if m.op = 4 then d else d.bump pgLat 0 13
          Dev.moverGo k (d.setMover c { m1 with done := m1.done + 1 }) c
        | (d, .sent m1) => d.setMover c { m1 with out := true }
        | (d, .wait) => d
        | (d, .stop st) => d.moverEnd c m st

/-- Ranges of a stack that an operation on Awl units reads and writes. -/
def Mover.ranges (m : Mover) : List (Nat × Nat) :=
  (m.dst % 2 ^ 36, 64 * m.lines) :: (if m.op = 0 then [] else [(m.src % 2 ^ 36, 64 * m.lines)])
/-- Lines that one stitch of an operation moves: 16 bytes a row cycle (R331). -/
def Dev.stitchLines (d : Dev) (n : Nat) (m : Mover) : Nat := max (d.stitchMax n / (4 * (if m.op = 0 then 1 else if m.op = 3 then 3 else 2))) 1

/-- Go on with an operation: on Awl units as stitches of their stack, in REIN_(80+n) order (R331, R350), else as far as it goes. -/
def Dev.moverRun (d : Dev) (c : Nat) : Dev :=
  match Tab.find? d.lat.movers c with
  | none => d
  | some m => match m.awl with
    | none => Dev.moverGo (m.lines + 2) d c
    | some n =>
      if m.lines ≤ m.done then Dev.moverGo 1 d c
      else if !d.runs (pgAwl n) then d
      else d.stitchGo n (.pool c) (16 * d.stitchMax n) m.ranges (d.chargeSid c) (fun d => Dev.moverGo (d.stitchLines n m) d c)

/-- The other node has answered the present line's write or reduction. -/
def Dev.moverAnswer (d : Dev) (c : Nat) (st : Status) : Dev :=
  match Tab.find? d.lat.movers c with
  | none => d
  | some m =>
    if !m.out then d
    else if st == .ok then
      let d := if m.op = 4 then d else d.bump pgLat 0 13
      Dev.moverGo (m.lines + 2) (d.setMover c { m with out := false, done := m.done + 1 }) c
    else d.moverEnd c m st

/-- Lines another node sent have arrived, or their request has failed. -/
def Dev.moverFed (d : Dev) (c : Nat) : Dev :=
  match Tab.find? d.lat.movers c with
  | none => d
  | some _ => d.moverRun c

/-- Arguments of DMA_COPY and the pool operations (R72, R463). -/
def Dev.moverArgs (d : Dev) (x : Ctx) (op : Nat) : Bool :=
  let src := op != 0
  x.cflagsOk && (!src || x.desc % 64 == 0) && x.out % 64 == 0 && x.outLen % 64 == 0 && decide (1 ≤ x.outLen) &&
  (if op = 4 then x.zeroFrom 32
   else (op == 0 || x.n 32 8 == 0) && (if op = 3 then (x.n 40 1 == 8 || x.n 40 1 == 9) && decide (x.n 41 1 ≤ 2) else x.n 40 2 == 0) &&
     x.n 42 2 == 0 && x.zeroFrom 48) &&
  (!src || d.mapped x.desc x.outLen) && d.mapped x.out x.outLen

/-- The operation a command starts: a copy onto itself runs downwards where its destination begins inside its source. -/
def moverOf (op : Nat) (x : Ctx) : Mover :=
  { op := op, src := x.desc, dst := x.out, lines := x.outLen / 64, pattern := slice x.entry 32 8, fmt := x.n 40 1, mode := x.n 41 1,
    down := op == 1 && decide (x.desc < x.out) && decide (x.out < x.desc + x.outLen) }

/-- The command is one access to the objects it reads and to those it writes (R304, R309). -/
def Dev.moverHeat (d : Dev) (op : Nat) (x : Ctx) : Dev :=
  d.heatAll ((if op = 0 then [] else d.objsIn x.desc x.outLen) ++ d.objsIn x.out x.outLen)

/-- The stack on whose Awl units a pool operation runs: it may where every range lies in one stack of this node, and whether it does is left open
(R350, R351). -/
def Dev.poolStack (d : Dev) (m : Mover) : Option Nat :=
  let n := localPart m.dst / 2 ^ 36 - 16
  let inStack := fun (g : Nat) => d.isLocal g && regionOf d.part (localPart g) == .hide n && regionOf d.part (localPart g + 64 * m.lines - 1) == .hide n
  if decide (m.op ≤ 3) && inStack m.dst && (m.op == 0 || inStack m.src) && !d.stackOut n && d.pick 2 == 1 then some n else none

/-- A mover's command: it starts, or goes on with what waited. -/
def moverOp (code op c : Nat) (d : Dev) : Dev :=
  if Tab.has d.lat.movers c then d.moverFed c
  else if !d.canStart c code then d else
  match d.ctx? c with
  | none => d
  | some x =>
    if !d.moverArgs x op then d.finishSt c .invalidCmd
    else if d.isFenced && op != 4 then d.finishSt c .fenced
    else if !(op == 4 || d.runs pgLat) then d
    else
      let m := moverOf op x
      let d := ((d.start c).setDeadline c (if op = 4 then 0 else x.n 44 4)).moverHeat op x
      match d.poolStack m with
      | some n => ((d.drawn.bump (pgAwl n) 0 14).setMover c { m with awl := some n }).moverRun c
      | none => (d.setMover c m).moverRun c

/-- POOL_FILL (R463). -/
def poolFillOp (c : Nat) (d : Dev) : Dev := moverOp 0x28 0 c d
/-- POOL_COPY (R463). -/
def poolCopyOp (c : Nat) (d : Dev) : Dev := moverOp 0x29 1 c d
/-- POOL_COMPARE (R463). -/
def poolCompareOp (c : Nat) (d : Dev) : Dev := moverOp 0x2A 2 c d
/-- POOL_REDUCE (R463, R465). -/
def poolReduceOp (c : Nat) (d : Dev) : Dev := moverOp 0x2B 3 c d
/-- DMA_COPY (R72). -/
def dmaCopyOp (c : Nat) (d : Dev) : Dev := moverOp 0x30 4 c d

def execPoolFill (ctx : Nat) (s : State) : Host.Outcome State Fault Refusal := onUnit (fun _ => decide (ctx < 4096)) (poolFillOp ctx) s
def execPoolCopy (ctx : Nat) (s : State) : Host.Outcome State Fault Refusal := onUnit (fun _ => decide (ctx < 4096)) (poolCopyOp ctx) s
def execPoolCompare (ctx : Nat) (s : State) : Host.Outcome State Fault Refusal := onUnit (fun _ => decide (ctx < 4096)) (poolCompareOp ctx) s
def execPoolReduce (ctx : Nat) (s : State) : Host.Outcome State Fault Refusal := onUnit (fun _ => decide (ctx < 4096)) (poolReduceOp ctx) s
def execDmaCopy (ctx : Nat) (s : State) : Host.Outcome State Fault Refusal := onUnit (fun _ => decide (ctx < 4096)) (dmaCopyOp ctx) s

end Sys2Proof.Machine
end

