-- ==== Sys2Proof/Machine/Lease.lean ====
section
/-! DEFINITION. Leases, exports, regions and suspects: both ends (R448, R449, R453 to R462, R321). -/

namespace Sys2Proof.Machine
open Sys2Proof

/-! Answers to this node's requests (R430). -/

/-- A response that answers an outstanding request whose MSG fits: its tag entry is freed and `k` takes it. Otherwise it is discarded and
counted at position `i` of bank `b` of page `p`. -/
def Dev.response (d : Dev) (m : Msg) (p b i : Nat) (fits : Nat → Bool) (k : Dev → TagEntry → Dev) : Dev :=
  let d := d.took m
  match d.matchTag m with
  | some (t, e) => if fits e.msg then k ((d.freeTagEntry t).bump pgBuckle 1 1) e else d.bump p b i
  | none => d.bump p b i

/-- The command in context c goes on under incarnation cinc. -/
def Dev.isLive (d : Dev) (c cinc : Nat) : Bool :=
  match d.ctx? c with
  | some x => x.cinc == cinc && x.done.isNone
  | none => false

/-- A result that finds its command gone (R69). -/
def Dev.lateResult (d : Dev) : Dev := d.bump pgCtx 0 1

/-! The borrower (R454 to R456). -/

/-- The 32 bytes of LEASE_REQ: the fields of R455. -/
def leaseBytes (op auto exp node handle : Nat) : List Byte :=
  natLe 1 (op + auto * 4) ++ natLe 1 exp ++ natLe 2 node ++ natLe 4 handle ++ List.replicate 24 0

/-- Send a LEASE_REQ. -/
def Dev.sendLease (d : Dev) (use : TagUse) (node gen fn : Nat) (owner : ItemOwner) (b : List Byte) : Dev × Bool :=
  d.sendReq use (d.request 0x48 node 0 32 gen 0 b) { fn := fn, owner := owner }

/-- Fields of a LEASE_RENEW at a node (R455). -/
def leaseArgsOk (x : Ctx) (node : Nat) : Bool :=
  x.cflagsOk && decide (x.n 32 1 < 16) && decide (x.n 32 1 % 4 ≤ 2) && decide (x.n 34 2 < 4096) && x.zeroFrom 40 && x.n 34 2 != node &&
  (x.n 32 1 % 4 == 0 || x.n 36 4 != 0)

/-- LEASE_RENEW (R455). -/
def leaseRenewOp (c : Nat) (d : Dev) : Dev :=
  if !d.canStart c 0x49 then d else
  match d.ctx? c with
  | none => d
  | some x =>
    if !leaseArgsOk x d.node then d.finishSt c .invalidCmd
    else if d.isFenced then d.finishSt c .fenced
    else if !d.runs pgLat then d
    else
      let d := d.start c
      match d.sendLease (.lease c x.cinc) (x.n 34 2) x.mapGen x.fn (.command c x.cinc) (slice x.entry 32 32) with
      | (d, false) => d.finishSt c .tierFail
      | (d, true) =>
        let q : LeaseCmd := { op := x.n 32 1 % 4, auto := (x.n 32 1).testBit 2, node := x.n 34 2, handle := x.n 36 4, sent := d.now }
        { d with lat := { d.lat with leaseCmds := Tab.set d.lat.leaseCmds c q } }
def execLeaseRenew (ctx : Nat) (s : State) : Host.Outcome State Fault Refusal := onUnit (fun _ => decide (ctx < 4096)) (leaseRenewOp ctx) s

/-- A lease this node holds, by lender and handle. -/
def Dev.borrowed? (d : Dev) (node handle : Nat) : Option BorrowedLease := d.lat.borrowed.find? (fun b => b.node == node && b.handle == handle)
/-- Put a borrowed lease. -/
def Dev.putBorrowed (d : Dev) (b : BorrowedLease) : Dev :=
  { d with lat := { d.lat with borrowed := d.lat.borrowed.filter (fun x => !(x.node == b.node && x.handle == b.handle)) ++ [b] } }
def Dev.delBorrowed (d : Dev) (node handle : Nat) : Dev :=
  { d with lat := { d.lat with borrowed := d.lat.borrowed.filter (fun x => !(x.node == node && x.handle == handle)) } }
/-- A lease of this node is lost, if it holds it (R456). -/
def Dev.loseHandle (d : Dev) (node handle : Nat) : Dev :=
  match d.borrowed? node handle with
  | some b => d.leaseLost b
  | none => d
/-- A renewal was acknowledged: the term runs from its send (R454). -/
def Dev.renewed (d : Dev) (node handle sent : Nat) : Dev :=
  match d.borrowed? node handle with
  | some b => if b.lost then d else d.putBorrowed { b with since := sent }
  | none => d

/-- A LEASE_RENEW is answered (R455). -/
def Dev.leaseAnswer (d : Dev) (c : Nat) (q : LeaseCmd) (st : Status) (handle : Nat) : Dev :=
  let d : Dev := { d with lat := { d.lat with leaseCmds := Tab.del d.lat.leaseCmds c } }
  match d.ctx? c with
  | none => d
  | some x =>
    if st != .ok then (if q.op = 1 then d.loseHandle q.node q.handle else d).finishSt c st
    else if q.op = 2 then (d.delBorrowed q.node q.handle).finishOk c 0 handle 0
    else
      let old := d.borrowed? q.node handle
      let b : BorrowedLease := { node := q.node, handle := handle, fn := (old.map (fun (o : BorrowedLease) => o.fn)).getD x.fn, auto := q.auto,
                                 since := q.sent, lastSent := q.sent }
      (d.putBorrowed b).finishOk c 0 handle (sat 32 ((q.sent + leaseTerm - d.now) / 1600))

/-- LEASE_GNT (R455, R456, R321): the lender's answer, its status and handle. -/
def leaseGntOp (m : Msg) (status handle : Nat) (d : Dev) : Dev :=
  let st := if m.code != 0 then nackStatus m.code else statusOf status
  d.response m pgLat 0 6 (fun q => q == 0x48) fun d e =>
    match e.use with
    | .lease c cinc =>
      match Tab.find? d.lat.leaseCmds c with
      | some q => if d.isLive c cinc then d.leaseAnswer c q st handle else d.lateResult
      | none => d.lateResult
    | .renewal node h => if st == .ok then d.renewed node h e.sent else (d.bump pgLat 0 11).loseHandle node h
    | .nbrRenew x =>
      if st == .ok then
        ({ d with tack := { d.tack with nbr := Tab.upd? d.tack.nbr x (fun (n : NbrExt) => { n with ackAt := d.now, renewTag := none }) } } : Dev).renewed e.node handle e.sent
      else (d.bump pgLat 0 11).nbrLose x
    | _ => d
def execLeaseGnt (m : Msg) (status handle : Nat) (s : State) : Host.Outcome State Fault Refusal := onDev (leaseGntOp m status handle) s

/-- LAT_LEASE.RENEW_MS as it is used. -/
def Dev.renewMs (d : Dev) : Nat := min (max (d.fd R.latLease 2 0) 1) 5

/-- AUTO_RENEWAL: RENEW_MS after the last send (R456). -/
def autoRenewalOp (node handle : Nat) (d : Dev) : Dev :=
  match d.borrowed? node handle with
  | none => d
  | some b =>
    if !b.auto || b.lost || d.isFenced || !d.runs pgLat || decide (d.now < b.lastSent + msCycles d.renewMs) then d
    else
      match d.sendLease (.renewal node handle) node d.curGen b.fn .work (leaseBytes 1 1 (handle % 256) node handle) with
      | (d, true) => d.putBorrowed { b with lastSent := d.now }
      | (d, false) => (d.putBorrowed { b with lastSent := d.now }).bump pgLat 0 11
def execAutoRenewal (node handle : Nat) (s : State) : Host.Outcome State Fault Refusal := onDev (autoRenewalOp node handle) s

/-- LEASE_LOST: the borrower-side term ends (R456). -/
def leaseLostOp (node handle : Nat) (d : Dev) : Dev :=
  match d.borrowed? node handle with
  | some b => if b.since + leaseTerm ≤ d.now then d.leaseLost b else d
  | none => d
def execLeaseLost (node handle : Nat) (s : State) : Host.Outcome State Fault Refusal := onDev (leaseLostOp node handle) s

/-- NBR_RENEW: an ACTIVE extent's lease is renewed every NBR_RENEW_MS (R321). The lender is the node the extent's window entry names. -/
def nbrRenewOp (e : Nat) (d : Dev) : Dev :=
  match Tab.find? d.tack.nbr e with
  | none => d
  | some x =>
    if x.st != .active || x.renewTag.isSome || !d.runs pgTack || d.isFenced || decide (d.now < x.renewAt + msCycles d.nbrRenewMs) then d
    else
      let node := fld (d.rgb R.nwinMap (x.base % 2 ^ 44 / 2 ^ 34)) 29 18
      let put := fun (d : Dev) (t : Option Nat) => ({ d with tack := { d.tack with nbr := Tab.set d.tack.nbr e { x with renewAt := d.now, renewTag := t } } } : Dev)
      match d.sendLease (.nbrRenew e) node d.curGen 0 .work (leaseBytes 1 0 (x.lease % 256) node x.lease) with
      | (d, true) => put d (some e)
      | (d, false) => (put d none).bump pgLat 0 11
def execNbrRenew (ext : Nat) (s : State) : Host.Outcome State Fault Refusal := onUnit (fun _ => decide (ext < 64)) (nbrRenewOp ext) s

/-! The lender (R453, R454, R458, R459). -/

/-- Answer a Latigo request by its CMP message on VC_3 (R442). -/
def Dev.cmpReply (d : Dev) (m : Msg) (msg code : Nat) (data : List Byte := []) : Dev := d.reply m msg code m.addr data 3

/-- A received request, counted; refused with a NACK under R425 and R500, or handed on. -/
def Dev.judgeThen (d : Dev) (m : Msg) (k : Dev → Dev) : Dev :=
  let d := (d.took m).bump pgBuckle 1 2
  match d.judge m with
  | some (code, a) => (d.judged m code).nack m code a
  | none => k d

/-- A lease granted in slot k of its export. -/
def Dev.leaseGrant (d : Dev) (m : Msg) (k : Nat) (ro : Bool) : Dev :=
  let sus := if d.lat.reclaimed.contains m.src then d.lat.suspects.filter (fun a => a % 4096 != m.src) else d.lat.suspects
  ({ d with lat := { d.lat with slots := Tab.set d.lat.slots k { node := m.src, readOnly := ro, since := d.now }, suspects := sus,
                                reclaimed := delNat d.lat.reclaimed m.src } } : Dev).bump pgLat 0 9

/-- What a LEASE_REQ comes to at the lender: status and handle (R454, R455, R459). -/
def Dev.leaseServe (d : Dev) (m : Msg) : Dev × Status × Nat :=
  let op := leAt m.data 0 1 % 4
  let e := leAt m.data 1 1
  let h := leAt m.data 4 4
  if op = 0 then
    if !d.expValid e then (d, .badTable, 0)
    else if d.lat.reclaim.any (fun r => r.node == m.src) then (d, .quota, 0)
    else match firstBelow 64 (fun i => !Tab.has d.lat.slots (64 * e + i)) with
      | none => (d, .quota, 0)
      | some i => let d := d.leaseGrant m (64 * e + i) ((leAt m.data 0 1).testBit 3)
                  (d, .ok, d.slotHandle (64 * e + i))
  else
    let k := 64 * (h % 256) + h / 256 % 64
    match Tab.find? d.lat.slots k with
    | none => (d, .timeout, 0)
    | some x =>
      if x.node != m.src || d.slotHandle k != h || !d.slotLive x then (d, .timeout, 0)
      else if op = 1 then ({ d with lat := { d.lat with slots := Tab.set d.lat.slots k { x with since := d.now } } }, .ok, h)
      else (d.reclaimSlot k, .ok, h)

/-- Bytes of a 32-byte payload whose layout the spec leaves open (log entry 6). -/
def pay32 (msg : Nat) (l : List Nat) : List Byte := slice (Config.payload msg l) 0 32

/-- LEASE_REQ (R454, R455). -/
def leaseReqOp (m : Msg) (d : Dev) : Dev :=
  if !d.runs pgLat then d else
  d.judgeThen m fun d =>
    if m.data.length != 32 || leAt m.data 0 1 % 4 = 3 || 16 ≤ leAt m.data 0 1 then d.cmpReply m 0x68 7
    else
      let (d, st, h) := d.leaseServe m
      d.cmpReply m 0x68 0 (pay32 0x68 [st.code, h])
def execLeaseReq (m : Msg) (s : State) : Host.Outcome State Fault Refusal := onDev (leaseReqOp m) s

/-- LEASE_TERM_END: 20 ms after the receipt that granted or renewed it (R454). -/
def leaseTermEndOp (e i : Nat) (d : Dev) : Dev :=
  match Tab.find? d.lat.slots (64 * e + i) with
  | some x => if x.since + leaseTerm ≤ d.now then { d with lat := { d.lat with slots := Tab.set d.lat.slots (64 * e + i) { x with ended := true } } } else d
  | none => d
def execLeaseTermEnd (exp slot : Nat) (s : State) : Host.Outcome State Fault Refusal :=
  onUnit (fun _ => decide (exp < 256) && decide (slot < 64)) (leaseTermEndOp exp slot) s

/-- LEASE_RECLAIM: the grace has ended (R454, R458). -/
def leaseReclaimOp (e i : Nat) (d : Dev) : Dev :=
  match Tab.find? d.lat.slots (64 * e + i) with
  | some x =>
    let due := (x.ended && decide (x.since + leaseTerm + leaseGrace ≤ d.now)) || (match x.graceEnd with
      | some t => decide (t ≤ d.now)
      | none => false)
    if due then d.reclaimSlot (64 * e + i) else d
  | none => d
def execLeaseReclaim (exp slot : Nat) (s : State) : Host.Outcome State Fault Refusal :=
  onUnit (fun _ => decide (exp < 256) && decide (slot < 64)) (leaseReclaimOp exp slot) s

/-- EXPORT_INVALIDATE: LAT_EXP_CTL.VALID of an export written 0; every lease on it is reclaimed (R458). -/
def exportInvalidateOp (e : Nat) (d : Dev) : Dev :=
  if d.enabled pgLat || !fbit (d.rgb R.latExpCtl e) 0 then d
  else
    let d := d.setRgb R.latExpCtl e (putFld (d.rgb R.latExpCtl e) 0 0 0)
    ((Tab.keys d.lat.slots).filter (fun k => k / 64 == e)).foldl (fun d k => d.reclaimSlot k) d
def execExportInvalidate (exp : Nat) (s : State) : Host.Outcome State Fault Refusal :=
  onUnit (fun _ => decide (exp < 256)) (exportInvalidateOp exp) s

/-- WINDOW_ENABLE: LAT_WIN_CTL.VALID of a window written 1; it fails when its entries pass LAT_DIR_LEN (R467). -/
def windowEnableOp (w : Nat) (d : Dev) : Dev :=
  if d.enabled pgLat then d
  else if 65536 * d.fd R.latDirLen 11 0 < fld (d.rgb R.latWinDir w) 27 0 + d.winLen w / 64 then d.setErr pgLat 1 (d.winBase w)
  else d.setRgb R.latWinCtl w (putFld (d.rgb R.latWinCtl w) 0 0 1)
def execWindowEnable (win : Nat) (s : State) : Host.Outcome State Fault Refusal :=
  onUnit (fun _ => decide (win < 16)) (windowEnableOp win) s

/-- SUSPECT_CLEAR (R449). -/
def suspectClearOp (agent : Nat) (d : Dev) : Dev := { d with lat := { d.lat with suspects := delNat d.lat.suspects agent } }
def execSuspectClear (node agent : Nat) (s : State) : Host.Outcome State Fault Refusal :=
  onUnit (fun _ => decide (node < 4096) && decide (agent < 16)) (suspectClearOp (node + 4096 * agent)) s

/-- One directory entry as the sweep visits it (R459): entry number e of the directory. -/
def Dev.sweepEntry (d : Dev) (e : Nat) : Dev :=
  match firstBelow 16 (fun w => fbit (d.rgb R.latWinCtl w) 0 && decide (fld (d.rgb R.latWinDir w) 27 0 ≤ e) &&
      decide (e < fld (d.rgb R.latWinDir w) 27 0 + d.winLen w / 64)) with
  | some w => (d.dirLook w (d.winBase w + 64 * (e - fld (d.rgb R.latWinDir w) 27 0))).1
  | none => d

/-- Entries of the directory that memory holds a nonzero byte of; the others are UNCACHED. -/
def Dev.listedEntries (d : Dev) : List Nat :=
  ((d.mem.cells.filter (fun x => decide (d.dirBase ≤ x.1) && decide (x.1 < d.dirBase + 2 ^ 20 * d.fd R.latDirLen 11 0))).map
    (fun x => (x.1 - d.dirBase) / 16)).eraseDups

/-- Nodes that wait for a free entry of the reclaim list take one. -/
def Dev.reclaimFill : Nat → Dev → Dev
  | 0, d => d
  | k + 1, d =>
    match d.lat.reclaimWait with
    | [] => d
    | x :: rest =>
      if 32 ≤ d.lat.reclaim.length then d
      else Dev.reclaimFill k { d with lat := { d.lat with reclaimWait := rest, reclaim := d.lat.reclaim ++ [{ x with entered := d.now }] } }

/-- RECLAIM_DONE: a sweep of the directory ends; the nodes that entered before it began leave the list (R459). The next sweep begins. -/
def reclaimDoneOp (d : Dev) : Dev :=
  if !d.runs pgLat || d.fd R.latCfg 7 7 = 0 then d
  else
    let d := d.listedEntries.foldl (fun d e => d.sweepEntry e) d
    let (out, stay) := d.lat.reclaim.partition (fun r => decide (r.entered < d.lat.sweepFrom))
    let d : Dev := { d with lat := { d.lat with reclaim := stay, sweepFrom := d.now } }
    let d := out.foldl (fun d r => d.latEvent { node := r.node, typ := 4, info := r.handle }) d
    (Dev.reclaimFill 32 d).bump pgLat 0 16
def execReclaimDone (s : State) : Host.Outcome State Fault Refusal := onDev reclaimDoneOp s

/-! Regions (R460, R461). -/

/-- Address of region r's descriptor. -/
def Dev.regionAt (d : Dev) (r : Nat) : Nat := d.addr52 R.latRegBaseLo R.latRegBaseHi / 64 * 64 + 64 * r

/-- The 24 bytes of a descriptor that a publish writes. -/
def regionBytes (ver len base pub hold : Nat) : List Byte := natLe 4 ver ++ natLe 4 len ++ natLe 8 base ++ natLe 4 pub ++ natLe 4 hold

/-- A publish as its home sees it. -/
structure RegionPub where
  region : Nat
  expect : Nat
  base : Nat
  len : Nat
  hold : Nat
deriving DecidableEq, Repr

/-- The compare-and-swap of R461: status, SPEC0 and SPEC1, or none while sharers are still to be invalidated. -/
def Dev.regionSwap (d : Dev) (pub : Nat) (p : RegionPub) : Dev × Option (Status × Nat × Nat) :=
  let a := d.regionAt p.region
  if min (d.fd R.latRegCount 12 0) 4096 ≤ p.region || p.base % 64 != 0 || p.len % 64 != 0 then (d, some (.invalidCmd, 0, 0))
  else if d.blocked a 64 false then (d.recall a 64 false, none)
  else if d.bad a 64 then (d.touch a 64, some (.poisoned, 0, 0))
  else
    let ver := d.peekN a 4
    if ver != p.expect then (d.bump pgLat 0 12, some (.versionConflict, ver, 0))
    else if d.blocked a 64 true then (d.recall a 64 true, none)
    else
      let next := if ver = 2 ^ 32 - 1 then 1 else ver + 1
      let old := d.peekN (a + 4) 4
      (d.store a (regionBytes next p.len p.base pub p.hold), some (.ok, next, old))

/-- Fields of a REGION_PUBLISH, and the publish they name (R461). -/
def regionArgsOk (x : Ctx) : Bool :=
  x.cflagsOk && decide (x.n 32 2 < 4096) && decide (x.n 34 2 < 4096) && x.zeroFrom 44 && x.desc % 64 == 0 && x.descLen % 64 == 0
def regionPubOf (x : Ctx) : RegionPub := { region := x.n 34 2, expect := x.n 36 4, base := x.desc, len := x.descLen, hold := x.n 40 4 }
/-- The REGION_PUB that carries a publish to another home. -/
def Dev.regionMsg (d : Dev) (x : Ctx) : Msg :=
  d.request 0x49 (x.n 32 2) 0 32 x.mapGen 0 (pay32 0x49 [x.n 34 2, x.n 36 4, x.desc, x.descLen, x.n 40 4])

/-- REGION_PUBLISH (R461). -/
def regionPublishOp (c : Nat) (d : Dev) : Dev :=
  if !d.canStart c 0x40 then d else
  match d.ctx? c with
  | none => d
  | some x =>
    if !regionArgsOk x then d.finishSt c .invalidCmd
    else if d.isFenced then d.finishSt c .fenced
    else if !d.runs pgLat then d
    else if x.n 32 2 = d.node then
      match d.regionSwap d.node (regionPubOf x) with
      | (d, none) => d
      | (d, some (st, s0, s1)) => d.finish c { status := st, spec0 := s0, spec1 := s1 }
    else
      let d := d.start c
      match d.sendReq (.region c x.cinc) (d.regionMsg x) { fn := x.fn, owner := .command c x.cinc } with
      | (d, true) => { d with lat := { d.lat with regionCmds := insNat d.lat.regionCmds c } }
      | (d, false) => d.finishSt c .tierFail
def execRegionPublish (ctx : Nat) (s : State) : Host.Outcome State Fault Refusal := onUnit (fun _ => decide (ctx < 4096)) (regionPublishOp ctx) s

/-- REGION_PUB: the home performs another node's publish; it is taken up again by its own row while sharers are invalidated. -/
def regionPubOp (m : Msg) (region expect base len hold : Nat) (d : Dev) : Dev :=
  if !d.runs pgLat then d else
  match d.judge m with
  | some _ => d.judgeThen m id
  | none =>
    match d.regionSwap m.src { region := region, expect := expect, base := base, len := len, hold := hold } with
    | (d, none) => d
    | (d, some (st, s0, s1)) => d.judgeThen m (fun d => d.cmpReply m 0x69 0 (pay32 0x69 [st.code, s0, s1]))
def execRegionPub (m : Msg) (region expect base len hold : Nat) (s : State) : Host.Outcome State Fault Refusal :=
  onDev (regionPubOp m region expect base len hold) s

/-- REGION_DONE (R461). -/
def regionDoneOp (m : Msg) (status spec0 spec1 : Nat) (d : Dev) : Dev :=
  d.response m pgLat 0 6 (fun q => q == 0x49) fun d e =>
    match e.use with
    | .region c cinc =>
      let d : Dev := { d with lat := { d.lat with regionCmds := delNat d.lat.regionCmds c } }
      if !d.isLive c cinc then d.lateResult
      else if m.code != 0 then d.finishSt c (nackStatus m.code)
      else d.finish c { status := statusOf status, spec0 := spec0 % 2 ^ 32, spec1 := spec1 % 2 ^ 32 }
    | _ => d
def execRegionDone (m : Msg) (status spec0 spec1 : Nat) (s : State) : Host.Outcome State Fault Refusal :=
  onDev (regionDoneOp m status spec0 spec1) s

end Sys2Proof.Machine
end

