-- ==== Sys2Proof/Machine/Rings.lean ====
section
/-! DEFINITION. Command rings, fetching, completion records, function states and interrupt messages (R60 to R78, R470 to R481, R600). -/

namespace Sys2Proof.Machine
open Sys2Proof

/-! Rings (R60, R61). -/

/-- Entries of a ring by its CFG register. -/
def ringSize (cfg : Word) : Nat := 2 ^ fld cfg 4 0
/-- ENABLE of a ring's CFG register. -/
def ringOn (cfg : Word) : Bool := fbit cfg 31
/-- SIZE_LOG2 and base are what R61 asks for when ENABLE is set. -/
def ringOk (cfg : Word) (base : Nat) : Bool := decide (4 ≤ fld cfg 4 0) && decide (fld cfg 4 0 ≤ 16) && decide (base % 4096 = 0)
/-- Base addresses of a function's rings. -/
def Dev.sqBase (d : Dev) (f n : Nat) : Nat := d.addr64 (R.sqBaseLo n) (R.sqBaseHi n) f
def Dev.cqBase (d : Dev) (f n : Nat) : Nat := d.addr64 (R.cqBaseLo n) (R.cqBaseHi n) f

/-- RING_ERR (R61). -/
def Dev.ringErr (d : Dev) (f : Nat) : Dev := (d.setInt (pgFn f) 0).bump (pgFn f) 0 11

/-- A write to a BASE register of a ring, refused while the ring is enabled (R61). -/
def Dev.ringBaseWrite (d : Dev) (r cfg : RegId) (f : Nat) (v : Word) : Dev := if ringOn (d.rg cfg f) then d.ringErr f else d.setRg r v f

/-- Vector of a completion ring (FN_CQ_VEC). -/
def Dev.cqVec (d : Dev) (f n : Nat) : Nat := bits (d.rg (R.fnCqVec (n / 4)) f).toNat (8 * (n % 4) + 7) (8 * (n % 4))

/-- A completion ring's message (R472). -/
def Dev.cqMessage (d : Dev) (f n : Nat) : Dev :=
  if fbit (d.rg (R.cqCfg n) f) 8 then d.raise f { kind := 0, index := n, vector := d.cqVec f n } else d

/-- SQ_TAIL_DOORBELL (R61, R62). -/
def sqTailOp (f n v : Nat) (d : Dev) : Dev :=
  if ringSize (d.rg (R.sqCfg n) f) ≤ v then d.ringErr f else d.setRg (R.sqTail n) (w32 v) f
def execSqTailDoorbell (fn sq value : Nat) (s : State) : Host.Outcome State Fault Refusal :=
  onUnit (fun _ => decide (fn < 1024) && decide (sq < 8)) (sqTailOp fn sq (value % 65536)) s

/-- CQ_HEAD_DOORBELL (R61, R472). -/
def cqHeadOp (f n v : Nat) (d : Dev) : Dev :=
  let size := ringSize (d.rg (R.cqCfg n) f)
  let old := (d.rg (R.cqHead n) f).toNat % size
  let tail := (d.rg (R.cqTail n) f).toNat
  if size ≤ v || decide ((tail + size - old) % size < (v + size - old) % size) then d.ringErr f
  else
    let d := d.setRg (R.cqHead n) (w32 v) f
    if v = tail then d else d.cqMessage f n
def execCqHeadDoorbell (fn cq value : Nat) (s : State) : Host.Outcome State Fault Refusal :=
  onUnit (fun _ => decide (fn < 1024) && decide (cq < 8)) (cqHeadOp fn cq (value % 65536)) s

/-- SQ_CFG_WRITE (R61). -/
def sqCfgOp (f n : Nat) (v : Word) (d : Dev) : Dev :=
  let r := R.sqCfg n
  let v := v &&& 0x8000071F
  let old := d.rg r f
  if ringOn old then
    if (old ^^^ v) &&& 0x71F != 0 then d.ringErr f else d.setRg r v f
  else if ringOn v then
    if ringOk v (d.sqBase f n) then ((d.setRg r v f).setRg (R.sqTail n) 0 f).setRg (R.sqHead n) 0 f else d.ringErr f
  else d.setRg r v f
def execSqCfgWrite (fn sq : Nat) (value : Word) (s : State) : Host.Outcome State Fault Refusal :=
  onUnit (fun _ => decide (fn < 1024) && decide (sq < 8)) (sqCfgOp fn sq value) s

/-! Contexts. -/

/-- Contexts held by a function (FN_CTXS). -/
def Dev.heldBy (d : Dev) (f : Nat) : Nat := (d.cp.held.filter (fun e => e.2.fn == f)).length

/-- FN_CTX_LIMIT as it is read. -/
def Dev.ctxLimit (d : Dev) (f : Nat) : Nat := min (max (d.fd R.fnCtxLimit 12 0 f) 1) 4096

/-- Free a context (R67, R74): its incarnation advances; what waited for it settles. -/
def Dev.freeCtx (d : Dev) (c : Nat) : Dev :=
  let cp := { d.cp with held := Tab.del d.cp.held c, cinc := Tab.set d.cp.cinc c ((Tab.getD d.cp.cinc c 0 + 1) % 65536) }
  ({ d with cp := cp } : Dev).mapSettle

/-- A free context; which one is the device's choice. -/
def Dev.freeContext (d : Dev) : Option Nat :=
  rotateFrom (fun c => !Tab.has d.cp.held c) (d.pick 4096) 4096 4096

/-- Opcodes of R71. -/
def opcodes : List Nat :=
  [0x01, 0x02, 0x08, 0x09, 0x0A, 0x0B, 0x0C, 0x10, 0x11, 0x12, 0x18, 0x19, 0x1A, 0x20, 0x21, 0x28, 0x29, 0x2A, 0x2B, 0x30, 0x38, 0x40, 0x48, 0x49]

/-- A reserved opcode ends its command when it starts (R71, R77). -/
def Dev.opKnown (d : Dev) (c : Nat) : Dev :=
  match d.ctx? c with
  | some x => if x.ready && !opcodes.contains x.opcode then d.finishSt c .invalidCmd else d
  | none => d

/-! Fetching (R63, R66 to R68, R470, R600). -/

/-- Reader number of ring n of function f. -/
def ringReader (j : Nat) : Nat := 2 ^ 21 + j

/-- The ring has an entry to fetch, its function may fetch, and its line is not on the way (R470). -/
def Dev.fetches (d : Dev) (f n : Nat) : Bool :=
  (d.fn f).st == .enabled && !d.frozen (pgFn f) && ringOn (d.rg (R.sqCfg n) f) && d.rg (R.sqHead n) f != d.rg (R.sqTail n) f &&
  decide (d.heldBy f < d.ctxLimit f) &&
  (d.bufOf (ringReader (8 * f + n))).asked.isEmpty

/-- Requesters of the fetch arbiter. -/
def Dev.fetchers (d : Dev) : List Nat :=
  ((Tab.keys d.fns).map (fun f => ((List.range 8).filter (fun n => d.fetches f n)).map (fun n => 8 * f + n))).flatten

/-! Context bodies (R66, R69). What the device keeps in one is not given (log entry 24): its words hold what memory holds there, and errors in
them count. -/

/-- The body of context c, in the array at CTX_POOL_BASE. -/
def Dev.bodyAt (d : Dev) (c : Nat) : Nat := 2 ^ 26 * (d.addr52 R.ctxPoolBaseLo R.ctxPoolBaseHi / 2 ^ 26) + 16384 * c
/-- Lines of the body that hold an error or poison. -/
def Dev.bodyLost (d : Dev) (c : Nat) : List Nat :=
  d.mem.valid.filter (fun l => decide (d.bodyAt c ≤ 64 * l) && decide (64 * l < d.bodyAt c + 16384) && d.linePoison l)
/-- A fetch writes the body anew: no line of it is left in error. -/
def Dev.freshBody (d : Dev) (c : Nat) : Dev :=
  (d.bodyLost c).foldl (fun d l => d.storeLine (64 * l) ((List.range 64).map (fun i => BitVec.ofNat 8 (Config.free [d.draws, 66, l, i])))) d

/-- The deadline an entry asks for, in µs from its fetch (R70 and the opcodes' chapters): none where it asks for none. -/
def entryDeadline (b : List Byte) : Option Nat :=
  let op := leAt b 0 1
  let us := if op = 0x01 || op = 0x02 || op = 0x28 || op = 0x29 || op = 0x2A || op = 0x2B then leAt b 44 4
    else if op = 0x18 || op = 0x19 then leAt b 48 4
    else if op = 0x1A then leAt b 36 4
    else if op = 0x20 then leAt b 32 4
    else if op = 0x48 then 1000 * leAt b 56 4
    else 0
  if us = 0 then none else some us

/-- Put an entry into a context (R63, R66, R67); a poisoned one ends at once (R600). -/
def Dev.takeEntry (d : Dev) (f n : Nat) (b : List Byte) (poison : Bool) : Dev :=
  match d.freeContext with
  | none => d
  | some c =>
    let cfg := d.rg (R.sqCfg n) f
    let slot := (d.rg (R.sqHead n) f).toNat
    let x : Ctx := { fn := f, sq := n, cq := fld cfg 10 8, tag := leAt b 2 2, inc := (d.fn f).inc, cinc := Tab.getD d.cp.cinc c 0, entry := b,
                     slot := slot, seq := d.cp.fetchSeq, fetched := d.now, ready := poison || !(leAt b 1 1).testBit 0, mapGen := d.curGen,
                     deadline := (entryDeadline b).map (fun us => d.now + usCycles us) }
    let held := Tab.set d.cp.held c x
    let cp := { d.cp with held := held, fetchSeq := d.cp.fetchSeq + 1, lowMark := min d.cp.lowMark (4096 - held.length) }
    let d : Dev := { d with cp := cp, fab := { d.fab with bufs := Tab.del d.fab.bufs (ringReader (8 * f + n)) } }
    let d := d.drawn.setRg (R.sqHead n) (w32 ((slot + 1) % ringSize cfg)) f
    let d := ((d.freshBody c).bump pgCtx 0 0).bump (pgFn f) 0 0
    if poison then d.finish c { status := .poisoned, count := slot } else d.opKnown c

/-- COMMAND_FETCH (R63, R68, R470): the fetch arbiter's next winner. -/
def commandFetchOp (d : Dev) : Dev :=
  if !d.runs pgCtx || decide (4096 ≤ d.cp.held.length) then d else
  match rotatePickL d.fetchers d.cp.fetchPtr 8192 with
  | (none, _) => d
  | (some j, p) =>
    let f := j / 8
    let n := j % 8
    let d : Dev := { d with cp := { d.cp with fetchPtr := p } }
    let g := d.sqBase f n + 64 * (d.rg (R.sqHead n) f).toNat
    match d.cmdRead (ringReader j) g 64 with
    | (d, .wait) => d
    | (d, .fail _) => d.takeEntry f n (List.replicate 64 0) true
    | (d, .ready b bad) => d.takeEntry f n b bad.isSome
def execCommandFetch (s : State) : Host.Outcome State Fault Refusal := onDev commandFetchOp s

/-- FENCED_COMMAND_START (R64): every earlier command of the ring has written its record. -/
def fencedStartOp (c : Nat) (d : Dev) : Dev :=
  match d.ctx? c with
  | none => d
  | some x =>
    if x.ready || x.done.isSome || !d.ctxWorks || d.cp.held.any (fun (_, y) => y.fn == x.fn && y.sq == x.sq && decide (y.seq < x.seq)) then d
    else (d.setCtx c { x with ready := true }).opKnown c
def execFencedCommandStart (ctx : Nat) (s : State) : Host.Outcome State Fault Refusal :=
  onUnit (fun _ => decide (ctx < 4096)) (fencedStartOp ctx) s

/-! Completion records (R73 to R76, R476, R477, R479). -/

/-- A message that an incarnation no longer current was to raise is discarded (R476). -/
def Dev.recordTold (d : Dev) (x : Ctx) : Dev :=
  if !x.tells then d else if (d.fn x.fn).inc == x.inc then d.cqMessage x.fn x.cq else d.bump (pgFn x.fn) 0 6

/-- The 32 bytes of a record (R73). -/
def recordBytes (x : Ctx) (c : Nat) (r : Compl) (head phase : Nat) : List Byte :=
  natLe 2 x.tag ++ natLe 2 head ++ natLe 1 r.status.code ++ natLe 1 x.opcode ++ natLe 2 r.flags ++ natLe 4 r.count ++ natLe 2 (sat 16 r.tie) ++
  natLe 2 x.inc ++ natLe 8 r.spec0 ++ natLe 4 r.spec1 ++ natLe 4 (c + x.sq * 4096 + phase * 2 ^ 31)

/-- A completion ring is full (R60). -/
def Dev.cqFull (d : Dev) (f n : Nat) : Bool :=
  let size := ringSize (d.rg (R.cqCfg n) f)
  ((d.rg (R.cqTail n) f).toNat + 1) % size == (d.rg (R.cqHead n) f).toNat

/-- The record is discarded (R476, R477, R479). -/
def Dev.discards (d : Dev) (x : Ctx) : Bool :=
  let y := d.fn x.fn
  x.inc != y.inc || y.pendingEnable ||
  match y.st with
  | .enabled => false
  | .quiescing => false
  | .draining => !fbit (d.rg R.fnCtl x.fn) 2 || !ringOn (d.rg (R.cqCfg x.cq) x.fn) || d.cqFull x.fn x.cq
  | _ => true

/-- What a command gives back when its record is written: tables, snapshot, pool slots (R94, R95, R130). OLD_TABLE goes into the record
(R96), and SPEC1 of a search that ended OK is the time to the record (R150, R152). -/
def Dev.giveBack (d : Dev) (c : Nat) : Dev :=
  let d := d.releaseSearch c
  match d.ctx? c with
  | none => d
  | some x =>
    let d := d.unbind c x.binds
    d.updCtx c (fun y => { y with binds := [], done := y.done.map (fun r =>
      let r := if y.oldTable && (r.status == .ok || r.status == .superseded) then { r with flags := r.flags ||| 32 } else r
      if (y.opcode == 1 || y.opcode == 2) && r.status == .ok then { r with spec1 := d.sinceFetch y } else r) })

/-- What is counted when a command's record is written or discarded (R69, R98, R163, R502). -/
def Dev.countEnd (d : Dev) (x : Ctx) (r : Compl) : Dev :=
  let search := x.opcode = 1 || x.opcode = 2
  let d := if r.status = .ctxLost then d.bump pgCtx 0 2 else d
  let d := if search && r.status = .timeout then d.bump pgCtx 2 15 else d
  let d := if search && r.status = .ctxLost then d.bump pgCtx 2 16 else d
  let d := if r.flags.testBit 5 then d.bump pgCtx 1 5 else d
  if r.status = .ok && d.cmp.st == .admitted then ({ d with cmp := { d.cmp with progress := d.cmp.progress + 1 } } : Dev).bump pgBuckle 2 1 else d

/-- The record `b` is in its slot at `a`, or has left for it: the ring moves on (R75). Once it is there a message is raised and the context is
freed (R74, R472). -/
def Dev.recordIn (d : Dev) (c : Nat) (x : Ctx) (a : Nat) (b : List Byte) : Dev :=
  let f := x.fn
  let n := x.cq
  let size := ringSize (d.rg (R.cqCfg n) f)
  let tail := (d.rg (R.cqTail n) f).toNat
  let was := d.rg (R.cqHead n) f == d.rg (R.cqTail n) f
  let next := (tail + 1) % size
  let d := (d.setRg (R.cqTail n) (w32 next) f).bump (pgFn f) 0 1
  let y := d.fn f
  let d := if next = 0 then d.setFn f { y with flipped := if y.flipped.contains n then delNat y.flipped n else n :: y.flipped } else d
  match d.ctx? c with
  | some z => if z.remote.wrOut = 0 then (d.recordTold { z with tells := was }).freeCtx c else d.setCtx c { z with posted := some (a, b), tells := was }
  | none => d

/-- Write the record of context c, whose ring is enabled and has room. While the write waits, or is on its way to another node, c still holds
what it gives back (R94); a write that cannot leave waits too: every command has its record (R74). -/
def Dev.recordOut (d : Dev) (c : Nat) (x : Ctx) (r : Compl) : Dev :=
  let a := d.cqBase x.fn x.cq + 32 * (d.rg (R.cqTail x.cq) x.fn).toNat
  let b := recordBytes x c r (d.rg (R.sqHead x.sq) x.fn).toNat (if (d.fn x.fn).flipped.contains x.cq then 0 else 1)
  match d.put c a b with
  | (d, .wait) => d
  | (_, .fail _) => d
  | (d, .done) => ((if (d.ctx? c).any (fun z => z.remote.wrOut != 0) then d else d.giveBack c).countEnd x r).recordIn c x a b

/-- No command of the same completion ring finished earlier and still waits to write (R76). -/
def Dev.firstDone (d : Dev) (x : Ctx) (r : Compl) : Bool :=
  d.cp.held.all (fun (_, y) => match y.done with
    | some q => !(y.fn == x.fn && y.cq == x.cq && y.posted.isNone && decide (q.fin < r.fin) && y.remote.wrOut == 0)
    | none => true)

/-- COMPLETION_RECORD_WRITE (R74 to R76): the record of a command that has ended, once its writes are visible and its ring has room. -/
def recordWriteOp (c : Nat) (d : Dev) : Dev :=
  if !d.ctxWorks then d else
  match d.ctx? c with
  | none => d
  | some x =>
    match x.done with
    | none => d
    | some r =>
      if x.posted.isSome then d
      else if d.discards x then (((d.giveBack c).countEnd x r).bump (pgFn x.fn) 0 2).freeCtx c
      else if (decide (0 < x.remote.wrOut) && (d.fn x.fn).st != .draining) || !ringOn (d.rg (R.cqCfg x.cq) x.fn) || d.cqFull x.fn x.cq ||
              !d.firstDone x r then d
      else
        let g := d.giveBack c
        match (g.ctx? c).bind (fun y => y.done.map (fun r => (y, r))) with
        | some (y, r) => d.recordOut c y r
        | none => d
def execCompletionRecordWrite (ctx : Nat) (s : State) : Host.Outcome State Fault Refusal :=
  onUnit (fun _ => decide (ctx < 4096)) (recordWriteOp ctx) s

/-- Records that wait for a completion ring, in the order their commands finished (R76). -/
def Dev.waitingFor (d : Dev) (f n : Nat) : List Nat :=
  let l := d.cp.held.filterMap (fun (c, x) => match x.done with
    | some r => if x.fn = f && x.cq = n && x.posted.isNone then some (r.fin, c) else none
    | none => none)
  (l.foldl (fun (t : Tab Nat) e => Tab.set t e.1 e.2) []).map Prod.snd

/-- CQ_CFG_WRITE (R61, R75, R76). -/
def cqCfgOp (f n : Nat) (v : Word) (d : Dev) : Dev :=
  let r := R.cqCfg n
  let v := v &&& 0x8000011F
  let old := d.rg r f
  if ringOn old then
    if (old ^^^ v) &&& 0x1F != 0 then d.ringErr f else d.setRg r v f
  else if ringOn v then
    if ringOk v (d.cqBase f n) then
      let d := ((d.setRg r v f).setRg (R.cqTail n) 0 f).setRg (R.cqHead n) 0 f
      let d := d.setFn f { d.fn f with flipped := delNat (d.fn f).flipped n }
      (d.waitingFor f n).foldl (fun d c => recordWriteOp c d) d
    else d.ringErr f
  else d.setRg r v f
def execCqCfgWrite (fn cq : Nat) (value : Word) (s : State) : Host.Outcome State Fault Refusal :=
  onUnit (fun _ => decide (fn < 1024) && decide (cq < 8)) (cqCfgOp fn cq value) s

/-! Function states (R475 to R481). -/

/-- Registers of a page at their reset values, but those that are kept (R598, R18). -/
def Dev.pageReset (d : Dev) (p : Nat) : Dev :=
  match blkOfPage p with
  | none => d
  | some (b, n) =>
    let regs := d.regs.filterMap (fun (e : Nat × Word) =>
      if e.1 % 2 ^ 32 / 65536 != p then some e
      else match regDef? b n (e.1 % 65536) with
        | some r => if r.kept = 0 then none else some (e.1, mix (w32 (Machine.regReset b n (e.1 % 65536) d.eight)) e.2 (w32 r.kept))
        | none => none)
    { d with regs := regs }

/-- Refill a function's buckets and set its tags to virtual time (R478). -/
def Dev.reinRefill (d : Dev) (f : Nat) : Dev :=
  (Tab.keys d.reins).foldl (fun d i =>
    let r := d.rein i
    if Tab.has r.queues f then
      let q := r.q f
      d.setRein i (r.setQ f { q with tc := d.rqCbsOf i f * 1600, tp := d.rqPbsOf i f * 1600, finish := r.v })
    else d) d

/-- BURST as it is read, in bucket units. -/
def Dev.irqBurst (d : Dev) (f : Nat) : Nat := 1600000 * max (d.fd R.fnIrqShape 23 16 f) 1

/-- Entry to ENABLED (R476, R478). -/
def Dev.fnEnter (d : Dev) (f : Nat) : Dev :=
  let x := d.fn f
  let d := if x.refill then d.reinRefill f else d
  let d := d.setFn f { x with st := .enabled, pendingEnable := false, inc := if x.inc = 0xFFFF then 1 else x.inc + 1, sent := 0, refill := false,
                              bucket := if x.refill then d.irqBurst f else x.bucket }
  d.setInt (pgFn f) 2

/-- Leases a function acquired are released (R455, R478). -/
def Dev.releaseLeases (d : Dev) (f : Nat) : Dev :=
  (d.lat.borrowed.filter (fun (b : BorrowedLease) => b.fn == f)).foldl (fun d b =>
    ((d.sendLease .service b.node d.curGen f .work (leaseBytes 2 0 (b.handle % 256) b.node b.handle)).1).delBorrowed b.node b.handle) d

/-- Messages of a function that have not left by a port are withdrawn (R476 to R478). -/
def Dev.msgPurge (d : Dev) (f : Nat) : Dev :=
  let mine := fun (u : TagUse) => u == .intMsg f
  let tp := d.fab.tp
  let out := tp.tags.filter (fun e => mine e.2.use && tp.outbox.any (fun x => e.2.isFor e.1 x.2))
  let held := tp.outbox.filter (fun x => out.any (fun e => e.2.isFor e.1 x.2))
  let late := tp.waiting.filter (fun w => mine w.1)
  let d : Dev := { d with fab := { d.fab with tp := { tp with waiting := tp.waiting.filter (fun w => !mine w.1) } } }
  let d := d.reinPurge (fun it => match it.kind with
    | .message n => Tab.has held n
    | _ => false)
  (out.foldl (fun d e => d.freeTagEntry e.1) d).bump (pgFn f) 0 6 (out.length + late.length)

/-- PENDING_ENABLE is set or cleared: from now the old incarnation's messages are discarded (R477). -/
def Dev.fnPend (d : Dev) (f : Nat) (en : Bool) : Dev :=
  let x := d.fn f
  let d := d.setFn f { x with pendingEnable := en }
  if en then ((d.setFn f { x with pendingEnable := true, queue := [], overflow := false }).bump (pgFn f) 0 6 x.queue.length).msgPurge f else d

/-- Entry to DRAINING (R478). -/
def Dev.drain (d : Dev) (f : Nat) (again soft : Bool) : Dev :=
  let x := d.fn f
  let cs := (d.cp.held.filter (fun e => e.2.fn == f && e.2.done.isNone)).map Prod.fst
  let d := d.setFn f { x with st := .draining, pendingEnable := again, queue := [], overflow := false, drainFrom := d.now, softReset := soft,
                              refill := true, cancelled := sat 16 cs.length }
  let d := ((d.bump (pgFn f) 0 6 x.queue.length).bump (pgFn f) 0 9).msgPurge f
  let d := cs.foldl (fun d c => (d.endCmd c .abortedReset).bump (pgFn f) 0 10) d
  let snaps := (List.range 4096).filter (fun i => (d.snap i).st == 1 && (d.snap i).fn == f)
  (snaps.foldl (fun d i => d.closeSnap i) d).releaseLeases f

/-- A write to FN_CTL (R477). One that comes to a function whose soft reset is over but for its last cycle does nothing (log entry 61). -/
def Dev.fnCtlWrite (d : Dev) (f : Nat) (v : Word) : Dev :=
  let d := d.setRg R.fnCtl (v &&& 5) f
  let x := d.fn f
  let en := fbit v 0
  let rs := fbit v 1
  match x.st with
  | .disabled => if en && !x.softReset then d.fnEnter f else d
  | .clean => if en && !x.softReset then d.fnEnter f else d
  | .enabled => if rs then d.drain f en false else if en then d else d.setFn f { x with st := .quiescing }
  | .quiescing => if rs then d.drain f en false else d.fnPend f en
  | .draining => d.fnPend f en

/-- BLK_CTL.SOFT_RESET of a function page (R481). A function that holds nothing has only the cycle left in which its registers are reset. -/
def Dev.fnSoftReset (d : Dev) (f : Nat) : Dev :=
  let d := (d.setPg (pgFn f) R.blkCtl (putFld (d.pg (pgFn f) R.blkCtl) 2 2 0)).setRg R.fnCtl 0 f
  let x := d.fn f
  match x.st with
  | .draining => d.setFn f { x with softReset := true }
  | .enabled => d.drain f false true
  | .quiescing => d.drain f false true
  | _ => d.setFn f { x with softReset := true }

/-- FN_ENABLE: the write {ENABLE 1, RESET 0} (R477). -/
def execFnEnable (fn : Nat) (post : Bool) (s : State) : Host.Outcome State Fault Refusal :=
  onUnit (fun _ => decide (fn < 1024)) (fun d => d.fnCtlWrite fn (w32 (1 + 4 * b2n post))) s
/-- FN_QUIESCE: the write {ENABLE 0, RESET 0} (R477). -/
def execFnQuiesce (fn : Nat) (post : Bool) (s : State) : Host.Outcome State Fault Refusal :=
  onUnit (fun _ => decide (fn < 1024)) (fun d => d.fnCtlWrite fn (w32 (4 * b2n post))) s
/-- FN_RESET: a write with RESET 1 (R477 to R479). -/
def execFnReset (fn : Nat) (enable post : Bool) (s : State) : Host.Outcome State Fault Refusal :=
  onUnit (fun _ => decide (fn < 1024)) (fun d => d.fnCtlWrite fn (w32 (b2n enable + 2 + 4 * b2n post))) s
/-- FN_PENDING_ENABLE: a write that sets or clears PENDING_ENABLE of a function that is quiescing or draining (R477). -/
def pendingEnableOp (f : Nat) (enable post : Bool) (d : Dev) : Dev :=
  if (d.fn f).st == .quiescing || (d.fn f).st == .draining then d.fnCtlWrite f (w32 (b2n enable + 4 * b2n post)) else d
def execFnPendingEnable (fn : Nat) (enable post : Bool) (s : State) : Host.Outcome State Fault Refusal :=
  onUnit (fun _ => decide (fn < 1024)) (pendingEnableOp fn enable post) s
/-- FN_SOFT_RESET (R481). -/
def execFnSoftReset (fn : Nat) (s : State) : Host.Outcome State Fault Refusal :=
  onUnit (fun _ => decide (fn < 1024)) (fun d => d.fnSoftReset fn) s
/-- FN_FREEZE: BLK_CTL.FREEZE of a function page (R481); ignored while a soft reset runs (R56). -/
def fnFreezeOp (f : Nat) (on : Bool) (d : Dev) : Dev :=
  if on && (d.fn f).softReset then d else d.setPg (pgFn f) R.blkCtl (putFld (d.pg (pgFn f) R.blkCtl) 2 2 (b2n on))
def execFnFreeze (fn : Nat) (on : Bool) (s : State) : Host.Outcome State Fault Refusal :=
  onUnit (fun _ => decide (fn < 1024)) (fnFreezeOp fn on) s

/-- A Rein instance holds an item of the function's commands. -/
def Dev.itemsOf (d : Dev) (f : Nat) : Bool :=
  let mine := fun (it : ReinItem) => it.fn == f && it.owner != .work
  d.reins.any (fun e => e.2.strict.any (fun q => q.2.any mine) || e.2.queues.any (fun q => q.2.items.any mine))

/-- Entry to CLEAN: the rings lose their ENABLE bits (R475); a pending enable or a soft reset goes on in the next
cycle (R477, R481). -/
def Dev.fnToClean (d : Dev) (f : Nat) : Dev :=
  let d := (List.range 8).foldl (fun d n =>
    ((d.setRg (R.sqCfg n) (putFld (d.rg (R.sqCfg n) f) 31 31 0) f).setRg (R.cqCfg n) (putFld (d.rg (R.cqCfg n) f) 31 31 0) f)) d
  let x := d.fn f
  let d := d.bump (pgFn f) 0 6 x.queue.length
  let d := d.setFn f { x with st := .clean, queue := [], overflow := false,
                              lastUs := if x.st = .draining then sat 16 (ceilDiv (d.now - x.drainFrom) 1600) else x.lastUs }
  d.setInt (pgFn f) 1

/-- The cycle after (R477, R481): a soft reset ends with the registers at their reset values and the function DISABLED; else a pending enable
enters ENABLED. -/
def Dev.fnNext (d : Dev) (f : Nat) : Dev :=
  let x := d.fn f
  if x.st != .clean && x.st != .disabled then d
  else if x.softReset then
    (d.pageReset (pgFn f)).setFn f { x with st := .disabled, pendingEnable := false, softReset := false, flipped := [], lastUs := 0, cancelled := 0,
                                            bucket := 16 * 1600000 }
  else if x.st == .clean && x.pendingEnable then d.fnEnter f
  else d

/-- FN_CLEAN (R475, R480): nothing of the function is left. -/
def fnCleanOp (f : Nat) (d : Dev) : Dev :=
  if ((d.fn f).st == .quiescing || (d.fn f).st == .draining) && d.heldBy f = 0 && !d.itemsOf f then d.fnToClean f else d
def execFnClean (fn : Nat) (s : State) : Host.Outcome State Fault Refusal :=
  onUnit (fun _ => decide (fn < 1024)) (fnCleanOp fn) s

/-! Rein rows. -/

/-- A die of channel c works on another operation than `op`: a read that has been selected and not decoded, or a program. -/
def Dev.dieBusy (d : Dev) (c die : Nat) (op : FlashOp) : Bool :=
  match d.chan? c with
  | none => false
  | some x => (d.rein (32 + c)).given.any (fun g => match g with
    | .flash i o _ => i == die && o != op && (match o with
      | .read obj u => x.reads.any (fun r => r.obj == obj && r.ounit == u && !r.decoded)
      | .program => x.progs.any (fun p => p.die == die)
      | _ => false)
    | _ => false)

/-- A stack has a free Awl unit that no selected stitch waits to take. -/
def Dev.unitOpen (d : Dev) (n : Nat) : Bool :=
  decide ((d.stack n).stitches.length + ((d.rein (80 + n)).given.filter (fun g => match g with
    | .stitch _ => true
    | _ => false)).length < awlUnits)

/-- What a Rein instance's resource can take now: a port a message for which it has credits, a channel work for a die that is not busy, a stack
a stitch for a free unit, or an access of its base interface (R482). -/
def Dev.reinCan (d : Dev) (i : Nat) (it : ReinItem) : Bool :=
  match it.kind with
  | .message _ => d.portCan i it
  | .flash die op _ => !d.dieBusy (i - 32) die op
  | .stitch _ => d.unitOpen (i - 80)
  | .base => true

/-- The work of an item may go on, once all its items have been selected. Accesses of the base interface and the rewriting of units are done
when they are entered (DESIGN CHOICE, log entry 39). -/
def Dev.reinGive (d : Dev) (i : Nat) (k : ItemKind) : Dev :=
  match k with
  | .base => d
  | .message _ => d
  | .flash _ (.rewrite _) _ => d
  | _ => d.setRein i { d.rein i with given := (d.rein i).given ++ [k] }

/-- REIN_SELECT (R482, R486): the resource takes the next item. A message's flits leave on the port; other work goes on by
its own row. -/
def reinSelectOp (i : Nat) (d : Dev) : Dev :=
  if d.frozen (pgRein i) || !d.alive then d else
  match d.reinSelect i (fun it => d.reinCan i it) with
  | (d, some it) =>
    (match it.kind with
     | .message n =>
       (match Tab.find? d.fab.tp.outbox n with
        | some m => (({ d with fab := { d.fab with tp := { d.fab.tp with outbox := Tab.del d.fab.tp.outbox n } } } : Dev).msgLeaves m).sendFlits i m
        | none => d)
     | k => d.reinGive i k)
  | (d, none) => d
/-- The part has the REIN instance: ports of the upper half go when the ports run eight lanes wide (R411, R482). -/
def hasRein (i : Nat) (d : Dev) : Bool := decide (i < 96) && !(d.eight && decide (16 ≤ i) && decide (i < 32))

def execReinSelect (inst : Nat) (s : State) : Host.Outcome State Fault Refusal :=
  onUnit (hasRein inst) (reinSelectOp inst) s

/-- STARVED (R489): the weighted group has waited STARVE_US behind the strict queues. -/
def starvedOp (i : Nat) (d : Dev) : Dev :=
  let r := d.rein i
  let us := max (d.fd R.reinCfg 15 0 i) 1
  if r.queues.any (fun q => q.2.tagged) && decide (r.servedAt + usCycles us ≤ d.now) && r.strict.any (fun q => !q.2.isEmpty) &&
     !d.frozen (pgRein i) then
    ((d.setRein i { r with servedAt := d.now }).setInt (pgRein i) 0).bump (pgRein i) 0 10
  else d
def execStarved (inst : Nat) (s : State) : Host.Outcome State Fault Refusal := onUnit (hasRein inst) (starvedOp inst) s

end Sys2Proof.Machine
end

