-- ==== Sys2Proof/Machine/Compose.lean ====
section
/-! DEFINITION. Composition: maps, membership, fencing, the self-test, and ADMIT (R496 to R516). -/

namespace Sys2Proof.Machine
open Sys2Proof

/-! Map images (R496, R497). -/

def Dev.mapAt (d : Dev) : Nat := d.addr52 R.mapBaseLo R.mapBaseHi / 64 * 64
/-- State and fence epoch of a node in an image. -/
def imgNode (img : List Byte) (n : Nat) : Nat × Nat := (leAt img (64 + 8 * n) 4 % 4, leAt img (68 + 8 * n) 4)
def imgGen (img : List Byte) : Nat := leAt img 2 2
def imgGroups (img : List Byte) : Nat := leAt img 8 4
def imgTotal (img : List Byte) : Nat := leAt img 12 4
def imgOffGroups (img : List Byte) : Nat := leAt img 16 4
def imgShards (img : List Byte) (g : Nat) : Nat := leAt img (imgOffGroups img + 8 * g) 2
def imgListOff (img : List Byte) (g : Nat) : Nat := leAt img (imgOffGroups img + 8 * g + 4) 4
/-- Nodes of a group's shard list. -/
def imgList (img : List Byte) (g : Nat) : List Nat := (List.range (imgShards img g)).map (fun i => leAt img (imgListOff img g + 2 * i) 2 % 4096)

/-- Check 2 of R497 on the header and the offsets. -/
def mapFormOk (img : List Byte) (len : Nat) : Bool :=
  leAt img 0 1 == 1 && decide (leAt img 4 4 < 4096) && decide (imgTotal img ≤ len) && decide (imgGroups img ≤ 4096) &&
  imgOffGroups img % 8 == 0 && decide (32832 ≤ imgOffGroups img) && decide (imgOffGroups img + 8 * imgGroups img ≤ imgTotal img) &&
  (slice img 24 40).all (fun b => b == 0) &&
  (List.range (imgGroups img)).all (fun g =>
    decide (1 ≤ imgShards img g) && decide (imgShards img g ≤ 1024) && decide (imgListOff img g + 2 * imgShards img g ≤ imgTotal img))
/-- Its CRC. -/
def mapCrcOk (img : List Byte) : Bool := leAt img 20 4 == crc32c (patch (img.take (imgTotal img)) 20 (natLe 4 0))
/-- Check 3 of R497. -/
def mapListsOk (img : List Byte) : Bool :=
  (List.range (imgGroups img)).all (fun g =>
    let l := imgList img g
    l.all (fun n => (imgNode img n).1 == 2) && l.eraseDups.length == l.length)

/-- RESULT of an install (R497); a fenced node also asks for a later fence epoch of its own (R507). -/
def Dev.mapResult (d : Dev) (img : List Byte) : Nat :=
  let own := imgNode img d.node
  let a := d.mapAt
  let len := (d.rg R.mapLen).toNat
  if !d.nodeValid then 2
  else if !(decide (a + len ≤ 2 ^ 36) && !d.bad a (min len (imgTotal img)) && mapFormOk img len && mapCrcOk img) then 2
  else if !mapListsOk img then 2
  else if !(match d.cmp.cur with
            | some g => serialAfter 16 (imgGen img) g.gen
            | none => true) then 3
  else if d.cmp.old.isSome then 1
  else if !((own.1 == 1 || own.1 == 2) && d.cmp.testOk && (!d.isFenced || serialAfter 32 own.2 d.cmp.fencedAt)) then 4
  else 0

/-- A passing install (R497, R498). -/
def Dev.mapTake (d : Dev) (img : List Byte) : Dev :=
  let adm := (List.range 4096).filterMap (fun n =>
    let e := imgNode img n
    let x := (e.1, serialMax 32 e.2 (d.admEntry n).2)
    if x = (0, 0) then none else some (n, x))
  let own := (imgNode img d.node).1
  let c := { d.cmp with cur := some { gen := imgGen img, base := d.mapAt, len := imgTotal img, since := d.now },
                        old := d.cmp.cur.map (fun (g : MapGen) => { g with since := d.now }), adm := adm,
                        st := if own = 1 then .joining else .admitted, lastFm := d.now }
  ((({ d with cmp := c } : Dev).bump pgBuckle 2 6).fenceLeases.joinsSettle).mapSettle

/-- MAP_CTL shows the end of an operation. -/
def Dev.mapDone (d : Dev) (res : Nat) : Dev := d.setRg R.mapCtl (w32 (256 * res + 2 ^ 31))

/-- MAP_INSTALL: MAP_CTL.OP INSTALL (R497, R498, R507). -/
def mapInstallOp (d : Dev) : Dev :=
  if !d.runs pgBuckle then d else
  let d := d.mapSettle
  let n := min (d.rg R.mapLen).toNat (2 ^ 36)
  let k := min n (max 64 (d.peekN (d.mapAt + 12) 4))
  let img := d.peek d.mapAt k
  let r := d.mapResult img
  let d := if d.nodeValid && decide (d.mapAt + (d.rg R.mapLen).toNat ≤ 2 ^ 36) then d.touch d.mapAt k else d
  if r = 0 then (d.mapTake img).mapDone 0 else d.mapDone r
def execMapInstall (s : State) : Host.Outcome State Fault Refusal := onDev mapInstallOp s

/-- MAP_RETIRE_OLD: MAP_CTL.OP RETIRE_OLD (R499). -/
def mapRetireOldOp (d : Dev) : Dev := if d.runs pgBuckle then d.mapForce.mapDone 0 else d
def execMapRetireOld (s : State) : Host.Outcome State Fault Refusal := onDev mapRetireOldOp s

/-- MAP_FORCED_RETIRE: RETIRE_MS after the install (R499). -/
def mapForcedRetireOp (d : Dev) : Dev :=
  match d.cmp.old with
  | some g => if g.since + msCycles (max (d.fd R.cmpCfg 31 16) 1) ≤ d.now then d.mapForce else d
  | none => d
def execMapForcedRetire (s : State) : Host.Outcome State Fault Refusal := onDev mapForcedRetireOp s

/-! The self-test (R508). -/

/-- SELFTEST_START: CMP_SELFTEST.START. -/
def selftestStartOp (d : Dev) : Dev :=
  if d.cmp.st == .admitted || d.cmp.testRunning || !d.runs pgBuckle then d
  else ({ d with cmp := { d.cmp with testRunning := true } } : Dev).setRg R.cmpSelftest 0
def execSelftestStart (s : State) : Host.Outcome State Fault Refusal := onDev selftestStartOp s

/-- Lines whose stored check bits disagree, in regions that `p` names. -/
def Dev.errLines (d : Dev) (p : Region → Bool) : List Nat :=
  ((d.mem.ecc.map (fun e => e.1 / 8)).eraseDups).filter (fun l => p (regionOf d.part (64 * l)))
/-- A word of the line is uncorrectable and not poison. -/
def Dev.lineUe (d : Dev) (l : Nat) : Bool := d.lineValid l && (List.range 8).any (fun i => d.mem.wclass (8 * l + i) == .bad)

/-- Regions that step 3, and step 4, read. -/
def nearRegion (r : Region) : Bool := match r with
  | .seat => true
  | .coreSram _ => true
  | .engSram _ => true
  | _ => false
def hideRegion (r : Region) : Bool := match r with
  | .hide _ => true
  | _ => false

/-- PASS of steps 3 to 6. -/
def Dev.testPass (d : Dev) : Nat :=
  let p3 := !(d.errLines nearRegion).any (fun l => d.lineUe l)
  let p4 := (List.range 16).all (fun n => !d.stackOut n) && !(d.errLines hideRegion).any (fun l => d.lineUe l)
  let on := (List.range d.part.channels).filter (fun c => d.enabled (0x100 + c))
  let p5 := d.curState == 2 && on.all (fun c => (match d.chan? c with | some x => x.inService | none => false)) && d.rg R.holdupBudget != 0
  let p6 := match d.fmNode with
    | some n => (d.routeOf n).isSome
    | none => (List.range d.ports).any (fun p => d.portUp p)
  4 * b2n p3 + 8 * b2n p4 + 16 * b2n p5 + 32 * b2n p6

/-- SELFTEST_DONE: the checks have run. `found` holds PASS of steps 1 and 2, which compare what the silicon of engines, Keepers and
Lacing units computes. A pass holds until the next self-fence (R497). The bytes read are counted, but do not wait for Rein (log entry 46). -/
def selftestDoneOp (found : Nat) (d : Dev) : Dev :=
  if !d.cmp.testRunning then d else
  let pass := found % 4 + d.testPass
  let d := (d.errLines (fun r => nearRegion r || hideRegion r)).foldl (fun d l => d.touchLine l) d
  let d := ((List.range 16).filter (fun n => !d.stackOut n)).foldl (fun (d : Dev) n => d.bump (0xC0 + n) 0 0 (2 ^ 36)) d
  let d := (List.range 2).foldl (fun (d : Dev) h =>
    (d.bump (0xC + h) 0 0 (2 ^ 35)).bump (0xC + h) 0 4 (2 ^ 29 - (d.mem.valid.filter (fun l => l / 2 ^ 29 == h)).length)) d
  ({ d with cmp := { d.cmp with testRunning := false, testOk := d.cmp.testOk || decide (pass = 63) } } : Dev).setRg R.cmpSelftest (w32 (2 * pass + 128))
def execSelftestDone (found : Nat) (s : State) : Host.Outcome State Fault Refusal := onDev (selftestDoneOp found) s

/-! Membership (R501 to R506). -/

/-- The 32 data bytes of a MEMBER message (R501). -/
def memberBytes (typ gen nodeState epoch progress coll : Nat) : List Byte :=
  natLe 1 typ ++ natLe 1 0 ++ natLe 2 gen ++ natLe 4 nodeState ++ natLe 4 epoch ++ natLe 4 progress ++ natLe 4 coll ++ natLe 12 0

/-- Send a MEMBER message on VC_6. -/
def Dev.sendMember (d : Dev) (dst : Nat) (b : List Byte) : Dev × Bool :=
  d.sendMsg { msg := 0x10, src := d.node, dst := dst, mapGen := d.curGen, len := 32, fence := d.ownFence, data := b, vc := 6 }

/-- A MEMBER message of type `typ` arrives: a message of a reserved type is discarded and counted; one of FM_NODE is heard (R506). One of
another type is left to its own row. -/
def Dev.member (d : Dev) (typ : Nat) (m : Msg) (k : Dev → Dev) : Dev :=
  let t := leAt m.data 0 1
  if m.msg != 0x10 || (0 < t && t ≤ 4 && t != typ) then d
  else if !d.nodeValid || m.dst != d.node then d.took m
  else
    let d := d.took m
    let d := if d.fmNode == some m.src then { d with cmp := { d.cmp with lastFm := d.now } } else d
    if t = 0 || 4 < t then d.bump pgBuckle 2 9
    else k d

/-- FENCE and MAP_NOTICE are taken from FM_NODE, or from any node while no generation is live (R501). -/
def Dev.fromFm (d : Dev) (m : Msg) (k : Dev → Dev) : Dev :=
  if d.fmNode.isNone || d.fmNode == some m.src then k d else d.bump pgBuckle 2 9

/-- HEARTBEAT (R501, R506). -/
def heartbeatOp (m : Msg) (d : Dev) : Dev := d.member 1 m id
def execHeartbeat (m : Msg) (s : State) : Host.Outcome State Fault Refusal := onDev (heartbeatOp m) s

/-- MEMBER_FENCE (R505). -/
def memberFenceOp (m : Msg) (d : Dev) : Dev :=
  d.member 2 m fun d => d.fromFm m fun d =>
    let n := leAt m.data 4 4 % 4096
    let f := leAt m.data 8 4
    if n = d.node then (if serialAfter 32 f d.ownFence then d.fenceSelf else d) else d.fenceOther n f
def execMemberFence (m : Msg) (s : State) : Host.Outcome State Fault Refusal := onDev (memberFenceOp m) s

/-- MAP_NOTICE (R501). -/
def mapNoticeOp (m : Msg) (d : Dev) : Dev := d.member 3 m fun d => d.fromFm m fun d => d.setInt pgBuckle 5
def execMapNotice (m : Msg) (s : State) : Host.Outcome State Fault Refusal := onDev (mapNoticeOp m) s

/-- JOIN_READY at the partner (R511 step 3, R513). -/
def joinReadyOp (m : Msg) (d : Dev) : Dev :=
  d.member 4 m fun d =>
    let j : JoinFwd := { coll := leAt m.data 16 4 % 4096, node := m.src }
    let rest := d.cmp.joins.filter (fun x => !(x.coll == j.coll && x.node == j.node))
    if d.joinOn j then { d with cmp := { d.cmp with joins := rest ++ [j] } } else d
def execJoinReady (m : Msg) (s : State) : Host.Outcome State Fault Refusal := onDev (joinReadyOp m) s

/-- HB_MS and FM_SILENT_MS as they are read (R516). -/
def Dev.hbMs (d : Dev) : Nat := min (max (d.fd R.cmpCfg 3 0) 1) 5
def Dev.silentMs (d : Dev) : Nat := min (max (d.fd R.cmpCfg 12 8) 2) 19
/-- CMP_STAT.STATE. -/
def CmpNode.code : CmpNode → Nat
  | .unassigned => 0 | .joining => 1 | .admitted => 2 | .fenced => 3

/-- HEARTBEAT_TIMER (R502). -/
def heartbeatTimerOp (d : Dev) : Dev :=
  match d.fmNode with
  | none => d
  | some n =>
    if !d.nodeValid || decide (d.now < d.cmp.lastHb + msCycles d.hbMs) then d
    else
      let b := memberBytes 1 d.curGen (d.cmp.st.code * 4096) 0 (d.cmp.progress % 2 ^ 32) 0
      let r := d.sendMember n b
      let d : Dev := { r.1 with cmp := { r.1.cmp with lastHb := d.now } }
      if r.2 then d.bump pgBuckle 2 10 else d
def execHeartbeatTimer (s : State) : Host.Outcome State Fault Refusal := onDev heartbeatTimerOp s

/-- FM_SILENT (R506). -/
def fmSilentOp (d : Dev) : Dev :=
  if d.cmp.cur.isSome && decide (d.cmp.lastFm + msCycles d.silentMs ≤ d.now) then d.fenceSelf else d
def execFmSilent (s : State) : Host.Outcome State Fault Refusal := onDev fmSilentOp s

/-! ADMIT (R509 to R512). Reads of the partner are RD_REQ on VC_7. -/

/-- The partner's collection image: `none` where its descriptor is not that of a LIVE, ACTIVE collection. -/
def Dev.partnerImg (d : Dev) (c : Nat) (a : Admit) : Dev × GotV (List Byte) :=
  GotV.andThen (d.need c (a.pTbl + 128 * a.pColl) 128 7) fun d tb =>
  match (tdescOf tb).current with
  | none => (d, .bad .badCollection)
  | some (_, s) =>
    if (tdescOf tb).kind != 0 then (d, .bad .badCollection)
    else GotV.andThen (d.need c s.base 256 7) fun d img =>
      if cState img = 1 then (d, .ok img) else (d, .bad .badCollection)

/-- Base of the partner's directory root. -/
def Dev.partnerRoot (d : Dev) (c : Nat) (a : Admit) (pimg : List Byte) : Dev × GotV Nat :=
  GotV.andThen (d.need c (a.pTbl + 128 * cDirTbl pimg) 128 7) fun d tb =>
  match (tdescOf tb).current with
  | none => (d, .bad .badTable)
  | some (_, s) => (d, .ok s.base)

/-- Both collections agree (R510 order 4). -/
def admitAgrees (a b : List Byte) : Bool :=
  cMetric a == cMetric b && cDim a == cDim b && cFormat a == cFormat b && cRefine a == cRefine b && cPqm a == cPqm b &&
  cResidual a == cResidual b && cPrescan a == cPrescan b && cLists a == cLists b

/-- Pages of a directory. -/
def dirPages (img : List Byte) : Nat := ceilDiv (cLists img) 4096

/-- The local side of R510 order 3. -/
def Dev.admitLocalOk (d : Dev) (coll snap : Nat) (img root : List Byte) : Bool :=
  cState img == 1 && cFollow img && (List.range (dirPages img)).all (fun p => leAt root (64 + 8 * p) 8 == 0) &&
  eLe (d.lastSealed coll) snap && !d.admitOn coll

/-- Order 1 of R510. -/
def admitArgsOk (x : Ctx) (node : Nat) : Bool :=
  x.cflagsOk && decide (x.n 48 4 < 4096) && x.n 60 4 == 0 && x.n 32 8 / 2 ^ 52 == x.n 40 8 / 2 ^ 52 && x.n 32 8 / 2 ^ 52 != node

/-- The local root's slot and bytes, for check 3. -/
def Dev.localRoot (d : Dev) (c : Nat) (img : List Byte) : Dev × GotV (List Byte) :=
  match (d.tdesc (cDirTbl img)).current with
  | none => (d, .bad .badCollection)
  | some (_, s) => d.need c s.base s.len

/-- An ADMIT that has passed its checks. -/
def Dev.admitBegin (d : Dev) (c : Nat) (a : Admit) (us : Nat) : Dev :=
  match d.bindColl c a.coll true with
  | (d, .ok _ _) =>
    let cmp := { d.cmp with admits := Tab.set d.cmp.admits c a, partners := (a.coll, a.partner, a.pColl) :: d.cmp.partners.filter (fun p => p.1 != a.coll) }
    (({ d with cmp := cmp } : Dev).start c).setDeadline c us
  | (d, .bad st) => d.finishSt c st
  | (d, .wait) => d

/-- The admission an ADMIT asks for (R509). -/
def admitOf (x : Ctx) : Admit :=
  { coll := x.coll, partner := x.n 32 8 / 2 ^ 52, pTbl := x.n 32 8, pUpd := x.n 40 8, pColl := x.n 48 4 % 4096, snap := x.n 52 4 }

/-- The checks of R510, in order. -/
def Dev.admitCheck (d : Dev) (c : Nat) (x : Ctx) : Dev :=
  let a := admitOf x
  if !admitArgsOk x d.node then d.finishSt c .invalidCmd
  else if d.cmp.st != .joining then d.finishSt c .fenced
  else match d.lookColl c x.coll with
    | (d, .wait) => d
    | (d, .bad st) => d.finishSt c st
    | (d, .ok img _) =>
      GotV.after (d.localRoot c img) (fun d st => d.finishSt c st) fun d root =>
      if !d.admitLocalOk a.coll a.snap img root then d.finishSt c .badCollection
      else GotV.after (d.partnerImg c a) (fun d st => d.finishSt c st) fun d pimg =>
        if !admitAgrees img pimg then d.finishSt c .badCollection
        else d.admitBegin c a (1000 * x.n 56 4)

/-- Put an ADMIT's record, and forget the lines it read from the partner: the next list or step reads afresh. -/
def Dev.admitTo (d : Dev) (c : Nat) (a : Admit) : Dev :=
  ({ d with cmp := { d.cmp with admits := Tab.set d.cmp.admits c a } } : Dev).updCtx c (fun x =>
    { x with remote := { x.remote with lines := [], fails := [] } })

/-- Step 1 for one list: its objects are copied (R511). -/
def Dev.admitList (d : Dev) (c fn : Nat) (a : Admit) (e : DirEnt) (seg ref : List Byte) : Dev :=
  match d.objectOf fn seg with
  | none => d.endCmd c .quota
  | some (d1, o1) =>
    let ne : DirEnt := { seg := d1.objGlobal o1, items := e.items, segLen := e.segLen, refineLen := e.refineLen, epoch := e.epoch }
    let a1 := { a with list := a.list + 1, copied := a.copied + 1, objs := o1 :: a.objs }
    if e.refine = 0 then (d1.bump pgBuckle 2 11 seg.length).admitTo c { a1 with entries := Tab.set a.entries a.list (dirEntBytes ne) }
    else match d1.objectOf fn ref with
      | none => (d1.admitTo c a1).endCmd c .quota
      | some (d2, o2) =>
        let es := Tab.set a.entries a.list (dirEntBytes { ne with refine := d2.objGlobal o2 })
        (d2.bump pgBuckle 2 11 (seg.length + ref.length)).admitTo c { a1 with copied := a.copied + 2, objs := o2 :: o1 :: a.objs, entries := es }

/-- Step 1: the next list in ascending order. -/
def Dev.admitCopy (d : Dev) (c fn : Nat) (a : Admit) (img : List Byte) : Dev :=
  if cLists img ≤ a.list then d.admitTo c { a with step := .publish, list := 0 }
  else if !d.enabled pgTack then d
  else
    GotV.after (d.partnerImg c a) (fun d st => d.endCmd c st) fun d pimg =>
    GotV.after (d.partnerRoot c a pimg) (fun d st => d.endCmd c st) fun d root =>
    GotV.after (d.dirEntry c root a.list 7) (fun d st => d.endCmd c st) fun d eb =>
    let e := dirEntOf eb
    if e.isEmpty || e.seg = 0 then d.admitTo c { a with list := a.list + 1 }
    else
      GotV.after (d.need c e.seg e.segLen 7) (fun d st => d.endCmd c st) fun d seg =>
      GotV.after (d.need c e.refine (if e.refine = 0 then 0 else e.refineLen) 7) (fun d st => d.endCmd c st) fun d ref =>
      d.admitList c fn a e seg ref

/-- Bytes of directory page p. -/
def admitPage (a : Admit) (p : Nat) : List Byte :=
  ((List.range 4096).map (fun i => Tab.getD a.entries (4096 * p + i) (List.replicate 64 0))).flatten

/-- Objects of the directory pages in use, and the root that names them. -/
def Dev.admitPages (d : Dev) (fn : Nat) (a : Admit) (root : List Byte) : List Nat → Option (Dev × List Nat × List Byte)
  | [] => some (d, [], root)
  | p :: t =>
    match d.objectOf fn (admitPage a p) with
    | none => none
    | some (d1, o) =>
      match Dev.admitPages d1 fn a (patch root (64 + 8 * p) (natLe 8 (d1.objGlobal o))) t with
      | some (d2, os, r) => some (d2, o :: os, r)
      | none => none

/-- The end of step 1: the local pages are written and the local root is published once. -/
def Dev.admitPublish (d : Dev) (c fn : Nat) (a : Admit) (img : List Byte) : Dev :=
  let h := cDirTbl img
  let t := d.tdesc h
  if !d.enabled pgTack || d.tblBusy then d else
  match t.current, t.freeSlot with
  | none, _ => d.endCmd c .badTable
  | some _, none => d
  | some (_, s), some fs =>
    GotV.after (d.need c s.base s.len) (fun d st => d.endCmd c st) fun d root =>
    let used := (List.range (dirPages img)).filter (fun p => a.entries.any (fun e => e.1 / 4096 == p))
    match d.admitPages fn a root used with
    | none => d.endCmd c .quota
    | some (d1, os, r) =>
      match d1.objectOf fn r with
      | none => (d1.admitTo c { a with objs := os ++ a.objs }).endCmd c .quota
      | some (d2, o) => ((d2.putTdesc h (t.publish 3 fs (d2.objGlobal o) s.len)).bump pgCtx 1 0).admitTo c { a with step := .replay, objs := o :: os ++ a.objs }

/-- Blocks of a chain on the partner, oldest first. -/
def Dev.partnerChain (c node : Nat) : Nat → Dev → Nat → Dev × GotV (List (List Byte))
  | 0, d, _ => (d, .ok [])
  | k + 1, d, b =>
    if b = 0 then (d, .ok [])
    else GotV.andThen (d.need c (2 ^ 52 * node + localPart b) 65536 7) fun d blk =>
      GotV.andThen (Dev.partnerChain c node k d (leAt blk 0 8)) fun d rest => (d, .ok (blk :: rest))

/-- Code, sign code and full vector of record i of a block of inserts. -/
def blkIns (img blk : List Byte) (i : Nat) : List Byte × List Byte × List Byte :=
  let o := insOff img i + 16
  let code := if cFormat img = 5 then
      (List.range (cPqm img)).map (fun j =>
        BitVec.ofNat 8 (leAt blk (insCodeBlock img i + 16 * j + i % 32 % 16) 1 / (if i % 32 < 16 then 1 else 16) % 16))
    else slice blk o (insCode img)
  (code, slice blk (o + insCode img) (insSign img), slice blk (o + insCode img + insSign img) (insVec img))

/-- Record i of a block lies in the replayed epochs and is not voided. -/
def replays (fresh : Bool) (lo hi id e : Nat) : Bool := id != noId && (fresh || eLt lo e) && eLe e hi

/-- Replay one tombstone, or one insert: none when the delta block it needs is refused. -/
def Dev.replayTomb (d : Dev) (img : List Byte) (fn l id e : Nat) : Option Dev :=
  if (d.roomIn img fn l true).isSome then some (d.appendTomb img fn l id e) else none
def Dev.replayIns (d : Dev) (img : List Byte) (fn l id e : Nat) (x : List Byte × List Byte × List Byte) : Option Dev :=
  if (d.roomIn img fn l false).isSome then some (d.appendIns img fn l id e x.1 x.2.1 x.2.2) else none

/-- Replay a list's records (R511 steps 2 and 5): their count, or none when a block is refused. -/
def Dev.replayList (d : Dev) (img : List Byte) (fn l : Nat) (fresh : Bool) (lo hi : Nat) (ins tomb : List (List Byte)) : Option (Dev × Nat) :=
  let ts := (tomb.map (fun b => (List.range (leAt b 12 2)).map (fun i => (leAt b (64 + 16 * i) 8, leAt b (72 + 16 * i) 4)))).flatten
  let ns := (ins.map (fun b => (List.range (leAt b 12 2)).map (fun i => (leAt b (insOff img i) 8, leAt b (insOff img i + 8) 4, blkIns img b i)))).flatten
  let ts := ts.filter (fun t => replays fresh lo hi t.1 t.2)
  let ns := ns.filter (fun t => replays fresh lo hi t.1 t.2.1)
  let d1 := ts.foldl (fun (o : Option Dev) t => o.bind (fun d => d.replayTomb img fn l t.1 t.2)) (some d)
  let d2 := ns.foldl (fun (o : Option Dev) t => o.bind (fun d => d.replayIns img fn l t.1 t.2.1 t.2.2)) d1
  let newest := (ts.map Prod.snd ++ ns.map (fun t => t.2.1)).foldl (fun a b => serialMax 32 b a) (d.head img l).last
  d2.map (fun d => (if ts.isEmpty && ns.isEmpty then d else d.updHead img l (fun h => { h with last := newest }), ts.length + ns.length))

/-- Steps 2 and 5 for the next list. -/
def Dev.admitReplay (d : Dev) (c fn : Nat) (a : Admit) (img : List Byte) (final : Bool) : Dev :=
  if !d.enabled pgTack then d else
  GotV.after (d.partnerImg c a) (fun d st => d.endCmd c st) fun d pimg =>
  GotV.after (d.need c (2 ^ 52 * a.partner + localPart (cHeads pimg) + 32 * a.list) 32 7) (fun d st => d.endCmd c st) fun d hb =>
  GotV.after (Dev.partnerChain c a.partner 1048577 d (leAt hb 0 8)) (fun d st => d.endCmd c st) fun d ins =>
  GotV.after (Dev.partnerChain c a.partner 1048577 d (leAt hb 8 8)) (fun d st => d.endCmd c st) fun d tomb =>
  let e := dirEntOf (Tab.getD a.entries a.list [])
  let lo := if final then a.snap else e.epoch
  let hi := if final then a.e0.getD a.snap else a.snap
  match d.replayList img fn a.list (!final && e.isEmpty) lo hi ins tomb with
  | none => d.endCmd c .quota
  | some (d, n) => (d.bump pgBuckle 2 12 n).admitTo c { a with list := a.list + 1, replayed := a.replayed + n }

/-- The seal of e0 has passed here (R511 step 5). -/
def Dev.admitSealed (d : Dev) (a : Admit) : Bool :=
  match a.e0 with
  | some e => eLe e (d.lastSealed a.coll) && !Tab.has d.upd.seals a.coll
  | none => false

/-- Step 6: ADMIT completes; what it loaded stays. -/
def Dev.admitEnd (d : Dev) (c : Nat) (a : Admit) : Dev :=
  ({ d with cmp := { d.cmp with admits := Tab.del d.cmp.admits c } } : Dev).finishOk c a.replayed (a.e0.getD 0) (sat 32 a.copied)

/-- The step an ADMIT stands at. -/
def Dev.admitGo (d : Dev) (c : Nat) (x : Ctx) (a : Admit) : Dev :=
  let img := match bindOf x.binds a.coll with
    | some b => d.peekImg (d.boundBase b) 256
    | none => []
  match a.step with
  | .copy => d.admitCopy c x.fn a img
  | .publish => d.admitPublish c x.fn a img
  | .replay => if cLists img ≤ a.list then d.admitTo c { a with step := .joinReady, list := 0 } else d.admitReplay c x.fn a img false
  | .joinReady =>
    let r := d.sendMember a.partner (memberBytes 4 0 0 a.snap 0 a.pColl)
    if r.2 then r.1.admitTo c { a with step := .waitSeal } else d.endCmd c .tierFail
  | .waitSeal => if d.admitSealed a then d.admitTo c { a with step := .finalReplay } else d
  | .finalReplay => if cLists img ≤ a.list then d.admitEnd c a else d.admitReplay c x.fn a img true

/-- ADMIT (R509 to R511): each row takes the command on as far as one list or one step. -/
def admitOp (c : Nat) (d : Dev) : Dev :=
  match d.ctx? c, Tab.find? d.cmp.admits c with
  | some x, some a => if d.live c then d.admitGo c x a else d
  | some x, none => if d.canStart c 0x48 then d.admitCheck c x else d
  | none, _ => d
def execAdmitColl (ctx : Nat) (s : State) : Host.Outcome State Fault Refusal := onUnit (fun _ => decide (ctx < 4096)) (admitOp ctx) s

end Sys2Proof.Machine
end

