-- ==== Sys2Proof/Machine/EngExec.lean ====
section
/-! DEFINITION. What engine units do: windows, the data mover, the array, the vector unit and Skiver (R221 to R236, R258 to R275). -/

namespace Sys2Proof.Machine
open Sys2Proof

/-! Windows (R234, R235). -/

/-- The pieces of an access of `n` bytes at offset `off`, each offset reduced modulo the window's length. -/
def wrapPieces (len : Nat) : Nat → Nat → Nat → List (Nat × Nat)
  | 0, _, _ => []
  | k + 1, off, n =>
    if n = 0 || len = 0 then []
    else
      let o := off % len
      let m := min n (len - o)
      (o, m) :: wrapPieces len k (o + m) (n - m)

/-- Address of offset 0 of a window: local for SRAM, global for memory. -/
def Dev.winBaseOf (d : Dev) (e : Nat) (w : Window) : Nat :=
  match w.kind with
  | 1 => engSram e + w.base
  | 2 => coreSramAt (d.engCore e) + w.base
  | _ => w.base

/-- Read through a window. -/
def Dev.winRead (d : Dev) (e ctx : Nat) (w : Window) (off n : Nat) : Dev × GotV (List Byte) :=
  (wrapPieces w.len (n + 1) off n).foldl (fun (acc : Dev × GotV (List Byte)) p =>
    GotV.andThen acc fun d b =>
      let a := d.winBaseOf e w + p.1
      if w.kind = 3 then GotV.andThen (d.need ctx a p.2) fun d c => (d, .ok (b ++ c))
      else
        let bad := d.bad a p.2
        let d := d.touch a p.2 (d.chargeOf ctx)
        if bad then (d, .bad .poisoned) else (d, .ok (b ++ d.peek a p.2))) (d, .ok [])

/-- Write through a window. -/
def Dev.winWrite (d : Dev) (e ctx : Nat) (w : Window) (off : Nat) (b : List Byte) : Dev × Put :=
  let r := (wrapPieces w.len (b.length + 1) off b.length).foldl (fun (acc : (Dev × Put) × List Byte) p =>
    match acc with
    | ((d, .done), b) =>
      let a := d.winBaseOf e w + p.1
      let c := b.take p.2
      ((if w.kind = 3 then d.put ctx a c else (d.store a c, .done)), b.drop p.2)
    | _ => acc) ((d, Put.done), b)
  r.1

/-- The engine's own SRAM as a window. -/
def sramWin : Window := { kind := 1, base := 0, len := 2 ^ 23, write := true }
def Dev.sramRead (d : Dev) (e off n : Nat) : Dev × GotV (List Byte) := d.winRead e 0 sramWin off n
def Dev.sramWrite (d : Dev) (e off : Nat) (b : List Byte) : Dev := (d.winWrite e 0 sramWin off b).1

/-! Issue (R246, R248). -/

/-- The instruction an engine would issue next: its engine state, group number and word. -/
def Dev.issue (d : Dev) (e : Nat) : Option (Engine × BitVec 128) :=
  let x := d.engine e
  if x.owner == .group && !x.ended && d.runs (pgEng e) && decide (x.readyAt ≤ d.now) &&
     (match d.group? x.group with
      | some g => g.running
      | none => false) then
    x.istore[x.pc]?.map (fun w => (x, w))
  else none

/-- The next instruction after one of `n` slots. -/
def Engine.adv (x : Engine) (n : Nat) : Engine :=
  let (l, p) := loopNext 5 x.loops (x.pc + n)
  { x with pc := p, loops := l, stalled := false, syncing := false, retired := x.retired + 1 }

/-- Retire an instruction of `n` slots: the engine's own registers changed by `f`. -/
def Dev.retire (d : Dev) (e n : Nat) (f : Engine → Engine := id) : Dev :=
  (d.updEngine e (fun x => (f x).adv n)).bump (pgEng e) 0 2

/-- The issue unit stalls; position 3 counts the cycles that it does (R256). -/
def Dev.stall (d : Dev) (e : Nat) : Dev := d.updEngine e (fun x => { x with stalled := true })

def Engine.xr (x : Engine) (i : Nat) : Word := if i = 0 then 0 else Tab.getD x.x i 0
def Engine.setX (x : Engine) (i : Nat) (v : Word) : Engine := if i = 0 then x else { x with x := Tab.set x.x i v }
def Engine.vr (x : Engine) (i : Nat) : List Word := Tab.getD x.v i (List.replicate 512 0)
def Engine.setV (x : Engine) (i : Nat) (v : List Word) : Engine := { x with v := Tab.set x.v i v }

/-! The data mover (R234, R236, R253). -/

/-- Pieces of at most 4 KiB that a transfer moves, in order: source offset, destination offset, bytes. -/
def Pend.pieces (p : Pend) : List (Nat × Nat × Nat) :=
  ((List.range p.count).map (fun i => (List.range (ceilDiv p.len 4096)).map (fun k =>
    (p.src + i * p.srcStride + 4096 * k, p.dst + i * p.dstStride + 4096 * k, min 4096 (p.len - 4096 * k))))).flatten

/-- Objects that an access through a window touches. -/
def Dev.winObjs (d : Dev) (e : Nat) (w : Window) (off n : Nat) : List Nat :=
  if w.kind = 3 then ((wrapPieces w.len (n + 1) off n).map (fun p => d.objsIn (d.winBaseOf e w + p.1) p.2)).flatten else []
/-- A data-mover instruction is one access to the objects it reads and writes, counted as it issues (R309). -/
def Dev.dmaHeat (d : Dev) (e : Nat) (x : Engine) (p : Pend) : Dev :=
  let win := fun (i : Nat) => x.wins.getD i {}
  d.heatAll ((p.pieces.map (fun c => d.winObjs e (win (ifl p.w 34 32)) c.1 c.2.2 ++ d.winObjs e (win (ifl p.w 38 36)) c.2.1 c.2.2)).flatten)

/-- The lines of other nodes that a piece of a transfer fetched are not kept: the data mover is a non-caching agent (R236). -/
def Dev.unfetch (d : Dev) (e ctx : Nat) (w : Window) (off n : Nat) : Dev :=
  if w.kind = 3 then
    let ls := ((wrapPieces w.len (n + 1) off n).map (fun p => match d.remoteOf (d.winBaseOf e w + p.1) with
      | some g => linesOf g p.2
      | none => [])).flatten
    if ls.isEmpty then d else d.dropLines ctx ls
  else d

/-- Move one piece: false while something it reads or writes must be waited for. -/
def Dev.dmaPiece (d : Dev) (e : Nat) (x : Engine) (sw dw : Window) (c : Nat × Nat × Nat) : Dev × GotV Unit :=
  GotV.andThen (d.winRead e x.ctx sw c.1 c.2.2) fun d b =>
    match d.winWrite e x.ctx dw c.2.1 b with
    | (d, .wait) => (d, .wait)
    | (d, .fail st) => (d, .bad st)
    | (d, .done) =>
      ((d.unfetch e x.ctx sw c.1 c.2.2).bump (pgEng e) 0 10 c.2.2, .ok ())

/-- Move the pieces left of a transfer, as far as nothing must be waited for: how many were moved, and whether the rest must wait. -/
def Dev.dmaGo (d : Dev) (e : Nat) (x : Engine) (sw dw : Window) : List (Nat × Nat × Nat) → Nat → Dev × GotV Nat
  | [], n => (d, .ok n)
  | c :: t, n =>
    match d.dmaPiece e x sw dw c with
    | (d, .ok _) => Dev.dmaGo d e x sw dw t (n + 1)
    | (d, .wait) => (d, .ok n)
    | (d, .bad st) => (d, .bad st)

/-- Perform what can be moved now of a transfer; what is left of it, if anything. -/
def Dev.dmaDo (d : Dev) (e : Nat) (x : Engine) (p : Pend) : Dev × Option Pend :=
  match d.dmaGo e x (x.wins.getD (ifl p.w 34 32) {}) (x.wins.getD (ifl p.w 38 36) {}) (p.pieces.drop p.pos) p.pos with
  | (d, .ok n) => (d, if n = p.pieces.length then none else some { p with pos := n })
  | (d, .bad st) => (d.groupStop x.group st, none)
  | (d, .wait) => (d, some p)

/-! The array (R224 to R228). -/

/-- K rows of a tile (R224), by the format of its weights. -/
def tileDepth (f : Nat) (sparse : Bool) : Nat := (if eltBits f = 4 then 1024 else 512) * (if sparse then 2 else 1)
/-- A tile whose weights are left open. -/
def openTile (n f : Nat) : Tile := { fmt := f, cols := 512, depth := tileDepth f false, loose := some n }

/-- WLOAD: the shadow tile is loaded from engine SRAM. Elements lie column by column, the K elements of a column together, as R228 places the
metadata (log entry 17). What a load of more K rows than a tile has leaves in the tile is left open. -/
def Dev.wloadDo (d : Dev) (e : Nat) (x : Engine) (p : Pend) : Dev :=
  let f := ifl p.w 35 32
  let sp := ifl p.w 36 36 = 1
  let cols := ifl p.w 47 40 + 1
  let depth := ifl p.w 63 48
  let kept := if sp then depth / 2 else depth
  if tileDepth f sp < depth then d.drawn.updEngine e (fun y => { y with shadow := some { openTile d.draws f with sparse := sp } })
  else
  let nb := ceilDiv (cols * kept * eltBits f) 8
  let xb := if sp then ceilDiv (cols * depth) 8 else if f = 4 || f = 5 then cols * (depth / 32) else 0
  let r := GotV.andThen (d.sramRead e (ifl p.w 95 64) nb) fun d a =>
    GotV.andThen (d.sramRead e (ifl p.w 127 96) xb) fun d b => (d, .ok (a, b))
  GotV.after r (fun d st => d.groupStop x.group st) fun d t =>
    d.updEngine e (fun y => { y with shadow := some { fmt := f, sparse := sp, cols := cols, depth := depth, off := ifl p.w 95 64,
                                                      data := t.1, extra := t.2 } })

/-- Metadata nibble of group g of column c (R228). -/
def Tile.nib (t : Tile) (c g : Nat) : Nat := eltCode 1 t.extra (c * (t.depth / 4) + g)
/-- The nibble is valid. -/
def nibOk (n : Nat) : Bool := decide (n % 4 < n / 4)
/-- Code of the weight of column c at position k of the full tile: zero where the load pads it (R224), where sparsity holds no value, and
through a group whose nibble is invalid (R228). -/
def Tile.wt (t : Tile) (c k : Nat) : Nat :=
  match t.loose with
  | some n => Config.free [n, 70, c, k] % 2 ^ eltBits t.fmt
  | none =>
    if t.cols ≤ c || t.depth ≤ k then 0
    else if !t.sparse then eltCode t.fmt t.data (c * t.depth + k)
    else
      let n := t.nib c (k / 4)
      if !nibOk n then 0
      else if n % 4 = k % 4 then eltCode t.fmt t.data (c * (t.depth / 2) + 2 * (k / 4))
      else if n / 4 = k % 4 then eltCode t.fmt t.data (c * (t.depth / 2) + 2 * (k / 4) + 1)
      else 0
/-- Scale byte of block b of column c of an MX tile; a padded block's products are zero whatever it is. A sparse MX tile's scales have no place in
the encoding: left open. -/
def Tile.scale (t : Tile) (seed : List Nat) (c b : Nat) : Nat :=
  if t.sparse || t.loose.isSome then Config.free (seed ++ [3, c, b]) % 256
  else if t.cols ≤ c || t.depth / 32 ≤ b then 127
  else leAt t.extra (c * (t.depth / 32) + b) 1

/-- One INT32 accumulator after a row (R227): its value and whether it saturated. -/
def macInt (a : Nat) (t : Tile) (row : List Byte) (old : Word) (c : Nat) : Word × Bool :=
  let s := (List.range t.depth).foldl (fun (s : Int) k =>
    s + sInt (eltBits a) (eltCode a row k) * sInt (eltBits t.fmt) (t.wt c k)) (sInt 32 old.toNat)
  let v := (Fv.ofInt s).satInt 32
  (w32 (wrapInt 32 v), v != s)

/-- Exact products of positions [lo, lo + n) of a column. -/
def macProds (a : Nat) (t : Tile) (row : List Byte) (c lo n : Nat) : List Fv :=
  (List.range n).map (fun i => (eltVal a (eltCode a row (lo + i))).mul (eltVal t.fmt (t.wt c (lo + i))))

/-- Scale byte of block b of an MX activation row: the encoding names no place for it, and it is left open. -/
def actScale (seed : List Nat) (b : Nat) : Nat := Config.free (seed ++ [4, b]) % 256

/-- One FP32 accumulator after a row (R227): the exact products and the old value summed by FP32 additions in an open order; the dot product of an
MX block is scaled first. -/
def macFp (seed : List Nat) (a : Nat) (t : Tile) (row : List Byte) (old : Option Word) (c : Nat) : Word :=
  let start := match old with
    | some w => [val32 w]
    | none => []
  let k := tileDepth t.fmt t.sparse
  if a = 4 || a = 5 then
    let blk := (List.range (k / 32)).map (fun b =>
      let sa := actScale seed b
      let sw := t.scale seed c b
      if sa = 255 || sw = 255 then Fv.nan
      else (val32 (vSum (seed ++ [5, c, b]) (macProds a t row c (32 * b) 32))).mul (.fin false 1 ((sa : Int) + (sw : Int) - 254)))
    vSum (seed ++ [6, c]) (start ++ blk)
  else vSum (seed ++ [6, c]) (start ++ macProds a t row c 0 k)

/-- One activation row into one accumulator row: the row after, saturations, NaN results. -/
def macRow (seed : List Nat) (a : Nat) (t : Tile) (zero : Bool) (row : List Byte) (old : List Word) : List Word × Nat × Nat :=
  if pairInt a then
    let r := (List.range 512).map (fun c => macInt a t row (if zero then 0 else old.getD c 0) c)
    (r.map Prod.fst, (r.filter Prod.snd).length, 0)
  else
    let r := (List.range 512).map (fun c => macFp seed a t row (if zero then none else some (old.getD c 0)) c)
    (r, 0, (r.filter (fun w => (val32 w).isNan)).length)

/-- The tile that a matrix instruction of activation format `a` meets. Where no load has filled it, or its weights are in a format that
the array does not pair with `a`, what it holds for this instruction is left open (log entry 17). -/
def Dev.metTile (d : Dev) (a : Nat) (t : Option Tile) : Tile :=
  match t with
  | some t => if pairOk a t.fmt then t else openTile d.draws a
  | none => openTile d.draws a

/-- Groups of a sparse tile with an invalid nibble (R228); blocks of an MX tile with a NaN scale. -/
def Tile.badGroups (t : Tile) : Nat :=
  if t.sparse && t.loose.isNone then
    ((List.range t.cols).map (fun c => ((List.range (t.depth / 4)).filter (fun g => !nibOk (t.nib c g))).length)).foldl (· + ·) 0
  else 0
def Tile.nanBlocks (t : Tile) (seed : List Nat) : Nat :=
  if t.fmt = 4 || t.fmt = 5 then
    ((List.range t.cols).map (fun c => ((List.range (t.depth / 32)).filter (fun b => t.scale seed c b == 255)).length)).foldl (· + ·) 0
  else 0

/-- ACLK cycles of an activation row (R224). -/
def rowCycles (a : Nat) : Nat := if a = 6 || a = 7 then 4 else 1

/-- MMA: M activation rows through the active tile (R225, R227). SWAP exchanges the two tiles. Invalid groups and NaN scales of the tile count
once for the instruction, NaN scales of the activation once for their row (log entry 17). -/
def Dev.mmaDo (d : Dev) (e : Nat) (x : Engine) (p : Pend) : Dev :=
  let a := ifl p.w 35 32
  let d := if ifl p.w 37 37 = 1 then d.updEngine e (fun y => { y with active := x.shadow, shadow := x.active }) else d
  let t := d.metTile a (d.engine e).active
  let k := tileDepth t.fmt t.sparse
  let mx := a == 4 || a == 5
  let one := fun (d : Dev) i =>
    GotV.after (d.sramRead e (ifl p.w 127 96 + i * ifl p.w 95 80 * 64) (ceilDiv (k * eltBits a) 8)) (fun d st => d.groupStop x.group st) fun d row =>
      let at' := 512 * ifl p.w 38 38 + (ifl p.w 72 64 + i) % 512
      let seed := [d.draws, 2, i]
      let r := macRow seed a t (ifl p.w 36 36 = 1) row (Tab.getD (d.engine e).acc at' [])
      let d := d.updEngine e (fun y => { y with acc := Tab.set y.acc at' r.1, nans := y.nans + r.2.2,
                                                accInt := if pairInt a then insNat y.accInt at' else delNat y.accInt at' })
      let d := if mx then d.bump (pgEng e) 0 8 ((List.range (k / 32)).filter (fun b => actScale seed b == 255)).length else d
      ((d.bump (pgEng e) 0 6 r.2.1).bump (pgEng e) 0 5 r.2.2).bump (pgEng e) 0 1 (rowCycles a)
  ((List.range (ifl p.w 63 48)).foldl one ((d.bump (pgEng e) 0 7 t.badGroups).bump (pgEng e) 0 8 (t.nanBlocks [d.draws, 2]))).drawn

/-! Skiver (R259 to R268). -/

/-- Largest code magnitude, as FP32. -/
def qmaxOf (f : Nat) : Word := if f = 0 then 0x42FE0000 else if f = 1 then 0x40E00000 else if f = 2 then 0x43E00000 else 0x47600000
/-- 2^m as FP32. -/
def pow2w (m : Int) : Word := word32 (.fin false 1 m)
/-- Round a positive multiplier down to a power of two. -/
def pow2Down (s : Word) : Word := s &&& 0xFF800000
/-- Clamp of R265. -/
def clampScale (s : Word) : Word := if xLt s 0x00800000 then 0x00800000 else if xLt 0x7E800000 s then 0x7E800000 else s

/-- tensor_multiplier (R265). -/
def Slot.mult (s : Slot) (m : Nat) (pow2 : Bool) (f : Nat) : Word :=
  let a := s.histMax
  let z := (val32 a).isZero
  let v := if z then s.init else xDiv (qmaxOf f) (xMul a (pow2w m))
  clampScale (if pow2 && !z then pow2Down v else v)

/-- Per-row multiplier (R266). -/
def rowMult (a : Word) (m : Nat) (pow2 : Bool) (f : Nat) : Word :=
  if (val32 a).isZero then 0x3F800000
  else
    let v := xDiv (qmaxOf f) (xMul a (pow2w m))
    clampScale (if pow2 then pow2Down v else v)

/-- Largest finite code of a format, for an infinite value. -/
def infCode (f : Nat) (neg : Bool) : Nat :=
  if f = 0 then (if neg then 0x80 else 0x7F) else if f = 1 then (if neg then 8 else 7)
  else if f = 2 || f = 4 then e4m3.sign neg + e4m3.maxCode else if f = 3 then e5m2.sign neg + e5m2.maxCode
  else if f = 5 then e2m1.sign neg + e2m1.maxCode else if f = 6 then bf16.sign neg + bf16.maxCode else fp16.sign neg + fp16.maxCode

/-- A finite value is saturated by its conversion: its rounded code lies beyond the largest finite one of the format, or, of an MX element, its
magnitude beyond the largest finite value (R259, R267). -/
def overCode (f : Nat) (v : Fv) : Bool :=
  let big := fun (g : Fmt) => match v with
    | .fin _ m e => m != 0 && decide (g.maxCode < g.roundMag m e)
    | _ => false
  if f = 0 then v.toInt != v.satInt 8 else if f = 1 then v.toInt != v.satInt 4
  else if f = 2 then big e4m3 else if f = 3 then big e5m2
  else if f = 4 then (Fv.fin false 448 0).lt v.abs else if f = 5 then (Fv.fin false 6 0).lt v.abs
  else if f = 6 then big bf16 else big fp16

/-- Code of a value already scaled, and whether it was saturated (R259, R267, R268). -/
def skCode (f : Nat) (y : Word) (v : Fv) : Nat × Bool :=
  if (val32 y).isNan then (0, false)
  else if (val32 y).isInf then (infCode f (val32 y).neg, true)
  else if v.isInf then (infCode f v.neg, true)
  else (eltEnc f v, overCode f v)

/-- Largest finite magnitude of a list. -/
def amaxOf (l : List Word) : Word :=
  l.foldl (fun m w => if (val32 w).finite then xMax m (w &&& 0x7FFFFFFF) else m) 0
/-- floor(log2 a) of a positive finite value. -/
def log2Of (a : Word) : Int :=
  match val32 a with
  | .fin _ m e => (Nat.log2 m : Int) + e
  | _ => 0

/-- Pack codes of a format into bytes (R230). -/
def packElts (f : Nat) (l : List Nat) : List Byte :=
  if eltBits f = 4 then (List.range ((l.length + 1) / 2)).map (fun i => BitVec.ofNat 8 (l.getD (2 * i) 0 % 16 + 16 * (l.getD (2 * i + 1) 0 % 16)))
  else (l.map (fun c => natLe (eltBits f / 8) c)).flatten

/-- A quantised row: codes, scale bytes, saturations, zero-amax rows or blocks. -/
structure QRow where
  codes : List Nat := []
  scale : List Byte := []
  sats : Nat := 0
  zeros : Nat := 0
deriving DecidableEq, Repr

/-- Quantise one row of values: `s` is the per-tensor multiplier. -/
def quantRow (f : Nat) (perRow : Bool) (m : Nat) (pow2 : Bool) (s : Word) (ys : List Word) : QRow :=
  let scaled := fun (t : Word) => ys.map (fun y => skCode f y (val32 (xMul y t)))
  let count := fun (l : List (Nat × Bool)) => (l.filter Prod.snd).length
  if f = 4 || f = 5 then
    let emax : Int := if f = 5 then 2 else 8
    let blk := (List.range (ys.length / 32)).map (fun b =>
      let z := (ys.drop (32 * b)).take 32
      let a := amaxOf z
      let zero := (val32 a).isZero
      let x : Int := if zero then -127 else max (-127) (min 127 (log2Of a - emax))
      (z.map (fun y => skCode f y ((val32 y).mul (.fin false 1 (-x)))), if zero then 0 else (x + 127).toNat, zero))
    let cs := (blk.map Prod.fst).flatten
    { codes := cs.map Prod.fst, scale := blk.map (fun b => BitVec.ofNat 8 b.2.1), sats := count cs, zeros := (blk.filter (fun b => b.2.2)).length }
  else if f = 6 || f = 7 then
    let cs := ys.map (fun y => skCode f y (val32 y))
    { codes := cs.map Prod.fst, sats := count cs }
  else
    let a := amaxOf ys
    let t := if perRow then rowMult a m pow2 f else s
    let cs := scaled t
    { codes := cs.map Prod.fst, scale := if perRow then natLe 4 (xDiv 0x3F800000 t).toNat else [], sats := count cs,
      zeros := b2n (val32 a).isZero }

/-- Values of an accumulator row that QROW quantises (R259 steps 1 and 2). -/
def skValues (int : Bool) (acc : List Word) (cols : Nat) (pre : Option (Word × List Byte × List Byte)) : List Word :=
  (List.range cols).map (fun c =>
    let v := acc.getD c 0
    let y := if int then word32 (.ofInt (sInt 32 v.toNat)) else v
    match pre with
    | none => y
    | some (rs, cs, bs) => xAdd (xMul (xMul y rs) (w32 (leAt cs (4 * c) 4))) (w32 (leAt bs (4 * c) 4)))

/-- QROW: what is written and counted, once the arrays of PRESCALE are read. -/
def Dev.qrowWith (d : Dev) (e : Nat) (w : BitVec 128) (pre : List Byte) : Dev :=
  let f := ifl w 35 32
  let perRow := ifl w 37 37 = 1
  let j := ifl w 41 38
  let m := ifl w 44 42
  let pow2 := ifl w 45 45 = 1
  let rows := ifl w 64 56 + 1
  let cols := ifl w 122 114 + 1
  let tensor := !perRow && decide (f ≤ 3)
  let x := d.engine e
  let slot := d.slotOf e j
  let s := slot.mult m pow2 f
  let vals := (List.range rows).map (fun i =>
    let r := ifl w 55 47 + i
    let k := 512 * ifl w 36 36 + r
    let p := if ifl w 46 46 = 1 then some (w32 (leAt pre (4 * r) 4), pre.drop 2048, pre.drop 4096) else none
    skValues (x.accInt.contains k) (Tab.getD x.acc k []) cols p)
  let qs := vals.map (quantRow f perRow m pow2 s)
  let pitch := up64 (ceilDiv (cols * eltBits f) 8)
  let d := (qs.zipIdx).foldl (fun d q => d.sramWrite e (ifl w 81 65 * 64 + q.2 * pitch) (packElts f q.1.codes)) d
  let sc := if tensor then natLe 4 (xDiv 0x3F800000 s).toNat else (qs.map (fun q => q.scale)).flatten
  let d := if sc.isEmpty then d else d.sramWrite e (128 * ifl w 97 82) sc
  let sats := (qs.map (fun q => q.sats)).foldl (· + ·) 0
  let nans := ((vals.map (fun v => (v.filter (fun y => (val32 y).isNan)).length))).foldl (· + ·) 0
  let d := if tensor then
      d.setSlot e j { slot with curAmax := xMax slot.curAmax (amaxOf vals.flatten), scale := s, stepSat := sat 32 (slot.stepSat + sats) }
    else d
  let n := rows * cols
  let d := d.updEngine e (fun y => { y with sats := y.sats + sats,
                                            slotSats := if tensor then Tab.set y.slotSats j (Tab.getD y.slotSats j 0 + sats) else y.slotSats })
  let d := d.bump (pgSkv e) 0 9 (2 * rows + (if tensor || 6 ≤ f then 0 else 8))
  let d := if tensor then d.bump (pgSkv e) 0 0 n else if perRow then d.bump (pgSkv e) 0 1 n else if f = 4 || f = 5 then d.bump (pgSkv e) 0 2 (n / 32) else d
  ((d.bump (pgSkv e) 0 3 sats).bump (pgSkv e) 0 4 nans).bump (pgSkv e) 0 10 ((qs.map (fun q => q.zeros)).foldl (· + ·) 0)

/-- A QUANT instruction's work (R261, R271 to R273). -/
def Dev.quantDo (d : Dev) (e : Nat) (x : Engine) (p : Pend) : Dev :=
  let j := ifl p.w 41 38
  let off := ifl p.w 95 64
  let fail := fun (d : Dev) st => d.groupStop x.group st
  match iOp p.w with
  | 0 =>
    if ifl p.w 46 46 = 1 then GotV.after (d.sramRead e (128 * ifl p.w 113 98) 6144) fail fun d b => d.qrowWith e p.w b
    else d.qrowWith e p.w []
  | 1 =>
    let s := d.slotOf e j
    let (t, ev) := s.step
    let d := (d.setSlot e j t).bump (pgSkv e) 0 5
    if ev then (d.satStep e j x.ctx s.stepSat).updEngine e (fun y => { y with events := y.events + 1 }) else d
  | 2 =>
    GotV.after (d.sramRead e off 4) fail fun d b =>
      let v := w32 (leNat b)
      let s := d.slotOf e j
      if (val32 v).finite && !(val32 v).neg && xLt s.curAmax v then d.setSlot e j { s with curAmax := v } else d
  | 3 => d.sramWrite e off (slotBytes128 (d.slotOf e j))
  | _ =>
    GotV.after (d.sramRead e off 128) fail fun d b =>
      match slotOfBytes b with
      | some s => d.setSlot e j s
      | none => (d.setSlot e j {}).bump (pgSkv e) 0 8

/-! Asynchronous work (R246). -/

/-- Unit that performs a class: data mover, array, Skiver. -/
def unitOf (w : BitVec 128) : Nat := if iClass w = 3 then 4 else iClass w

/-- The array's clock runs (R574). -/
def Dev.arrayAwake (d : Dev) (x : Engine) : Bool := !x.gated && decide (x.awakeAt ≤ d.now)

/-- Bank conflicts while a unit does work beside others of the engine: which accesses meet at a bank depends on their cycles, which the spec leaves
open, and so is their number (R222; log entry 5). -/
def Dev.conflicts (d : Dev) (e : Nat) (x : Engine) (p : Pend) : Dev :=
  if x.pend.any (fun q => iClass q.w != iClass p.w) then d.bumpFree (pgEng e) 0 9 (Config.free [d.draws, 92, e]) else d

/-- Perform an accepted instruction: what of it must still wait, if anything. The Skiver works while its page runs (R55). -/
def Dev.perform (d : Dev) (e : Nat) (p : Pend) : Dev × Option Pend :=
  let x := d.engine e
  match iClass p.w with
  | 2 => (d.conflicts e x p).dmaDo e x p
  | 3 => if d.arrayAwake x then ((d.conflicts e x p).wloadDo e x p, none) else (d, some p)
  | 4 => if d.arrayAwake x then ((d.conflicts e x p).mmaDo e x p, none) else (d, some p)
  | 6 => if d.goesOn (pgSkv e) then ((d.conflicts e x p).quantDo e x p, none) else (d, some p)
  | _ => (d, none)

/-- An asynchronous instruction issues (R246): it waits while its token is busy or its unit takes no more; its token is then busy until its
work is complete. Each unit performs its instructions in order. -/
def Dev.issueAsync (d : Dev) (e slots : Nat) (x : Engine) (p : Pend) : Dev :=
  let tok := iToken p.w
  if (iTokEn p.w && x.tokens.contains tok) || (iClass p.w = 2 && decide (8 ≤ (x.pend.filter (fun q => iClass q.w == 2)).length)) ||
     (iClass p.w = 6 && !d.runs (pgSkv e)) then d.stall e
  else
    let p := { p with tok := if iTokEn p.w then some tok else none }
    let d := d.retire e slots (fun y => if iTokEn p.w then { y with tokens := insNat y.tokens tok } else y)
    let d := if iClass p.w = 2 then d.dmaHeat e x p else d
    if x.pend.any (fun q => unitOf q.w == unitOf p.w) then d.updEngine e (fun y => { y with pend := y.pend ++ [p] })
    else match d.perform e p with
      | (d, none) => d
      | (d, some p) => d.updEngine e (fun y => { y with pend := y.pend ++ [p] })

/-- Perform what the units can now perform of their accepted instructions, each unit in order; `held` are units whose head still waits. -/
def Dev.driveGo : List Pend → List Nat → Dev → Nat → Dev
  | [], _, d, _ => d
  | p :: t, held, d, e =>
    if held.contains (unitOf p.w) || !(d.engine e).pend.contains p then Dev.driveGo t held d e
    else
      match d.perform e p with
      | (d, none) => Dev.driveGo t held (d.updEngine e (fun y => { y with pend := y.pend.erase p })) e
      | (d, some q) => Dev.driveGo t (unitOf p.w :: held) (d.updEngine e (fun y => { y with pend := y.pend.replace p q })) e
/-- One that was stopping is free when its last work has ended (R253). -/
def Dev.drive (d : Dev) (e : Nat) : Dev :=
  let d := Dev.driveGo (d.engine e).pend [] d e
  let x := d.engine e
  if x.stopping && x.pend.isEmpty then d.engFree e else d

/-- The engine's earlier writes have been acknowledged: no transfer of it waits, and no write to another node is unanswered. Those are counted for
its command as a whole (DEDUCED, log entry 16). -/
def Dev.quiet (d : Dev) (x : Engine) : Bool := x.pend.all (fun p => iClass p.w != 2) && (d.bufOf x.ctx).wrOut == 0

end Sys2Proof.Machine
end

