-- ==== Sys2Proof/Machine/Engines.lean ====
section
/-! DEFINITION. RUN_PROGRAM and the rows of tile programs (R239 to R253, R259 to R275, R574). -/

namespace Sys2Proof.Machine
open Sys2Proof

/-- The engine of a row exists. -/
def hasEng (e : Nat) (d : Dev) : Bool := decide (e < d.part.engines)

/-! RUN_PROGRAM (R249 to R252). -/

/-- Windows of a RUN_PROGRAM group: those of the image, with W6 and W7 as the command binds them. -/
def runWins (x : Ctx) (img : List Byte) : List Window :=
  ((List.range 6).map (imgWindow img)) ++
  [(if x.n 40 8 = 0 then {} else { kind := 3, base := x.n 40 8, len := x.n 48 4 } : Window),
   (if x.out = 0 then {} else { kind := 3, base := x.out, len := x.outLen, write := true } : Window)]

/-- Check 1 of R250. -/
def Dev.runArgsOk (d : Dev) (x : Ctx) : Bool :=
  let w := runWins x []
  x.cflagsOk && decide (x.n 32 1 < 16) && x.n 33 1 != 0 && decide (x.n 33 1 < 2 ^ d.part.perCore) && x.n 34 2 == 0 && x.zeroFrom 52 &&
  x.desc % 64 == 0 && d.mapped x.desc x.descLen &&
  d.winOk 0 (w.getD 6 {}) && d.winOk 0 (w.getD 7 {})

/-- Check 3 of R250. -/
def Dev.runImgOk (d : Dev) (x : Ctx) (core : Nat) (img : List Byte) : Bool :=
  let ws := runWins x img
  imgHeaderOk img x.descLen && (imgWindow img 6).kind == 0 && (imgWindow img 7).kind == 0 &&
  (ws.take 6).all (fun w => d.winOk core w) && progOk ws img

/-- The core a RUN_PROGRAM runs on: the one it names, or the next enabled one. -/
def Dev.runCore (d : Dev) (x : Ctx) : Option Nat := if (x.n 32 1).testBit 3 then d.nextCore else some (x.n 32 1 % 8)

/-- RUN_PROGRAM. -/
def runProgramOp (c : Nat) (d : Dev) : Dev :=
  if !d.canStart c 0x1A then d else
  match d.ctx? c with
  | none => d
  | some x =>
    if !d.runArgsOk x then d.finishSt c .invalidCmd
    else match d.runCore x with
      | none => d
      | some core =>
        GotV.after (d.need c x.desc x.descLen) (fun d st => d.finishSt c st) fun d img =>
          if !d.runImgOk x core img then d.finishSt c .invalidCmd
          else
            let d := (d.start c).setDeadline c (x.n 36 4)
            let d := if (x.n 32 1).testBit 3 then d.gaveCore core else d
            let g : Group := { ctx := c, cinc := x.cinc, core := core, mask := x.n 33 1, image := img, wins := runWins x img }
            (d.addGroup g).1.coreReserve core

def execRunProgram (ctx : Nat) (s : State) : Host.Outcome State Fault Refusal :=
  onUnit (fun _ => decide (ctx < 4096)) (runProgramOp ctx) s

/-- ENGINE_RESERVE (R251, R280 step 2). -/
def engineReserveOp (e : Nat) (d : Dev) : Dev := d.engReserve e
def execEngineReserve (eng : Nat) (s : State) : Host.Outcome State Fault Refusal := onUnit (hasEng eng) (engineReserveOp eng) s

/-- GROUP_END (R252). -/
def groupEndOp (g : Nat) (d : Dev) : Dev :=
  match d.group? g with
  | none => d
  | some x =>
    let es := (d.groupEngs x).map d.engine
    if x.run = 0 && x.running && es.all (fun y => y.ended) then
      let d1 := match d.ctx? x.ctx with
        | some c => d.finishOk x.ctx ((es.map (fun (y : Engine) => y.retired)).foldl (· + ·) 0)
            (sat 32 x.clks + sat 32 ((es.map (fun (y : Engine) => y.nans)).foldl (· + ·) 0) * 2 ^ 32) (d.sinceFetch c)
        | none => d
      d1.dropGroup g
    else d

def execGroupEnd (group : Nat) (s : State) : Host.Outcome State Fault Refusal := onDev (groupEndOp group) s

/-! CTRL and SCALAR. -/

/-- NOP. -/
def engNopOp (e : Nat) (d : Dev) : Dev :=
  match d.issue e with
  | some (_, w) => if iNop w then d.retire e 1 else d
  | none => d
def execEngNop (eng : Nat) (s : State) : Host.Outcome State Fault Refusal := onUnit (hasEng eng) (engNopOp eng) s

/-- END (R241, R248): it retires once every token is free. -/
def engEndOp (e : Nat) (d : Dev) : Dev :=
  match d.issue e with
  | some (x, w) =>
    if !iEnd w then d
    else if !x.tokens.isEmpty || !x.pend.isEmpty then d.stall e
    else
      let d := d.retire e 1 (fun y => { y with ended := true, idleFrom := d.aclk })
      let c := d.engCore e
      (List.range 8).foldl (fun d b =>
        let y := d.bar c b
        (d.setBar c b { y with ended := y.ended ||| 2 ^ d.engPos e }).barCheck x.group b) d
  | none => d
def execEngEnd (eng : Nat) (s : State) : Host.Outcome State Fault Refusal := onUnit (hasEng eng) (engEndOp eng) s

/-- LOOP (R244): the body that follows runs `count` times. -/
def engLoopOp (e : Nat) (d : Dev) : Dev :=
  match d.issue e with
  | some (x, w) =>
    if !iLoop w then d
    else
      let n := ifl w 63 48
      if n = 0 then d.retire e 1
      else
        let f : LoopFrame := { first := x.pc + 1, len := n, left := ifl w 47 32 - 1 }
        (d.updEngine e (fun y => { y with loops := f :: y.loops, pc := y.pc + 1, stalled := false, retired := y.retired + 1 })).bump (pgEng e) 0 2
  | none => d
def execEngLoop (eng : Nat) (s : State) : Host.Outcome State Fault Refusal := onUnit (hasEng eng) (engLoopOp eng) s

/-- Result of the SCALAR operation at place i. The direction of a shift is left open (log entry 18). -/
def scalarOp (i : Nat) (a b imm : Word) : Word :=
  match i with
  | 0 => a + b
  | 1 => a - b
  | 2 => a * b
  | 3 => a &&& b
  | 4 => a ||| b
  | 5 => a ^^^ b
  | 6 =>
    let k := b.toNat % 32
    match Config.free [0, 0x5C, 6] % 3 with
    | 0 => a <<< k
    | 1 => a >>> k
    | _ => a.sshiftRight k
  | _ => imm

/-- SCALAR (R244, R248). -/
def engScalarOp (e : Nat) (d : Dev) : Dev :=
  match d.issue e with
  | some (x, w) =>
    if iClass w != 1 then d
    else match opIndex w with
      | none => d
      | some i => d.retire e 1 (fun y => y.setX (ifl w 36 32) (scalarOp i (x.xr (ifl w 41 37)) (x.xr (ifl w 46 42)) (w32 (ifl w 95 64))))
  | none => d
def execEngScalar (eng : Nat) (s : State) : Host.Outcome State Fault Refusal := onUnit (hasEng eng) (engScalarOp eng) s

/-! Asynchronous classes. -/

/-- DMA: what the second word of the pair gives is the row's operands (log entry 5). -/
def engDmaOp (e len count srcStride dstStride : Nat) (d : Dev) : Dev :=
  match d.issue e with
  | some (x, w) =>
    if iClass w != 2 then d
    else d.issueAsync e 2 x { w := w, src := ifl w 95 64 + (x.xr (ifl w 43 39)).toNat, dst := ifl w 127 96 + (x.xr (ifl w 48 44)).toNat,
                              len := len, count := count, srcStride := srcStride, dstStride := dstStride }
  | none => d
def execEngDma (eng len count srcStride dstStride : Nat) (s : State) : Host.Outcome State Fault Refusal :=
  onUnit (hasEng eng) (engDmaOp eng len count srcStride dstStride) s

/-- An asynchronous instruction of one slot. -/
def Dev.asyncOne (d : Dev) (e : Nat) (is : BitVec 128 → Bool) : Dev :=
  match d.issue e with
  | some (x, w) => if is w then d.issueAsync e 1 x { w := w } else d
  | none => d

/-- WLOAD (R225). -/
def engWloadOp (e : Nat) (d : Dev) : Dev := d.asyncOne e (fun w => iClass w == 3)
def execEngWload (eng : Nat) (s : State) : Host.Outcome State Fault Refusal := onUnit (hasEng eng) (engWloadOp eng) s
/-- MMA (R227). -/
def engMmaOp (e : Nat) (d : Dev) : Dev := d.asyncOne e (fun w => iClass w == 4)
def execEngMma (eng : Nat) (s : State) : Host.Outcome State Fault Refusal := onUnit (hasEng eng) (engMmaOp eng) s
/-- QROW (R259). -/
def engQrowOp (e : Nat) (d : Dev) : Dev := d.asyncOne e (fun w => isOp w 6 0)
def execEngQrow (eng : Nat) (s : State) : Host.Outcome State Fault Refusal := onUnit (hasEng eng) (engQrowOp eng) s
/-- STEP (R271). -/
def engStepOp (e : Nat) (d : Dev) : Dev := d.asyncOne e (fun w => isOp w 6 1)
def execEngStep (eng : Nat) (s : State) : Host.Outcome State Fault Refusal := onUnit (hasEng eng) (engStepOp eng) s
/-- MERGE (R272). -/
def engMergeOp (e : Nat) (d : Dev) : Dev := d.asyncOne e (fun w => isOp w 6 2)
def execEngMerge (eng : Nat) (s : State) : Host.Outcome State Fault Refusal := onUnit (hasEng eng) (engMergeOp eng) s
/-- SAVE (R270). -/
def engSaveOp (e : Nat) (d : Dev) : Dev := d.asyncOne e (fun w => isOp w 6 3)
def execEngSave (eng : Nat) (s : State) : Host.Outcome State Fault Refusal := onUnit (hasEng eng) (engSaveOp eng) s
/-- LOAD (R273). -/
def engLoadOp (e : Nat) (d : Dev) : Dev := d.asyncOne e (fun w => isOp w 6 4)
def execEngLoad (eng : Nat) (s : State) : Host.Outcome State Fault Refusal := onUnit (hasEng eng) (engLoadOp eng) s

/-- TOKEN_RETIRE (R246): units perform what they can; the token is free once its instruction's work is complete. -/
def tokenRetireOp (e t : Nat) (d : Dev) : Dev :=
  let d := d.drive e
  let x := d.engine e
  if x.pend.any (fun p => p.tok == some t) then d else d.updEngine e (fun y => { y with tokens := delNat y.tokens t })
def execTokenRetire (eng token : Nat) (s : State) : Host.Outcome State Fault Refusal :=
  onUnit (fun d => hasEng eng d && decide (token < 16)) (tokenRetireOp eng token) s

/-! The vector unit (R231, R233). -/

/-- Elements of a vector load or store, in bytes. -/
def vecLen (f : Nat) : Nat := 512 * eltBits f / 8

/-- A lane of the operations on registers. Compare, select and the choice of a select are named by the spec without their encoding, and
are left open, as the smaller and the larger of two values are where one is NaN (log entry 18). -/
def vecLane (seed : List Nat) (i f : Nat) (a b c : Word) : Word :=
  match i with
  | 0 => fAdd a b
  | 1 => fSub a b
  | 2 => fMul a b
  | 3 => fFma a b c
  | 4 => vMin (seed ++ [4]) a b
  | 5 => vMax (seed ++ [5]) a b
  | 6 => w32 (Config.free [0, 0x5D, 6, a.toNat, b.toNat])
  | 7 => if Config.free [0, 0x5D, 7, c.toNat] % 2 = 0 then a else b
  | 8 => ftz (word32 (eltVal f (eltEnc f (val32 (ftz a)))))
  | 9 => fExp (seed ++ [9]) false a
  | 10 => fExp (seed ++ [10]) true a
  | 11 => fRecip (seed ++ [11]) a
  | 12 => fRsqrt (seed ++ [12]) a
  | 18 => word32 (.ofInt (popNat 32 (a ^^^ b).toNat))
  | _ => w32 (Config.free [0, 0x5D, 19, b2n (serialAfter 32 b.toNat a.toNat)])

/-- A reduction of one register to one value, in lane 0; what the other lanes hold is left open. -/
def vecReduce (seed : List Nat) (i : Nat) (a : List Word) : List Word :=
  let v := if i = 13 then fSum (seed ++ [13]) a
    else if a.any (fun w => (val32 w).isNan) then w32 (Config.free (seed ++ [21]))
    else if i = 14 then a.foldl fMax (a.headD 0) else a.foldl fMin (a.headD 0)
  v :: (List.range 511).map (fun j => w32 (Config.free (seed ++ [20, j])))

/-- NaN lanes of an arithmetic result. -/
def nanLanes (l : List Word) : Nat := (l.filter (fun w => (val32 w).isNan)).length

/-- Write a V register, counting NaN results of arithmetic (R253, R256). -/
def Dev.vecPut (d : Dev) (e v : Nat) (l : List Word) (arith : Bool) : Dev :=
  let n := if arith then nanLanes l else 0
  (d.retire e 1 (fun y => { (y.setV v l) with nans := y.nans + n })).bump (pgEng e) 0 5 n

/-- The VEC operation at place i. -/
def Dev.vecDo (d : Dev) (e : Nat) (x : Engine) (w : BitVec 128) (i : Nat) : Dev :=
  let seed := [d.draws, 3]
  let f := ifl w 55 52
  let off := ifl w 95 64
  let a := x.vr (ifl w 41 37)
  let b := x.vr (ifl w 46 42)
  let c := x.vr (ifl w 51 47)
  let fail := fun (d : Dev) st => d.groupStop x.group st
  let d := d.drawn
  match i with
  | 16 =>
    GotV.after (d.sramRead e off (32 * eltBits f)) fail fun d t =>
      d.vecPut e (ifl w 36 32) (a.map (fun k => ftz (word32 (eltVal f (eltCode f t (k.toNat % 256)))))) false
  | 17 => d.vecPut e (ifl w 36 32) (a.map (fun k => b.getD (k.toNat % 16) 0)) false
  | 20 => GotV.after (d.sramRead e off (vecLen f)) fail fun d t => d.vecPut e (ifl w 36 32) (eltWords f 512 t) false
  | 21 => (d.sramWrite e off (packElts f (a.map (fun v => eltEnc f (val32 v))))).retire e 1
  | _ =>
    if 13 ≤ i && i ≤ 15 then d.vecPut e (ifl w 36 32) (vecReduce seed i a) true
    else
      let l := (List.range 512).map (fun k => vecLane (seed ++ [k]) i f (a.getD k 0) (b.getD k 0) (c.getD k 0))
      d.vecPut e (ifl w 36 32) l (decide (i ≤ 5) || (decide (8 ≤ i) && decide (i ≤ 12)))

/-- VEC (R233, R244). -/
def engVecOp (e : Nat) (d : Dev) : Dev :=
  match d.issue e with
  | some (x, w) =>
    if iClass w != 5 then d
    else match opIndex w with
      | some i => d.vecDo e x w i
      | none => d
  | none => d
def execEngVec (eng : Nat) (s : State) : Host.Outcome State Fault Refusal := onUnit (hasEng eng) (engVecOp eng) s

/-! SYNC (R239 to R241, R246, R247). -/

/-- Join barrier b's arrival set (R240, R241). -/
def Dev.arrive (d : Dev) (e g b : Nat) : Dev :=
  let c := d.engCore e
  let p := d.engPos e
  let y := d.bar c b
  if y.arrived.testBit p then d.bump (pgCore c) 0 3
  else
    let d := d.updEngine e (fun x => { x with arrivedIn := Tab.set x.arrivedIn b y.gen })
    (d.setBar c b { y with arrived := y.arrived ||| 2 ^ p }).barCheck g b

/-- The engine must still wait at barrier b: it has arrived, and the generation it arrived in has not ended. -/
def Dev.barWaits (d : Dev) (e b : Nat) : Bool := (d.bar (d.engCore e) b).arrived.testBit (d.engPos e)

/-- BAR_ARRIVE. -/
def engBarArriveOp (e : Nat) (d : Dev) : Dev :=
  match d.issue e with
  | some (x, w) =>
    if !isOp w 7 0 then d
    else if !d.quiet x then d.stall e
    else (d.arrive e x.group (ifl w 35 32)).retire e 1
  | none => d
def execEngBarArrive (eng : Nat) (s : State) : Host.Outcome State Fault Refusal := onUnit (hasEng eng) (engBarArriveOp eng) s

/-- BAR_WAIT. -/
def engBarWaitOp (e : Nat) (d : Dev) : Dev :=
  match d.issue e with
  | some (_, w) =>
    if !isOp w 7 1 then d
    else if d.barWaits e (ifl w 35 32) then d.stall e
    else d.retire e 1
  | none => d
def execEngBarWait (eng : Nat) (s : State) : Host.Outcome State Fault Refusal := onUnit (hasEng eng) (engBarWaitOp eng) s

/-- BAR_SYNC: the arrival, then the wait. -/
def engBarSyncOp (e : Nat) (d : Dev) : Dev :=
  match d.issue e with
  | some (x, w) =>
    let b := ifl w 35 32
    if !isOp w 7 2 then d
    else if x.syncing then (if d.barWaits e b then d.stall e else d.retire e 1)
    else if !d.quiet x then d.stall e
    else
      let d := d.arrive e x.group b
      if d.barWaits e b then (d.updEngine e (fun y => { y with syncing := true })).stall e else d.retire e 1
  | none => d
def execEngBarSync (eng : Nat) (s : State) : Host.Outcome State Fault Refusal := onUnit (hasEng eng) (engBarSyncOp eng) s

/-- WAIT: every token of the mask is free. -/
def engWaitOp (e : Nat) (d : Dev) : Dev :=
  match d.issue e with
  | some (x, w) =>
    if !isOp w 7 3 then d
    else if x.tokens.any (fun t => (ifl w 47 32).testBit t) then d.stall e
    else d.retire e 1
  | none => d
def execEngWait (eng : Nat) (s : State) : Host.Outcome State Fault Refusal := onUnit (hasEng eng) (engWaitOp eng) s

/-- FENCE: every earlier write of the engine to core SRAM and memory windows is visible. -/
def engFenceOp (e : Nat) (d : Dev) : Dev :=
  match d.issue e with
  | some (x, w) =>
    if !isOp w 7 4 then d
    else if !d.quiet x then d.stall e
    else d.retire e 1
  | none => d
def execEngFence (eng : Nat) (s : State) : Host.Outcome State Fault Refusal := onUnit (hasEng eng) (engFenceOp eng) s

/-! Waking the array (R574). -/

/-- W_PER_10US and RESERVE of PWR_RAMP, each read as the nearest bound of its range (R583). -/
def Dev.rampW (d : Dev) : Nat := min (max (d.fd R.pwrRamp 8 0) 50) 250
def Dev.rampReserve (d : Dev) : Nat := min (max (d.fd R.pwrRamp 23 16) 10) (d.rampW - 10)
/-- mW by which the envelope may rise in a µs (R573). -/
def Dev.rampPerUs (d : Dev) : Nat := (d.rampW - d.rampReserve) * 1000 / 10

/-- mW that an engine whose wake ends at `awake` has been given by time `t`: a quarter at each of its four steps. -/
def wakePower (awake t : Nat) : Nat := 23100 * min 4 ((t + usCycles 2 - awake) / 800) / 4

/-- Engines whose wake the last estimate does not yet hold. -/
def Dev.wakes (d : Dev) : List Nat :=
  (Tab.vals d.eng.eng).filterMap (fun (x : Engine) => if d.now < x.awakeAt + 800 then some x.awakeAt else none)

/-- The envelope has room for the four steps of a wake at the times they fall due. -/
def Dev.wakeRoom (d : Dev) : Bool :=
  (List.range 4).all (fun k =>
    let t := d.now + 800 * (k + 1)
    let busy := (d.wakes.map (fun a => wakePower a t)).foldl (· + ·) d.pwr.est
    decide (busy + 23100 * (k + 1) / 4 ≤ d.pwr.env + d.rampPerUs * (k + 1) / 2))

/-- ENGINE_WAKE: an engine whose array clock is gated and needed starts its four-step wake, which takes 2 µs. -/
def engineWakeOp (e : Nat) (d : Dev) : Dev :=
  let x := d.engine e
  if x.gated && x.pend.any (fun p => unitOf p.w == 4) && d.wakeRoom then
    d.updEngine e (fun y => { y with gated := false, awakeAt := d.now + usCycles 2 })
  else d
def execEngineWake (eng : Nat) (s : State) : Host.Outcome State Fault Refusal := onUnit (hasEng eng) (engineWakeOp eng) s

end Sys2Proof.Machine
end

