-- ==== Sys2Proof/Machine/Links.lean ====
section
/-! DEFINITION. Link rows: lasers, training, flits, retry, credits (R409 to R424, R434, R435). -/

namespace Sys2Proof.Machine
open Sys2Proof

/-- A 16-bit two's complement number, shifted so that unsigned order is its order. -/
def s16key (v : Nat) : Nat := (v + 32768) % 65536

/-- Ports DOWN, each then training again if nothing forbids it. -/
def Dev.portsDown (d : Dev) (l : List Nat) : Dev := l.foldl (fun d p => d.portDown p) d
def Dev.portsTrain (d : Dev) (l : List Nat) : Dev := l.foldl (fun d p => d.trainCheck p) d

/-- Input j of tile b reads below LOW_CDBM. -/
def Dev.laserBelow (d : Dev) (b power : Nat) : Bool :=
  decide (s16key power < s16key (d.fd R.bklLaserLim 15 0 b))

/-- LASER_LOW: the input sets LOW and INT_STAT.LASER_LOW, and takes the ports it lights DOWN (R413). -/
def laserLowOp (b j power : Nat) (d : Dev) : Dev :=
  if d.laserBelow b power then
    let was := fbit (d.rg (R.bklLaser j) b) 16
    let d1 := d.setRg (R.bklLaser j) (w32 (power % 65536 + 65536)) b
    if was then d1 else
    let d2 := ((d1.setInt (0x1E0 + b) 0).bump (0x1E0 + b) 0 j)
    let d3 := { d2 with fab := { d2.fab with laserGood := delNat d2.fab.laserGood (4 * b + j) } }
    d3.portsDown (d3.portsLit b j)
  else d

/-- LASER_RECOVERED: at or above the threshold for 1 ms, its ports may train (R413). -/
def laserRecoveredOp (b j power : Nat) (d : Dev) : Dev :=
  if d.laserBelow b power then d
  else
    let d1 := d.setRg (R.bklLaser j) (w32 (power % 65536)) b
    let d2 := { d1 with fab := { d1.fab with laserGood := insNat d1.fab.laserGood (4 * b + j) } }
    d2.portsTrain (d2.portsLit b j)

def execLaserLow (tile input power : Nat) (s : State) : Host.Outcome State Fault Refusal :=
  onUnit (fun _ => decide (tile < 4) && decide (input < 4)) (laserLowOp tile input power) s

def execLaserRecovered (tile input power : Nat) (s : State) : Host.Outcome State Fault Refusal :=
  onUnit (fun _ => decide (tile < 4) && decide (input < 4)) (laserRecoveredOp tile input power) s

/-- LINK_UP: every lane of a training port has trained; the link starts from nothing, with the peer's allocation (R411, R422). -/
def linkUpOp (p rtt : Nat) (alloc : List Nat) (d : Dev) : Dev :=
  if (d.port p).st == .training then
    let peer := (List.range 8).map (fun v => (v, alloc.getD v 0 % 65536))
    (d.setPort p { st := .up, rttNs := sat 16 rtt, peerAlloc := peer }).setInt (pgLink p) 0
  else d

def execLinkUp (port rttNs : Nat) (alloc : List Nat) (s : State) : Host.Outcome State Fault Refusal :=
  onUnit (fun d => decide (port < d.ports)) (linkUpOp port rttNs alloc) s

/-- TRAINING_FAILED: the third attempt without success reads FAILED (R434). A retrain that fails goes DOWN (R420). -/
def trainingFailedOp (p : Nat) (d : Dev) : Dev :=
  let x := d.port p
  if x.st == .training then
    if 3 ≤ x.attempts + 1 then d.setPort p { x with st := .failed, attempts := x.attempts + 1 }
    else d.setPort p { x with attempts := x.attempts + 1 }
  else if x.st == .retrain then (d.portDown p).trainCheck p
  else d

def execTrainingFailed (port : Nat) (s : State) : Host.Outcome State Fault Refusal :=
  onUnit (fun d => decide (port < d.ports)) (trainingFailedOp port) s

/-- LINK_DOWN: a link goes DOWN and loses its state and messages in flight (R411, R420); it then trains again. -/
def linkDownOp (p : Nat) (d : Dev) : Dev :=
  if (d.port p).st == .up || (d.port p).st == .retrain || (d.port p).st == .training then (d.portDown p).trainCheck p else d

def execLinkDown (port : Nat) (s : State) : Host.Outcome State Fault Refusal :=
  onUnit (fun d => decide (port < d.ports)) (linkDownOp port) s

/-- Send a RETRY_REQ for the expected SEQ, unless one is outstanding (R418). -/
def Dev.askRetry (d : Dev) (p : Nat) : Dev :=
  let x := d.port p
  match x.retry with
  | some _ => d
  | none => (d.setPort p { x with retry := some (1, d.now) }).bump (pgLink p) 0 3

/-- RETRAIN: the retrain succeeds; numbers, replay buffers and credits are kept, and the port asks for its next SEQ (R420). -/
def retrainOp (p : Nat) (d : Dev) : Dev :=
  let x := d.port p
  if x.st == .retrain then (d.setPort p { x with st := .up, retry := none }).askRetry p else d

def execRetrain (port : Nat) (s : State) : Host.Outcome State Fault Refusal :=
  onUnit (fun d => decide (port < d.ports)) (retrainOp port) s

/-- A RETRY_REQ received: a replay from the named SEQ (R419). Naming the next SEQ to send asks for nothing. -/
def retryReqOp (p seq : Nat) (d : Dev) : Dev :=
  let x := d.port p
  if x.st != .up then d else
  let d1 := d.bump (pgLink p) 0 4
  if seq % 65536 = x.txNext then d1
  else if x.replay.any (fun e => e.1 == seq % 65536) then
    d1.bump (pgLink p) 0 5 ((x.replay.dropWhile (fun e => e.1 != seq % 65536)).length)
  else d1.linkError p

def execRetryReq (port seq : Nat) (s : State) : Host.Outcome State Fault Refusal :=
  onUnit (fun d => decide (port < d.ports)) (retryReqOp port seq) s

/-- LNK_CFG.RETRY_MAX: 0 is read as 1. -/
def Dev.retryMax (d : Dev) (p : Nat) : Nat := max (d.fd R.lnkCfg 11 8 p) 1

/-- RETRY_REQ_RESEND: after RTT + 1 µs without the expected SEQ, once more, or RETRAIN after RETRY_MAX sends (R418). -/
def retryResendOp (p : Nat) (d : Dev) : Dev :=
  let x := d.port p
  match x.retry with
  | none => d
  | some (n, t) =>
    if x.st == .up && decide (t * 10 + x.rttNs * 16 + 16000 ≤ d.now * 10) then
      if d.retryMax p ≤ n then d.portRetrain p
      else (d.setPort p { x with retry := some (n + 1, d.now) }).bump (pgLink p) 0 3
    else d

def execRetryReqResend (port : Nat) (s : State) : Host.Outcome State Fault Refusal :=
  onUnit (fun d => decide (port < d.ports)) (retryResendOp port) s

/-- CREDIT_STALL: a message has waited STALL_US for credits (R423); the link stays up. -/
def creditStallOp (p vc : Nat) (d : Dev) : Dev :=
  match Tab.find? (d.port p).stalled vc with
  | some t =>
    if decide (t + usCycles (max (d.fd R.lnkCfg 31 16 p) 1) ≤ d.now) then d.setInt (pgLink p) 3 else d
  | none => d

def execCreditStall (port vc : Nat) (s : State) : Host.Outcome State Fault Refusal :=
  onUnit (fun d => decide (port < d.ports) && decide (vc < 8)) (creditStallOp port vc) s

/-- Apply one credit field (R422, R423): false when it would give more than the peer allocated. -/
def Port.credit (x : Port) (valid : Bool) (v total : Nat) : Port × Bool :=
  if !valid then (x, true)
  else
    let old := Tab.getD x.freed v 0
    let new := old + (total + 65536 - old % 65536) % 65536
    if Tab.getD x.sent v 0 < new then (x, false)
    else ({ x with freed := Tab.set x.freed v new }, true)

/-- A reserved message type (R428, R442). -/
def knownMsg (m : Nat) : Bool :=
  [0x01, 0x02, 0x03, 0x10, 0x40, 0x41, 0x42, 0x43, 0x44, 0x48, 0x49, 0x50, 0x51, 0x58, 0x59, 0x5A, 0x5B,
   0x60, 0x61, 0x62, 0x63, 0x64, 0x65, 0x68, 0x69, 0x81, 0x82, 0x83, 0xFF].contains m

/-- A whole message has arrived: kept for its own command, or refused for a reserved MSG (R428). Of the Latigo values, those below 0x58 stand
among the requests and snoops, the others among the answers and completions of R442 (DEDUCED, log entry 62). -/
def Dev.arrived (d : Dev) (m : Msg) : Dev :=
  if knownMsg m.msg then { d with fab := { d.fab with tp := { d.fab.tp with inbox := d.fab.tp.inbox ++ [m] } } }
  else if m.msg < 0x58 then d.nack m 7
  else d.bump pgBuckle 1 8

/-- An accepted DATA flit (R418): payload into its message, which is delivered at EOM and frees its credits. -/
def Dev.takeData (d : Dev) (p vc : Nat) (som eom : Bool) (pay : List Byte) : Dev :=
  let x := d.port p
  let body := (if som then [] else Tab.getD x.asm vc []) ++ pay
  let x1 := { x with rxExpect := (x.rxExpect + 1) % 65536, retry := none }
  if eom then
    let n := ceilDiv body.length 236
    ((d.setPort p { x1 with asm := Tab.del x1.asm vc, rxFreed := Tab.upd x1.rxFreed vc 0 (· + n) }).bump (pgLink p) 0 1).arrived (msgOf vc body)
  else (d.setPort p { x1 with asm := Tab.set x1.asm vc body }).bump (pgLink p) 0 1

/-- A flit is well formed (R416). -/
def flitGood (b : List Byte) : Bool :=
  let h := leAt b 0 8
  let typ := bits h 3 0
  let len := bits h 63 56
  b.length == 256 && crc32c (b.take 252) == leAt b 252 4 && decide (typ ≤ 2) &&
  (if typ = 1 then decide (1 ≤ len) && decide (len ≤ 236) else len == 0)

/-- FLIT_RECEIVE: a flit is checked, its acknowledgement and credits applied, and its data accepted in sequence (R414 to R419, R422, R423). -/
def flitReceiveOp (p : Nat) (f : Flit) (d : Dev) : Dev :=
  let x := d.port p
  let d := (d.bump (pgLink p) 0 7 f.fecFixed).bump (pgLink p) 0 8 f.fecLost
  if x.st != .up then d
  else if f.markerMisplaced then d.portRetrain p
  else if !flitGood f.bytes then (d.bump (pgLink p) 0 2).askRetry p
  else
    let h := leAt f.bytes 0 8
    let c := leAt f.bytes 8 8
    let typ := bits h 3 0
    let resv := bits h 15 9 + bits h 55 49 + bits c 63 40
    let d := if resv = 0 then d else d.bump (pgLink p) 0 10
    let ack := bits h 47 32
    if h.testBit 48 && serialAfter 16 ack ((x.txNext + 65535) % 65536) then d.linkError p
    else
      let x1 := if h.testBit 48 then { x with replay := x.replay.filter (fun e => serialAfter 16 e.1 ack) } else x
      let (x2, ok1) := x1.credit (c.testBit 3) (bits c 2 0) (bits c 19 4)
      let (x3, ok2) := x2.credit (c.testBit 23) (bits c 22 20) (bits c 39 24)
      if !ok1 || !ok2 then d.linkError p
      else
        let d := d.setPort p x3
        if typ = 2 then retryReqOp p (bits h 31 16) d
        else if typ = 1 then
          let seq := bits h 31 16
          if seq = x3.rxExpect then d.takeData p (bits h 6 4) (h.testBit 7) (h.testBit 8) (slice f.bytes 16 (bits h 63 56))
          else if serialAfter 16 seq x3.rxExpect then d.askRetry p
          else d
        else d

def execFlitReceive (port : Nat) (flit : Flit) (s : State) : Host.Outcome State Fault Refusal :=
  onUnit (fun d => decide (port < d.ports)) (flitReceiveOp port flit) s

end Sys2Proof.Machine
end

