-- ==== Sys2Proof/Machine/Crypto.lean ====
section
/-! DEFINITION. SHA-512 (FIPS 180-4) and Ed25519 (RFC 8032), the algorithms the boot and attestation rules name (R524, R532 to R534). -/

namespace Sys2Proof

/-! SHA-512. -/

/-- Round constants. -/
def shaK : List (BitVec 64) :=
  [0x428a2f98d728ae22, 0x7137449123ef65cd, 0xb5c0fbcfec4d3b2f, 0xe9b5dba58189dbbc, 0x3956c25bf348b538] ++
  [0x59f111f1b605d019, 0x923f82a4af194f9b, 0xab1c5ed5da6d8118, 0xd807aa98a3030242, 0x12835b0145706fbe] ++
  [0x243185be4ee4b28c, 0x550c7dc3d5ffb4e2, 0x72be5d74f27b896f, 0x80deb1fe3b1696b1, 0x9bdc06a725c71235] ++
  [0xc19bf174cf692694, 0xe49b69c19ef14ad2, 0xefbe4786384f25e3, 0x0fc19dc68b8cd5b5, 0x240ca1cc77ac9c65] ++
  [0x2de92c6f592b0275, 0x4a7484aa6ea6e483, 0x5cb0a9dcbd41fbd4, 0x76f988da831153b5, 0x983e5152ee66dfab] ++
  [0xa831c66d2db43210, 0xb00327c898fb213f, 0xbf597fc7beef0ee4, 0xc6e00bf33da88fc2, 0xd5a79147930aa725] ++
  [0x06ca6351e003826f, 0x142929670a0e6e70, 0x27b70a8546d22ffc, 0x2e1b21385c26c926, 0x4d2c6dfc5ac42aed] ++
  [0x53380d139d95b3df, 0x650a73548baf63de, 0x766a0abb3c77b2a8, 0x81c2c92e47edaee6, 0x92722c851482353b] ++
  [0xa2bfe8a14cf10364, 0xa81a664bbc423001, 0xc24b8b70d0f89791, 0xc76c51a30654be30, 0xd192e819d6ef5218] ++
  [0xd69906245565a910, 0xf40e35855771202a, 0x106aa07032bbd1b8, 0x19a4c116b8d2d0c8, 0x1e376c085141ab53] ++
  [0x2748774cdf8eeb99, 0x34b0bcb5e19b48a8, 0x391c0cb3c5c95a63, 0x4ed8aa4ae3418acb, 0x5b9cca4f7763e373] ++
  [0x682e6ff3d6b2b8a3, 0x748f82ee5defb2fc, 0x78a5636f43172f60, 0x84c87814a1f0ab72, 0x8cc702081a6439ec] ++
  [0x90befffa23631e28, 0xa4506cebde82bde9, 0xbef9a3f7b2c67915, 0xc67178f2e372532b, 0xca273eceea26619c] ++
  [0xd186b8c721c0c207, 0xeada7dd6cde0eb1e, 0xf57d4f7fee6ed178, 0x06f067aa72176fba, 0x0a637dc5a2c898a6] ++
  [0x113f9804bef90dae, 0x1b710b35131c471b, 0x28db77f523047d84, 0x32caab7b40c72493, 0x3c9ebe0a15c9bebc] ++
  [0x431d67c49c100d4c, 0x4cc5d4becb3e42b6, 0x597f299cfc657e2a, 0x5fcb6fab3ad6faec, 0x6c44198c4a475817]

/-- Initial hash value. -/
def shaH : List (BitVec 64) :=
  [0x6a09e667f3bcc908, 0xbb67ae8584caa73b, 0x3c6ef372fe94f82b, 0xa54ff53a5f1d36f1] ++
  [0x510e527fade682d1, 0x9b05688c2b3e6c1f, 0x1f83d9abfb41bd6b, 0x5be0cd19137e2179]

/-- Big-endian value of a byte string, and the n bytes of a number, highest first. -/
def beNat (l : List Byte) : Nat := l.foldl (fun a b => a * 256 + b.toNat) 0
def natBe (n v : Nat) : List Byte := (natLe n v).reverse

def shaS0 (x : BitVec 64) : BitVec 64 := x.rotateRight 1 ^^^ x.rotateRight 8 ^^^ (x >>> 7)
def shaS1 (x : BitVec 64) : BitVec 64 := x.rotateRight 19 ^^^ x.rotateRight 61 ^^^ (x >>> 6)
def shaB0 (x : BitVec 64) : BitVec 64 := x.rotateRight 28 ^^^ x.rotateRight 34 ^^^ x.rotateRight 39
def shaB1 (x : BitVec 64) : BitVec 64 := x.rotateRight 14 ^^^ x.rotateRight 18 ^^^ x.rotateRight 41

/-- Message schedule, last word first: 16 words read from the block, then `n` more. -/
def shaSched : Nat → List (BitVec 64) → List (BitVec 64)
  | 0, l => l
  | n + 1, l =>
    let g := fun i => l.getD i 0
    shaSched n ((shaS1 (g 1) + g 6 + shaS0 (g 14) + g 15) :: l)

/-- One round on the eight working variables. -/
def shaRound (v : List (BitVec 64)) (kw : BitVec 64 × BitVec 64) : List (BitVec 64) :=
  let g := fun i => v.getD i 0
  let ch := (g 4 &&& g 5) ^^^ ((~~~ (g 4)) &&& g 6)
  let maj := (g 0 &&& g 1) ^^^ (g 0 &&& g 2) ^^^ (g 1 &&& g 2)
  let t1 := g 7 + shaB1 (g 4) + ch + kw.1 + kw.2
  let t2 := shaB0 (g 0) + maj
  [t1 + t2, g 0, g 1, g 2, g 3 + t1, g 4, g 5, g 6]

/-- One block of 128 bytes. -/
def shaBlock (h : List (BitVec 64)) (b : List Byte) : List (BitVec 64) :=
  let w0 := (List.range 16).map (fun i => BitVec.ofNat 64 (beNat (slice b (8 * i) 8)))
  let w := (shaSched 64 w0.reverse).reverse
  List.zipWith (· + ·) h ((shaK.zip w).foldl shaRound h)

/-- All the blocks of a padded message. -/
def shaGo : Nat → List (BitVec 64) → List Byte → List (BitVec 64)
  | 0, h, _ => h
  | n + 1, h, b => shaGo n (shaBlock h (b.take 128)) (b.drop 128)

/-- SHA-512 of a byte string: 64 bytes. -/
def sha512 (m : List Byte) : List Byte :=
  let z := (256 - (m.length + 17) % 128) % 128
  let p := m ++ [0x80] ++ List.replicate z 0 ++ natBe 16 (8 * m.length)
  ((shaGo (p.length / 128) shaH p).map (fun x => natBe 8 x.toNat)).flatten

/-! Ed25519. -/

def edP : Nat := 2 ^ 255 - 19
def edL : Nat := 2 ^ 252 + 27742317777372353535851937790883648493

/-- b^e mod p, over the `n` low bits of e. -/
def edPowGo : Nat → Nat → Nat → Nat → Nat
  | 0, _, _, acc => acc
  | n + 1, b, e, acc => edPowGo n (b * b % edP) (e / 2) (if e % 2 = 1 then acc * b % edP else acc)
def edPow (b e : Nat) : Nat := edPowGo 256 (b % edP) e 1
def edInv (x : Nat) : Nat := edPow x (edP - 2)
def edSub (a b : Nat) : Nat := (a + edP - b % edP) % edP
def edD : Nat := edSub 0 (121665 * edInv 121666)

/-- A point in extended coordinates. -/
structure EdPoint where
  x : Nat
  y : Nat
  z : Nat
  t : Nat
deriving DecidableEq, Repr

def edZero : EdPoint := { x := 0, y := 1, z := 1, t := 0 }

/-- Point addition of RFC 8032, section 5.1.4. -/
def edAdd (p q : EdPoint) : EdPoint :=
  let a := edSub p.y p.x * edSub q.y q.x % edP
  let b := (p.y + p.x) * (q.y + q.x) % edP
  let c := 2 * p.t * q.t * edD % edP
  let d := 2 * p.z * q.z % edP
  let e := edSub b a
  let f := edSub d c
  let g := (d + c) % edP
  let h := (b + a) % edP
  { x := e * f % edP, y := g * h % edP, z := f * g % edP, t := e * h % edP }

/-- s times a point, over the `n` low bits of s. -/
def edMulGo : Nat → Nat → EdPoint → EdPoint → EdPoint
  | 0, _, _, acc => acc
  | n + 1, s, p, acc => edMulGo n (s / 2) (edAdd p p) (if s % 2 = 1 then edAdd acc p else acc)
def edMul (s : Nat) (p : EdPoint) : EdPoint := edMulGo 256 s p edZero

/-- A point from its 32 bytes, which must be canonical. -/
def edDecode (b : List Byte) : Option EdPoint :=
  let v := leNat b
  let y := v % 2 ^ 255
  let sign := v / 2 ^ 255 % 2
  if edP ≤ y then none
  else
    let x2 := edSub (y * y) 1 * edInv (edD * (y * y) + 1) % edP
    let r := edPow x2 ((edP + 3) / 8)
    let r := if r * r % edP = x2 then r else r * edPow 2 ((edP - 1) / 4) % edP
    if r * r % edP != x2 then none
    else if r = 0 && sign = 1 then none
    else
      let x := if r % 2 = sign then r else edP - r
      some { x := x, y := y, z := 1, t := x * y % edP }

/-- The 32 bytes of a point. -/
def edEncode (p : EdPoint) : List Byte :=
  let i := edInv p.z
  natLe 32 (p.y * i % edP + (p.x * i % edP) % 2 * 2 ^ 255)

/-- The base point. -/
def edB : EdPoint := (edDecode (natLe 32 (4 * edInv 5 % edP))).getD edZero

/-- A clamped scalar. -/
def edClamp (h : List Byte) : Nat := leNat (h.take 32) % 2 ^ 254 / 8 * 8 + 2 ^ 254
/-- Public key of a 32-byte seed. -/
def edPublic (seed : List Byte) : List Byte := edEncode (edMul (edClamp (sha512 seed)) edB)
/-- Signature of a message under a seed. -/
def edSign (seed m : List Byte) : List Byte :=
  let h := sha512 seed
  let a := edClamp h
  let r := leNat (sha512 (h.drop 32 ++ m)) % edL
  let rb := edEncode (edMul r edB)
  let k := leNat (sha512 (rb ++ edPublic seed ++ m)) % edL
  rb ++ natLe 32 ((r + k * a) % edL)

/-- The cofactorless equation of R524: S below the group order, every encoding canonical, and S·B − k·A encodes as R. -/
def edVerify (pub m sig : List Byte) : Bool :=
  let s := leNat (sig.drop 32)
  match edDecode pub with
  | none => false
  | some a =>
    let k := leNat (sha512 (sig.take 32 ++ pub ++ m)) % edL
    let na : EdPoint := { x := edSub 0 a.x, y := a.y, z := 1, t := edSub 0 a.t }
    decide (sig.length = 64) && decide (pub.length = 32) && decide (s < edL) &&
    edEncode (edAdd (edMul s edB) (edMul k na)) == sig.take 32

end Sys2Proof
end

