-- ==== Sys2Proof/Machine/Brand.lean ====
section
/-! DEFINITION. Brand: fuses, identity, measurement, its operations, the control cores' release, and the boot ROM (R517 to R536). -/

namespace Sys2Proof.Machine
open Sys2Proof

/-- A command that reads the fuses. -/
def onFuses (f : Fuses → Dev → Dev) (s : State) : Host.Outcome State Fault Refusal := .next { s with dev := f s.fuses s.dev }

/-! Fuses and identity (R521, R531, R532). -/

def Fuses.key (fu : Fuses) (k : Nat) : List Byte := Tab.getD fu.keys k (List.replicate 64 0)
/-- The slot is not blank. -/
def Fuses.programmed (fu : Fuses) (k : Nat) : Bool := (fu.key k).any (fun b => b != 0)
/-- The slot can verify an image. -/
def Fuses.good (fu : Fuses) (k : Nat) : Bool := decide (k < 4) && fu.programmed k && !fu.revoked.contains k
def Fuses.revBits (fu : Fuses) : Nat := ((List.range 4).map (fun k => if fu.revoked.contains k then 2 ^ k else 0)).foldl (· + ·) 0
def Fuses.progBits (fu : Fuses) : Nat := ((List.range 4).map (fun k => if fu.programmed k then 2 ^ k else 0)).foldl (· + ·) 0

/-- Bytes of ASCII text. -/
def ascii (s : String) : List Byte := s.toList.map (fun c => BitVec.ofNat 8 c.toNat)

/-- Identity seed, public key and DEVICE_ID (R532). -/
def Fuses.idSeed (fu : Fuses) : List Byte := (sha512 (ascii "ZQ-IDENT" ++ slice fu.secret 0 32)).take 32
def Fuses.idPub (fu : Fuses) : List Byte := edPublic fu.idSeed
def Fuses.deviceId (fu : Fuses) : List Byte := (sha512 fu.idPub).take 16

/-- Program fuses of an operation, but for the bits that `bad` names (R521, R522): a programmed bit never returns to 0. -/
def Fuses.program (fu : Fuses) (op : BrandOp) (bad : Nat) : Fuses :=
  match op with
  | .commit v => { fu with arb := max fu.arb (v - popNat 64 (bad % 2 ^ v / 2 ^ fu.arb)) }
  | .revoke k => if bad.testBit 0 || fu.revoked.contains k then fu else { fu with revoked := insNat fu.revoked k }
  | .keyProg k h =>
    let v := natLe 64 (leNat h - (leNat h &&& bad))
    if Tab.has fu.keys k || v.all (fun b => b == 0) then fu else { fu with keys := Tab.set fu.keys k v }
  | _ => fu

/-- Some bit of the operation did not read back as programmed. -/
def Fuses.fails (fu : Fuses) (op : BrandOp) (bad : Nat) : Bool :=
  match op with
  | .commit v => bad % 2 ^ v / 2 ^ fu.arb != 0
  | .revoke _ => bad.testBit 0
  | .keyProg _ h => (leNat h &&& bad) != 0
  | _ => false

/-! Measurement (R533). -/

def Dev.mr (d : Dev) (i : Nat) : List Byte := Tab.getD d.brd.mr i (List.replicate 64 0)
/-- Extend MR_i with a digest. -/
def Dev.mrExtend (d : Dev) (i : Nat) (dg : List Byte) : Dev :=
  { d with brd := { d.brd with mr := Tab.set d.brd.mr i (sha512 (d.mr i ++ dg)) } }

/-! Operations (R530, R531, R533, R534, R536). -/

/-- Register and RESULT field's low bit of an operation. -/
def BrandOp.reg : BrandOp → RegId × Nat
  | .commit _ => (R.brdArbCommit, 8)
  | .revoke _ => (R.brdRevoke, 16)
  | .keyProg _ _ => (R.brdKeyProg, 16)
  | .extend _ _ => (R.brdExtend, 16)
  | .quote _ => (R.brdQuote, 16)

/-- Set RESULT of an operation's register. -/
def Dev.opResult (d : Dev) (r : RegId × Nat) (v : Nat) : Dev := d.setFd r.1 (r.2 + 2) r.2 v

/-- The operation ends: RESULT and OP_DONE. -/
def Dev.opEnd (d : Dev) (r : RegId × Nat) (v : Nat) : Dev :=
  let d := (d.opResult r v).setInt pgBrand 0
  if v = 3 then d.bump pgBrand 0 2 else d

/-- Begin an operation, unless one runs: BUSY (R536). `bad` says which code refuses it, 0 for none. -/
def Dev.opStart (d : Dev) (op : BrandOp) (bad : Nat) : Dev :=
  if d.brd.op.isSome then d.opResult op.reg 1
  else if bad != 0 then d.opEnd op.reg bad
  else { d with brd := { d.brd with op := some op } }

/-- KEY_SLOT and SEC_VERSION of the running image. -/
def Dev.runSlot (d : Dev) : Nat := d.fd R.brdBootStat 15 14
def Dev.runVersion (d : Dev) : Nat := d.fd R.brdBootStat 22 16

/-- ARB_COMMIT (R530). -/
def arbCommitOp (v : Nat) (fu : Fuses) (d : Dev) : Dev :=
  d.opStart (.commit v) (if d.runVersion < v || v ≤ fu.arb then 3 else 0)
def execArbCommit (value : Nat) (s : State) : Host.Outcome State Fault Refusal := onFuses (arbCommitOp (value % 128)) s

/-- REVOKE (R531): another KEY than 0xA5 is BAD_ARG. -/
def revokeOp (k key : Nat) (fu : Fuses) (d : Dev) : Dev :=
  let left := (List.range 4).any (fun j => j != k && fu.good j)
  d.opStart (.revoke k) (if key != 0xA5 then 2 else if k = d.runSlot || !left then 3 else 0)
def execRevoke (slot key : Nat) (s : State) : Host.Outcome State Fault Refusal := onFuses (revokeOp (slot % 4) (key % 256)) s

/-- An operand in seat memory: 64 bytes, readable. -/
def Dev.seatArg (d : Dev) (a n : Nat) : Bool := decide (a % 64 = 0) && decide (a + n ≤ 2 ^ 36) && !d.bad a n

/-- Brand reads an operand that stands, unless an operation runs. The Brand core reads memory directly: it is no Latigo agent (R436). -/
def Dev.seatRead (d : Dev) (a n : Nat) : Dev := if d.brd.op.isNone && d.seatArg a n then d.touch a n else d

/-- KEY_PROG (R531): the hash is read from seat memory. -/
def keyProgOp (k : Nat) (fu : Fuses) (d : Dev) : Dev :=
  let a := d.addr52 R.brdKeyAddrLo R.brdKeyAddrHi
  let bad := if !d.seatArg a 64 then 2 else if k = d.runSlot || fu.programmed k || fu.revoked.contains k then 3 else 0
  ((d.seatRead a 64).setFd R.brdKeyProg 1 0 k).opStart (.keyProg k (d.peek a 64)) bad
def execKeyProg (slot : Nat) (s : State) : Host.Outcome State Fault Refusal := onFuses (keyProgOp (slot % 4)) s

/-- EXTEND (R533): firmware extends MR_3 to MR_7. -/
def extendOp (i : Nat) (d : Dev) : Dev :=
  let a := d.addr52 R.brdExtAddrLo R.brdExtAddrHi
  ((d.seatRead a 64).setFd R.brdExtend 2 0 i).opStart (.extend i (d.peek a 64)) (if i < 3 || !d.seatArg a 64 then 2 else 0)
def execExtend (mr : Nat) (s : State) : Host.Outcome State Fault Refusal := onDev (extendOp (mr % 8)) s

/-- QUOTE (R534). -/
def quoteOp (d : Dev) : Dev :=
  let a := d.addr52 R.brdQuoteAddrLo R.brdQuoteAddrHi
  let d1 := if d.brd.op.isSome then d else d.setFd R.brdQuote 1 1 0
  d1.opStart (.quote a) (if d.seatArg a 768 then 0 else 2)
def execQuote (s : State) : Host.Outcome State Fault Refusal := onDev quoteOp s

/-- Bytes 0 to 703 of a quote; `nu` is the block's own bytes 32 to 127. -/
def Dev.quoteBody (d : Dev) (fu : Fuses) (nu : List Byte) : List Byte :=
  let src := d.fd R.brdBootStat 13 12 + 4 * d.fd R.brdDebug 1 1
  natLe 4 0x5A515154 ++ natLe 1 1 ++ natLe 1 d.runSlot ++ natLe 1 fu.arb ++ natLe 1 src ++ natLe 4 d.runVersion ++ natLe 1 d.stepping ++
  natLe 3 0 ++ fu.deviceId ++ nu ++ ((List.range 8).map (fun i => d.mr i)).flatten ++ fu.idPub ++ natLe 32 0

/-- Brand writes the quote's own fields. -/
def Dev.writeQuote (d : Dev) (fu : Fuses) (a : Nat) : Dev :=
  let b := d.quoteBody fu (d.peek (a + 32) 96)
  let d := d.touch (a + 32) 96
  let d := (d.store a (slice b 0 32)).store (a + 128) (b.drop 128 ++ edSign fu.idSeed b)
  (d.setFd R.brdQuote 1 1 1).bump pgBrand 0 0

/-- What an operation does to the device when it ends. -/
def Dev.opEffect (d : Dev) (fu : Fuses) (op : BrandOp) : Dev :=
  match op with
  | .extend i dg => (d.mrExtend i dg).bump pgBrand 0 1
  | .quote a => d.writeQuote fu a
  | _ => d

/-- BRAND_OP_DONE (R536): the running operation ends. `bad` names the fuse bits that did not read back as programmed (R540). -/
def brandDone (bad : Nat) (s : State) : State :=
  match s.dev.brd.op with
  | none => s
  | some op =>
    let d : Dev := { s.dev with brd := { s.dev.brd with op := none } }
    let d := d.opEffect s.fuses op
    if s.fuses.fails op bad then
      { s with fuses := s.fuses.program op bad, dev := (d.opEnd op.reg 4).setErr pgBrand 0 0 }
    else { s with fuses := s.fuses.program op 0, dev := d.opEnd op.reg 0 }
def execBrandOpDone (bad : Nat) (s : State) : Host.Outcome State Fault Refusal := .next (brandDone bad s)

/-- DEBUG_OPEN (R535, R533). -/
def debugOpenOp (fu : Fuses) (d : Dev) : Dev :=
  if fu.debugLock || d.fd R.brdDebug 1 1 = 1 then d
  else (d.setRg R.brdDebug 2).mrExtend 7 (sha512 (ascii "DBG-OPEN"))
def execDebugOpen (s : State) : Host.Outcome State Fault Refusal := onFuses debugOpenOp s

/-- CC_START (R520): cores 1 to 15 begin at CC_ENTRY. -/
def ccStartOp (mask : Nat) (d : Dev) : Dev :=
  let e := d.addr64 R.ccEntryLo R.ccEntryHi
  let new := (List.range 16).filter (fun c => c != 0 && mask.testBit c && !d.brd.running.contains c)
  { d with brd := { d.brd with running := new.foldl insNat d.brd.running, entries := new.foldl (fun t c => Tab.set t c e) d.brd.entries } }
def execCcStart (mask : Nat) (s : State) : Host.Outcome State Fault Refusal := onDev (ccStartOp mask) s

/-! Image checks (R523, R524). -/

def hBodyLen (h : List Byte) : Nat := leAt h 8 4
def hLoad (h : List Byte) : Nat := leAt h 24 8
def hSlot (h : List Byte) : Nat := leAt h 6 1
def hVersion (h : List Byte) : Nat := leAt h 12 4
def hEntry (h : List Byte) : Nat := leAt h 16 4

/-- Check 2. -/
def hFormOk (h : List Byte) : Bool :=
  let z := fun o n => (slice h o n).all (fun b => b == 0)
  leAt h 0 4 == 0x5A514657 && leAt h 4 1 == 1 && z 5 1 && z 7 1 && z 20 4 && z 32 32 && z 160 32 && decide (hSlot h < 4) &&
  hBodyLen h % 64 == 0 && decide (64 ≤ hBodyLen h) && decide (hBodyLen h ≤ 67108608) && decide (hVersion h ≤ 64) &&
  hEntry h % 4 == 0 && decide (hEntry h < hBodyLen h) && hLoad h % 4096 == 0 && decide (hLoad h + hBodyLen h ≤ 2 ^ 36)

/-- Check 1 fails. -/
def hNoMedia (h : List Byte) : Bool := h.length != 256 || h.all (fun b => b == 0xFF) || h.all (fun b => b == 0)

/-- CAUSE of the first of checks 1 to 6 that fails, 0 when all pass. -/
def hCause (fu : Fuses) (h : List Byte) : Nat :=
  if hNoMedia h then 7
  else if !hFormOk h then 1
  else if !fu.good (hSlot h) then 2
  else if sha512 (slice h 128 32) != fu.key (hSlot h) then 3
  else if !edVerify (slice h 128 32) (slice h 0 192) (slice h 192 64) then 4
  else if hVersion h < fu.arb then 5
  else 0

def Dev.setCause (d : Dev) (c : Nat) : Dev := d.setFd R.brdBootStat 11 4 c
def Dev.setStage (d : Dev) (c : Nat) : Dev := d.setFd R.brdBootStat 3 0 c
def Dev.setPhase (d : Dev) (p : BootPhase) : Dev := { d with brd := { d.brd with phase := p } }

/-- CC_0 is released (R520, R525 step 8). -/
def Dev.release (d : Dev) : Dev :=
  let h := d.brd.header
  let d := ((d.setFd R.brdBootStat 15 14 (hSlot h)).setFd R.brdBootStat 22 16 (hVersion h)).setStage 2
  { d with brd := { d.brd with phase := .done, running := [0], entries := [(0, hLoad h + hEntry h)] } }

/-- Steps 7 and 8 (R525, R533): the measurements, then the release once Hide training has ended. -/
def Dev.measured (d : Dev) (fu : Fuses) (src : Nat) : Dev :=
  let h := d.brd.header
  let rec0 := natLe 4 Config.romVersion ++ natLe 1 (hSlot h) ++ natLe 1 fu.revBits ++ natLe 1 fu.arb ++ natLe 1 src ++ natLe 1 (b2n fu.debugLock) ++ natLe 7 0
  let d := ((d.mrExtend 0 (sha512 rec0)).mrExtend 1 (sha512 h)).mrExtend 2 (slice h 64 64)
  let d := d.setFd R.brdBootStat 13 12 src
  if d.brd.hideTrained then d.release else d.setPhase .trainWait

/-- Check 7 over the bytes that were written (R524). -/
def Dev.bodyGood (d : Dev) (h : List Byte) : Bool :=
  !d.bad (hLoad h) (hBodyLen h) && sha512 (d.peek (hLoad h) (hBodyLen h)) == slice h 64 64

/-! Recovery (R527 to R529). -/

def secCycles (n : Nat) : Nat := 1600000000 * n

/-- Change the recovery record; say what the ROM sends. -/
def Dev.setRcv (d : Dev) (f : Recovery → Recovery) : Dev := { d with brd := { d.brd with rcv := f d.brd.rcv } }
def Dev.netSend (d : Dev) (l : List NetMsg) : Dev := { d with mgmt := { d.mgmt with net := l } }

/-- The management link is up. -/
def Dev.mgmtUp (d : Dev) : Bool := d.fd R.mgmtStat 0 0 = 1

/-- Begin the DHCP exchange; `first` is sent before it. -/
def Dev.netDiscover (d : Dev) (fu : Fuses) (first : List NetMsg) : Dev :=
  (d.setRcv (fun r => { r with stage := .discover, tries := 0, sentAt := d.now, leased := 0, got := [], block := 0, blksize := 512, peerMac := none,
                               file := [] })).netSend (first ++ [.discover fu.deviceId])

/-- The network source begins. -/
def Dev.netStart (d : Dev) (fu : Fuses) : Dev :=
  let d := ((d.setPhase .network).setRcv (fun _ => { since := d.now, fecAt := d.now })).bump pgBrand 0 6
  if d.mgmtUp then d.netDiscover fu [] else d

/-- The fabric source begins. -/
def Dev.fabStart (d : Dev) : Dev := ((d.setPhase .fabric).setRcv (fun _ => { since := d.now })).bump pgBrand 0 6

/-- Recovery begins: the first source of BRD_RCV_CFG.MODE (R527). -/
def Dev.startRecovery (d : Dev) (fu : Fuses) : Dev :=
  let d := d.setStage 1
  if d.fd R.brdRcvCfg 18 17 = 2 then d.fabStart else d.netStart fu

/-- RECOVERY_TIMEOUT (R527): 120 s have passed. -/
def recoveryTimeoutOp (fu : Fuses) (d : Dev) : Dev :=
  if (d.brd.phase == .network || d.brd.phase == .fabric) && decide (d.brd.rcv.since + secCycles 120 ≤ d.now) then
    let d := d.setCause 8
    let mode := d.fd R.brdRcvCfg 18 17
    if mode = 1 then d.netStart fu
    else if mode = 2 then d.fabStart
    else if d.brd.phase == .network && d.fd R.brdRcvCfg 31 31 = 1 then d.fabStart
    else d.netStart fu
  else d
def execRecoveryTimeout (s : State) : Host.Outcome State Fault Refusal := onFuses recoveryTimeoutOp s

/-- More bytes of a recovery image: the header is checked as soon as it is there, the body goes to LOAD_ADDR as it streams in, and check 7 runs
at its end. `again` starts over with a cause. -/
def Dev.imageFeed (d : Dev) (fu : Fuses) (src : Nat) (more : List Byte) (again : Dev → Nat → Dev) : Dev :=
  let old := d.brd.rcv.got
  let got := old ++ more
  let d := d.setRcv (fun r => { r with got := got })
  let h := slice got 0 256
  if got.length < 256 then d
  else if old.length < 256 && hCause fu h != 0 then again d (hCause fu h)
  else
    let at_ := max old.length 256
    let d := d.store (hLoad h + (at_ - 256)) ((got.take (256 + hBodyLen h)).drop at_)
    if got.length < 256 + hBodyLen h then d
    else if d.bodyGood h then ({ d with brd := { d.brd with header := h } } : Dev).measured fu src
    else again d 6

/-- FEC_ALTERNATE (R528). -/
def fecAlternateOp (d : Dev) : Dev :=
  let r := d.brd.rcv
  if d.brd.phase == .network && r.stage == .link && decide (r.fecAt + secCycles 1 ≤ d.now) then
    (d.setRcv (fun r => { r with fec := !r.fec, fecAt := d.now })).setFd R.mgmtStat 1 1 (b2n (!r.fec))
  else d
def execFecAlternate (s : State) : Host.Outcome State Fault Refusal := onDev fecAlternateOp s

/-- DHCP_REPLY (R528): the first offer that names a boot file and a server is taken; the ACK ends the exchange. -/
def dhcpReplyOp (ack : Bool) (addr mask router server : Nat) (file : List Byte) (d : Dev) : Dev :=
  let r := d.brd.rcv
  if d.brd.phase != .network then d
  else if r.stage == .discover && !ack then
    if file.isEmpty || server = 0 then d
    else (d.setRcv (fun r => { r with stage := .request, tries := 0, sentAt := d.now, leased := addr, mask := mask, router := router, server := server,
                                      file := file })).netSend [.request server addr]
  else if r.stage == .request && ack && addr == r.leased then
    let target := if (r.server &&& r.mask) == (r.leased &&& r.mask) then r.server else r.router
    (d.setRcv (fun r => { r with stage := .arp, sentAt := d.now })).netSend [.arpRequest target]
  else d
def execDhcpReply (ack : Bool) (addr mask router server : Nat) (file : List Byte) (s : State) : Host.Outcome State Fault Refusal :=
  onDev (dhcpReplyOp ack addr mask router server file) s

/-- DHCP_RETRANSMIT (R528): 4, 8 and 16 s after the first message; then the sequence starts again. -/
def dhcpRetransmitOp (fu : Fuses) (d : Dev) : Dev :=
  let r := d.brd.rcv
  if d.brd.phase != .network || !(r.stage == .discover || r.stage == .request) || decide (d.now < r.sentAt + secCycles (4 * 2 ^ r.tries)) then d
  else if r.tries = 2 then d.netDiscover fu []
  else (d.setRcv (fun r => { r with tries := r.tries + 1 })).netSend
    [if r.stage == .discover then .discover fu.deviceId else .request r.server r.leased]
def execDhcpRetransmit (s : State) : Host.Outcome State Fault Refusal := onFuses dhcpRetransmitOp s

/-- A TFTP transfer begins. -/
def Dev.tftpStart (d : Dev) : Dev :=
  (d.setRcv (fun r => { r with stage := .tftp, tries := 0, sentAt := d.now, block := 0, blksize := 512, got := [] })).netSend
    [.readRequest d.brd.rcv.file 1468]

/-- RECOVERY_ARP (R528): a request for the leased address is answered; a reply resolves the server or the router. -/
def recoveryArpOp (request : Bool) (ip mac : Nat) (fu : Fuses) (d : Dev) : Dev :=
  let r := d.brd.rcv
  if d.brd.phase != .network then d
  else if request then (if r.leased != 0 && ip == r.leased && (r.stage == .arp || r.stage == .tftp) then d.netSend [.arpReply ip fu.mac] else d)
  else
    let target := if (r.server &&& r.mask) == (r.leased &&& r.mask) then r.server else r.router
    if r.stage == .arp && ip == target then (d.setRcv (fun r => { r with peerMac := some mac })).tftpStart else d
def execRecoveryArp (request : Bool) (ip mac : Nat) (s : State) : Host.Outcome State Fault Refusal := onFuses (recoveryArpOp request ip mac) s

/-- A failed network image: TFTP error code 0, then again from DHCP. -/
def netAgain (fu : Fuses) (d : Dev) (cause : Nat) : Dev := (d.setCause cause).netDiscover fu [.error]

/-- TFTP_BLOCK (R528): an option acknowledgement sets the block size; the next data block is taken and acknowledged. -/
def tftpBlockOp (oack : Bool) (n : Nat) (data : List Byte) (fu : Fuses) (d : Dev) : Dev :=
  let r := d.brd.rcv
  if d.brd.phase != .network || r.stage != .tftp then d
  else if oack then
    if r.block = 0 && r.got.isEmpty then (d.setRcv (fun r => { r with blksize := n, sentAt := d.now, tries := 0 })).netSend [.ack 0] else d
  else if n != (r.block + 1) % 65536 then (if n = r.block then d.netSend [.ack n] else d)
  else
    let d := (d.setRcv (fun r => { r with block := n, sentAt := d.now, tries := 0 })).netSend [.ack n]
    let d := d.imageFeed fu 1 (data.take r.blksize) (netAgain fu)
    if d.brd.phase == .network && d.brd.rcv.stage == .tftp && decide (data.length < r.blksize) then
      netAgain fu d (if d.brd.rcv.got.length < 256 then 7 else 6)
    else d
def execTftpBlock (oack : Bool) (block : Nat) (data : List Byte) (s : State) : Host.Outcome State Fault Refusal :=
  onFuses (tftpBlockOp oack block data) s

/-- TFTP_TIMEOUT (R528): 1 s; after five retransmissions the transfer starts again. -/
def tftpTimeoutOp (d : Dev) : Dev :=
  let r := d.brd.rcv
  if d.brd.phase != .network || r.stage != .tftp || decide (d.now < r.sentAt + secCycles 1) then d
  else if 5 ≤ r.tries then d.tftpStart
  else (d.setRcv (fun r => { r with tries := r.tries + 1, sentAt := d.now })).netSend
    [if r.block = 0 && r.blksize = 512 then .readRequest r.file 1468 else .ack r.block]
def execTftpTimeout (s : State) : Host.Outcome State Fault Refusal := onDev tftpTimeoutOp s

/-- Fabric recovery: node id, route, laser and port as BRD_RCV_CFG says (R529). -/
def Dev.fabSetup (d : Dev) : Dev :=
  let cfg := d.rg R.brdRcvCfg
  let p := fld cfg 16 12
  let node := fld cfg 11 0
  let peer := d.fd R.brdRcvPeer 11 0
  let d := (d.setRg R.fabNode (w32 (node + 2 ^ 31))).setRgb R.fabRoute peer (w32 (p + 32))
  let d := d.setFd R.bklCfg 1 1 1 (p / 8)
  (d.setPg (pgLink p) R.blkCtl (putFld (d.pg (pgLink p) R.blkCtl) 0 0 1)).trainCheck p

/-- A recovery read is outstanding. -/
def Dev.fabAsked (d : Dev) : Bool := d.fab.tp.tags.any (fun e => match e.2.use with
  | .recovery _ => true
  | _ => false)

/-- The next recovery read, once the port is up (R529). -/
def Dev.fabNext (d : Dev) : Dev :=
  let off := d.brd.rcv.got.length
  let a := d.addr52 R.brdRcvAddrLo R.brdRcvAddrHi + off
  let m : Msg := { msg := 1, dst := d.fd R.brdRcvPeer 11 0, src := d.node, mapGen := d.fd R.brdRcvGen 15 0, len := 4096,
                   fence := (d.rg R.brdRcvFence).toNat, addr := a, vc := 7 }
  (d.sendReq (.recovery off) m).1

/-- What the ROM does by itself while it recovers over the fabric. -/
def Dev.romTick (d : Dev) : Dev :=
  if d.brd.phase != .fabric || d.fd R.brdRcvCfg 31 31 = 0 then d
  else if d.rg R.fabNode != w32 (d.fd R.brdRcvCfg 11 0 + 2 ^ 31) then d.fabSetup
  else if d.fabAsked then d else d.fabNext

/-- A recovery read is answered: with data, or with a failure, which is retried up to 8 times before the whole read starts again (R529). -/
def Dev.recoveryData (d : Dev) (fu : Fuses) (off : Nat) (data : Option (List Byte)) : Dev :=
  if d.brd.phase != .fabric || off != d.brd.rcv.got.length then d
  else match data with
    | none =>
      if 8 ≤ d.brd.rcv.retries then d.setRcv (fun r => { r with retries := 0, got := [] })
      else d.setRcv (fun r => { r with retries := r.retries + 1 })
    | some b => (d.setRcv (fun r => { r with retries := 0 })).imageFeed fu 2 b (fun d c => (d.setCause c).setRcv (fun r => { r with got := [] }))

/-! The boot (R525, R526). -/

/-- Pages that the ROM enables at step 3 (R526). -/
def bootPages (part : Part) : List Nat :=
  [0, 1, 2, 3, 4, 0xC, 0xD] ++ (List.range 8).map (fun i => 0x10 + i) ++ (List.range 16).map (fun i => 0x20 + i) ++
  (List.range 4).map (fun i => 0x30 + i) ++ (List.range part.engines).map (fun i => 0x40 + i) ++
  (List.range part.engines).map (fun i => 0x80 + i) ++ (List.range 16).map (fun i => 0xC0 + i) ++ (List.range 16).map (fun i => 0xD0 + i) ++
  ((List.range 96).filter (fun i => !(decide (32 + part.channels ≤ i) && decide (i < 80)))).map (fun i => 0x140 + i)

/-- The device after a cold reset (R525, R546, R548): flash keeps what it held, and THERM_TRIP_N stays latched (R580). -/
def Dev.coldReset (d : Dev) : Dev :=
  { part := d.part, stepping := d.stepping, draws := d.draws + 1, flash := d.flashRestart,
    pins := { resetN := true, thermTripN := d.pins.thermTripN } }

/-- Steps 1 to 5 (R525): fuses sensed, self-tests, pages enabled, the header read, once more at single width when check 1 fails. -/
def Dev.bootRom (d : Dev) (fu : Fuses) (recovery selfTest : Bool) (h1 h2 : List Byte) : Dev :=
  if !selfTest then ((d.setCause 9).setStage 3).setPhase .halted
  else
    let d := (bootPages d.part).foldl (fun d p => d.setPg p R.blkCtl 1) d
    if recovery then d.startRecovery fu
    else
      let h := if hNoMedia h1 then h2 else h1
      let c := hCause fu h
      if c != 0 then (d.setCause c).startRecovery fu
      else ({ d with brd := { d.brd with header := h } } : Dev).setPhase .body

/-- COLD_BOOT: RESET_N rises (R525). A fuse operation that the reset interrupted leaves each bit programmed or not: `torn` names those
that are not (R522). `selfTest` is the outcome of the known-answer tests, `hdr` and `again` what the two header reads find. -/
def coldBoot (recovery selfTest : Bool) (torn : Nat) (hdr again : List Byte) (s : State) : State :=
  if s.dev.pins.resetN then s
  else
    let fu := match s.dev.brd.op with
      | some op => s.fuses.program op torn
      | none => s.fuses
    { s with fuses := fu, dev := s.dev.coldReset.bootRom fu recovery selfTest hdr again }
def execColdBoot (recovery selfTest : Bool) (torn : Nat) (hdr again : List Byte) (s : State) : Host.Outcome State Fault Refusal :=
  .next (coldBoot recovery selfTest torn hdr again s)

/-- BOOT_BODY_LOADED (R524, R525 steps 6 to 8): the body as the flash gave it. -/
def bootBodyOp (body : List Byte) (fu : Fuses) (d : Dev) : Dev :=
  if d.brd.phase != .body then d
  else
    let h := d.brd.header
    let d := d.store (hLoad h) (slice body 0 (hBodyLen h))
    if d.bodyGood h then d.measured fu 0 else (d.setCause 6).startRecovery fu
def execBootBodyLoaded (body : List Byte) (s : State) : Host.Outcome State Fault Refusal := onFuses (bootBodyOp body) s

/-- HIDE_TRAINING_DONE (R526): the stacks that failed training go out of service. -/
def hideTrainingOp (failed : Nat) (d : Dev) : Dev :=
  if d.brd.phase == .off || d.brd.phase == .halted || d.brd.hideTrained then d
  else
    let d := ((List.range 16).filter (fun n => failed.testBit n)).foldl (fun d n => d.stackDown n) d
    let d : Dev := { d with brd := { d.brd with hideTrained := true } }
    if d.brd.phase == .trainWait then d.release else d
def execHideTrainingDone (failed : Nat) (s : State) : Host.Outcome State Fault Refusal := onDev (hideTrainingOp failed) s

end Sys2Proof.Machine
end

