-- ==== Sys2Proof/Machine/Mgmt.lean ====
section
/-! DEFINITION. The management port, the laser enables, and the rows of the RAS block (R413, R538, R539, R541, R548, R551, R559, R561). -/

namespace Sys2Proof.Machine
open Sys2Proof

/-! Internet checksums (R538). -/

/-- Sum of big-endian 16-bit words; an odd last byte is a high byte. -/
def sum16 : List Byte → Nat
  | [] => 0
  | [a] => a.toNat * 256
  | a :: b :: t => a.toNat * 256 + b.toNat + sum16 t
def fold16 (n : Nat) : Nat :=
  let f := fun n => n % 65536 + n / 65536
  f (f (f n))
/-- One's complement checksum of bytes. -/
def csum16 (l : List Byte) : Nat := 65535 - fold16 (sum16 l)
def be16 (l : List Byte) (o : Nat) : Nat := beNat (slice l o 2)

/-- An IPv4 frame; an IPv6 frame. -/
def isIp4 (f : List Byte) : Bool := be16 f 12 == 0x0800 && leAt f 14 1 / 16 == 4
def isIp6 (f : List Byte) : Bool := be16 f 12 == 0x86DD && leAt f 14 1 / 16 == 6
def ihl (f : List Byte) : Nat := leAt f 14 1 % 16 * 4
/-- Offset of the UDP header of a frame without extension headers, if it has one. -/
def udpAt (f : List Byte) : Option Nat :=
  if isIp4 f then (if leAt f 23 1 = 17 then some (14 + ihl f) else none)
  else if isIp6 f then (if leAt f 20 1 = 17 then some 54 else none)
  else none
/-- Pseudo-header and UDP datagram, as the UDP checksum covers them. -/
def udpSum (f : List Byte) (u : Nat) : List Byte :=
  let n := be16 f (u + 4)
  (if isIp4 f then slice f 26 8 ++ natBe 2 17 ++ natBe 2 n else slice f 22 32 ++ natBe 4 n ++ natBe 4 17) ++ slice f u n

/-- Insert the checksums (R539, CSUM of a transmit descriptor). -/
def csumInsert (f : List Byte) : List Byte :=
  let f := if isIp4 f then
      let z := patch f 24 [0, 0]
      patch z 24 (natBe 2 (csum16 (slice z 14 (ihl f))))
    else f
  match udpAt f with
  | some u =>
    let z := patch f (u + 6) [0, 0]
    let c := csum16 (udpSum z u)
    patch z (u + 6) (natBe 2 (if c = 0 then 65535 else c))
  | none => f

/-- Checksums of a received frame: none checked, or whether all are correct. -/
def csumCheck (f : List Byte) : Option Bool :=
  let ip := if isIp4 f then some (fold16 (sum16 (slice f 14 (ihl f))) == 65535) else none
  let udp := match udpAt f with
    | some u => if isIp4 f && be16 f (u + 6) == 0 then none else some (fold16 (sum16 (udpSum f u)) == 65535)
    | none => none
  match ip, udp with
  | some a, some b => some (a && b)
  | some a, none => some a
  | none, x => x

/-! Rings (R538, R539, R541). -/

/-- Registers of the transmit ring, and of the receive ring. -/
def mgmtCfgReg (rx : Bool) : RegId := if rx then R.mgmtRxCfg else R.mgmtTxCfg
def mgmtTailReg (rx : Bool) : RegId := if rx then R.mgmtRxTail else R.mgmtTxTail
def mgmtHeadReg (rx : Bool) : RegId := if rx then R.mgmtRxHead else R.mgmtTxHead
def Dev.mgmtBase (d : Dev) (rx : Bool) : Nat :=
  if rx then d.addr64 R.mgmtRxBaseLo R.mgmtRxBaseHi else d.addr64 R.mgmtTxBaseLo R.mgmtTxBaseHi

/-- A doorbell value of a ring of the size set; a larger one changes nothing. -/
def mgmtDoorbellOp (rx : Bool) (v : Nat) (d : Dev) : Dev :=
  if v < ringSize (d.rg (mgmtCfgReg rx)) then d.setRg (mgmtTailReg rx) (w32 v) else d
/-- MGMT_TX_DOORBELL (R538). -/
def execMgmtTxDoorbell (value : Nat) (s : State) : Host.Outcome State Fault Refusal := onDev (mgmtDoorbellOp false (value % 4096)) s
/-- MGMT_RX_DOORBELL (R538). -/
def execMgmtRxDoorbell (value : Nat) (s : State) : Host.Outcome State Fault Refusal := onDev (mgmtDoorbellOp true (value % 4096)) s

/-- MGMT_RING_ENABLE: a write to a ring's CFG (R541). While the ring is enabled only clearing ENABLE acts. -/
def mgmtRingOp (rx : Bool) (v : Word) (d : Dev) : Dev :=
  let r := mgmtCfgReg rx
  let v := v &&& 0x8000001F
  if ringOn (d.rg r) then (if ringOn v then d else d.setFd r 31 31 0)
  else if !ringOn v then d.setRg r v
  else if 4 ≤ fld v 4 0 && fld v 4 0 ≤ 12 && d.mgmtBase rx % 4096 = 0 then
    ((d.setRg r v).setRg (mgmtTailReg rx) 0).setRg (mgmtHeadReg rx) 0
  else d
def execMgmtRingEnable (rx : Bool) (value : Word) (s : State) : Host.Outcome State Fault Refusal := onDev (mgmtRingOp rx value) s

/-- A ring has a descriptor for the device. -/
def Dev.mgmtReady (d : Dev) (rx : Bool) : Bool :=
  ringOn (d.rg (mgmtCfgReg rx)) && d.rg (mgmtHeadReg rx) != d.rg (mgmtTailReg rx) && d.runs pgMgmt && d.brd.phase == .done
def Dev.mgmtDescAt (d : Dev) (rx : Bool) : Nat := d.mgmtBase rx + 16 * (d.rg (mgmtHeadReg rx)).toNat
def Dev.mgmtNext (d : Dev) (rx : Bool) : Dev :=
  d.setRg (mgmtHeadReg rx) (w32 (((d.rg (mgmtHeadReg rx)).toNat + 1) % ringSize (d.rg (mgmtCfgReg rx))))
/-- Longest frame, without FCS (R538). -/
def Dev.maxFrame (d : Dev) : Nat := if d.fd R.mgmtCfg 2 2 = 1 then 9216 else 1518

/-- MGMT_FRAME_SENT: the next transmit descriptor's frame leaves, and DONE is set (R539). -/
def frameSentOp (d : Dev) : Dev :=
  if !d.mgmtReady false || !d.mgmtUp then d
  else
    let a := d.mgmtDescAt false
    if d.bad a 16 then ((d.touch a 16).setErr pgMgmt 0 a).mgmtNext false
    else
      let b := d.peek a 16
      let f := d.peek (leAt b 0 8) (leAt b 8 2)
      let f := if (leAt b 12 4).testBit 1 then csumInsert f else f
      let d := (d.touch a 16).touch (leAt b 0 8) (leAt b 8 2)
      let d := if f.length ≤ d.maxFrame then ({ d with mgmt := { d.mgmt with frame := f } } : Dev).bump pgMgmt 0 0 else d
      let d := d.storeN (a + 12) 4 (leAt b 12 4 ||| 1)
      (d.mgmtNext false).setInt pgMgmt 1
def execMgmtFrameSent (s : State) : Host.Outcome State Fault Refusal := onDev frameSentOp s

/-- The MAC takes frames to its own address, broadcasts, and with PROMISC every frame (R538). -/
def Dev.macTakes (d : Dev) (fu : Fuses) (f : List Byte) : Bool :=
  let dst := beNat (slice f 0 6)
  dst == fu.mac || dst == 2 ^ 48 - 1 || d.fd R.mgmtCfg 1 1 == 1

/-- A received frame goes to the next receive descriptor (R539). -/
def Dev.frameIn (d : Dev) (f : List Byte) : Dev :=
  let a := d.mgmtDescAt true
  if d.bad a 16 then ((d.touch a 16).setErr pgMgmt 0 a).mgmtNext true
  else
    let b := d.peek a 16
    let n := min f.length (leAt b 8 2)
    let c := csumCheck f
    let st := 1 + 2 * b2n (c == some true) + 4 * b2n (c == some false) + 8 * b2n (isIp6 f) + 16 * b2n (decide (n < f.length))
    let d := (d.touch a 16).store (leAt b 0 8) (f.take n)
    let d := (d.storeN (a + 10) 2 n).storeN (a + 12) 4 st
    let d := if c == some false then d.bump pgMgmt 0 4 else d
    ((d.bump pgMgmt 0 1).mgmtNext true).setInt pgMgmt 0

/-- FEC codewords corrected, and those that could not be, as a frame arrives: no row brings them (log entry 65). -/
def Dev.fecCount (d : Dev) : Dev :=
  if d.fd R.mgmtStat 1 1 = 1 then (d.bumpFree pgMgmt 0 5 (d.pick (2 ^ 16))).bumpFree pgMgmt 0 6 (d.pick (2 ^ 16)) else d

/-- MGMT_FRAME_RECEIVE: a frame arrives, with a correct FCS or not (R538, R539). -/
def frameReceiveOp (f : List Byte) (fcsOk : Bool) (fu : Fuses) (d : Dev) : Dev :=
  if !d.mgmtUp then d else
  let d := d.fecCount
  if !fcsOk then d.bump pgMgmt 0 3
  else if !d.macTakes fu f || decide (d.maxFrame < f.length) then d
  else if !d.mgmtReady true then d.bump pgMgmt 0 2
  else d.frameIn f
def execMgmtFrameReceive (frame : List Byte) (fcsOk : Bool) (s : State) : Host.Outcome State Fault Refusal :=
  onFuses (frameReceiveOp frame fcsOk) s

/-- MGMT_LINK_CHANGE (R541): block lock without remote fault, or its loss; it cannot come up without FREF_156 (R565). -/
def linkChangeOp (up : Bool) (fu : Fuses) (d : Dev) : Dev :=
  if up == d.mgmtUp || (up && d.pwr.frefGone) then d
  else
    let fec := if d.brd.phase == .network then d.brd.rcv.fec else d.fd R.mgmtCfg 0 0 == 1
    let d := ((d.setRg R.mgmtStat (w32 (b2n up + 2 * b2n (up && fec)))).setInt pgMgmt 2).bump pgMgmt 0 7
    if d.brd.phase != .network then d
    else if up then (if d.brd.rcv.stage == .link then d.netDiscover fu [] else d)
    else d.setRcv (fun r => { r with stage := .link, fecAt := d.now })
def execMgmtLinkChange (up : Bool) (s : State) : Host.Outcome State Fault Refusal := onFuses (linkChangeOp up) s

/-- LSR_ON: BKL_CFG.LSR_ON of a tile's page drives its laser enable (R413). -/
def lsrOnOp (tile : Nat) (on : Bool) (d : Dev) : Dev := d.setFd R.bklCfg 1 1 (b2n on) tile
def execLsrOn (tile : Nat) (on : Bool) (s : State) : Host.Outcome State Fault Refusal := onUnit (fun _ => decide (tile < 4)) (lsrOnOp tile on) s

/-- SMB_ALERT_N: low while an enabled cause of the RAS page stands. -/
def Dev.smbAlertN (d : Dev) : Bool := (d.pg pgRas R.intStat &&& d.pg pgRas R.intEn) = 0
/-- The machine external interrupt of control core c is pending (R519). -/
def Dev.extIrq (d : Dev) (c : Nat) : Bool := !(Tab.getD d.mgmt.inbox c []).isEmpty

/-! RAS rows. -/

/-- The range of RAS_ZERO may be cleared (R548). -/
def zeroOk (part : Part) (a n : Nat) : Bool :=
  a % 65536 == 0 && n != 0 && (regionOf part a).lined && regionOf part a == regionOf part (a + 65536 * n - 1)

/-- RAS_ZERO ends with a RESULT. -/
def Dev.zeroEnd (d : Dev) (res : Nat) : Dev :=
  (({ d with ras := { d.ras with zeroing := none } } : Dev).setRg R.rasZeroCtl (w32 (2 + 65536 * res))).setInt pgRas 4

/-- RAS_ZERO_START (R548, R562): bits [15:0] of the base are part of the check. -/
def rasZeroStartOp (d : Dev) : Dev :=
  if d.ras.zeroing.isSome then d.setFd R.rasZeroCtl 18 16 1
  else
    let a := d.addr52 R.rasZeroBaseLo R.rasZeroBaseHi
    let n := d.fd R.rasZeroLen 24 0
    if zeroOk d.part a n then
      ({ d with ras := { d.ras with zeroing := some (a, a + 65536 * n) } } : Dev).setRg R.rasZeroCtl 1
    else d.zeroEnd 2
def execRasZeroStart (s : State) : Host.Outcome State Fault Refusal := onDev rasZeroStartOp s

/-- Clear the valid bits of [a, a + n), after the caching agents of coherent windows have given its lines up (R446, R548). -/
def Dev.zeroRange (d : Dev) (a n : Nat) : Option Dev :=
  if !d.blocked a n true then some { d with mem := d.mem.clearLines (a / 64) ((a + n) / 64) } else none

/-- One granule of a running RAS_ZERO every 16 NCLK cycles. -/
def Dev.zeroTick (d : Dev) : Dev :=
  match d.ras.zeroing with
  | some (a, e) =>
    if a < e && d.now % 16 = 0 && !d.frozen pgRas then
      match d.zeroRange a 65536 with
      | some d1 => { d1 with ras := { d1.ras with zeroing := some (a + 65536, e) } }
      | none => d.recall a 65536 true
    else d
  | none => d

/-- ZERO_DONE (R548): the rest of the range has been cleared. -/
def zeroDoneOp (d : Dev) : Dev :=
  match d.ras.zeroing with
  | some (a, e) =>
    (match d.zeroRange a (e - a) with
     | some d1 => d1.zeroEnd 0
     | none => d.recall a (e - a) true)
  | none => d
def execZeroDone (s : State) : Host.Outcome State Fault Refusal := onDev zeroDoneOp s

/-- Lines that the patrol scrubber reads and finds something in: seat memory, and stacks in service. -/
def Dev.scrubLines (d : Dev) : List Nat :=
  (d.errLines (fun r => match r with
    | .seat => true
    | .hide n => !d.stackOut n
    | _ => false)).filter (fun l => d.lineValid l)

/-- Bytes of the valid lines whose reads a page counts. -/
def Dev.validBytes (d : Dev) (p : Nat) : Nat :=
  64 * (d.mem.valid.filter (fun l => (regionOf d.part (64 * l)).lined && ownerPage (64 * l) (regionOf d.part (64 * l)) == p)).length
/-- The scrubber's reads are counted; those of a stack in service are charged to DEFAULT_FN of its Rein instance (R551). -/
def Dev.scrubCount (d : Dev) : Dev :=
  let d := [0xC, 0xD].foldl (fun d p => d.bump p 0 0 (d.validBytes p)) d
  (List.range 16).foldl (fun d n =>
    if d.stackOut n then d else (d.bump (0xC0 + n) 0 0 (d.validBytes (0xC0 + n))).reinBase n (d.validBytes (0xC0 + n)) {}) d

/-- PATROL_SCRUB (R551): the pass that RAS_SCRUB.HOURS asks for ends. -/
def patrolScrubOp (d : Dev) : Dev :=
  let h := d.fd R.rasScrub 7 0
  if h = 0 || !d.runs pgRas || decide (d.now < d.ras.scrubFrom + secCycles (3600 * h)) then d
  else
    let d := (d.scrubLines.foldl (fun d l => d.touchLine l) d).scrubCount
    ({ d with ras := { d.ras with scrubFrom := d.now } } : Dev).bump pgRas 0 9
def execPatrolScrub (s : State) : Host.Outcome State Fault Refusal := onDev patrolScrubOp s

/-- CE_SECOND (R559): an aligned second of device time begins. -/
def ceSecondOp (d : Dev) : Dev := d.ceSecond
def execCeSecond (s : State) : Host.Outcome State Fault Refusal := onDev ceSecondOp s

/-- The 32 bytes of an error record (R557). -/
def rasRecBytes (r : RasRec) : List Byte :=
  natLe 2 r.seq ++ natLe 1 r.typ ++ natLe 1 r.bit ++ natLe 4 (r.page % 4096) ++ natLe 8 (r.addr % 2 ^ 52) ++ natLe 1 r.syndrome ++ natLe 1 r.word ++
  natLe 2 r.count ++ natLe 4 0 ++ natLe 8 r.time

/-- The frame of a notification (R561). -/
def Dev.rasFrame (d : Dev) (r : RasRec) : List Byte :=
  let t := slice (((List.range 11).map (fun w => natLe 4 (d.rg (R.rasTpl w)).toNat)).flatten) 0 42
  let t := patch (patch (patch (patch t 16 (natBe 2 68)) 38 (natBe 2 48)) 40 (natBe 2 0)) 24 (natBe 2 0)
  let t := patch t 24 (natBe 2 (csum16 (slice t 14 20)))
  t ++ natLe 4 0x5A515241 ++ natLe 2 d.node ++ natLe 2 0 ++ rasRecBytes r

/-- RAS_DATAGRAM (R561): the oldest record chosen for the network is sent, or counted as missed when it came too soon or the link is down. -/
def rasDatagramOp (d : Dev) : Dev :=
  match d.ras.notify with
  | [] => d
  | r :: rest =>
    let gap := usCycles (max (d.fd R.rasNotify 31 16) 1)
    let soon := match d.ras.lastSent with
      | some t => decide (16 * r.time < t + gap)
      | none => false
    let d1 : Dev := { d with ras := { d.ras with notify := rest } }
    if soon || !d.mgmtUp then d1.bump pgRas 0 11
    else ({ d1 with ras := { d1.ras with lastSent := some d.now }, mgmt := { d1.mgmt with frame := d.rasFrame r } } : Dev).bump pgRas 0 10
def execRasDatagram (s : State) : Host.Outcome State Fault Refusal := onDev rasDatagramOp s

end Sys2Proof.Machine
end

