-- ==== Sys2Proof/Machine/Power.lean ====
section
/-! DEFINITION. Clocks, power and energy limits, cold reset and the power-fail sequence (R379, R380, R565 to R580). -/

namespace Sys2Proof.Machine
open Sys2Proof

/-- Pages of CLK and PWR (R52). -/
def pgClk : Nat := 0x0
def pgPwr : Nat := 0x1

/-! Operating points (R570). -/

/-- PWR_LIMIT.W, PWR_ILIM.AMPS: a value outside a field's range reads as the nearest bound (R583). -/
def Dev.limitW (d : Dev) : Nat := min (max (d.fd R.pwrLimit 11 0) 1000) 2400
def Dev.limitA (d : Dev) : Nat := min (max (d.fd R.pwrIlim 10 0) 600) 1115
/-- TREE_C, STACK_C and TILE_C of PWR_THERM, bounded likewise. -/
def Dev.treeC (d : Dev) : Nat := min (max (d.fd R.pwrTherm 7 0) 80) 105
def Dev.stackC (d : Dev) : Nat := min (max (d.fd R.pwrTherm 15 8) 85) 100
def Dev.tileC (d : Dev) : Nat := min (max (d.fd R.pwrTherm 23 16) 60) 80

/-- The point that PWR_MAXPT and a failed regulator hold (R567, R570). -/
def Dev.heldPoint (d : Dev) : Nat := max (d.fd R.pwrMaxpt 2 0) (if d.pwr.avsDead then 4 else 0)
/-- The lowest point demanded (R570). -/
def Dev.wantPoint (d : Dev) : Nat := max (max d.heldPoint d.pwr.ptPower) (max d.pwr.ptCurrent d.pwr.ptThermal)
/-- PWR_STAT.CAUSE: every limit that holds the point down. -/
def Dev.pointCause (d : Dev) : Nat :=
  let p := d.wantPoint
  if p = 0 then 0
  else b2n (d.pwr.ptPower == p) + 2 * b2n (d.pwr.ptCurrent == p) + 4 * b2n (d.pwr.ptThermal == p) + 8 * b2n (d.heldPoint == p)
/-- The device's voltage for a point and die, in mV, from fuses: 600 to 800 in steps of 5 (R567, R570). -/
def fusedMv (die p : Nat) : Nat := 600 + 5 * (Config.free [0, 570, die, p] % 41)
/-- Move to the point demanded (R570, R572): both dies, with their voltages. -/
def Dev.repoint (d : Dev) : Dev :=
  let p := d.wantPoint
  let old := d.point
  let d := (d.setFd R.pwrStat 7 4 d.pointCause).setFd R.pwrStat 2 0 p
  if p = old then d
  else ((d.setFd (R.pwrVdd 0) 9 0 (fusedMv 0 p)).setFd (R.pwrVdd 1) 9 0 (fusedMv 1 p)).bump pgClk 0 2

/-- Set one limit's demand and move. -/
def Dev.demand (d : Dev) (f : Power → Power) : Dev := ({ d with pwr := f d.pwr } : Dev).repoint

/-! The ramp governor (R573, R574). -/

/-- IDLE_GATE_CLOSE: the array clock of an engine idle for IDLE_DELAY is gated (R256). -/
def idleGateCloseOp (e : Nat) (d : Dev) : Dev :=
  if d.gateShut e (d.engine e) then d.updEngine e (fun x => { x with gated := true }) else d
def execIdleGateClose (eng : Nat) (s : State) : Host.Outcome State Fault Refusal := onUnit (hasEng eng) (idleGateCloseOp eng) s

/-- Engines that wait for a wake. -/
def Dev.wakeWaits (d : Dev) : Nat := (d.eng.eng.filter (fun e => e.2.gated && e.2.pend.any (fun p => unitOf p.w == 4))).length
/-- A raise by `mw` keeps every Tree rail at or below AMPS (R577); `rise` is the change of the rail's estimated current in A since its
last reading. -/
def Dev.raiseOk (d : Dev) (rise : Nat → Nat) (mw : Nat) : Bool :=
  [0, 1].all (fun i =>
    let v := d.rg (R.pwrVdd i)
    decide (1000 * (fld v 26 16 + rise i) + mw * 1000 / max (fld v 9 0) 1 ≤ 1000 * d.limitA))

/-- GOVERNOR_ESTIMATE: every 0.5 µs the controlled power is estimated, and the envelope E moves by at most half a µs's step: up toward what
waits for it, or down to the estimate with filler cycles for the difference. -/
def governorOp (mw rise0 rise1 : Nat) (d : Dev) : Dev :=
  if !d.alive || decide (d.now < d.pwr.govAt + 800) then d
  else
    let step := d.rampPerUs / 2
    let need := mw + 23100 * (d.wakes.length + d.wakeWaits)
    let env := d.pwr.env
    let up := min need (env + step)
    let env' := if env < need then (if d.raiseOk (fun i => if i = 0 then rise0 else rise1) (up - env) then up else env)
      else max need (env - step)
    let fill := decide (mw < env') && decide (need < env)
    let d : Dev := { d with pwr := { d.pwr with env := env', est := mw, filler := fill, govAt := d.now } }
    if fill then d.bump pgPwr 0 8 (550 - 50 * d.point) else d
def execGovernorEstimate (mw rise0 rise1 : Nat) (s : State) : Host.Outcome State Fault Refusal := onDev (governorOp mw rise0 rise1) s

/-! Package power, current and voltage (R567, R571, R576, R577). -/

/-- POWER_LIMIT_CHECK: once per ms, the estimate of the last ms against PWR_LIMIT; `higher` is the estimate at the next higher point. -/
def powerCheckOp (w higher : Nat) (d : Dev) : Dev :=
  if !d.alive || decide (d.now < d.pwr.limitAt + msCycles 1) then d
  else
    let p := d.point
    let d := (d.bump pgPwr 0 p).setFd R.pwrStat 27 16 (sat 12 w)
    let d : Dev := { d with pwr := { d.pwr with limitAt := d.now } }
    if d.limitW < w then
      let d := d.setInt pgPwr 3
      if p < 7 then (d.bump pgPwr 0 12).demand (fun x => { x with ptPower := p + 1, lowPower := none })
      else { d with pwr := { d.pwr with lowPower := none } }
    else if 95 * d.limitW < 100 * w then { d with pwr := { d.pwr with lowPower := none } }
    else
      let t := d.pwr.lowPower.getD d.now
      if t + msCycles 10 ≤ d.now && d.pwr.ptPower != 0 && higher < d.limitW then
        d.demand (fun x => { x with ptPower := x.ptPower - 1, lowPower := some d.now })
      else { d with pwr := { d.pwr with lowPower := some t } }
def execPowerLimitCheck (w higher : Nat) (s : State) : Host.Outcome State Fault Refusal := onDev (powerCheckOp w higher) s

/-- CURRENT_READING: every 10 µs a Tree rail's regulator reports its current, or does not answer; `higher` is the estimate at the next
higher point. -/
def currentOp (rail : Nat) (amps : Option Nat) (higher : Nat) (d : Dev) : Dev :=
  if !d.alive || decide (d.now < Tab.getD d.pwr.readAt rail 0 + usCycles 10) then d
  else
    let d : Dev := { d with pwr := { d.pwr with readAt := Tab.set d.pwr.readAt rail d.now } }
    match amps with
    | none =>
      let n := Tab.getD d.pwr.avsMiss rail 0 + 1
      let d : Dev := { d with pwr := { d.pwr with avsMiss := Tab.set d.pwr.avsMiss rail n } }
      if n = 3 then (d.setErr pgPwr 0 0).demand (fun x => { x with avsDead := true }) else d
    | some a =>
      let p := d.point
      let d : Dev := { d with pwr := { d.pwr with avsMiss := Tab.del d.pwr.avsMiss rail } }
      let d := d.setFd (R.pwrVdd rail) 26 16 (sat 11 a)
      if d.limitA < a then
        let d := d.setInt pgPwr 1
        if p < 7 then (d.bump pgPwr 0 11).demand (fun x => { x with ptCurrent := p + 1, lowCurrent := [] })
        else { d with pwr := { d.pwr with lowCurrent := [] } }
      else if 95 * d.limitA < 100 * a then { d with pwr := { d.pwr with lowCurrent := Tab.del d.pwr.lowCurrent rail } }
      else
        let low := Tab.set d.pwr.lowCurrent rail (Tab.getD d.pwr.lowCurrent rail d.now)
        let held := [0, 1].all (fun i => match Tab.find? low i with
          | some t => decide (t + msCycles 10 ≤ d.now)
          | none => false)
        if held && d.pwr.ptCurrent != 0 && higher < d.limitA then
          d.demand (fun x => { x with ptCurrent := x.ptCurrent - 1, lowCurrent := [(0, d.now), (1, d.now)] })
        else { d with pwr := { d.pwr with lowCurrent := low } }
def execCurrentReading (rail : Nat) (amps : Option Nat) (higher : Nat) (s : State) : Host.Outcome State Fault Refusal :=
  onUnit (fun _ => decide (rail < 2)) (currentOp rail amps higher) s

/-- ADAPTIVE_VOLTAGE: every 100 µs a Tree die's monitors ask for a rail step of 5 mV up or down, or none. -/
def adaptiveOp (die : Nat) (up : Option Bool) (d : Dev) : Dev :=
  if !d.alive || d.pwr.avsDead || decide (d.now < Tab.getD d.pwr.adaptAt die 0 + usCycles 100) then d
  else
    let d : Dev := { d with pwr := { d.pwr with adaptAt := Tab.set d.pwr.adaptAt die d.now } }
    let mv := d.fd (R.pwrVdd die) 9 0
    match up with
    | some true => if mv + 5 ≤ 800 && d.fd (R.pwrVdd die) 26 16 + 20 ≤ d.limitA then d.setFd (R.pwrVdd die) 9 0 (mv + 5) else d
    | some false => if 605 ≤ mv then d.setFd (R.pwrVdd die) 9 0 (mv - 5) else d
    | none => d
def execAdaptiveVoltage (die : Nat) (up : Option Bool) (s : State) : Host.Outcome State Fault Refusal :=
  onUnit (fun _ => decide (die < 2)) (adaptiveOp die up) s

/-! Shedding load, and the power-fail sequence (R380, R575). -/

/-- Load shedding begins: every controlled consumer stops, and the Buckle tiles stop transmitting. -/
def Dev.shedStart (d : Dev) : Dev :=
  if d.pwr.shedAt.isSome then d
  else
    let d : Dev := { d with pwr := { d.pwr with shedAt := some d.now }, fab := { d.fab with dark := true } }
    (d.bump pgPwr 0 13).portsDown (List.range 32)

/-- Steps 1 and 2 of R380, timed from `t`: the debt is taken, reads in flight are abandoned, load is shed. -/
def Dev.flushStart (d : Dev) (t : Nat) : Dev :=
  if d.flushing || d.pins.holdupDone || d.pwr.stopped then d
  else
    let ch := d.flash.ch.map (fun (e : Nat × Channel) => (e.1, { e.2 with reads := [] }))
    let d : Dev := { d with flash := { d.flash with flushFrom := t, flushDebt := d.holdDebt, ch := ch } }
    (d.setFd R.holdupStat 1 1 1).shedStart

/-- PWR_FAIL_N_FALL, taken at the end of the low pulse or of its first µs (R379): a pulse under 1 µs is ignored and counted. -/
def pwrFailOp (ns : Nat) (d : Dev) : Dev :=
  if !d.pins.resetN || d.flushing || d.pins.holdupDone || d.pwr.stopped then d
  else if ns < 1000 then d.bump pgHoldup 0 6
  else ({ d with pins := { d.pins with pwrFailN := false } } : Dev).flushStart (d.now - usCycles 1)
def execPwrFailNFall (ns : Nat) (s : State) : Host.Outcome State Fault Refusal := onDev (pwrFailOp ns) s

/-- SHED_COMPLETE: 100 µs after shedding began, the stacks are in self-refresh; with RESET_N low, internal reset takes effect (R569). -/
def shedDoneOp (d : Dev) : Dev :=
  match d.pwr.shedAt with
  | none => d
  | some t =>
    if d.pwr.shed || decide (d.now < t + usCycles 100) then d
    else
      let st := (List.range 16).foldl (fun (k : Tab Stack) n => Tab.upd k n {} (fun x => { x with selfRefresh := true })) d.hide.stackTab
      { d with hide := { d.hide with stackTab := st },
               pwr := { d.pwr with shed := true, env := 0, est := 0, filler := false, stopped := d.pwr.stopped || !d.pins.resetN } }
def execShedComplete (s : State) : Host.Outcome State Fault Refusal := onDev shedDoneOp s

/-- Program pending units in SLC mode into an erased block of a die (R380 step 4); its pages carry no parity. -/
def Channel.flushBlock (x : Channel) (now die : Nat) (us : List Nat) : Channel :=
  match x.bestFree die with
  | none => x
  | some k =>
    let b := { x.block k with st := .verified, set := 0, pages := ceilDiv us.length 4, openedAt := x.order, dest := [], emptied := false }
    (us.zipIdx).foldl (fun (x : Channel) u => x.mapSet now u.1 (32768 * k + u.2)) { x.setBlock k b with order := x.order + 1 }
/-- What a die has pending after its programs in progress, or what is lost of it where it does not answer (R373, R380, R382). -/
def Channel.flushDie (x : Channel) (now : Nat) (silent : Bool) (die : Nat) : Channel :=
  let mine := x.progs.filter (fun p => p.die == die)
  let x := if silent then x else mine.foldl (fun x p => x.programmed now p) x
  let us := ((x.pend.filter (fun u => u.die == die)).map (fun u => u.unit)).eraseDups
  if silent then { x with lost := us.foldl insNat x.lost }
  else
    let n := 4 * max (x.pagesOf 0) 1
    (List.range (ceilDiv us.length n)).foldl (fun x i => x.flushBlock now die ((us.drop (n * i)).take n)) x
/-- What the flush leaves of a channel: `silent` lists its dies that do not answer. -/
def Channel.flushed (x : Channel) (now : Nat) (silent : List Nat) : Channel :=
  let x := (List.range x.dies).foldl (fun (x : Channel) i => x.flushDie now (silent.contains i) i) x
  { x with pend := [], progs := [], stripes := [] }

/-- Dies of a channel that do not answer a flush: which ones is left open (log entry 21). -/
def Dev.muteDies (d : Dev) (c : Nat) : List Nat := (List.range 16).filter (fun i => d.free (16 * c + i) % 2 == 1)

/-- FLUSH_DONE (R380 steps 5 and 6): every accepted unit is durable, each die that answers holds its record, the channels are write-protected
and deselected, HOLDUP_DONE rises; the device does nothing more until RESET_N (R381). The pages of a die that does not answer are lost and
its record is missing (R373, R382). -/
def flushDoneOp (d : Dev) : Dev :=
  if !d.flushing || d.pwr.stopped then d
  else
    let miss := d.flash.ch.any (fun e => (d.muteDies e.1).any (fun i => decide (i < e.2.dies)))
    let ch := d.flash.ch.map (fun (e : Nat × Channel) => (e.1, e.2.flushed d.now (d.muteDies e.1)))
    let d : Dev := { d.drawn with flash := { d.flash with record := some (ceilDiv (d.now - d.flash.flushFrom) 1600, d.flash.flushDebt), recordMissing := miss, ch := ch } }
    let d := (d.setCurState 4).setFd R.holdupStat 1 1 0
    { d with pins := { d.pins with flWpN := false, flCe := false, holdupDone := true }, pwr := { d.pwr with stopped := true } }
def execFlushDone (s : State) : Host.Outcome State Fault Refusal := onDev flushDoneOp s

/-- RESET_N_FALL: a low pulse of up to 1 µs is ignored; a longer one sheds load and leads to a cold reset (R569). -/
def resetFallOp (ns : Nat) (d : Dev) : Dev :=
  if !d.pins.resetN || ns ≤ 1000 then d
  else ({ d with pins := { d.pins with resetN := false } } : Dev).shedStart
def execResetNFall (ns : Nat) (s : State) : Host.Outcome State Fault Refusal := onDev (resetFallOp ns) s

/-! Lost clocks (R565). -/

/-- REFCLK_LOSS: 0 the 100 MHz reference; 1 and 2 the ACLK PLL of TREE_0 and TREE_1, 3 NCLK, 4 HCLK, 5 BCLK. -/
def refclkLossOp (which : Nat) (d : Dev) : Dev :=
  if d.pwr.stopped then d
  else
    let d := if which = 0 then (d.setInt pgClk 1).bump pgClk 0 1 else (d.setInt pgClk 0).bump pgClk 0 0
    let d := ((d.errBit pgClk 0 0).fatal pgClk 0 0).shedStart
    { d with pwr := { d.pwr with stopped := true, lost := d.pwr.lost ||| 2 ^ (if which = 0 then 8 else which - 1) } }
def execRefclkLoss (which : Nat) (s : State) : Host.Outcome State Fault Refusal := onUnit (fun _ => decide (which < 6)) (refclkLossOp which) s

/-- A PLL that the package goes on without: interrupt, counter, EVENT record. -/
def Dev.pllLost (d : Dev) : Dev := ((d.setInt pgClk 0).bump pgClk 0 0).rasEvent 4 0 pgClk 0

/-- HIDE_PLL_LOSS: SCLK or WCLK of stack n. -/
def hidePllOp (n : Nat) (d : Dev) : Dev := if d.pwr.stopped then d else d.pllLost.stackDown n
def execHidePllLoss (stack : Nat) (s : State) : Host.Outcome State Fault Refusal := onUnit (fun _ => decide (stack < 16)) (hidePllOp stack) s

/-- FCLK_PLL_LOSS: the eight channels of a group go out of service with cause 3. -/
def fclkPllOp (g : Nat) (d : Dev) : Dev :=
  if d.pwr.stopped then d
  else
    let d := (List.range 8).foldl (fun d i => d.channelOut (8 * g + i) 3) d.pllLost
    { d with pwr := { d.pwr with lost := d.pwr.lost ||| 2 ^ 5 } }
def execFclkPllLoss (group : Nat) (s : State) : Host.Outcome State Fault Refusal :=
  onUnit (fun d => decide (8 * group < d.part.channels)) (fclkPllOp group) s

/-- FREF_LOSS: FREF_156 absent for 1 µs: every port DOWN, the management link drops. -/
def frefLossOp (fu : Fuses) (d : Dev) : Dev :=
  if d.pwr.stopped || d.pwr.frefGone then d
  else
    let d := ((d.setInt pgClk 1).bump pgClk 0 1).rasEvent 4 1 pgClk 0
    let d : Dev := { d with pwr := { d.pwr with frefGone := true } }
    linkChangeOp false fu (d.portsDown (List.range 32))
def execFrefLoss (s : State) : Host.Outcome State Fault Refusal := onFuses frefLossOp s

/-- FREF_RESTORED: FREF_156 present for 1 ms: the ports train again. -/
def frefBackOp (d : Dev) : Dev :=
  if d.pwr.stopped || !d.pwr.frefGone then d
  else ({ d with pwr := { d.pwr with frefGone := false } } : Dev).portsTrain (List.range 32)
def execFrefRestored (s : State) : Host.Outcome State Fault Refusal := onDev frefBackOp s

/-! Temperatures (R578 to R580). Sensors read in signed quarters of a °C. -/

/-- A 16-bit two's complement field, and its value. -/
def s16put (t : Int) : Nat := (t % 65536).toNat
def s16get (n : Nat) : Int := if n < 32768 then n else (n : Int) - 65536
/-- Last reading of a sensor. -/
def Dev.temp (d : Dev) (i : Nat) : Int := s16get (Tab.getD d.pwr.temps i 0)
/-- Some sensor of a range is at or above c °C. -/
def hotIn (t : Nat → Int) (lo n c : Nat) : Bool := (List.range n).any (fun i => decide (4 * (c : Int) ≤ t (lo + i)))

/-- The Tree throttle: one point lower per ms while hot; one higher per ms after 10 ms 3 °C below. -/
def Dev.treeThrottle (d : Dev) (was : Bool) (t : Nat → Int) : Dev :=
  let hot := hotIn t 0 32 d.treeC
  let due := match d.pwr.lastTStep with
    | some s => decide (s + msCycles 1 ≤ d.now)
    | none => true
  if hot then
    let d := if was then d else d.rasEvent 4 0 pgPwr 0
    let d : Dev := { d with pwr := { d.pwr with coolTree := none } }
    let p := d.point
    let d := d.setInt pgPwr 0
    if due && p < 7 then (d.bump pgPwr 0 10).demand (fun x => { x with ptThermal := p + 1, lastTStep := some d.now }) else d
  else if hotIn t 0 32 (d.treeC - 3) then { d with pwr := { d.pwr with coolTree := none } }
  else
    let s := d.pwr.coolTree.getD d.now
    let d : Dev := { d with pwr := { d.pwr with coolTree := some s } }
    if due && d.pwr.ptThermal != 0 && s + msCycles 10 ≤ d.now then
      d.demand (fun x => { x with ptThermal := x.ptThermal - 1, lastTStep := some d.now })
    else d

/-- The throttle of stack n: half rate while hot, and until 10 ms 3 °C below. -/
def Dev.stackThrottle (d : Dev) (t : Nat → Int) (n : Nat) : Dev :=
  let v := t (40 + n)
  if 4 * (d.stackC : Int) ≤ v then
    let d := if d.pwr.hot.contains n then d else ((d.rasEvent 4 0 (0xC0 + n) 0).setInt pgPwr 0).setInt (0xC0 + n) 1
    { d with pwr := { d.pwr with hot := insNat d.pwr.hot n, coolStack := Tab.del d.pwr.coolStack n } }
  else if !d.pwr.hot.contains n then d
  else if 4 * (d.stackC : Int) - 12 ≤ v then { d with pwr := { d.pwr with coolStack := Tab.del d.pwr.coolStack n } }
  else
    let s := Tab.getD d.pwr.coolStack n d.now
    if s + msCycles 10 ≤ d.now then
      { d with pwr := { d.pwr with hot := delNat d.pwr.hot n, coolStack := Tab.del d.pwr.coolStack n } }
    else { d with pwr := { d.pwr with coolStack := Tab.set d.pwr.coolStack n s } }

/-- The limits of tile b: TILE_HOT at TILE_C; ports DOWN from 85 °C until below 80 °C. -/
def Dev.tileThrottle (d : Dev) (old t : Nat → Int) (b : Nat) : Dev :=
  let c := 4 * (d.tileC : Int)
  let mine := (List.range d.ports).filter (fun p => d.tileOf p == b)
  let d := if c ≤ t (56 + b) then
      let d := d.setInt (pgBuckle + b) 1
      if c ≤ old (56 + b) then d else (d.rasEvent 4 1 (pgBuckle + b) 0).bump (pgBuckle + b) 0 4
    else d
  if 340 ≤ t (56 + b) then ({ d with pwr := { d.pwr with hotTile := insNat d.pwr.hotTile b } } : Dev).portsDown mine
  else if t (56 + b) < 320 && d.pwr.hotTile.contains b then
    ({ d with pwr := { d.pwr with hotTile := delNat d.pwr.hotTile b } } : Dev).portsTrain mine
  else d

/-- The trip (R580): a FATAL record, THERM_TRIP_N low, the power-fail sequence. -/
def Dev.thermTrip (d : Dev) (t : Nat → Int) : Dev :=
  if d.pwr.tripped || !(hotIn t 0 40 115 || hotIn t 40 16 105) then d
  else
    let d := d.fatal pgPwr 0 0
    ({ d with pwr := { d.pwr with tripped := true }, pins := { d.pins with thermTripN := false } } : Dev).flushStart d.now

/-- What follows readings `t` of the sensors where the last ones were `old` (R332, R578 to R580). -/
def Dev.thermActs (d : Dev) (old t : Nat → Int) : Dev :=
  let d := (List.range 16).foldl (fun (d : Dev) n => d.setFd R.hideStat 15 8 (min (t (40 + n) / 4).toNat 255) n) d
  let d := (List.range 16).foldl (fun (d : Dev) n => d.setFd R.hideStat 17 16 (Config.free [0, 332, n, Tab.getD d.pwr.temps (40 + n) 0] % 3) n) d
  let d := d.thermTrip t
  let d := d.treeThrottle (hotIn old 0 32 d.treeC) t
  let d := (List.range 16).foldl (fun (d : Dev) n => d.stackThrottle t n) d
  let d := if hotIn t 32 8 100 then
      let d := d.setInt pgPwr 2
      if hotIn old 32 8 100 then d else d.rasEvent 4 2 pgPwr 0
    else d
  (List.range 4).foldl (fun (d : Dev) b => d.tileThrottle old t b) d

/-- THERMAL_READ: every 100 µs the device reads its 60 sensors. -/
def thermalOp (temps : List Int) (d : Dev) : Dev :=
  if !d.pins.resetN || d.pwr.stopped || temps.length != 60 || decide (d.now < d.pwr.thermAt + usCycles 100) then d
  else
    let t := fun i => s16get (s16put (temps.getD i 0))
    let put := (List.range 60).foldl (fun (k : Tab Nat) i => Tab.set k i (s16put (t i))) d.pwr.temps
    let peak := (List.range 60).foldl (fun (k : Tab Nat) i => if s16get (Tab.getD k i (s16put (t i))) ≤ t i then Tab.set k i (s16put (t i)) else k) d.pwr.peak
    ({ d with pwr := { d.pwr with temps := put, peak := peak, thermAt := d.now } } : Dev).thermActs d.temp t
def execThermalRead (temps : List Int) (s : State) : Host.Outcome State Fault Refusal := onDev (thermalOp temps) s

end Sys2Proof.Machine
end

