-- ==== Sys2Proof/Machine/RegRead.lean ====
section
/-! DEFINITION. What a register reads (R15, R52 to R60 and each chapter's register page): stored values, and values that follow from other
state. -/

namespace Sys2Proof.Machine
open Sys2Proof

/-! Pages and capabilities (R6, R52, R55). -/

/-- The page exists: a page past the part's units, and pages 16 to 31 of LINK_PORT and REIN with eight lanes to a port, are reserved. -/
def Dev.pageUnit (d : Dev) (p : Nat) : Option (Blk × Nat) :=
  match blkOfPage p with
  | some (b, n) =>
    let ok := match b with
      | .engine => decide (n < d.part.engines)
      | .skiver => decide (n < d.part.engines)
      | .edger => decide (n < d.part.channels)
      | .rein => if n < 32 then decide (n < d.ports) else if n < 80 then decide (n - 32 < d.part.channels) else true
      | .link => decide (n < d.ports)
      | _ => true
    if ok then some (b, n) else none
  | none => none

/-- BLK_CAP.CAP of each block's chapter. -/
def Dev.blkCap (d : Dev) (b : Blk) (n : Nat) : Nat :=
  let lanes := if d.eight then 8 else 4
  match b with
  | .clk => 8
  | .pwr => 60
  | .ras => 64
  | .brand => 4 + 8 * 2 ^ 3
  | .mgmt => 16 + 2 ^ 5
  | .holdup => 28
  | .ctxPool => 0
  | .tack => 25 + 64 * 2 ^ 5 + 64 * 2 ^ 12
  | .latigo => 16 + 16 * 2 ^ 5 + 4 * 2 ^ 10 + 32 * 2 ^ 13
  | .currier => d.part.channels + 16 * 2 ^ 6 + 3 * 2 ^ 11
  | .saddle => 4 + 64 * 2 ^ 4 + 16 * 2 ^ 11 + 4 * 2 ^ 16
  | .seatCtl => 32
  | .treeCore => d.part.perCore + 48 * 2 ^ 4 + 16 * 2 ^ 12
  | .keeper => 32 + 64 * 2 ^ 6 + 5 * 2 ^ 13
  | .lacing => 16 + 8 * 2 ^ 8 + 128 * 2 ^ 12
  | .engine => 9 + 9 * 2 ^ 4 + 8 * 2 ^ 8 + 2 ^ 16 + 2 ^ 17
  | .skiver => 16 + 16 * 2 ^ 5 + 2 ^ 10 + 2 ^ 11
  | .hideCtl => 64 + 32 * 2 ^ 8 + 2 * 2 ^ 14
  | .awl => 512 + 32 * 2 ^ 10
  | .edger => 8 + 8 * 2 ^ 4 + 64 * 2 ^ 12
  | .rein => (if n < 32 then 0 else if n < 80 then 1 else 2) + 4 * 2 ^ 2 + 1024 * 2 ^ 5
  | .link => lanes + 8 * 2 ^ 4 + lanes * 2 ^ 8
  | .buckle => 32 + 4 * 2 ^ 6
  | .fn => 8 + 8 * 2 ^ 4

/-- The block holds accepted work that has not finished (BLK_STAT.BUSY). -/
def Dev.blkBusy (d : Dev) (b : Blk) (n : Nat) : Bool :=
  let eng := fun (e : Nat) => (d.engine e).owner == .kernel || (d.engine e).owner == .group
  match b with
  | .ras => d.ras.zeroing.isSome
  | .brand => d.brd.op.isSome
  | .holdup => d.flushing
  | .ctxPool => !d.cp.held.isEmpty || !d.upd.seals.isEmpty || !d.upd.rebuilds.isEmpty
  | .tack => !d.tack.migs.isEmpty || !d.tack.pins.isEmpty || !d.tack.waits.isEmpty
  | .latigo => !d.lat.busy.isEmpty || !d.lat.movers.isEmpty || !d.lat.leaseCmds.isEmpty || !d.lat.held.isEmpty
  | .currier => d.curState == 3 || d.flash.ch.any (fun e => !e.2.pend.isEmpty || !e.2.progs.isEmpty || !e.2.reads.isEmpty)
  | .saddle => d.sb.reqs.any (fun e => e.2.inst == n)
  | .treeCore => (List.range d.part.perCore).any (fun p => eng (d.engAt n p))
  | .keeper => !(d.chainsIn n).isEmpty
  | .lacing => d.srch.queries.any (fun e => e.2.slot && e.2.lac == n)
  | .engine => eng n
  | .skiver => eng n
  | .hideCtl => !(d.stack n).stitches.isEmpty
  | .awl => !(d.stack n).stitches.isEmpty
  | .edger => (match d.chan? n with
    | some x => !x.edger.isEmpty
    | none => false)
  | .rein => (Tab.vals (d.rein n).queues).any (fun q => !q.items.isEmpty) || (Tab.vals (d.rein n).strict).any (fun l => !l.isEmpty)
  | .link => !(d.port n).replay.isEmpty
  | .buckle => n == 0 && !d.fab.tp.tags.isEmpty
  | .fn => d.cp.held.any (fun e => e.2.fn == n)
  | _ => false

/-- STATE of an engine that works (R256): STOPPING, RUNNING or LOADING, by where its program or kernel stands. -/
def Dev.engState (d : Dev) (e : Nat) : Nat :=
  let x := d.engine e
  if x.stopping then 10 else if x.owner == .group && d.now < x.readyAt then 8 else 9

/-- BLK_STAT (R55, R256, R352, R475, R598). -/
def Dev.blkStat (d : Dev) (b : Blk) (n : Nat) : Nat :=
  let busy := d.blkBusy b n
  let p := b.page n
  let on := if b == .fn then (d.fn n).st != .disabled else d.enabled p
  let st := if (b == .fn && (d.fn n).softReset) || d.resetting.contains p then 4
    else if (b == .hideCtl || b == .awl) && d.stackOut n then 5
    else if d.frozen p then 3
    else if b == .engine && busy then d.engState n
    else if busy then 2 else if on then 1 else 0
  st + 16 * b2n busy

/-! Select registers. -/

/-- RQ_SEL of a master at REIN_i (R491). -/
def rqKey (m : Master) (i : Nat) : Nat := 2 ^ 20 * m.index + i
def Dev.rqSelOf (d : Dev) (m : Master) (i : Nat) : Nat := Tab.getD d.rqSel (rqKey m i) 0

/-- The select value that a banked register of a page shows. -/
def Dev.selOf (d : Dev) (m : Master) (b : Blk) (n off : Nat) : Nat :=
  match b with
  | .tack => if off = 0x154 then d.fd R.quotaSel 17 16 * 1024 + d.fd R.quotaSel 9 0 else d.fd R.nbrSel 5 0
  | .latigo => if off < 0x130 then d.fd R.latWinSel 3 0 else if off < 0x160 then d.fd R.latExpSel 7 0 else d.fd R.nwinSel 9 0
  | .rein => d.rqSelOf m n
  | .buckle => d.fd R.fabRouteSel 11 0
  | _ => 0

/-! Shadows (R59). -/

/-- Shadow of a register for a master. -/
def shKey (m : Master) (p off : Nat) : Nat := 2 ^ 32 * m.index + keyOf p off
def Dev.shadowOf (d : Dev) (m : Master) (p off : Nat) : Word := Tab.getD d.shadow (shKey m p off) 0
def Dev.setShadow (d : Dev) (m : Master) (p off : Nat) (v : Word) : Dev := { d with shadow := Tab.set d.shadow (shKey m p off) v }

/-! Counters. -/

/-- The counter at position i of the bank that CNT_SEL shows; a position that is not defined never counts and reads zero. -/
def Dev.shownCnt (d : Dev) (m : Master) (b : Blk) (n i : Nat) : Nat :=
  let p := b.page n
  let bank := fld (d.pg p R.cntSel) 7 0
  if b == .rein && bank = 1 then (if i < 6 then Tab.getD d.cnts (fnCntKey n (d.rqSelOf m n) i) 0 else 0)
  else if b == .ras && bank = 1 then (if i < 16 then Tab.getD d.ras.hideUe i 0 else 0)
  else d.cnt p bank i

/-! Read-only fields that follow from other state, by block: offset to value. -/

/-- LOW_MARK of CTX_FREE and the contexts free. -/
def Dev.ctxFree (d : Dev) : Nat := 4096 - d.cp.held.length
/-- Handles whose descriptor memory holds a byte of. -/
def Dev.tblHandles (d : Dev) : List Nat :=
  ((d.mem.cells.filter (fun e => decide (d.tblBase ≤ e.1) && decide (e.1 < d.tblBase + 2 ^ 23))).map (fun e => (e.1 - d.tblBase) / 128)).eraseDups
/-- TBL_STAT. -/
def Dev.tblStat (d : Dev) : Nat :=
  let ts := d.tblHandles.map (fun h => d.tdesc h)
  let ret := (ts.map (fun t => (t.slots.filter (fun s => s.st == 3)).length)).foldl (· + ·) 0
  sat 16 ret + 65536 * sat 16 (ts.filter (fun t => t.st == 1)).length

def Dev.roCtx (d : Dev) (off : Nat) : Option Nat :=
  if off = 0x108 then some (d.ctxFree + 65536 * min d.cp.lowMark d.ctxFree)
  else if off = 0x118 then some d.tblStat
  else none

/-- State code of a function (FN_STAT). -/
def FnState.code : FnState → Nat
  | .disabled => 0 | .enabled => 1 | .quiescing => 2 | .draining => 3 | .clean => 4

def Dev.roFn (d : Dev) (f off : Nat) : Option Nat :=
  let x := d.fn f
  if off = 0x100 then some ((d.rg R.fnCtl f).toNat ||| (2 * b2n (x.st == .draining)))
  else if off = 0x104 then some (x.st.code + 8 * b2n x.pendingEnable + 65536 * x.inc)
  else if off = 0x108 then some (d.cp.held.filter (fun e => e.2.fn == f)).length
  else if off = 0x110 then some (sat 16 x.lastUs + 65536 * sat 16 x.cancelled)
  else if off = 0x124 then some (sat 8 (x.bucket / 1600000) + 256 * x.queue.length + 32768 * b2n x.overflow)
  else none

def Dev.roRein (d : Dev) (m : Master) (i off : Nat) : Option Nat :=
  let r := d.rein i
  let f := d.rqSelOf m i
  if off = 0x108 then some (d.shadowOf m (pgRein i) 0x108).toNat
  else if off = 0x110 then some f
  else if off = 0x128 then
    let q := r.q f
    let c := match q.items with
      | [] => 0
      | it :: _ => match d.colour i f it.cost with
        | .green => 1
        | .yellow => 2
        | .red => 3
    some (sat 16 q.items.length + 65536 * c)
  else if off = 0x130 then some (((List.range 4).map (fun k => sat 8 (Tab.getD r.strict k []).length * 2 ^ (8 * k))).foldl (· + ·) 0)
  else none

/-- Segments of Keeper k that are in no chain; a 64-segment chain takes all of both Keepers of a core. -/
def Dev.freeSegs (d : Dev) (k : Nat) : Nat := 32 - ((d.chainsIn k).map (fun c => min c.2 32)).foldl (· + ·) 0

def Dev.roKeeper (d : Dev) (k off : Nat) : Option Nat :=
  if off = 0x104 then some (d.freeSegs k + 256 * (d.chainsIn k).length + 65536 * b2n (d.widePending k))
  else none

def Dev.roLacing (d : Dev) (l off : Nat) : Option Nat :=
  if off = 0x104 then some (16 - (d.srch.queries.filter (fun e => e.2.slot && e.2.lac == l)).length) else none

def Dev.roEngine (d : Dev) (e off : Nat) : Option Nat :=
  let x := d.engine e
  if off = 0x100 then
    let o := match x.owner with
      | .idle => 0 | .kernel => 1 | .group => 2 | .reserved => 3
    some (o + 4 * (if x.owner == .idle then 0 else x.ctx % 4096) + 65536 * (x.tokens.map (fun t => 2 ^ t)).foldl (· ||| ·) 0)
  else if off = 0x104 then some (x.pc % 2 ^ 14 + 2 ^ 31 * b2n x.stalled)
  else none

def Dev.roCore (d : Dev) (c off : Nat) : Option Nat :=
  let ps := List.range d.part.perCore
  let who := fun (o : EngOwner) => (ps.map (fun p => if (d.engine (d.engAt c p)).owner == o then 2 ^ p else 0)).foldl (· + ·) 0
  if off = 0x104 then some (who .idle + 256 * who .reserved)
  else if 0x110 ≤ off && off < 0x150 then
    let x := d.bar c ((off - 0x110) / 4)
    some (x.mask + 256 * (x.arrived ||| x.ended) + 65536 * (x.gen % 256))
  else none

def Dev.roSkiver (d : Dev) (m : Master) (e off : Nat) : Option Nat :=
  let s := Tab.getD d.eng.slots (16 * e + d.fd R.skvSlotSel 3 0 e) {}
  if off = 0x104 then some (d.shadowOf m (pgSkv e) 0x104).toNat
  else if off = 0x10C then some s.histMax.toNat
  else if off = 0x110 then some s.scale.toNat
  else if off = 0x114 then some (s.count + 32 * s.depth)
  else none

def Dev.roTack (d : Dev) (m : Master) (off : Nat) : Option Nat :=
  if off = 0x140 then some (Tab.getD d.tack.allocFn m.index 0 % 1024)
  else if off = 0x14C then some (Tab.getD d.tack.result m.index 0).toNat
  else if off = 0x158 then some (sat 32 (d.quotaUsed (d.fd R.quotaSel 9 0) (d.fd R.quotaSel 17 16)))
  else if off = 0x174 then
    some (match Tab.find? d.tack.nbr (d.fd R.nbrSel 5 0) with
      | some x => (match x.st with
        | .free => 0 | .active => 256 | .losing => 512)
      | none => 0)
  else none

/-- HIDE_MR_DATA shows what HIDE_CTL wrote to a mode register of the stack; which values training writes there is left open. -/
def Dev.roHide (d : Dev) (n off : Nat) : Option Nat :=
  if off = 0x10C then some (if d.brd.hideTrained then Config.free [0, 353, n, d.fd R.hideMrSel 7 0 n] % 256 else 0) else none

def Dev.roAwl (d : Dev) (n off : Nat) : Option Nat :=
  if off = 0x104 then some ((d.stack n).stitches.length + 65536 * (2048 - d.tombHeld n)) else none

def Dev.roCurrier (d : Dev) (off : Nat) : Option Nat :=
  let c := d.fd R.curChSel 5 0
  if off = 0x118 then some (d.curState + 16 * (d.flash.ch.filter (fun e => e.2.inService)).length)
  else if off = 0x124 || off = 0x128 || off = 0x12C then
    match d.chan? c with
    | none => some 0
    | some x =>
      if off = 0x128 then some (sat 32 x.luCount)
      else if off = 0x12C then some (sat 16 (d.nSlc x) + 65536 * sat 16 x.slcUsed)
      else
        let free := ((List.range x.dies).map (fun i => x.freeOn i)).foldl (· + ·) 0
        some (b2n x.inService + 2 * x.dies + 64 * b2n x.qlc + 128 * b2n x.twoTbit + 256 * x.outCause + 65536 * sat 16 free)
  else none

def Dev.roHoldup (d : Dev) (off : Nat) : Option Nat :=
  if off = 0x104 then some (sat 32 d.holdDebt)
  else if off = 0x114 then some (b2n (!d.flash.waiting.isEmpty) + 2 * b2n d.flushing + 65536 * sat 12 d.holdDepth)
  else none

def Dev.roEdger (d : Dev) (c off : Nat) : Option Nat :=
  if off = 0x100 then
    match d.chan? c with
    | some x => some (x.edger.length + 256 * (512 - (x.edger.map (fun u => u.tombKib)).foldl (· + ·) 0))
    | none => some (256 * 512)
  else none

def Dev.roSaddle (d : Dev) (i off : Nat) : Option Nat :=
  if off = 0x114 then some ((d.sbInst i).fills.length + 256 * sat 12 (d.sb.reqs.filter (fun e => e.2.inst == i)).length) else none

/-- State code of a link (LNK_STAT). -/
def LinkState.code : LinkState → Nat
  | .down => 0 | .training => 1 | .up => 2 | .retrain => 3 | .failed => 4

def Dev.roLink (d : Dev) (p off : Nat) : Option Nat :=
  let x := d.port p
  if off = 0x104 then some (x.st.code + 65536 * sat 16 x.rttNs)
  else if off = 0x108 then some (x.txNext + 65536 * x.rxExpect)
  else if 0x110 ≤ off && off < 0x130 then some (d.rxAlloc p ((off - 0x110) / 4) + 65536 * sat 16 (x.credits ((off - 0x110) / 4)))
  else none

/-- Code of this node's composition state (CMP_STAT). -/
def Dev.roBuckle (d : Dev) (n off : Nat) : Option Nat :=
  if n != 0 then none
  else if off = 0x20C then some d.fab.tp.tags.length
  else if off = 0x300 then some (d.cmp.st.code + 8 * b2n d.cmp.old.isSome + 65536 * d.curGen)
  else if off = 0x304 then
    some (match d.cmp.old with
      | some g => g.gen + 65536 * sat 16 (d.inFlight g.gen)
      | none => 0)
  else if off = 0x308 then some (if d.cmp.st == .fenced || d.cmp.cur.isNone then d.cmp.fencedAt else d.ownFence)
  else if off = 0x324 then some (d.admEntry (d.fd R.admSel 11 0)).1
  else if off = 0x328 then some (d.admEntry (d.fd R.admSel 11 0)).2
  else if off = 0x32C then some (d.cmp.progress % 2 ^ 32)
  else none

def Dev.roLatigo (d : Dev) (m : Master) (off : Nat) : Option Nat :=
  if off = 0x140 then
    let e := d.fd R.latExpSel 7 0
    some ((d.rgb R.latExpCtl e).toNat + 256 * ((Tab.keys d.lat.slots).filter (fun k => k / 64 == e)).length)
  else if off = 0x174 then some (d.shadowOf m pgLat 0x174).toNat
  else if off = 0x178 then some ((d.rg R.latSuspect).toNat + 2 ^ 17 * b2n (d.lat.suspects.contains (d.fd R.latSuspect 15 0)))
  else none

def Dev.roRas (d : Dev) (m : Master) (off : Nat) : Option Nat :=
  if off = 0x100 then some (d.ras.queue.length + (d.rg R.rasStat).toNat)
  else if 0x114 ≤ off && off < 0x130 then some (d.shadowOf m pgRas off).toNat
  else if off = 0x14C then some ((d.rg R.rasZeroCtl).toNat ||| b2n d.ras.zeroing.isSome)
  else none

/-- 1 while a Brand operation of a kind runs: its START reads 1. -/
def Dev.opRuns (d : Dev) (k : BrandOp → Bool) : Nat :=
  match d.brd.op with
  | some o => b2n (k o)
  | none => 0

def Dev.roBrand (d : Dev) (fu : Fuses) (off : Nat) : Option Nat :=
  if off = 0x104 then some (fu.progBits + 16 * fu.revBits + 256 * (fu.arb % 128) + 32768 * b2n fu.debugLock)
  else if off = 0x118 then some ((d.rg R.brdKeyProg).toNat ||| 256 * d.opRuns (fun o => match o with
    | .keyProg _ _ => true
    | _ => false))
  else if off = 0x128 then some ((d.rg R.brdExtend).toNat ||| 256 * d.opRuns (fun o => match o with
    | .extend _ _ => true
    | _ => false))
  else if off = 0x138 then some ((d.rg R.brdQuote).toNat ||| d.opRuns (fun o => match o with
    | .quote _ => true
    | _ => false))
  else if 0x140 ≤ off && off < 0x160 then some (leAt fu.idPub (off - 0x140) 4)
  else if 0x180 ≤ off && off < 0x1C0 then some (leAt (d.mr (d.fd R.brdMrSel 2 0)) (off - 0x180) 4)
  else none

def Dev.roMgmt (d : Dev) (fu : Fuses) (m : Master) (off : Nat) : Option Nat :=
  if off = 0x108 then some (fu.mac % 2 ^ 32)
  else if off = 0x10C then some (fu.mac / 2 ^ 32 % 2 ^ 16)
  else if off = 0x204 then some ((d.brd.running.map (fun c => 2 ^ c)).foldl (· ||| ·) 0)
  else if 0x400 ≤ off && off < 0x500 then
    let c := (off - 0x400) / 16
    if off % 16 = 4 then some (d.shadowOf m pgMgmt off).toNat
    else if off % 16 = 8 then some ((Tab.getD d.mgmt.inbox c []).length + (d.rg (R.ccInboxStat c)).toNat)
    else none
  else none

/-- Bits of CLK_STAT: everything that runs is locked and present. -/
def Dev.clkLocks (d : Dev) : Nat :=
  let all := if d.pins.resetN then 0x3FF else 0
  all &&& (0x3FF ^^^ (d.pwr.lost ||| (if d.pwr.frefGone then 0x280 else 0)))

/-- CLK_MEAS in kHz: domains made from the 100 MHz reference at their nominal ratio (R563, R570); those of FREF_156 as they come out against
it. -/
def Dev.measure (d : Dev) (dom : Nat) : Nat :=
  if d.pwr.stopped && dom != 3 then 0
  else if dom = 0 then 1000 * (1100 - 100 * d.point)
  else if dom = 1 then 1600000
  else if dom = 2 then 2600000
  else if dom = 3 then 1200000
  else if dom < 20 then 4800000
  else if dom = 20 then 500000
  else if dom = 21 then 1800000
  else if dom = 22 || dom = 23 then Config.free [d.draws, 582, dom] % 2 ^ 24
  else 0

def Dev.roClk (d : Dev) (off : Nat) : Option Nat :=
  if off = 0x100 then some d.clkLocks
  else if off = 0x108 then some (d.measure (d.fd R.clkMeasSel 4 0))
  else none

/-- PWR_RAMP, PWR_LIMIT and PWR_ILIM read as the nearest bound of their ranges (R46, R47, R583). -/
def Dev.roPwr (d : Dev) (off : Nat) : Option Nat :=
  if off = 0x100 then some (d.rampW + 65536 * d.rampReserve)
  else if off = 0x104 then some d.limitW
  else if off = 0x108 then some d.limitA
  else none

/-- A register that is computed when it is read. -/
def Dev.computed (d : Dev) (fu : Fuses) (m : Master) (b : Blk) (n off : Nat) : Option Nat :=
  match b with
  | .clk => d.roClk off
  | .pwr => d.roPwr off
  | .ras => d.roRas m off
  | .brand => d.roBrand fu off
  | .mgmt => d.roMgmt fu m off
  | .holdup => d.roHoldup off
  | .ctxPool => if off = 0x12C then some (d.shadowOf m pgCtx 0x12C).toNat else d.roCtx off
  | .tack => d.roTack m off
  | .latigo => d.roLatigo m off
  | .currier => d.roCurrier off
  | .saddle => d.roSaddle n off
  | .seatCtl => none
  | .treeCore => d.roCore n off
  | .keeper => d.roKeeper n off
  | .lacing => d.roLacing n off
  | .engine => d.roEngine n off
  | .skiver => d.roSkiver m n off
  | .hideCtl => d.roHide n off
  | .awl => d.roAwl n off
  | .edger => d.roEdger n off
  | .rein => d.roRein m n off
  | .link => d.roLink n off
  | .buckle => d.roBuckle n off
  | .fn => d.roFn n off

/-- The register is on the page: BUCKLE_0 alone has those from 0x0200 on (R435, R516). -/
def onPage (b : Blk) (n off : Nat) : Bool := !(b == .buckle && n != 0 && decide (0x200 ≤ off))

/-- A field bounded to a range. -/
def boundFld (v hi lo least most : Nat) : Nat := (putFld (w32 v) hi lo (min (max (fld (w32 v) hi lo) least) most)).toNat
/-- Fields that "read as the nearest bound" of their range: CUR_SLC.RES, CUR_FMT.OP_PCT, HOLDUP_BUDGET, LAT_CFG.SNP_TIMEOUT_US, LAT_LEASE.RENEW_MS,
CMP_CFG.HB_MS and FM_SILENT_MS (R388, R390, R467, R516). Of a field whose values "are read as" a bound the page keeps what was written; the
device alone takes the bound (DESIGN CHOICE, log entry 11). -/
def readAs (b : Blk) (off v : Nat) : Nat :=
  match b with
  | .currier => if off = 0x104 then boundFld v 15 8 2 64 else if off = 0x114 then boundFld v 5 0 7 50 else v
  | .holdup => if off = 0x100 then min v 30000000 else v
  | .latigo => if off = 0x100 then boundFld v 6 0 1 64 else if off = 0x148 then boundFld v 2 0 1 5 else v
  | .buckle => if off = 0x30C then boundFld (boundFld v 3 0 1 5) 12 8 2 19 else v
  | _ => v

/-- A stored register's value. -/
def Dev.storedReg (d : Dev) (m : Master) (b : Blk) (n off : Nat) : Nat :=
  match regDef? b n off with
  | some r =>
    readAs b off (if r.bank then (d.rgb ⟨b, off⟩ (d.selOf m b n off) n).toNat else (d.pg (b.page n) off).toNat)
  | none => 0

/-- The common layout (R55): the register at an offset below 0x0100. -/
def Dev.commonReg (d : Dev) (m : Master) (b : Blk) (n off : Nat) : Nat :=
  let p := b.page n
  if off = 0 then b.type * 65536 + n % 256 * 256 + d.stepping % 256
  else if off = 4 then n * 2 ^ 20 + d.blkCap b n
  else if off = 8 then (d.pg p R.blkCtl).toNat + 2 * b2n ((b == .fn && (d.fn n).softReset) || d.resetting.contains p)
  else if off = 12 then d.blkStat b n
  else if 0x48 ≤ off then
    if off % 8 = 0 then d.shownCnt m b n ((off - 0x48) / 8) % 2 ^ 32 else (d.shadowOf m p off).toNat
  else d.storedReg m b n off

/-- What a read of the register at a 4-byte offset of a page returns, before any effect of the read. -/
def Dev.regValue (d : Dev) (fu : Fuses) (m : Master) (p off : Nat) : Word :=
  match d.pageUnit p with
  | none => 0
  | some (b, n) =>
    if !onPage b n off then 0
    else if off < 0x100 then w32 (d.commonReg m b n off)
    else match d.computed fu m b n off with
      | some v => w32 v
      | none => w32 (d.storedReg m b n off)

/-! Reads with an effect. -/

/-- CNT_VAL_LO_x: the upper half goes into the master's shadow (R59). -/
def Dev.cntLatch (d : Dev) (m : Master) (b : Blk) (n off : Nat) : Dev :=
  d.setShadow m (b.page n) (off + 4) (w32 (d.shownCnt m b n ((off - 0x48) / 8) / 2 ^ 32))

/-- UPD_EVT_LO: the oldest event is returned and removed (R218). -/
def Dev.updEvtRead (d : Dev) (m : Master) : Dev × Word :=
  match d.upd.events with
  | [] => (d, 0)
  | (c, t, l) :: rest =>
    (({ d with upd := { d.upd with events := rest } } : Dev).setShadow m pgCtx 0x12C (w32 l), w32 (c % 4096 + 4096 * t + 2 ^ 31))

/-- SKV_EVT (R275). -/
def Dev.skvEvtRead (d : Dev) (m : Master) (e : Nat) : Dev × Word :=
  match Tab.getD d.eng.satEvents e [] with
  | [] => (d, 0)
  | x :: rest =>
    (({ d with eng := { d.eng with satEvents := Tab.set d.eng.satEvents e rest } } : Dev).setShadow m (pgSkv e) 0x104 (w32 (min x.sat (2 ^ 32 - 1))),
     w32 (x.slot + 16 * x.core + 128 * (x.ctx % 4096) + 2 ^ 31))

/-- LAT_EVT_LO (R467). -/
def Dev.latEvtRead (d : Dev) (m : Master) : Dev × Word :=
  match d.lat.events with
  | [] => (d, 0)
  | x :: rest =>
    (({ d with lat := { d.lat with events := rest } } : Dev).setShadow m pgLat 0x174 (w32 x.info),
     w32 (x.node % 4096 + 4096 * (x.agent % 16) + 65536 * x.typ + 2 ^ 31))

/-- RAS_REC_0 (R558): the oldest record, its bytes 4 to 31 latched. -/
def Dev.rasRecRead (d : Dev) (m : Master) : Dev × Word :=
  match d.ras.queue with
  | [] => (d, 0)
  | x :: rest =>
    let b := rasRecBytes x
    let d : Dev := { d with ras := { d.ras with queue := rest } }
    ((List.range 7).foldl (fun (d : Dev) w => d.setShadow m pgRas (0x114 + 4 * w) (w32 (leAt b (4 + 4 * w) 4))) d, w32 (leAt b 0 4))

/-- CC_INBOX_LO_c (R519): the oldest message's low word; the high word is latched. -/
def Dev.inboxRead (d : Dev) (m : Master) (c : Nat) : Dev × Word :=
  let hi := 0x404 + 16 * c
  match Tab.getD d.mgmt.inbox c [] with
  | [] => (d.setShadow m pgMgmt hi 0, 0)
  | (lo, h) :: rest =>
    (({ d with mgmt := { d.mgmt with inbox := Tab.set d.mgmt.inbox c rest } } : Dev).setShadow m pgMgmt hi h, lo)

/-- PWR_TEMP (R583): NOW and PEAK of the selected sensor; PEAK becomes NOW. -/
def Dev.tempRead (d : Dev) : Dev × Word :=
  let i := d.fd R.pwrTempSel 5 0
  let now := Tab.getD d.pwr.temps i 0
  let v := w32 (now + 65536 * Tab.getD d.pwr.peak i 0)
  (if i < 60 then { d with pwr := { d.pwr with peak := Tab.set d.pwr.peak i now } } else d, v)

/-- Read the register at a 4-byte offset of a page, as a master does. -/
def Dev.regRead (d : Dev) (fu : Fuses) (m : Master) (p off : Nat) : Dev × Word :=
  match d.pageUnit p with
  | none => (d, 0)
  | some (b, n) =>
    let v := d.regValue fu m p off
    if 0x48 ≤ off && off < 0x100 then (if off % 8 = 0 then d.cntLatch m b n off else d, v)
    else match b with
      | .ctxPool => if off = 0x108 then ({ d with cp := { d.cp with lowMark := d.ctxFree } }, v)
          else if off = 0x128 then d.updEvtRead m else (d, v)
      | .keeper => if off = 0x108 then ({ d with kpr := { d.kpr with waitMax := Tab.del d.kpr.waitMax n } }, w32 (sat 32 (Tab.getD d.kpr.waitMax n 0)))
          else (d, v)
      | .skiver => if off = 0x100 then d.skvEvtRead m n else (d, v)
      | .latigo => if off = 0x170 then d.latEvtRead m else (d, v)
      | .ras => if off = 0x110 then d.rasRecRead m else (d, v)
      | .mgmt => if 0x400 ≤ off && off < 0x500 && off % 16 = 0 then d.inboxRead m ((off - 0x400) / 16) else (d, v)
      | .rein => if off = 0x104 then (d.setShadow m p 0x108 (w32 ((d.rein n).v / 2 ^ 32)), w32 (d.rein n).v) else (d, v)
      | .pwr => if off = 0x124 then d.tempRead else (d, v)
      | _ => (d, v)

end Sys2Proof.Machine
end

