-- ==== Sys2Proof/Machine/RegWrite.lean ====
section
/-! DEFINITION. Writing registers, and the soft reset of each block (R15, R53, R55 to R58, R598, R599 and each chapter's register page). -/

namespace Sys2Proof.Machine
open Sys2Proof

/-! Interrupt and error registers (R55, R57, R58, R599). -/

/-- INT_STAT bits of a page whose condition holds (R599). -/
def Dev.condBits (d : Dev) (p : Nat) : Nat :=
  if p = pgCtx then b2n (!d.upd.events.isEmpty)
  else if p = pgRas then b2n (!d.ras.queue.isEmpty)
  else if p = pgLat then b2n (!d.lat.events.isEmpty)
  else 0

/-- A W1C write to INT_STAT: bits whose condition holds, or that were set in this cycle, stay set; a message when enabled causes remain
(R16, R57, R599). -/
def Dev.intClear (d : Dev) (p : Nat) (v : Word) : Dev :=
  let st := d.afterW1c p R.intStat v ||| w32 (d.condBits p)
  (d.setPg p R.intStat st).intAgain p

/-- A write to INT_EN: a message when (INT_STAT & INT_EN) leaves zero (R57). -/
def Dev.intEnable (d : Dev) (p : Nat) (v : Word) : Dev :=
  let st := d.pg p R.intStat
  let was := (st &&& d.pg p R.intEn) != 0
  let d := d.setPg p R.intEn v
  if was then d else d.intAgain p

/-- INT_FORCE sets the same bits of INT_STAT. It is software that sets them: the rule of R16 is not about them. -/
def Dev.intForce (d : Dev) (b : Blk) (n : Nat) (v : Word) : Dev :=
  let bits := v.toNat &&& intMaskOf b n
  let k := keyOf (b.page n) R.intStat
  let d1 := Dev.intSet 1026 d (b.page n) bits
  { d1 with fresh := Tab.set d1.fresh k ((Tab.getD d1.fresh k 0 &&& ~~~(w32 bits)) ||| Tab.getD d.fresh k 0) }

/-- CNT_SEL.CLEAR: every counter of the bank (R55, R491, R559). -/
def Dev.cntClear (d : Dev) (m : Master) (b : Blk) (n bank : Nat) : Dev :=
  if b == .ras && bank = 1 then d
  else if b == .rein && bank = 1 then
    let k := fnCntKey n (d.rqSelOf m n) 0
    { d with cnts := d.cnts.filter (fun e => e.1 / 32 != k / 32) }
  else { d with cnts := d.cnts.filter (fun e => e.1 / 32 != 256 * b.page n + bank) }

/-! Soft resets. -/

/-- Commands end with ABORTED_RESET (R598). -/
def Dev.abortAll (d : Dev) (cs : List Nat) : Dev := cs.foldl (fun d c => d.endCmd c .abortedReset) d
/-- Queries end with ABORTED_RESET. -/
def Dev.abortQueries (d : Dev) (ks : List Nat) : Dev := ks.eraseDups.foldl (fun d k => d.queryEnd k .abortedReset) d

/-- CTX_POOL: every command and sub-search; queued events are gone. -/
def Dev.ctxReset (d : Dev) : Dev :=
  let d := d.abortAll (Tab.keys d.cp.held)
  let subs := (d.srch.all.filter (fun s => s.2.origin.isSome)).map Prod.fst
  let d := subs.foldl (fun (d : Dev) k => match d.search? k with
    | some s => (match s.origin with
      | some (_, ref) => d.subAnswer k { ref := ref, status := Status.code .abortedReset }
      | none => d)
    | none => d) d
  let d := (Tab.vals d.upd.rebuilds).foldl (fun d r => if r.published.isNone then d.rebuildEnd r .abortedReset else d) d
  { d with upd := { d.upd with events := [], seals := [], heldBatches := [], fwdWait := [] }, cp := { d.cp with fetchPtr := 0, lowMark := d.ctxFree } }

/-- Accesses whose waits or held binds are abandoned: the commands and queries that own them end with ABORTED_RESET (R598). -/
def Dev.readersReset (d : Dev) (rs : List Reader) : Dev :=
  rs.eraseDups.foldl (fun (d : Dev) w => match w with
    | .command c _ => d.endCmd c .abortedReset
    | .stream s => d.queryEnd (s / 32768) .abortedReset
    | .query k => d.queryEnd k .abortedReset
    | .saddle r => d.gatherFail r .abortedReset
    | .master _ => d) d

/-- TACK: migrations, PIN commands, waiting reads, the staging cache, the extents and the per-master values. -/
def Dev.tackReset (d : Dev) : Dev :=
  let d := d.abortAll (Tab.keys d.tack.pins)
  let d := d.readersReset ((d.tack.waits.map (fun w => w.who)) ++ d.tack.held.map (fun b => b.who))
  let d := d.dropReads (fun _ _ => true)
  let d := (Tab.keys d.tack.migs).foldl (fun d o => d.migAbandon o) d
  let d := (Tab.keys d.tack.nbr).foldl (fun d e => d.nbrLose e) d
  { d with tack := { d.tack with asks := [], pinWaits := [], stage := [], stageHand := 0, allocFn := [], result := [], demoting := [] } }

/-- LATIGO_HOME: the commands it runs, its transactions, leases and events; requests of this node's own agents are refused (R445). -/
def Dev.latReset (d : Dev) : Dev :=
  let d := d.abortAll (Tab.keys d.lat.movers ++ Tab.keys d.lat.leaseCmds ++ d.lat.regionCmds)
  let mine := d.lat.asking.filter (fun k => d.isLocal (k / 16 * 64))
  let lines := mine.foldl (fun (t : Tab AgentLine) k => Tab.upd t k {} (fun x => { x with refused := true, poison := true })) d.lat.lines
  { d with lat := { gens := d.lat.gens, lines := lines, asking := d.lat.asking.filter (fun k => !mine.contains k) } }

/-- CURRIER: reads in flight end, and with them the commands that wait for them and the Edgers' streams; a running format ends with its
spaces empty. Accepted writes stay accepted, and what its dies are doing goes on. -/
def Dev.curReset (d : Dev) : Dev :=
  let hit := fun (d : Dev) (w : StageWait) => d.flash.ch.any (fun e => e.2.reads.any (fun r => r.obj == w.obj && r.ounit == w.unit))
  let ws := d.tack.waits.filter (hit d)
  let d := d.readersReset (ws.map (fun w => w.who))
  let d : Dev := { d with tack := { d.tack with waits := d.tack.waits.filter (fun w => !ws.contains w) } }
  let d := (Tab.keys d.flash.ch).foldl (fun d c => d.edgerEnd c .abortedReset) d
  let gone := fun (it : ReinItem) => match it.kind with
    | .flash _ (.read _ _) _ => true
    | .flash _ (.tranche _) _ => true
    | _ => false
  let d := (Tab.keys d.flash.ch).foldl (fun d c => (d.reinPull (chanRein c) gone).1) d
  let fmt := d.curState == 3
  let ch := d.flash.ch.map (fun (e : Nat × Channel) => (e.1, if fmt then e.2.unformatted else { e.2 with reads := [] }))
  let d : Dev := { d with flash := { d.flash with ch := ch } }
  if fmt then d.setCurState 0 else d

/-- ENGINE (R253): what runs on engine e. -/
def Dev.engReset (d : Dev) (e : Nat) : Dev :=
  let x := d.engine e
  let d := if x.owner == .group then d.groupStop x.group .abortedReset
    else match x.stream with
      | some s => d.queryEnd (s / 32768) .abortedReset
      | none => d
  if (d.engine e).owner == .reserved || (d.engine e).stopping then d else d.setEngine e { gated := d.gateShut e x, idleFrom := d.aclk }

/-- SKIVER (R274): its slots, its events, and the engine. -/
def Dev.skvReset (d : Dev) (e : Nat) : Dev :=
  let d := (d.engReset e).clearSlots e
  { d with eng := { d.eng with satEvents := Tab.del d.eng.satEvents e } }

/-- TREE_CORE: the barrier unit and every engine of the core. -/
def Dev.coreReset (d : Dev) (c : Nat) : Dev :=
  let d := (List.range d.part.perCore).foldl (fun d p => d.engReset (d.engAt c p)) d
  { d with eng := { d.eng with grantPtr := Tab.del d.eng.grantPtr c, bars := d.eng.bars.filter (fun b => b.1 / 16 != c) } }

/-- KEEPER (R182). -/
def Dev.kprReset (d : Dev) (k : Nat) : Dev :=
  let ks := (d.srch.streams.filter (fun s => match s.2.chain with
    | some (j, _, n) => j == k || (n == 64 && j + 1 == k)
    | none => false)).map (fun (s : Nat × Stream) => s.1 / 32768) ++
    (d.srch.queries.filter (fun q => match q.2.chain with
    | some (j, _, n) => j == k || (n == 64 && j + 1 == k)
    | none => false)).map Prod.fst
  let d := d.abortQueries ks
  { d with kpr := { d.kpr with ptr := Tab.del d.kpr.ptr k, gatePtr := Tab.del d.kpr.gatePtr k, gateAt := Tab.del d.kpr.gateAt k, waitMax := Tab.del d.kpr.waitMax k } }

/-- LACING (R182). -/
def Dev.lacReset (d : Dev) (l : Nat) : Dev :=
  let d := d.abortQueries ((d.srch.queries.filter (fun e => e.2.slot && e.2.lac == l)).map Prod.fst)
  { d with kpr := { d.kpr with lacPtr := Tab.del d.kpr.lacPtr l } }

/-- HIDE_CTL and AWL (R340): sequences, scans and attention on the stack. -/
def Dev.awlReset (d : Dev) (n : Nat) : Dev :=
  let d := d.abortAll ((d.hide.seqs.filter (fun s => s.2.stack == n)).map Prod.fst ++ (d.lat.movers.filter (fun m => m.2.awl == some n)).map Prod.fst)
  let runs := ((d.stack n).stitches.filterMap (fun (s : Nat × Stitch) => match s.2.owner with
    | .attn r => some r
    | _ => none)).eraseDups
  let d := runs.foldl (fun d r => d.runFail r .abortedReset) d
  let d := d.abortQueries ((d.srch.streams.filter (fun s => (s.2.started || s.2.bound) && s.2.place == Place.hide n)).map (fun (s : Nat × Stream) => s.1 / 32768))
  d.setStack n { d.stack n with stitches := [], refreshWait := [], unitPtr := 0 }

/-- EDGER: the streams open on channel c. -/
def Dev.edgReset (d : Dev) (c : Nat) : Dev :=
  let d := d.edgerEnd c .abortedReset
  match d.chan? c with
  | some y => d.setChan c { y with edger := [] }
  | none => d

/-- REIN (R488), once its registers hold their reset values. -/
def Dev.reinReset (d : Dev) (i : Nat) : Dev :=
  let items := (Tab.vals (d.rein i).strict).flatten ++ ((Tab.vals (d.rein i).queues).map (fun q => q.items)).flatten
  let d := d.abortAll ((items.filterMap d.itemCmd).eraseDups)
  let r := d.rein i
  let qs := r.queues.map (fun (e : Nat × ReinQ) => (e.1, ({ items := e.2.items } : ReinQ)))
  let d := d.setRein i { strict := r.strict, queues := qs, servedAt := d.now, given := r.given }
  let d : Dev := { d with rqSel := d.rqSel.filter (fun e => e.1 % 2 ^ 20 != i) }
  (Tab.keys qs).foldl (fun d f => d.reinHead i f) d

/-- LINK_PORT: the port goes DOWN, and trains again. -/
def Dev.linkReset (d : Dev) (p : Nat) : Dev :=
  let d := d.portDown p
  (d.setPort p {}).trainCheck p

/-- BUCKLE_0: the commands with fabric requests outstanding, every request, and the live maps; this node's state and epoch are kept (R516). -/
def Dev.buckleReset (d : Dev) (n : Nat) : Dev :=
  if n != 0 then d
  else
    let epoch := if d.cmp.cur.isSome then d.ownFence else d.cmp.fencedAt
    let uses := (Tab.vals d.fab.tp.tags).map (fun t => t.use) ++ d.fab.tp.waiting.map (fun w => w.1)
    let cs := (uses.filterMap (fun u => match ownerOf u with
      | .command c _ => some c
      | .work => none)).eraseDups
    let d := d.abortAll (cs ++ Tab.keys d.cmp.admits)
    { d with fab := { d.fab with tp := { d.fab.tp with tags := [], waiting := [], inbox := [] } },
             cmp := { st := d.cmp.st, fencedAt := epoch, testOk := d.cmp.testOk, lastFm := d.cmp.lastFm, lastHb := d.cmp.lastHb } }

/-- BRAND (R540): a running operation ends with RESULT BUSY. -/
def Dev.brandReset (d : Dev) (op : Option BrandOp) : Dev :=
  match op with
  | some o => (({ d with brd := { d.brd with op := none } } : Dev).opResult o.reg 1)
  | none => d

/-- RAS (R562): a running RAS_ZERO leaves DONE 1 and RESULT BUSY. -/
def Dev.rasReset (d : Dev) (zeroing : Bool) : Dev :=
  let d : Dev := { d with ras := { d.ras with queue := [], notify := [], zeroing := none } }
  if zeroing then d.setRg R.rasZeroCtl (w32 (2 + 65536)) else d

/-- PWR: the demands of the limits and the sensor readings. -/
def Dev.pwrReset (d : Dev) : Dev :=
  ({ d with pwr := { d.pwr with ptPower := 0, ptCurrent := 0, ptThermal := 0, lowPower := none, lowCurrent := [], coolTree := none,
                                temps := [], peak := [] } } : Dev).repoint

/-- What a soft reset ends in a block, before its registers return to their reset values. -/
def Dev.blockEnds (d : Dev) (b : Blk) (n : Nat) : Dev :=
  match b with
  | .ctxPool => d.ctxReset
  | .tack => d.tackReset
  | .latigo => d.latReset
  | .currier => d.curReset
  | .saddle => d.saddleReset n
  | .treeCore => d.coreReset n
  | .engine => d.engReset n
  | .skiver => d.skvReset n
  | .keeper => d.kprReset n
  | .lacing => d.lacReset n
  | .hideCtl => d.awlReset n
  | .awl => d.awlReset n
  | .edger => d.edgReset n
  | .buckle => d.buckleReset n
  | .mgmt => { d with mgmt := { d.mgmt with inbox := [], lastLo := [] } }
  | _ => d

/-- What a soft reset does once the registers hold their reset values. -/
def Dev.blockAfter (d : Dev) (b : Blk) (n : Nat) (op : Option BrandOp) (zeroing flush : Bool) (cur : Nat) : Dev :=
  match b with
  | .rein => d.reinReset n
  | .link => d.linkReset n
  | .brand => d.brandReset op
  | .ras => d.rasReset zeroing
  | .pwr => d.pwrReset
  | .holdup => if flush then d.setFd R.holdupStat 1 1 1 else d
  | .currier => d.setCurState cur
  | _ => d

/-- BLK_CTL.SOFT_RESET of a block page (R56, R598): work ends, registers return to their reset values, ENABLE, counters and shadows are
kept. The block stands at an internal boundary in every NCLK cycle, so all this comes with the write; SOFT_RESET reads 1 and STATE RESETTING
for the rest of that cycle (log entry 61). -/
def Dev.blockReset (d : Dev) (b : Blk) (n : Nat) : Dev :=
  let op := d.brd.op
  let d : Dev := { d with resetting := insNat d.resetting (b.page n) }
  let z := d.ras.zeroing.isSome
  let fl := d.flushing
  let d := d.blockEnds b n
  let cur := d.curState
  let d := d.pageReset (b.page n)
  let d := d.blockAfter b n op z fl cur
  let c := d.condBits (b.page n)
  if c = 0 then d else d.setPg (b.page n) R.intStat (d.pg (b.page n) R.intStat ||| w32 c)

/-! BLK_CTL. -/

/-- What follows a change of a block's ENABLE. -/
def Dev.enableHook (d : Dev) (b : Blk) (n : Nat) : Dev :=
  match b with
  | .link =>
    if d.enabled (pgLink n) then d.trainCheck n
    else
      let x := d.port n
      if x.st == .failed || x.st == .training then d.setPort n { x with st := .down, attempts := 0 } else d.setPort n { x with attempts := 0 }
  | .engine => if d.enabled (pgEng n) then d.coreReserve (d.engCore n) else d
  | .treeCore => if d.enabled (pgCore n) then d.coreReserve n else d
  | _ => d

/-- A write to BLK_CTL (R55, R56, R481). -/
def Dev.ctlWrite (d : Dev) (b : Blk) (n : Nat) (v : Word) : Dev :=
  let p := b.page n
  if b == .fn then (if fbit v 1 then d.fnSoftReset n else fnFreezeOp n (fbit v 2) d)
  else
    let was := d.enabled p
    if fbit v 1 then
      let d := (d.setPg p R.blkCtl (v &&& 1)).blockReset b n
      let d := if b == .ras then d.rasResume else d
      if was == fbit v 0 then d else d.enableHook b n
    else
      let d := d.setPg p R.blkCtl (if d.resetting.contains p then v &&& 1 else v &&& 5)
      let d := if was == fbit v 0 then d else d.enableHook b n
      let d := if b == .ras && !d.frozen pgRas then d.rasResume else d
      if b == .tack then d.tackServe else d

/-! Plain writes. -/

/-- Store a write: RW bits take it, W1C bits clear, the others stay (R15). -/
def Dev.plainWrite (d : Dev) (m : Master) (b : Blk) (n off : Nat) (v : Word) : Dev :=
  match regDef? b n off with
  | none => d
  | some r =>
    if r.bank then
      let s := d.selOf m b n off
      d.setRgb ⟨b, off⟩ s (mix (d.rgb ⟨b, off⟩ s n) v (w32 r.rw)) n
    else
      let old := d.pg (b.page n) off
      d.setPg (b.page n) off (mix (old &&& ~~~(w32 r.w1c)) v (w32 r.rw) ||| (d.afterW1c (b.page n) off v &&& w32 r.w1c))

/-- Common registers (R55). -/
def Dev.commonWrite (d : Dev) (m : Master) (b : Blk) (n off : Nat) (v : Word) : Dev :=
  let p := b.page n
  if off = 0x08 then d.ctlWrite b n v
  else if off = 0x10 then d.intClear p v
  else if off = 0x14 then d.intEnable p (v &&& w32 (intMaskOf b n))
  else if off = 0x18 then d.intForce b n v
  else if off = 0x40 then
    let d := d.plainWrite m b n off v
    if fbit v 8 then d.cntClear m b n (fld v 7 0) else d
  else d.plainWrite m b n off v

/-! Writes by block. -/

/-- Writes ignored while the page's ENABLE is 1. -/
def guardedOff (b : Blk) (off : Nat) : Bool :=
  match b with
  | .ctxPool => [0x100, 0x104, 0x110, 0x114, 0x120, 0x124].contains off
  | .tack => [0x110, 0x114, 0x118, 0x120, 0x124, 0x128, 0x12C, 0x130].contains off
  | .currier => decide (0x130 ≤ off) && decide (off < 0x158)
  | .saddle => [0x108, 0x10C, 0x110].contains off
  | _ => false

def Dev.wrTack (d : Dev) (m : Master) (off : Nat) (v : Word) : Dev :=
  if off = 0x140 then { d with tack := { d.tack with allocFn := Tab.set d.tack.allocFn m.index (fld v 9 0) } }
  else if off = 0x144 then allocReqOp m v d
  else if off = 0x148 then
    (match fld v 26 25 with
     | 1 => objSealOp m (fld v 24 0) d
     | 2 => objFreeOp m (fld v 24 0) d
     | _ => d.objResult m.index (fld v 24 0) 5)
  else if off = 0x174 then (if fld v 1 0 = 1 then nbrAddOp d else if fld v 1 0 = 2 then nbrWithdrawOp d else d)
  else d.plainWrite m .tack 0 off v

/-- LATIGO_HOME (R467): the directory, window, export, region and neighbour-window registers while ENABLE is 1. -/
def Dev.latGuard (d : Dev) (off : Nat) : Bool :=
  d.enabled pgLat &&
  (if 0x134 ≤ off && off ≤ 0x140 then fbit (d.rgb R.latExpCtl (d.fd R.latExpSel 7 0)) 0
   else if off = 0x164 || off = 0x168 then fbit (d.rgb R.nwinMap (d.fd R.nwinSel 9 0)) 31
   else [0x104, 0x108, 0x10C, 0x114, 0x118, 0x11C, 0x120, 0x124, 0x150, 0x154, 0x158].contains off)

def Dev.wrLatigo (d : Dev) (m : Master) (off : Nat) (v : Word) : Dev :=
  if d.latGuard off then d
  else if off = 0x124 && fbit v 0 then windowEnableOp (d.fd R.latWinSel 3 0) d
  else if off = 0x140 then
    let e := d.fd R.latExpSel 7 0
    let d := if fbit v 0 then d else exportInvalidateOp e d
    d.plainWrite m .latigo 0 off v
  else if off = 0x178 then
    let d := d.plainWrite m .latigo 0 off v
    if fbit v 16 then suspectClearOp (fld v 15 0) d else d
  else d.plainWrite m .latigo 0 off v

def Dev.wrCurrier (d : Dev) (m : Master) (off : Nat) (v : Word) : Dev :=
  if off = 0x114 then
    let d := if d.enabled pgCur then d else d.plainWrite m .currier 0 off v
    if fbit v 31 then formatStartOp d else d
  else if off = 0x120 then (if fbit v 0 then channelOfflineOp d else d)
  else d.plainWrite m .currier 0 off v

def Dev.wrBrand (d : Dev) (fu : Fuses) (m : Master) (off : Nat) (v : Word) : Dev :=
  if off = 0x108 then arbCommitOp (fld v 6 0) fu d
  else if off = 0x10C then revokeOp (fld v 1 0) (fld v 15 8) fu d
  else if off = 0x118 then (if fbit v 8 then keyProgOp (fld v 1 0) fu d else d.plainWrite m .brand 0 off v)
  else if off = 0x128 then (if fbit v 8 then extendOp (fld v 2 0) d else d.plainWrite m .brand 0 off v)
  else if off = 0x138 then (if fbit v 0 then quoteOp d else d)
  else if off = 0x1C0 then (if fbit v 0 then debugOpenOp fu d else d)
  else d.plainWrite m .brand 0 off v

/-- CC_INBOX_LO_c and CC_INBOX_HI_c (R519): the high word enqueues the pair; a full inbox drops it. -/
def Dev.inboxLo (d : Dev) (m : Master) (c : Nat) (v : Word) : Dev :=
  { d with mgmt := { d.mgmt with lastLo := Tab.set d.mgmt.lastLo (64 * m.index + c) v } }
def Dev.inboxHi (d : Dev) (m : Master) (c : Nat) (v : Word) : Dev :=
  let q := Tab.getD d.mgmt.inbox c []
  if 256 ≤ q.length then (((d.setW1c pgMgmt (R.ccInboxStat c).off 0x200).setInt pgMgmt 3).bump pgMgmt 0 8)
  else { d with mgmt := { d.mgmt with inbox := Tab.set d.mgmt.inbox c (q ++ [(Tab.getD d.mgmt.lastLo (64 * m.index + c) 0, v)]) } }

def Dev.wrMgmt (d : Dev) (m : Master) (off : Nat) (v : Word) : Dev :=
  if off = 0x110 || off = 0x114 then (if ringOn (d.rg R.mgmtTxCfg) then d else d.plainWrite m .mgmt 0 off v)
  else if off = 0x130 || off = 0x134 then (if ringOn (d.rg R.mgmtRxCfg) then d else d.plainWrite m .mgmt 0 off v)
  else if off = 0x118 then mgmtRingOp false v d
  else if off = 0x138 then mgmtRingOp true v d
  else if off = 0x11C then mgmtDoorbellOp false (fld v 11 0) d
  else if off = 0x13C then mgmtDoorbellOp true (fld v 11 0) d
  else if off = 0x200 then ccStartOp (fld v 15 0) d
  else if 0x400 ≤ off && off < 0x500 then
    let c := (off - 0x400) / 16
    if off % 16 = 0 then d.inboxLo m c v
    else if off % 16 = 4 then d.inboxHi m c v
    else d.plainWrite m .mgmt 0 off v
  else d.plainWrite m .mgmt 0 off v

def Dev.wrRein (d : Dev) (m : Master) (i off : Nat) (v : Word) : Dev :=
  if off = 0x110 then { d with rqSel := Tab.set d.rqSel (rqKey m i) (fld v 9 0) }
  else
    let d := d.plainWrite m .rein i off v
    if off = 0x11C || off = 0x124 then d.reinCut i (d.rqSelOf m i) else if off = 0x118 || off = 0x120 then d.reinRecheck i (d.rqSelOf m i) else d

def Dev.wrLink (d : Dev) (m : Master) (p off : Nat) (v : Word) : Dev :=
  let x := d.port p
  if 0x110 ≤ off && off < 0x130 then
    if x.st == .down || x.st == .failed then (d.plainWrite m .link p off v).trainCheck p else d
  else d.plainWrite m .link p off v

/-- BUCKLE pages; GROUP8 is BUCKLE_0's alone, and stands while a LINK_PORT page is enabled (R410); a map's registers stand while a generation
is live (R516). -/
def Dev.wrBuckle (d : Dev) (m : Master) (n off : Nat) (v : Word) : Dev :=
  if off = 0x200 && n = 0 && fbit (d.rg R.fabNode) 31 then d.setRg R.fabNode (mix (d.rg R.fabNode) v 0x80000000)
  else if off = 0x100 then
    let links := (List.range 32).any (fun p => d.enabled (pgLink p))
    d.setRg R.bklCfg (mix (d.rg R.bklCfg n) v (w32 (if n = 0 && !links then 3 else 2))) n
  else if off = 0x310 || off = 0x314 || off = 0x318 then (if d.cmp.cur.isSome || d.cmp.old.isSome then d else d.plainWrite m .buckle n off v)
  else if off = 0x31C then (if fld v 1 0 = 1 then mapInstallOp d else if fld v 1 0 = 2 then mapRetireOldOp d else d)
  else if off = 0x330 then (if fbit v 0 then selftestStartOp d else d)
  else d.plainWrite m .buckle n off v

/-- Function pages (R61, R473, R477). -/
def Dev.wrFn (d : Dev) (m : Master) (f off : Nat) (v : Word) : Dev :=
  if off = 0x100 then d.fnCtlWrite f v
  else if off = 0x120 then
    let d := d.plainWrite m .fn f off v
    d.setFn f { d.fn f with bucket := min (d.fn f).bucket (1600000 * max (fld v 23 16) 1) }
  else if 0x400 ≤ off && off < 0x600 then
    let k := off % 0x100 / 0x20
    let sq := decide (off < 0x500)
    let cfg := if sq then R.sqCfg k else R.cqCfg k
    if off % 0x20 = 0 || off % 0x20 = 4 then d.ringBaseWrite ⟨.fn, off⟩ cfg f v
    else if off % 0x20 = 8 then (if sq then sqCfgOp f k v d else cqCfgOp f k v d)
    else if off % 0x20 = 12 then (if sq then sqTailOp f k (fld v 15 0) d else cqHeadOp f k (fld v 15 0) d)
    else d
  else d.plainWrite m .fn f off v

/-- A write to a register from 0x0100 on. -/
def Dev.blockWrite (d : Dev) (fu : Fuses) (m : Master) (b : Blk) (n off : Nat) (v : Word) : Dev :=
  if guardedOff b off && d.enabled (b.page n) then d
  else match b with
    | .pwr => if off = 0x11C then (d.plainWrite m b n off v).repoint else d.plainWrite m b n off v
    | .ras => if off = 0x14C then (if fbit v 0 then rasZeroStartOp d else d) else d.plainWrite m b n off v
    | .brand => d.wrBrand fu m off v
    | .mgmt => d.wrMgmt m off v
    | .tack => d.wrTack m off v
    | .latigo => d.wrLatigo m off v
    | .currier => d.wrCurrier m off v
    | .treeCore => if (List.range d.part.perCore).any (fun p => (d.engine (d.engAt n p)).owner != .idle) then d else d.plainWrite m b n off v
    | .hideCtl => if off = 0x100 then (if fbit v 0 then offlineReqOp n d else d) else d.plainWrite m b n off v
    | .rein => d.wrRein m n off v
    | .link => d.wrLink m n off v
    | .buckle => d.wrBuckle m n off v
    | .fn => d.wrFn m n off v
    | _ => d.plainWrite m b n off v

/-- A 32-bit write to the register at a 4-byte offset of a page. -/
def Dev.regWrite (d : Dev) (fu : Fuses) (m : Master) (p off : Nat) (v : Word) : Dev :=
  match d.pageUnit p with
  | none => d
  | some (b, n) =>
    if !onPage b n off then d
    else if off < 0x100 then d.commonWrite m b n off v
    else d.blockWrite fu m b n off v

end Sys2Proof.Machine
end

