-- ==== Sys2Proof/Machine/RegFile.lean ====
section
/-! DEFINITION. Register accesses of the width a master makes them (R51, R53), the commands that write or read a register, and the SMBus
target (R537). -/

namespace Sys2Proof.Machine
open Sys2Proof

/-! Accesses (R53). -/

/-- Page and offset of a register-space address: block pages, then function pages from page 0x1000 on (R51). -/
def regPlace (a : Nat) : Nat × Nat := (a % 2 ^ 32 / 65536, a % 65536)

/-- The access is naturally aligned to its own size. -/
def natural (a n : Nat) : Bool := (n == 1 || n == 2 || n == 4 || n == 8) && a % n == 0

/-- A read of 1, 2, 4 or 8 bytes of register space; any other gives zeros and raises REG_ACCESS, and past the function pages ADDR_UNMAPPED
(R49, R51). -/
def Dev.regLoad (d : Dev) (fu : Fuses) (m : Master) (a n : Nat) : Dev × List Byte :=
  if 0x1400 ≤ (regPlace a).1 then (d.unmapped a, List.replicate n 0)
  else if !natural a n then (d.badAccess a, List.replicate n 0)
  else
    let (p, off) := regPlace a
    if n = 8 then
      let (d, lo) := d.regRead fu m p off
      let (d, hi) := d.regRead fu m p (off + 4)
      (d, natLe 4 lo.toNat ++ natLe 4 hi.toNat)
    else
      let (d, v) := d.regRead fu m p (off / 4 * 4)
      (d, slice (natLe 4 v.toNat) (off % 4) n)

/-- A write of 4 or 8 bytes; a narrower or misaligned one is discarded and raises REG_ACCESS. -/
def Dev.regStore (d : Dev) (fu : Fuses) (m : Master) (a : Nat) (b : List Byte) : Dev :=
  let (p, off) := regPlace a
  if 0x1400 ≤ p then d.unmapped a
  else if !natural a b.length || b.length < 4 then d.badAccess a
  else
    let d := d.regWrite fu m p off (w32 (leAt b 0 4))
    if b.length = 8 then d.regWrite fu m p (off + 4) (w32 (leAt b 4 4)) else d

/-- The answer a master gets. -/
def Dev.answer (d : Dev) (b : List Byte) : Dev := { d with resp := { data := b } }
/-- A master's 32-bit read, with its answer. -/
def readReg (m : Master) (p off : Nat) (fu : Fuses) (d : Dev) : Dev :=
  let (d, v) := d.regRead fu m p off
  d.answer (natLe 4 v.toNat)

/-! Commands that write registers. -/

/-- A command on a page of register space; past the function pages the space is reserved, and past its 65,536 pages there is no region
(R49, R51). -/
def onPages (p : Nat) (f : Fuses → Dev → Dev) (s : State) : Host.Outcome State Fault Refusal :=
  .next { s with dev := if p < 0x1400 then f s.fuses s.dev else s.dev.unmapped (regBase + 65536 * p) }

/-- REGISTER_WRITE: 32 bits to an aligned offset of a page (R15, R53). -/
def registerWriteOp (m : Master) (p off : Nat) (v : Word) (fu : Fuses) (d : Dev) : Dev := d.regStore fu m (regBase + 65536 * p + off % 65536) (natLe 4 v.toNat)
def execRegisterWrite (m : Master) (page off : Nat) (value : Word) (s : State) : Host.Outcome State Fault Refusal :=
  onPages page (registerWriteOp m page off value) s

/-- SOFT_RESET: BLK_CTL.SOFT_RESET with ENABLE as it is (R56, R598). -/
def softResetOp (m : Master) (p : Nat) (fu : Fuses) (d : Dev) : Dev := d.regWrite fu m p 8 ((d.pg p R.blkCtl &&& 1) ||| 2)
def execSoftReset (m : Master) (page : Nat) (s : State) : Host.Outcome State Fault Refusal := onPages page (softResetOp m page) s

/-- FREEZE: BLK_CTL.FREEZE set or cleared (R55). -/
def freezeOp (m : Master) (p : Nat) (on : Bool) (fu : Fuses) (d : Dev) : Dev :=
  d.regWrite fu m p 8 ((d.pg p R.blkCtl &&& 1) ||| (if on then 4 else 0))
def execFreeze (m : Master) (page : Nat) (on : Bool) (s : State) : Host.Outcome State Fault Refusal := onPages page (freezeOp m page on) s

/-- BLK_ENABLE: BLK_CTL.ENABLE set or cleared (R55, R603). -/
def blkEnableOp (m : Master) (p : Nat) (on : Bool) (fu : Fuses) (d : Dev) : Dev :=
  d.regWrite fu m p 8 ((d.pg p R.blkCtl &&& 4) ||| (if on then 1 else 0))
def execBlkEnable (m : Master) (page : Nat) (on : Bool) (s : State) : Host.Outcome State Fault Refusal :=
  onPages page (blkEnableOp m page on) s

/-- INT_STAT_CLEAR: a W1C write to INT_STAT (R57, R599). -/
def execIntStatClear (m : Master) (page : Nat) (mask : Word) (s : State) : Host.Outcome State Fault Refusal :=
  onPages page (fun fu d => d.regWrite fu m page 0x10 mask) s
/-- INT_FORCE: a W1S write. -/
def execIntForce (m : Master) (page : Nat) (mask : Word) (s : State) : Host.Outcome State Fault Refusal :=
  onPages page (fun fu d => d.regWrite fu m page 0x18 mask) s
/-- ERR_STAT_CLEAR: a W1C write to ERR_STAT; ERR_ADDR is kept (R58). -/
def execErrStatClear (m : Master) (page : Nat) (mask : Word) (s : State) : Host.Outcome State Fault Refusal :=
  onPages page (fun fu d => d.regWrite fu m page 0x20 mask) s

/-- ECC_FLIP_ARM: the flip mask written and armed (R58, R556). -/
def eccFlipArmOp (m : Master) (p : Nat) (mask : BitVec 72) (fu : Fuses) (d : Dev) : Dev :=
  let d := d.regWrite fu m p 0x30 (w32 mask.toNat)
  let d := d.regWrite fu m p 0x34 (w32 (mask.toNat / 2 ^ 32))
  d.regWrite fu m p 0x38 (w32 (mask.toNat / 2 ^ 64 * 256 + 1))
def execEccFlipArm (m : Master) (page : Nat) (mask : BitVec 72) (s : State) : Host.Outcome State Fault Refusal :=
  onPages page (eccFlipArmOp m page mask) s

/-- CNT_CLEAR: CNT_SEL written with CLEAR (R55). -/
def execCntClear (m : Master) (page bank : Nat) (s : State) : Host.Outcome State Fault Refusal :=
  onPages page (fun fu d => d.regWrite fu m page 0x40 (w32 (bank % 256 + 256))) s

/-! Commands that read registers with an effect. -/

/-- A read that names no register of the part gives zeros (R6, R19), as a read of a page without a unit does. -/
def noReg (_ : Fuses) (d : Dev) : Dev := d.answer (natLe 4 0)

/-- CNT_VAL_LO_READ: CNT_VAL_LO_x, x = 0 to 22 (R59). -/
def execCntValLoRead (m : Master) (page x : Nat) (s : State) : Host.Outcome State Fault Refusal :=
  onPages page (if x < 23 then readReg m page (0x48 + 8 * x) else noReg) s
/-- CTX_FREE_READ: LOW_MARK becomes FREE. -/
def execCtxFreeRead (m : Master) (s : State) : Host.Outcome State Fault Refusal := onFuses (readReg m pgCtx 0x108) s
/-- KPR_WAIT_MAX_READ: the longest wait becomes 0 (R183). -/
def execKprWaitMaxRead (m : Master) (keeper : Nat) (s : State) : Host.Outcome State Fault Refusal :=
  onFuses (if keeper < 16 then readReg m (pgKpr keeper) 0x108 else noReg) s
/-- UPD_EVT_LO_READ (R218). -/
def execUpdEvtLoRead (m : Master) (s : State) : Host.Outcome State Fault Refusal := onFuses (readReg m pgCtx 0x128) s
/-- SKV_EVT_READ (R275); the page of a unit that the part lacks reads as zeros (R6). -/
def execSkvEvtRead (m : Master) (eng : Nat) (s : State) : Host.Outcome State Fault Refusal :=
  onFuses (if eng < 64 then readReg m (pgSkv eng) 0x100 else noReg) s
/-- LAT_EVT_LO_READ (R467). -/
def execLatEvtLoRead (m : Master) (s : State) : Host.Outcome State Fault Refusal := onFuses (readReg m pgLat 0x170) s
/-- RAS_REC_READ (R558). -/
def execRasRecRead (m : Master) (s : State) : Host.Outcome State Fault Refusal := onFuses (readReg m pgRas 0x110) s
/-- CC_INBOX_LO_READ (R519). -/
def execCcInboxLoRead (m : Master) (core : Nat) (s : State) : Host.Outcome State Fault Refusal :=
  onFuses (if core < 16 then readReg m pgMgmt (0x400 + 16 * core) else noReg) s
/-- CC_INBOX_HI_WRITE (R519): the pair's high word. -/
def execCcInboxHiWrite (m : Master) (core : Nat) (value : Word) (s : State) : Host.Outcome State Fault Refusal :=
  onFuses (fun fu d => if core < 16 then d.regWrite fu m pgMgmt (0x404 + 16 * core) value else d) s
/-- REIN_VT_LO_READ (R491). -/
def execReinVtLoRead (m : Master) (inst : Nat) (s : State) : Host.Outcome State Fault Refusal :=
  onFuses (if inst < 96 then readReg m (pgRein inst) 0x104 else noReg) s
/-- PWR_TEMP_READ (R583). -/
def execPwrTempRead (m : Master) (s : State) : Host.Outcome State Fault Refusal := onFuses (readReg m pgPwr 0x124) s

/-! The SMBus target (R537). -/

/-- A transaction: from step 1 of R525 on, with a correct PEC. -/
def Dev.smbTake (d : Dev) (pecOk : Bool) (f : Dev → Dev) : Dev :=
  if d.brd.phase == .off then d else if !pecOk then d.bump pgBrand 0 4 else f (d.bump pgBrand 0 3)
/-- Bytes the target gives back. -/
def Dev.smbGive (d : Dev) (b : List Byte) : Dev := { d with brd := { d.brd with smb := b } }

/-- SMB_READ_BYTE: command 0x01. -/
def smbReadByteOp (pecOk : Bool) (d : Dev) : Dev := d.smbTake pecOk (fun d => d.smbGive (natLe 1 (d.rg R.brdBootStat).toNat))
def execSmbReadByte (pecOk : Bool) (s : State) : Host.Outcome State Fault Refusal := onDev (smbReadByteOp pecOk) s

/-- SMB_REG_READ: command 0x10; offsets outside pages 0 to 4 read as zero and are counted. -/
def smbRegReadOp (off : Nat) (pecOk : Bool) (fu : Fuses) (d : Dev) : Dev :=
  d.smbTake pecOk (fun d =>
    if 0x50000 ≤ off % 2 ^ 32 then (d.bump pgBrand 0 5).smbGive (List.replicate 4 0)
    else
      let (d, b) := d.regLoad fu .smbus (regBase + off % 2 ^ 32) 4
      d.smbGive b)
def execSmbRegRead (off : Nat) (pecOk : Bool) (s : State) : Host.Outcome State Fault Refusal := onFuses (smbRegReadOp off pecOk) s

/-- SMB_REG_WRITE: command 0x11. -/
def smbRegWriteOp (off : Nat) (v : Word) (pecOk : Bool) (fu : Fuses) (d : Dev) : Dev :=
  d.smbTake pecOk (fun d =>
    if 0x50000 ≤ off % 2 ^ 32 then d.bump pgBrand 0 5
    else d.regStore fu .smbus (regBase + off % 2 ^ 32) (natLe 4 v.toNat))
def execSmbRegWrite (off : Nat) (value : Word) (pecOk : Bool) (s : State) : Host.Outcome State Fault Refusal :=
  onFuses (smbRegWriteOp off value pecOk) s

end Sys2Proof.Machine
end

