-- ==== Sys2Proof/Machine/Stores.lean ====
section
/-! DEFINITION. Errors of the protected on-die stores: what each block reports, and what becomes of the work that owned the word (R180,
R308, R387, R404, R420, R488, R545). -/

namespace Sys2Proof.Machine
open Sys2Proof

/-- The write buffer holds the oldest unit of an object's flash copy that is not programmed yet with an uncorrectable error (R387, R388). -/
def Dev.bufPoison (d : Dev) (o : Nat) : Dev :=
  let e := d.obj o
  let base := e.loc % 2 ^ 48
  match d.chan? (e.loc / 2 ^ 48) with
  | some x =>
    (match x.pend.find? (fun p => e.primary == 3 && decide (base ≤ p.unit) && decide (p.unit < base + 16 * e.len)) with
     | some p => d.setChan (e.loc / 2 ^ 48) { x with lost := insNat x.lost p.unit }
     | none => d)
  | none => d

/-- INT_STAT bit for a corrected word of a block's stores (R545). -/
def Blk.storeCe (b : Blk) : Option Nat :=
  match b with
  | .engine => some 0
  | .treeCore => some 0
  | .keeper => some 1
  | .lacing => some 0
  | .skiver => some 1
  | .awl => some 0
  | .edger => some 0
  | .saddle => some 0
  | .rein => some 1
  | .currier => some 3
  | .link => some 4
  | _ => none

/-- End the group that holds an engine, with POISONED (R253). -/
def Dev.engPoison (d : Dev) (e : Nat) : Dev :=
  let x := d.engine e
  if x.owner == .group then d.groupStop x.group .poisoned
  else match x.stream with
    | some sn => d.queryEnd (sn / 32768) .poisoned
    | none => d

/-- Queries that own segment `seg` of Keeper k. -/
def Dev.segOwners (d : Dev) (k seg : Nat) : List Nat :=
  let covers := fun (c : Option (Nat × Nat × Nat)) => match c with
    | some (j, f, n) => (j == k && decide (f ≤ seg) && decide (seg < f + n)) || (n == 64 && j + 1 == k)
    | none => false
  ((d.srch.streams.filter (fun (s : Nat × Stream) => covers s.2.chain)).map (fun (s : Nat × Stream) => s.1 / 32768) ++
    (d.srch.queries.filter (fun (q : Nat × Query) => covers q.2.chain)).map Prod.fst).eraseDups

/-- Reset a function queue's tags to V and its buckets to their bursts (R488). -/
def Dev.reinQueueLost (d : Dev) (i f : Nat) : Dev :=
  let r := d.rein i
  match Tab.find? r.queues f with
  | none => d
  | some q =>
    (d.setRein i { r with queues := Tab.set r.queues f { q with start := r.v, finish := r.v, tagged := false, tc := d.rqCbsOf i f * 1600,
                                                                 tp := d.rqPbsOf i f * 1600 } }).reinHead i f

/-- What an on-die store's error does. -/
def Dev.storeFault (d : Dev) (e : StoreErr) : Dev :=
  match e with
  | .corrected p => (match (blkOfPage p).bind (fun b => b.1.storeCe) with
    | some bit => d.ceWord p bit 0 0 0xFF
    | none => d)
  | .keeper k seg =>
    if k < 16 && decide (seg < 32) then
      (d.segOwners k seg).foldl (fun d q => d.queryEnd q .poisoned) (d.ueWord (pgKpr k) 0 0 0 0xFF)
    else d
  | .lacing l sid q =>
    if l < 4 then
      let d := d.ueWord (pgLac l) 0 0 0 0xFF
      (match d.query? (qKey sid q) with
       | some y => if y.slot && y.lac == l then d.queryEnd (qKey sid q) .poisoned else d
       | none => d)
    else d
  | .skiver g => if g < d.part.engines then (d.ueWord (pgSkv g) 0 0 0 0xFF).engPoison g else d
  | .accumulators g => if g < d.part.engines then (d.ueWord (pgEng g) 1 0 0 0xFF).engPoison g else d
  | .vectors g => if g < d.part.engines then (d.ueWord (pgEng g) 0 0 0 0xFF).engPoison g else d
  | .istore g => if g < d.part.engines then (d.ueWord (pgEng g) 2 0 0 0xFF).engPoison g else d
  | .awl n t =>
    if n < 16 then
      let d := d.ueWord (pgAwl n) 0 0 0 0xFF
      (match (Tab.find? (d.stack n).stitches t).map (fun (s : Stitch) => s.owner) with
       | some (.seq c) => d.seqEnd c .poisoned
       | some (.stream sn) => d.queryEnd (sn / 32768) .poisoned
       | some (.attn r) => d.runFail r .poisoned
       | some (.pool c) => d.finishSt c .poisoned
       | none => d)
    else d
  | .edger c sn =>
    (match Tab.find? d.flash.ch c with
     | some h =>
       let d := d.ueWord (pgEdg c) 0 0 0 0xFF
       if h.edger.any (fun u => u.sid == sn) then (d.bump (pgEdg c) 0 10).queryEnd (sn / 32768) .poisoned else d
     | none => d)
  | .saddleTag i st =>
    if i < 2 then
      let y := d.sbInst i
      let n := (y.lines.filter (fun (l : Nat × CacheLine) => l.1 / 16 == st)).length
      ((d.setSbInst i { y with lines := y.lines.filter (fun (l : Nat × CacheLine) => l.1 / 16 != st) }).ueWord (pgSad i) 0 0 0 0xFF).bump (pgSad i) 0 11 n
    else d
  | .rein i f =>
    if i < 96 then
      let cs := ((Tab.getD (d.rein i).queues f {}).items.filterMap d.itemCmd).eraseDups
      (cs.foldl (fun d c => d.endCmd c .poisoned) (d.ueWord (pgRein i) 0 0 0 0xFF)).reinQueueLost i f
    else d
  | .mapCache => d.ueWord pgCur 0 0 0 0xFF
  | .writeBuffer o =>
    let d := d.ueWord pgCur 1 0 0 0xFF
    if Tab.has d.tack.migs o then d.migAbandon o else d.bufPoison o
  | .link p => if p < 16 then (d.ueWord (pgLink p) 2 0 0 0xFF).portDown p else d
  | .flipTaken p =>
    let ctl := d.pg p R.eccFlipCtl
    if ((blkOfPage p).bind (fun b => b.1.storeCe)).isSome && fbit ctl 0 then d.setPg p R.eccFlipCtl (putFld ctl 0 0 0) else d

end Sys2Proof.Machine
end

