-- ==== Sys2Proof/Machine/Access.lean ====
section
/-! DEFINITION. Accesses of masters to the local address space (R48 to R53, R436, R446, R457, R518, R555), and the sending of interrupt
messages (R471 to R474). -/

namespace Sys2Proof.Machine
open Sys2Proof

/-! Lines in a control core's caches (R436, R443 to R445, R518). -/

/-- What a core finds when it needs a line. -/
inductive CoreLine where
  /-- It holds the line with the right it needs. -/
  | held (x : AgentLine)
  | wait
  /-- The home refused it, or it cannot be asked (R445, R449). -/
  | refused
deriving DecidableEq, Repr

/-- The core holds the line, and may write it if it must. -/
def AgentLine.serves (x : AgentLine) (own : Bool) : Bool := !x.wbSent && (!own || x.exclusive || x.modified || x.untracked)

/-- A line of core c as its caches hold it. -/
def Dev.coreLine? (d : Dev) (c g : Nat) : Option AgentLine := Tab.find? d.lat.lines (d.lineKey g c)
/-- Replace it. -/
def Dev.setCoreLine (d : Dev) (c g : Nat) (x : AgentLine) : Dev :=
  { d with lat := { d.lat with lines := Tab.set d.lat.lines (d.lineKey g c) x } }
/-- Drop it. -/
def Dev.dropCoreLine (d : Dev) (c g : Nat) : Dev := { d with lat := { d.lat with lines := Tab.del d.lat.lines (d.lineKey g c) } }

/-- What the caches answer now. -/
def Dev.coreLook (d : Dev) (c g : Nat) (own : Bool) : CoreLine :=
  match d.coreLine? c g with
  | some x => if x.refused then .refused else if x.serves own then .held x else .wait
  | none => .wait

/-- Request of a core to a home: RD_SHARED, RD_OWN, or UPGRADE of a line it holds clean. -/
def Dev.coreReq (d : Dev) (c g : Nat) (own : Bool) : HomeReq :=
  if !own then .rdShared else match d.coreLine? c g with
    | some x => if x.wbSent then .rdOwn else .upgrade
    | none => .rdOwn

/-- MSG of a request to the home. -/
def HomeReq.msg : HomeReq → Nat
  | .rdShared => 0x40
  | .rdOwn => 0x41
  | .upgrade => 0x42
  | _ => 0x43

/-- Ask the home of line g on behalf of core c, and say what the core has then. -/
def Dev.coreAsk (d : Dev) (c g : Nat) (own : Bool) : Dev × CoreLine :=
  let k := d.lineKey g c
  match d.coreLook c g own with
  | .held x => (d, .held x)
  | .refused => (d, .refused)
  | .wait =>
    if d.lat.asking.contains k || (match d.coreLine? c g with
        | some x => x.wbSent
        | none => false) then (d, .wait)
    else
      let r := d.coreReq c g own
      if d.isLocal g then
        if !d.runs pgLat then (d, .wait)
        else if d.lat.suspects.contains (d.localAgent c) then (d, .refused)
        else match d.winAt (localPart g) with
          | none => (d, .wait)
          | some w =>
            let d : Dev := { d with lat := { d.lat with asking := insNat d.lat.asking k } }
            let d := d.homeRequest w (localPart g) { req := r, who := d.localAgent c }
            (d, d.coreLook c g own)
      else
        let m := d.request r.msg (g / 2 ^ 52) (g % 2 ^ 52) 0 d.curGen 0 [] (c % 16)
        match d.sendReq (.agent (c % 16) g) m with
        | (d, true) => ({ d with lat := { d.lat with asking := insNat d.lat.asking k } }, .wait)
        | (d, false) => (d, .refused)

/-! Where the bytes of an access lie. -/

/-- How one line of an access is served. -/
inductive AccPlace where
  | hole
  | regs
  /-- Through the caches of core c: the line's global address. -/
  | cached (c g : Nat)
  /-- Memory of this node. -/
  | mem
  | obj
  /-- RD_REQ or WR_REQ to another node: the global address. -/
  | far (g : Nat)
  /-- The neighbour window through a lost lease. -/
  | dead
deriving DecidableEq, Repr

/-- The core a master is, if it is one. -/
def coreOf : Master → Option Nat
  | .core c => some (c % 16)
  | _ => none

/-- How the byte at a local address is served for a master. -/
def Dev.place (d : Dev) (m : Master) (a : Nat) : AccPlace :=
  match regionOf d.part a with
  | .hole => .hole
  | .regs => .regs
  | .obj => .obj
  | .nbr =>
    match d.nbrTarget a with
    | .unmapped => .hole
    | .dead => .dead
    | .remote co g =>
      match coreOf m with
      | some c => if co then .cached c (g / 64 * 64) else .far g
      | none => .far g
  | _ =>
    match coreOf m, d.winAt a with
    | some c, some _ => .cached c (2 ^ 52 * d.node + 64 * (a / 64))
    | _, _ => .mem

/-- Cut a range at multiples of k. -/
def cutAt (k : Nat) : Nat → Nat → Nat → List (Nat × Nat)
  | 0, _, _ => []
  | fuel + 1, a, n =>
    if n = 0 then []
    else if n ≤ k - a % k then [(a, n)]
    else (a, k - a % k) :: cutAt k fuel (a + (k - a % k)) (n - (k - a % k))

/-! Reading. -/

/-- What an access may do now: each of its lines is there, or has been asked for; its controller takes accesses (R603). -/
def Dev.accReady (d : Dev) (m : Master) (own : Bool) (p : Nat × Nat) : Dev × Bool :=
  match d.place m p.1 with
  | .cached c g => (match d.coreAsk c g own with
    | (d, .wait) => (d, false)
    | (d, _) => (d, true))
  | .mem => if !d.blocked p.1 p.2 own then (d, true) else (d.recall p.1 p.2 own, false)
  | .obj =>
    if own then (d, true) else
    match d.objLook (.master m.index) p.1 p.2 with
    | (d, .wait) => (d, false)
    | _ => (d, true)
  | _ => (d, true)

/-- Make every line of an access ready. -/
def Dev.allReady (d : Dev) (m : Master) (own : Bool) (l : List (Nat × Nat)) : Dev × Bool :=
  l.foldl (fun (acc : Dev × Bool) p => let (d, ok) := acc.1.accReady m own p; (d, acc.2 && ok)) (d, true)

/-- An untracked line has served its access (R452). -/
def Dev.coreDone (d : Dev) (c g : Nat) (x : AgentLine) : Dev := if x.untracked || x.refused then d.dropCoreLine c g else d

/-- Read the bytes of one line: bytes, and whether they are poisoned. -/
def Dev.accRead (d : Dev) (fu : Fuses) (m : Master) (p : Nat × Nat) : Dev × List Byte × Bool :=
  let (a, n) := p
  let zero := List.replicate n (0 : Byte)
  match d.place m a with
  | .hole => (d.unmapped a, zero, false)
  | .regs => let (d, b) := d.regLoad fu m a n
             (d, b, false)
  | .dead => (d, zero, true)
  | .far _ => (d, zero, false)
  | .cached c g =>
    match d.coreLook c g false with
    | .held x => (d.coreDone c g x, slice x.data (a % 64) n, x.poison)
    | _ => (d.dropCoreLine c g, zero, true)
  | .mem => let poison := d.bad a n
            let (d, b) := (d.touch a n).given? a n
            (d, b, poison)
  | .obj =>
    if (d.objFor (.master m.index) a).isNone then (d.unmapped a, zero, false)
    else match d.objLook (.master m.index) a n with
      | (d, .ready b bad) => (d, b, bad.isSome)
      | (d, _) => (d, zero, true)

/-- What a control core makes of what it reads: a poisoned line is a load access fault (R555). -/
def Dev.given (d : Dev) (m : Master) (a : Nat) (b : List Byte) (poison : Bool) : Dev :=
  match coreOf m, poison with
  | some _, true => ({ d with resp := { poisoned := true, fault := some a } } : Dev).setErr pgRas 2 a
  | _, _ => { d with resp := { data := b, poisoned := poison } }

/-- The binds a master held for an access that is over. -/
def Dev.accDone (d : Dev) (m : Master) : Dev :=
  (d.tack.held.filter (fun b => b.who == .master m.index)).foldl (fun d b => d.objDone b.who b.obj) d

/-- Read lines one after another. -/
def Dev.accReads (d : Dev) (fu : Fuses) (m : Master) (l : List (Nat × Nat)) : Dev × List Byte × Bool :=
  let r := l.foldl (fun (acc : Dev × List Byte × Bool) p =>
    let (d, b, q) := acc.1.accRead fu m p
    (d, acc.2.1 ++ b, acc.2.2 || q)) (d, [], false)
  (r.1.accDone m, r.2)

/-- Ask another node for a piece of at most 4,096 bytes (R429): the bytes as they are for a form of 4 or 8 bytes, else the lines they lie in. -/
def Dev.farRead (d : Dev) (m : Master) (at_ g n : Nat) : Dev :=
  let exact := (n == 4 || n == 8) && g % n == 0
  let a := if exact then g else g / 64 * 64
  let len := if exact then n else (g + n + 63) / 64 * 64 - a
  match d.sendReq (.masterRead m.index at_ n) (d.request 1 (a / 2 ^ 52) (a % 2 ^ 52) len d.curGen 7) with
  | (d, true) => d
  | (d, false) => d.given m at_ (List.replicate n 0) true

/-! Writing. -/

/-- A write through a core's caches: the line is its own and modified; one that no home tracks goes back at once. -/
def Dev.coreWrite (d : Dev) (c g a : Nat) (b : List Byte) (poison : Bool) : Dev :=
  match d.coreLook c g true with
  | .held x =>
    let data := slice x.data 0 (a % 64) ++ b ++ x.data.drop (a % 64 + b.length)
    let y := { x with data := data, modified := true, poison := poison || x.poison && decide (b.length < 64) }
    if x.untracked then
      let m := d.request 0x43 (g / 2 ^ 52) (g % 2 ^ 52) 64 d.curGen 0 data (c + b2n y.poison * 256)
      match d.sendReq (.agent c g) m with
      | (d, true) => d.setCoreLine c g { y with wbSent := true }
      | (d, false) => d.dropCoreLine c g
    else d.setCoreLine c g y
  | _ => d.dropCoreLine c g

/-- Write the bytes of one line. -/
def Dev.accWrite (d : Dev) (fu : Fuses) (m : Master) (a : Nat) (b : List Byte) (poison : Bool) : Dev :=
  match d.place m a with
  | .hole => d.unmapped a
  | .regs => if poison then d else d.regStore fu m a b
  | .dead => d
  | .far _ => d
  | .cached c g => d.coreWrite c g a b poison
  | .mem => d.store a b poison
  | .obj => d.objWrite a b poison

/-- Send bytes to another node (R429), marked poisoned where they are; the answer comes with WR_RSP. -/
def Dev.farWrite (d : Dev) (m : Master) (g : Nat) (b : List Byte) (poison : Bool := false) : Dev :=
  let pieces := if g % 4 = 0 && b.length % 4 = 0 then wrPieces (b.length + 1) g b else [(g, b)]
  pieces.foldl (fun d (p : Nat × List Byte) =>
    (d.sendReq (.masterWrite m.index p.1) (d.request 2 (p.1 / 2 ^ 52) (p.1 % 2 ^ 52) p.2.length d.curGen 7 p.2 (wrPoison poison))).1) d

/-- Write lines one after another. -/
def Dev.accWrites (fu : Fuses) (m : Master) (poison : Bool) (base : Nat) (b : List Byte) (d : Dev) (l : List (Nat × Nat)) : Dev :=
  l.foldl (fun d p => d.accWrite fu m p.1 (slice b (p.1 - base) p.2) poison) d

/-! The command. -/

/-- The pieces a range is served in: as it is in register space, in 4 KiB pieces through RD_REQ and WR_REQ, else line by line. -/
def Dev.pieces (d : Dev) (m : Master) (a n : Nat) : List (Nat × Nat) :=
  match d.place m a with
  | .regs => [(a, n)]
  | .far _ => cutAt 4096 (n + 1) a n
  | _ => cutAt 64 (n + 1) a n

/-- One access of a master binds an object once (R304, R309). -/
def Dev.accHeat (d : Dev) (a : Nat) : Dev :=
  match regionOf d.part a with
  | .obj => (match d.objAt a with
    | some (o, _, _) => d.heatUp o
    | none => d)
  | _ => d

/-- The bridge that carries an access of registers, of the object range or of another node fails (R43); for stored memory the line itself
is armed (`Dev.bridgeArm`). -/
def Dev.lossAt (d : Dev) (a : Nat) : MemCond → Bool
  | .bridgeFail _ => !(regionOf d.part a).stored
  | _ => false
/-- Its report: an uncorrectable error, with a record of the RAS page where no ERR_STAT bit is named (R43, R557). -/
def Dev.lossSeen (d : Dev) (a : Nat) (loss : Bool) : Dev := if loss then d.bridgeHit (a / 64) else d

/-- An error of an on-die store, or an uncorrectable one in a line of a core's cache (R545, R555): a clean line is dropped, a modified one
poisoned. -/
def Dev.cacheError (d : Dev) (c : MemCond) : Dev :=
  match c with
  | .cacheUe core l =>
    let g := 2 ^ 52 * d.node + 64 * l
    let d := d.ueWord pgRas 4 (64 * l) 0 0xFF
    (match d.coreLine? (core % 16) g with
     | some x => if x.modified then d.setCoreLine (core % 16) g { x with poison := true } else d.dropCoreLine (core % 16) g
     | none => d)
  | .store e => d.storeFault e
  | _ => d

/-- An uncorrectable error in device scratch meets one of the queries whose data stand there, or a word that none of them reads again: the
spec lays the scratch out nowhere, so which is left open. The query fails as one that read a poisoned line (R238, R554). -/
def Dev.scratchError (d : Dev) (c : MemCond) : Dev :=
  match c with
  | .cellError w _ =>
    (match d.scratchOf (8 * w) with
     | some k =>
       let qs := d.homed k
       let i := d.pick (qs.length + 1)
       if qs.isEmpty || !d.linePoison (w / 8) then d
       else match qs[i]? with
         | some q => (d.drawn.touchLine (w / 8)).queryEnd q .poisoned
         | none => d.drawn
     | none => d)
  | _ => d

/-- Ask other nodes for the pieces of a read. -/
def Dev.farReads (d : Dev) (m : Master) (l : List (Nat × Nat)) : Dev :=
  l.foldl (fun d p => match d.place m p.1 with
    | .far g => d.farRead m p.1 g p.2
    | _ => d) d
/-- Send the pieces of a write of `b` at `a` to other nodes. -/
def Dev.farWrites (d : Dev) (m : Master) (a : Nat) (b : List Byte) (poison : Bool) (l : List (Nat × Nat)) : Dev :=
  l.foldl (fun d p => match d.place m p.1 with
    | .far g => d.farWrite m g (slice b (p.1 - a) p.2) poison
    | _ => d) d

/-- A read of `n` bytes. -/
def Dev.masterLoad (d : Dev) (fu : Fuses) (m : Master) (a n : Nat) (cond : MemCond) : Dev :=
  let l := d.pieces m a n
  match d.allReady m false l with
  | (d, false) => d
  | (d, true) =>
    let loss := d.lossAt a cond
    let d := (d.accHeat a).lossSeen a loss
    match d.place m a with
    | .far _ => d.farReads m l
    | _ =>
      let (d, b, poison) := d.accReads fu m l
      d.given m a b (poison || loss)

/-- A write of bytes. -/
def Dev.masterStore (d : Dev) (fu : Fuses) (m : Master) (a : Nat) (b : List Byte) (cond : MemCond) : Dev :=
  let l := d.pieces m a b.length
  match d.allReady m true l with
  | (d, false) => d
  | (d, true) =>
    let loss := d.lossAt a cond
    let d := (d.answer []).lossSeen a loss
    match d.place m a with
    | .far _ => d.farWrites m a b loss l
    | _ => Dev.accWrites fu m loss a b d l

/-- MEMORY_ACCESS (R49): a master's read or write of the local address space. One that must wait changes nothing but what it asks for,
and is taken up again by its own row. -/
def memoryAccessOp (m : Master) (addr : Nat) (acc : Access) (cond : MemCond) (fu : Fuses) (d : Dev) : Dev :=
  if d.pwr.stopped then d
  else
    let d := (((d.condition cond).cacheError cond).scratchError cond).bridgeArm addr cond
    match acc with
    | .read n => d.masterLoad fu m addr n cond
    | .write b => d.masterStore fu m addr b cond
def execMemoryAccess (m : Master) (addr : Nat) (acc : Access) (cond : MemCond) (s : State) : Host.Outcome State Fault Refusal :=
  onFuses (memoryAccessOp m addr acc cond) s

/-! Interrupt messages (R471 to R474). -/

/-- Value of a message (R471). -/
def IntMsg.value (i : IntMsg) (f inc seq : Nat) : Nat :=
  i.vector % 256 + i.kind % 4 * 2 ^ 8 + i.index % 4096 * 2 ^ 10 + f * 2 ^ 22 + inc % 65536 * 2 ^ 32 + seq % 65536 * 2 ^ 48

/-- The message that leaves next: an overflow message first (R474). -/
def Dev.nextMsg (d : Dev) (f : Nat) : Option IntMsg :=
  if (d.fn f).overflow then some { kind := 3, index := 0, vector := fld (d.rg R.fnIrqShape f) 31 24 } else (d.fn f).queue.head?

/-- It leaves the queue. -/
def Dev.popMsg (d : Dev) (f : Nat) : Dev :=
  let x := d.fn f
  d.setFn f (if x.overflow then { x with overflow := false } else { x with queue := x.queue.tail })

/-- It is sent: it takes a token and a number. -/
def Dev.sentMsg (d : Dev) (f : Nat) : Dev :=
  let d := d.popMsg f
  let x := d.fn f
  let t := if fld (d.rg R.fnIrqShape f) 15 0 = 0 then x.bucket else x.bucket - 1600000
  (d.setFn f { x with sent := x.sent + 1, bucket := t }).bump (pgFn f) 0 3

/-- A message write to another node failed (R474). -/
def Dev.msgFailed (d : Dev) (f : Nat) : Dev := (d.setInt (pgFn f) 4).bump (pgFn f) 0 8

/-- Send a message to another node as a WR_REQ of 8 bytes on strict queue 1 (R471, R473). -/
def Dev.msgAway (d : Dev) (f g : Nat) (b : List Byte) : Dev :=
  match d.sendReq (.intMsg f) (d.request 2 (g / 2 ^ 52) (g % 2 ^ 52) 8 d.curGen 4 b) { fn := f, strict := some 1 } with
  | (d, true) => d
  | (d, false) => d.msgFailed f

/-- The port of the on-die network by which the device's own writes arrive: no core's and not the SMBus target's. -/
def ownPort : Master := .port 1

/-- Write a message at a local address. -/
def Dev.msgLocal (d : Dev) (fu : Fuses) (f a : Nat) (b : List Byte) : Dev :=
  match d.place ownPort a with
  | .far g => d.msgAway f g b
  | _ => d.accWrite fu ownPort a b false

/-- INT_MESSAGE_SEND: the next message of a function leaves (R471 to R474). -/
def intMessageSendOp (f : Nat) (fu : Fuses) (d : Dev) : Dev :=
  match d.nextMsg f with
  | none => d
  | some i =>
    let g := d.addr64 R.fnMsgAddrLo R.fnMsgAddrHi f
    let limited := fld (d.rg R.fnIrqShape f) 15 0 != 0 && decide ((d.fn f).bucket < 1600000)
    if d.frozen (pgFn f) || !d.alive || !d.takesMsg f then d
    else if g = 0 then (d.popMsg f).bump (pgFn f) 0 6
    else if limited then d
    else if d.isLocal g && d.blocked (localPart g) 8 true then d.recall (localPart g) 8 true
    else
      let b := natLe 8 (i.value f (d.fn f).inc (d.fn f).sent)
      let d := d.sentMsg f
      if d.isLocal g then d.msgLocal fu f (localPart g) b else d.msgAway f g b
def execIntMessageSend (f : Nat) (s : State) : Host.Outcome State Fault Refusal :=
  onFuses (fun fu d => if f < 1024 then intMessageSendOp f fu d else d) s

end Sys2Proof.Machine
end

