-- ==== Sys2Proof/Machine/Responder.lean ====
section
/-! DEFINITION. What the node answers to other nodes: RD_REQ, WR_REQ and SVC_REQ (R425, R428 to R433, R453, R500), the requests of caching
agents and the pool engines of other nodes (R442, R443, R446, R465), and snoops at both ends (R441 to R444, R448, R449). -/

namespace Sys2Proof.Machine
open Sys2Proof

/-! Requests of the transport. -/

/-- The port by which the responder's accesses reach the device. -/
def respPort : Master := .port 0

/-- RD_REQ and WR_REQ have one of the two forms of R429, and a header as R427 states it. -/
def reqForm (m : Msg) : Bool :=
  m.code == 0 && (m.aux == 0 || (m.msg == 2 && m.aux == wrPoison true)) && decide (m.addr < 2 ^ 52) && (m.vc == 4 || m.vc == 7) &&
  (if m.msg = 1 then m.data.isEmpty else m.data.length == m.len) &&
  ((m.addr % 64 == 0 && m.len % 64 == 0 && decide (64 ≤ m.len) && decide (m.len ≤ 4096)) ||
   ((m.len == 4 || m.len == 8) && m.addr % m.len == 0))

/-- A node may reach an address under the exports (R453): none, or the code of its refusal. -/
def Dev.leaseCheck (d : Dev) (n a : Nat) (write : Bool) : Option Nat :=
  let es := (List.range 256).filter (fun e => d.expCovers e a)
  if es.isEmpty || es.any (fun e => d.holdsLease n e write && !(write && d.expReadOnly e)) then none
  else if write && es.any (fun e => d.holdsLease n e false && d.expReadOnly e) then some 6
  else some 5

/-- A write names a SEALED object (R300, R433). -/
def Dev.sealedAt (d : Dev) (a : Nat) : Bool :=
  match regionOf d.part a with
  | .obj => (match d.objAt a with
    | some (_, e, _) => e.st == 2
    | none => false)
  | _ => false

/-- Why a request of good form is refused once it has been admitted: the NACK code, and what the refused access does (R49, R300). -/
def Dev.refusal (d : Dev) (m : Msg) : Option (Nat × Dev) :=
  let write := m.msg != 1
  let last := m.addr + m.len - 1
  if !(d.mappedAt m.addr) then some (4, d.unmapped m.addr)
  else if !(d.mappedAt last) then some (4, d.unmapped last)
  else match d.leaseCheck m.src m.addr write with
    | some c => some (c, d)
    | none =>
      match d.leaseCheck m.src last write with
      | some c => some (c, d)
      | none => if write && d.sealedAt m.addr then some (6, d.objWrite m.addr m.data false) else none

/-- A request that has been admitted waits until its lines are there, kept as it came, and is taken up again by its own row. -/
def Dev.whenReady (d : Dev) (m : Msg) (r : Dev × Bool) (k : Dev → Dev) : Dev :=
  let (d1, ok) := r
  if ok then k { d1 with lat := { d1.lat with held := d1.lat.held.erase m } }
  else if d.lat.held.contains m then d1
  else { d1 with lat := { d1.lat with held := d1.lat.held ++ [m] } }

/-- Admit a request at its first arrival (R425, R500), then serve it; one that is already held goes on being served. -/
def Dev.admitThen (d : Dev) (m : Msg) (first : Dev → Option Dev) (serve : Dev → Dev) : Dev :=
  if d.lat.held.contains m then serve d
  else d.judgeThen m fun d =>
    match first d with
    | some d => d
    | none => serve d

/-- The number under which lines fetched for another node's request are kept. -/
def forwardReader (m : Msg) : Nat := 2 ^ 28 + m.src % 4096 * 65536 + m.tag % 65536

/-- Poison mask of lines read one by one (R429). -/
def maskOf (l : List Bool) : Nat := ((l.zipIdx.filter Prod.fst).map (fun x => 2 ^ x.2)).foldl (· + ·) 0

/-- Answer an RD_REQ: the bytes, and the poisoned lines in POISON_MASK. -/
def Dev.rdAnswer (d : Dev) (fu : Fuses) (m : Msg) : Dev :=
  let l := if m.len < 64 then [(m.addr, m.len)] else cutAt 64 65 m.addr m.len
  let (d, b, q) := l.foldl (fun (acc : Dev × List Byte × List Bool) p =>
    let (d, b, q) := acc.1.accRead fu respPort p
    (d, acc.2.1 ++ b, acc.2.2 ++ [q])) (d, [], [])
  (d.accDone respPort).reply m 0x81 0 (maskOf q) b

/-- An RD_REQ through this node's neighbour window: the lines are fetched from the node they lie on. -/
def Dev.rdForward (d : Dev) (m : Msg) (g : Nat) : Dev :=
  let i := forwardReader m
  match d.remoteRead i g m.len 7 with
  | (d, .wait) => d.whenReady m (d, false) id
  | (d, r) =>
    let d : Dev := { d with fab := { d.fab with bufs := Tab.del d.fab.bufs i } }
    d.whenReady m (d, true) fun d =>
      match r with
      | .ready b bad => d.reply m 0x81 0 (if bad.isSome then 2 ^ ceilDiv m.len 64 - 1 else 0) b
      | _ => d.reply m 0x81 0 (2 ^ ceilDiv m.len 64 - 1) (List.replicate m.len 0)

/-- RD_REQ (R429): a non-caching agent's read for another node. -/
def rdReqOp (m : Msg) (fu : Fuses) (d : Dev) : Dev :=
  if !d.alive then d else
  d.admitThen m (fun d => if !reqForm m then some (d.nack m 7) else (d.refusal m).map (fun r => r.2.nack m r.1)) fun d =>
    match d.place respPort m.addr with
    | .far g => d.rdForward m g
    | _ =>
      let l := if m.len < 64 then [(m.addr, m.len)] else cutAt 64 65 m.addr m.len
      d.whenReady m (d.allReady respPort false l) (fun d => d.rdAnswer fu m)
def execRdReq (m : Msg) (s : State) : Host.Outcome State Fault Refusal := onFuses (rdReqOp m) s

/-- A WR_REQ of the same source and VC that came before waits still (R429). -/
def Dev.wrBehind (d : Dev) (m : Msg) : Bool :=
  (d.lat.held.takeWhile (fun x => x != m)).any (fun x => x.msg == 2 && x.src == m.src && x.vc == m.vc)

/-- Perform a WR_REQ whose lines are ready, and answer it. -/
def Dev.wrAnswer (d : Dev) (fu : Fuses) (m : Msg) : Dev :=
  match d.place respPort m.addr with
  | .far g =>
    (match d.sendReq (.forward m.src m.tag m.mapGen) (d.request 2 (g / 2 ^ 52) (g % 2 ^ 52) m.len d.curGen 7 m.data m.aux) with
     | (d, true) => d
     | (d, false) => d.nack m 1)
  | _ =>
    let l := if m.len < 64 then [(m.addr, m.len)] else cutAt 64 65 m.addr m.len
    (Dev.accWrites fu respPort (m.aux != 0) m.addr m.data d l).reply m 0x82 0

/-- WR_REQ (R429): a non-caching agent's invalidating write; those of one source on one VC in arrival order. -/
def wrReqOp (m : Msg) (fu : Fuses) (d : Dev) : Dev :=
  if !d.alive then d else
  d.admitThen m (fun d => if !reqForm m then some (d.nack m 7) else (d.refusal m).map (fun r => r.2.nack m r.1)) fun d =>
    if d.wrBehind m then d.whenReady m (d, false) id
    else
      let l := if m.len < 64 then [(m.addr, m.len)] else cutAt 64 65 m.addr m.len
      d.whenReady m (d.allReady respPort true l) (fun d => d.wrAnswer fu m)
def execWrReq (m : Msg) (s : State) : Host.Outcome State Fault Refusal := onFuses (wrReqOp m) s

/-- SVC_REQ (R431): the service takes the payload, which its own row performs. -/
def svcReqOp (m : Msg) (d : Dev) : Dev :=
  if !d.alive then d else
  d.judgeThen m fun d =>
    if m.code != 0 || m.vc != 4 || m.data.length != m.len then d.nack m 7
    else if decide (1 ≤ m.aux % 256) && decide (m.aux % 256 ≤ 5) then d.reply m 0x83 0
    else d.nack m 8
def execSvcReq (m : Msg) (s : State) : Host.Outcome State Fault Refusal := onDev (svcReqOp m) s

/-! Requests of caching agents (R442, R443). -/

/-- Agent that a Latigo message names as its sender. -/
def srcAgent (m : Msg) : Nat := m.src % 4096 + 4096 * (m.aux % 16)

/-- A Latigo message that breaks R442 or R443: discarded and counted (R467). -/
def Dev.latBad (d : Dev) (m : Msg) : Dev := (d.setErr pgLat 1 (m.addr % 2 ^ 52)).bump pgLat 0 6

/-- A Latigo message has the form of R442, with n bytes of data. -/
def latForm (m : Msg) (n : Nat) : Bool :=
  m.addr % 64 == 0 && decide (m.addr < 2 ^ 52) && m.len == n && m.data.length == n

/-- The home's answer to an agent of another node, with a refusal's code or 64 bytes of data. -/
def Dev.latReply (d : Dev) (m : Msg) (msg code : Nat) (data : List Byte := []) (poison : Bool := false) : Dev :=
  d.reply m msg code m.addr data 3 (m.aux % 16 * 16 + b2n poison * 256)

/-- CMP message that refuses a request. -/
def HomeReq.cmp : HomeReq → Nat
  | .rdShared => 0x60
  | .wb => 0x64
  | .ncReduce => 0x65
  | _ => 0x61

/-- The request needs a right to write the line. -/
def HomeReq.writes : HomeReq → Bool
  | .rdShared => false
  | .ncRead => false
  | _ => true

/-- A remote agent may ask for the line: under a lease on a COHERENT export that covers it (R453). -/
def Dev.agentCheck (d : Dev) (n a : Nat) (write : Bool) : Option Nat :=
  let es := (List.range 256).filter (fun e => d.expCovers e a && d.expCoherent e)
  if es.any (fun e => d.holdsLease n e write && !(write && d.expReadOnly e)) then none
  else if write && es.any (fun e => d.holdsLease n e false && d.expReadOnly e) then some 6
  else some 5

/-- A request of a remote agent that has been admitted (R442, R443, R449, R453, R459). -/
def Dev.latServe (d : Dev) (r : HomeReq) (m : Msg) : Dev :=
  if !latForm m (if r == .wb then 64 else 0) || m.code != 0 then d.latBad m
  else if r == .wb && d.lat.reclaim.any (fun x => x.node == m.src) then d.bump pgLat 0 6
  else if d.lat.suspects.contains (srcAgent m) then d.latReply m r.cmp 3
  else if !d.mappedAt m.addr then (d.unmapped m.addr).latReply m r.cmp 4
  else match d.agentCheck m.src m.addr r.writes with
    | some c => d.latReply m r.cmp c
    | none =>
      let poison := (m.aux / 256).testBit 0
      match d.winAt m.addr with
      | some w => d.homeRequest w m.addr { req := r, who := srcAgent m, tag := m.tag, data := m.data, poison := poison, mapGen := some m.mapGen }
      | none =>
        let d := d.bump pgLat 0 0
        if r == .wb then (d.store m.addr m.data poison).latReply m 0x64 0
        else
          let bad := d.bad m.addr 64
          let b := d.peek m.addr 64
          (d.touch m.addr 64).latReply m 0x63 0 b bad

/-- A local core writes a modified line back (R441, R443, R444). -/
def Dev.coreEvict (d : Dev) (c g : Nat) : Dev :=
  match d.coreLine? c g with
  | none => d
  | some x =>
    if !x.modified || x.wbSent then d
    else if d.isLocal g then
      match d.winAt (localPart g) with
      | some w =>
        (d.setCoreLine c g { x with wbSent := true }).homeRequest w (localPart g) { req := .wb, who := d.localAgent c, data := x.data, poison := x.poison }
      | none => (d.dropCoreLine c g).store (localPart g / 64 * 64) x.data x.poison
    else
      match d.sendReq (.agent c g) (d.request 0x43 (g / 2 ^ 52) (g % 2 ^ 52) 64 d.curGen 0 x.data (c + b2n x.poison * 256)) with
      | (d, true) => d.setCoreLine c g { x with wbSent := true }
      | (d, false) => d

/-- A request of a caching agent reaches the home, or one of this node's cores makes it. -/
def latReqOp (r : HomeReq) (m : Msg) (d : Dev) : Dev :=
  if !d.runs pgLat then d
  else if m.src = d.node then
    let c := m.aux % 16
    let g := m.dst % 4096 * 2 ^ 52 + m.addr % 2 ^ 52 / 64 * 64
    if r == .wb then d.coreEvict c g else (d.coreAsk c g r.writes).1
  else d.judgeThen m (fun d => d.latServe r m)

/-- RD_SHARED (R443). -/
def execRdShared (m : Msg) (s : State) : Host.Outcome State Fault Refusal := onDev (latReqOp .rdShared m) s
/-- RD_OWN (R443). -/
def execRdOwn (m : Msg) (s : State) : Host.Outcome State Fault Refusal := onDev (latReqOp .rdOwn m) s
/-- UPGRADE (R443). -/
def execUpgrade (m : Msg) (s : State) : Host.Outcome State Fault Refusal := onDev (latReqOp .upgrade m) s
/-- WB (R443). -/
def execWb (m : Msg) (s : State) : Host.Outcome State Fault Refusal := onDev (latReqOp .wb m) s

/-- Reduce into a line whose copies are recalled, and answer (R465). -/
def Dev.reduceServe (d : Dev) (fu : Fuses) (m : Msg) (fmt mode : Nat) : Dev :=
  let (d, old, bad) := d.accRead fu respPort (m.addr, 64)
  let d := d.accWrite fu respPort m.addr (reduceLine fmt mode old m.data) (bad || (m.aux / 256).testBit 0)
  ((d.bump pgLat 0 14).bump pgLat 0 0).latReply m 0x65 0

/-- NC_REDUCE (R464, R465): FMT and MODE as its AUX carries them (log entry 6). -/
def ncReduceOp (m : Msg) (fmt mode : Nat) (fu : Fuses) (d : Dev) : Dev :=
  if !d.runs pgLat then d else
  d.admitThen m (fun d =>
      if !latForm m 64 || m.code != 0 || !(fmt == 8 || fmt == 9) || decide (2 < mode) then some (d.latBad m)
      else (d.refusal m).map (fun r => r.2.latReply m 0x65 r.1)) fun d =>
    d.whenReady m (d.allReady respPort true [(m.addr, 64)]) (fun d => d.reduceServe fu m fmt mode)
def execNcReduce (m : Msg) (fmt mode : Nat) (s : State) : Host.Outcome State Fault Refusal := onFuses (ncReduceOp m fmt mode) s

/-! Snoops and their answers (R441 to R444, R448, R449). -/

/-- The home takes an agent's answer: modified data writes memory; the transaction goes on when it was the last. -/
def Dev.takeAnswer (d : Dev) (l agent : Nat) (keeps : Bool) (data : Option (List Byte × Bool)) : Dev :=
  let d := match data with
    | some (b, poison) => d.store (64 * l) (slice b 0 64) poison homeCharge
    | none => d
  let (d, _) := d.snoopAnswered l agent keeps
  Dev.homeNext (d.lat.waiting.length + 1) d

/-- A snooped line of a core: what it answers, and what it holds afterwards (R441, R444). -/
def Dev.coreSnooped (d : Dev) (c g : Nat) (inv : Bool) : Dev × Nat × List Byte × Bool :=
  match d.coreLine? c g with
  | none => (d, 0x58, [], false)
  | some x =>
    if d.lat.asking.contains (d.lineKey g c) then (d.dropCoreLine c g, 0x58, [], false)
    else if x.refused then (d, 0x58, [], false)
    else if x.wbSent then (d, 0x5A, x.data, x.poison)
    else if inv then (d.dropCoreLine c g, if x.modified then 0x5A else 0x58, if x.modified then x.data else [], x.modified && x.poison)
    else
      let d := d.setCoreLine c g { x with modified := false, exclusive := false }
      (d, if x.modified then 0x5B else 0x59, if x.modified then x.data else [], x.modified && x.poison)

/-- The home acts on an answer: RSP_I, RSP_S, RSP_DATA_I, RSP_DATA_S. -/
def Dev.homeTakes (d : Dev) (l agent msg : Nat) (data : List Byte) (poison : Bool) : Dev :=
  let d := if msg = 0x58 then d.bump pgLat 0 2 else d
  d.takeAnswer l agent (msg == 0x59 || msg == 0x5B) (if msg = 0x5A || msg = 0x5B then some (data, poison) else none)

/-- One core of this node answers a snoop of line g: to its own home at once, to another by a message on VC_2. -/
def Dev.coreAnswers (d : Dev) (m : Msg) (inv : Bool) (c : Nat) : Dev :=
  let g := m.src % 4096 * 2 ^ 52 + m.addr % 2 ^ 52 / 64 * 64
  if m.src = d.node then
    match Tab.find? d.lat.busy (localPart g / 64) with
    | some t =>
      if Tab.has t.waiting (d.localAgent c) then
        let (d, msg, b, p) := d.coreSnooped c g inv
        d.homeTakes (localPart g / 64) (d.localAgent c) msg b p
      else d
    | none => d
  else
    let (d, msg, b, p) := d.coreSnooped c g inv
    let r : Msg := { msg := msg, tag := m.tag, src := d.node, dst := m.src, mapGen := d.curGen, len := b.length, fence := d.ownFence,
                     addr := m.addr, aux := c + b2n p * 256, data := b, vc := 2 }
    (d.sendMsg r).1

/-- A snoop reaches its core, or every core of this node with BCAST (R442). -/
def snoopOp (inv : Bool) (m : Msg) (d : Dev) : Dev :=
  if !d.alive then d
  else
    let d := d.took m
    if !latForm m 0 then d.latBad m
    else
      let cs := if (m.aux / 512).testBit 0 then List.range 16 else [m.aux / 16 % 16]
      cs.foldl (fun d c => d.coreAnswers m inv c) d
/-- SNP_SHARE. -/
def execSnpShare (m : Msg) (s : State) : Host.Outcome State Fault Refusal := onDev (snoopOp false m) s
/-- SNP_INV. -/
def execSnpInv (m : Msg) (s : State) : Host.Outcome State Fault Refusal := onDev (snoopOp true m) s

/-- An answer of another node's agent reaches the home (R443); one that nothing waits for is discarded and counted (R448, R459). -/
def rspOp (msg : Nat) (m : Msg) (d : Dev) : Dev :=
  if !d.alive then d
  else
    let d := d.took m
    let l := m.addr % 2 ^ 52 / 64
    if !latForm m (if msg = 0x5A || msg = 0x5B then 64 else 0) then d.latBad m
    else match Tab.find? d.lat.busy l with
      | some t =>
        if Tab.has t.waiting (srcAgent m) then
          if msg = 0x59 || msg = 0x5B then
            if t.req == .rdShared || t.req == .ncRead then d.homeTakes l (srcAgent m) msg m.data ((m.aux / 256).testBit 0) else d.latBad m
          else d.homeTakes l (srcAgent m) msg m.data ((m.aux / 256).testBit 0)
        else d.bump pgLat 0 6
      | none => d.bump pgLat 0 6
/-- RSP_I. -/
def execRspI (m : Msg) (s : State) : Host.Outcome State Fault Refusal := onDev (rspOp 0x58 m) s
/-- RSP_S. -/
def execRspS (m : Msg) (s : State) : Host.Outcome State Fault Refusal := onDev (rspOp 0x59 m) s
/-- RSP_DATA_I. -/
def execRspDataI (m : Msg) (s : State) : Host.Outcome State Fault Refusal := onDev (rspOp 0x5A m) s
/-- RSP_DATA_S. -/
def execRspDataS (m : Msg) (s : State) : Host.Outcome State Fault Refusal := onDev (rspOp 0x5B m) s

/-- SNOOP_TIMEOUT: an agent has not answered in its time (R448): the line it owned is poisoned, the agent becomes SUSPECT. -/
def snoopTimeoutOp (l agent : Nat) (d : Dev) : Dev :=
  match Tab.find? d.lat.busy l with
  | none => d
  | some t =>
    match Tab.find? t.waiting agent with
    | none => d
    | some at_ =>
      if d.now < at_ || !d.alive then d
      else
        let owned := match d.winAt (64 * l) with
          | some w => decide ((dirOf (d.peek (d.dirAddr w (64 * l)) 16)).st = 2)
          | none => false
        let d := if owned then d.poisonMem l else d
        let d : Dev := { d with lat := { d.lat with suspects := insNat d.lat.suspects agent } }
        let d := (d.bump pgLat 0 4).latEvent { node := agent % 4096, agent := agent / 4096, typ := 1, info := l % 2 ^ 32 }
        d.takeAnswer l agent false none
def execSnoopTimeout (line agent : Nat) (s : State) : Host.Outcome State Fault Refusal := onDev (snoopTimeoutOp line agent) s

end Sys2Proof.Machine
end

