-- ==== Sys2Proof/Machine/UpdateCmds.lean ====
section
/-! DEFINITION. The rows of updates, snapshots, seals and rebuilds (R185 to R219, R506, R512). -/

namespace Sys2Proof.Machine
open Sys2Proof

/-- The device's update work of its own stops while the node is fenced or the block does not run (R506). -/
def Dev.updRuns (d : Dev) : Bool := d.ctxWorks && !d.isFenced

/-! Snapshots. -/

/-- The arbiter over the FREE entries of the snapshot table: its winner and its new pointer (R191, R469). -/
def Dev.freeSnap (d : Dev) : Option Nat × Nat := rotatePick (fun i => (d.snap i).st == 0) d.upd.snapPtr 4096

/-- The next FREE entry of the snapshot table is taken on the last sealed epoch; with none the command ends QUOTA (R191). -/
def Dev.snapTake (d : Dev) (c : Nat) (x : Ctx) : Dev :=
  match d.freeSnap with
  | (none, _) => d.finishSt c .quota
  | (some i, p) =>
    let s := d.lastSealed x.coll
    let g := (d.snap i).gen
    let d := d.putSnap i { coll := x.coll, st := 1, fn := x.fn, epoch := s, pins := 0, gen := g }
    let d := ({ d with upd := { d.upd with snapPtr := p } } : Dev).fixPins x.coll
    (d.bump pgCtx 3 8).finishOk c 0 (i + 4096 * g) s

/-- SNAPSHOT_OPEN (R191). -/
def snapshotOpenOp (c : Nat) (d : Dev) : Dev :=
  if !d.canStart c 0x0B then d else
  match d.ctx? c with
  | none => d
  | some x =>
    if !(x.cflagsOk && x.zeroFrom 32) then d.finishSt c .invalidCmd
    else if d.admitOn x.coll then d.finishSt c .badCollection
    else match d.bindColl c x.coll false with
      | (d, .wait) => d
      | (d, .bad st) => d.finishSt c st
      | (d, .ok _ _) => d.snapTake c x

def execSnapshotOpen (ctx : Nat) (s : State) : Host.Outcome State Fault Refusal :=
  onUnit (fun _ => decide (ctx < 4096)) (snapshotOpenOp ctx) s

/-- SNAPSHOT_CLOSE (R192). -/
def snapshotCloseOp (c : Nat) (d : Dev) : Dev :=
  if !d.canStart c 0x0C then d else
  match d.ctx? c with
  | none => d
  | some x =>
    let s := d.snap x.snapIdx
    if !(x.cflagsOk && x.zeroFrom 32) then d.finishSt c .invalidCmd
    else if s.st != 1 || s.gen != x.snapGen then d.finishSt c .snapshotExpired
    else (d.closeSnap x.snapIdx).finishOk c 0 0 0

def execSnapshotClose (ctx : Nat) (s : State) : Host.Outcome State Fault Refusal :=
  onUnit (fun _ => decide (ctx < 4096)) (snapshotCloseOp ctx) s

/-! Seals. -/

/-- EPOCH_SEAL (R195, R196, R198, R199). -/
def epochSealOp (c : Nat) (d : Dev) : Dev :=
  if !d.canStart c 0x0A then d else
  match d.ctx? c with
  | none => d
  | some x =>
    if !(x.cflagsOk && x.zeroFrom 32) then d.finishSt c .invalidCmd
    else match d.bindColl c x.coll true with
      | (d, .wait) => d
      | (d, .bad st) => d.finishSt c st
      | (d, .ok img _) =>
        let d := d.start c
        if d.follows img then
          match d.leaderOf img with
          | none => d.finishSt c .mapStale
          | some l =>
            let e := d.openEpoch x.coll
            match d.sendSvc (.sealFwd c x.cinc) 5 l d.curGen [x.coll, 1, e] { fn := x.fn, owner := .command c x.cinc } with
            | (d, false) => d.finishSt c .tierFail
            | (d, true) => { d with upd := { d.upd with forwarded := Tab.set d.upd.forwarded c (x.coll, e) } }
        else d.sealDue x.coll img (fun s => { s with cmds := s.cmds ++ [c] })

def execEpochSeal (ctx : Nat) (s : State) : Host.Outcome State Fault Refusal :=
  onUnit (fun _ => decide (ctx < 4096)) (epochSealOp ctx) s

/-- SEAL_TIMER (R195, R197, R198, R199, R512). -/
def sealTimerOp (c : Nat) (d : Dev) : Dev :=
  if !d.updRuns then d else
  match d.collImage c with
  | none => d
  | some img =>
    let from_ := max (d.cs c 32 8) (Tab.getD d.upd.refusedAt c 0)
    if cState img == 1 && !d.follows img && (d.partnerOf c).isNone && cSealUs img != 0xFFFFFFFF && d.csFlag c 0 && !Tab.has d.upd.seals c &&
        decide (from_ + cSealUs img ≤ d.us) then
      d.sealDue c img (fun s => { s with timer := true })
    else d

def execSealTimer (coll : Nat) (s : State) : Host.Outcome State Fault Refusal :=
  onUnit (fun _ => decide (coll < 4096)) (sealTimerOp coll) s

/-- Some line of an image's current copy is poisoned. -/
def Dev.imgPoison (d : Dev) (g n : Nat) : Bool :=
  let a := localPart g
  match regionOf d.part a with
  | .obj => match d.objAt a with
    | some (_, e, off) => (d.copyBad e (d.bindTier e) off n).isSome
    | none => false
  | _ => d.bad a n

/-- One table of a record that another node forwarded, as its bind would find it (R94, R97, R204): the image, or the status. The record is
applied at once, so that its bind has ended when the row has. -/
def Dev.ownTable (d : Dev) (img : List Byte) (w : Want) : Except Status (List Byte) :=
  if d.tdescBad w.h then .error .poisoned
  else
    let x := d.tdesc w.h
    match x.current with
    | none => .error .badTable
    | some (_, s) =>
      if x.kind != w.kind then .error .badTable
      else if d.imgPoison s.base 64 then .error .poisoned
      else if !hdrAgrees img (d.peekImg s.base 64) w.chk then .error .badTable
      else if d.imgPoison s.base s.len then .error .poisoned
      else .ok (d.peekImg s.base s.len)

/-- Centroid table and codebook for a forwarded record, each empty where the record needs none. -/
def Dev.updTables (d : Dev) (img : List Byte) (ws : List Want) : Except Status (List Byte × List Byte) :=
  let get := fun k => match ws.find? (fun w => w.kind == k) with
    | some w => d.ownTable img w
    | none => .ok []
  match get 1, get 2 with
  | .ok ct, .ok bk => .ok (ct, bk)
  | .error st, _ => .error st
  | _, .error st => .error st

/-- Apply a record of another node (R204, R209, R512). -/
def Dev.applyFrom (d : Dev) (img : List Byte) (e : Nat) (u : FwdUpdate) : Dev × Status :=
  let r : URec := { upsert := u.upsert, id := u.id, list := u.list, prev := u.prev, vec := u.vec }
  if !recValid img r then (d, .invalidCmd)
  else
    let ws := updWants img u.upsert (u.list == 0xFFFFFFFF)
    match d.updTables img ws with
    | .error st => (d, st)
    | .ok t => (if ws.isEmpty then d else d.bump pgCtx 1 4).applyRec u.coll img t.1 t.2 u.fn e r

/-- Records of a partner that waited for the epoch now open (R512). -/
def Dev.applyHeld (d : Dev) (c : Nat) (img : List Byte) : Dev :=
  let due := d.cmp.held.filter (fun (h : HeldRec) => h.u.coll == c && eLe (h.u.epoch.getD 0) (d.openEpoch c))
  let d := { d with cmp := { d.cmp with held := d.cmp.held.filter (fun (h : HeldRec) => !(h.u.coll == c && eLe (h.u.epoch.getD 0) (d.openEpoch c))) } }
  due.foldl (fun d h => (d.applyFrom img (h.u.epoch.getD 0) h.u).1) d

/-- The seals that a due seal asks for, one epoch at a time: the open epoch, and after it each epoch up to the one a seal message named, which
no record reaches before its seal (R199). -/
def Dev.sealSteps : Nat → Dev → Nat → List Byte → Dev
  | 0, d, _, _ => d
  | n + 1, d, c, img =>
    match Tab.find? d.upd.seals c with
    | none => d
    | some s => if s.refused || !d.sealPasses c then d.sealRefuse c img else Dev.sealSteps n ((d.sealNow c).applyHeld c img) c img

/-- SEAL_CHECK (R196, R197): every batch applies whole, so none is applying; the checks run, and the epoch seals or the seal is refused. -/
def sealCheckOp (c : Nat) (d : Dev) : Dev :=
  match Tab.find? d.upd.seals c with
  | none => d
  | some s =>
    if !d.updRuns then d
    else
      let n := match s.upto with
        | some u => eAge (d.openEpoch c) u
        | none => 0
      Dev.sealSteps (n + 1) d c ((d.collImage c).getD [])

def execSealCheck (coll : Nat) (s : State) : Host.Outcome State Fault Refusal :=
  onUnit (fun _ => decide (coll < 4096)) (sealCheckOp coll) s

/-- The first seal message of an ADMIT's partner names e0 (R511 step 5). -/
def Dev.admitSeal (d : Dev) (src c e : Nat) : Dev :=
  let ads := d.cmp.admits.map (fun (x : Nat × Admit) =>
    (x.1, if x.2.coll == c && x.2.partner == src && x.2.step == .waitSeal && x.2.e0.isNone then { x.2 with e0 := some e } else x.2))
  { d with cmp := { d.cmp with admits := ads } }

/-- SEAL_MSG (R199, R512): the seals up to the epoch it names fall due. A seal that has passed here already is ignored but for the EPOCH_SEALs
that asked the leader for it: it has reached step 5 on this follower. -/
def sealMsgOp (src coll e : Nat) (d : Dev) : Dev :=
  let c := if d.cmp.st == .joining then (d.joinColl src coll).getD coll else coll
  if !d.updRuns then d else
  match d.collImage c with
  | none => d
  | some img =>
    let from_ := match d.partnerOf c with
      | some p => p == src
      | none => d.follows img && d.leaderOf img == some src
    let d := d.admitSeal src c e
    if from_ && cState img != 0 && eLe (d.openEpoch c) e then
      d.sealDue c img (fun s => { s with upto := some (match s.upto with
        | some u => serialMax 32 u e
        | none => e) })
    else if from_ && eLt e (d.openEpoch c) then d.sealedFwd c e (fun _ => true)
    else d

def execSealMsg (src coll epoch : Nat) (s : State) : Host.Outcome State Fault Refusal :=
  onUnit (fun _ => decide (coll < 4096)) (sealMsgOp src coll epoch) s

/-- SEAL_FORWARD (R199): the leader's own seal falls due. -/
def sealForwardOp (c : Nat) (d : Dev) : Dev :=
  if !d.updRuns then d else
  match d.collImage c with
  | none => d
  | some img => if cSharded img && d.leaderOf img == some d.node && cState img != 0 then d.sealDue c img id else d

def execSealForward (coll : Nat) (s : State) : Host.Outcome State Fault Refusal :=
  onUnit (fun _ => decide (coll < 4096)) (sealForwardOp coll) s

/-- SEAL_REFUSAL (R199): the leader's seal that is due is refused in the same way; a follower's EPOCH_SEALs, which the leader's own refusal
reaches, end with it (log entry 15). -/
def sealRefusalOp (c : Nat) (d : Dev) : Dev :=
  if !d.updRuns then d else
  match d.collImage c with
  | some img =>
    if d.follows img then d.refuseFwd c
    else match Tab.find? d.upd.seals c with
      | some s => if cSharded img && d.leaderOf img == some d.node then
          { d with upd := { d.upd with seals := Tab.set d.upd.seals c { s with refused := true } } } else d
      | none => d
  | none => d

def execSealRefusal (coll : Nat) (s : State) : Host.Outcome State Fault Refusal :=
  onUnit (fun _ => decide (coll < 4096)) (sealRefusalOp coll) s

/-! Batches. -/

/-- The header of a batch descriptor stands (R200, R203 check 1). -/
def batchHdrOk (x : Ctx) (upsert : Bool) (h : List Byte) : Bool :=
  let f := leAt h 0 1
  let n := leAt h 4 4
  let st := leAt h 8 4
  leAt h 1 1 == 0 && (slice h 12 52).all (fun b => b == 0) && decide (1 ≤ n) && decide (n ≤ 4096) &&
  (if upsert then decide (f ≤ 2) && st % 64 == 0 && decide (16 + leAt h 2 2 * inBytes f ≤ st)
   else f == 0 && leAt h 2 2 == 0 && st == 16) &&
  decide (64 + n * st ≤ x.descLen) && decide (8 * n ≤ x.outLen)

/-- Records of a batch, with check 1 of R203. -/
def batchRecs (img : List Byte) (upsert : Bool) (h b : List Byte) : List (URec × Bool) :=
  let st := leAt h 8 4
  let f := leAt h 0 1
  (List.range (leAt h 4 4)).map (fun j =>
    let r := slice b (st * j) st
    let u : URec := { upsert := upsert, id := leAt r 0 8, list := leAt r 8 4, prev := if upsert then leAt r 12 4 else 0xFFFFFFFF,
                      vec := if upsert then inVec f (leAt h 2 2) (r.drop 16) else [] }
    (u, recValid img u && (upsert || leAt r 12 4 == 0)))

/-- The sender's reference to record j of the batch in context c. -/
def updRef (cinc c j : Nat) : Nat := 4096 * (4096 * cinc + c) + j

/-- Check 2 of R203 on records from position 0 on: a later record that stands names the same id. -/
def laterSame (rs : List (URec × Bool)) (j id : Nat) : Bool := (rs.drop (j + 1)).any (fun y => y.2 && y.1.id == id)

/-- What becomes of record j of a batch: applied here, forwarded, or ended at once (R203 to R209). -/
def Dev.batchRec (d : Dev) (c : Nat) (x : Ctx) (img ct book : List Byte) (e : Nat) (rs : List (URec × Bool)) (j : Nat) : Dev × BatchRec :=
  let (u, okk) := rs.getD j ({ upsert := false, id := 0, list := 0 }, false)
  let r : BatchRec := { id := u.id, list := u.list, prev := u.prev }
  if !okk then (d, { r with status := .invalidCmd })
  else if laterSame rs j u.id then (d.bump pgCtx 3 2, { r with status := .superseded })
  else match d.ownerNode img x.mapGen u.id with
    | none => (d, { r with status := .mapStale })
    | some n =>
      if n = d.node then
        match d.applyRec x.coll img ct book x.fn e u with
        | (d, .ok) => (d, { r with epoch := e })
        | (d, st) => (d, { r with status := st })
      else
        let body := [x.coll, x.fn, b2n u.upsert, u.id, u.list, u.prev, 0, 0, updRef x.cinc c j] ++ u.vec.map (fun w => w.toNat)
        match d.sendSvc (.update c x.cinc j) 3 n x.mapGen body { fn := x.fn, owner := .command c x.cinc } with
        | (d, true) => (d.bump pgCtx 3 4, { r with waiting := true, foreign := true })
        | (d, false) => (d, { r with status := .tierFail })

/-- Apply the records of a batch in record order (R204, R205). -/
def Dev.batchApply (d : Dev) (c : Nat) (x : Ctx) (img ct book : List Byte) (upsert : Bool) (rs : List (URec × Bool)) : Dev :=
  let e := d.openEpoch x.coll
  let step := fun (acc : Dev × List BatchRec) j =>
    let (d, r) := acc.1.batchRec c x img ct book e rs j
    (d, acc.2 ++ [r])
  let (d, recs) := (List.range rs.length).foldl step (d, [])
  let here := recs.any (fun r => r.status == .ok && !r.foreign)
  let b : Batch := { coll := x.coll, upsert := upsert, recs := recs, out := x.out, epoch := if here then some e else none }
  ({ d with upd := { d.upd with batches := Tab.set d.upd.batches c b } } : Dev).batchTry c

/-- The application phase of a batch (R204): its tables are bound and their images read, and then its records are applied. While a read waits
nothing is bound, and the row comes again. -/
def Dev.batchPhase (d : Dev) (c : Nat) (x : Ctx) (img : List Byte) (upsert : Bool) (rs : List (URec × Bool)) : Dev :=
  let ws := updWants img upsert (rs.any (fun r => r.1.list == 0xFFFFFFFF))
  match d.bindLook c img ws with
  | (d, .wait) => d
  | (d, .bad st) => d.finishSt c st
  | (d, .ok bs) =>
    GotV.after (d.updImages c img bs) (fun d st => d.finishSt c st) fun d t =>
      match d.bindColl c x.coll true with
      | (d, .wait) => d
      | (d, .bad st) => d.finishSt c st
      | (d, .ok _ _) => (((d.start c).bindAll c img ws).1.batchApply c { x with mapGen := d.curGen } img t.1 t.2 upsert rs).unbind c bs

/-- A batch is held at its start while a seal is due (R196 step 1). -/
def Dev.holdBatch (d : Dev) (c : Nat) : Dev := { d with upd := { d.upd with heldBatches := insNat d.upd.heldBatches c } }
def Dev.unholdBatch (d : Dev) (c : Nat) : Dev := { d with upd := { d.upd with heldBatches := delNat d.upd.heldBatches c } }

/-- A batch whose descriptor has been read: its collection, its checks, its application (R203). -/
def Dev.batchStart (d : Dev) (c : Nat) (x : Ctx) (upsert : Bool) (h b : List Byte) : Dev :=
  if d.admitOn x.coll then d.finishSt c .badCollection
  else match d.lookColl c x.coll with
  | (d, .wait) => d
  | (d, .bad st) => d.finishSt c st
  | (d, .ok img _) =>
    if !d.collFits img true then d.finishSt c .badCollection
    else if upsert && leAt h 2 2 != cDim img then d.finishSt c .invalidCmd
    else d.batchPhase c x img upsert (batchRecs img upsert h b)

/-- Fields of an UPSERT_BATCH or DELETE_BATCH command (R200). -/
def Dev.batchFieldsOk (d : Dev) (x : Ctx) : Bool :=
  x.cflagsOk && x.zeroFrom 32 && x.desc % 64 == 0 && x.out % 8 == 0 && decide (64 ≤ x.descLen) && d.mapped x.desc x.descLen &&
  d.mapped x.out x.outLen

/-- UPSERT_BATCH and DELETE_BATCH (R200 to R206). A row for a batch that has started completes it once it may complete. -/
def batchOp (upsert : Bool) (c : Nat) (d : Dev) : Dev :=
  if Tab.has d.upd.batches c then d.batchTry c
  else if !d.canStart c (if upsert then 0x08 else 0x09) then d else
  match d.ctx? c with
  | none => d
  | some x =>
    if !d.batchFieldsOk x then d.finishSt c .invalidCmd
    else if d.isFenced then d.finishSt c .fenced
    else if Tab.has d.upd.seals x.coll then d.holdBatch c
    else
      let d := d.unholdBatch c
      GotV.after (d.need c x.desc 64) (fun d st => d.finishSt c st) fun d h =>
        if !batchHdrOk x upsert h then d.finishSt c .invalidCmd
        else GotV.after (d.need c (x.desc + 64) (leAt h 4 4 * leAt h 8 4)) (fun d st => d.finishSt c st) fun d b =>
          d.batchStart c x upsert h b

def execUpsertBatch (ctx : Nat) (s : State) : Host.Outcome State Fault Refusal :=
  onUnit (fun _ => decide (ctx < 4096)) (batchOp true ctx) s

def execDeleteBatch (ctx : Nat) (s : State) : Host.Outcome State Fault Refusal :=
  onUnit (fun _ => decide (ctx < 4096)) (batchOp false ctx) s

/-- A forwarded record has its status (R206, R209): the batch may then complete. -/
def Dev.recordDone (d : Dev) (c cinc j : Nat) (st : Status) (epoch : Nat) : Dev :=
  match d.ctx? c, Tab.find? d.upd.batches c with
  | some x, some b =>
    if x.cinc = cinc && (match b.recs[j]? with
        | some r => r.waiting
        | none => false) then
      let upd := fun (r : BatchRec) => { r with waiting := false, status := st, epoch := if st == .ok then epoch else 0 }
      let recs := (b.recs.zipIdx).map (fun r => if r.2 = j then upd r.1 else r.1)
      let d := { d with upd := { d.upd with batches := Tab.set d.upd.batches c { b with recs := recs } } }
      let d := if st == .superseded then d.bump pgCtx 3 2 else if st == .quota then d.bump pgCtx 3 3 else d
      d.batchTry c
    else d
  | _, _ => d

/-- UPDATE_REPLY (R209). -/
def updateReplyOp (r : UpdReply) (d : Dev) : Dev :=
  d.recordDone (r.ref / 4096 % 4096) (r.ref / 4096 / 4096) (r.ref % 4096) (statusOf r.status) r.epoch

def execUpdateReply (src : Nat) (r : UpdReply) (s : State) : Host.Outcome State Fault Refusal :=
  onUnit (fun _ => decide (src < 4096)) (updateReplyOp r) s

/-- Answer a forwarded record. -/
def Dev.updReply (d : Dev) (node ref : Nat) (st : Status) (e : Nat) : Dev := (d.sendSvc .service 4 node d.curGen [ref, st.code, e]).1

/-- UPDATE_FWD of a record that names its own epoch: a partner's record for a joiner (R512). -/
def Dev.partnerRec (d : Dev) (src : Nat) (u : FwdUpdate) (e : Nat) : Dev :=
  match d.joinColl src u.coll with
  | none => d
  | some c =>
    let u := { u with coll := c }
    let d := d.bump pgBuckle 2 13
    if eLt (d.openEpoch c) e then { d with cmp := { d.cmp with held := d.cmp.held ++ [{ node := src, u := u }] } }
    else match d.collImage c with
      | none => d
      | some img => (d.applyFrom img e u).1

/-- A forwarded record (R209, R206): the owner applies it and answers once its epoch has sealed, or refuses it at once. -/
def Dev.fwdApply (d : Dev) (src mapGen : Nat) (u : FwdUpdate) : Dev :=
  let a := d.admEntry src
  if d.isFenced || a.1 = 0 || a.1 = 3 then d.updReply src u.ref .fenced 0
  else match u.epoch with
    | some e => d.partnerRec src u e
    | none => (match d.collImage u.coll with
      | none => d.updReply src u.ref .badCollection 0
      | some img =>
        if !d.genLive mapGen || d.ownerNode img mapGen u.id != some d.node then d.updReply src u.ref .mapStale 0
        else if cState img != 1 then d.updReply src u.ref .badCollection 0
        else
          let e := d.openEpoch u.coll
          match (d.bump pgBuckle 2 2).applyFrom img e u with
          | (d, .ok) =>
            let f : FwdRec := { coll := u.coll, id := u.id, epoch := e, node := src, ref := u.ref }
            ({ d with upd := { d.upd with fwd := d.upd.fwd ++ [f] } } : Dev).bump pgCtx 3 5
          | (d, st) => d.updReply src u.ref st 0)

/-- UPDATE_FWD. While the table unit reads an image, the record waits behind those that came before it (R90). -/
def updateFwdOp (src mapGen : Nat) (u : FwdUpdate) (d : Dev) : Dev :=
  if d.tblBusy || !d.upd.fwdWait.isEmpty then { d with upd := { d.upd with fwdWait := d.upd.fwdWait ++ [(src, mapGen, u)] } }
  else d.fwdApply src mapGen u

/-- The records that waited for the table unit, once it is free. -/
def Dev.fwdResume (d : Dev) : Dev :=
  if d.tblBusy then d
  else d.upd.fwdWait.foldl (fun d w => d.fwdApply w.1 w.2.1 w.2.2) { d with upd := { d.upd with fwdWait := [] } }

def execUpdateFwd (src mapGen : Nat) (u : FwdUpdate) (s : State) : Host.Outcome State Fault Refusal :=
  onUnit (fun _ => decide (src < 4096)) (updateFwdOp src mapGen u) s

/-! Rebuilds. -/

/-- A rebuild of a list that a command starts or joins (R214). -/
def Dev.rebuildBy (d : Dev) (c : Nat) (x : Ctx) (img : List Byte) (l : Nat) (promote : Bool) : Dev :=
  match Tab.find? d.upd.rebuilds (listKey x.coll l) with
  | some r => (d.setRebuild { r with cmds := r.cmds ++ [c], promoted := r.promoted || (promote && r.published.isNone) }).fixRebuilds x.coll
  | none =>
    let d := d.startRebuild x.coll img l x.fn [c] promote
    match Tab.find? d.upd.rebuilds (listKey x.coll l) with
    | some r => d.rebuildBuild r
    | none => d

/-- REBUILD_LIST (R214, R215): steps 0 to 4, or joining a rebuild that runs. -/
def rebuildListOp (c : Nat) (d : Dev) : Dev :=
  if !d.canStart c 0x12 then d else
  match d.ctx? c with
  | none => d
  | some x =>
    if !(x.cflagsOk && decide (x.n 36 4 < 2) && x.zeroFrom 40) then d.finishSt c .invalidCmd
    else match d.bindColl c x.coll true with
      | (d, .wait) => d
      | (d, .bad st) => d.finishSt c st
      | (d, .ok img _) =>
        let d := d.start c
        if cLists img ≤ x.n 32 4 then d.finishSt c .invalidCmd
        else d.rebuildBy c x img (x.n 32 4) (x.n 36 4 == 1)

def execRebuildList (ctx : Nat) (s : State) : Host.Outcome State Fault Refusal :=
  onUnit (fun _ => decide (ctx < 4096)) (rebuildListOp ctx) s

/-- REBUILD_PUBLISH (R215): what is left of steps 2 to 4, then steps 5 and 6. -/
def rebuildPublishOp (coll list : Nat) (d : Dev) : Dev :=
  match Tab.find? d.upd.rebuilds (listKey coll list) with
  | none => d
  | some r =>
    if !d.updRuns || r.published.isSome then d
    else if r.newEntry.isEmpty then d.rebuildBuild r
    else d.rebuildPublish r

def execRebuildPublish (coll list : Nat) (s : State) : Host.Outcome State Fault Refusal :=
  onUnit (fun _ => decide (coll < 4096) && decide (list < 2 ^ 24)) (rebuildPublishOp coll list) s

/-! The age sweep. -/

/-- Oldest stored epoch of a list, `last` where it holds none (R218). -/
def Dev.listOldest (d : Dev) (img : List Byte) (root last l : Nat) : Nat :=
  let e := d.peekEntry root l
  let h := d.head img l
  let live := afterSealed (if e.isEmpty then none else some e.epoch)
  let es := ((d.insRecs img h).map (fun r => r.ie) ++ (d.tombRecs h).map Prod.snd).filter live
  (if e.isEmpty then es else e.epoch :: es).foldl eMin last

/-- AGE_SWEEP (R218): each pass raises EPOCH_AGED anew for every list that is still too old. -/
def ageSweepOp (c : Nat) (d : Dev) : Dev :=
  if !d.updRuns then d else
  match d.collImage c with
  | none => d
  | some img =>
    match (d.tdesc (cDirTbl img)).current with
    | none => d
    | some (_, s) =>
      if cState img == 1 && decide (Tab.getD d.upd.sweptAt c 0 + 1000 * cSweepMs img ≤ d.us) then
        let last := d.lastSealed c
        let olds := (List.range (cLists img)).map (fun l => (l, d.listOldest img s.base last l))
        let d := (d.setCs c 12 4 ((olds.map Prod.snd).foldl eMin last)).bump pgCtx 3 13
        let d := { d with upd := { d.upd with sweptAt := Tab.set d.upd.sweptAt c d.us } }
        let aged := olds.filter (fun x => decide (2 ^ 29 < eAge x.2 (d.openEpoch c)))
        let was := d.upd.aged.filter (fun k => k / 2 ^ 24 != c)
        let d := { d with upd := { d.upd with aged := aged.foldl (fun l x => insNat l (listKey c x.1)) was } }
        aged.foldl (fun d x => (d.updEvent c 3 x.1).autoRebuild c img x.1) d
      else d

def execAgeSweep (coll : Nat) (s : State) : Host.Outcome State Fault Refusal :=
  onUnit (fun _ => decide (coll < 4096)) (ageSweepOp coll) s

end Sys2Proof.Machine
end

