-- ==== Sys2Proof/Machine/Responses.lean ====
section
/-! DEFINITION. What becomes of this node's requests: responses, NACKs, timeouts, and the grants of remote homes (R429 to R433, R443 to R445,
R464, R474, R506). -/

namespace Sys2Proof.Machine
open Sys2Proof

/-! Lines read for a command, a sub-search or a rebuild (R429, R69). -/

/-- The reader of a line request still waits for all its lines. -/
def Dev.stillAsked (d : Dev) (i cinc addr len : Nat) : Bool :=
  (linesOf addr len).all (fun l => (d.bufOf i).asked.contains l) && (d.readerIs i).2.2 == cinc

/-- Its lines have arrived, with their poison. -/
def Dev.linesIn (d : Dev) (i cinc addr len : Nat) (m : Msg) : Dev :=
  if !d.stillAsked i cinc addr len then d.lateResult
  else
    let b := d.bufOf i
    let ls := linesOf addr len
    let put := (ls.zipIdx).foldl (fun (t : Tab (List Byte × Bool)) l => Tab.set t l.1 (slice m.data (64 * l.2) 64, m.addr.testBit l.2)) b.lines
    (d.setBuf i { b with lines := put, asked := b.asked.filter (fun l => !ls.contains l) }).moverFed i

/-- Its request failed with a status. -/
def Dev.linesFail (d : Dev) (i cinc addr len : Nat) (st : Status) : Dev :=
  if !d.stillAsked i cinc addr len then d.lateResult
  else
    let b := d.bufOf i
    let ls := linesOf addr len
    (d.setBuf i { b with fails := ls.foldl (fun t l => Tab.set t l st) b.fails, asked := b.asked.filter (fun l => !ls.contains l) }).moverFed i

/-! Writes of a command (R74, R429). -/

/-- Part of a record for a ring on another node did not arrive: it is sent again while the function's records are written, so that the command
has its record (R74, log entry 43). -/
def Dev.recordAgain (d : Dev) (c : Nat) (x : Ctx) (slot : Nat) (b : List Byte) (a : Nat) : Dev × Bool :=
  if d.discards x then (d, false)
  else
    let p := slice b (a - slot) 8
    d.sendReq (.cmdWrite c x.cinc a) (d.request 2 (a / 2 ^ 52) (a % 2 ^ 52) 8 x.mapGen 4 p) { fn := x.fn, owner := .command c x.cinc }

/-- A command's remote write at `a` is answered: its record waits for one less (R74); a posted record's context is freed with the last answer.
A failure ends the command, or is the status of a record that is not yet written. -/
def Dev.writeAnswer (d : Dev) (c cinc a : Nat) (st : Status) : Dev :=
  match d.ctx? c with
  | none =>
    if c < 4096 || (d.search? c).isNone then d.lateResult
    else
      let d := d.setBuf c { d.bufOf c with wrOut := (d.bufOf c).wrOut - 1 }
      if st == .ok then d else ((d.eng.runs.filter (fun r => r.2.ctx == c)).map Prod.fst).foldl (fun d r => d.runFail r st) d
  | some x =>
    if x.cinc != cinc then d.lateResult
    else
      let d := d.setCtx c { x with remote := { x.remote with wrOut := x.remote.wrOut - 1 } }
      match x.posted with
      | some (slot, b) =>
        (match if st == .ok then (d, false) else d.recordAgain c x slot b a with
         | (d, true) => d.setCtx c x
         | (d, false) => if x.remote.wrOut ≤ 1 then ((d.giveBack c).recordTold x).freeCtx c else d)
      | none =>
      if Tab.has d.lat.movers c then d.moverAnswer c st
      else if st == .ok then d
      else match x.done with
        | some r => if r.status == .ok then d.setCtx c { x with remote := { x.remote with wrOut := x.remote.wrOut - 1 }, done := some { r with status := st, flags := r.flags &&& 16 } }
                    else d
        | none => d.endCmd c st

/-! Failures (R433, R445, R456, R474). -/

/-- A master as its index names it. -/
def masterOf (i : Nat) : Master := if i < 16 then .core i else if i = 16 then .smbus else .port (i - 17)

/-- A core's request to a remote home failed (R445): the access completes with poison; a line written back is gone. -/
def Dev.agentFail (d : Dev) (c g : Nat) : Dev :=
  let d : Dev := { d with lat := { d.lat with asking := delNat d.lat.asking (d.lineKey g c) } }
  match d.coreLine? c g with
  | some x => if x.wbSent then d.dropCoreLine c g else d.setCoreLine c g { x with refused := true, poison := true }
  | none => d.setCoreLine c g { refused := true, poison := true }

/-- A lease request of a command was refused, which loses a lease it was to renew, or timed out (R455, R456). -/
def Dev.leaseFail (d : Dev) (c cinc : Nat) (st : Status) (refused : Bool) : Dev :=
  match Tab.find? d.lat.leaseCmds c with
  | some q =>
    if !d.isLive c cinc then d.lateResult
    else if refused then d.leaseAnswer c q st 0
    else ({ d with lat := { d.lat with leaseCmds := Tab.del d.lat.leaseCmds c } } : Dev).finishSt c st
  | none => d.lateResult

/-- A fill of Saddlebag from another node failed. -/
def Dev.fillFail (d : Dev) (i s : Nat) : Dev :=
  let y := d.sbInst i
  if s / 64 = y.resets then d.setSbInst i { y with fills := Tab.upd? y.fills (s % 64) (fun (f : Fill) => { f with failed := true }) } else d

/-- An outstanding request ended without its result: `code` a NACK's, or none at a timeout. -/
def Dev.reqFailed (d : Dev) (fu : Fuses) (e : TagEntry) (code : Option Nat) : Dev :=
  let st := match code with
    | some c => nackStatus c
    | none => .timeout
  match e.use with
  | .cmdRead i cinc a n => d.linesFail i cinc a n st
  | .cmdWrite c cinc a => d.writeAnswer c cinc a st
  | .masterRead m a n => d.given (masterOf m) a (List.replicate n 0) true
  | .masterWrite _ _ => d
  | .forward n t g => (match code with
    | some k => d.nack { src := n, dst := d.node, tag := t, mapGen := g } k
    | none => d)
  | .intMsg f => d.msgFailed f
  | .reduce c cinc _ => if d.isLive c cinc then d.moverAnswer c st else d.lateResult
  | .subSearch cinc k i => d.shardResult e.node { ref := subRef cinc (k / 256) (k % 256) i, status := st.code }
  | .update c cinc j => d.recordDone c cinc j st 0
  | .service => d
  | .sealFwd c cinc => if d.isLive c cinc then d.endCmd c st else d.lateResult
  | .lease c cinc => d.leaseFail c cinc st code.isSome
  | .renewal n h => (match code with
    | some _ => (d.bump pgLat 0 11).loseHandle n h
    | none => d.bump pgLat 0 11)
  | .region c cinc =>
    let d : Dev := { d with lat := { d.lat with regionCmds := delNat d.lat.regionCmds c } }
    if d.isLive c cinc then d.finishSt c st else d.lateResult
  | .saddle i s => d.fillFail i s
  | .recovery off => d.recoveryData fu off none
  | .migWrite o i => d.migWritten o i false
  | .nbrRenew x => (match code with
    | some _ => (d.bump pgLat 0 11).nbrLose x
    | none => ({ d with tack := { d.tack with nbr := Tab.upd? d.tack.nbr x (fun (n : NbrExt) => { n with renewTag := none }) } } : Dev).bump pgLat 0 11)
  | .agent c g => d.agentFail c g

/-- A NACK FENCED that says this node has been fenced (R506). -/
def Dev.fencedBy (d : Dev) (code addr : Nat) : Dev :=
  if code = 3 && !(addr / 2 ^ 32).testBit 0 && serialAfter 32 (addr % 2 ^ 32) d.ownFence then d.fenceSelf else d

/-- NACK (R433, R506). -/
def nackOp (m : Msg) (fu : Fuses) (d : Dev) : Dev :=
  d.response m pgBuckle 1 6 (fun _ => true) fun d e => ((d.bump pgBuckle 1 4).reqFailed fu e (some m.code)).fencedBy m.code m.addr
def execNack (m : Msg) (s : State) : Host.Outcome State Fault Refusal := onFuses (nackOp m) s

/-- The request of a tag entry still waits to leave. -/
def Dev.unsent (d : Dev) (t : Nat) (e : TagEntry) : Bool := d.fab.tp.outbox.any (fun x => e.isFor t x.2)

/-- TRANSPORT_TIMEOUT: 50 µs after its first flit a request ends as timed out, and its entry is free (R430, R432). -/
def transportTimeoutOp (t : Nat) (fu : Fuses) (d : Dev) : Dev :=
  match Tab.find? d.fab.tp.tags t with
  | none => d
  | some e =>
    if d.now < e.sent + usCycles 50 || d.unsent t e || !d.alive then d
    else ((d.freeTagEntry t).bump pgBuckle 1 5).reqFailed fu e none
def execTransportTimeout (tag : Nat) (s : State) : Host.Outcome State Fault Refusal :=
  onFuses (fun fu d => if tag < 8192 then transportTimeoutOp tag fu d else d) s

/-! Responses of the transport. -/

/-- Data of a master's read of another node: `a` its own address, whose low 34 bits are those of the responder's (R457). -/
def Dev.masterData (d : Dev) (e : TagEntry) (m : Msg) (mi a n : Nat) : Dev :=
  let o := a % 2 ^ 34 - e.addr % 2 ^ 34
  let bad := n != 0 && (List.range ((o + n - 1) / 64 + 1)).any (fun i => decide (o / 64 ≤ i) && m.addr.testBit i)
  d.given (masterOf mi) a (slice m.data o n) bad

/-- A line of Saddlebag has come from another node, in 64-byte pieces. -/
def Dev.fillData (d : Dev) (i s : Nat) (m : Msg) : Dev :=
  let y := d.sbInst i
  let put := fun (f : Fill) => { f with data := some (slice m.data 0 f.len, (List.range (ceilDiv f.len 64)).filter (fun k => m.addr.testBit k)) }
  if s / 64 = y.resets then d.setSbInst i { y with fills := Tab.upd? y.fills (s % 64) put } else d

/-- RD_RSP (R429, R430). -/
def rdRspOp (m : Msg) (fu : Fuses) (d : Dev) : Dev :=
  d.response m pgBuckle 1 6 (fun q => q == 1) fun d e =>
    if m.code != 0 then d.reqFailed fu e (some m.code)
    else match e.use with
      | .cmdRead i cinc a n => d.linesIn i cinc a n m
      | .masterRead mi a n => d.masterData e m mi a n
      | .saddle i s => d.fillData i s m
      | .recovery off => d.recoveryData fu off (if m.addr = 0 then some m.data else none)
      | _ => d
def execRdRsp (m : Msg) (s : State) : Host.Outcome State Fault Refusal := onFuses (rdRspOp m) s

/-- WR_RSP (R429, R430). -/
def wrRspOp (m : Msg) (fu : Fuses) (d : Dev) : Dev :=
  d.response m pgBuckle 1 6 (fun q => q == 2) fun d e =>
    if m.code != 0 then d.reqFailed fu e (some m.code)
    else match e.use with
      | .cmdWrite c cinc a => d.writeAnswer c cinc a .ok
      | .forward n t g => d.reply { src := n, dst := d.node, tag := t, mapGen := g } 0x82 0
      | .migWrite o i => d.migWritten o i true
      | _ => d
def execWrRsp (m : Msg) (s : State) : Host.Outcome State Fault Refusal := onFuses (wrRspOp m) s

/-- SVC_ACK (R431): the service has the payload; its result comes by a request of its own. -/
def svcAckOp (m : Msg) (fu : Fuses) (d : Dev) : Dev :=
  d.response m pgBuckle 1 6 (fun q => q == 3) fun d e => if m.code != 0 then d.reqFailed fu e (some m.code) else d
def execSvcAck (m : Msg) (s : State) : Host.Outcome State Fault Refusal := onFuses (svcAckOp m) s

/-! Grants of remote homes (R443 to R445). -/

/-- The grant of a request of one of this node's cores: `n` bytes of data, and the line it leaves. -/
def Dev.granted (d : Dev) (fu : Fuses) (m : Msg) (n : Nat) (fits : Nat → Bool) (f : Option AgentLine → Option AgentLine) : Dev :=
  if m.code = 0 && !latForm m n then (d.took m).latBad m
  else d.response m pgLat 0 6 fits fun d e =>
    if m.code != 0 then d.reqFailed fu e (some m.code)
    else match e.use with
      | .agent c g =>
        let k := d.lineKey g c
        let d : Dev := { d with lat := { d.lat with asking := delNat d.lat.asking k } }
        (match f (d.coreLine? c g) with
         | some x => d.setCoreLine c g x
         | none => d.dropCoreLine c g)
      | _ => d

/-- A line as a grant with data gives it. -/
def grantLine (m : Msg) (excl untracked : Bool) : Option AgentLine → Option AgentLine :=
  fun _ => some { exclusive := excl, data := m.data, poison := (m.aux / 256).testBit 0, untracked := untracked }

/-- GNT_S. -/
def execGntS (m : Msg) (s : State) : Host.Outcome State Fault Refusal :=
  onFuses (fun fu d => d.granted fu m 64 (fun q => q == 0x40) (grantLine m false false)) s
/-- GNT_E: any request may be answered with it (R444). -/
def execGntE (m : Msg) (s : State) : Host.Outcome State Fault Refusal :=
  onFuses (fun fu d => d.granted fu m 64 (fun q => q == 0x40 || q == 0x41 || q == 0x42) (grantLine m true false)) s
/-- GNT_E_NODATA: the copy it holds becomes exclusive. -/
def execGntENodata (m : Msg) (s : State) : Host.Outcome State Fault Refusal :=
  onFuses (fun fu d => d.granted fu m 0 (fun q => q == 0x42) (fun x => x.map (fun (y : AgentLine) => { y with exclusive := true }))) s
/-- GNT_UNTRACKED: a line that no home tracks (R442). -/
def execGntUntracked (m : Msg) (s : State) : Host.Outcome State Fault Refusal :=
  onFuses (fun fu d => d.granted fu m 64 (fun q => q == 0x40 || q == 0x41 || q == 0x42) (grantLine m true true)) s
/-- CMP_WB: the line written back may be dropped (R444). -/
def execCmpWb (m : Msg) (s : State) : Host.Outcome State Fault Refusal :=
  onFuses (fun fu d => d.granted fu m 0 (fun q => q == 0x43) (fun _ => none)) s

/-- CMP_REDUCE (R464): the home has reduced the line. -/
def cmpReduceOp (m : Msg) (fu : Fuses) (d : Dev) : Dev :=
  if m.code = 0 && !latForm m 0 then (d.took m).latBad m
  else d.response m pgLat 0 6 (fun q => q == 0x44) fun d e =>
    if m.code != 0 then d.reqFailed fu e (some m.code)
    else match e.use with
      | .reduce c cinc _ => if d.isLive c cinc then d.moverAnswer c .ok else d.lateResult
      | _ => d
def execCmpReduce (m : Msg) (s : State) : Host.Outcome State Fault Refusal := onFuses (cmpReduceOp m) s

end Sys2Proof.Machine
end

