-- ==== Sys2Proof/Machine/Dispatch.lean ====
section
/-! DEFINITION. One arm per command: the direct call of its meaning. -/

namespace Sys2Proof.Machine
open Sys2Proof

/-- The effect of a command on everything but the queue. -/
def exec (i : Instr) (s : State) : Host.Outcome State Fault Refusal :=
  match i with
  | .search ctx => Sys2Proof.Machine.execSearch ctx s
  | .searchBatch ctx => Sys2Proof.Machine.execSearchBatch ctx s
  | .upsertBatch ctx => Sys2Proof.Machine.execUpsertBatch ctx s
  | .deleteBatch ctx => Sys2Proof.Machine.execDeleteBatch ctx s
  | .epochSeal ctx => Sys2Proof.Machine.execEpochSeal ctx s
  | .snapshotOpen ctx => Sys2Proof.Machine.execSnapshotOpen ctx s
  | .snapshotClose ctx => Sys2Proof.Machine.execSnapshotClose ctx s
  | .tablePublish ctx => Sys2Proof.Machine.execTablePublish ctx s
  | .tableRetire ctx => Sys2Proof.Machine.execTableRetire ctx s
  | .rebuildList ctx => Sys2Proof.Machine.execRebuildList ctx s
  | .embed ctx => Sys2Proof.Machine.execEmbed ctx s
  | .rerank ctx => Sys2Proof.Machine.execRerank ctx s
  | .runProgram ctx => Sys2Proof.Machine.execRunProgram ctx s
  | .awlSeq ctx => Sys2Proof.Machine.execAwlSeq ctx s
  | .awlFence ctx => Sys2Proof.Machine.execAwlFence ctx s
  | .poolFill ctx => Sys2Proof.Machine.execPoolFill ctx s
  | .poolCopy ctx => Sys2Proof.Machine.execPoolCopy ctx s
  | .poolCompare ctx => Sys2Proof.Machine.execPoolCompare ctx s
  | .poolReduce ctx => Sys2Proof.Machine.execPoolReduce ctx s
  | .dmaCopy ctx => Sys2Proof.Machine.execDmaCopy ctx s
  | .hint ctx => Sys2Proof.Machine.execHint ctx s
  | .regionPublish ctx => Sys2Proof.Machine.execRegionPublish ctx s
  | .admitColl ctx => Sys2Proof.Machine.execAdmitColl ctx s
  | .leaseRenew ctx => Sys2Proof.Machine.execLeaseRenew ctx s
  | .sqTailDoorbell fn sq value => Sys2Proof.Machine.execSqTailDoorbell fn sq value s
  | .commandFetch => Sys2Proof.Machine.execCommandFetch s
  | .fencedCommandStart ctx => Sys2Proof.Machine.execFencedCommandStart ctx s
  | .completionRecordWrite ctx => Sys2Proof.Machine.execCompletionRecordWrite ctx s
  | .cqHeadDoorbell fn cq value => Sys2Proof.Machine.execCqHeadDoorbell fn cq value s
  | .sqCfgWrite fn sq value => Sys2Proof.Machine.execSqCfgWrite fn sq value s
  | .cqCfgWrite fn cq value => Sys2Proof.Machine.execCqCfgWrite fn cq value s
  | .ctxLost ctx => Sys2Proof.Machine.execCtxLost ctx s
  | .lateSubopResult ctx cinc => Sys2Proof.Machine.execLateSubopResult ctx cinc s
  | .commandDeadline ctx => Sys2Proof.Machine.execCommandDeadline ctx s
  | .memoryAccess m addr acc cond => Sys2Proof.Machine.execMemoryAccess m addr acc cond s
  | .registerWrite m page off value => Sys2Proof.Machine.execRegisterWrite m page off value s
  | .softReset m page => Sys2Proof.Machine.execSoftReset m page s
  | .freeze m page on => Sys2Proof.Machine.execFreeze m page on s
  | .blkEnable m page on => Sys2Proof.Machine.execBlkEnable m page on s
  | .intStatClear m page mask => Sys2Proof.Machine.execIntStatClear m page mask s
  | .intForce m page mask => Sys2Proof.Machine.execIntForce m page mask s
  | .errStatClear m page mask => Sys2Proof.Machine.execErrStatClear m page mask s
  | .eccFlipArm m page mask => Sys2Proof.Machine.execEccFlipArm m page mask s
  | .cntClear m page bank => Sys2Proof.Machine.execCntClear m page bank s
  | .cntValLoRead m page x => Sys2Proof.Machine.execCntValLoRead m page x s
  | .ctxFreeRead m => Sys2Proof.Machine.execCtxFreeRead m s
  | .kprWaitMaxRead m keeper => Sys2Proof.Machine.execKprWaitMaxRead m keeper s
  | .updEvtLoRead m => Sys2Proof.Machine.execUpdEvtLoRead m s
  | .skvEvtRead m eng => Sys2Proof.Machine.execSkvEvtRead m eng s
  | .latEvtLoRead m => Sys2Proof.Machine.execLatEvtLoRead m s
  | .rasRecRead m => Sys2Proof.Machine.execRasRecRead m s
  | .ccInboxLoRead m core => Sys2Proof.Machine.execCcInboxLoRead m core s
  | .ccInboxHiWrite m core value => Sys2Proof.Machine.execCcInboxHiWrite m core value s
  | .reinVtLoRead m inst => Sys2Proof.Machine.execReinVtLoRead m inst s
  | .pwrTempRead m => Sys2Proof.Machine.execPwrTempRead m s
  | .fnEnable fn post => Sys2Proof.Machine.execFnEnable fn post s
  | .fnQuiesce fn post => Sys2Proof.Machine.execFnQuiesce fn post s
  | .fnReset fn enable post => Sys2Proof.Machine.execFnReset fn enable post s
  | .fnPendingEnable fn enable post => Sys2Proof.Machine.execFnPendingEnable fn enable post s
  | .fnSoftReset fn => Sys2Proof.Machine.execFnSoftReset fn s
  | .fnFreeze fn on => Sys2Proof.Machine.execFnFreeze fn on s
  | .fnClean fn => Sys2Proof.Machine.execFnClean fn s
  | .intMessageSend f => Sys2Proof.Machine.execIntMessageSend f s
  | .allocReq m v => Sys2Proof.Machine.execAllocReq m v s
  | .objSeal m obj => Sys2Proof.Machine.execObjSeal m obj s
  | .objFree m obj => Sys2Proof.Machine.execObjFree m obj s
  | .nbrAdd => Sys2Proof.Machine.execNbrAdd s
  | .nbrWithdraw => Sys2Proof.Machine.execNbrWithdraw s
  | .mapInstall => Sys2Proof.Machine.execMapInstall s
  | .mapRetireOld => Sys2Proof.Machine.execMapRetireOld s
  | .selftestStart => Sys2Proof.Machine.execSelftestStart s
  | .selftestDone found => Sys2Proof.Machine.execSelftestDone found s
  | .arbCommit value => Sys2Proof.Machine.execArbCommit value s
  | .revoke slot key => Sys2Proof.Machine.execRevoke slot key s
  | .keyProg slot => Sys2Proof.Machine.execKeyProg slot s
  | .extend mr => Sys2Proof.Machine.execExtend mr s
  | .quote => Sys2Proof.Machine.execQuote s
  | .brandOpDone bad => Sys2Proof.Machine.execBrandOpDone bad s
  | .debugOpen => Sys2Proof.Machine.execDebugOpen s
  | .ccStart mask => Sys2Proof.Machine.execCcStart mask s
  | .offlineReq stack => Sys2Proof.Machine.execOfflineReq stack s
  | .channelOffline => Sys2Proof.Machine.execChannelOffline s
  | .formatStart => Sys2Proof.Machine.execFormatStart s
  | .fmtDone => Sys2Proof.Machine.execFmtDone s
  | .rasZeroStart => Sys2Proof.Machine.execRasZeroStart s
  | .zeroDone => Sys2Proof.Machine.execZeroDone s
  | .suspectClear node agent => Sys2Proof.Machine.execSuspectClear node agent s
  | .exportInvalidate exp => Sys2Proof.Machine.execExportInvalidate exp s
  | .windowEnable win => Sys2Proof.Machine.execWindowEnable win s
  | .mgmtTxDoorbell value => Sys2Proof.Machine.execMgmtTxDoorbell value s
  | .mgmtRxDoorbell value => Sys2Proof.Machine.execMgmtRxDoorbell value s
  | .mgmtRingEnable rx value => Sys2Proof.Machine.execMgmtRingEnable rx value s
  | .lsrOn tile on => Sys2Proof.Machine.execLsrOn tile on s
  | .smbReadByte pecOk => Sys2Proof.Machine.execSmbReadByte pecOk s
  | .smbRegRead off pecOk => Sys2Proof.Machine.execSmbRegRead off pecOk s
  | .smbRegWrite off value pecOk => Sys2Proof.Machine.execSmbRegWrite off value pecOk s
  | .engNop eng => Sys2Proof.Machine.execEngNop eng s
  | .engEnd eng => Sys2Proof.Machine.execEngEnd eng s
  | .engLoop eng => Sys2Proof.Machine.execEngLoop eng s
  | .engScalar eng => Sys2Proof.Machine.execEngScalar eng s
  | .engDma eng len count srcStride dstStride => Sys2Proof.Machine.execEngDma eng len count srcStride dstStride s
  | .engWload eng => Sys2Proof.Machine.execEngWload eng s
  | .engMma eng => Sys2Proof.Machine.execEngMma eng s
  | .engVec eng => Sys2Proof.Machine.execEngVec eng s
  | .engQrow eng => Sys2Proof.Machine.execEngQrow eng s
  | .engStep eng => Sys2Proof.Machine.execEngStep eng s
  | .engMerge eng => Sys2Proof.Machine.execEngMerge eng s
  | .engSave eng => Sys2Proof.Machine.execEngSave eng s
  | .engLoad eng => Sys2Proof.Machine.execEngLoad eng s
  | .engBarArrive eng => Sys2Proof.Machine.execEngBarArrive eng s
  | .engBarWait eng => Sys2Proof.Machine.execEngBarWait eng s
  | .engBarSync eng => Sys2Proof.Machine.execEngBarSync eng s
  | .engWait eng => Sys2Proof.Machine.execEngWait eng s
  | .engFence eng => Sys2Proof.Machine.execEngFence eng s
  | .engEmit eng => Sys2Proof.Machine.execEngEmit eng s
  | .tokenRetire eng token => Sys2Proof.Machine.execTokenRetire eng token s
  | .engineReserve eng => Sys2Proof.Machine.execEngineReserve eng s
  | .groupEnd group => Sys2Proof.Machine.execGroupEnd group s
  | .engineWake eng => Sys2Proof.Machine.execEngineWake eng s
  | .idleGateClose eng => Sys2Proof.Machine.execIdleGateClose eng s
  | .governorEstimate mw rise0 rise1 => Sys2Proof.Machine.execGovernorEstimate mw rise0 rise1 s
  | .powerLimitCheck w higher => Sys2Proof.Machine.execPowerLimitCheck w higher s
  | .currentReading rail amps higher => Sys2Proof.Machine.execCurrentReading rail amps higher s
  | .adaptiveVoltage die up => Sys2Proof.Machine.execAdaptiveVoltage die up s
  | .thermalRead temps => Sys2Proof.Machine.execThermalRead temps s
  | .refclkLoss which => Sys2Proof.Machine.execRefclkLoss which s
  | .hidePllLoss stack => Sys2Proof.Machine.execHidePllLoss stack s
  | .fclkPllLoss group => Sys2Proof.Machine.execFclkPllLoss group s
  | .frefLoss => Sys2Proof.Machine.execFrefLoss s
  | .frefRestored => Sys2Proof.Machine.execFrefRestored s
  | .resetNFall ns => Sys2Proof.Machine.execResetNFall ns s
  | .shedComplete => Sys2Proof.Machine.execShedComplete s
  | .coldBoot recovery selfTest torn hdr again => Sys2Proof.Machine.execColdBoot recovery selfTest torn hdr again s
  | .bootBodyLoaded body => Sys2Proof.Machine.execBootBodyLoaded body s
  | .hideTrainingDone failed => Sys2Proof.Machine.execHideTrainingDone failed s
  | .recoveryTimeout => Sys2Proof.Machine.execRecoveryTimeout s
  | .fecAlternate => Sys2Proof.Machine.execFecAlternate s
  | .dhcpRetransmit => Sys2Proof.Machine.execDhcpRetransmit s
  | .dhcpReply ack addr mask router server file => Sys2Proof.Machine.execDhcpReply ack addr mask router server file s
  | .tftpBlock oack block data => Sys2Proof.Machine.execTftpBlock oack block data s
  | .tftpTimeout => Sys2Proof.Machine.execTftpTimeout s
  | .pwrFailNFall ns => Sys2Proof.Machine.execPwrFailNFall ns s
  | .flushDone => Sys2Proof.Machine.execFlushDone s
  | .laserLow tile input power => Sys2Proof.Machine.execLaserLow tile input power s
  | .laserRecovered tile input power => Sys2Proof.Machine.execLaserRecovered tile input power s
  | .linkUp port rttNs alloc => Sys2Proof.Machine.execLinkUp port rttNs alloc s
  | .trainingFailed port => Sys2Proof.Machine.execTrainingFailed port s
  | .linkDown port => Sys2Proof.Machine.execLinkDown port s
  | .retrain port => Sys2Proof.Machine.execRetrain port s
  | .flitReceive port flit => Sys2Proof.Machine.execFlitReceive port flit s
  | .retryReq port seq => Sys2Proof.Machine.execRetryReq port seq s
  | .retryReqResend port => Sys2Proof.Machine.execRetryReqResend port s
  | .creditStall port vc => Sys2Proof.Machine.execCreditStall port vc s
  | .rdReq m => Sys2Proof.Machine.execRdReq m s
  | .wrReq m => Sys2Proof.Machine.execWrReq m s
  | .svcReq m => Sys2Proof.Machine.execSvcReq m s
  | .subSearch src p => Sys2Proof.Machine.execSubSearch src p s
  | .subResult src r => Sys2Proof.Machine.execSubResult src r s
  | .updateFwd src mapGen u => Sys2Proof.Machine.execUpdateFwd src mapGen u s
  | .updateReply src r => Sys2Proof.Machine.execUpdateReply src r s
  | .sealMsg src coll epoch => Sys2Proof.Machine.execSealMsg src coll epoch s
  | .heartbeat m => Sys2Proof.Machine.execHeartbeat m s
  | .memberFence m => Sys2Proof.Machine.execMemberFence m s
  | .mapNotice m => Sys2Proof.Machine.execMapNotice m s
  | .joinReady m => Sys2Proof.Machine.execJoinReady m s
  | .heartbeatTimer => Sys2Proof.Machine.execHeartbeatTimer s
  | .fmSilent => Sys2Proof.Machine.execFmSilent s
  | .rdRsp m => Sys2Proof.Machine.execRdRsp m s
  | .wrRsp m => Sys2Proof.Machine.execWrRsp m s
  | .svcAck m => Sys2Proof.Machine.execSvcAck m s
  | .nack m => Sys2Proof.Machine.execNack m s
  | .transportTimeout tag => Sys2Proof.Machine.execTransportTimeout tag s
  | .rdShared m => Sys2Proof.Machine.execRdShared m s
  | .rdOwn m => Sys2Proof.Machine.execRdOwn m s
  | .upgrade m => Sys2Proof.Machine.execUpgrade m s
  | .wb m => Sys2Proof.Machine.execWb m s
  | .ncReduce m fmt mode => Sys2Proof.Machine.execNcReduce m fmt mode s
  | .leaseReq m => Sys2Proof.Machine.execLeaseReq m s
  | .regionPub m region expect base len hold => Sys2Proof.Machine.execRegionPub m region expect base len hold s
  | .snpShare m => Sys2Proof.Machine.execSnpShare m s
  | .snpInv m => Sys2Proof.Machine.execSnpInv m s
  | .rspI m => Sys2Proof.Machine.execRspI m s
  | .rspS m => Sys2Proof.Machine.execRspS m s
  | .rspDataI m => Sys2Proof.Machine.execRspDataI m s
  | .rspDataS m => Sys2Proof.Machine.execRspDataS m s
  | .gntS m => Sys2Proof.Machine.execGntS m s
  | .gntE m => Sys2Proof.Machine.execGntE m s
  | .gntENodata m => Sys2Proof.Machine.execGntENodata m s
  | .gntUntracked m => Sys2Proof.Machine.execGntUntracked m s
  | .cmpWb m => Sys2Proof.Machine.execCmpWb m s
  | .cmpReduce m => Sys2Proof.Machine.execCmpReduce m s
  | .leaseGnt m status handle => Sys2Proof.Machine.execLeaseGnt m status handle s
  | .regionDone m status spec0 spec1 => Sys2Proof.Machine.execRegionDone m status spec0 spec1 s
  | .snoopTimeout line agent => Sys2Proof.Machine.execSnoopTimeout line agent s
  | .leaseTermEnd exp slot => Sys2Proof.Machine.execLeaseTermEnd exp slot s
  | .leaseReclaim exp slot => Sys2Proof.Machine.execLeaseReclaim exp slot s
  | .reclaimDone => Sys2Proof.Machine.execReclaimDone s
  | .autoRenewal node handle => Sys2Proof.Machine.execAutoRenewal node handle s
  | .leaseLost node handle => Sys2Proof.Machine.execLeaseLost node handle s
  | .mapForcedRetire => Sys2Proof.Machine.execMapForcedRetire s
  | .reinSelect inst => Sys2Proof.Machine.execReinSelect inst s
  | .starved inst => Sys2Proof.Machine.execStarved inst s
  | .queryStart sid q => Sys2Proof.Machine.execQueryStart sid q s
  | .embedPhase sid q => Sys2Proof.Machine.execEmbedPhase sid q s
  | .coarsePhase sid q => Sys2Proof.Machine.execCoarsePhase sid q s
  | .coarseBatchWindow sid => Sys2Proof.Machine.execCoarseBatchWindow sid s
  | .candidatePhase sid q => Sys2Proof.Machine.execCandidatePhase sid q s
  | .scanPiece sid q j => Sys2Proof.Machine.execScanPiece sid q j s
  | .rerankModelPhase sid q => Sys2Proof.Machine.execRerankModelPhase sid q s
  | .filterPhase sid q => Sys2Proof.Machine.execFilterPhase sid q s
  | .writePhase sid q => Sys2Proof.Machine.execWritePhase sid q s
  | .subsearchTimeout sid => Sys2Proof.Machine.execSubsearchTimeout sid s
  | .chainGrant keeper => Sys2Proof.Machine.execChainGrant keeper s
  | .keeperInsert sid q j => Sys2Proof.Machine.execKeeperInsert sid q j s
  | .thresholdFeedback sid q j => Sys2Proof.Machine.execThresholdFeedback sid q j s
  | .streamEnd sid q j => Sys2Proof.Machine.execStreamEnd sid q j s
  | .poolSlotGrant lac => Sys2Proof.Machine.execPoolSlotGrant lac s
  | .lacingPass sid q => Sys2Proof.Machine.execLacingPass sid q s
  | .sealTimer coll => Sys2Proof.Machine.execSealTimer coll s
  | .sealCheck coll => Sys2Proof.Machine.execSealCheck coll s
  | .rebuildPublish coll list => Sys2Proof.Machine.execRebuildPublish coll list s
  | .ageSweep coll => Sys2Proof.Machine.execAgeSweep coll s
  | .migrationStart m => Sys2Proof.Machine.execMigrationStart m s
  | .copyDone obj => Sys2Proof.Machine.execCopyDone obj s
  | .verifyDone obj => Sys2Proof.Machine.execVerifyDone obj s
  | .migrationAbandon obj => Sys2Proof.Machine.execMigrationAbandon obj s
  | .heatHalving => Sys2Proof.Machine.execHeatHalving s
  | .stagingFill obj unit => Sys2Proof.Machine.execStagingFill obj unit s
  | .tierLate wait => Sys2Proof.Machine.execTierLate wait s
  | .nbrRenew ext => Sys2Proof.Machine.execNbrRenew ext s
  | .nbrStop ext => Sys2Proof.Machine.execNbrStop ext s
  | .refreshDue stack bank => Sys2Proof.Machine.execRefreshDue stack bank s
  | .stitchEnd stack unit => Sys2Proof.Machine.execStitchEnd stack unit s
  | .laneFail stack => Sys2Proof.Machine.execLaneFail stack s
  | .awlStepDone ctx => Sys2Proof.Machine.execAwlStepDone ctx s
  | .awlTranche sid q j => Sys2Proof.Machine.execAwlTranche sid q j s
  | .attn model owner row => Sys2Proof.Machine.execAttn model owner row s
  | .currierWrite channel unit => Sys2Proof.Machine.execCurrierWrite channel unit s
  | .currierRead obj unit => Sys2Proof.Machine.execCurrierRead obj unit s
  | .deallocate channel => Sys2Proof.Machine.execDeallocate channel s
  | .readDecode channel lu step bits => Sys2Proof.Machine.execReadDecode channel lu step bits s
  | .programDone channel die ns ok => Sys2Proof.Machine.execProgramDone channel die ns ok s
  | .blockVerify channel die block bad => Sys2Proof.Machine.execBlockVerify channel die block bad s
  | .foldStart channel => Sys2Proof.Machine.execFoldStart channel s
  | .gcStart channel die => Sys2Proof.Machine.execGcStart channel die s
  | .mapWriteback channel page => Sys2Proof.Machine.execMapWriteback channel page s
  | .zqCalibration channel die => Sys2Proof.Machine.execZqCalibration channel die s
  | .dieTimeout channel => Sys2Proof.Machine.execDieTimeout channel s
  | .busBringup channel probe => Sys2Proof.Machine.execBusBringup channel probe s
  | .currierReady => Sys2Proof.Machine.execCurrierReady s
  | .edgerStreamOpen sid q j => Sys2Proof.Machine.execEdgerStreamOpen sid q j s
  | .edgerTranche sid q j => Sys2Proof.Machine.execEdgerTranche sid q j s
  | .rowLookup req pos => Sys2Proof.Machine.execRowLookup req pos s
  | .lineFillDone saddle slot => Sys2Proof.Machine.execLineFillDone saddle slot s
  | .sbLate saddle slot => Sys2Proof.Machine.execSbLate saddle slot s
  | .gatherDone run => Sys2Proof.Machine.execGatherDone run s
  | .modelLaneGrant run => Sys2Proof.Machine.execModelLaneGrant run s
  | .stageRepetition run => Sys2Proof.Machine.execStageRepetition run s
  | .runEnd run => Sys2Proof.Machine.execRunEnd run s
  | .patrolScrub => Sys2Proof.Machine.execPatrolScrub s
  | .ceSecond => Sys2Proof.Machine.execCeSecond s
  | .rasDatagram => Sys2Proof.Machine.execRasDatagram s
  | .mgmtFrameReceive frame fcsOk => Sys2Proof.Machine.execMgmtFrameReceive frame fcsOk s
  | .mgmtFrameSent => Sys2Proof.Machine.execMgmtFrameSent s
  | .eraseDone channel die block ok => Sys2Proof.Machine.execEraseDone channel die block ok s
  | .mgmtLinkChange up => Sys2Proof.Machine.execMgmtLinkChange up s
  | .awlStreamOpen sid q j => Sys2Proof.Machine.execAwlStreamOpen sid q j s
  | .sealForward coll => Sys2Proof.Machine.execSealForward coll s
  | .sealRefusal coll => Sys2Proof.Machine.execSealRefusal coll s
  | .recoveryArp request ip mac => Sys2Proof.Machine.execRecoveryArp request ip mac s

end Sys2Proof.Machine
end

