-- ==== Sys2Proof/Machine/Tick.lean ====
section
/-! DEFINITION. What one NCLK cycle does when no command waits (log entry 2): time, buckets, the work the device does by itself every cycle,
and the counters of cycles. -/

namespace Sys2Proof.Machine
open Sys2Proof

/-- Tokens of a function's interrupt bucket after one cycle (R473): RATE per ms, up to BURST; FREEZE pauses it (R481). -/
def Dev.fnTick (d : Dev) (f : Nat) : Dev :=
  let x := d.fn f
  let sh := d.rg R.fnIrqShape f
  let rate := fld sh 15 0
  let burst := 1600000 * max (fld sh 23 16) 1
  if d.frozen (pgFn f) then d
  else
    let d := if (x.queue.isEmpty && !x.overflow) || rate = 0 || 1600000 ≤ x.bucket then d else d.bump (pgFn f) 0 7
    let d := if x.st == .enabled && decide (d.ctxLimit f ≤ d.heldBy f) &&
        (List.range 8).any (fun n => ringOn (d.rg (R.sqCfg n) f) && d.rg (R.sqHead n) f != d.rg (R.sqTail n) f) then d.bump (pgFn f) 0 12 else d
    d.setFn f { x with bucket := min (x.bucket + rate) burst }

/-- Count a cycle when a condition holds. -/
def Dev.cycle (d : Dev) (on : Bool) (p bank i : Nat) : Dev := if on then d.bump p bank i else d

/-- Keepers for which a stream waits for a chain (R183). -/
def Dev.chainWaits (d : Dev) : List Nat :=
  (((Tab.keys d.srch.queries).filterMap (fun q => match d.inPhase q .candidate, d.nextChain q with
    | some (_, y), some sn => (d.stream? sn).map (fun x => [d.asksKeeper y.core x])
    | _, _ => (match d.inPhase q .coarse with
      | some (s, y) => (coarseAsk s y).map (coarseKeepers y.core)
      | none => none))).flatten).eraseDups

/-- The channel of an Edger's stream. -/
def Place.edger (p : Place) : Option Nat :=
  match p with
  | .flash c => some c
  | _ => none

/-- A write waits for an erased page: a die has a page of accepted data and neither a program nor an open block with room (R369). -/
def Dev.pageWaits (d : Dev) (x : Channel) : Bool :=
  (List.range x.dies).any (fun i => decide (4 ≤ (x.loose i).length) && x.progs.all (fun p => p.die != i) && (d.openBlock x 0 i).isNone && (d.openBlock x 1 i).isNone)

/-- Counters of NCLK cycles, and of FCLK cycles: 9 to every 8 (R355). -/
def Dev.cycleCounts (d : Dev) : Dev :=
  let d := d.cycle (!d.fab.tp.waiting.isEmpty) pgBuckle 1 7
  let d := d.cycle (decide (1024 ≤ d.lat.busy.length)) pgLat 0 15
  let d := d.cycle (!d.tack.waits.isEmpty || !d.tack.held.isEmpty) pgTack 1 8
  let d := d.cycle (d.cmp.st == .admitted) pgBuckle 2 0
  let d := d.cycle (decide (4096 ≤ d.cp.held.length)) pgCtx 0 3
  let d := d.cycle (!d.tbl.retires.isEmpty || d.upd.rebuilds.any (fun r => r.2.retiring.isSome)) pgCtx 1 10
  let d := d.cycle (!d.upd.heldBatches.isEmpty) pgCtx 3 12
  let d := d.cycle (d.eng.runs.any (fun r => r.2.step == .lane && r.2.lane.isNone)) pgCtx 4 3
  let d := d.cycle (!d.flash.waiting.isEmpty) pgHoldup 0 1
  let f := 9 * d.now / 8 - 9 * (d.now - 1) / 8
  let d := d.flash.ch.foldl (fun (d : Dev) e => if e.2.pend.isEmpty || !d.pageWaits e.2 then d else d.bump pgCur 0 13 f) d
  let d := (((Tab.vals d.srch.streams).filterMap (fun s => if s.started && !s.opened then s.place.edger else none)).eraseDups).foldl (fun (d : Dev) c =>
    d.bump (pgEdg c) 0 9 f) d
  let d := d.chainWaits.foldl (fun (d : Dev) k => d.bump (pgKpr k) 0 7) d
  let d := (List.range 4).foldl (fun (d : Dev) l => d.cycle (d.srch.queries.any (fun q => q.2.asked && !q.2.slot && q.2.lac == l)) (pgLac l) 0 9) d
  let d := (List.range 16).foldl (fun (d : Dev) n =>
    d.cycle (d.srch.streams.any (fun s => s.2.started && !s.2.opened && s.2.place == Place.hide n)) (pgAwl n) 0 11) d
  let d := (List.range 2).foldl (fun (d : Dev) i => d.cycle ((d.sbInst i).slotWait.any (fun w => (d.gather? w.1).isSome)) (pgSad i) 0 8) d
  (List.range 8).foldl (fun (d : Dev) c =>
    d.cycle (d.eng.groups.any (fun g => g.2.run == 0 && g.2.core == c && !g.2.running && g.2.reserved != 0)) (pgCore c) 0 4) d

/-- Commands whose context body has an uncorrectable error end, at their next cancellation point: a cycle boundary (R69). -/
def Dev.bodyTick (d : Dev) : Dev :=
  if !d.ctxWorks then d else
  d.cp.held.foldl (fun (d : Dev) e =>
    if e.2.done.isSome || (d.bodyLost e.1).isEmpty then d
    else ((d.bodyLost e.1).foldl (fun d l => d.touchLine l) d).endCmd e.1 .ctxLost) d

/-- One ACLK cycle of engine e: the cycles it is owned, stalls and waits for a shadow load (R256). -/
def Dev.engCycle (d : Dev) (e : Nat) (x : Engine) : Dev :=
  let arr := x.pend.filter (fun p => unitOf p.w == 4)
  let d := d.cycle (x.owner != .idle) (pgEng e) 0 0
  let d := d.cycle (x.owner == .group && x.stalled && !x.ended) (pgEng e) 0 3
  d.cycle ((arr.head?.map (fun p => iClass p.w)) == some 3 && arr.any (fun p => iClass p.w == 4)) (pgEng e) 0 4

/-- One ACLK cycle: engines, the running groups' clocks (R252), and matrix instructions that wait for a wake. -/
def Dev.aclkTick (d : Dev) : Dev :=
  let d := (d.eng.eng.foldl (fun d e => d.engCycle e.1 e.2) d).cycle (d.wakeWaits != 0) pgPwr 0 9
  let on := fun (g : Group) => g.running && decide (g.startAt < d.now) && !(d.groupEngs g).all (fun e => (d.engine e).ended)
  ({ d with eng := { d.eng with groups := d.eng.groups.map (fun (g : Nat × Group) => (g.1, if on g.2 then { g.2 with clks := g.2.clks + 1 } else g.2)) } } : Dev)

/-- Engines whose program has ended early are free 4 µs after at the latest, what their array still had to do being done (R253). -/
def Dev.stopTick (d : Dev) : Dev :=
  (d.eng.eng.filter (fun e => e.2.stopping && decide (e.2.readyAt ≤ d.now))).foldl (fun d e =>
    let d := (d.updEngine e.1 (fun x => { x with gated := false, awakeAt := d.now })).drive e.1
    if (d.engine e.1).stopping then d.engFree e.1 else d) d

/-- One NCLK cycle. -/
def tickOp (d : Dev) : Dev :=
  let old := d.aclk
  let d : Dev := { d with now := d.now + 1, aphase := d.aphase + (11 - d.point), fresh := [], resetting := [] }
  if d.pwr.stopped || !d.pins.resetN then d else
  let d := (Tab.keys d.fns).foldl (fun d f => (d.fnTick f).fnNext f) d
  let d := (Tab.keys d.reins).foldl (fun d i => d.reinTick i) d
  let d := d.cycleCounts
  let d := (Tab.keys d.fab.ports).foldl (fun d p => d.creditTick p) d
  let d := (if old < d.aclk then d.aclkTick else d).stopTick
  let d := d.romTick
  let d := d.zeroTick
  let d := d.tackServe
  let d := d.bodyTick.fwdResume
  d.mapSettle

end Sys2Proof.Machine
end

