-- ==== Sys2Proof/Safety.lean ====
section
/-! DEFINITION. What counts as a safe step and a safe state. -/

namespace Sys2Proof.Machine
open Sys2Proof

/-- A step goes on: neither a fault nor a refusal. -/
def goesOn (s : State) : Prop := ∃ t, step s = .next t

/-- One-time fuses only gain programmed bits (R521): what was programmed in `a` stays in `b`. -/
def Fuses.grew (a b : Fuses) : Prop :=
  a.arb ≤ b.arb ∧ (∀ k, k ∈ a.revoked → k ∈ b.revoked) ∧
  (∀ k h, Tab.find? a.keys k = some h → Tab.find? b.keys k = some h) ∧
  b.debugLock = a.debugLock ∧ b.mac = a.mac ∧ b.secret = a.secret

end Sys2Proof.Machine
end

