-- ==== Sys2Proof/WellFormed.lean ====
section
/-! DEFINITION. Which commands name only units that the part has. A command that names another changes nothing (log entry 7). -/

namespace Sys2Proof

/-- Streams of a query are numbered below 2^15, queries of a search below 256, searches below 16,384. -/
def streamWf (sid q j : Nat) : Bool := decide (sid < 16384) && decide (q < 256) && decide (j < 32768)

/-- Every unit the command names exists on the part (R4, R6, R52); `eight` says that its ports run eight lanes wide (R411). -/
def wellFormed (p : Part) (eight : Bool) : Instr → Bool
  | .search ctx | .searchBatch ctx | .upsertBatch ctx | .deleteBatch ctx | .epochSeal ctx | .snapshotOpen ctx | .snapshotClose ctx
  | .tablePublish ctx | .tableRetire ctx | .rebuildList ctx | .embed ctx | .rerank ctx | .runProgram ctx | .awlSeq ctx | .awlFence ctx
  | .poolFill ctx | .poolCopy ctx | .poolCompare ctx | .poolReduce ctx | .dmaCopy ctx | .hint ctx | .regionPublish ctx | .admitColl ctx
  | .leaseRenew ctx | .fencedCommandStart ctx | .completionRecordWrite ctx | .ctxLost ctx | .lateSubopResult ctx _ | .commandDeadline ctx
  | .awlStepDone ctx => decide (ctx < 4096)
  | .sqTailDoorbell fn sq _ | .sqCfgWrite fn sq _ => decide (fn < 1024) && decide (sq < 8)
  | .cqHeadDoorbell fn cq _ | .cqCfgWrite fn cq _ => decide (fn < 1024) && decide (cq < 8)
  | .registerWrite _ page _ _ | .softReset _ page | .freeze _ page _ | .blkEnable _ page _ | .intStatClear _ page _ | .intForce _ page _
  | .errStatClear _ page _ | .eccFlipArm _ page _ | .cntClear _ page _ => decide (page < 65536)
  | .cntValLoRead _ page x => decide (page < 65536) && decide (x < 23)
  | .kprWaitMaxRead _ keeper | .chainGrant keeper => decide (keeper < 16)
  | .skvEvtRead _ eng | .engNop eng | .engEnd eng | .engLoop eng | .engScalar eng | .engDma eng _ _ _ _ | .engWload eng | .engMma eng
  | .engVec eng | .engQrow eng | .engStep eng | .engMerge eng | .engSave eng | .engLoad eng | .engBarArrive eng | .engBarWait eng
  | .engBarSync eng | .engWait eng | .engFence eng | .engEmit eng | .engineReserve eng | .engineWake eng | .idleGateClose eng =>
    decide (eng < p.engines)
  | .ccInboxLoRead _ core | .ccInboxHiWrite _ core _ => decide (core < 16)
  | .starved inst | .reinSelect inst => decide (inst < 96) && !(eight && decide (16 ≤ inst) && decide (inst < 32))
  | .reinVtLoRead _ inst => decide (inst < 96)
  | .fnEnable fn _ | .fnQuiesce fn _ | .fnReset fn _ _ | .fnPendingEnable fn _ _ | .fnSoftReset fn | .fnFreeze fn _ | .fnClean fn =>
    decide (fn < 1024)
  | .intMessageSend f => decide (f < 1024)
  | .objSeal _ obj | .objFree _ obj | .copyDone obj | .verifyDone obj | .migrationAbandon obj | .stagingFill obj _ => decide (obj < 2 ^ 25)
  | .offlineReq stack | .hidePllLoss stack | .laneFail stack => decide (stack < 16)
  | .suspectClear node agent => decide (node < 4096) && decide (agent < 16)
  | .exportInvalidate exp => decide (exp < 256)
  | .windowEnable win => decide (win < 16)
  | .lsrOn tile _ => decide (tile < 4)
  | .tokenRetire eng token => decide (eng < p.engines) && decide (token < 16)
  | .currentReading rail _ _ => decide (rail < 2)
  | .adaptiveVoltage die _ => decide (die < 2)
  | .refclkLoss which => decide (which < 6)
  | .fclkPllLoss group => decide (8 * group < p.channels)
  | .laserLow tile input _ | .laserRecovered tile input _ => decide (tile < 4) && decide (input < 4)
  | .linkUp port _ _ | .trainingFailed port | .linkDown port | .retrain port | .flitReceive port _ | .retryReq port _ | .retryReqResend port =>
    decide (port < if eight then 16 else 32)
  | .creditStall port vc => decide (port < if eight then 16 else 32) && decide (vc < 8)
  | .subSearch src _ | .subResult src _ | .updateFwd src _ _ | .updateReply src _ => decide (src < 4096)
  | .sealMsg _ coll _ | .sealTimer coll | .sealCheck coll | .ageSweep coll | .sealForward coll | .sealRefusal coll => decide (coll < 4096)
  | .transportTimeout tag => decide (tag < 8192)
  | .leaseTermEnd exp slot | .leaseReclaim exp slot => decide (exp < 256) && decide (slot < 64)
  | .queryStart sid q | .embedPhase sid q | .coarsePhase sid q | .candidatePhase sid q | .rerankModelPhase sid q | .filterPhase sid q
  | .writePhase sid q | .lacingPass sid q => decide (sid < 16384) && decide (q < 256)
  | .coarseBatchWindow sid => decide (sid < 4096)
  | .scanPiece sid q j | .keeperInsert sid q j | .thresholdFeedback sid q j | .streamEnd sid q j | .awlTranche sid q j
  | .edgerStreamOpen sid q j | .edgerTranche sid q j | .awlStreamOpen sid q j => streamWf sid q j
  | .subsearchTimeout sid => decide (sid < 16384)
  | .poolSlotGrant lac => decide (lac < 4)
  | .rebuildPublish coll list => decide (coll < 4096) && decide (list < 2 ^ 24)
  | .nbrRenew ext | .nbrStop ext => decide (ext < 64)
  | .refreshDue stack bank => decide (stack < 16) && decide (bank < 1024)
  | .stitchEnd stack unit => decide (stack < 16) && decide (unit < 512)
  | .currierWrite channel _ | .deallocate channel | .readDecode channel _ _ _ | .foldStart channel | .mapWriteback channel _
  | .dieTimeout channel | .busBringup channel _ => decide (channel < p.channels)
  | .programDone channel die _ _ | .gcStart channel die | .zqCalibration channel die => decide (channel < p.channels) && decide (die < 16)
  | .blockVerify channel die block _ | .eraseDone channel die block _ => decide (channel < p.channels) && decide (die < 16) && decide (block < 4096)
  | .lineFillDone saddle slot | .sbLate saddle slot => decide (saddle < 2) && decide (slot < 64)
  | .commandFetch | .memoryAccess _ _ _ _ | .ctxFreeRead _ | .updEvtLoRead _ | .latEvtLoRead _ | .rasRecRead _ | .pwrTempRead _
  | .allocReq _ _ | .nbrAdd | .nbrWithdraw | .mapInstall | .mapRetireOld | .selftestStart | .selftestDone _ | .arbCommit _ | .revoke _ _
  | .keyProg _ | .extend _ | .quote | .brandOpDone _ | .debugOpen | .ccStart _ | .channelOffline | .formatStart | .fmtDone | .rasZeroStart
  | .zeroDone | .mgmtTxDoorbell _ | .mgmtRxDoorbell _ | .mgmtRingEnable _ _ | .smbReadByte _ | .smbRegRead _ _ | .smbRegWrite _ _ _
  | .groupEnd _ | .governorEstimate _ _ _ | .powerLimitCheck _ _ | .thermalRead _ | .frefLoss | .frefRestored | .resetNFall _ | .shedComplete
  | .coldBoot _ _ _ _ _ | .bootBodyLoaded _ | .hideTrainingDone _ | .recoveryTimeout | .fecAlternate | .dhcpRetransmit
  | .dhcpReply _ _ _ _ _ _ | .tftpBlock _ _ _ | .tftpTimeout | .pwrFailNFall _ | .flushDone | .rdReq _ | .wrReq _ | .svcReq _ | .heartbeat _
  | .memberFence _ | .mapNotice _ | .joinReady _ | .heartbeatTimer | .fmSilent | .rdRsp _ | .wrRsp _ | .svcAck _ | .nack _ | .rdShared _
  | .rdOwn _ | .upgrade _ | .wb _ | .ncReduce _ _ _ | .leaseReq _ | .regionPub _ _ _ _ _ _ | .snpShare _ | .snpInv _ | .rspI _ | .rspS _
  | .rspDataI _ | .rspDataS _ | .gntS _ | .gntE _ | .gntENodata _ | .gntUntracked _ | .cmpWb _ | .cmpReduce _ | .leaseGnt _ _ _
  | .regionDone _ _ _ _ | .snoopTimeout _ _ | .reclaimDone | .autoRenewal _ _ | .leaseLost _ _ | .mapForcedRetire | .migrationStart _
  | .heatHalving | .tierLate _ | .attn _ _ _ | .currierRead _ _ | .currierReady | .rowLookup _ _ | .gatherDone _ | .modelLaneGrant _
  | .stageRepetition _ | .runEnd _ | .patrolScrub | .ceSecond | .rasDatagram | .mgmtFrameReceive _ _ | .mgmtFrameSent | .mgmtLinkChange _
  | .recoveryArp _ _ _ => true

/-- Commands that access a register of a page. Where the part has no such register the access itself still has an effect: it reads zeros
(R6, R19), or raises ADDR_UNMAPPED past the register pages (R49, R51). -/
def accessesRegister : Instr → Bool
  | .registerWrite _ _ _ _ | .softReset _ _ | .freeze _ _ _ | .blkEnable _ _ _ | .intStatClear _ _ _ | .intForce _ _ _
  | .errStatClear _ _ _ | .eccFlipArm _ _ _ | .cntClear _ _ _ | .cntValLoRead _ _ _ | .kprWaitMaxRead _ _ | .skvEvtRead _ _
  | .ccInboxLoRead _ _ | .reinVtLoRead _ _ => true
  | _ => false

end Sys2Proof
end

