-- ==== Sys2Proof/Certificates/Slice0/Obligations.lean ====
section
/-! DEFINITION. The statements for the provers. -/

open Sys2Proof Sys2Proof.Machine

/-- For every command and state, a step with the command at the front of the queue is exec of the command on the state with the queue's
rest (the model's queue of waiting commands, log entry 2). -/
def Obligations.StepRunsFrontCommand : Prop :=
  ∀ (c : Instr) (q : List Instr) (fu : Fuses) (d : Dev), step ⟨c :: q, fu, d⟩ = exec c ⟨q, fu, d⟩

/-- On an empty queue a step answers a next state whose device is that after one NCLK cycle; queue and fuses stay. This is the model's own
choice (log entry 2), not a rule of the spec. -/
def Obligations.EmptyQueueIsOneCycle : Prop :=
  ∀ (fu : Fuses) (d : Dev), step ⟨[], fu, d⟩ = .next ⟨[], fu, tickOp d⟩

/-- For every command and state exec answers a next state. A command that names a unit the part lacks leaves the state exactly as it was
(the model's choice, log entry 7), except that a command that accesses a register is still an access: it answers zeros or raises
ADDR_UNMAPPED, and leaves queue and fuses alone. -/
def Obligations.EveryCommandCompletes : Prop :=
  ∀ (i : Instr) (s : State), (∃ t, exec i s = .next t ∧ t.pending = s.pending) ∧
    (wellFormed s.dev.part s.dev.eight i = false → accessesRegister i = false → exec i s = .next s) ∧
    (∀ t, wellFormed s.dev.part s.dev.eight i = false → exec i s = .next t → t.fuses = s.fuses ∧ t.dev.mem = s.dev.mem)

/-- If exec of any command answers a next state, the queue of waiting commands is as it was. -/
def Obligations.ExecLeavesTheQueue : Prop :=
  ∀ (i : Instr) (s t : State), exec i s = .next t → t.pending = s.pending

/-- A command other than BRAND_OP_DONE (the end of a Brand operation) and COLD_BOOT (which may interrupt one) leaves every fuse as it was.
The title's two commands are how the model's rows deliver fuse programming. -/
def Obligations.OnlyBrandOperationsChangeFuses : Prop :=
  ∀ (i : Instr) (s t : State), (∀ b, i ≠ .brandOpDone b) → (∀ r st n h a, i ≠ .coldBoot r st n h a) →
    exec i s = .next t → t.fuses = s.fuses

/-- For every fuse contents f0 and every state whose fuses hold all that f0 has programmed (anti-rollback count, revoked slots, key slots,
the factory's fuses), a step that goes on leaves a state whose fuses still hold it: one-time bits never return to 0. -/
def Obligations.ProgrammedFusesStay : Prop :=
  ∀ (f0 : Fuses) (s t : State), Fuses.grew f0 s.fuses → step s = .next t → Fuses.grew f0 t.fuses

/-- At reset the invariant of ProgrammedFusesStay holds for the fuse contents the model gives the part (log entry 4), and the fuses of the
machine right after reset have nothing revoked and an anti-rollback count of 0. -/
def Obligations.FusesAtReset : Prop :=
  Fuses.grew State.reset.fuses State.reset.fuses ∧ State.reset.fuses.revoked = [] ∧ State.reset.fuses.arb = 0

/-- At reset no command waits, the memory lists nothing and no valid bit is set, so every line and every byte of seat memory and Hide
reads zero. -/
def Obligations.ResetMemoryReadsZero : Prop :=
  State.reset.pending = [] ∧ State.reset.dev.mem.valid = [] ∧ State.reset.dev.mem.wf = true ∧
  (∀ l, State.reset.dev.lineValid l = !(regionOf State.reset.dev.part (64 * l)).lined) ∧
  ∀ a n, State.reset.dev.peek a n = List.replicate n 0

/-- For p in bit 7 and s in bits [6:0]: p 0 and s 0 is good, p 0 and s nonzero uncorrectable; p 1 with s 0 or 2^j is a check bit in error
and corrected, with s = pos(i) data bit i in error and corrected, with s = 0x7F poisoned, and with any other s uncorrectable. -/
def Obligations.SyndromeClasses : Prop :=
  classify 0 = .good ∧ (∀ s, 0 < s → s < 128 → classify s = .bad) ∧
  classify 128 = .fixCheck ∧ (∀ j, j < 7 → classify (128 + 2 ^ j) = .fixCheck) ∧
  (∀ i, i < 64 → classify (128 + pos i) = .fixData i) ∧ classify (128 + 0x7F) = .poisoned ∧
  (∀ s, 0 < s → s < 0x7F → (∀ j, j < 7 → s ≠ 2 ^ j) → (∀ i, i < 64 → s ≠ pos i) → classify (128 + s) = .bad) ∧
  WordClass.corrected .fixCheck = true ∧ ∀ i, WordClass.corrected (.fixData i) = true

/-- For every memory in canonical form and every word stored with good check bits, flipping any one of the 72 bits of its codeword leaves
the data a reader gets as it was, and the word classifies as corrected. -/
def Obligations.OneFlippedBitIsCorrected : Prop :=
  ∀ (m : Memory) (w i : Nat), m.wf = true → m.disc w = 0 → i < 72 →
    ((m.flip w (2 ^ i)).wclass w).corrected = true ∧ (m.flip w (2 ^ i)).word w = m.raw (8 * w) 8

/-- For every word stored with good check bits, flipping any two different bits of its codeword makes it uncorrectable, and flipping one
or two bits never gives syndrome 0xFF, which a word written poisoned gives. -/
def Obligations.TwoFlippedBitsAreDetected : Prop :=
  ∀ (m : Memory) (w i j : Nat), m.wf = true → m.disc w = 0 → i < 72 → j < 72 →
    (i ≠ j → (m.flip w (2 ^ i + 2 ^ j)).wclass w = .bad ∧ synOf ((m.flip w (2 ^ i + 2 ^ j)).disc w) ≠ 0xFF) ∧
    synOf ((m.flip w (2 ^ i)).disc w) ≠ 0xFF ∧
    synOf ((m.putDisc w 0x7F).disc w) = 0xFF ∧ (m.putDisc w 0x7F).wclass w = .poisoned

/-- For every memory in canonical form, after bytes are put at an address those bytes read there in address order, and every byte at any
other address reads as before; check bits and valid bits are not touched. -/
def Obligations.StoredBytesReadBack : Prop :=
  ∀ (m : Memory) (a : Nat) (b : List Byte), m.wf = true →
    (m.putRaw a b).raw a b.length = b ∧
    (∀ c, c < a ∨ a + b.length ≤ c → (m.putRaw a b).raw c 1 = m.raw c 1) ∧
    (∀ w, (m.putRaw a b).disc w = m.disc w) ∧ (m.putRaw a b).valid = m.valid

/-- The model's epoch comparisons and age are serial_lt, serial_le and age of the rule on all 32-bit epochs; before is never both ways
round, and of two different epochs that are not 2^31 apart exactly one is before the other. -/
def Obligations.EpochsCompareSerially : Prop :=
  ∀ a b, a < 2 ^ 32 → b < 2 ^ 32 →
    (eLt a b = true ↔ (b + 2 ^ 32 - a) % 2 ^ 32 ≠ 0 ∧ (b + 2 ^ 32 - a) % 2 ^ 32 < 2 ^ 31) ∧
    (eLe a b = true ↔ a = b ∨ eLt a b = true) ∧
    ¬(eLt a b = true ∧ eLt b a = true) ∧
    eAge a b = (b + 2 ^ 32 - a) % 2 ^ 32 ∧
    (a ≠ b → (b + 2 ^ 32 - a) % 2 ^ 32 ≠ 2 ^ 31 → (eLt a b = true ∨ eLt b a = true))

/-- For every list of requesters below n and every pointer, the winner is the requester at the least distance from the pointer going
upward and around, and the new pointer is one past it; with no requester the pointer stays. -/
def Obligations.ArbiterPicksFirstFromPointer : Prop :=
  ∀ (l : List Nat) (p n : Nat), (∀ j ∈ l, j < n) → p < n →
    (l = [] → rotatePickL l p n = (none, p)) ∧
    (l ≠ [] → ∃ j ∈ l, rotatePickL l p n = (some j, (j + 1) % n) ∧ ∀ k ∈ l, (j + n - p) % n ≤ (k + n - p) % n)

/-- For every device and counter of a page that is not frozen, adding n to a counter that holds at most 2^64 - 1 gives the sum or the
all-ones value, whichever is less, every other counter keeps its value, and a frozen page's counters stand still. -/
def Obligations.CountersSaturate : Prop :=
  ∀ (d : Dev) (p b i n : Nat), i < 32 → b < 256 → d.cnt p b i ≤ 2 ^ 64 - 1 →
    (d.frozen p = false → (d.bump p b i n).cnt p b i = min (d.cnt p b i + n) (2 ^ 64 - 1)) ∧
    (d.frozen p = true → d.bump p b i n = d) ∧
    ∀ p' b' i', i' < 32 → b' < 256 → (p', b', i') ≠ (p, b, i) → (d.bump p b i n).cnt p' b' i' = d.cnt p' b' i'

/-- SQ_TAIL_DOORBELL stores an index inside its ring and raises RING_ERR for one past it. CQ_HEAD_DOORBELL stores a head that does not
pass the tail, with a new message while records remain, and raises RING_ERR otherwise. SQ_CFG_WRITE and CQ_CFG_WRITE: enabling a ring with
a good size and base clears both indexes (and the records that wait are written); a bad size or base, or a change of fixed fields while
enabled, raises RING_ERR; any other write to an enabled ring, or one that leaves a ring disabled, stores the value. Nothing else changes. -/
def Obligations.RingDoorbellsAndConfiguration : Prop :=
  ∀ (q : List Instr) (fu : Fuses) (d : Dev) (f n : Nat), f < 1024 → n < 8 →
    (∀ w v, v = w % 65536 → v < ringSize (d.rg (R.sqCfg n) f) →
      exec (.sqTailDoorbell f n w) ⟨q, fu, d⟩ = .next ⟨q, fu, d.setRg (R.sqTail n) (w32 v) f⟩) ∧
    (∀ w v, v = w % 65536 → ringSize (d.rg (R.sqCfg n) f) ≤ v → exec (.sqTailDoorbell f n w) ⟨q, fu, d⟩ = .next ⟨q, fu, d.ringErr f⟩) ∧
    (∀ w v size old tail, v = w % 65536 → size = ringSize (d.rg (R.cqCfg n) f) → old = (d.rg (R.cqHead n) f).toNat % size →
      tail = (d.rg (R.cqTail n) f).toNat →
      (v < size → (v + size - old) % size ≤ (tail + size - old) % size → v = tail →
        exec (.cqHeadDoorbell f n w) ⟨q, fu, d⟩ = .next ⟨q, fu, d.setRg (R.cqHead n) (w32 v) f⟩) ∧
      (v < size → (v + size - old) % size ≤ (tail + size - old) % size → v ≠ tail →
        exec (.cqHeadDoorbell f n w) ⟨q, fu, d⟩ = .next ⟨q, fu, (d.setRg (R.cqHead n) (w32 v) f).cqMessage f n⟩) ∧
      (size ≤ v ∨ (tail + size - old) % size < (v + size - old) % size →
        exec (.cqHeadDoorbell f n w) ⟨q, fu, d⟩ = .next ⟨q, fu, d.ringErr f⟩)) ∧
    (∀ w v : Word, v = w &&& 0x8000071F →
      (ringOn (d.rg (R.sqCfg n) f) = false → ringOn v = true → ringOk v (d.sqBase f n) = true →
        exec (.sqCfgWrite f n w) ⟨q, fu, d⟩ =
          .next ⟨q, fu, ((d.setRg (R.sqCfg n) v f).setRg (R.sqTail n) 0 f).setRg (R.sqHead n) 0 f⟩) ∧
      (ringOn (d.rg (R.sqCfg n) f) = false → ringOn v = true → ringOk v (d.sqBase f n) = false →
        exec (.sqCfgWrite f n w) ⟨q, fu, d⟩ = .next ⟨q, fu, d.ringErr f⟩) ∧
      (ringOn (d.rg (R.sqCfg n) f) = true → (d.rg (R.sqCfg n) f ^^^ v) &&& 0x71F ≠ 0 →
        exec (.sqCfgWrite f n w) ⟨q, fu, d⟩ = .next ⟨q, fu, d.ringErr f⟩) ∧
      (ringOn (d.rg (R.sqCfg n) f) = true ∧ (d.rg (R.sqCfg n) f ^^^ v) &&& 0x71F = 0 ∨ ringOn (d.rg (R.sqCfg n) f) = false ∧ ringOn v = false →
        exec (.sqCfgWrite f n w) ⟨q, fu, d⟩ = .next ⟨q, fu, d.setRg (R.sqCfg n) v f⟩)) ∧
    (∀ w v : Word, v = w &&& 0x8000011F →
      (ringOn (d.rg (R.cqCfg n) f) = false → ringOn v = true → ringOk v (d.cqBase f n) = false →
        exec (.cqCfgWrite f n w) ⟨q, fu, d⟩ = .next ⟨q, fu, d.ringErr f⟩) ∧
      (ringOn (d.rg (R.cqCfg n) f) = true → (d.rg (R.cqCfg n) f ^^^ v) &&& 0x1F ≠ 0 →
        exec (.cqCfgWrite f n w) ⟨q, fu, d⟩ = .next ⟨q, fu, d.ringErr f⟩) ∧
      (ringOn (d.rg (R.cqCfg n) f) = true ∧ (d.rg (R.cqCfg n) f ^^^ v) &&& 0x1F = 0 ∨ ringOn (d.rg (R.cqCfg n) f) = false ∧ ringOn v = false →
        exec (.cqCfgWrite f n w) ⟨q, fu, d⟩ = .next ⟨q, fu, d.setRg (R.cqCfg n) v f⟩) ∧
      (∀ d1, ringOn (d.rg (R.cqCfg n) f) = false → ringOn v = true → ringOk v (d.cqBase f n) = true →
        d1 = (((d.setRg (R.cqCfg n) v f).setRg (R.cqTail n) 0 f).setRg (R.cqHead n) 0 f).setFn f { d.fn f with flipped := delNat (d.fn f).flipped n } →
        exec (.cqCfgWrite f n w) ⟨q, fu, d⟩ = .next ⟨q, fu, (d1.waitingFor f n).foldl (fun e c => recordWriteOp c e) d1⟩))

/-- With CTX_POOL running and a context free, COMMAND_FETCH moves the fetch pointer past the winning ring and puts its entry, read at
head, into a context; an entry that cannot be read goes there as a poisoned one. FENCED_COMMAND_START of a fetched command that waits for
its fence makes it ready once no earlier command of its ring is held; a reserved opcode then ends it INVALID_CMD. -/
def Obligations.CommandsAreFetchedAndFenced : Prop :=
  ∀ (q : List Instr) (fu : Fuses) (d : Dev),
    (∀ j p d1 b bad, d.runs pgCtx = true → d.cp.held.length < 4096 → rotatePickL d.fetchers d.cp.fetchPtr 8192 = (some j, p) →
      ({ d with cp := { d.cp with fetchPtr := p } } : Dev).cmdRead (ringReader j)
        (d.sqBase (j / 8) (j % 8) + 64 * (d.rg (R.sqHead (j % 8)) (j / 8)).toNat) 64 = (d1, .ready b bad) →
      exec .commandFetch ⟨q, fu, d⟩ = .next ⟨q, fu, d1.takeEntry (j / 8) (j % 8) b bad.isSome⟩) ∧
    (∀ j p d1 st, d.runs pgCtx = true → d.cp.held.length < 4096 → rotatePickL d.fetchers d.cp.fetchPtr 8192 = (some j, p) →
      ({ d with cp := { d.cp with fetchPtr := p } } : Dev).cmdRead (ringReader j)
        (d.sqBase (j / 8) (j % 8) + 64 * (d.rg (R.sqHead (j % 8)) (j / 8)).toNat) 64 = (d1, .fail st) →
      exec .commandFetch ⟨q, fu, d⟩ = .next ⟨q, fu, d1.takeEntry (j / 8) (j % 8) (List.replicate 64 0) true⟩) ∧
    (∀ c x, c < 4096 → d.ctx? c = some x → x.ready = false → x.done = none → d.ctxWorks = true →
      (∀ e ∈ d.cp.held, e.2.fn = x.fn → e.2.sq = x.sq → ¬ e.2.seq < x.seq) → opcodes.contains x.opcode = true →
      exec (.fencedCommandStart c) ⟨q, fu, d⟩ = .next ⟨q, fu, d.setCtx c { x with ready := true }⟩) ∧
    (∀ c x, c < 4096 → d.ctx? c = some x → x.ready = false → x.done = none → d.ctxWorks = true →
      (∀ e ∈ d.cp.held, e.2.fn = x.fn → e.2.sq = x.sq → ¬ e.2.seq < x.seq) → opcodes.contains x.opcode = false →
      exec (.fencedCommandStart c) ⟨q, fu, d⟩ = .next ⟨q, fu, (d.setCtx c { x with ready := true }).finishSt c .invalidCmd⟩)

/-- COMPLETION_RECORD_WRITE of a command that has ended, in a working package whose context pool is not frozen: a record its function
state discards is counted discarded and the context freed; else, with its completion ring enabled and not full, its writes answered and no
earlier record of the ring waiting, the command gives back what it holds and its record goes to the ring. -/
def Obligations.CompletionRecords : Prop :=
  ∀ (q : List Instr) (fu : Fuses) (d : Dev) (c : Nat) (x : Ctx) (r : Compl), c < 4096 → d.ctxWorks = true → d.ctx? c = some x →
    x.done = some r → x.posted = none →
    (d.discards x = true →
      exec (.completionRecordWrite c) ⟨q, fu, d⟩ =
        .next ⟨q, fu, (((d.giveBack c).countEnd x r).bump (pgFn x.fn) 0 2).freeCtx c⟩) ∧
    (∀ y r', d.discards x = false → x.remote.wrOut = 0 → ringOn (d.rg (R.cqCfg x.cq) x.fn) = true → d.cqFull x.fn x.cq = false →
      d.firstDone x r = true → (d.giveBack c).ctx? c = some y → y.done = some r' →
      exec (.completionRecordWrite c) ⟨q, fu, d⟩ = .next ⟨q, fu, d.recordOut c y r'⟩)

/-- For every state in which a function is DISABLED or CLEAN, FN_ENABLE, no soft reset being in its last cycle, answers a next state in
which the function is ENABLED with the next incarnation (1 after 0xFFFF), a message sequence of 0 and no pending enable. -/
def Obligations.EnableStartsAnIncarnation : Prop :=
  ∀ (q : List Instr) (fu : Fuses) (d : Dev) (f : Nat) (post : Bool), f < 1024 → (d.fn f).st = .disabled ∨ (d.fn f).st = .clean → (d.fn f).softReset = false →
    ∃ e : Dev, exec (.fnEnable f post) ⟨q, fu, d⟩ = .next ⟨q, fu, e⟩ ∧ (e.fn f).st = .enabled ∧
      (e.fn f).inc = (if (d.fn f).inc = 0xFFFF then 1 else (d.fn f).inc + 1) ∧ (e.fn f).sent = 0 ∧ (e.fn f).pendingEnable = false

/-- FN_QUIESCE of an ENABLED function writes FN_CTL and makes it QUIESCING. FN_RESET of an ENABLED or QUIESCING one drains it.
FN_PENDING_ENABLE of a QUIESCING or DRAINING one sets or clears its pending enable. FN_SOFT_RESET clears FREEZE and FN_CTL and drains an
ENABLED or QUIESCING function; of any other only its soft reset remains to end. FN_FREEZE writes BLK_CTL.FREEZE, but sets none while a
soft reset runs. FN_CLEAN takes a quiescing or draining function with nothing held to CLEAN. In the cycle after that a soft reset ends:
the page is at its reset values and the function DISABLED. -/
def Obligations.FunctionStateCommands : Prop :=
  ∀ (q : List Instr) (fu : Fuses) (d : Dev) (f : Nat) (post on : Bool), f < 1024 →
    ((d.fn f).st = .enabled → exec (.fnQuiesce f post) ⟨q, fu, d⟩ =
      .next ⟨q, fu, (d.setRg R.fnCtl (w32 (4 * b2n post)) f).setFn f { d.fn f with st := .quiescing }⟩) ∧
    ((d.fn f).st = .enabled ∨ (d.fn f).st = .quiescing → exec (.fnReset f on post) ⟨q, fu, d⟩ =
      .next ⟨q, fu, (d.setRg R.fnCtl (w32 (b2n on + 4 * b2n post)) f).drain f on false⟩) ∧
    ((d.fn f).st = .quiescing ∨ (d.fn f).st = .draining → exec (.fnPendingEnable f on post) ⟨q, fu, d⟩ =
      .next ⟨q, fu, (d.setRg R.fnCtl (w32 (b2n on + 4 * b2n post)) f).fnPend f on⟩) ∧
    ((d.fn f).st = .enabled ∨ (d.fn f).st = .quiescing → exec (.fnSoftReset f) ⟨q, fu, d⟩ =
      .next ⟨q, fu, ((d.setPg (pgFn f) R.blkCtl (putFld (d.pg (pgFn f) R.blkCtl) 2 2 0)).setRg R.fnCtl 0 f).drain f false true⟩) ∧
    ((d.fn f).st = .disabled ∨ (d.fn f).st = .clean ∨ (d.fn f).st = .draining → exec (.fnSoftReset f) ⟨q, fu, d⟩ =
      .next ⟨q, fu, ((d.setPg (pgFn f) R.blkCtl (putFld (d.pg (pgFn f) R.blkCtl) 2 2 0)).setRg R.fnCtl 0 f).setFn f { d.fn f with softReset := true }⟩) ∧
    (on = true ∧ (d.fn f).softReset = true → exec (.fnFreeze f on) ⟨q, fu, d⟩ = .next ⟨q, fu, d⟩) ∧
    (on = false ∨ (d.fn f).softReset = false → exec (.fnFreeze f on) ⟨q, fu, d⟩ =
      .next ⟨q, fu, d.setPg (pgFn f) R.blkCtl (putFld (d.pg (pgFn f) R.blkCtl) 2 2 (b2n on))⟩) ∧
    ((d.fn f).st = .quiescing ∨ (d.fn f).st = .draining → d.heldBy f = 0 → d.itemsOf f = false →
      exec (.fnClean f) ⟨q, fu, d⟩ = .next ⟨q, fu, d.fnToClean f⟩) ∧
    (∀ x, x = d.fn f → x.st = .disabled ∨ x.st = .clean → x.softReset = true → d.fnNext f = (d.pageReset (pgFn f)).setFn f { x with
      st := .disabled, pendingEnable := false, softReset := false, flipped := [], lastUs := 0, cancelled := 0, bucket := 16 * 1600000 })

/-- REIN_SELECT on a scheduler that is not frozen, in a working package, takes the item its scheduler selects: a message leaves with its
flits, and work of another kind is given leave to go on. STARVED, once the weighted group has waited STARVE_US behind strict items,
restarts the wait, sets INT_STAT.STARVED and counts it. -/
def Obligations.ReinServesItsResource : Prop :=
  ∀ (q : List Instr) (fu : Fuses) (d : Dev) (i : Nat), i < 96 → (d.eight && decide (16 ≤ i) && decide (i < 32)) = false →
    (∀ d1 it n m, d.frozen (pgRein i) = false → d.alive = true → d.reinSelect i (fun it => d.reinCan i it) = (d1, some it) →
      it.kind = .message n → Tab.find? d1.fab.tp.outbox n = some m →
      exec (.reinSelect i) ⟨q, fu, d⟩ = .next ⟨q, fu,
        (({ d1 with fab := { d1.fab with tp := { d1.fab.tp with outbox := Tab.del d1.fab.tp.outbox n } } } : Dev).msgLeaves m).sendFlits i m⟩) ∧
    (∀ d1 it, d.frozen (pgRein i) = false → d.alive = true → d.reinSelect i (fun it => d.reinCan i it) = (d1, some it) →
      (match it.kind with | .message _ => false | _ => true) = true → exec (.reinSelect i) ⟨q, fu, d⟩ = .next ⟨q, fu, d1.reinGive i it.kind⟩) ∧
    (∀ us, us = max (d.fd R.reinCfg 15 0 i) 1 → (d.rein i).queues.any (fun q => q.2.tagged) = true →
      (d.rein i).servedAt + usCycles us ≤ d.now → (d.rein i).strict.any (fun q => !q.2.isEmpty) = true → d.frozen (pgRein i) = false →
      exec (.starved i) ⟨q, fu, d⟩ = .next ⟨q, fu,
        ((d.setRein i { d.rein i with servedAt := d.now }).setInt (pgRein i) 0).bump (pgRein i) 0 10⟩)

/-- In a working package a clean MEMORY_ACCESS of this node's space reads, once none of its pieces must wait, the bytes of the pieces and
gives them to the master, or writes them and answers; one of another node goes there in its pieces. INT_MESSAGE_SEND of a function that
takes messages: with no message address the message is discarded and counted; with a token and a local address whose line needs no recall,
or with another node's address, it leaves, in R471's layout, to that address, taking a token and the next sequence number. -/
def Obligations.AccessesAndInterruptMessages : Prop :=
  ∀ (q : List Instr) (fu : Fuses) (d : Dev),
    (∀ m a n d1 d2 b bad, d.pwr.stopped = false → d.allReady m false (d.pieces m a n) = (d1, true) →
      (∀ g, (d1.accHeat a).place m a ≠ .far g) → (d1.accHeat a).accReads fu m (d.pieces m a n) = (d2, b, bad) →
      exec (.memoryAccess m a (.read n) .clean) ⟨q, fu, d⟩ = .next ⟨q, fu, d2.given m a b bad⟩) ∧
    (∀ m a b d1, d.pwr.stopped = false → d.allReady m true (d.pieces m a b.length) = (d1, true) →
      (∀ g, (d1.answer []).place m a ≠ .far g) →
      exec (.memoryAccess m a (.write b) .clean) ⟨q, fu, d⟩ =
        .next ⟨q, fu, Dev.accWrites fu m false a b (d1.answer []) (d.pieces m a b.length)⟩) ∧
    (∀ m a n d1 g, d.pwr.stopped = false → d.allReady m false (d.pieces m a n) = (d1, true) → (d1.accHeat a).place m a = .far g →
      exec (.memoryAccess m a (.read n) .clean) ⟨q, fu, d⟩ =
        .next ⟨q, fu, (d1.accHeat a).farReads m (d.pieces m a n)⟩) ∧
    (∀ m a b d1 g, d.pwr.stopped = false → d.allReady m true (d.pieces m a b.length) = (d1, true) → (d1.answer []).place m a = .far g →
      exec (.memoryAccess m a (.write b) .clean) ⟨q, fu, d⟩ =
        .next ⟨q, fu, (d1.answer []).farWrites m a b false (d.pieces m a b.length)⟩) ∧
    (∀ f i g, f < 1024 → d.nextMsg f = some i → d.frozen (pgFn f) = false → d.alive = true → d.takesMsg f = true →
      g = d.addr64 R.fnMsgAddrLo R.fnMsgAddrHi f →
      (g = 0 → exec (.intMessageSend f) ⟨q, fu, d⟩ = .next ⟨q, fu, (d.popMsg f).bump (pgFn f) 0 6⟩) ∧
      (g ≠ 0 → (fld (d.rg R.fnIrqShape f) 15 0 = 0 ∨ 1600000 ≤ (d.fn f).bucket) → d.isLocal g = true → d.blocked (localPart g) 8 true = false →
        (d.sentMsg f).isLocal g = true →
        exec (.intMessageSend f) ⟨q, fu, d⟩ =
          .next ⟨q, fu, (d.sentMsg f).msgLocal fu f (localPart g) (natLe 8 (i.value f (d.fn f).inc (d.fn f).sent))⟩) ∧
      (g ≠ 0 → (fld (d.rg R.fnIrqShape f) 15 0 = 0 ∨ 1600000 ≤ (d.fn f).bucket) → d.isLocal g = false → (d.sentMsg f).isLocal g = false →
        exec (.intMessageSend f) ⟨q, fu, d⟩ =
          .next ⟨q, fu, (d.sentMsg f).msgAway f g (natLe 8 (i.value f (d.fn f).inc (d.fn f).sent))⟩))

/-- CTX_LOST ends a running command with CTX_LOST, and COMMAND_DEADLINE ends one whose deadline has passed, unless its search had begun
WRITE, with TIMEOUT, dropping what it runs. LATE_SUBOP_RESULT of a context that is free, ended or of another incarnation is discarded and
counted. -/
def Obligations.CommandsEndEarly : Prop :=
  ∀ (q : List Instr) (fu : Fuses) (d : Dev) (c : Nat), c < 4096 →
    (∀ x, d.ctx? c = some x → x.cause = none → x.done = none →
      exec (.ctxLost c) ⟨q, fu, d⟩ =
        .next ⟨q, fu, (d.finish c { status := .ctxLost, count := d.earlyCount c }).dropWork c x.cinc .ctxLost⟩) ∧
    (∀ x t, d.ctx? c = some x → x.cause = none → x.done = none → x.deadline = some t → t ≤ d.now → d.ctxWorks = true →
      d.wroteBy c t = false →
      exec (.commandDeadline c) ⟨q, fu, d⟩ =
        .next ⟨q, fu, (d.finish c { status := .timeout, count := d.earlyCount c }).dropWork c x.cinc .timeout⟩) ∧
    (∀ k, d.ctx? c = none → exec (.lateSubopResult c k) ⟨q, fu, d⟩ = .next ⟨q, fu, d.bump pgCtx 0 1⟩) ∧
    (∀ k x, d.ctx? c = some x → x.cinc ≠ k → exec (.lateSubopResult c k) ⟨q, fu, d⟩ = .next ⟨q, fu, d.bump pgCtx 0 1⟩) ∧
    (∀ k x, d.ctx? c = some x → x.done ≠ none → exec (.lateSubopResult c k) ⟨q, fu, d⟩ = .next ⟨q, fu, d.bump pgCtx 0 1⟩)

/-- TABLE_PUBLISH that reaches the table unit, with good fields, a descriptor without poison, the table's kind and the expected version, a
free slot and an image that passes its checks makes that image the current version, a collection first published with its state record,
and ends OK with the new version; with no image it withdraws an ACTIVE table. TABLE_RETIRE of a superseded version marks its slot RETIRING
and waits for its readers. Each check that fails ends the command with its own status: bad fields INVALID_CMD, another kind or nothing
published BAD_TABLE, another version, no free slot or a version that is current, absent or already retiring VERSION_CONFLICT, and a bad
image with the image's status. -/
def Obligations.TablesArePublishedAndRetired : Prop :=
  ∀ (q : List Instr) (fu : Fuses) (d : Dev) (c : Nat) (x : Ctx) (t : TDesc), c < 4096 → d.ctx? c = some x →
    (d.start c).tdescBad (x.n 32 2) = false → t = (d.start c).tdesc (x.n 32 2) →
    (∀ s d1, d.canStart c 0x10 = true → d.tblMine c = true → pubFieldsOk x = true → (t.st = 0 ∨ t.kind = x.n 34 1) → (x.desc ≠ 0 ∨ x.descLen ≠ 0) →
      x.n 36 4 = (if t.st = 0 then 0 else t.ver) → t.freeSlot = some s →
      (d.start c).imgCheck c (x.n 32 2) (x.n 34 1) x.desc x.descLen = (d1, .good) →
      exec (.tablePublish c) ⟨q, fu, d⟩ =
        .next ⟨q, fu,
          (let d2 := d1.putTdesc (x.n 32 2) (t.publish (x.n 34 1) s x.desc x.descLen);
           if x.n 34 1 = 0 then d2.firstPublish (x.n 32 2) (d2.peekImg x.desc 256) else d2).pubEnd c .ok t.nextVer s⟩) ∧
    (d.canStart c 0x10 = true → d.tblMine c = true → pubFieldsOk x = true → t.st = 1 → t.kind = x.n 34 1 → x.desc = 0 → x.descLen = 0 → x.n 36 4 = t.ver →
      exec (.tablePublish c) ⟨q, fu, d⟩ =
        .next ⟨q, fu, ((d.start c).putTdesc (x.n 32 2) t.withdraw).pubEnd c .ok t.nextVer 0xFFFFFFFF⟩) ∧
    (d.canStart c 0x10 = true → d.tblMine c = true →
      (pubFieldsOk x = false → exec (.tablePublish c) ⟨q, fu, d⟩ = .next ⟨q, fu, (d.start c).pubEnd c .invalidCmd 0 0⟩) ∧
      (pubFieldsOk x = true → ((t.st ≠ 0 ∧ t.kind ≠ x.n 34 1) ∨ (x.desc = 0 ∧ x.descLen = 0 ∧ t.st ≠ 1)) →
        exec (.tablePublish c) ⟨q, fu, d⟩ = .next ⟨q, fu, (d.start c).pubEnd c .badTable 0 0⟩) ∧
      (pubFieldsOk x = true → (t.st = 0 ∨ t.kind = x.n 34 1) → (x.desc ≠ 0 ∨ x.descLen ≠ 0 ∨ t.st = 1) → x.n 36 4 ≠ (if t.st = 0 then 0 else t.ver) →
        exec (.tablePublish c) ⟨q, fu, d⟩ = .next ⟨q, fu, (d.start c).pubEnd c .versionConflict t.ver 0⟩) ∧
      (pubFieldsOk x = true → (t.st = 0 ∨ t.kind = x.n 34 1) → (x.desc ≠ 0 ∨ x.descLen ≠ 0) → x.n 36 4 = (if t.st = 0 then 0 else t.ver) →
        (t.freeSlot = none → exec (.tablePublish c) ⟨q, fu, d⟩ = .next ⟨q, fu, (d.start c).pubEnd c .versionConflict t.ver 1⟩) ∧
        (∀ s d1 st, t.freeSlot = some s → (d.start c).imgCheck c (x.n 32 2) (x.n 34 1) x.desc x.descLen = (d1, .bad st) →
          exec (.tablePublish c) ⟨q, fu, d⟩ = .next ⟨q, fu, d1.pubEnd c st 0 0⟩) ∧
        (∀ s d1, t.freeSlot = some s → (d.start c).imgCheck c (x.n 32 2) (x.n 34 1) x.desc x.descLen = (d1, .wait) →
          exec (.tablePublish c) ⟨q, fu, d⟩ = .next ⟨q, fu, d1.pubWait c x⟩))) ∧
    (d.canStart c 0x11 = true → d.tblBusy = false →
      (retireFieldsOk x = false → exec (.tableRetire c) ⟨q, fu, d⟩ = .next ⟨q, fu, (d.start c).finishSt c .invalidCmd⟩) ∧
      (retireFieldsOk x = true → (t.st = 0 ∨ 6 < t.kind) → exec (.tableRetire c) ⟨q, fu, d⟩ = .next ⟨q, fu, (d.start c).finishSt c .badTable⟩) ∧
      (retireFieldsOk x = true → t.st ≠ 0 → t.kind ≤ 6 →
        (firstBelow 4 (fun s => (t.slot s).st != 0 && (t.slot s).ver == x.n 36 4) = none →
          exec (.tableRetire c) ⟨q, fu, d⟩ = .next ⟨q, fu, (d.start c).finish c { status := .versionConflict, spec1 := 3 }⟩) ∧
        (∀ s, firstBelow 4 (fun s => (t.slot s).st != 0 && (t.slot s).ver == x.n 36 4) = some s → (t.slot s).st = 1 →
          exec (.tableRetire c) ⟨q, fu, d⟩ = .next ⟨q, fu, (d.start c).finish c { status := .versionConflict, spec1 := 2 }⟩) ∧
        (∀ s, firstBelow 4 (fun s => (t.slot s).st != 0 && (t.slot s).ver == x.n 36 4) = some s → (t.slot s).st = 3 →
          exec (.tableRetire c) ⟨q, fu, d⟩ = .next ⟨q, fu, (d.start c).finish c { status := .versionConflict, spec1 := 4 }⟩))) ∧
    (∀ s d1, d.canStart c 0x11 = true → d.tblBusy = false → retireFieldsOk x = true → t.st ≠ 0 → t.kind ≤ 6 →
      firstBelow 4 (fun s => (t.slot s).st != 0 && (t.slot s).ver == x.n 36 4) = some s → (t.slot s).st = 2 →
      d1 = (d.start c).setRetiring (x.n 32 2) s →
      exec (.tableRetire c) ⟨q, fu, d⟩ =
        .next ⟨q, fu, ({ d1 with tbl := { d1.tbl with retires := Tab.set d1.tbl.retires c (x.n 32 2, s) } } : Dev).slotFree (x.n 32 2) s⟩)

/-- AWL_SEQ with good fields and a good descriptor, its stack in service, starts the sequence and gives units its first step.
AWL_STEP_DONE of a begun step other than ATTN runs its rows and ends the step; rows of an ATTN step run one by one under ATTN, and the
step ends when all are done. AWL_FENCE with good fields waits for the Awl work before it. ATTN of a model run is its stage's attention;
its output written and the arena in no cache any more, the run goes on to its next stage. -/
def Obligations.AwlSequences : Prop :=
  ∀ (q : List Instr) (fu : Fuses) (d : Dev) (c : Nat), c < 4096 →
    (∀ x b d1, d.canStart c 0x20 = true → d.ctx? c = some x → d.seqEntryOk x = true → d.need c x.desc x.descLen = (d1, .ok b) →
      d1.seqDescOk x b = true → d1.stackOut (seqStack b) = false →
      exec (.awlSeq c) ⟨q, fu, d⟩ = .next ⟨q, fu,
        ((((d1.start c).setDeadline c (x.n 32 4)).bump (pgAwl (seqStack b)) 0 0).setSeq c (seqOf x b)).seqUnits c⟩) ∧
    (∀ x d1 n, d.seq? c = some x → d.live c = true → d.stackOut x.stack = false → d.runs (pgAwl x.stack) = true →
      d.runs (pgHide x.stack) = true → x.begun = true → (x.at x.step).op ≠ 8 →
      d.awlRows (hideBase + 2 ^ 36 * x.stack) (x.at x.step) (List.range (x.at x.step).rows) = (d1, n, true) →
      exec (.awlStepDone c) ⟨q, fu, d⟩ = .next ⟨q, fu, d1.stepOver c x n⟩) ∧
    (∀ x d1 r, d.seq? c = some x → d.live c = true → d.stackOut x.stack = false → d.runs (pgAwl x.stack) = true →
      d.runs (pgHide x.stack) = true → x.begun = true → (x.at x.step).op = 8 → r < (x.at x.step).rows → x.attnDone.contains r = false →
      d.awlRow (hideBase + 2 ^ 36 * x.stack) (x.at x.step) r = (d1, true) →
      exec (.attn false c r) ⟨q, fu, d⟩ = .next ⟨q, fu,
        (d1.bump (pgAwl x.stack) 0 12 (x.at x.step).tokens).setSeq c { x with attnDone := insNat x.attnDone r }⟩) ∧
    (∀ n r, exec (.attn true n r) ⟨q, fu, d⟩ = .next ⟨q, fu, d.attnRun n⟩) ∧
    (∀ n r x h, d.run? n = some x → x.attn = true → x.attnOut = true → h = d.runHdr x →
      d.blocked (localPart (x.arena h)) (2 ^ 20 * mKv h) true = false →
      exec (.attn true n r) ⟨q, fu, d⟩ = .next ⟨q, fu, d.enterStage n (x.stage + 1)⟩) ∧
    (∀ x d1 a, Tab.has d.hide.fences c = false → d.canStart c 0x21 = true → d.ctx? c = some x → x.cflagsOk = true → x.zeroFrom 34 = true →
      x.n 32 2 ≠ 0 → d1 = d.start c →
      a = { mask := x.n 32 2, seq := x.seq, runs := d.attnRunsOn (x.n 32 2) } →
      exec (.awlFence c) ⟨q, fu, d⟩ =
        .next ⟨q, fu, ({ d1 with hide := { d1.hide with fences := Tab.set d1.hide.fences c a } } : Dev).fenceTry⟩)

/-- REFRESH_DUE of a bank whose unit runs a stitch waits and is counted late, and one of a free bank is counted done, unless the stack
refreshes itself or is out of service. STITCH_END frees the unit, runs the refreshes that waited, and charges 80 WCLK cycles for each: to
its sequence, or to the counter of other work that yields. LANE_FAIL records the error and OFFLINE_REQ only takes the stack down. -/
def Obligations.RefreshAndStitches : Prop :=
  ∀ (q : List Instr) (fu : Fuses) (d : Dev) (n : Nat), n < 16 →
    (∀ b, b < 1024 → (d.stack n).selfRefresh = false → d.stackOut n = false →
      (Tab.has (d.stack n).stitches (b / 2) = true → (d.stack n).refreshWait.contains b = false →
        exec (.refreshDue n b) ⟨q, fu, d⟩ = .next ⟨q, fu,
          (d.setStack n { d.stack n with refreshWait := insNat (d.stack n).refreshWait b }).bump (pgHide n) 0 3⟩) ∧
      (Tab.has (d.stack n).stitches (b / 2) = false → exec (.refreshDue n b) ⟨q, fu, d⟩ = .next ⟨q, fu, d.bump (pgHide n) 0 2⟩)) ∧
    (∀ u s k due rest w, u < 512 → Tab.find? (d.stack n).stitches u = some s → s.owner = .stream k ∨ s.owner = .attn k →
      due = (d.stack n).refreshWait.filter (fun b => b / 2 == u) → rest = (d.stack n).refreshWait.filter (fun b => b / 2 != u) →
      w = d.setStack n { d.stack n with stitches := Tab.del (d.stack n).stitches u, refreshWait := rest } →
      exec (.stitchEnd n u) ⟨q, fu, d⟩ = .next ⟨q, fu,
        ((w.bump (pgHide n) 0 2 due.length).bump (pgAwl n) 0 4 (80 * due.length)).bump (pgAwl n) 0 5 (80 * due.length)⟩) ∧
    (∀ u s k x due rest w, u < 512 → Tab.find? (d.stack n).stitches u = some s → s.owner = .seq k →
      due = (d.stack n).refreshWait.filter (fun b => b / 2 == u) → rest = (d.stack n).refreshWait.filter (fun b => b / 2 != u) →
      w = ((d.setStack n { d.stack n with stitches := Tab.del (d.stack n).stitches u, refreshWait := rest }).bump (pgHide n) 0 2 due.length).bump
        (pgAwl n) 0 4 (80 * due.length) → w.seq? k = some x →
      exec (.stitchEnd n u) ⟨q, fu, d⟩ = .next ⟨q, fu, w.setSeq k { x with yielded := x.yielded + 80 * due.length }⟩) ∧
    (∀ u s k due rest w, u < 512 → Tab.find? (d.stack n).stitches u = some s → s.owner = .pool k →
      due = (d.stack n).refreshWait.filter (fun b => b / 2 == u) → rest = (d.stack n).refreshWait.filter (fun b => b / 2 != u) →
      w = d.setStack n { d.stack n with stitches := Tab.del (d.stack n).stitches u, refreshWait := rest } →
      exec (.stitchEnd n u) ⟨q, fu, d⟩ = .next ⟨q, fu, (w.bump (pgHide n) 0 2 due.length).bump (pgAwl n) 0 4 (80 * due.length)⟩) ∧
    exec (.laneFail n) ⟨q, fu, d⟩ = .next ⟨q, fu, (d.setErr (pgHide n) 1 0).stackDown n⟩ ∧
    exec (.offlineReq n) ⟨q, fu, d⟩ = .next ⟨q, fu, d.stackDown n⟩

/-- SNAPSHOT_OPEN with good fields of a collection that binds takes the next FREE entry of the snapshot table on the last sealed epoch,
pins it, and ends OK with its handle in SPEC0 and the epoch in SPEC1; with no free entry it ends QUOTA. SNAPSHOT_CLOSE of an open entry
with the handle's generation closes it and ends OK; any other handle ends SNAPSHOT_EXPIRED. -/
def Obligations.SnapshotsOpenAndClose : Prop :=
  ∀ (q : List Instr) (fu : Fuses) (d : Dev) (c : Nat) (x : Ctx), c < 4096 → d.ctx? c = some x → x.cflagsOk = true → x.zeroFrom 32 = true →
    (∀ d1 d2 img slot i p g, d.canStart c 0x0B = true → d.admitOn x.coll = false → d.bindColl c x.coll false = (d1, .ok img slot) →
      d1.freeSnap = (some i, p) → g = (d1.snap i).gen →
      d2 = d1.putSnap i { coll := x.coll, st := 1, fn := x.fn, epoch := d1.lastSealed x.coll, pins := 0, gen := g } →
      exec (.snapshotOpen c) ⟨q, fu, d⟩ = .next ⟨q, fu,
        ((({ d2 with upd := { d2.upd with snapPtr := p } } : Dev).fixPins x.coll).bump pgCtx 3 8).finishOk c 0 (i + 4096 * g) (d1.lastSealed x.coll)⟩) ∧
    (∀ d1 img slot p, d.canStart c 0x0B = true → d.admitOn x.coll = false → d.bindColl c x.coll false = (d1, .ok img slot) →
      d1.freeSnap = (none, p) →
      exec (.snapshotOpen c) ⟨q, fu, d⟩ = .next ⟨q, fu, d1.finishSt c .quota⟩) ∧
    (d.canStart c 0x0C = true → (d.snap x.snapIdx).st = 1 → (d.snap x.snapIdx).gen = x.snapGen →
      exec (.snapshotClose c) ⟨q, fu, d⟩ = .next ⟨q, fu, (d.closeSnap x.snapIdx).finishOk c 0 0 0⟩) ∧
    (d.canStart c 0x0C = true → (d.snap x.snapIdx).st ≠ 1 ∨ (d.snap x.snapIdx).gen ≠ x.snapGen →
      exec (.snapshotClose c) ⟨q, fu, d⟩ = .next ⟨q, fu, d.finishSt c .snapshotExpired⟩)

/-- EPOCH_SEAL of an ACTIVE collection that follows no leader makes a seal due that its command waits for; of one that does it asks the
leader. SEAL_TIMER does so for an ACTIVE, leading, dirty collection once SEAL_PERIOD_US has passed. SEAL_MSG from the partner or leader
and SEAL_FORWARD at the leader make theirs due; a seal message for an epoch that has sealed only tells the EPOCH_SEALs that asked for it.
SEAL_REFUSAL marks the leader's due seal refused and ends a follower's EPOCH_SEALs. SEAL_CHECK refuses a refused or failing seal and
otherwise seals the epoch and applies the records that waited for the next, epoch by epoch up to the one a message named. -/
def Obligations.SealsFallDueAndSeal : Prop :=
  ∀ (q : List Instr) (fu : Fuses) (d : Dev) (c : Nat) (img : List Byte), c < 4096 →
    (∀ x d1 slot, d.canStart c 0x0A = true → d.ctx? c = some x → x.cflagsOk = true → x.zeroFrom 32 = true →
      d.bindColl c x.coll true = (d1, .ok img slot) → (d1.start c).follows img = false →
      exec (.epochSeal c) ⟨q, fu, d⟩ = .next ⟨q, fu, (d1.start c).sealDue x.coll img (fun s => { s with cmds := s.cmds ++ [c] })⟩) ∧
    (∀ x d1 d2 slot l e, d.canStart c 0x0A = true → d.ctx? c = some x → x.cflagsOk = true → x.zeroFrom 32 = true →
      d.bindColl c x.coll true = (d1, .ok img slot) → (d1.start c).follows img = true → (d1.start c).leaderOf img = some l →
      e = (d1.start c).openEpoch x.coll →
      (d1.start c).sendSvc (.sealFwd c x.cinc) 5 l (d1.start c).curGen [x.coll, 1, e] { fn := x.fn, owner := .command c x.cinc } = (d2, true) →
      exec (.epochSeal c) ⟨q, fu, d⟩ = .next ⟨q, fu, { d2 with upd := { d2.upd with forwarded := Tab.set d2.upd.forwarded c (x.coll, e) } }⟩) ∧
    (d.updRuns = true → d.collImage c = some img → cState img = 1 → d.follows img = false → d.partnerOf c = none →
      cSealUs img ≠ 0xFFFFFFFF → d.csFlag c 0 = true → Tab.has d.upd.seals c = false →
      max (d.cs c 32 8) (Tab.getD d.upd.refusedAt c 0) + cSealUs img ≤ d.us →
      exec (.sealTimer c) ⟨q, fu, d⟩ = .next ⟨q, fu, d.sealDue c img (fun s => { s with timer := true })⟩) ∧
    (∀ s, d.updRuns = true → Tab.find? d.upd.seals c = some s →
      (s.refused = false → d.sealPasses c = true → s.upto = none →
        exec (.sealCheck c) ⟨q, fu, d⟩ = .next ⟨q, fu, (d.sealNow c).applyHeld c ((d.collImage c).getD [])⟩) ∧
      (∀ u, s.upto = some u →
        exec (.sealCheck c) ⟨q, fu, d⟩ = .next ⟨q, fu, Dev.sealSteps (eAge (d.openEpoch c) u + 1) d c ((d.collImage c).getD [])⟩) ∧
      (s.refused = true ∨ d.sealPasses c = false →
        exec (.sealCheck c) ⟨q, fu, d⟩ = .next ⟨q, fu, d.sealRefuse c ((d.collImage c).getD [])⟩)) ∧
    (∀ src coll e, coll < 4096 → c = (if d.cmp.st == .joining then (d.joinColl src coll).getD coll else coll) →
      d.updRuns = true → d.collImage c = some img →
      d.partnerOf c = some src ∨ (d.partnerOf c = none ∧ d.follows img = true ∧ d.leaderOf img = some src) →
      cState img ≠ 0 → eLe ((d.admitSeal src c e).openEpoch c) e = true →
      exec (.sealMsg src coll e) ⟨q, fu, d⟩ = .next ⟨q, fu, (d.admitSeal src c e).sealDue c img (fun s => { s with upto := some (match s.upto with
        | some u => serialMax 32 u e
        | none => e) })⟩) ∧
    (∀ src coll e, coll < 4096 → c = (if d.cmp.st == .joining then (d.joinColl src coll).getD coll else coll) →
      d.updRuns = true → d.collImage c = some img →
      d.partnerOf c = some src ∨ (d.partnerOf c = none ∧ d.follows img = true ∧ d.leaderOf img = some src) →
      eLe ((d.admitSeal src c e).openEpoch c) e = false → eLt e ((d.admitSeal src c e).openEpoch c) = true →
      exec (.sealMsg src coll e) ⟨q, fu, d⟩ = .next ⟨q, fu, (d.admitSeal src c e).sealedFwd c e (fun _ => true)⟩) ∧
    (d.updRuns = true → d.collImage c = some img → cSharded img = true → d.leaderOf img = some d.node → cState img ≠ 0 →
      exec (.sealForward c) ⟨q, fu, d⟩ = .next ⟨q, fu, d.sealDue c img id⟩) ∧
    (d.updRuns = true → d.collImage c = some img → d.follows img = true → exec (.sealRefusal c) ⟨q, fu, d⟩ = .next ⟨q, fu, d.refuseFwd c⟩) ∧
    (∀ s, d.updRuns = true → d.collImage c = some img → d.follows img = false → Tab.find? d.upd.seals c = some s → cSharded img = true → d.leaderOf img = some d.node →
      exec (.sealRefusal c) ⟨q, fu, d⟩ =
        .next ⟨q, fu, { d with upd := { d.upd with seals := Tab.set d.upd.seals c { s with refused := true } } }⟩)

/-- UPSERT_BATCH and DELETE_BATCH with good fields and header, while no seal of the collection is due, read their records and start, and
while one is due they are held; one that has started completes under its own row. UPDATE_FWD at the owner applies a record into the open
epoch, keeps what it owes the sender and counts it; a partner's record for a joiner goes its own way; a fenced node, or a sender that is
no member or fenced, gives FENCED; while the table unit is busy the record waits. UPDATE_REPLY settles the record its reference names. -/
def Obligations.BatchesAndForwardedRecords : Prop :=
  ∀ (q : List Instr) (fu : Fuses) (d : Dev) (c : Nat), c < 4096 →
    (∀ x d1 d2 h b, Tab.has d.upd.batches c = false → d.canStart c 0x08 = true → d.ctx? c = some x → d.batchFieldsOk x = true → d.isFenced = false →
      Tab.has d.upd.seals x.coll = false → (d.unholdBatch c).need c x.desc 64 = (d1, .ok h) → batchHdrOk x true h = true →
      d1.need c (x.desc + 64) (leAt h 4 4 * leAt h 8 4) = (d2, .ok b) →
      exec (.upsertBatch c) ⟨q, fu, d⟩ = .next ⟨q, fu, d2.batchStart c x true h b⟩) ∧
    (∀ x d1 d2 h b, Tab.has d.upd.batches c = false → d.canStart c 0x09 = true → d.ctx? c = some x → d.batchFieldsOk x = true → d.isFenced = false →
      Tab.has d.upd.seals x.coll = false → (d.unholdBatch c).need c x.desc 64 = (d1, .ok h) → batchHdrOk x false h = true →
      d1.need c (x.desc + 64) (leAt h 4 4 * leAt h 8 4) = (d2, .ok b) →
      exec (.deleteBatch c) ⟨q, fu, d⟩ = .next ⟨q, fu, d2.batchStart c x false h b⟩) ∧
    (∀ x, Tab.has d.upd.batches c = false → d.ctx? c = some x → d.batchFieldsOk x = true → d.isFenced = false → Tab.has d.upd.seals x.coll = true →
      (d.canStart c 0x08 = true → exec (.upsertBatch c) ⟨q, fu, d⟩ = .next ⟨q, fu, d.holdBatch c⟩) ∧
      (d.canStart c 0x09 = true → exec (.deleteBatch c) ⟨q, fu, d⟩ = .next ⟨q, fu, d.holdBatch c⟩)) ∧
    (Tab.has d.upd.batches c = true → exec (.upsertBatch c) ⟨q, fu, d⟩ = .next ⟨q, fu, d.batchTry c⟩ ∧
      exec (.deleteBatch c) ⟨q, fu, d⟩ = .next ⟨q, fu, d.batchTry c⟩) ∧
    (∀ src g u img d1, src < 4096 → d.tblBusy = false → d.upd.fwdWait = [] → d.isFenced = false → (d.admEntry src).1 ≠ 0 → (d.admEntry src).1 ≠ 3 → d.collImage u.coll = some img →
      u.epoch = none → d.genLive g = true → d.ownerNode img g u.id = some d.node → cState img = 1 →
      (d.bump pgBuckle 2 2).applyFrom img (d.openEpoch u.coll) u = (d1, .ok) →
      exec (.updateFwd src g u) ⟨q, fu, d⟩ = .next ⟨q, fu, ({ d1 with upd := { d1.upd with
        fwd := d1.upd.fwd ++ [{ coll := u.coll, id := u.id, epoch := d.openEpoch u.coll, node := src, ref := u.ref }] } } : Dev).bump pgCtx 3 5⟩) ∧
    (∀ src g u e, src < 4096 → d.tblBusy = false → d.upd.fwdWait = [] → d.isFenced = false → (d.admEntry src).1 ≠ 0 → (d.admEntry src).1 ≠ 3 →
      u.epoch = some e → exec (.updateFwd src g u) ⟨q, fu, d⟩ = .next ⟨q, fu, d.partnerRec src u e⟩) ∧
    (∀ src g u, src < 4096 → d.tblBusy = true → exec (.updateFwd src g u) ⟨q, fu, d⟩ =
      .next ⟨q, fu, { d with upd := { d.upd with fwdWait := d.upd.fwdWait ++ [(src, g, u)] } }⟩) ∧
    (∀ src g u, src < 4096 → d.tblBusy = false → d.upd.fwdWait = [] → d.isFenced = true ∨ (d.admEntry src).1 = 0 ∨ (d.admEntry src).1 = 3 → exec (.updateFwd src g u) ⟨q, fu, d⟩ = .next ⟨q, fu, d.updReply src u.ref .fenced 0⟩) ∧
    (∀ src r, src < 4096 → exec (.updateReply src r) ⟨q, fu, d⟩ =
      .next ⟨q, fu, d.recordDone (r.ref / 4096 % 4096) (r.ref / 4096 / 4096) (r.ref % 4096) (statusOf r.status) r.epoch⟩)

/-- REBUILD_LIST with good fields, a bound ACTIVE collection and a list it has starts or joins the list's rebuild. REBUILD_PUBLISH carries
a running rebuild on: to its new objects while they are not written, then to its publish. AGE_SWEEP of an ACTIVE collection, when due and
with no list older than 2^29 epochs to report, stores the oldest epoch and counts the sweep. -/
def Obligations.RebuildsAndAgeSweeps : Prop :=
  ∀ (q : List Instr) (fu : Fuses) (d : Dev) (c : Nat), c < 4096 →
    (∀ x d1 img slot, d.canStart c 0x12 = true → d.ctx? c = some x → x.cflagsOk = true → x.n 36 4 < 2 → x.zeroFrom 40 = true →
      d.bindColl c x.coll true = (d1, .ok img slot) → x.n 32 4 < cLists img →
      exec (.rebuildList c) ⟨q, fu, d⟩ = .next ⟨q, fu, (d1.start c).rebuildBy c x img (x.n 32 4) (x.n 36 4 == 1)⟩) ∧
    (∀ l r, l < 2 ^ 24 → Tab.find? d.upd.rebuilds (listKey c l) = some r → d.updRuns = true → r.published = none →
      (r.newEntry = [] → exec (.rebuildPublish c l) ⟨q, fu, d⟩ = .next ⟨q, fu, d.rebuildBuild r⟩) ∧
      (r.newEntry ≠ [] → exec (.rebuildPublish c l) ⟨q, fu, d⟩ = .next ⟨q, fu, d.rebuildPublish r⟩)) ∧
    (∀ img k s olds d1, d.updRuns = true → d.collImage c = some img → (d.tdesc (cDirTbl img)).current = some (k, s) → cState img = 1 →
      Tab.getD d.upd.sweptAt c 0 + 1000 * cSweepMs img ≤ d.us →
      olds = (List.range (cLists img)).map (fun l => (l, d.listOldest img s.base (d.lastSealed c) l)) →
      d1 = (d.setCs c 12 4 ((olds.map Prod.snd).foldl eMin (d.lastSealed c))).bump pgCtx 3 13 →
      (∀ o ∈ olds, eAge o.2 (({ d1 with upd := { d1.upd with sweptAt := Tab.set d1.upd.sweptAt c d1.us } } : Dev).openEpoch c) ≤ 2 ^ 29) →
      exec (.ageSweep c) ⟨q, fu, d⟩ = .next ⟨q, fu, { d1 with upd := { d1.upd with
        sweptAt := Tab.set d1.upd.sweptAt c d1.us, aged := d1.upd.aged.filter (fun k => k / 2 ^ 24 != c) } }⟩)

/-- SEARCH and SEARCH_BATCH with good fields, a good descriptor, a collection whose shard is here, agreeing inputs, a bound filter, room
for the output and an open snapshot handle start their search: snapshot pinned, deadline set, tables read, one query per input. A handle
that is not open ends SNAPSHOT_EXPIRED. -/
def Obligations.SearchesStart : Prop :=
  ∀ (q : List Instr) (fu : Fuses) (d d1 d2 d3 d4 : Dev) (c : Nat) (x : Ctx) (batch : Bool) (h b img : List Byte) (slot : Nat × Nat)
    (attr : List (Nat × Nat)), c < 4096 → d.canStart c (if batch then 0x02 else 0x01) = true → d.ctx? c = some x →
    d.searchArgsOk x batch = true → d.need c x.desc 64 = (d1, .ok h) → searchHdrOk h x.descLen (x.sQueries batch) = true →
    d1.need c x.desc x.descLen = (d2, .ok b) → d2.admitOn x.coll = false → d2.lookColl c x.coll = (d3, .ok img slot) →
    d3.shardOk img d3.curGen = true → searchAgrees x img h (searchInputs x batch h b) = true →
    d3.filterBind c img (sdFilter h b) = (d4, .ok attr) → searchNeeds x batch ≤ x.outLen →
    (batch = false → d4.snapOpen x = true → exec (.search c) ⟨q, fu, d⟩ = .next ⟨q, fu, d4.searchStart c x false h b img slot attr⟩) ∧
    (batch = true → d4.snapOpen x = true → exec (.searchBatch c) ⟨q, fu, d⟩ = .next ⟨q, fu, d4.searchStart c x true h b img slot attr⟩) ∧
    (batch = false → d4.snapOpen x = false → exec (.search c) ⟨q, fu, d⟩ = .next ⟨q, fu, (d4.unbind c attr).finishSt c .snapshotExpired⟩) ∧
    (batch = true → d4.snapOpen x = false → exec (.searchBatch c) ⟨q, fu, d⟩ = .next ⟨q, fu, (d4.unbind c attr).finishSt c .snapshotExpired⟩)

/-- SUB_SEARCH that the shard does not refuse, with a free search number, a collection and filter that bind and an epoch at or after the
read floor, starts a search of one query for the sender; a refused one is answered with the status. SUB_RESULT is taken by the
coordinator. SUBSEARCH_TIMEOUT at a shard, once its deadline has passed, answers TIMEOUT; at a coordinator of which some sub-search is
late it ends the command TIMEOUT, with all that works for it. -/
def Obligations.SubSearches : Prop :=
  ∀ (q : List Instr) (fu : Fuses) (d : Dev) (src : Nat), src < 4096 →
    (∀ p i d1 d2 img slot attr, d.ctxWorks = true → d.subRefused src p.mapGen = none →
      firstBelow 12288 (fun i => (d.search? (4096 + i)).isNone) = some i → d.admitOn p.coll = false →
      d.lookColl (4096 + i) p.coll = (d1, .ok img slot) → eLt p.epoch (d1.readFloor p.coll) = false →
      d1.filterBind (4096 + i) img p.filter = (d2, .ok attr) →
      exec (.subSearch src p) ⟨q, fu, d⟩ = .next ⟨q, fu, ((((d2.addTblReader slot).setSearch (4096 + i)
        ((d2.addTblReader slot).subSearchOf src p img (slot :: attr))).addQueries (4096 + i) [p.vec]).fixPins p.coll)⟩) ∧
    (∀ p st, d.ctxWorks = true → d.subRefused src p.mapGen = some st →
      exec (.subSearch src p) ⟨q, fu, d⟩ = .next ⟨q, fu, d.sendSubResult src { ref := p.ref, status := st.code }⟩) ∧
    (∀ r, exec (.subResult src r) ⟨q, fu, d⟩ = .next ⟨q, fu, d.shardResult src r⟩) ∧
    (∀ sid s n ref t, sid < 16384 → d.search? sid = some s → s.origin = some (n, ref) → s.deadline = some t → t ≤ d.now →
      exec (.subsearchTimeout sid) ⟨q, fu, d⟩ = .next ⟨q, fu, d.subAnswer sid { ref := ref, status := Status.timeout.code }⟩) ∧
    (∀ sid s, sid < 16384 → d.search? sid = some s → s.origin = none → d.qRuns sid = true → d.fanLate sid = true →
      exec (.subsearchTimeout sid) ⟨q, fu, d⟩ =
        .next ⟨q, fu, ((d.updCtx sid (fun x => { x with cause := some (.timeout, d.now) })).dropQueries sid).finishSt sid .timeout⟩)

/-- QUERY_START of a query that waits, its epoch sealed here if it came from another node, gives it a core, the other Lacing unit of the
die, and its next phase. COARSE_PHASE of a coordinator's query fans it out; a query that holds its chain selects its lists from the keys
of the GEMM it shared, or binds the tables and computes them on its core's engines, and ends the phase. COARSE_BATCH_WINDOW runs, core by
core, the first window of queries that is over: one bind and one GEMM for them all, whose keys each of them gets. -/
def Obligations.QueriesStartAndSelect : Prop :=
  ∀ (q : List Instr) (fu : Fuses) (d : Dev) (sid k : Nat), sid < 16384 → k < 256 →
    (∀ s y c d1, d.inPhase (qKey sid k) .waitCore = some (s, y) → s.origin = none ∨ eLt (d.lastSealed s.coll) s.epoch = false → d.coreFor s sid = some c → d1 = d.gaveCore c →
      exec (.queryStart sid k) ⟨q, fu, d⟩ = .next ⟨q, fu,
        (let l := 2 * (c / 4) + (Tab.getD d.srch.lastLac (c / 4) 1 + 1) % 2
         let d2 : Dev := { d1 with srch := { d1.srch with lastLac := Tab.set d1.srch.lastLac (c / 4) (l % 2) } }
         let d3 := (d2.bump pgCtx 2 0).updQuery (qKey sid k) (fun y => { y with core := c, lac := l })
         if s.format = 3 ∧ s.origin = none then d3.toPhase (qKey sid k) .embed else d3.afterVec (qKey sid k))⟩) ∧
    (∀ s y, d.inPhase (qKey sid k) .coarse = some (s, y) → s.fanout = true →
      exec (.coarsePhase sid k) ⟨q, fu, d⟩ = .next ⟨q, fu, d.fanOut (qKey sid k)⟩) ∧
    (∀ s y p, d.inPhase (qKey sid k) .coarse = some (s, y) → s.fanout = false → y.coarseDone = false → y.chain.isNone = false →
      (∀ n ∈ chainKeepers y.chain, d.goesOn (pgKpr n) = true) → y.probe = some p →
      exec (.coarsePhase sid k) ⟨q, fu, d⟩ = .next ⟨q, fu, (d.coarseDo (qKey sid k) s y p).phaseEnd (qKey sid k) .candidate⟩) ∧
    (∀ s y es d1 d2 d3 bs ct p, d.inPhase (qKey sid k) .coarse = some (s, y) → s.fanout = false → y.coarseDone = false → y.chain.isNone = false →
      (∀ n ∈ chainKeepers y.chain, d.goesOn (pgKpr n) = true) → y.probe = none → s.shares = false → d.runs (pgCore y.core) = true →
      d.kernelEngines y.core (d.queryFn (qKey sid k)) = (d1, es) → es.isEmpty = false →
      d1.phaseBind (qKey sid k) s.image (coarseWants s.image) = (d2, .ok bs) → d2.firstImage (qRd (qKey sid k)) bs = (d3, .ok ct) →
      p = coarseSelect [d3.draws, 20] s.image ct y.vec s.nprobe s.ef →
      exec (.coarsePhase sid k) ⟨q, fu, d⟩ = .next ⟨q, fu,
        ((d3.coarseEngines y.core es s.image ct 1 p.hops).drawn.coarseDo (qKey sid k) s y p).phaseEnd (qKey sid k) .candidate⟩) ∧
    (sid < 4096 → exec (.coarseBatchWindow sid) ⟨q, fu, d⟩ = .next ⟨q, fu, (List.range 8).foldl (fun e c => e.gemmRun sid c) d⟩) ∧
    (∀ c s t0 k0 rest es d1 d2 d3 bs ct, d.search? sid = some s → (d.gemms sid c).head? = some (t0, k0 :: rest) → d.qRuns sid = true →
      s.shares = true → t0 + usCycles 2 ≤ d.now ∨ 63 ≤ rest.length → d.runs (pgCore c) = true → d.kernelEngines c (d.queryFn k0) = (d1, es) →
      es.isEmpty = false → d1.phaseBind k0 s.image (coarseWants s.image) = (d2, .ok bs) → d2.firstImage (qRd k0) bs = (d3, .ok ct) →
      d.gemmRun sid c = (d3.coarseEngines c es s.image ct (rest.length + 1) 0).gemmDone s (k0 :: rest) bs ct)

/-- For an engine that the part has and whose running group issues the word: NOP, a LOOP of no body, SCALAR, BAR_WAIT, WAIT and FENCE that
need not wait retire, SCALAR with its result in its destination; LOOP pushes its frame; BAR_ARRIVE and BAR_SYNC record an arrival and
retire (BAR_SYNC if the barrier then stands open, else it stalls, and retires once it does); END with every token free ends the engine and
counts at its barriers. An instruction whose token, barrier or quiet must be waited for stalls the engine. -/
def Obligations.EngineControlInstructions : Prop :=
  ∀ (q : List Instr) (fu : Fuses) (d : Dev) (e : Nat) (x : Engine) (w : BitVec 128), e < d.part.engines → d.issue e = some (x, w) →
    (iNop w = true → exec (.engNop e) ⟨q, fu, d⟩ = .next ⟨q, fu, d.retire e 1⟩) ∧
    (iEnd w = true → x.tokens.isEmpty = true → x.pend.isEmpty = true → exec (.engEnd e) ⟨q, fu, d⟩ = .next ⟨q, fu,
      let d2 := d.retire e 1 (fun y => { y with ended := true, idleFrom := d.aclk }); let c := d2.engCore e; (List.range 8).foldl (fun d b =>
        (d.setBar c b { d.bar c b with ended := (d.bar c b).ended ||| 2 ^ d.engPos e }).barCheck x.group b) d2⟩) ∧
    (iEnd w = true → x.tokens.isEmpty = false ∨ x.pend.isEmpty = false → exec (.engEnd e) ⟨q, fu, d⟩ = .next ⟨q, fu, d.stall e⟩) ∧
    (iLoop w = true → ifl w 63 48 = 0 → exec (.engLoop e) ⟨q, fu, d⟩ = .next ⟨q, fu, d.retire e 1⟩) ∧
    (∀ f : LoopFrame, iLoop w = true → ifl w 63 48 ≠ 0 → f = { first := x.pc + 1, len := ifl w 63 48, left := ifl w 47 32 - 1 } →
      exec (.engLoop e) ⟨q, fu, d⟩ = .next ⟨q, fu,
        (d.updEngine e (fun y => { y with loops := f :: y.loops, pc := y.pc + 1, stalled := false, retired := y.retired + 1 })).bump (pgEng e) 0 2⟩) ∧
    (∀ i, iClass w = 1 → opIndex w = some i → exec (.engScalar e) ⟨q, fu, d⟩ = .next ⟨q, fu,
      d.retire e 1 (fun y => y.setX (ifl w 36 32) (scalarOp i (x.xr (ifl w 41 37)) (x.xr (ifl w 46 42)) (w32 (ifl w 95 64))))⟩) ∧
    (isOp w 7 0 = true → d.quiet x = true → exec (.engBarArrive e) ⟨q, fu, d⟩ = .next ⟨q, fu, (d.arrive e x.group (ifl w 35 32)).retire e 1⟩) ∧
    (isOp w 7 0 = true → d.quiet x = false → exec (.engBarArrive e) ⟨q, fu, d⟩ = .next ⟨q, fu, d.stall e⟩) ∧
    (isOp w 7 1 = true → exec (.engBarWait e) ⟨q, fu, d⟩ =
      .next ⟨q, fu, if d.barWaits e (ifl w 35 32) = true then d.stall e else d.retire e 1⟩) ∧
    (∀ d2, isOp w 7 2 = true → x.syncing = false → d.quiet x = true → d2 = d.arrive e x.group (ifl w 35 32) → exec (.engBarSync e) ⟨q, fu, d⟩ = .next ⟨q, fu,
      if d2.barWaits e (ifl w 35 32) = true then (d2.updEngine e (fun y => { y with syncing := true })).stall e else d2.retire e 1⟩) ∧
    (isOp w 7 2 = true → x.syncing = true → exec (.engBarSync e) ⟨q, fu, d⟩ =
      .next ⟨q, fu, if d.barWaits e (ifl w 35 32) = true then d.stall e else d.retire e 1⟩) ∧
    (isOp w 7 2 = true → x.syncing = false → d.quiet x = false → exec (.engBarSync e) ⟨q, fu, d⟩ = .next ⟨q, fu, d.stall e⟩) ∧
    (isOp w 7 3 = true → exec (.engWait e) ⟨q, fu, d⟩ =
      .next ⟨q, fu, if x.tokens.any (fun t => (ifl w 47 32).testBit t) = true then d.stall e else d.retire e 1⟩) ∧
    (isOp w 7 4 = true → exec (.engFence e) ⟨q, fu, d⟩ = .next ⟨q, fu, if d.quiet x = true then d.retire e 1 else d.stall e⟩)

/-- For an engine whose running group issues a word of the class: DMA, WLOAD, MMA, QROW, STEP, MERGE, SAVE and LOAD are accepted by their
unit (or stall while their token is busy); DMA's addresses add its two scalar registers. VEC is performed by the vector unit. TOKEN_RETIRE
frees a token whose work is complete once the units have performed what they can. ENGINE_WAKE of a gated engine that the array needs, with
room to wake, opens the gate 2 µs later. -/
def Obligations.EngineUnitInstructions : Prop :=
  ∀ (q : List Instr) (fu : Fuses) (d : Dev) (e : Nat), e < d.part.engines →
    (∀ x w, d.issue e = some (x, w) →
      (∀ len count ss ds, iClass w = 2 → exec (.engDma e len count ss ds) ⟨q, fu, d⟩ = .next ⟨q, fu,
        d.issueAsync e 2 x { w := w, src := ifl w 95 64 + (x.xr (ifl w 43 39)).toNat, dst := ifl w 127 96 + (x.xr (ifl w 48 44)).toNat,
                             len := len, count := count, srcStride := ss, dstStride := ds }⟩) ∧
      (∀ slots p, iTokEn p.w = true → x.tokens.contains (iToken p.w) = true → d.issueAsync e slots x p = d.stall e) ∧
      (iClass w = 3 → exec (.engWload e) ⟨q, fu, d⟩ = .next ⟨q, fu, d.issueAsync e 1 x { w := w }⟩) ∧
      (iClass w = 4 → exec (.engMma e) ⟨q, fu, d⟩ = .next ⟨q, fu, d.issueAsync e 1 x { w := w }⟩) ∧
      (isOp w 6 0 = true → exec (.engQrow e) ⟨q, fu, d⟩ = .next ⟨q, fu, d.issueAsync e 1 x { w := w }⟩) ∧
      (isOp w 6 1 = true → exec (.engStep e) ⟨q, fu, d⟩ = .next ⟨q, fu, d.issueAsync e 1 x { w := w }⟩) ∧
      (isOp w 6 2 = true → exec (.engMerge e) ⟨q, fu, d⟩ = .next ⟨q, fu, d.issueAsync e 1 x { w := w }⟩) ∧
      (isOp w 6 3 = true → exec (.engSave e) ⟨q, fu, d⟩ = .next ⟨q, fu, d.issueAsync e 1 x { w := w }⟩) ∧
      (isOp w 6 4 = true → exec (.engLoad e) ⟨q, fu, d⟩ = .next ⟨q, fu, d.issueAsync e 1 x { w := w }⟩) ∧
      (∀ i, iClass w = 5 → opIndex w = some i → exec (.engVec e) ⟨q, fu, d⟩ = .next ⟨q, fu, d.vecDo e x w i⟩)) ∧
    (∀ t, t < 16 → ((d.drive e).engine e).pend.any (fun p => p.tok == some t) = false → exec (.tokenRetire e t) ⟨q, fu, d⟩ =
      .next ⟨q, fu, (d.drive e).updEngine e (fun y => { y with tokens := delNat y.tokens t })⟩) ∧
    ((d.engine e).gated = true → (d.engine e).pend.any (fun p => unitOf p.w == 4) = true → d.wakeRoom = true →
      exec (.engineWake e) ⟨q, fu, d⟩ = .next ⟨q, fu, d.updEngine e (fun y => { y with gated := false, awakeAt := d.now + usCycles 2 })⟩)

/-- RUN_PROGRAM with good fields, a core (the one it names, or the next enabled one, which then was the last given) and an image that
passes its checks starts its command, sets its deadline and adds a group that waits for its core's engines. ENGINE_RESERVE gives an idle
engine to the group that wins it, and one that then has all its engines and runs no model starts. GROUP_END of a RUN_PROGRAM group whose
engines have all ended gives the command its record (instructions retired, the cycles it ran, not-a-number results) and removes the group. -/
def Obligations.GroupsStartAndEnd : Prop :=
  ∀ (q : List Instr) (fu : Fuses) (d : Dev),
    (∀ c x core d1 d2 img, c < 4096 → d.canStart c 0x1A = true → d.ctx? c = some x → d.runArgsOk x = true → d.runCore x = some core →
      d.need c x.desc x.descLen = (d1, .ok img) → d1.runImgOk x core img = true →
      d2 = (if (x.n 32 1).testBit 3 then ((d1.start c).setDeadline c (x.n 36 4)).gaveCore core else (d1.start c).setDeadline c (x.n 36 4)) →
      exec (.runProgram c) ⟨q, fu, d⟩ = .next ⟨q, fu,
        (d2.addGroup { ctx := c, cinc := x.cinc, core := core, mask := x.n 33 1, image := img, wins := runWins x img }).1.coreReserve core⟩) ∧
    (∀ e g ptr x y d1, e < d.part.engines → d.engIdle e = true → d.group? g = some x →
      d.groupPick (d.eng.groups.filter (fun z => z.2.core == d.engCore e && z.2.wants (d.engPos e)))
        (Tab.getD d.eng.grantPtr (d.engCore e) 0) = (some g, ptr) →
      y = { x with reserved := x.reserved ||| 2 ^ d.engPos e, mask := x.mask ||| 2 ^ d.engPos e } →
      d1 = (d.setGroup g y).updEngine e (fun n => { n with owner := .reserved, ctx := x.ctx, group := g, gated := d.gateShut e n }) →
      exec (.engineReserve e) ⟨q, fu, d⟩ = .next ⟨q, fu,
        (let c := d.engCore e
         let d2 : Dev := { d1 with eng := { d1.eng with grantPtr := Tab.set d1.eng.grantPtr c ptr } }
         let d3 := if y.run = 0 then d2.bump (pgCore c) 0 2 else d2
         if y.full && y.run = 0 then d3.groupStart g false else d3)⟩) ∧
    (∀ g x c es, d.group? g = some x → x.run = 0 → x.running = true → es = (d.groupEngs x).map d.engine →
      es.all (fun y => y.ended) = true → d.ctx? x.ctx = some c →
      exec (.groupEnd g) ⟨q, fu, d⟩ = .next ⟨q, fu, (d.finishOk x.ctx ((es.map (fun (y : Engine) => y.retired)).foldl (· + ·) 0)
        (sat 32 x.clks + sat 32 ((es.map (fun (y : Engine) => y.nans)).foldl (· + ·) 0) * 2 ^ 32) (d.sinceFetch c)).dropGroup g⟩)

/-- For the page of a unit that the part has: REGISTER_WRITE at an aligned offset is a write of the common or of the block's own
registers, at another it is discarded and raises REG_ACCESS; SOFT_RESET resets the block with ENABLE kept, or the function; FREEZE and
BLK_ENABLE set their bit, ENABLE with what follows a change of it, unless the block is resetting and FREEZE is asked for; INT_STAT_CLEAR
clears the bits written whose condition or event is not of this cycle, INT_FORCE sets those the page defines, ERR_STAT_CLEAR writes
ERR_STAT, ECC_FLIP_ARM writes the mask and arms it. A page past the function pages is unmapped. -/
def Obligations.RegisterAndControlWrites : Prop :=
  ∀ (q : List Instr) (fu : Fuses) (d : Dev) (m : Master) (b : Blk) (n p : Nat), p = b.page n → d.pageUnit p = some (b, n) → p < 0x1400 →
    (∀ off v, off < 65536 → off % 4 = 0 → onPage b n off = true → exec (.registerWrite m p off v) ⟨q, fu, d⟩ =
      .next ⟨q, fu, if off < 0x100 then d.commonWrite m b n off v else d.blockWrite fu m b n off v⟩) ∧
    (∀ off v, off < 65536 → off % 4 ≠ 0 →
      exec (.registerWrite m p off v) ⟨q, fu, d⟩ = .next ⟨q, fu, d.badAccess (regBase + 65536 * p + off)⟩) ∧
    (∀ p' off v, 0x1400 ≤ p' → exec (.registerWrite m p' off v) ⟨q, fu, d⟩ = .next ⟨q, fu, d.unmapped (regBase + 65536 * p')⟩) ∧
    (∀ d1, b ≠ .fn → d1 = (d.setPg p R.blkCtl (d.pg p R.blkCtl &&& 1)).blockReset b n →
      exec (.softReset m p) ⟨q, fu, d⟩ = .next ⟨q, fu, if b = .ras then d1.rasResume else d1⟩) ∧
    (b = .fn → exec (.softReset m p) ⟨q, fu, d⟩ = .next ⟨q, fu, d.fnSoftReset n⟩) ∧
    (∀ on d1 d2, b ≠ .fn → d.resetting.contains p = false → d1 = d.setPg p R.blkCtl ((d.pg p R.blkCtl &&& 1) ||| (if on then 4 else 0)) →
      d2 = (if b = .ras ∧ on = false then d1.rasResume else d1) →
      exec (.freeze m p on) ⟨q, fu, d⟩ = .next ⟨q, fu, if b = .tack then d2.tackServe else d2⟩) ∧
    (∀ d1 d2, b ≠ .fn → d.resetting.contains p = true → d1 = d.setPg p R.blkCtl (d.pg p R.blkCtl &&& 1) →
      d2 = (if b = .ras then d1.rasResume else d1) →
      exec (.freeze m p true) ⟨q, fu, d⟩ = .next ⟨q, fu, if b = .tack then d2.tackServe else d2⟩) ∧
    (∀ on, b = .fn → exec (.freeze m p on) ⟨q, fu, d⟩ = .next ⟨q, fu, fnFreezeOp n on d⟩) ∧
    (∀ on d1 d2 d3, b ≠ .fn →
      d1 = d.setPg p R.blkCtl (if d.resetting.contains p then (if on then 1 else 0) else (d.pg p R.blkCtl &&& 4) ||| (if on then 1 else 0)) →
      d2 = (if d.enabled p = on then d1 else d1.enableHook b n) → d3 = (if b = .ras ∧ d2.frozen pgRas = false then d2.rasResume else d2) →
      exec (.blkEnable m p on) ⟨q, fu, d⟩ = .next ⟨q, fu, if b = .tack then d3.tackServe else d3⟩) ∧
    (∀ v, exec (.intStatClear m p v) ⟨q, fu, d⟩ =
      .next ⟨q, fu, (d.setPg p R.intStat (d.afterW1c p R.intStat v ||| w32 (d.condBits p))).intAgain p⟩) ∧
    (∀ v d1 k, d1 = Dev.intSet 1026 d p (v.toNat &&& intMaskOf b n) → k = keyOf p R.intStat → exec (.intForce m p v) ⟨q, fu, d⟩ = .next ⟨q, fu,
      { d1 with fresh := Tab.set d1.fresh k ((Tab.getD d1.fresh k 0 &&& ~~~(w32 (v.toNat &&& intMaskOf b n))) ||| Tab.getD d.fresh k 0) }⟩) ∧
    (∀ v, exec (.errStatClear m p v) ⟨q, fu, d⟩ = .next ⟨q, fu, d.plainWrite m b n R.errStat v⟩) ∧
    (∀ mask, exec (.eccFlipArm m p mask) ⟨q, fu, d⟩ = .next ⟨q, fu,
      ((d.plainWrite m b n 0x30 (w32 mask.toNat)).plainWrite m b n 0x34 (w32 (mask.toNat / 2 ^ 32))).plainWrite m b n 0x38
        (w32 (mask.toNat / 2 ^ 64 * 256 + 1))⟩)

/-- For the page of a unit that the part has, CNT_CLEAR of a bank leaves every counter of that bank at zero and every counter of another
page or bank as it was; of the RAS page's bank 1 it changes none, and of a Rein instance's bank 1 it clears those of the function that the
master has selected. CNT_VAL_LO_READ gives the low half of the counter shown and puts the high half into the master's shadow. -/
def Obligations.CountersClearAndLatch : Prop :=
  ∀ (q : List Instr) (fu : Fuses) (d : Dev) (m : Master) (b : Blk) (n p : Nat), p = b.page n → d.pageUnit p = some (b, n) → p < 0x1400 →
    (∀ bank, bank % 256 ≠ 1 ∨ (b ≠ .ras ∧ b ≠ .rein) → ∃ e : Dev, exec (.cntClear m p bank) ⟨q, fu, d⟩ = .next ⟨q, fu, e⟩ ∧
      (∀ i, i < 32 → e.cnt p (bank % 256) i = 0) ∧
      (∀ p' bank' i, i < 32 → bank' < 256 → (p', bank') ≠ (p, bank % 256) → e.cnt p' bank' i = d.cnt p' bank' i)) ∧
    (∀ bank, bank % 256 = 1 → b = .ras → exec (.cntClear m p bank) ⟨q, fu, d⟩ = .next ⟨q, fu, d.plainWrite m .ras n 0x40 0x101⟩) ∧
    (∀ bank, bank % 256 = 1 → b = .rein → ∃ e : Dev, exec (.cntClear m p bank) ⟨q, fu, d⟩ = .next ⟨q, fu, e⟩ ∧
      (∀ i, i < 32 → Tab.getD e.cnts (fnCntKey n (d.rqSelOf m n) i) 0 = 0)) ∧
    (∀ x, x < 23 → exec (.cntValLoRead m p x) ⟨q, fu, d⟩ = .next ⟨q, fu,
      (d.setShadow m p (0x4C + 8 * x) (w32 (d.shownCnt m b n x / 2 ^ 32))).answer (natLe 4 (w32 (d.shownCnt m b n x % 2 ^ 32)).toNat)⟩) ∧
    (∀ x, 23 ≤ x → exec (.cntValLoRead m p x) ⟨q, fu, d⟩ = .next ⟨q, fu, d.answer (natLe 4 0)⟩)

/-- CTX_FREE, KPR_WAIT_MAX, UPD_EVT_LO, SKV_EVT, LAT_EVT_LO, RAS_REC_0, CC_INBOX_LO, REIN_VT_LO and PWR_TEMP give the master their value
and have their read's effect (a mark or a maximum starts again, the oldest entry leaves its queue, halves are latched). CC_INBOX_HI_WRITE
sends the inbox pair. An SMBus transaction after power-on with a good PEC is counted and reads BRD_BOOT_STAT or a register of pages 0 to
4, or writes one (an offset past them is counted, reads zeros and writes nothing); with a bad PEC it is only counted. -/
def Obligations.ReadsWithEffects : Prop :=
  ∀ (q : List Instr) (fu : Fuses) (d : Dev) (m : Master),
    exec (.ctxFreeRead m) ⟨q, fu, d⟩ = .next ⟨q, fu,
      ({ d with cp := { d.cp with lowMark := d.ctxFree } } : Dev).answer (natLe 4 (d.regValue fu m pgCtx 0x108).toNat)⟩ ∧
    (∀ k, k < 16 → exec (.kprWaitMaxRead m k) ⟨q, fu, d⟩ = .next ⟨q, fu,
      ({ d with kpr := { d.kpr with waitMax := Tab.del d.kpr.waitMax k } } : Dev).answer
        (natLe 4 (w32 (sat 32 (Tab.getD d.kpr.waitMax k 0))).toNat)⟩) ∧
    exec (.updEvtLoRead m) ⟨q, fu, d⟩ = .next ⟨q, fu, (d.updEvtRead m).1.answer (natLe 4 (d.updEvtRead m).2.toNat)⟩ ∧
    (∀ e, e < d.part.engines → exec (.skvEvtRead m e) ⟨q, fu, d⟩ =
      .next ⟨q, fu, (d.skvEvtRead m e).1.answer (natLe 4 (d.skvEvtRead m e).2.toNat)⟩) ∧
    exec (.latEvtLoRead m) ⟨q, fu, d⟩ = .next ⟨q, fu, (d.latEvtRead m).1.answer (natLe 4 (d.latEvtRead m).2.toNat)⟩ ∧
    exec (.rasRecRead m) ⟨q, fu, d⟩ = .next ⟨q, fu, (d.rasRecRead m).1.answer (natLe 4 (d.rasRecRead m).2.toNat)⟩ ∧
    (∀ c, c < 16 → exec (.ccInboxLoRead m c) ⟨q, fu, d⟩ =
      .next ⟨q, fu, (d.inboxRead m c).1.answer (natLe 4 (d.inboxRead m c).2.toNat)⟩) ∧
    (∀ c v, c < 16 → exec (.ccInboxHiWrite m c v) ⟨q, fu, d⟩ = .next ⟨q, fu, d.inboxHi m c v⟩) ∧
    (∀ i, i < 96 → d.pageUnit (pgRein i) = some (.rein, i) → exec (.reinVtLoRead m i) ⟨q, fu, d⟩ = .next ⟨q, fu,
      (d.setShadow m (pgRein i) 0x108 (w32 ((d.rein i).v / 2 ^ 32))).answer (natLe 4 (w32 (d.rein i).v).toNat)⟩) ∧
    exec (.pwrTempRead m) ⟨q, fu, d⟩ = .next ⟨q, fu, d.tempRead.1.answer (natLe 4 d.tempRead.2.toNat)⟩ ∧
    (d.brd.phase ≠ .off →
      exec (.smbReadByte true) ⟨q, fu, d⟩ =
        .next ⟨q, fu, (d.bump pgBrand 0 3).smbGive (natLe 1 ((d.bump pgBrand 0 3).rg R.brdBootStat).toNat)⟩ ∧
      exec (.smbReadByte false) ⟨q, fu, d⟩ = .next ⟨q, fu, d.bump pgBrand 0 4⟩ ∧
      (∀ off e b, off % 2 ^ 32 < 0x50000 → (d.bump pgBrand 0 3).regLoad fu .smbus (regBase + off % 2 ^ 32) 4 = (e, b) →
        exec (.smbRegRead off true) ⟨q, fu, d⟩ = .next ⟨q, fu, e.smbGive b⟩) ∧
      (∀ off v, off % 2 ^ 32 < 0x50000 → exec (.smbRegWrite off v true) ⟨q, fu, d⟩ =
        .next ⟨q, fu, (d.bump pgBrand 0 3).regStore fu .smbus (regBase + off % 2 ^ 32) (natLe 4 v.toNat)⟩) ∧
      (∀ off, 0x50000 ≤ off % 2 ^ 32 → exec (.smbRegRead off true) ⟨q, fu, d⟩ =
        .next ⟨q, fu, ((d.bump pgBrand 0 3).bump pgBrand 0 5).smbGive (List.replicate 4 0)⟩) ∧
      (∀ off v, 0x50000 ≤ off % 2 ^ 32 → exec (.smbRegWrite off v true) ⟨q, fu, d⟩ = .next ⟨q, fu, (d.bump pgBrand 0 3).bump pgBrand 0 5⟩) ∧
      (∀ off, exec (.smbRegRead off false) ⟨q, fu, d⟩ = .next ⟨q, fu, d.bump pgBrand 0 4⟩) ∧
      (∀ off v, exec (.smbRegWrite off v false) ⟨q, fu, d⟩ = .next ⟨q, fu, d.bump pgBrand 0 4⟩))

/-- With no operation running and good operands, ARB_COMMIT, REVOKE, KEY_PROG, EXTEND and QUOTE begin their operation; ARB_COMMIT and
REVOKE with operands that may not be end REFUSED, and each that finds one running answers BUSY. BRAND_OP_DONE of the running one gives its
effect (a measurement extended, a quote written), programs its fuses and ends it with RESULT OK and OP_DONE, or, where a fuse bit fails,
with RESULT 4 and FUSE_FAIL. DEBUG_OPEN of a part whose debug is neither locked nor open opens it and extends MR_7. CC_START of a core
that is not running starts it at CC_ENTRY. -/
def Obligations.BrandOperations : Prop :=
  ∀ (q : List Instr) (fu : Fuses) (d : Dev),
    (∀ op, d.brd.op = none → (∀ v, v % 128 ≤ d.runVersion → fu.arb < v % 128 → op = .commit (v % 128) →
        exec (.arbCommit v) ⟨q, fu, d⟩ = .next ⟨q, fu, { d with brd := { d.brd with op := some op } }⟩) ∧
      (∀ v, d.runVersion < v % 128 ∨ v % 128 ≤ fu.arb → op = .commit (v % 128) →
        exec (.arbCommit v) ⟨q, fu, d⟩ = .next ⟨q, fu, d.opEnd op.reg 3⟩) ∧
      (∀ k key j, key % 256 = 0xA5 → k % 4 ≠ d.runSlot → j < 4 → j ≠ k % 4 → fu.good j = true → op = .revoke (k % 4) →
        exec (.revoke k key) ⟨q, fu, d⟩ = .next ⟨q, fu, { d with brd := { d.brd with op := some op } }⟩) ∧
      (∀ k key, key % 256 ≠ 0xA5 → op = .revoke (k % 4) → exec (.revoke k key) ⟨q, fu, d⟩ = .next ⟨q, fu, d.opEnd op.reg 2⟩) ∧
      (∀ k key, key % 256 = 0xA5 → k % 4 = d.runSlot → op = .revoke (k % 4) → exec (.revoke k key) ⟨q, fu, d⟩ = .next ⟨q, fu, d.opEnd op.reg 3⟩)) ∧
    (∀ o k key, d.brd.op = some o → exec (.arbCommit k) ⟨q, fu, d⟩ = .next ⟨q, fu, d.opResult (BrandOp.commit (k % 128)).reg 1⟩ ∧
      exec (.revoke k key) ⟨q, fu, d⟩ = .next ⟨q, fu, d.opResult (BrandOp.revoke (k % 4)).reg 1⟩ ∧
      exec .quote ⟨q, fu, d⟩ = .next ⟨q, fu, d.opResult (BrandOp.quote 0).reg 1⟩) ∧
    (∀ k a d1, d.brd.op = none → k % 4 ≠ d.runSlot → fu.programmed (k % 4) = false → k % 4 ∉ fu.revoked →
      a = d.addr52 R.brdKeyAddrLo R.brdKeyAddrHi → d.seatArg a 64 = true → d1 = (d.touch a 64).setFd R.brdKeyProg 1 0 (k % 4) →
      exec (.keyProg k) ⟨q, fu, d⟩ = .next ⟨q, fu, { d1 with brd := { d1.brd with op := some (.keyProg (k % 4) (d.peek a 64)) } }⟩) ∧
    (∀ i a d1, d.brd.op = none → 3 ≤ i % 8 → a = d.addr52 R.brdExtAddrLo R.brdExtAddrHi → d.seatArg a 64 = true →
      d1 = (d.touch a 64).setFd R.brdExtend 2 0 (i % 8) →
      exec (.extend i) ⟨q, fu, d⟩ = .next ⟨q, fu, { d1 with brd := { d1.brd with op := some (.extend (i % 8) (d.peek a 64)) } }⟩) ∧
    (∀ a d1, d.brd.op = none → a = d.addr52 R.brdQuoteAddrLo R.brdQuoteAddrHi → d.seatArg a 768 = true → d1 = d.setFd R.brdQuote 1 1 0 →
      exec .quote ⟨q, fu, d⟩ = .next ⟨q, fu, { d1 with brd := { d1.brd with op := some (.quote a) } }⟩) ∧
    (∀ op bad d1, d.brd.op = some op → fu.fails op bad = false → d1 = { d with brd := { d.brd with op := none } } →
      exec (.brandOpDone bad) ⟨q, fu, d⟩ = .next ⟨q, fu.program op 0, (d1.opEffect fu op).opEnd op.reg 0⟩) ∧
    (∀ op bad d1, d.brd.op = some op → fu.fails op bad = true → d1 = { d with brd := { d.brd with op := none } } →
      exec (.brandOpDone bad) ⟨q, fu, d⟩ = .next ⟨q, fu.program op bad, ((d1.opEffect fu op).opEnd op.reg 4).setErr pgBrand 0 0⟩) ∧
    (fu.debugLock = false → d.fd R.brdDebug 1 1 ≠ 1 →
      exec .debugOpen ⟨q, fu, d⟩ = .next ⟨q, fu, (d.setRg R.brdDebug 2).mrExtend 7 (sha512 (ascii "DBG-OPEN"))⟩) ∧
    (∀ c mask, 1 ≤ c → c < 16 → mask.testBit c = true → c ∉ d.brd.running → ∃ e : Dev, exec (.ccStart mask) ⟨q, fu, d⟩ = .next ⟨q, fu, e⟩ ∧
      c ∈ e.brd.running ∧ Tab.find? e.brd.entries c = some (d.addr64 R.ccEntryLo R.ccEntryHi))

/-- COLD_BOOT with RESET_N low leaves a fuse operation that it interrupted programmed but for the bits named, and the device after a cold
reset: with self-tests that fail, halted; else with the boot pages enabled and in recovery if that is requested or the header (the second
read where the first finds no image) fails one of checks 1 to 6, whose cause is set, and waiting for the body if it passes them.
BOOT_BODY_LOADED with a good body writes it to LOAD_ADDR, makes the measurements and goes on; with a bad one it sets cause 6 and begins
recovery. HIDE_TRAINING_DONE while a released image waits takes failed stacks down and releases core 0; earlier in the boot it takes them
down. -/
def Obligations.BootFromFlash : Prop :=
  ∀ (q : List Instr) (fu : Fuses) (d : Dev),
    (∀ torn hdr again h fu' d1, d.pins.resetN = false → fu' = (d.brd.op.map (fun op => fu.program op torn)).getD fu →
      h = (if hNoMedia hdr then again else hdr) → d1 = (bootPages d.part).foldl (fun d p => d.setPg p R.blkCtl 1) d.coldReset →
      (hCause fu' h = 0 → exec (.coldBoot false true torn hdr again) ⟨q, fu, d⟩ =
        .next ⟨q, fu', ({ d1 with brd := { d1.brd with header := h } } : Dev).setPhase .body⟩) ∧
      (hCause fu' h ≠ 0 → exec (.coldBoot false true torn hdr again) ⟨q, fu, d⟩ = .next ⟨q, fu', (d1.setCause (hCause fu' h)).startRecovery fu'⟩) ∧
      exec (.coldBoot true true torn hdr again) ⟨q, fu, d⟩ = .next ⟨q, fu', d1.startRecovery fu'⟩ ∧
      (∀ r, exec (.coldBoot r false torn hdr again) ⟨q, fu, d⟩ = .next ⟨q, fu', ((d.coldReset.setCause 9).setStage 3).setPhase .halted⟩)) ∧
    (∀ body h d1, d.brd.phase = .body → h = d.brd.header → d1 = d.store (hLoad h) (slice body 0 (hBodyLen h)) →
      (d1.bodyGood h = true → exec (.bootBodyLoaded body) ⟨q, fu, d⟩ = .next ⟨q, fu, d1.measured fu 0⟩) ∧
      (d1.bodyGood h = false → exec (.bootBodyLoaded body) ⟨q, fu, d⟩ = .next ⟨q, fu, (d1.setCause 6).startRecovery fu⟩)) ∧
    (∀ failed d1, d.brd.phase = .trainWait → d.brd.hideTrained = false →
      d1 = ((List.range 16).filter (fun n => failed.testBit n)).foldl (fun d n => d.stackDown n) d → d1.brd.phase = .trainWait →
      exec (.hideTrainingDone failed) ⟨q, fu, d⟩ =
        .next ⟨q, fu, ({ d1 with brd := { d1.brd with hideTrained := true } } : Dev).release⟩) ∧
    (∀ failed d1, d.brd.phase ≠ .off → d.brd.phase ≠ .halted → d.brd.hideTrained = false →
      d1 = ((List.range 16).filter (fun n => failed.testBit n)).foldl (fun d n => d.stackDown n) d → d1.brd.phase ≠ .trainWait →
      exec (.hideTrainingDone failed) ⟨q, fu, d⟩ = .next ⟨q, fu, { d1 with brd := { d1.brd with hideTrained := true } }⟩)

/-- RECOVERY_TIMEOUT after 120 s of a source sets cause 8 and begins the next one. In network recovery: FEC_ALTERNATE changes the FEC mode
after 1 s without a link. DHCP_REPLY takes the first offer that names a file and a server, and the ACK of the address requested leads to
ARP for the server or router. DHCP_RETRANSMIT sends again after 4 and 8 s and starts again after 16 s. RECOVERY_ARP answers a request for
the leased address and, with the peer resolved, begins the transfer. TFTP_BLOCK takes an option acknowledgement, takes and acknowledges
the next block (a short last block that completes no good image starts again from DHCP), and acknowledges a repeated one. TFTP_TIMEOUT
retransmits after 1 s, five times, then starts the transfer again. -/
def Obligations.NetworkRecovery : Prop :=
  ∀ (q : List Instr) (fu : Fuses) (d : Dev) (r : Recovery), r = d.brd.rcv →
    (∀ d1, d.brd.phase = .fabric → r.since + secCycles 120 ≤ d.now → d1 = d.setCause 8 →
      exec .recoveryTimeout ⟨q, fu, d⟩ = .next ⟨q, fu, if d1.fd R.brdRcvCfg 18 17 = 2 then d1.fabStart else d1.netStart fu⟩) ∧
    (d.brd.phase = .network →
    (r.stage = .link → r.fecAt + secCycles 1 ≤ d.now → exec .fecAlternate ⟨q, fu, d⟩ = .next ⟨q, fu,
      (d.setRcv (fun r => { r with fec := !r.fec, fecAt := d.now })).setFd R.mgmtStat 1 1 (b2n (!r.fec))⟩) ∧
    (∀ addr mask router server file r', r.stage = .discover → file ≠ [] → server ≠ 0 →
      r' = { r with stage := .request, tries := 0, sentAt := d.now, leased := addr, mask := mask, router := router, server := server, file := file } →
      exec (.dhcpReply false addr mask router server file) ⟨q, fu, d⟩ = .next ⟨q, fu, (d.setRcv (fun _ => r')).netSend [.request server addr]⟩) ∧
    (∀ mask router server file, r.stage = .request → exec (.dhcpReply true r.leased mask router server file) ⟨q, fu, d⟩ = .next ⟨q, fu,
      (d.setRcv (fun r => { r with stage := .arp, sentAt := d.now })).netSend
        [.arpRequest (if (r.server &&& r.mask) = (r.leased &&& r.mask) then r.server else r.router)]⟩) ∧
    (r.stage = .discover ∨ r.stage = .request → r.sentAt + secCycles (4 * 2 ^ r.tries) ≤ d.now → r.tries ≠ 2 → exec .dhcpRetransmit ⟨q, fu, d⟩ =
      .next ⟨q, fu, (d.setRcv (fun r => { r with tries := r.tries + 1 })).netSend
        [if r.stage = .discover then .discover fu.deviceId else .request r.server r.leased]⟩) ∧
    (r.stage = .discover ∨ r.stage = .request → r.sentAt + secCycles 16 ≤ d.now → r.tries = 2 →
      exec .dhcpRetransmit ⟨q, fu, d⟩ = .next ⟨q, fu, d.netDiscover fu []⟩) ∧
    (∀ mac, r.stage = .arp ∨ r.stage = .tftp → r.leased ≠ 0 →
      exec (.recoveryArp true r.leased mac) ⟨q, fu, d⟩ = .next ⟨q, fu, d.netSend [.arpReply r.leased fu.mac]⟩) ∧
    (∀ mac, r.stage = .arp →
      exec (.recoveryArp false (if (r.server &&& r.mask) = (r.leased &&& r.mask) then r.server else r.router) mac) ⟨q, fu, d⟩ =
        .next ⟨q, fu, (d.setRcv (fun r => { r with peerMac := some mac })).tftpStart⟩) ∧
    (∀ n data, r.stage = .tftp → r.block = 0 → r.got = [] → exec (.tftpBlock true n data) ⟨q, fu, d⟩ =
      .next ⟨q, fu, (d.setRcv (fun r => { r with blksize := n, sentAt := d.now, tries := 0 })).netSend [.ack 0]⟩) ∧
    (∀ n data d1, r.stage = .tftp → n = (r.block + 1) % 65536 →
      d1 = ((d.setRcv (fun r => { r with block := n, sentAt := d.now, tries := 0 })).netSend [.ack n]).imageFeed fu 1 (data.take r.blksize) (netAgain fu) →
      exec (.tftpBlock false n data) ⟨q, fu, d⟩ = .next ⟨q, fu,
        if d1.brd.phase = .network ∧ d1.brd.rcv.stage = .tftp ∧ data.length < r.blksize then netAgain fu d1 (if d1.brd.rcv.got.length < 256 then 7 else 6)
        else d1⟩) ∧
    (∀ data, r.stage = .tftp → exec (.tftpBlock false r.block data) ⟨q, fu, d⟩ = .next ⟨q, fu, d.netSend [.ack r.block]⟩) ∧
    (r.stage = .tftp → r.sentAt + secCycles 1 ≤ d.now → r.tries < 5 → exec .tftpTimeout ⟨q, fu, d⟩ =
      .next ⟨q, fu, (d.setRcv (fun r => { r with tries := r.tries + 1, sentAt := d.now })).netSend
        [if r.block = 0 ∧ r.blksize = 512 then .readRequest r.file 1468 else .ack r.block]⟩) ∧
    (r.stage = .tftp → r.sentAt + secCycles 1 ≤ d.now → 5 ≤ r.tries → exec .tftpTimeout ⟨q, fu, d⟩ = .next ⟨q, fu, d.tftpStart⟩) ∧
    (∀ d1, r.since + secCycles 120 ≤ d.now → d1 = d.setCause 8 →
      exec .recoveryTimeout ⟨q, fu, d⟩ = .next ⟨q, fu, if d1.fd R.brdRcvCfg 18 17 = 1 then d1.netStart fu
        else if d1.fd R.brdRcvCfg 18 17 = 2 ∨ d1.fd R.brdRcvCfg 31 31 = 1 then d1.fabStart else d1.netStart fu⟩))

/-- For a channel the part has: BUS_BRINGUP with CURRIER running brings an untried channel up as found, any but channel 0 after it. Work
on a die waits until the channel's Rein instance has selected its items, and enters those it has not: then ZQ_CALIBRATION of an idle die
that is due is done, and MAP_WRITEBACK writes a dirty map page back. DIE_TIMEOUT and CHANNEL_OFFLINE take a channel out of service;
CURRIER_READ of a unit that waits binds its location and enters its item; READ_DECODE yields a unit decoded at step 1 within REFRESH_BITS,
queues a rewrite of one decoded past that, or loses one that no step decoded (step 4 decodes only in a block that is open or unverified).
DEALLOCATE takes the oldest freed storage. -/
def Obligations.FlashChannels : Prop :=
  ∀ (q : List Instr) (fu : Fuses) (d : Dev) (c : Nat), c < d.part.channels →
    (∀ p a d1 d2, (Tab.getD d.flash.ch c {}).up = false → d.runs pgCur = true → c = 0 ∨ d.chanUp 0 = true →
      d1 = (if d.bringupCause c p = 0 then d.setChan c (d.chanFound c p) else (d.setChan c (d.chanFound c p)).setInt pgCur 0) →
      a = 4096 * (d1.addr52 R.curProfileLo R.curProfileHi / 4096) →
      d2 = (if c = 0 ∧ d.profileOk p = true then d1.setRg R.holdupTprog (w32 (d1.peekN (a + 24) 2 + 65536 * d1.peekN (a + 26) 2)) else d1) →
      exec (.busBringup c p) ⟨q, fu, d⟩ =
        .next ⟨q, fu, if (List.range d2.part.channels).all (fun i => d2.chanUp i) = true then d2.formatState else d2⟩) ∧
    exec (.dieTimeout c) ⟨q, fu, d⟩ = .next ⟨q, fu, d.channelOut c 4⟩ ∧
    exec .channelOffline ⟨q, fu, d⟩ = .next ⟨q, fu, d.channelOut (d.fd R.curChSel 5 0) 6⟩ ∧
    (∀ x, d.chan? c = some x →
      (∀ die its, die < 16 → die < x.dies → d.chanRuns c = true → (∀ p ∈ x.progs, p.die ≠ die) →
        (∀ r ∈ x.reads, r.decoded = true ∨ ∀ k, r.block = some k → k / 4096 ≠ die) →
        Tab.getD x.zqAt die 0 + msCycles (max (d.fd R.curOnfi 15 8) 1) ≤ d.now →
        its = [d.flashItem c die .calibrate 0 64 d.workCharge] → d.reinGiven (chanRein c) its = true →
        exec (.zqCalibration c die) ⟨q, fu, d⟩ =
          .next ⟨q, fu, (d.reinUse (chanRein c) its).setChan c { x with zqAt := Tab.set x.zqAt die (d.reinUse (chanRein c) its).now }⟩) ∧
      (∀ page its, d.chanRuns c = true → Tab.has x.dirty page = true →
        its = [d.flashItem c (page % max x.dies 1) (.map page) 0 4096 d.workCharge] →
        (d.reinGiven (chanRein c) its = true → exec (.mapWriteback c page) ⟨q, fu, d⟩ = .next ⟨q, fu,
          ((d.reinUse (chanRein c) its).setChan c
            { x with dirty := Tab.del x.dirty page, stale := x.stale.filter (fun e => mapPage e.1 != page) }).bump pgCur 0 12⟩) ∧
        (d.reinGiven (chanRein c) its = false → exec (.mapWriteback c page) ⟨q, fu, d⟩ = .next ⟨q, fu, d.reinEnter (chanRein c) none its⟩)) ∧
      (∀ lu step bits r y d1, x.reads.find? (fun r => r.lu == lu && !r.decoded) = some r → d.reinGiven (chanRein c) (d.readItems c r) = true →
        d1 = (if 2 ≤ step then (d.reinUse (chanRein c) (d.readItems c r)).bump pgCur 0 3 else d.reinUse (chanRein c) (d.readItems c r)) →
        y = { x with reads := x.reads.map (fun q => if q.lu == lu then { q with decoded := true } else q) } →
        (5 ≤ step ∨ step = 4 ∧ (∀ k, r.block = some k → (x.block k).st ≠ .opened ∧ (x.block k).st ≠ .full) → exec (.readDecode c lu step bits) ⟨q, fu, d⟩ =
          .next ⟨q, fu, (d1.setChan c { y with lost := insNat x.lost lu }).bump pgCur 0 5⟩) ∧
        (step < 2 → bits ≤ d1.fd R.curLdpc 15 8 → exec (.readDecode c lu step bits) ⟨q, fu, d⟩ = .next ⟨q, fu, d1.setChan c y⟩) ∧
        (∀ k, step = 4 → r.block = some k → (x.block k).st = .opened ∨ (x.block k).st = .full → exec (.readDecode c lu step bits) ⟨q, fu, d⟩ =
          .next ⟨q, fu, ((d1.bump pgCur 0 4).setChan c { y with refresh := insNat x.refresh lu }).refreshOne c lu⟩) ∧
        (step < 4 → 2 ≤ step ∨ d1.fd R.curLdpc 15 8 < bits → exec (.readDecode c lu step bits) ⟨q, fu, d⟩ =
          .next ⟨q, fu, (d1.setChan c { y with refresh := insNat x.refresh lu }).refreshOne c lu⟩)) ∧
      (∀ a d1, d.tack.deallocs.find? (fun a => a.pool == .flash c) = some a → d.curState = 2 → d.runs pgCur = true → d.flushing = false →
        d1 = { d with tack := { d.tack with deallocs := d.tack.deallocs.erase a } } →
        exec (.deallocate c) ⟨q, fu, d⟩ =
          .next ⟨q, fu, (d1.setChan c (x.deallocate d1.now (16 * a.start) (16 * a.len))).bump pgCur 0 2 (16 * a.len)⟩)) ∧
    (∀ o u x r lu d1, (d.boundObj o 3).loc / 2 ^ 48 = c → d.chan? c = some x → d.chanRuns c = true → (d.boundObj o 3).primary = 3 →
      d.tack.waits.any (fun w => w.obj == o && w.unit == u) = true → x.reads.any (fun r => r.obj == o && r.ounit == u) = false →
      lu = (d.boundObj o 3).loc % 2 ^ 48 + u →
      r = { obj := o, ounit := u, lu := lu, block := (Tab.find? x.map lu).map (fun l => l / 32768), decoded := (Tab.find? x.map lu).isNone } →
      d1 = d.reinForget (chanRein c) (.flash 0 (.read o u) 0) → exec (.currierRead o u) ⟨q, fu, d⟩ = .next ⟨q, fu,
        ((d1.setChan c { x with reads := x.reads ++ [r] }).bump pgCur 0 0).reinEnter (chanRein c) (d.readCharge o u).strict (d1.readItems c r)⟩)

/-- PROGRAM_DONE of a program that its bus has taken (or that a flush runs) ends it: one slower than its TPROG raises TPROG and
TPROG_SLOW, a good parity page closes its stripe, a good data page maps its units, a failed one retires its block, and the channel goes
on. FOLD_START and GC_START copy the block they pick when the ledger allows and the bus has taken the copies. ERASE_DONE of an erasable
block frees it, or retires it at its rated cycles or on failure. BLOCK_VERIFY of a full block without bad codewords verifies it; of one
with some, their units are rewritten and the block is retired. FORMAT_START with Tack disabled begins a format, and FMT_DONE ends it with
new media. CURRIER_READY with nothing left to close reports what the restart found and makes CURRIER ready. -/
def Obligations.FlashBlocks : Prop :=
  ∀ (q : List Instr) (fu : Fuses) (d : Dev) (c die blk : Nat) (x : Channel), c < d.part.channels → die < 16 → blk < 4096 → d.chan? c = some x →
    (∀ p ns d0 d1, x.progs.find? (fun p => p.die == die) = some p → d.flushing = true ∨ d.reinGiven (chanRein c) (d.progItems c x p) = true →
      d0 = (if d.flushing = true then d else d.reinUse (chanRein c) (d.progItems c x p)) →
      d1 = (if (if p.native then d0.fd R.holdupTprog 31 16 else d0.fd R.holdupTprog 15 0) < ceilDiv ns 1000 then
        ((d0.setFd R.holdupTprog (if p.native then 31 else 15) (if p.native then 16 else 0) (min (ceilDiv ns 1000) 65535)).setInt pgHoldup 1).bump pgHoldup 0
          (if p.native then 4 else 3) else d0) →
      exec (.programDone c die ns true) ⟨q, fu, d⟩ =
        .next ⟨q, fu, (d1.setChan c (({ x with progs := x.progs.erase p } : Channel).programmed d1.now p)).chanGo c⟩ ∧
      exec (.programDone c die ns false) ⟨q, fu, d⟩ =
        .next ⟨q, fu, ((d1.setChan c { x with progs := x.progs.erase p }).blockRetire c p.block).chanGo c⟩) ∧
    (∀ k b d1 d2 y dest us, d.chanRuns c = true → d.foldIdle x = true ∨ d.nSlc x * d.fd R.curGc 15 8 < 100 * x.slcUsed →
      x.foldPick (d.foldIdle x) = some (k, b) → us = x.unitsIn k →
      d.relocate c x 1 us = some (d1, y, dest) → d1.reinGiven (chanRein c) (d1.copyItems c k x us (.fold k)) = true →
      d2 = d1.reinUse (chanRein c) (d1.copyItems c k x us (.fold k)) →
      exec (.foldStart c) ⟨q, fu, d⟩ = .next ⟨q, fu, ((d2.ledgerGo c (2 ^ 49)).putChan c (y.setBlock k
        { y.block k with dest := dest, emptied := true, st := if (y.block k).st = .opened then .full else (y.block k).st })).bump pgCur 0 7 us.length⟩) ∧
    (∀ k b d1 d2 y dest us, d.chanRuns c = true → die < x.dies → x.freeOn die < d.fd R.curGc 7 0 → x.gcPick die = some (k, b) → us = x.unitsIn k →
      d.relocate c x 2 us = some (d1, y, dest) → d1.reinGiven (chanRein c) (d1.copyItems c k x us (.collect k)) = true →
      d2 = d1.reinUse (chanRein c) (d1.copyItems c k x us (.collect k)) →
      exec (.gcStart c die) ⟨q, fu, d⟩ = .next ⟨q, fu,
        ((d2.ledgerGo c (2 ^ 50 + die)).putChan c (y.setBlock k { y.block k with dest := dest, emptied := true })).bump pgCur 0 8 us.length⟩) ∧
    (∀ k n d0 d1, k = 4096 * die + blk → d.chanRuns c = true → x.erasable k = true → n = (x.block k).erases + 1 →
      d.reinGiven (chanRein c) [d.flashItem c die (.erase k) 0 64 d.workCharge] = true →
      d0 = d.reinUse (chanRein c) [d.flashItem c die (.erase k) 0 64 d.workCharge] →
      d1 = (d0.putChan c (x.setBlock k { st := .free, erases := n })).bump pgCur 0 9 →
      exec (.eraseDone c die blk true) ⟨q, fu, d⟩ = .next ⟨q, fu, if d1.endurance ≤ n then d1.blockRetire c k else d1.chanGo c⟩ ∧
      exec (.eraseDone c die blk false) ⟨q, fu, d⟩ = .next ⟨q, fu, d0.blockRetire c k⟩) ∧
    (∀ k its d0, k = 4096 * die + blk → x.inService = true → d.curState = 1 ∨ d.curState = 2 → d.runs pgCur = true → d.flushing = false →
      (x.block k).st = .full → (x.block k).set < 3 → its = d.pageItems c die (.verify k) 0 (16384 * (x.block k).pages) d.workCharge →
      d.reinGiven (chanRein c) its = true → d0 = d.reinUse (chanRein c) its →
      exec (.blockVerify c die blk []) ⟨q, fu, d⟩ =
        .next ⟨q, fu, (d0.setChan c (x.setBlock k { x.block k with st := .verified })).bump pgCur 0 11⟩ ∧
      (∀ bad us d1 y dest, bad ≠ [] → us = (x.map.filter (fun e => e.2 / 32768 == k && bad.contains (e.2 % 32768))).map Prod.fst →
        d0.relocate c x 1 us = some (d1, y, dest) → exec (.blockVerify c die blk bad) ⟨q, fu, d⟩ =
          .next ⟨q, fu, (((d1.ledgerGo c (2 ^ 51)).setChan c y).bump pgCur 0 4 bad.length).blockRetire c k⟩)) ∧
    (d.enabled pgTack = false → d.runs pgCur = true → d.flushing = false → d.curState = 0 ∨ d.curState = 2 →
      exec .formatStart ⟨q, fu, d⟩ = .next ⟨q, fu, (d.setFd R.curFmt 31 31 1).setCurState 3⟩) ∧
    (∀ n ch d0 d1, d.curState = 3 →
      ch = d.flash.ch.map (fun e => if e.2.inService || e.2.outCause == 7 then (e.1, d.formatted e.2 (d.flash.fmtSeq + 1)) else e) →
      n = (ch.map (fun e => if e.2.fmtSeq = d.flash.fmtSeq + 1 then e.2.good else 0)).foldl (· + ·) 0 →
      d0 = (Tab.keys d.flash.ch).foldl (fun d c => d.chanForget c) d →
      d1 = { d0 with flash := { d0.flash with ch := ch, fmtSeq := d.flash.fmtSeq + 1, waiting := [] } } →
      exec .fmtDone ⟨q, fu, d⟩ = .next ⟨q, fu, (((d1.setFd R.curFmt 31 31 0).setCurState 2).setInt pgCur 4).bump pgCur 0 9 n⟩) ∧
    (∀ d1 d2, d.curState = 1 → d.runs pgCur = true →
      (∀ y ∈ Tab.vals d.flash.ch, y.inService = true → ∀ e ∈ y.blocks, ¬ (e.2.set < 3 ∧ e.2.st = .full ∧ e.2.emptied = false)) →
      d1 = (d.flash.record.map (fun r => ((d.setRg R.holdupLastUs (w32 r.1)).setRg R.holdupLastDebt (w32 r.2)).bump pgHoldup 0 5)).getD d →
      d2 = (if d1.flash.recordMissing then d1.setInt pgHoldup 2 else d1) →
      exec .currierReady ⟨q, fu, d⟩ =
        .next ⟨q, fu, ({ d2 with flash := { d2.flash with record := none, recordMissing := false } } : Dev).setCurState 2⟩)

/-- With TACK running, ALLOC_REQ, OBJ_SEAL and OBJ_FREE are done at once for their master; with it not running they wait. MIGRATION_START
of a promotion, a demotion, a move to flash, a neighbour copy or its end, or a PIN that the object already meets begins it (or counts a
refusal) or does it. MIGRATION_ABANDON of a copying migration quarantines the object where its source cannot be read, and abandons it
where its target is lost. CURRIER_WRITE of the next unit of a flash target copies it, COPY_DONE writes a seat or Hide target whole, sends
the next 4 KiB of a neighbour copy, and marks a whole copy, VERIFY_DONE of an equal target switches the object to it and of one that
differs starts the copy again or gives it up. What must be read from flash first passes the channel's Rein instance. -/
def Obligations.ObjectsAndMigrations : Prop :=
  ∀ (q : List Instr) (fu : Fuses) (d : Dev) (m : Master),
    (∀ v fn, fn = Tab.getD d.tack.allocFn m.index 0 % 1024 →
      (d.runs pgTack = true → exec (.allocReq m v) ⟨q, fu, d⟩ = .next ⟨q, fu, d.allocDo m.index v fn⟩) ∧
      (d.runs pgTack = false → exec (.allocReq m v) ⟨q, fu, d⟩ = .next ⟨q, fu, d.objWaits m.index (.alloc m.index v fn)⟩)) ∧
    (∀ o, o < 2 ^ 25 →
      (d.runs pgTack = true → exec (.objSeal m o) ⟨q, fu, d⟩ = .next ⟨q, fu, d.sealDo m.index o⟩ ∧
        exec (.objFree m o) ⟨q, fu, d⟩ = .next ⟨q, fu, d.freeDo m.index o⟩) ∧
      (d.runs pgTack = false → exec (.objSeal m o) ⟨q, fu, d⟩ = .next ⟨q, fu, d.objWaits m.index (.seal m.index o)⟩ ∧
        exec (.objFree m o) ⟨q, fu, d⟩ = .next ⟨q, fu, d.objWaits m.index (.free m.index o)⟩)) ∧
    (d.runs pgTack = true → fbit (d.rg R.tackCfg) 0 = true →
      (∀ o p, d.migFree (d.obj o) false = true → d.promoteTarget (d.obj o) = some p →
        exec (.migrationStart (.promote o)) ⟨q, fu, d⟩ = .next ⟨q, fu, d.migCount (d.migTo o p .move (d.wmLow p.tier) none)⟩) ∧
      (∀ t n, t < 2 → n < 16 → exec (.migrationStart (.demote t n)) ⟨q, fu, d⟩ = .next ⟨q, fu, d.demote t n⟩) ∧
      (∀ o c, d.migFree (d.obj o) false = true → (d.obj o).hint = 3 → (d.obj o).primary ≠ 3 → d.bestChannel = some c →
        exec (.migrationStart (.cold o)) ⟨q, fu, d⟩ = .next ⟨q, fu, d.migCount (d.migTo o (.flash c) .move 100 none)⟩) ∧
      (∀ o x n, d.migFree (d.obj o) false = true → (d.obj o).primary = 3 → (d.obj o).nbr = false → (d.obj o).hint ≠ 3 →
        d.fd R.tackCfg 31 24 ≤ (d.obj o).heat → n < 16 → d.poolWithin (.hide n) 0 (d.wmLow 1) = false →
        exec (.migrationStart (.addNbr o x)) ⟨q, fu, d⟩ = .next ⟨q, fu, d.migCount (d.migTo o (.nbr x) .addNbr 100 none)⟩) ∧
      (∀ o, (d.obj o).nbr = true → (d.obj o).mig = 0 → (d.obj o).primary ≠ 3 ∨ ((d.obj o).pinned = false ∧ (d.obj o).hint = 3) →
        exec (.migrationStart (.dropNbr o)) ⟨q, fu, d⟩ = .next ⟨q, fu, d.nbrDrop o⟩)) ∧
    (∀ o w d1, d.runs pgTack = true → d.tack.pinWaits.find? (fun w => w.obj == o) = some w → (d.obj o).mig = 0 → (d.obj o).st ≠ 1 →
      (d.obj o).primary = w.tier →
      d1 = { d with tack := { d.tack with pinWaits := d.tack.pinWaits.erase w,
                                          pins := Tab.upd? d.tack.pins w.ctx (fun (p : PinCmd) => { p with changed := p.changed + 1 }) } } →
      exec (.migrationStart (.pin o)) ⟨q, fu, d⟩ = .next ⟨q, fu, (d1.updObj o (fun e => { e with pinned := true })).bump pgTack 0 9⟩) ∧
    (∀ o g a e, o < 2 ^ 25 → Tab.find? d.tack.migs o = some g → g.target = some a → e = d.obj o →
      (∀ st, e.mig = 1 ∨ e.mig = 2 → d.copyBad e e.primary 0 (65536 * e.len) = some st →
        exec (.migrationAbandon o) ⟨q, fu, d⟩ = .next ⟨q, fu, d.migQuarantine o⟩) ∧
      (e.mig = 1 ∨ e.mig = 2 → d.copyBad e e.primary 0 (65536 * e.len) = none → d.targetLost a = true →
        exec (.migrationAbandon o) ⟨q, fu, d⟩ = .next ⟨q, fu, d.migAbandon o⟩) ∧
      (d.targetLost a = false → d.copyBad e e.primary 0 (65536 * e.len) = none → d.enabled pgTack = true →
        (∀ d1 v, e.mig = 2 → (a.pool.tier ≤ 1 ∧ e.primary ≠ 3) ∨ a.pool.tier = 2 → d.targetEqual o e g a = (d1, v) →
          (v = .equal → exec (.verifyDone o) ⟨q, fu, d⟩ = .next ⟨q, fu, d1.migSwitch o g a⟩) ∧
          (v = .differs → exec (.verifyDone o) ⟨q, fu, d⟩ = .next ⟨q, fu, d1.migMismatch o g a⟩) ∧
          (v = .failed → exec (.verifyDone o) ⟨q, fu, d⟩ = .next ⟨q, fu, d1.migAbandon o⟩) ∧
          (v = .wait → exec (.verifyDone o) ⟨q, fu, d⟩ = .next ⟨q, fu, d1⟩)) ∧
        (∀ x l its, e.mig = 2 → (a.pool.tier = 3 ∧ l = d.locOf a) ∨ (a.pool.tier ≤ 1 ∧ e.primary = 3 ∧ l = e.loc) → d.chan? (l / 2 ^ 48) = some x →
          its = d.unitItems (l / 2 ^ 48) x ((unitsOf 0 (65536 * e.len)).map (fun u => l % 2 ^ 48 + u)) (if a.pool.tier = 3 then .check o else .copy o)
            { fn := some e.fn } → d.reinGiven (chanRein (l / 2 ^ 48)) its = true →
          exec (.verifyDone o) ⟨q, fu, d⟩ = .next ⟨q, fu, (d.reinUse (chanRein (l / 2 ^ 48)) its).migCheck o e g a⟩) ∧
        (∀ d1, e.mig = 1 → a.pool.tier ≤ 1 → e.primary ≠ 3 →
          d1 = (if e.primary ≤ 1 then d.touch e.loc (65536 * e.len) { fn := some e.fn } else d) → exec (.copyDone o) ⟨q, fu, d⟩ = .next ⟨q, fu,
            (((d1.store (d.poolAddr a.pool a.start) (d.copyBytes e e.primary 0 (65536 * e.len)) false { fn := some e.fn }).updObj o
              (fun e => { e with mig := 2 })).bump pgTack 0 12 (65536 * e.len))⟩) ∧
        (∀ x its d1, e.mig = 1 → a.pool.tier ≤ 1 → e.primary = 3 → d.chan? (e.loc / 2 ^ 48) = some x →
          its = d.unitItems (e.loc / 2 ^ 48) x ((unitsOf 0 (65536 * e.len)).map (fun u => e.loc % 2 ^ 48 + u)) (.copy o) { fn := some e.fn } →
          d.reinGiven (chanRein (e.loc / 2 ^ 48)) its = true → d1 = d.reinUse (chanRein (e.loc / 2 ^ 48)) its →
          exec (.copyDone o) ⟨q, fu, d⟩ = .next ⟨q, fu,
            (((d1.store (d1.poolAddr a.pool a.start) (d1.copyBytes e 3 0 (65536 * e.len)) false { fn := some e.fn }).updObj o
              (fun e => { e with mig := 2 })).bump pgTack 0 12 (65536 * e.len))⟩) ∧
        (e.mig = 1 → 2 ≤ a.pool.tier → g.copied = 16 * e.len → g.out = 0 → exec (.copyDone o) ⟨q, fu, d⟩ =
          .next ⟨q, fu, (d.updObj o (fun e => { e with mig := 2 })).bump pgTack 0 12 (65536 * e.len)⟩) ∧
        (e.mig = 1 → a.pool.tier = 2 → g.copied < 16 * e.len → e.primary ≠ 3 →
          exec (.copyDone o) ⟨q, fu, d⟩ = .next ⟨q, fu, d.nbrCopy o e g a⟩))) ∧
    (∀ c u o g a e, c < d.part.channels → (o, g) ∈ d.tack.migs → e = d.obj o → e.mig = 1 → g.target = some a → a.pool = .flash c →
      u = 16 * a.start + g.copied → u < 16 * (a.start + a.len) →
      (∀ z ∈ d.tack.migs, z ≠ (o, g) → (d.obj z.1).mig = 1 → ∀ b, z.2.target = some b → b.pool = .flash c → u ≠ 16 * b.start + z.2.copied) →
      ((d.copyBad e e.primary (4096 * g.copied) 4096).isSome = true → exec (.currierWrite c u) ⟨q, fu, d⟩ = .next ⟨q, fu, d.migQuarantine o⟩) ∧
      (∀ d1 d2, d.copyBad e e.primary (4096 * g.copied) 4096 = none →
      d1 = (if e.primary ≤ 1 then d.touch (e.loc + 4096 * g.copied) 4096 { fn := some e.fn } else d) →
      d1.curWrite c u (d1.copyBytes e e.primary (4096 * g.copied) 4096) e.fn = (d2, true) →
      exec (.currierWrite c u) ⟨q, fu, d⟩ = .next ⟨q, fu,
        { d2 with tack := { d2.tack with migs := Tab.set d2.tack.migs o { g with copied := g.copied + 1 } } }⟩) ∧
      (∀ d1 d2, d.copyBad e e.primary (4096 * g.copied) 4096 = none →
        d1 = (if e.primary ≤ 1 then d.touch (e.loc + 4096 * g.copied) 4096 { fn := some e.fn } else d) →
        d1.curWrite c u (d1.copyBytes e e.primary (4096 * g.copied) 4096) e.fn = (d2, false) →
        exec (.currierWrite c u) ⟨q, fu, d⟩ = .next ⟨q, fu, d2⟩))

/-- HEAT_HALVING that is due halves every object's heat. HINT with good fields applies its effects to its range of objects, or to those of
its range of lists; with bad fields it ends INVALID_CMD; while its moves run it completes once they have ended. STAGING_FILL of a decoded
unit whose object is on flash puts it into its place, ends the waits for it and counts heat; with no place free it counts the stalls.
TIER_LATE of a wait beyond LATE_US stalls its reader and is counted once. NBR_ADD and NBR_WITHDRAW act with TACK running and wait
otherwise; NBR_STOP of an extent without an acknowledgement for the stop time loses it. -/
def Obligations.HeatHintsAndStaging : Prop :=
  ∀ (q : List Instr) (fu : Fuses) (d : Dev),
    (∀ d1, d.runs pgTack = true → d.tack.halvedAt + msCycles (max (d.fd R.tackCfg 15 8) 1) ≤ d.now →
      d1 = { d with tack := { d.tack with halvedAt := d.now } } →
      exec .heatHalving ⟨q, fu, d⟩ = .next ⟨q, fu,
        (List.range d1.slots).foldl (fun d o => if (d.obj o).heat = 0 then d else d.updObj o (fun e => { e with heat := e.heat / 2 })) d1⟩) ∧
    (∀ c, c < 4096 → d.live c = true → Tab.has d.tack.pins c = true → exec (.hint c) ⟨q, fu, d⟩ = .next ⟨q, fu, d.hintEnd c⟩) ∧
    (∀ c x o, c < 4096 → Tab.has d.tack.pins c = false → d.canStart c 0x38 = true → d.runs pgTack = true → d.ctx? c = some x →
      d.hintArgs x = true → (x.n 33 1).testBit 0 = false → d.objStart x.desc = some o →
      exec (.hint c) ⟨q, fu, d⟩ = .next ⟨q, fu, d.hintAll c x (d.hintObjs o (x.n 36 4)) 0⟩) ∧
    (∀ c x d1 d2 d3 d4 img slot ws bs es gs os, c < 4096 → Tab.has d.tack.pins c = false → d.canStart c 0x38 = true → d.runs pgTack = true →
      d.ctx? c = some x → d.hintArgs x = true → (x.n 33 1).testBit 0 = true → d.lookColl c x.coll = (d1, .ok img slot) →
      d1.shardOk img d1.curGen = true → x.n 40 4 + x.n 36 4 ≤ cLists img →
      ws = [{ h := cDirTbl img, kind := 3, chk := 3 }] → d1.bindLook c img ws = (d2, .ok bs) →
      d2.readEntries c ((bs.head?.map d2.boundBase).getD 0) ((List.range (x.n 36 4)).map (fun i => x.n 40 4 + i)) = (d3, .ok es) →
      d4 = (((d3.bindColl c x.coll false).1).bindAll c img ws).1.unbind c bs →
      gs = ((Tab.vals es).map (fun b => (if (x.n 33 1).testBit 1 then [(dirEntOf b).seg] else []) ++
        (if (x.n 33 1).testBit 2 then [(dirEntOf b).refine] else []))).flatten → os = gs.filterMap d4.hintAt →
      exec (.hint c) ⟨q, fu, d⟩ = .next ⟨q, fu, d4.hintAll c x os (gs.length - os.length)⟩) ∧
    (∀ c x, c < 4096 → Tab.has d.tack.pins c = false → d.canStart c 0x38 = true → d.runs pgTack = true → d.ctx? c = some x →
      d.hintArgs x = false → exec (.hint c) ⟨q, fu, d⟩ = .next ⟨q, fu, d.finishSt c .invalidCmd⟩) ∧
    (∀ o u c x r d1 d2 k t e, o < 2 ^ 25 → e = d.boundObj o 3 → c = e.loc / 2 ^ 48 → d.chan? c = some x →
      x.reads.find? (fun r => r.obj == o && r.ounit == u && r.decoded) = some r → d.enabled pgTack = true →
      d1 = d.setChan c { x with reads := x.reads.erase r } → e.primary = 3 → d.staged o u = false → d1.stagePlace = some (k, t) →
      d2 = { d1 with tack := { d1.tack with stage := Tab.set t k { obj := o, unit := u }, stageHand := k + 1,
                                            waits := d1.tack.waits.filter (fun w => !(w.obj == o && w.unit == u)) } } →
      exec (.stagingFill o u) ⟨q, fu, d⟩ = .next ⟨q, fu,
        ((d2.store (65536 * d2.fd R.stageBase 19 0 + 4096 * k) (d2.flashUnit c (e.loc % 2 ^ 48 + u))
          (d2.flashBad c (e.loc % 2 ^ 48 + u)).isSome).heatUp o).bump pgTack 0 10⟩) ∧
    (∀ o u c x r, o < 2 ^ 25 → c = (d.boundObj o 3).loc / 2 ^ 48 → d.chan? c = some x →
      x.reads.find? (fun r => r.obj == o && r.ounit == u && r.decoded) = some r → d.enabled pgTack = true →
      (d.boundObj o 3).primary = 3 → d.staged o u = false → (d.setChan c { x with reads := x.reads.erase r }).stagePlace = none →
      exec (.stagingFill o u) ⟨q, fu, d⟩ = .next ⟨q, fu, d.stageFull o u⟩) ∧
    (∀ i w, d.tack.waits[i]? = some w → w.late = false → w.since + usCycles (d.fd R.tackLate 15 0) < d.now →
      exec (.tierLate i) ⟨q, fu, d⟩ = .next ⟨q, fu,
        (({ d with tack := { d.tack with waits := d.tack.waits.set i { w with late := true } } } : Dev).stallReader w.who).bump pgTack 1 2⟩) ∧
    (d.runs pgTack = true → exec .nbrAdd ⟨q, fu, d⟩ = .next ⟨q, fu, d.nbrAddDo (d.fd R.nbrSel 5 0)⟩ ∧
      exec .nbrWithdraw ⟨q, fu, d⟩ = .next ⟨q, fu, d.nbrLose (d.fd R.nbrSel 5 0)⟩) ∧
    (d.runs pgTack = false → exec .nbrAdd ⟨q, fu, d⟩ = .next ⟨q, fu, d.tackAsk (.nbrAdd (d.fd R.nbrSel 5 0))⟩ ∧
      exec .nbrWithdraw ⟨q, fu, d⟩ = .next ⟨q, fu, d.tackAsk (.nbrWithdraw (d.fd R.nbrSel 5 0))⟩) ∧
    (∀ e x, e < 64 → Tab.find? d.tack.nbr e = some x → d.enabled pgTack = true → x.ackAt + msCycles d.nbrStopMs ≤ d.now →
      exec (.nbrStop e) ⟨q, fu, d⟩ = .next ⟨q, fu, d.nbrLose e⟩)

/-- LEASE_RENEW with good fields on a node that is not fenced sends its LEASE_REQ and waits; with bad fields it ends INVALID_CMD, on a
fenced node FENCED, and TIER_FAIL where the request cannot leave. LEASE_GNT answers the command it belongs to; that of an automatic
renewal renews the lease or loses it, that of an extent's renewal acknowledges the extent or loses it; with no request outstanding it is
counted. AUTO_RENEWAL that is due sends; LEASE_LOST after the term loses the lease; NBR_RENEW that is due sends. LEASE_REQ that passes its
judgement is served, and refused with code 7 where its fields are bad. LEASE_TERM_END marks a slot ended after its term, LEASE_RECLAIM
after the grace reclaims it. EXPORT_INVALIDATE reclaims an export's leases; WINDOW_ENABLE sets VALID or raises an error; SUSPECT_CLEAR
clears a suspect; RECLAIM_DONE ends a sweep. -/
def Obligations.Leases : Prop :=
  ∀ (q : List Instr) (fu : Fuses) (d : Dev),
    (∀ c x, c < 4096 → d.canStart c 0x49 = true → d.ctx? c = some x →
      (leaseArgsOk x d.node = false → exec (.leaseRenew c) ⟨q, fu, d⟩ = .next ⟨q, fu, d.finishSt c .invalidCmd⟩) ∧
      (leaseArgsOk x d.node = true → d.isFenced = true → exec (.leaseRenew c) ⟨q, fu, d⟩ = .next ⟨q, fu, d.finishSt c .fenced⟩) ∧
      (∀ d1 sent p, leaseArgsOk x d.node = true → d.isFenced = false → d.runs pgLat = true →
        (d.start c).sendLease (.lease c x.cinc) (x.n 34 2) x.mapGen x.fn (.command c x.cinc) (slice x.entry 32 32) = (d1, sent) →
        p = { op := x.n 32 1 % 4, auto := (x.n 32 1).testBit 2, node := x.n 34 2, handle := x.n 36 4, sent := d1.now } →
        exec (.leaseRenew c) ⟨q, fu, d⟩ =
          .next ⟨q, fu, if sent then { d1 with lat := { d1.lat with leaseCmds := Tab.set d1.lat.leaseCmds c p } } else d1.finishSt c .tierFail⟩)) ∧
    (∀ m st h t e d1 r, (d.took m).matchTag m = some (t, e) → e.msg = 0x48 → d1 = ((d.took m).freeTagEntry t).bump pgBuckle 1 1 →
      r = (if m.code = 0 then statusOf st else nackStatus m.code) →
      (∀ c k p, e.use = .lease c k → d1.isLive c k = true → Tab.find? d1.lat.leaseCmds c = some p →
        exec (.leaseGnt m st h) ⟨q, fu, d⟩ = .next ⟨q, fu, d1.leaseAnswer c p r h⟩) ∧
      (∀ n g, e.use = .renewal n g → exec (.leaseGnt m st h) ⟨q, fu, d⟩ =
        .next ⟨q, fu, if r = .ok then d1.renewed n g e.sent else (d1.bump pgLat 0 11).loseHandle n g⟩) ∧
      (∀ x, e.use = .nbrRenew x → exec (.leaseGnt m st h) ⟨q, fu, d⟩ =
        .next ⟨q, fu, if r = .ok then ({ d1 with tack := { d1.tack with nbr := Tab.upd? d1.tack.nbr x (fun (n : NbrExt) => { n with ackAt := d1.now, renewTag := none }) } } : Dev).renewed e.node h e.sent
          else (d1.bump pgLat 0 11).nbrLose x⟩)) ∧
    (∀ m st h, (d.took m).matchTag m = none → exec (.leaseGnt m st h) ⟨q, fu, d⟩ = .next ⟨q, fu, (d.took m).bump pgLat 0 6⟩) ∧
    (∀ n h b d1 d2 sent, d.borrowed? n h = some b → b.auto = true → b.lost = false → d.isFenced = false → d.runs pgLat = true →
      b.lastSent + msCycles d.renewMs ≤ d.now → d.sendLease (.renewal n h) n d.curGen b.fn .work (leaseBytes 1 1 (h % 256) n h) = (d1, sent) →
      d2 = d1.putBorrowed { b with lastSent := d1.now } →
      exec (.autoRenewal n h) ⟨q, fu, d⟩ = .next ⟨q, fu, if sent then d2 else d2.bump pgLat 0 11⟩) ∧
    (∀ n h b, d.borrowed? n h = some b → b.since + leaseTerm ≤ d.now → exec (.leaseLost n h) ⟨q, fu, d⟩ = .next ⟨q, fu, d.leaseLost b⟩) ∧
    (∀ e x d1 sent y d2, e < 64 → Tab.find? d.tack.nbr e = some x → x.st = .active → x.renewTag = none → d.runs pgTack = true → d.isFenced = false →
      x.renewAt + msCycles d.nbrRenewMs ≤ d.now →
      d.sendLease (.nbrRenew e) (fld (d.rgb R.nwinMap (x.base % 2 ^ 44 / 2 ^ 34)) 29 18) d.curGen 0 .work
        (leaseBytes 1 0 (x.lease % 256) (fld (d.rgb R.nwinMap (x.base % 2 ^ 44 / 2 ^ 34)) 29 18) x.lease) = (d1, sent) →
      y = { x with renewAt := d1.now, renewTag := if sent then some e else none } →
      d2 = { d1 with tack := { d1.tack with nbr := Tab.set d1.tack.nbr e y } } →
      exec (.nbrRenew e) ⟨q, fu, d⟩ = .next ⟨q, fu, if sent then d2 else d2.bump pgLat 0 11⟩) ∧
    (∀ m, d.runs pgLat = true →
      (m.data.length = 32 → leAt m.data 0 1 % 4 ≠ 3 → leAt m.data 0 1 < 16 → exec (.leaseReq m) ⟨q, fu, d⟩ =
        .next ⟨q, fu, d.judgeThen m (fun d => (d.leaseServe m).1.cmpReply m 0x68 0 (pay32 0x68 [(d.leaseServe m).2.1.code, (d.leaseServe m).2.2]))⟩) ∧
      (m.data.length ≠ 32 ∨ leAt m.data 0 1 % 4 = 3 ∨ 16 ≤ leAt m.data 0 1 →
        exec (.leaseReq m) ⟨q, fu, d⟩ = .next ⟨q, fu, d.judgeThen m (fun d => d.cmpReply m 0x68 7)⟩)) ∧
    (∀ e i x, e < 256 → i < 64 → Tab.find? d.lat.slots (64 * e + i) = some x →
      (x.since + leaseTerm ≤ d.now → exec (.leaseTermEnd e i) ⟨q, fu, d⟩ =
        .next ⟨q, fu, { d with lat := { d.lat with slots := Tab.set d.lat.slots (64 * e + i) { x with ended := true } } }⟩) ∧
      ((x.ended = true ∧ x.since + leaseTerm + leaseGrace ≤ d.now) ∨ (∃ t, x.graceEnd = some t ∧ t ≤ d.now) →
        exec (.leaseReclaim e i) ⟨q, fu, d⟩ = .next ⟨q, fu, d.reclaimSlot (64 * e + i)⟩)) ∧
    (∀ e d1, e < 256 → d.enabled pgLat = false → fbit (d.rgb R.latExpCtl e) 0 = true →
      d1 = d.setRgb R.latExpCtl e (putFld (d.rgb R.latExpCtl e) 0 0 0) → exec (.exportInvalidate e) ⟨q, fu, d⟩ =
        .next ⟨q, fu, ((Tab.keys d1.lat.slots).filter (fun k => k / 64 == e)).foldl (fun d k => d.reclaimSlot k) d1⟩) ∧
    (∀ w, w < 16 → d.enabled pgLat = false → exec (.windowEnable w) ⟨q, fu, d⟩ =
      .next ⟨q, fu, if 65536 * d.fd R.latDirLen 11 0 < fld (d.rgb R.latWinDir w) 27 0 + d.winLen w / 64 then d.setErr pgLat 1 (d.winBase w)
        else d.setRgb R.latWinCtl w (putFld (d.rgb R.latWinCtl w) 0 0 1)⟩) ∧
    (∀ n a, n < 4096 → a < 16 → exec (.suspectClear n a) ⟨q, fu, d⟩ =
      .next ⟨q, fu, { d with lat := { d.lat with suspects := delNat d.lat.suspects (n + 4096 * a) } }⟩) ∧
    (∀ d1 d2 out, d.runs pgLat = true → d.fd R.latCfg 7 7 ≠ 0 → d1 = d.listedEntries.foldl (fun d e => d.sweepEntry e) d →
      out = d1.lat.reclaim.filter (fun r => decide (r.entered < d1.lat.sweepFrom)) →
      d2 = { d1 with lat := { d1.lat with reclaim := d1.lat.reclaim.filter (fun r => !decide (r.entered < d1.lat.sweepFrom)), sweepFrom := d1.now } } →
      exec .reclaimDone ⟨q, fu, d⟩ = .next ⟨q, fu, (Dev.reclaimFill 32
        (out.foldl (fun d r => d.latEvent { node := r.node, typ := 4, info := r.handle }) d2)).bump pgLat 0 16⟩)

/-- REGION_PUBLISH with good fields on a node that is not fenced swaps the region at home and ends with the swap's status once no sharer
need be waited for, or sends a REGION_PUB to another home and waits; with bad fields it ends INVALID_CMD, on a fenced node FENCED, and
TIER_FAIL where the message cannot leave. REGION_PUB that fails its judgement is answered with a NACK; one that passes swaps for its
sender and answers once no sharer need be waited for. REGION_DONE ends the command it answers with its status and values, or with the
NACK's status. -/
def Obligations.Regions : Prop :=
  ∀ (q : List Instr) (fu : Fuses) (d : Dev),
    (∀ c x, c < 4096 → d.canStart c 0x40 = true → d.ctx? c = some x →
      (regionArgsOk x = false → exec (.regionPublish c) ⟨q, fu, d⟩ = .next ⟨q, fu, d.finishSt c .invalidCmd⟩) ∧
      (regionArgsOk x = true → d.isFenced = true → exec (.regionPublish c) ⟨q, fu, d⟩ = .next ⟨q, fu, d.finishSt c .fenced⟩) ∧
      (regionArgsOk x = true → d.isFenced = false → d.runs pgLat = true →
        (∀ d1 st s0 s1, x.n 32 2 = d.node → d.regionSwap d.node (regionPubOf x) = (d1, some (st, s0, s1)) →
          exec (.regionPublish c) ⟨q, fu, d⟩ = .next ⟨q, fu, d1.finish c { status := st, spec0 := s0, spec1 := s1 }⟩) ∧
        (∀ d1, x.n 32 2 = d.node → d.regionSwap d.node (regionPubOf x) = (d1, none) → exec (.regionPublish c) ⟨q, fu, d⟩ = .next ⟨q, fu, d1⟩) ∧
        (∀ d1 sent, x.n 32 2 ≠ d.node →
          (d.start c).sendReq (.region c x.cinc) ((d.start c).regionMsg x) { fn := x.fn, owner := .command c x.cinc } = (d1, sent) →
          exec (.regionPublish c) ⟨q, fu, d⟩ =
            .next ⟨q, fu, if sent then { d1 with lat := { d1.lat with regionCmds := insNat d1.lat.regionCmds c } } else d1.finishSt c .tierFail⟩))) ∧
    (∀ m region expect base len hold, d.runs pgLat = true →
      (∀ code a, d.judge m = some (code, a) → exec (.regionPub m region expect base len hold) ⟨q, fu, d⟩ = .next ⟨q, fu, d.judgeThen m id⟩) ∧
      (∀ p, d.judge m = none → p = { region := region, expect := expect, base := base, len := len, hold := hold } →
        (∀ d1, d.regionSwap m.src p = (d1, none) → exec (.regionPub m region expect base len hold) ⟨q, fu, d⟩ = .next ⟨q, fu, d1⟩) ∧
        (∀ d1 st s0 s1, d.regionSwap m.src p = (d1, some (st, s0, s1)) →
          exec (.regionPub m region expect base len hold) ⟨q, fu, d⟩ =
            .next ⟨q, fu, d1.judgeThen m (fun d => d.cmpReply m 0x69 0 (pay32 0x69 [st.code, s0, s1]))⟩))) ∧
    (∀ m st s0 s1 t e c k d1 d2, (d.took m).matchTag m = some (t, e) → e.msg = 0x49 → e.use = .region c k →
      d1 = ((d.took m).freeTagEntry t).bump pgBuckle 1 1 → d2 = { d1 with lat := { d1.lat with regionCmds := delNat d1.lat.regionCmds c } } →
      d2.isLive c k = true → exec (.regionDone m st s0 s1) ⟨q, fu, d⟩ =
        .next ⟨q, fu, if m.code = 0 then d2.finish c { status := statusOf st, spec0 := s0 % 2 ^ 32, spec1 := s1 % 2 ^ 32 }
          else d2.finishSt c (nackStatus m.code)⟩)

/-- IDLE_GATE_CLOSE gates the array clock of an engine idle long enough. GOVERNOR_ESTIMATE that is due moves the envelope up by at most
its step toward what waits for it where the rails allow, or down by at most its step, with filler for the difference. POWER_LIMIT_CHECK
over the limit demands the next lower point, within 5% below it holds, and 10 ms further below goes one point higher. CURRENT_READING over
the limit does so for its rail, within 5% below it holds, and both rails 10 ms further below go one point higher; a third reading without
an answer is an error. ADAPTIVE_VOLTAGE steps a rail by 5 mV within its bounds, or not at all. -/
def Obligations.PowerControl : Prop :=
  ∀ (q : List Instr) (fu : Fuses) (d : Dev), d.alive = true →
    (∀ e, e < d.part.engines → d.gateShut e (d.engine e) = true →
      exec (.idleGateClose e) ⟨q, fu, d⟩ = .next ⟨q, fu, d.updEngine e (fun x => { x with gated := true })⟩) ∧
    (∀ mw r0 r1 need, d.pwr.govAt + 800 ≤ d.now → need = mw + 23100 * (d.wakes.length + d.wakeWaits) →
      (∀ up env, d.pwr.env < need → up = min need (d.pwr.env + d.rampPerUs / 2) →
        env = (if d.raiseOk (fun i => if i = 0 then r0 else r1) (up - d.pwr.env) then up else d.pwr.env) →
        exec (.governorEstimate mw r0 r1) ⟨q, fu, d⟩ =
          .next ⟨q, fu, { d with pwr := { d.pwr with env := env, est := mw, filler := false, govAt := d.now } }⟩) ∧
      (∀ env d1, need ≤ d.pwr.env → env = max need (d.pwr.env - d.rampPerUs / 2) →
        d1 = { d with pwr := { d.pwr with env := env, est := mw, filler := decide (mw < env) && decide (need < d.pwr.env), govAt := d.now } } →
        exec (.governorEstimate mw r0 r1) ⟨q, fu, d⟩ =
          .next ⟨q, fu, if mw < env ∧ need < d.pwr.env then d1.bump pgPwr 0 8 (550 - 50 * d1.point) else d1⟩)) ∧
    (∀ w higher p d1 d2, d.pwr.limitAt + msCycles 1 ≤ d.now → p = d.point → d1 = (d.bump pgPwr 0 p).setFd R.pwrStat 27 16 (sat 12 w) →
      d2 = { d1 with pwr := { d1.pwr with limitAt := d1.now } } →
      (∀ d3, d2.limitW < w → d3 = d2.setInt pgPwr 3 →
        exec (.powerLimitCheck w higher) ⟨q, fu, d⟩ = .next ⟨q, fu,
          if p < 7 then (d3.bump pgPwr 0 12).demand (fun x => { x with ptPower := p + 1, lowPower := none })
          else { d3 with pwr := { d3.pwr with lowPower := none } }⟩) ∧
      (w ≤ d2.limitW → 95 * d2.limitW < 100 * w →
        exec (.powerLimitCheck w higher) ⟨q, fu, d⟩ = .next ⟨q, fu, { d2 with pwr := { d2.pwr with lowPower := none } }⟩) ∧
      (∀ s, w ≤ d2.limitW → 100 * w ≤ 95 * d2.limitW → s = d2.pwr.lowPower.getD d2.now →
        exec (.powerLimitCheck w higher) ⟨q, fu, d⟩ = .next ⟨q, fu,
          if s + msCycles 10 ≤ d2.now ∧ d2.pwr.ptPower ≠ 0 ∧ higher < d2.limitW then
            d2.demand (fun x => { x with ptPower := x.ptPower - 1, lowPower := some d2.now })
          else { d2 with pwr := { d2.pwr with lowPower := some s } }⟩)) ∧
    (∀ rail amps higher d1 d2, rail < 2 → Tab.getD d.pwr.readAt rail 0 + usCycles 10 ≤ d.now →
      d1 = { d with pwr := { d.pwr with readAt := Tab.set d.pwr.readAt rail d.now, avsMiss := Tab.del d.pwr.avsMiss rail } } →
      d2 = d1.setFd (R.pwrVdd rail) 26 16 (sat 11 amps) →
      (∀ d3, d2.limitA < amps → d3 = d2.setInt pgPwr 1 →
        exec (.currentReading rail (some amps) higher) ⟨q, fu, d⟩ = .next ⟨q, fu,
          if d1.point < 7 then (d3.bump pgPwr 0 11).demand (fun x => { x with ptCurrent := d1.point + 1, lowCurrent := [] })
          else { d3 with pwr := { d3.pwr with lowCurrent := [] } }⟩) ∧
      (amps ≤ d2.limitA → 95 * d2.limitA < 100 * amps →
        exec (.currentReading rail (some amps) higher) ⟨q, fu, d⟩ =
          .next ⟨q, fu, { d2 with pwr := { d2.pwr with lowCurrent := Tab.del d2.pwr.lowCurrent rail } }⟩) ∧
      (∀ low t0 t1, amps ≤ d2.limitA → 100 * amps ≤ 95 * d2.limitA → low = Tab.set d2.pwr.lowCurrent rail (Tab.getD d2.pwr.lowCurrent rail d2.now) →
        Tab.find? low 0 = some t0 → Tab.find? low 1 = some t1 →
        exec (.currentReading rail (some amps) higher) ⟨q, fu, d⟩ = .next ⟨q, fu,
          if t0 + msCycles 10 ≤ d2.now ∧ t1 + msCycles 10 ≤ d2.now ∧ d2.pwr.ptCurrent ≠ 0 ∧ higher < d2.limitA then
            d2.demand (fun x => { x with ptCurrent := x.ptCurrent - 1, lowCurrent := [(0, d2.now), (1, d2.now)] })
          else { d2 with pwr := { d2.pwr with lowCurrent := low } }⟩) ∧
      (∀ low i, amps ≤ d2.limitA → 100 * amps ≤ 95 * d2.limitA → low = Tab.set d2.pwr.lowCurrent rail (Tab.getD d2.pwr.lowCurrent rail d2.now) →
        i < 2 → Tab.find? low i = none → exec (.currentReading rail (some amps) higher) ⟨q, fu, d⟩ =
          .next ⟨q, fu, { d2 with pwr := { d2.pwr with lowCurrent := low } }⟩)) ∧
    (∀ rail higher n d1, rail < 2 → Tab.getD d.pwr.readAt rail 0 + usCycles 10 ≤ d.now → n = Tab.getD d.pwr.avsMiss rail 0 + 1 →
      d1 = { d with pwr := { d.pwr with readAt := Tab.set d.pwr.readAt rail d.now, avsMiss := Tab.set d.pwr.avsMiss rail n } } →
      exec (.currentReading rail none higher) ⟨q, fu, d⟩ =
        .next ⟨q, fu, if n = 3 then (d1.setErr pgPwr 0 0).demand (fun x => { x with avsDead := true }) else d1⟩) ∧
    (∀ die mv d1, die < 2 → d.pwr.avsDead = false → Tab.getD d.pwr.adaptAt die 0 + usCycles 100 ≤ d.now →
      d1 = { d with pwr := { d.pwr with adaptAt := Tab.set d.pwr.adaptAt die d.now } } → mv = d1.fd (R.pwrVdd die) 9 0 →
      exec (.adaptiveVoltage die none) ⟨q, fu, d⟩ = .next ⟨q, fu, d1⟩ ∧
      exec (.adaptiveVoltage die (some false)) ⟨q, fu, d⟩ = .next ⟨q, fu, if 605 ≤ mv then d1.setFd (R.pwrVdd die) 9 0 (mv - 5) else d1⟩ ∧
      exec (.adaptiveVoltage die (some true)) ⟨q, fu, d⟩ =
        .next ⟨q, fu, if mv + 5 ≤ 800 ∧ d1.fd (R.pwrVdd die) 26 16 + 20 ≤ d1.limitA then d1.setFd (R.pwrVdd die) 9 0 (mv + 5) else d1⟩)

/-- PWR_FAIL_N_FALL of a microsecond or more starts the flush, a shorter one is counted. FLUSH_DONE stops the device with its record
written, or missing where a die in use does not answer, its flash pins idle and HOLDUP_DONE high. RESET_N_FALL longer than 1 us sheds
load. SHED_COMPLETE after 100 us puts the stacks into self-refresh. REFCLK_LOSS is fatal, HIDE_PLL_LOSS takes a stack down, FCLK_PLL_LOSS
a group of channels; FREF_LOSS takes the ports down and FREF_RESTORED trains them. THERMAL_READ that is due stores the reading of each
sensor. -/
def Obligations.PowerEvents : Prop :=
  ∀ (q : List Instr) (fu : Fuses) (d : Dev), d.pwr.stopped = false →
    (∀ ns, d.pins.resetN = true → d.flushing = false → d.pins.holdupDone = false →
      (ns < 1000 → exec (.pwrFailNFall ns) ⟨q, fu, d⟩ = .next ⟨q, fu, d.bump pgHoldup 0 6⟩) ∧
      (1000 ≤ ns → exec (.pwrFailNFall ns) ⟨q, fu, d⟩ =
        .next ⟨q, fu, ({ d with pins := { d.pins with pwrFailN := false } } : Dev).flushStart (d.now - usCycles 1)⟩)) ∧
    (d.flushing = true → ∃ e : Dev, exec .flushDone ⟨q, fu, d⟩ = .next ⟨q, fu, e⟩ ∧ e.pins.holdupDone = true ∧ e.pwr.stopped = true ∧
      e.pins.flWpN = false ∧ e.pins.flCe = false ∧ e.flash.record = some (ceilDiv (d.now - d.flash.flushFrom) 1600, d.flash.flushDebt) ∧
      (∀ c x die, (c, x) ∈ d.flash.ch → die < x.dies → die ∈ d.muteDies c → e.flash.recordMissing = true)) ∧
    (∀ ns, d.pins.resetN = true → 1000 < ns →
      exec (.resetNFall ns) ⟨q, fu, d⟩ = .next ⟨q, fu, ({ d with pins := { d.pins with resetN := false } } : Dev).shedStart⟩) ∧
    (∀ t, d.pwr.shedAt = some t → d.pwr.shed = false → t + usCycles 100 ≤ d.now → ∃ e : Dev, exec .shedComplete ⟨q, fu, d⟩ = .next ⟨q, fu, e⟩ ∧
      e.pwr.shed = true ∧ e.pwr.env = 0 ∧ e.pwr.stopped = !d.pins.resetN ∧ ∀ n, n < 16 → (e.stack n).selfRefresh = true) ∧
    (∀ w d0 d1, w < 6 → d0 = (if w = 0 then (d.setInt pgClk 1).bump pgClk 0 1 else (d.setInt pgClk 0).bump pgClk 0 0) →
      d1 = ((d0.errBit pgClk 0 0).fatal pgClk 0 0).shedStart → exec (.refclkLoss w) ⟨q, fu, d⟩ =
        .next ⟨q, fu, { d1 with pwr := { d1.pwr with stopped := true, lost := d1.pwr.lost ||| 2 ^ (if w = 0 then 8 else w - 1) } }⟩) ∧
    (∀ n, n < 16 → exec (.hidePllLoss n) ⟨q, fu, d⟩ = .next ⟨q, fu, d.pllLost.stackDown n⟩) ∧
    (∀ g d1, 8 * g < d.part.channels → d1 = (List.range 8).foldl (fun d i => d.channelOut (8 * g + i) 3) d.pllLost →
      exec (.fclkPllLoss g) ⟨q, fu, d⟩ = .next ⟨q, fu, { d1 with pwr := { d1.pwr with lost := d1.pwr.lost ||| 2 ^ 5 } }⟩) ∧
    (∀ d1 d2, d.pwr.frefGone = false → d1 = ((d.setInt pgClk 1).bump pgClk 0 1).rasEvent 4 1 pgClk 0 →
      d2 = { d1 with pwr := { d1.pwr with frefGone := true } } →
      exec .frefLoss ⟨q, fu, d⟩ = .next ⟨q, fu, linkChangeOp false fu (d2.portsDown (List.range 32))⟩) ∧
    (d.pwr.frefGone = true → exec .frefRestored ⟨q, fu, d⟩ =
      .next ⟨q, fu, ({ d with pwr := { d.pwr with frefGone := false } } : Dev).portsTrain (List.range 32)⟩) ∧
    (∀ temps d1 t peak put, d.pins.resetN = true → temps.length = 60 → d.pwr.thermAt + usCycles 100 ≤ d.now →
      t = (fun i => s16get (s16put (temps.getD i 0))) →
      put = (List.range 60).foldl (fun (k : Tab Nat) i => Tab.set k i (s16put (t i))) d.pwr.temps →
      peak = (List.range 60).foldl (fun (k : Tab Nat) i => if s16get (Tab.getD k i (s16put (t i))) ≤ t i then Tab.set k i (s16put (t i)) else k) d.pwr.peak →
      d1 = { d with pwr := { d.pwr with temps := put, peak := peak, thermAt := d.now } } →
      exec (.thermalRead temps) ⟨q, fu, d⟩ = .next ⟨q, fu, d1.thermActs d.temp t⟩)

/-- In a working package: an RD_REQ, WR_REQ or NC_REDUCE that is not admitted, of bad form or refused is answered so; one that is admitted
is served and answered at once where its lines are ready, and is kept until they are where they are not; an RD_REQ through the neighbour
window is answered with what the other node gives. SVC_REQ of services 1 to 5 is acknowledged, of another refused with code 8, of bad form
with code 7; with LATIGO_HOME running, RD_SHARED, RD_OWN, UPGRADE and WB of a core of this node are its core's own request or eviction and
those of other nodes are judged and served; SNP_SHARE and SNP_INV reach the core they name, or every core; RSP_I, RSP_S, RSP_DATA_I and
RSP_DATA_S that a transaction waits for are taken by it (one with a shared copy only for a shared or uncached read), and are counted where
none does; SNOOP_TIMEOUT makes the agent SUSPECT and poisons a line it owned. Latigo messages of bad form are discarded. -/
def Obligations.RequestsAreServed : Prop :=
  ∀ (q : List Instr) (fu : Fuses) (d : Dev) (m : Msg), d.alive = true →
    (∀ d1 fmt mode, d.lat.held.contains m = false → d1 = (d.took m).bump pgBuckle 1 2 →
      (∀ code a, d1.judge m = some (code, a) →
        exec (.rdReq m) ⟨q, fu, d⟩ = .next ⟨q, fu, (d1.judged m code).nack m code a⟩ ∧
        exec (.wrReq m) ⟨q, fu, d⟩ = .next ⟨q, fu, (d1.judged m code).nack m code a⟩ ∧
        exec (.svcReq m) ⟨q, fu, d⟩ = .next ⟨q, fu, (d1.judged m code).nack m code a⟩ ∧
        (d.runs pgLat = true → exec (.ncReduce m fmt mode) ⟨q, fu, d⟩ = .next ⟨q, fu, (d1.judged m code).nack m code a⟩)) ∧
      (d1.judge m = none →
        (reqForm m = false → exec (.rdReq m) ⟨q, fu, d⟩ = .next ⟨q, fu, d1.nack m 7⟩ ∧ exec (.wrReq m) ⟨q, fu, d⟩ = .next ⟨q, fu, d1.nack m 7⟩) ∧
        (d.runs pgLat = true → latForm m 64 = false ∨ m.code ≠ 0 ∨ (fmt ≠ 8 ∧ fmt ≠ 9) ∨ 2 < mode →
          exec (.ncReduce m fmt mode) ⟨q, fu, d⟩ = .next ⟨q, fu, d1.latBad m⟩) ∧
        (∀ code d2, d1.refusal m = some (code, d2) →
          (reqForm m = true → exec (.rdReq m) ⟨q, fu, d⟩ = .next ⟨q, fu, d2.nack m code⟩ ∧ exec (.wrReq m) ⟨q, fu, d⟩ = .next ⟨q, fu, d2.nack m code⟩) ∧
          (d.runs pgLat = true → latForm m 64 = true → m.code = 0 → fmt = 8 ∨ fmt = 9 → mode ≤ 2 →
            exec (.ncReduce m fmt mode) ⟨q, fu, d⟩ = .next ⟨q, fu, d2.latReply m 0x65 code⟩)))) ∧
    (∀ d1 ls, d1 = (if d.lat.held.contains m then d else (d.took m).bump pgBuckle 1 2) →
      ls = (if m.len < 64 then [(m.addr, m.len)] else cutAt 64 65 m.addr m.len) →
      d.lat.held.contains m = true ∨ (d1.judge m = none ∧ reqForm m = true ∧ d1.refusal m = none) →
      (∀ d2 ok, (∀ g, d1.place respPort m.addr ≠ .far g) → d1.allReady respPort false ls = (d2, ok) →
        exec (.rdReq m) ⟨q, fu, d⟩ = .next ⟨q, fu,
          if ok then ({ d2 with lat := { d2.lat with held := d2.lat.held.erase m } } : Dev).rdAnswer fu m
          else if d1.lat.held.contains m then d2 else { d2 with lat := { d2.lat with held := d2.lat.held ++ [m] } }⟩) ∧
      (∀ g, d1.place respPort m.addr = .far g →
        (∀ d2, d1.remoteRead (forwardReader m) g m.len 7 = (d2, .wait) → exec (.rdReq m) ⟨q, fu, d⟩ = .next ⟨q, fu,
          if d2.lat.held.contains m then d2 else { d2 with lat := { d2.lat with held := d2.lat.held ++ [m] } }⟩) ∧
        (∀ d2 d3 b bad, d1.remoteRead (forwardReader m) g m.len 7 = (d2, .ready b bad) →
          d3 = { d2 with fab := { d2.fab with bufs := Tab.del d2.fab.bufs (forwardReader m) }, lat := { d2.lat with held := d2.lat.held.erase m } } →
          exec (.rdReq m) ⟨q, fu, d⟩ = .next ⟨q, fu, d3.reply m 0x81 0 (if bad.isSome then 2 ^ ceilDiv m.len 64 - 1 else 0) b⟩) ∧
        (∀ d2 d3 st, d1.remoteRead (forwardReader m) g m.len 7 = (d2, .fail st) →
          d3 = { d2 with fab := { d2.fab with bufs := Tab.del d2.fab.bufs (forwardReader m) }, lat := { d2.lat with held := d2.lat.held.erase m } } →
          exec (.rdReq m) ⟨q, fu, d⟩ = .next ⟨q, fu, d3.reply m 0x81 0 (2 ^ ceilDiv m.len 64 - 1) (List.replicate m.len 0)⟩)) ∧
      (d1.wrBehind m = true → exec (.wrReq m) ⟨q, fu, d⟩ = .next ⟨q, fu,
        if d1.lat.held.contains m then d1 else { d1 with lat := { d1.lat with held := d1.lat.held ++ [m] } }⟩) ∧
      (∀ d2 ok, d1.wrBehind m = false → d1.allReady respPort true ls = (d2, ok) → exec (.wrReq m) ⟨q, fu, d⟩ = .next ⟨q, fu,
        if ok then ({ d2 with lat := { d2.lat with held := d2.lat.held.erase m } } : Dev).wrAnswer fu m
        else if d1.lat.held.contains m then d2 else { d2 with lat := { d2.lat with held := d2.lat.held ++ [m] } }⟩)) ∧
    (∀ d1 d2 fmt mode ok, d.runs pgLat = true → d1 = (if d.lat.held.contains m then d else (d.took m).bump pgBuckle 1 2) →
      d.lat.held.contains m = true ∨
        (d1.judge m = none ∧ latForm m 64 = true ∧ m.code = 0 ∧ (fmt = 8 ∨ fmt = 9) ∧ mode ≤ 2 ∧ d1.refusal m = none) →
      d1.allReady respPort true [(m.addr, 64)] = (d2, ok) → exec (.ncReduce m fmt mode) ⟨q, fu, d⟩ = .next ⟨q, fu,
        if ok then ({ d2 with lat := { d2.lat with held := d2.lat.held.erase m } } : Dev).reduceServe fu m fmt mode
        else if d1.lat.held.contains m then d2 else { d2 with lat := { d2.lat with held := d2.lat.held ++ [m] } }⟩) ∧
    (∀ d1, d1 = (d.took m).bump pgBuckle 1 2 → d1.judge m = none →
      (m.code = 0 → m.vc = 4 → m.data.length = m.len → exec (.svcReq m) ⟨q, fu, d⟩ =
        .next ⟨q, fu, if 1 ≤ m.aux % 256 ∧ m.aux % 256 ≤ 5 then d1.reply m 0x83 0 else d1.nack m 8⟩) ∧
      (m.code ≠ 0 ∨ m.vc ≠ 4 ∨ m.data.length ≠ m.len → exec (.svcReq m) ⟨q, fu, d⟩ = .next ⟨q, fu, d1.nack m 7⟩)) ∧
    (d.runs pgLat = true → m.src ≠ d.node →
      exec (.rdShared m) ⟨q, fu, d⟩ = .next ⟨q, fu, d.judgeThen m (fun d => d.latServe .rdShared m)⟩ ∧
      exec (.rdOwn m) ⟨q, fu, d⟩ = .next ⟨q, fu, d.judgeThen m (fun d => d.latServe .rdOwn m)⟩ ∧
      exec (.upgrade m) ⟨q, fu, d⟩ = .next ⟨q, fu, d.judgeThen m (fun d => d.latServe .upgrade m)⟩ ∧
      exec (.wb m) ⟨q, fu, d⟩ = .next ⟨q, fu, d.judgeThen m (fun d => d.latServe .wb m)⟩) ∧
    (∀ g, d.runs pgLat = true → m.src = d.node → g = m.dst % 4096 * 2 ^ 52 + m.addr % 2 ^ 52 / 64 * 64 →
      exec (.rdShared m) ⟨q, fu, d⟩ = .next ⟨q, fu, (d.coreAsk (m.aux % 16) g false).1⟩ ∧
      exec (.rdOwn m) ⟨q, fu, d⟩ = .next ⟨q, fu, (d.coreAsk (m.aux % 16) g true).1⟩ ∧
      exec (.upgrade m) ⟨q, fu, d⟩ = .next ⟨q, fu, (d.coreAsk (m.aux % 16) g true).1⟩ ∧
      exec (.wb m) ⟨q, fu, d⟩ = .next ⟨q, fu, d.coreEvict (m.aux % 16) g⟩) ∧
    (∀ cs, latForm m 0 = true → cs = (if (m.aux / 512).testBit 0 then List.range 16 else [m.aux / 16 % 16]) →
      exec (.snpShare m) ⟨q, fu, d⟩ = .next ⟨q, fu, cs.foldl (fun d c => d.coreAnswers m false c) (d.took m)⟩ ∧
      exec (.snpInv m) ⟨q, fu, d⟩ = .next ⟨q, fu, cs.foldl (fun d c => d.coreAnswers m true c) (d.took m)⟩) ∧
    (latForm m 0 = false → exec (.snpShare m) ⟨q, fu, d⟩ = .next ⟨q, fu, (d.took m).latBad m⟩ ∧
      exec (.snpInv m) ⟨q, fu, d⟩ = .next ⟨q, fu, (d.took m).latBad m⟩ ∧ exec (.rspI m) ⟨q, fu, d⟩ = .next ⟨q, fu, (d.took m).latBad m⟩ ∧
      exec (.rspS m) ⟨q, fu, d⟩ = .next ⟨q, fu, (d.took m).latBad m⟩) ∧
    (latForm m 64 = false → exec (.rspDataI m) ⟨q, fu, d⟩ = .next ⟨q, fu, (d.took m).latBad m⟩ ∧
      exec (.rspDataS m) ⟨q, fu, d⟩ = .next ⟨q, fu, (d.took m).latBad m⟩) ∧
    (((Tab.find? (d.took m).lat.busy (m.addr % 2 ^ 52 / 64)).map (fun t => Tab.has t.waiting (srcAgent m))).getD false = false →
      (latForm m 0 = true → exec (.rspI m) ⟨q, fu, d⟩ = .next ⟨q, fu, (d.took m).bump pgLat 0 6⟩ ∧
        exec (.rspS m) ⟨q, fu, d⟩ = .next ⟨q, fu, (d.took m).bump pgLat 0 6⟩) ∧
      (latForm m 64 = true → exec (.rspDataI m) ⟨q, fu, d⟩ = .next ⟨q, fu, (d.took m).bump pgLat 0 6⟩ ∧
        exec (.rspDataS m) ⟨q, fu, d⟩ = .next ⟨q, fu, (d.took m).bump pgLat 0 6⟩)) ∧
    (∀ l t p, l = m.addr % 2 ^ 52 / 64 → Tab.find? (d.took m).lat.busy l = some t → Tab.has t.waiting (srcAgent m) = true →
      p = (m.aux / 256).testBit 0 →
      (latForm m 0 = true → exec (.rspI m) ⟨q, fu, d⟩ = .next ⟨q, fu, (d.took m).homeTakes l (srcAgent m) 0x58 m.data p⟩) ∧
      (latForm m 0 = true → t.req = .rdShared ∨ t.req = .ncRead →
        exec (.rspS m) ⟨q, fu, d⟩ = .next ⟨q, fu, (d.took m).homeTakes l (srcAgent m) 0x59 m.data p⟩) ∧
      (latForm m 64 = true → exec (.rspDataI m) ⟨q, fu, d⟩ = .next ⟨q, fu, (d.took m).homeTakes l (srcAgent m) 0x5A m.data p⟩) ∧
      (latForm m 64 = true → t.req = .rdShared ∨ t.req = .ncRead →
        exec (.rspDataS m) ⟨q, fu, d⟩ = .next ⟨q, fu, (d.took m).homeTakes l (srcAgent m) 0x5B m.data p⟩)) ∧
    (∀ l a t w d0 d1, Tab.find? d.lat.busy l = some t → Tab.find? t.waiting a = some w → w ≤ d.now →
      d0 = (if ((d.winAt (64 * l)).map (fun w => decide ((dirOf (d.peek (d.dirAddr w (64 * l)) 16)).st = 2))).getD false then d.poisonMem l else d) →
      d1 = { d0 with lat := { d0.lat with suspects := insNat d0.lat.suspects a } } →
      exec (.snoopTimeout l a) ⟨q, fu, d⟩ = .next ⟨q, fu, ((d1.bump pgLat 0 4).latEvent
        { node := a % 4096, agent := a / 4096, typ := 1, info := l % 2 ^ 32 }).takeAnswer l a false none⟩)

/-- A response that matches an outstanding request frees its tag entry and is counted, and: RD_RSP hands the bytes of a command's, a
master's, a recovery's or a Saddlebag fill's read over; WR_RSP answers a command's write, goes on to the node a write was forwarded for,
or counts for its migration; SVC_ACK ends there; GNT_S, GNT_E, GNT_E without data, GNT_UNTRACKED and CMP_WB leave the core its line as
granted (none after CMP_WB); CMP_REDUCE lets its mover go on; NACK, and any of these with a code other than 0, fails the request with its
code. TRANSPORT_TIMEOUT fails a request 50 us after it was sent. One that matches none is counted. -/
def Obligations.ResponsesAreTaken : Prop :=
  ∀ (q : List Instr) (fu : Fuses) (d d1 : Dev) (m : Msg) (t : Nat) (e : TagEntry), (d.took m).matchTag m = some (t, e) →
    d1 = ((d.took m).freeTagEntry t).bump pgBuckle 1 1 →
    exec (.nack m) ⟨q, fu, d⟩ = .next ⟨q, fu, ((d1.bump pgBuckle 1 4).reqFailed fu e (some m.code)).fencedBy m.code m.addr⟩ ∧
    (m.code = 0 → e.msg = 1 → (∀ i c a n, e.use = .cmdRead i c a n → exec (.rdRsp m) ⟨q, fu, d⟩ = .next ⟨q, fu, d1.linesIn i c a n m⟩) ∧
      (∀ i a n, e.use = .masterRead i a n → exec (.rdRsp m) ⟨q, fu, d⟩ = .next ⟨q, fu, d1.masterData e m i a n⟩) ∧
      (∀ i s, e.use = .saddle i s → exec (.rdRsp m) ⟨q, fu, d⟩ = .next ⟨q, fu, d1.fillData i s m⟩) ∧
      (∀ o, e.use = .recovery o → exec (.rdRsp m) ⟨q, fu, d⟩ = .next ⟨q, fu, d1.recoveryData fu o (if m.addr = 0 then some m.data else none)⟩)) ∧
    (m.code = 0 → e.msg = 2 →
      (∀ c k b, e.use = .cmdWrite c k b → exec (.wrRsp m) ⟨q, fu, d⟩ = .next ⟨q, fu, d1.writeAnswer c k b .ok⟩) ∧
      (∀ n g k, e.use = .forward n g k →
        exec (.wrRsp m) ⟨q, fu, d⟩ = .next ⟨q, fu, d1.reply { src := n, dst := d1.node, tag := g, mapGen := k } 0x82 0⟩) ∧
      (∀ o i, e.use = .migWrite o i → exec (.wrRsp m) ⟨q, fu, d⟩ = .next ⟨q, fu, d1.migWritten o i true⟩)) ∧
    (m.code ≠ 0 →
      (e.msg = 1 → exec (.rdRsp m) ⟨q, fu, d⟩ = .next ⟨q, fu, d1.reqFailed fu e (some m.code)⟩) ∧
      (e.msg = 2 → exec (.wrRsp m) ⟨q, fu, d⟩ = .next ⟨q, fu, d1.reqFailed fu e (some m.code)⟩) ∧
      (e.msg = 3 → exec (.svcAck m) ⟨q, fu, d⟩ = .next ⟨q, fu, d1.reqFailed fu e (some m.code)⟩) ∧
      (e.msg = 0x40 → exec (.gntS m) ⟨q, fu, d⟩ = .next ⟨q, fu, d1.reqFailed fu e (some m.code)⟩) ∧
      (e.msg = 0x41 → exec (.gntE m) ⟨q, fu, d⟩ = .next ⟨q, fu, d1.reqFailed fu e (some m.code)⟩) ∧
      (e.msg = 0x43 → exec (.cmpWb m) ⟨q, fu, d⟩ = .next ⟨q, fu, d1.reqFailed fu e (some m.code)⟩) ∧
      (e.msg = 0x44 → exec (.cmpReduce m) ⟨q, fu, d⟩ = .next ⟨q, fu, d1.reqFailed fu e (some m.code)⟩)) ∧
    (m.code = 0 → e.msg = 3 → exec (.svcAck m) ⟨q, fu, d⟩ = .next ⟨q, fu, d1⟩) ∧
    (∀ c g d2, m.code = 0 → e.use = .agent c g → d2 = { d1 with lat := { d1.lat with asking := delNat d1.lat.asking (d1.lineKey g c) } } →
      (latForm m 64 = true → e.msg = 0x40 → exec (.gntS m) ⟨q, fu, d⟩ = .next ⟨q, fu, d2.setCoreLine c g
        { exclusive := false, data := m.data, poison := (m.aux / 256).testBit 0, untracked := false }⟩) ∧
      (latForm m 64 = true → e.msg = 0x40 ∨ e.msg = 0x41 ∨ e.msg = 0x42 → exec (.gntE m) ⟨q, fu, d⟩ = .next ⟨q, fu, d2.setCoreLine c g
        { exclusive := true, data := m.data, poison := (m.aux / 256).testBit 0, untracked := false }⟩) ∧
      (latForm m 64 = true → e.msg = 0x40 ∨ e.msg = 0x41 ∨ e.msg = 0x42 → exec (.gntUntracked m) ⟨q, fu, d⟩ = .next ⟨q, fu, d2.setCoreLine c g
        { exclusive := true, data := m.data, poison := (m.aux / 256).testBit 0, untracked := true }⟩) ∧
      (∀ y, latForm m 0 = true → e.msg = 0x42 → d2.coreLine? c g = some y →
        exec (.gntENodata m) ⟨q, fu, d⟩ = .next ⟨q, fu, d2.setCoreLine c g { y with exclusive := true }⟩) ∧
      (latForm m 0 = true → e.msg = 0x43 → exec (.cmpWb m) ⟨q, fu, d⟩ = .next ⟨q, fu, d2.dropCoreLine c g⟩)) ∧
    (∀ c k a, m.code = 0 → latForm m 0 = true → e.msg = 0x44 → e.use = .reduce c k a → d1.isLive c k = true →
      exec (.cmpReduce m) ⟨q, fu, d⟩ = .next ⟨q, fu, d1.moverAnswer c .ok⟩) ∧
    (∀ t e, t < 8192 → Tab.find? d.fab.tp.tags t = some e → e.sent + usCycles 50 ≤ d.now → d.unsent t e = false → d.alive = true →
      exec (.transportTimeout t) ⟨q, fu, d⟩ = .next ⟨q, fu, ((d.freeTagEntry t).bump pgBuckle 1 5).reqFailed fu e none⟩) ∧
    (∀ n, (d.took n).matchTag n = none → exec (.nack n) ⟨q, fu, d⟩ = .next ⟨q, fu, (d.took n).bump pgBuckle 1 6⟩)

/-- With BUCKLE_0 running: MAP_INSTALL of an image that passes takes it, one that fails reports its RESULT; MAP_RETIRE_OLD and, when due,
MAP_FORCED_RETIRE force the old generation out. SELFTEST_START of a node that is not admitted starts the test; SELFTEST_DONE reads what it
tests and reports PASS. Membership messages: one of the fabric manager is heard; HEARTBEAT does no more; MEMBER_FENCE fences the node it
names, this one where its epoch is later; MAP_NOTICE sets an interrupt, both only from the fabric manager where there is one; JOIN_READY
is recorded when the join is on; one of a reserved type is counted. HEARTBEAT_TIMER sends when due; FM_SILENT fences the node. ADMIT that
passes its checks begins, one that fails them ends with its status, and one that runs takes its step: copying, publishing, replaying, its
message, its wait for the seal, its end. -/
def Obligations.Composition : Prop :=
  ∀ (q : List Instr) (fu : Fuses) (d : Dev),
    (∀ d1 img d2, d.runs pgBuckle = true → d1 = d.mapSettle →
      d2 = (if d1.nodeValid && decide (d1.mapAt + (d1.rg R.mapLen).toNat ≤ 2 ^ 36) then
        d1.touch d1.mapAt (min (min (d1.rg R.mapLen).toNat (2 ^ 36)) (max 64 (d1.peekN (d1.mapAt + 12) 4))) else d1) →
      img = d1.peek d1.mapAt (min (min (d1.rg R.mapLen).toNat (2 ^ 36)) (max 64 (d1.peekN (d1.mapAt + 12) 4))) →
      exec .mapInstall ⟨q, fu, d⟩ = .next ⟨q, fu, if d1.mapResult img = 0 then (d2.mapTake img).mapDone 0 else d2.mapDone (d1.mapResult img)⟩) ∧
    (d.runs pgBuckle = true → exec .mapRetireOld ⟨q, fu, d⟩ = .next ⟨q, fu, d.mapForce.mapDone 0⟩) ∧
    (∀ g, d.cmp.old = some g → g.since + msCycles (max (d.fd R.cmpCfg 31 16) 1) ≤ d.now →
      exec .mapForcedRetire ⟨q, fu, d⟩ = .next ⟨q, fu, d.mapForce⟩) ∧
    (d.cmp.st ≠ .admitted → d.cmp.testRunning = false → d.runs pgBuckle = true → exec .selftestStart ⟨q, fu, d⟩ =
      .next ⟨q, fu, ({ d with cmp := { d.cmp with testRunning := true } } : Dev).setRg R.cmpSelftest 0⟩) ∧
    (∀ found pass d1 d2 d3, d.cmp.testRunning = true → pass = found % 4 + d.testPass →
      d1 = (d.errLines (fun r => nearRegion r || hideRegion r)).foldl (fun d l => d.touchLine l) d →
      d2 = ((List.range 16).filter (fun n => !d1.stackOut n)).foldl (fun (d : Dev) n => d.bump (0xC0 + n) 0 0 (2 ^ 36)) d1 →
      d3 = (List.range 2).foldl (fun (d : Dev) h => (d.bump (0xC + h) 0 0 (2 ^ 35)).bump (0xC + h) 0 4
        (2 ^ 29 - (d.mem.valid.filter (fun l => l / 2 ^ 29 == h)).length)) d2 →
      exec (.selftestDone found) ⟨q, fu, d⟩ = .next ⟨q, fu, ({ d3 with cmp :=
        { d3.cmp with testRunning := false, testOk := d3.cmp.testOk || decide (pass = 63) } } : Dev).setRg R.cmpSelftest (w32 (2 * pass + 128))⟩) ∧
    (∀ m d1 d2, m.msg = 0x10 → d.nodeValid = true → m.dst = d.node → d1 = d.took m →
      d2 = (if d1.fmNode = some m.src then { d1 with cmp := { d1.cmp with lastFm := d1.now } } else d1) →
      (leAt m.data 0 1 = 0 ∨ 4 < leAt m.data 0 1 →
        exec (.heartbeat m) ⟨q, fu, d⟩ = .next ⟨q, fu, d2.bump pgBuckle 2 9⟩ ∧ exec (.memberFence m) ⟨q, fu, d⟩ = .next ⟨q, fu, d2.bump pgBuckle 2 9⟩ ∧
        exec (.mapNotice m) ⟨q, fu, d⟩ = .next ⟨q, fu, d2.bump pgBuckle 2 9⟩ ∧ exec (.joinReady m) ⟨q, fu, d⟩ = .next ⟨q, fu, d2.bump pgBuckle 2 9⟩) ∧
      (leAt m.data 0 1 = 1 → exec (.heartbeat m) ⟨q, fu, d⟩ = .next ⟨q, fu, d2⟩) ∧
      (∀ n f, leAt m.data 0 1 = 2 → d2.fmNode = none ∨ d2.fmNode = some m.src → n = leAt m.data 4 4 % 4096 → f = leAt m.data 8 4 →
        exec (.memberFence m) ⟨q, fu, d⟩ =
          .next ⟨q, fu, if n = d2.node then (if serialAfter 32 f d2.ownFence then d2.fenceSelf else d2) else d2.fenceOther n f⟩) ∧
      (leAt m.data 0 1 = 3 → d2.fmNode = none ∨ d2.fmNode = some m.src → exec (.mapNotice m) ⟨q, fu, d⟩ = .next ⟨q, fu, d2.setInt pgBuckle 5⟩) ∧
      (d2.fmNode ≠ none → d2.fmNode ≠ some m.src →
        (leAt m.data 0 1 = 2 → exec (.memberFence m) ⟨q, fu, d⟩ = .next ⟨q, fu, d2.bump pgBuckle 2 9⟩) ∧
        (leAt m.data 0 1 = 3 → exec (.mapNotice m) ⟨q, fu, d⟩ = .next ⟨q, fu, d2.bump pgBuckle 2 9⟩)) ∧
      (∀ j l, leAt m.data 0 1 = 4 → j = { coll := leAt m.data 16 4 % 4096, node := m.src } →
        l = d2.cmp.joins.filter (fun x => !(x.coll == j.coll && x.node == j.node)) ++ [j] →
        exec (.joinReady m) ⟨q, fu, d⟩ = .next ⟨q, fu, if d2.joinOn j then { d2 with cmp := { d2.cmp with joins := l } } else d2⟩)) ∧
    (∀ m, m.msg = 0x10 → d.nodeValid = false ∨ m.dst ≠ d.node →
      (leAt m.data 0 1 = 1 → exec (.heartbeat m) ⟨q, fu, d⟩ = .next ⟨q, fu, d.took m⟩) ∧
      (leAt m.data 0 1 = 2 → exec (.memberFence m) ⟨q, fu, d⟩ = .next ⟨q, fu, d.took m⟩) ∧
      (leAt m.data 0 1 = 3 → exec (.mapNotice m) ⟨q, fu, d⟩ = .next ⟨q, fu, d.took m⟩) ∧
      (leAt m.data 0 1 = 4 → exec (.joinReady m) ⟨q, fu, d⟩ = .next ⟨q, fu, d.took m⟩)) ∧
    (∀ n d1 d2 sent, d.fmNode = some n → d.nodeValid = true → d.cmp.lastHb + msCycles d.hbMs ≤ d.now →
      d.sendMember n (memberBytes 1 d.curGen (d.cmp.st.code * 4096) 0 (d.cmp.progress % 2 ^ 32) 0) = (d1, sent) →
      d2 = { d1 with cmp := { d1.cmp with lastHb := d.now } } →
      exec .heartbeatTimer ⟨q, fu, d⟩ = .next ⟨q, fu, if sent then d2.bump pgBuckle 2 10 else d2⟩) ∧
    (d.cmp.cur.isSome = true → d.cmp.lastFm + msCycles d.silentMs ≤ d.now → exec .fmSilent ⟨q, fu, d⟩ = .next ⟨q, fu, d.fenceSelf⟩) ∧
    (∀ c x a, c < 4096 → d.ctx? c = some x → Tab.find? d.cmp.admits c = none → d.canStart c 0x48 = true → a = admitOf x →
      (admitArgsOk x d.node = false → exec (.admitColl c) ⟨q, fu, d⟩ = .next ⟨q, fu, d.finishSt c .invalidCmd⟩) ∧
      (admitArgsOk x d.node = true → d.cmp.st ≠ .joining → exec (.admitColl c) ⟨q, fu, d⟩ = .next ⟨q, fu, d.finishSt c .fenced⟩) ∧
      (admitArgsOk x d.node = true → d.cmp.st = .joining →
        (∀ d1 st, d.lookColl c x.coll = (d1, .bad st) → exec (.admitColl c) ⟨q, fu, d⟩ = .next ⟨q, fu, d1.finishSt c st⟩) ∧
        (∀ d1 d2 d3 img slot root pimg, d.lookColl c x.coll = (d1, .ok img slot) →
          d1.localRoot c img = (d2, .ok root) → d2.admitLocalOk a.coll a.snap img root = true → d2.partnerImg c a = (d3, .ok pimg) →
          exec (.admitColl c) ⟨q, fu, d⟩ =
            .next ⟨q, fu, if admitAgrees img pimg then d3.admitBegin c a (1000 * x.n 56 4) else d3.finishSt c .badCollection⟩) ∧
        (∀ d1 d2 img slot root, d.lookColl c x.coll = (d1, .ok img slot) → d1.localRoot c img = (d2, .ok root) →
          d2.admitLocalOk a.coll a.snap img root = false → exec (.admitColl c) ⟨q, fu, d⟩ = .next ⟨q, fu, d2.finishSt c .badCollection⟩))) ∧
    (∀ c x a img, c < 4096 → d.ctx? c = some x → Tab.find? d.cmp.admits c = some a → d.live c = true →
      img = ((bindOf x.binds a.coll).map (fun b => d.peekImg (d.boundBase b) 256)).getD [] →
      (a.step = .copy → a.list < cLists img → exec (.admitColl c) ⟨q, fu, d⟩ = .next ⟨q, fu, d.admitCopy c x.fn a img⟩) ∧
      (a.step = .copy → cLists img ≤ a.list →
        exec (.admitColl c) ⟨q, fu, d⟩ = .next ⟨q, fu, d.admitTo c { a with step := .publish, list := 0 }⟩) ∧
      (a.step = .publish → exec (.admitColl c) ⟨q, fu, d⟩ = .next ⟨q, fu, d.admitPublish c x.fn a img⟩) ∧
      (a.step = .replay → exec (.admitColl c) ⟨q, fu, d⟩ = .next ⟨q, fu,
        if cLists img ≤ a.list then d.admitTo c { a with step := .joinReady, list := 0 } else d.admitReplay c x.fn a img false⟩) ∧
      (∀ d1 sent, a.step = .joinReady → d.sendMember a.partner (memberBytes 4 0 0 a.snap 0 a.pColl) = (d1, sent) →
        exec (.admitColl c) ⟨q, fu, d⟩ = .next ⟨q, fu, if sent then d1.admitTo c { a with step := .waitSeal } else d.endCmd c .tierFail⟩) ∧
      (a.step = .waitSeal → exec (.admitColl c) ⟨q, fu, d⟩ = .next ⟨q, fu, if d.admitSealed a then d.admitTo c { a with step := .finalReplay } else d⟩) ∧
      (a.step = .finalReplay → exec (.admitColl c) ⟨q, fu, d⟩ =
        .next ⟨q, fu, if cLists img ≤ a.list then d.admitEnd c a else d.admitReplay c x.fn a img true⟩))

/-- MGMT_TX_DOORBELL and MGMT_RX_DOORBELL store an index inside their ring. MGMT_RING_ENABLE of a good ring clears its indexes.
MGMT_FRAME_SENT sends the next descriptor's frame, its checksums inserted where it asks so, and marks it done, or skips a descriptor it
cannot read; MGMT_FRAME_RECEIVE hands a good frame for this port to the next descriptor, counts a bad one and one without a descriptor;
MGMT_LINK_CHANGE records the link, and network boot goes on from it. LSR_ON drives the tile's laser enable. RAS_ZERO_START of a good range
begins clearing, of a bad one ends with RESULT 2, and while one runs reports it; ZERO_DONE clears the rest, or recalls its lines first.
PATROL_SCRUB, CE_SECOND and RAS_DATAGRAM that are due have their effect; a datagram that comes too soon or finds the link down is counted
as missed. -/
def Obligations.ManagementAndRas : Prop :=
  ∀ (q : List Instr) (fu : Fuses) (d : Dev),
    (∀ v, v < 4096 → (v < ringSize (d.rg R.mgmtTxCfg) → exec (.mgmtTxDoorbell v) ⟨q, fu, d⟩ = .next ⟨q, fu, d.setRg R.mgmtTxTail (w32 v)⟩) ∧
      (v < ringSize (d.rg R.mgmtRxCfg) → exec (.mgmtRxDoorbell v) ⟨q, fu, d⟩ = .next ⟨q, fu, d.setRg R.mgmtRxTail (w32 v)⟩)) ∧
    (∀ rx v, v &&& 0x8000001F = v → ringOn (d.rg (mgmtCfgReg rx)) = false → ringOn v = true → 4 ≤ fld v 4 0 → fld v 4 0 ≤ 12 →
      d.mgmtBase rx % 4096 = 0 → exec (.mgmtRingEnable rx v) ⟨q, fu, d⟩ =
        .next ⟨q, fu, ((d.setRg (mgmtCfgReg rx) v).setRg (mgmtTailReg rx) 0).setRg (mgmtHeadReg rx) 0⟩) ∧
    (∀ a, d.mgmtReady false = true → d.mgmtUp = true → a = d.mgmtDescAt false →
      (d.bad a 16 = true → exec .mgmtFrameSent ⟨q, fu, d⟩ = .next ⟨q, fu, ((d.touch a 16).setErr pgMgmt 0 a).mgmtNext false⟩) ∧
      (∀ b p f d1 d2, d.bad a 16 = false → b = d.peek a 16 → p = d.peek (leAt b 0 8) (leAt b 8 2) →
        f = (if (leAt b 12 4).testBit 1 then csumInsert p else p) → d1 = (d.touch a 16).touch (leAt b 0 8) (leAt b 8 2) →
        d2 = (if f.length ≤ d1.maxFrame then ({ d1 with mgmt := { d1.mgmt with frame := f } } : Dev).bump pgMgmt 0 0 else d1) →
        exec .mgmtFrameSent ⟨q, fu, d⟩ = .next ⟨q, fu, ((d2.storeN (a + 12) 4 (leAt b 12 4 ||| 1)).mgmtNext false).setInt pgMgmt 1⟩)) ∧
    (∀ f d1, d.mgmtUp = true → d1 = d.fecCount →
      (exec (.mgmtFrameReceive f false) ⟨q, fu, d⟩ = .next ⟨q, fu, d1.bump pgMgmt 0 3⟩) ∧
      (d1.macTakes fu f = false ∨ d1.maxFrame < f.length → exec (.mgmtFrameReceive f true) ⟨q, fu, d⟩ = .next ⟨q, fu, d1⟩) ∧
      (d1.macTakes fu f = true → f.length ≤ d1.maxFrame →
        exec (.mgmtFrameReceive f true) ⟨q, fu, d⟩ = .next ⟨q, fu, if d1.mgmtReady true then d1.frameIn f else d1.bump pgMgmt 0 2⟩)) ∧
    (∀ up fec d1, (up == d.mgmtUp) = false → (up && d.pwr.frefGone) = false →
      fec = (if d.brd.phase = .network then d.brd.rcv.fec else d.fd R.mgmtCfg 0 0 == 1) →
      d1 = ((d.setRg R.mgmtStat (w32 (b2n up + 2 * b2n (up && fec)))).setInt pgMgmt 2).bump pgMgmt 0 7 →
      (d1.brd.phase ≠ .network → exec (.mgmtLinkChange up) ⟨q, fu, d⟩ = .next ⟨q, fu, d1⟩) ∧
      (d1.brd.phase = .network → exec (.mgmtLinkChange up) ⟨q, fu, d⟩ = .next ⟨q, fu,
        if up then (if d1.brd.rcv.stage = .link then d1.netDiscover fu [] else d1)
        else d1.setRcv (fun r => { r with stage := .link, fecAt := d1.now })⟩)) ∧
    (∀ t on, t < 4 → exec (.lsrOn t on) ⟨q, fu, d⟩ = .next ⟨q, fu, d.setFd R.bklCfg 1 1 (b2n on) t⟩) ∧
    (∀ a n, d.ras.zeroing = none → a = d.addr52 R.rasZeroBaseLo R.rasZeroBaseHi → n = d.fd R.rasZeroLen 24 0 →
      exec .rasZeroStart ⟨q, fu, d⟩ = .next ⟨q, fu, if zeroOk d.part a n = true then
        ({ d with ras := { d.ras with zeroing := some (a, a + 65536 * n) } } : Dev).setRg R.rasZeroCtl 1 else d.zeroEnd 2⟩) ∧
    (d.ras.zeroing.isSome = true → exec .rasZeroStart ⟨q, fu, d⟩ = .next ⟨q, fu, d.setFd R.rasZeroCtl 18 16 1⟩) ∧
    (∀ a e, d.ras.zeroing = some (a, e) →
      (∀ d1, d.zeroRange a (e - a) = some d1 → exec .zeroDone ⟨q, fu, d⟩ = .next ⟨q, fu, d1.zeroEnd 0⟩) ∧
      (d.zeroRange a (e - a) = none → exec .zeroDone ⟨q, fu, d⟩ = .next ⟨q, fu, d.recall a (e - a) true⟩)) ∧
    (∀ h d1, h = d.fd R.rasScrub 7 0 → h ≠ 0 → d.runs pgRas = true → d.ras.scrubFrom + secCycles (3600 * h) ≤ d.now →
      d1 = (d.scrubLines.foldl (fun d l => d.touchLine l) d).scrubCount → exec .patrolScrub ⟨q, fu, d⟩ =
        .next ⟨q, fu, ({ d1 with ras := { d1.ras with scrubFrom := d1.now } } : Dev).bump pgRas 0 9⟩) ∧
    (d.ras.second < d.now / secCycles 1 → exec .ceSecond ⟨q, fu, d⟩ =
      .next ⟨q, fu, { d with ras := { d.ras with second := d.now / secCycles 1, ceCount := [], storm := [] } }⟩) ∧
    (∀ r rest d1, d.ras.notify = r :: rest → d1 = { d with ras := { d.ras with notify := rest } } →
      (d.mgmtUp = true → (∀ t, d.ras.lastSent = some t → t + usCycles (max (d.fd R.rasNotify 31 16) 1) ≤ 16 * r.time) →
        exec .rasDatagram ⟨q, fu, d⟩ = .next ⟨q, fu,
          ({ d1 with ras := { d1.ras with lastSent := some d.now }, mgmt := { d1.mgmt with frame := d.rasFrame r } } : Dev).bump pgRas 0 10⟩) ∧
      (d.mgmtUp = false → exec .rasDatagram ⟨q, fu, d⟩ = .next ⟨q, fu, d1.bump pgRas 0 11⟩) ∧
      (∀ t, d.ras.lastSent = some t → 16 * r.time < t + usCycles (max (d.fd R.rasNotify 31 16) 1) →
        exec .rasDatagram ⟨q, fu, d⟩ = .next ⟨q, fu, d1.bump pgRas 0 11⟩))

/-- LASER_LOW takes the ports an input lights down once, LASER_RECOVERED lets them train. LINK_UP brings a training port up with the
peer's allocation; TRAINING_FAILED counts, and the third reads FAILED, and takes a retraining port down; LINK_DOWN takes a port down;
RETRAIN of a retraining port asks for its next SEQ. RETRY_REQ naming a SEQ in the replay buffer replays from it, naming the next SEQ asks
for nothing, and naming another is a link error. RETRY_REQ_RESEND that is due sends once more, or retrains after the last send.
CREDIT_STALL after STALL_US interrupts. FLIT_RECEIVE counts what FEC did; one with a misplaced marker retrains the port, a bad one is
counted and asked for again, a good one acknowledges and gives credits, a link error where these cannot be, and then: an IDLE flit does no
more, a RETRY_REQ is taken, and data in sequence is taken, after a gap asked for again, and passed over where it came before. -/
def Obligations.Links : Prop :=
  ∀ (q : List Instr) (fu : Fuses) (d : Dev),
    (∀ b j w, b < 4 → j < 4 →
      (d.laserBelow b w = true → fbit (d.rg (R.bklLaser j) b) 16 = true →
        exec (.laserLow b j w) ⟨q, fu, d⟩ = .next ⟨q, fu, d.setRg (R.bklLaser j) (w32 (w % 65536 + 65536)) b⟩) ∧
      (∀ d2 d3, d.laserBelow b w = true → fbit (d.rg (R.bklLaser j) b) 16 = false →
        d2 = ((d.setRg (R.bklLaser j) (w32 (w % 65536 + 65536)) b).setInt (0x1E0 + b) 0).bump (0x1E0 + b) 0 j →
        d3 = { d2 with fab := { d2.fab with laserGood := delNat d2.fab.laserGood (4 * b + j) } } →
        exec (.laserLow b j w) ⟨q, fu, d⟩ = .next ⟨q, fu, d3.portsDown (d3.portsLit b j)⟩) ∧
      (∀ d1 d2, d.laserBelow b w = false → d1 = d.setRg (R.bklLaser j) (w32 (w % 65536)) b →
        d2 = { d1 with fab := { d1.fab with laserGood := insNat d1.fab.laserGood (4 * b + j) } } →
        exec (.laserRecovered b j w) ⟨q, fu, d⟩ = .next ⟨q, fu, d2.portsTrain (d2.portsLit b j)⟩)) ∧
    (∀ p x, p < d.ports → x = d.port p →
      (∀ rtt alloc, x.st = .training → exec (.linkUp p rtt alloc) ⟨q, fu, d⟩ = .next ⟨q, fu, (d.setPort p
        { st := .up, rttNs := sat 16 rtt, peerAlloc := (List.range 8).map (fun v => (v, alloc.getD v 0 % 65536)) }).setInt (pgLink p) 0⟩) ∧
      (x.st = .training → exec (.trainingFailed p) ⟨q, fu, d⟩ =
        .next ⟨q, fu, d.setPort p { x with st := if 2 ≤ x.attempts then .failed else .training, attempts := x.attempts + 1 }⟩) ∧
      (x.st = .retrain → exec (.trainingFailed p) ⟨q, fu, d⟩ = .next ⟨q, fu, (d.portDown p).trainCheck p⟩) ∧
      (x.st = .up ∨ x.st = .retrain ∨ x.st = .training → exec (.linkDown p) ⟨q, fu, d⟩ = .next ⟨q, fu, (d.portDown p).trainCheck p⟩) ∧
      (x.st = .retrain → exec (.retrain p) ⟨q, fu, d⟩ = .next ⟨q, fu, (d.setPort p { x with st := .up, retry := none }).askRetry p⟩) ∧
      (∀ s d1, x.st = .up → s < 65536 → d1 = d.bump (pgLink p) 0 4 →
        (s = x.txNext → exec (.retryReq p s) ⟨q, fu, d⟩ = .next ⟨q, fu, d1⟩) ∧
        (s ≠ x.txNext → x.replay.any (fun e => e.1 == s) = true → exec (.retryReq p s) ⟨q, fu, d⟩ =
          .next ⟨q, fu, d1.bump (pgLink p) 0 5 ((x.replay.dropWhile (fun e => e.1 != s)).length)⟩) ∧
        (s ≠ x.txNext → x.replay.any (fun e => e.1 == s) = false → exec (.retryReq p s) ⟨q, fu, d⟩ = .next ⟨q, fu, d1.linkError p⟩)) ∧
      (∀ n t, x.st = .up → x.retry = some (n, t) → t * 10 + x.rttNs * 16 + 16000 ≤ d.now * 10 →
        exec (.retryReqResend p) ⟨q, fu, d⟩ = .next ⟨q, fu, if d.retryMax p ≤ n then d.portRetrain p
          else (d.setPort p { x with retry := some (n + 1, d.now) }).bump (pgLink p) 0 3⟩) ∧
      (∀ v t, v < 8 → Tab.find? x.stalled v = some t → t + usCycles (max (d.fd R.lnkCfg 31 16 p) 1) ≤ d.now →
        exec (.creditStall p v) ⟨q, fu, d⟩ = .next ⟨q, fu, d.setInt (pgLink p) 3⟩) ∧
      (∀ f d0, d0 = (d.bump (pgLink p) 0 7 f.fecFixed).bump (pgLink p) 0 8 f.fecLost →
        (x.st ≠ .up → exec (.flitReceive p f) ⟨q, fu, d⟩ = .next ⟨q, fu, d0⟩) ∧
        (x.st = .up → f.markerMisplaced = true → exec (.flitReceive p f) ⟨q, fu, d⟩ = .next ⟨q, fu, d0.portRetrain p⟩) ∧
        (x.st = .up → f.markerMisplaced = false → flitGood f.bytes = false →
          exec (.flitReceive p f) ⟨q, fu, d⟩ = .next ⟨q, fu, (d0.bump (pgLink p) 0 2).askRetry p⟩) ∧
        (∀ h c d1, x.st = .up → f.markerMisplaced = false → flitGood f.bytes = true → h = leAt f.bytes 0 8 → c = leAt f.bytes 8 8 →
          d1 = (if bits h 15 9 + bits h 55 49 + bits c 63 40 = 0 then d0 else d0.bump (pgLink p) 0 10) →
          ((h.testBit 48 && serialAfter 16 (bits h 47 32) ((x.txNext + 65535) % 65536)) = true →
            exec (.flitReceive p f) ⟨q, fu, d⟩ = .next ⟨q, fu, d1.linkError p⟩) ∧
          (∀ x1 x2 x3 ok1 ok2, (h.testBit 48 && serialAfter 16 (bits h 47 32) ((x.txNext + 65535) % 65536)) = false →
            x1 = (if h.testBit 48 then { x with replay := x.replay.filter (fun e => serialAfter 16 e.1 (bits h 47 32)) } else x) →
            x1.credit (c.testBit 3) (bits c 2 0) (bits c 19 4) = (x2, ok1) → x2.credit (c.testBit 23) (bits c 22 20) (bits c 39 24) = (x3, ok2) →
            ((ok1 && ok2) = false → exec (.flitReceive p f) ⟨q, fu, d⟩ = .next ⟨q, fu, d1.linkError p⟩) ∧
            ((ok1 && ok2) = true →
              (bits h 3 0 = 0 → exec (.flitReceive p f) ⟨q, fu, d⟩ = .next ⟨q, fu, d1.setPort p x3⟩) ∧
              (bits h 3 0 = 2 → exec (.flitReceive p f) ⟨q, fu, d⟩ = .next ⟨q, fu, retryReqOp p (bits h 31 16) (d1.setPort p x3)⟩) ∧
              (bits h 3 0 = 1 → exec (.flitReceive p f) ⟨q, fu, d⟩ = .next ⟨q, fu, if bits h 31 16 = x3.rxExpect then
                  (d1.setPort p x3).takeData p (bits h 6 4) (h.testBit 7) (h.testBit 8) (slice f.bytes 16 (bits h 63 56))
                else if serialAfter 16 (bits h 31 16) x3.rxExpect then (d1.setPort p x3).askRetry p else d1.setPort p x3⟩))))))

/-- CHAIN_GRANT gives the next query by rotation over the functions its chain, for a stream or for a coarse selection, and does nothing
when none asks. KEEPER_INSERT puts the head of the stream's input queue into the chain, and takes a gate's candidate into the queue,
rejects it, or leaves it by the gates' rotation. THRESHOLD_FEEDBACK, when it is due, sends the chain's last key. STREAM_END of an ended
stream with an empty gate and queue drains its chain to the query's partial lists. A waiting stream opens on its stack or its Edger when
there is room, and waits on when there is none. AWL_TRANCHE, EDGER_TRANCHE and EMIT scan the next tranche. SCAN_PIECE starts a delta piece
on a free engine of its core, ends an empty one at once, and starts a sealed one where its object resides. -/
def Obligations.Scans : Prop :=
  ∀ (q : List Instr) (fu : Fuses) (d : Dev),
    (∀ k k0 ptr d1 sn x, k < 16 → d1 = { d with kpr := { d.kpr with ptr := Tab.set d.kpr.ptr k ptr } } →
      d.fnPick ((Tab.keys d.srch.queries).filter (fun i => (d.chainAsk k i).isSome)) id (Tab.getD d.kpr.ptr k 0) = (some k0, ptr) →
      d.chainAsk k k0 = some (some (sn, x)) → exec (.chainGrant k) ⟨q, fu, d⟩ = .next ⟨q, fu, d1.chainToStream k k0 sn x⟩) ∧
    (∀ k k0 ptr d1 s y, k < 16 → d1 = { d with kpr := { d.kpr with ptr := Tab.set d.kpr.ptr k ptr } } →
      d.fnPick ((Tab.keys d.srch.queries).filter (fun i => (d.chainAsk k i).isSome)) id (Tab.getD d.kpr.ptr k 0) = (some k0, ptr) →
      d.chainAsk k k0 = some none → d.inPhase k0 .coarse = some (s, y) → exec (.chainGrant k) ⟨q, fu, d⟩ = .next ⟨q, fu, d1.chainToCoarse k k0 s y⟩) ∧
    (∀ k ptr, k < 16 →
      d.fnPick ((Tab.keys d.srch.queries).filter (fun i => (d.chainAsk k i).isSome)) id (Tab.getD d.kpr.ptr k 0) = (none, ptr) →
      exec (.chainGrant k) ⟨q, fu, d⟩ = .next ⟨q, fu, d⟩) ∧
    (∀ e x sn, e < d.part.engines → d.engine e = x → x.stream = some sn → (x.owner == .kernel) = true → d.runs (pgEng e) = true →
      exec (.engEmit e) ⟨q, fu, d⟩ = .next ⟨q, fu, (d.bump (pgEng e) 0 2).scanStep sn (.engine e)⟩) ∧
    (∀ e x, e < d.part.engines → d.engine e = x → (x.stream = none ∨ (x.owner == .kernel) = false ∨ d.runs (pgEng e) = false) →
      exec (.engEmit e) ⟨q, fu, d⟩ = .next ⟨q, fu, d⟩) ∧
    (∀ sid k j x, sid < 16384 → k < 256 → j < 32768 → d.stream? (streamNo sid k j) = some x →
      (∀ kp f n c rest ptr d1 y, x.chain = some (kp, f, n) → x.queue = [] → x.offered = c :: rest → d.goesOn (pgKpr kp) = true →
        d.gateNext kp = (some (streamNo sid k j), ptr) →
        d1 = { d with kpr := { d.kpr with gatePtr := Tab.set d.kpr.gatePtr kp ptr, gateAt := Tab.upd d.kpr.gateAt kp (0, 0) (tally d.now) } } →
        y = { x with offered := rest, gateAt := tally d.now x.gateAt, readFrom := if rest.isEmpty then d.now else x.readFrom } →
        (gateRejects x.limit x.ents x.tieTail c = none →
          exec (.keeperInsert sid k j) ⟨q, fu, d⟩ = .next ⟨q, fu, (d1.bump (pgKpr kp) 0 0).setStream (streamNo sid k j) { y with queue := [c] }⟩) ∧
        (∀ t e, gateRejects x.limit x.ents x.tieTail c = some (t, e) →
          exec (.keeperInsert sid k j) ⟨q, fu, d⟩ = .next ⟨q, fu, ((d1.bump (pgKpr kp) 0 0).setStream (streamNo sid k j)
            { y with tieTail := t, badKeys := x.badKeys + b2n (e == .badKey) }).kprCount kp e⟩)) ∧
      (∀ kp f n c rest r d1, x.chain = some (kp, f, n) → x.queue = c :: rest → d.goesOn (pgKpr kp) = true → x.insFrom ≤ d.now →
        r = keeperInsert x.limit x.ents x.tieTail c →
        d1 = (d.setStream (streamNo sid k j) { x with queue := rest, ents := r.1, tieTail := r.2.1, insFrom := d.now + 1 }).kprCount kp r.2.2 →
        (d1.gateNext kp).1 ≠ some (streamNo sid k j) →
        exec (.keeperInsert sid k j) ⟨q, fu, d⟩ = .next ⟨q, fu, d1⟩) ∧
      (∀ kp f n d1 y ptr, x.chain = some (kp, f, n) → d.goesOn (pgKpr kp) = true → d1 = d.chainInsert kp (streamNo sid k j) x →
        d1.gateNext kp = (some (streamNo sid k j), ptr) → d1.stream? (streamNo sid k j) = some y →
        exec (.keeperInsert sid k j) ⟨q, fu, d⟩ = .next ⟨q, fu, d1.gateTake kp (streamNo sid k j) y ptr⟩) ∧
      (∀ kp f n, x.chain = some (kp, f, n) → d.goesOn (pgKpr kp) = false → exec (.keeperInsert sid k j) ⟨q, fu, d⟩ = .next ⟨q, fu, d⟩) ∧
      (∀ kp f n, x.chain = some (kp, f, n) → d.feedbackDue kp x = true →
        exec (.thresholdFeedback sid k j) ⟨q, fu, d⟩ = .next ⟨q, fu,
          (d.setStream (streamNo sid k j) { x with thresh := x.lastKey, sentAt := d.now }).bump (pgKpr kp) 0 9⟩) ∧
      (∀ kp f n, x.chain = some (kp, f, n) → d.feedbackDue kp x = false →
        exec (.thresholdFeedback sid k j) ⟨q, fu, d⟩ = .next ⟨q, fu, d⟩) ∧
      (∀ s y kp f n, d.inPhase (qKey sid k) .candidate = some (s, y) → x.chain = some (kp, f, n) → x.ended = true → x.offered = [] →
        x.queue = [] → d.goesOn (pgKpr kp) = true → d.goesOn (pgLac y.lac) = true →
        exec (.streamEnd sid k j) ⟨q, fu, d⟩ = .next ⟨q, fu, ((d.dropStream (streamNo sid k j)).updQuery (qKey sid k)
          (fun z => { z with parts := Tab.set z.parts x.part x.partialList })).bump (pgKpr kp) 0 8⟩) ∧
      (∀ s y kp f n, d.inPhase (qKey sid k) .candidate = some (s, y) → x.chain = some (kp, f, n) →
        (x.ended = false ∨ x.offered ≠ [] ∨ x.queue ≠ []) → exec (.streamEnd sid k j) ⟨q, fu, d⟩ = .next ⟨q, fu, d⟩) ∧
      (∀ s y n kib, d.inPhase (streamNo sid k j / 32768) .candidate = some (s, y) → x.started = true → x.opened = false → x.place = .hide n →
        kib = ceilDiv (16 * d.logSet s y x.list) 1024 →
        exec (.awlStreamOpen sid k j) ⟨q, fu, d⟩ = .next ⟨q, fu, if d.runs (pgAwl n) = true ∧ d.tombHeld n + kib ≤ 2048
          then (d.setStream (streamNo sid k j) { x with opened := true, tombKib := kib }).reinForget (80 + n) (.stitch (.stream (streamNo sid k j)))
          else d.setStream (streamNo sid k j) x⟩) ∧
      (∀ s y c h h1 t kib usedT usedK, d.inPhase (streamNo sid k j / 32768) .candidate = some (s, y) → x.started = true → x.opened = false →
        x.place = .flash c → Tab.find? d.flash.ch c = some h → t = up64 (edgTables s) → kib = ceilDiv (16 * d.logSet s y x.list) 1024 →
        usedT = (h.edger.map (fun u => u.tableBytes)).foldl (· + ·) 0 → usedK = (h.edger.map (fun u => u.tombKib)).foldl (· + ·) 0 →
        h1 = { h with edger := h.edger ++ [{ sid := streamNo sid k j, tableBytes := t, tombKib := kib }] } →
        exec (.edgerStreamOpen sid k j) ⟨q, fu, d⟩ = .next ⟨q, fu,
          if d.runs (pgEdg c) = true ∧ h.edger.length < 8 ∧ usedT + t ≤ 65536 ∧ usedK + kib ≤ 512
          then ((({ d with flash := { d.flash with ch := Tab.set d.flash.ch c h1 } } : Dev).setStream (streamNo sid k j) { x with opened := true, tombKib := kib }).bump (pgEdg c) 0 0).reinForget
              (chanRein c) (.flash 0 (.tranche (streamNo sid k j)) 0)
          else d.setStream (streamNo sid k j) x⟩) ∧
      (∀ n, x.place = .hide n → x.opened = true → x.ended = false → x.offered = [] → d.runs (pgAwl n) = true →
        exec (.awlTranche sid k j) ⟨q, fu, d⟩ = .next ⟨q, fu, d.scanStep (streamNo sid k j) (.awl n)⟩) ∧
      (∀ n, x.place = .hide n → (x.opened = false ∨ x.ended = true ∨ x.offered ≠ [] ∨ d.runs (pgAwl n) = false) →
        exec (.awlTranche sid k j) ⟨q, fu, d⟩ = .next ⟨q, fu, d⟩) ∧
      (∀ c, x.place = .flash c → x.opened = true → d.runs (pgEdg c) = true →
        exec (.edgerTranche sid k j) ⟨q, fu, d⟩ = .next ⟨q, fu, d.scanStep (streamNo sid k j) (.edger c)⟩) ∧
      (∀ c, x.place = .flash c → (x.opened = false ∨ d.runs (pgEdg c) = false) →
        exec (.edgerTranche sid k j) ⟨q, fu, d⟩ = .next ⟨q, fu, d⟩) ∧
      (∀ s y n recs d1 e es, d.inPhase (qKey sid k) .candidate = some (s, y) → x.started = false → x.chain.isNone = false →
        d.runs (pgCore y.core) = true → x.delta = true →
        recs = (d.insRecs s.image (d.head s.image x.list)).map (fun r => (r.block, r.idx)) → recs.length = n → n ≠ 0 →
        d.kernelEngines y.core (d.queryFn (qKey sid k)) = (d1, e :: es) →
        exec (.scanPiece sid k j) ⟨q, fu, d⟩ = .next ⟨q, fu,
          (d1.kernelStart (streamNo sid k j) e { x with started := true, stop := n, recs := recs }).bump pgCtx 2 11⟩) ∧
      (∀ s y, d.inPhase (qKey sid k) .candidate = some (s, y) → x.started = false → x.chain.isNone = false →
        d.runs (pgCore y.core) = true → x.delta = true → d.insRecs s.image (d.head s.image x.list) = [] →
        exec (.scanPiece sid k j) ⟨q, fu, d⟩ = .next ⟨q, fu,
          (d.setStream (streamNo sid k j) { x with started := true, opened := true, ended := true }).bump pgCtx 2 11⟩) ∧
      (∀ s y, d.inPhase (qKey sid k) .candidate = some (s, y) → x.started = false → x.chain.isNone = false → d.runs (pgCore y.core) = true →
        x.delta = false → exec (.scanPiece sid k j) ⟨q, fu, d⟩ = .next ⟨q, fu, d.scanSealedStart (streamNo sid k j) s y x⟩) ∧
      (∀ s y, d.inPhase (qKey sid k) .candidate = some (s, y) →
        (x.started = true ∨ x.chain.isNone = true ∨ d.runs (pgCore y.core) = false) →
        exec (.scanPiece sid k j) ⟨q, fu, d⟩ = .next ⟨q, fu, d⟩))

/-- POOL_SLOT_GRANT gives a free slot of a Lacing unit to the waiting query that rotation over the functions picks, and none when the unit
is full or nobody waits. CANDIDATE_PHASE of a query without a slot asks for one; with a slot it binds its tables, reads its lists' entries
and makes its streams, or ends the query where one of these fails, and once every partial list is merged orders the candidates; a fan-out
query waits for its shards, ends with their failure or orders the merged candidates. LACING_PASS merges the pool with the next partial
lists, keeping the best poolSize once each, and does nothing without a slot or a list. WRITE_PHASE of a command's one query, once its K
records are stored, gives the command its OK record; of a sub-search it sends the answer; of a batch it writes the batch's part. -/
def Obligations.PoolsAndResults : Prop :=
  ∀ (q : List Instr) (fu : Fuses) (d : Dev),
    (∀ l k ptr, l < 4 → d.lacRoom l = true → d.fnPick (d.slotAskers l) id (Tab.getD d.kpr.lacPtr l 0) = (some k, ptr) →
      exec (.poolSlotGrant l) ⟨q, fu, d⟩ = .next ⟨q, fu, ({ d with kpr := { d.kpr with lacPtr := Tab.set d.kpr.lacPtr l ptr } } : Dev).updQuery k
        (fun z => { z with slot := true, asked := false })⟩) ∧
    (∀ l, l < 4 → (d.lacRoom l = false ∨ (d.fnPick (d.slotAskers l) id (Tab.getD d.kpr.lacPtr l 0)).1 = none) →
      exec (.poolSlotGrant l) ⟨q, fu, d⟩ = .next ⟨q, fu, d⟩) ∧
    (∀ sid k, sid < 16384 → k < 256 →
      (∀ s y, d.inPhase (qKey sid k) .candidate = some (s, y) → y.slot = false →
        exec (.candidatePhase sid k) ⟨q, fu, d⟩ = .next ⟨q, fu, d.takeSlot (qKey sid k) y⟩) ∧
      (∀ s y, d.inPhase (qKey sid k) .candidate = some (s, y) → y.slot = true → s.fanout = true →
        ((y.shards.any (fun h => h.result.isNone) = true ∨ y.merged < y.streams) →
          exec (.candidatePhase sid k) ⟨q, fu, d⟩ = .next ⟨q, fu, d⟩) ∧
        (∀ st, y.shards.any (fun h => h.result.isNone) = false → y.streams ≤ y.merged → shardBad y.shards = some st →
          exec (.candidatePhase sid k) ⟨q, fu, d⟩ = .next ⟨q, fu, d.queryEnd (qKey sid k) st⟩) ∧
        (y.shards.any (fun h => h.result.isNone) = false → y.streams ≤ y.merged → shardBad y.shards = none →
          exec (.candidatePhase sid k) ⟨q, fu, d⟩ = .next ⟨q, fu, (d.bump (pgLac y.lac) 0 10).candOrder (qKey sid k) s y⟩)) ∧
      (∀ s y, d.inPhase (qKey sid k) .candidate = some (s, y) → y.slot = true → s.fanout = false →
        (∀ d1 d2 bs b ents, y.streams = 0 → y.probes.isEmpty = false → d.phaseBind (qKey sid k) s.image (candWants s.image) = (d1, .ok bs) →
          bindOf bs (cDirTbl s.image) = some b → d1.readEntries (qRd (qKey sid k)) (d1.boundBase b) (y.probes.map Prod.snd) = (d2, .ok ents) →
          exec (.candidatePhase sid k) ⟨q, fu, d⟩ = .next ⟨q, fu, d2.makeStreams (qKey sid k) s y ents⟩) ∧
        (∀ d1 st, y.streams = 0 → y.probes.isEmpty = false → d.phaseBind (qKey sid k) s.image (candWants s.image) = (d1, .bad st) →
          exec (.candidatePhase sid k) ⟨q, fu, d⟩ = .next ⟨q, fu, d1.queryEnd (qKey sid k) st⟩) ∧
        (∀ d1 d2 bs b st, y.streams = 0 → y.probes.isEmpty = false → d.phaseBind (qKey sid k) s.image (candWants s.image) = (d1, .ok bs) →
          bindOf bs (cDirTbl s.image) = some b → d1.readEntries (qRd (qKey sid k)) (d1.boundBase b) (y.probes.map Prod.snd) = (d2, .bad st) →
          exec (.candidatePhase sid k) ⟨q, fu, d⟩ = .next ⟨q, fu, d2.queryEnd (qKey sid k) st⟩) ∧
        (y.streams ≠ 0 → y.merged < y.streams → exec (.candidatePhase sid k) ⟨q, fu, d⟩ = .next ⟨q, fu, d⟩) ∧
        ((y.streams ≠ 0 ∨ y.probes.isEmpty = true) → y.streams ≤ y.merged →
          exec (.candidatePhase sid k) ⟨q, fu, d⟩ = .next ⟨q, fu, d.candOrder (qKey sid k) s y⟩)) ∧
      (∀ s y take r, d.inPhase (qKey sid k) .candidate = some (s, y) → y.slot = true → d.goesOn (pgLac y.lac) = true →
        take = y.parts.take (d.leaves y.lac) → take.isEmpty = false → r = (passInputs y take).foldl (Pass.take s.poolSize) {} →
        exec (.lacingPass sid k) ⟨q, fu, d⟩ = .next ⟨q, fu, (d.passCount (pgLac y.lac) take.length r (passTies s y take r).2).updQuery (qKey sid k)
          (fun z => { z with parts := z.parts.drop take.length, pool := r.out, tPool := (passTies s y take r).1,
                             merged := z.merged + take.length, flags := z.flags ||| (if r.dups = 0 then 0 else 8) })⟩) ∧
      (∀ s y, d.inPhase (qKey sid k) .candidate = some (s, y) → (y.slot = false ∨ d.goesOn (pgLac y.lac) = false ∨ y.parts = []) →
        exec (.lacingPass sid k) ⟨q, fu, d⟩ = .next ⟨q, fu, d⟩) ∧
      (∀ s y r d1 x, d.inPhase (qKey sid k) .write = some (s, y) → s.batch = false → s.origin = none → r = resultOf s y →
        d.put sid s.out (resultBytes s.k r.recs) = (d1, .done) → d1.ctx? sid = some x →
        exec (.writePhase sid k) ⟨q, fu, d⟩ = .next ⟨q, fu, (d1.queryDone (qKey sid k) r).finish sid
          { status := .ok, flags := r.flags, count := r.recs.length, tie := r.tie,
            spec0 := searchSpec0 y.scanned y.evaluated y.scored, spec1 := d1.sinceFetch x }⟩) ∧
      (∀ s y d1 st, d.inPhase (qKey sid k) .write = some (s, y) → s.batch = false → s.origin = none →
        d.put sid s.out (resultBytes s.k (resultOf s y).recs) = (d1, .fail st) →
        exec (.writePhase sid k) ⟨q, fu, d⟩ = .next ⟨q, fu, d1.queryEnd (qKey sid k) st⟩) ∧
      (∀ s y d1, d.inPhase (qKey sid k) .write = some (s, y) → s.batch = false → s.origin = none →
        d.put sid s.out (resultBytes s.k (resultOf s y).recs) = (d1, .wait) →
        exec (.writePhase sid k) ⟨q, fu, d⟩ = .next ⟨q, fu, d1⟩) ∧
      (∀ s y, d.inPhase (qKey sid k) .write = some (s, y) → s.batch = true →
        exec (.writePhase sid k) ⟨q, fu, d⟩ = .next ⟨q, fu, d.writeBatch (qKey sid k) s y⟩) ∧
      (∀ s y r n ref, d.inPhase (qKey sid k) .write = some (s, y) → s.batch = false → s.origin = some (n, ref) → r = resultOf s y →
        exec (.writePhase sid k) ⟨q, fu, d⟩ = .next ⟨q, fu, (d.queryDone (qKey sid k) r).subAnswer sid
          { ref := ref, status := 0, flags := r.flags, tie := r.tie, lists := sat 16 y.scanned, evaluated := sat 16 y.evaluated,
            scored := sat 32 y.scored, records := r.recs.map candRecord }⟩))

/-- EMBED and RERANK with good fields, a model that binds and a header that agrees start their runs; a bad field ends them INVALID_CMD,
and a header that disagrees with its own status. MODEL_LANE_GRANT gives a run its core, the least free lane and a group that waits for its
engines. STAGE_REPETITION waits for the run's engines and writes its input block, starts the next repetition of a ready run, and when the
last one has ended goes to the stage's attention or to the next stage. RUN_END delivers the output, closes the step of each scale state
and goes on with the command or query; an output that cannot be read fails the run. EMBED_PHASE and RERANK_MODEL_PHASE start their run. -/
def Obligations.Models : Prop :=
  ∀ (q : List Instr) (fu : Fuses) (d : Dev),
    (∀ c x, c < 4096 → d.canStart c 0x18 = true → d.ctx? c = some x → d.embedArgsOk x = false →
      exec (.embed c) ⟨q, fu, d⟩ = .next ⟨q, fu, d.finishSt c .invalidCmd⟩) ∧
    (∀ c x d1 d2 d3 d4 coll img b ls bs base model token, c < 4096 → d.canStart c 0x18 = true → d.ctx? c = some x → d.embedArgsOk x = true →
      d.modelColl c x (x.n 32 2) cEncTbl = (d1, .ok coll) → img = (coll.map Prod.fst).getD [] → model = embedModel x img → token = embedToken x img →
      d1.modelLook c model token = (d2, .ok ls) →
      (∀ st, embedOk x img (d2.modelHdr ls) token = some st → exec (.embed c) ⟨q, fu, d⟩ = .next ⟨q, fu, d2.finishSt c st⟩) ∧
      (embedOk x img (d2.modelHdr ls) token = none → d2.need c x.desc (x.n 34 2 * x.n 36 4) = (d3, .ok b) →
        d3.modelBind c model token = (d4, .ok bs) → base = (bs.head?.map d4.boundBase).getD 0 →
        exec (.embed c) ⟨q, fu, d⟩ = .next ⟨q, fu, d4.modelStart c coll (embedCmd x bs) (x.n 48 4)
          ((List.range (x.n 34 2)).map (embedRun c x (d4.modelHdr bs) b model base token bs))⟩)) ∧
    (∀ c x, c < 4096 → d.canStart c 0x19 = true → d.ctx? c = some x → d.rerankArgsOk x = false →
      exec (.rerank c) ⟨q, fu, d⟩ = .next ⟨q, fu, d.finishSt c .invalidCmd⟩) ∧
    (∀ c x d1 b recs, c < 4096 → d.canStart c 0x19 = true → d.ctx? c = some x → d.rerankArgsOk x = true →
      d.need c x.desc (up64 (x.n 44 4) + x.n 34 2 * x.n 36 4) = (d1, .ok b) → recs = rerankRecs x b →
      (rerankRecsOk recs = false → exec (.rerank c) ⟨q, fu, d⟩ = .next ⟨q, fu, d1.finishSt c .invalidCmd⟩) ∧
      (∀ d2 d3 d4 coll img ls bs base model token, rerankRecsOk recs = true →
        d1.modelColl c x (x.n 32 2) cRerTbl = (d2, .ok coll) → img = (coll.map Prod.fst).getD [] → model = rerankModel x img → token = rerankToken x img →
        d2.modelLook c model token = (d3, .ok ls) →
        (∀ st, rerankOk x img (d3.modelHdr ls) token = some st → exec (.rerank c) ⟨q, fu, d⟩ = .next ⟨q, fu, d3.finishSt c st⟩) ∧
        (rerankOk x img (d3.modelHdr ls) token = none → d3.modelBind c model token = (d4, .ok bs) → base = (bs.head?.map d4.boundBase).getD 0 →
          exec (.rerank c) ⟨q, fu, d⟩ = .next ⟨q, fu, d4.modelStart c coll (rerankCmd x recs bs) (x.n 48 4)
            [rerankRun c x (d4.modelHdr bs) b recs model base token bs]⟩))) ∧
    (∀ r x k l c d0 d1 n g, d.run? r = some x → (x.step == .lane) = true → (if x.core < 8 then some x.core else d.nextCore) = some k →
      d0 = (if x.core < 8 then d else (d.gaveCore k).updRun r (fun y => { y with core := k })) → d0.ctx? x.ctx = some c →
      firstBelow (mLanes (d.runHdr x)) (fun l => !(d0.lanesHeld { x with core := k }).contains l) = some l →
      g = { ctx := x.ctx, cinc := c.cinc, core := k, want := mEngines (d.runHdr x), run := r } → d0.addGroup g = (d1, n) →
      exec (.modelLaneGrant r) ⟨q, fu, d⟩ = .next ⟨q, fu,
        (d1.setRun r { x with core := k, lane := some l, step := .engines, group := n, cinc := c.cinc }).coreReserve k⟩) ∧
    (∀ r x g, d.run? r = some x → d.group? x.group = some g →
      (x.step = .ready → exec (.stageRepetition r) ⟨q, fu, d⟩ = .next ⟨q, fu, d.repStart r x⟩) ∧
      (∀ d1, x.step = .engines → g.full = true → d.put x.ctx (x.scratch (d.runHdr x)) x.block = (d1, .done) →
        exec (.stageRepetition r) ⟨q, fu, d⟩ = .next ⟨q, fu, d1.enterStage r 0⟩) ∧
      (∀ d1, x.step = .engines → g.full = true → d.put x.ctx (x.scratch (d.runHdr x)) x.block = (d1, .wait) →
        exec (.stageRepetition r) ⟨q, fu, d⟩ = .next ⟨q, fu, d1⟩) ∧
      (∀ d1 st, x.step = .engines → g.full = true → d.put x.ctx (x.scratch (d.runHdr x)) x.block = (d1, .fail st) →
        exec (.stageRepetition r) ⟨q, fu, d⟩ = .next ⟨q, fu, d1.runFail r st⟩) ∧
      (x.step = .engines → g.full = false → exec (.stageRepetition r) ⟨q, fu, d⟩ = .next ⟨q, fu, d⟩) ∧
      (x.step = .stage → (x.attn = true ∨ x.repRunning = false ∨ (d.groupEngs g).all (fun e => (d.engine e).ended) = false) →
        exec (.stageRepetition r) ⟨q, fu, d⟩ = .next ⟨q, fu, d⟩) ∧
      (∀ d1 st, x.step = .stage → x.attn = false → x.repRunning = true → (d.groupEngs g).all (fun e => (d.engine e).ended) = true →
        d.repFold r x (d.groupEngs g) = d1 → st = d1.runStage x x.stage →
        (∀ y, x.rep + 1 < st.rep → d1.run? r = some y → exec (.stageRepetition r) ⟨q, fu, d⟩ = .next ⟨q, fu, d1.repStart r y⟩) ∧
        (st.rep ≤ x.rep + 1 → st.attn = true →
          exec (.stageRepetition r) ⟨q, fu, d⟩ = .next ⟨q, fu, d1.updRun r (fun y => { y with attn := true })⟩) ∧
        (st.rep ≤ x.rep + 1 → st.attn = false →
          exec (.stageRepetition r) ⟨q, fu, d⟩ = .next ⟨q, fu, d1.enterStage r (x.stage + 1)⟩))) ∧
    (∀ r x g d1 d2 d3 b ev, d.run? r = some x → (x.step != .finished) = false →
      d.need x.ctx (x.w7 (d.runHdr x)).base (4 * (if x.cands = 0 then mVecDim (d.runHdr x) else x.cands)) = (d1, .ok b) →
      d1.deliver x (bytesWords b) = (d2, .done) → d2.group? x.group = some g →
      d2.pushAmax x (d.runHdr x) ((d2.groupEngs g).headD 0) = (d3, ev) →
      exec (.runEnd r) ⟨q, fu, d⟩ = .next ⟨q, fu, ((d3.takeRun r).bump pgCtx 4 1).runDone x (bytesWords b) ev⟩) ∧
    (∀ r x d1 st, d.run? r = some x → (x.step != .finished) = false →
      d.need x.ctx (x.w7 (d.runHdr x)).base (4 * (if x.cands = 0 then mVecDim (d.runHdr x) else x.cands)) = (d1, .bad st) →
      exec (.runEnd r) ⟨q, fu, d⟩ = .next ⟨q, fu, d1.runFail r st⟩) ∧
    (∀ sid k s y, sid < 16384 → k < 256 → d.inPhase (qKey sid k) .embed = some (s, y) →
      exec (.embedPhase sid k) ⟨q, fu, d⟩ = .next ⟨q, fu,
        d.phaseRun (qKey sid k) s y (cEncTbl s.image) 5 (fun _ => { use := .queryEmbed (qKey sid k), query := s.inputs.getD k [] }) true⟩) ∧
    (∀ sid k s y, sid < 16384 → k < 256 → d.inPhase (qKey sid k) .rerankModel = some (s, y) → y.ordered.isEmpty = true →
      exec (.rerankModelPhase sid k) ⟨q, fu, d⟩ = .next ⟨q, fu, d.phaseEnd (qKey sid k) (afterOrder s true)⟩) ∧
    (∀ sid k s y, sid < 16384 → k < 256 → d.inPhase (qKey sid k) .rerankModel = some (s, y) → y.ordered.isEmpty = false →
      ∀ own hdr, own = (s.format == 3 && s.origin.isNone) → hdr = (match d.query? (qKey sid k) with
        | some z => (match bindOf z.binds (cRerTbl s.image) with
          | some b => d.peekImg (d.boundBase b) 64
          | none => (match (d.tdesc (cRerTbl s.image)).current with
            | some (_, t) => d.peekImg t.base 64
            | none => []))
        | none => []) →
      exec (.rerankModelPhase sid k) ⟨q, fu, d⟩ = .next ⟨q, fu,
        d.phaseRun (qKey sid k) s y (cRerTbl s.image) (if own then 7 else 8) (fun h =>
          { use := .queryRerank (qKey sid k), cands := y.ordered.length, query := if mInput h = 0 then wordsBytes y.vec else s.inputs.getD k [],
            candBytes := (y.full.map (fun v => slice (wordsBytes v) 0 (up64 (4 * v.length)))).flatten, candStride := up64 (4 * cDim s.image) }) (own && mInput hdr != 0)⟩)

/-- DMA_COPY and POOL_FILL, POOL_COPY, POOL_COMPARE and POOL_REDUCE with good arguments start their command, set its deadline (none for
DMA_COPY), heat what they read and move their lines as far as they go now, on an Awl unit where the model's free choice of R464 says so.
Bad arguments end the command INVALID_CMD, and a pool operation at a fenced node ends FENCED. A pool operation waits while its block is
not running. A command whose mover waits goes on from where it stood. -/
def Obligations.DataMovers : Prop :=
  ∀ (q : List Instr) (fu : Fuses) (d : Dev) (c : Nat) (x : Ctx), c < 4096 →
    (Tab.has d.lat.movers c = true →
      exec (.poolFill c) ⟨q, fu, d⟩ = .next ⟨q, fu, d.moverFed c⟩ ∧ exec (.poolCopy c) ⟨q, fu, d⟩ = .next ⟨q, fu, d.moverFed c⟩ ∧
      exec (.poolCompare c) ⟨q, fu, d⟩ = .next ⟨q, fu, d.moverFed c⟩ ∧ exec (.poolReduce c) ⟨q, fu, d⟩ = .next ⟨q, fu, d.moverFed c⟩ ∧
      exec (.dmaCopy c) ⟨q, fu, d⟩ = .next ⟨q, fu, d.moverFed c⟩) ∧
    (∀ code op i, (code, op, i) ∈ [(0x28, 0, Instr.poolFill c), (0x29, 1, .poolCopy c), (0x2A, 2, .poolCompare c), (0x2B, 3, .poolReduce c), (0x30, 4, .dmaCopy c)] →
      Tab.has d.lat.movers c = false → d.canStart c code = true → d.ctx? c = some x →
      (d.moverArgs x op = false → exec i ⟨q, fu, d⟩ = .next ⟨q, fu, d.finishSt c .invalidCmd⟩) ∧
      (d.moverArgs x op = true → op ≠ 4 → d.isFenced = true → exec i ⟨q, fu, d⟩ = .next ⟨q, fu, d.finishSt c .fenced⟩) ∧
      (d.moverArgs x op = true → op ≠ 4 → d.isFenced = false → d.runs pgLat = false → exec i ⟨q, fu, d⟩ = .next ⟨q, fu, d⟩) ∧
      (∀ d1, d.moverArgs x op = true → (op = 4 ∨ (d.isFenced = false ∧ d.runs pgLat = true)) →
        d1 = ((d.start c).setDeadline c (if op = 4 then 0 else x.n 44 4)).moverHeat op x →
        exec i ⟨q, fu, d⟩ = .next ⟨q, fu, ((d1.poolStack (moverOf op x)).map (fun n =>
          ((d1.drawn.bump (pgAwl n) 0 14).setMover c { moverOf op x with awl := some n }).moverRun c)).getD ((d1.setMover c (moverOf op x)).moverRun c)⟩))

/-- ROW_LOOKUP of a key that rotation lets begin takes its turn and is looked up; a begun key delivers its row, or drops a key out of
range or missing, and counts it, and a row that cannot be read fails the gather. LINE_FILL_DONE delivers a fill's data to those that wait
and installs a clean cached line, waits for the data, or fails those that wait. SB_LATE marks a fill that took too long and its commands
stalled. GATHER_DONE stores each row of a complete gather in W7 and readies the run. FILTER_PHASE makes the query's gather, then ends once
K candidates survive or all are evaluated. -/
def Obligations.RowsAndFilter : Prop :=
  ∀ (q : List Instr) (fu : Fuses) (d : Dev),
    (∀ r pos x, d.gather? r = some x → (Tab.has x.rows pos = true ∨ x.keys.length ≤ pos ∨ d.gatherLimit x < pos) →
      exec (.rowLookup r pos) ⟨q, fu, d⟩ = .next ⟨q, fu, d⟩) ∧
    (∀ r pos x ptr d1, d.gather? r = some x → Tab.has x.rows pos = false → pos < x.keys.length → pos ≤ d.gatherLimit x →
      x.begun.contains pos = false → d.lookupNext x.inst = (some r, ptr) →
      d1 = ((d.setSbInst x.inst { d.sbInst x.inst with ptr := ptr, startedAt := tally d.now (d.sbInst x.inst).startedAt }).setGather r { x with begun := insNat x.begun pos }).bump (pgSad x.inst) 0 0 →
      exec (.rowLookup r pos) ⟨q, fu, d⟩ = .next ⟨q, fu, d1.lookup r pos⟩) ∧
    (∀ r pos x, d.gather? r = some x → x.begun.contains pos = false → (d.lookupNext x.inst).1 ≠ some r →
      exec (.rowLookup r pos) ⟨q, fu, d⟩ = .next ⟨q, fu, d⟩) ∧
    (∀ r pos x p, d.gather? r = some x → p = pgSad x.inst → d.goesOn p = true → Tab.has x.rows pos = false → pos < x.keys.length →
      pos ≤ d.gatherLimit x → x.begun.contains pos = true →
      (∀ d2 n, d.rowIndex r pos x (x.keys.getD pos 0) = (d2, .ok (.invalid, n)) →
        exec (.rowLookup r pos) ⟨q, fu, d⟩ = .next ⟨q, fu, ((d2.rowPut r pos none).bump p 0 2).bump p 0 13 (n - 1)⟩) ∧
      (∀ d2 n, d.rowIndex r pos x (x.keys.getD pos 0) = (d2, .ok (.missing, n)) →
        exec (.rowLookup r pos) ⟨q, fu, d⟩ = .next ⟨q, fu, ((d2.rowPut r pos none).bump p 0 3).bump p 0 13 (n - 1)⟩) ∧
      (∀ d2 d3 n i b, d.rowIndex r pos x (x.keys.getD pos 0) = (d2, .ok (.row i, n)) →
        d2.sbBytes r pos x 0 (i * rtStride x.image) (rowBytes (rtFmt x.image) (rtDim x.image)) = (d3, .ok b) →
        exec (.rowLookup r pos) ⟨q, fu, d⟩ =
          .next ⟨q, fu, ((d3.rowPut r pos (some (rowDecode x.image b))).bump p 0 1).bump p 0 13 (n - 1)⟩) ∧
      (∀ d2 st, d.rowIndex r pos x (x.keys.getD pos 0) = (d2, .bad st) →
        exec (.rowLookup r pos) ⟨q, fu, d⟩ = .next ⟨q, fu, d2.gatherFail r st⟩) ∧
      (∀ d2 d3 n i st, d.rowIndex r pos x (x.keys.getD pos 0) = (d2, .ok (.row i, n)) →
        d2.sbBytes r pos x 0 (i * rtStride x.image) (rowBytes (rtFmt x.image) (rtDim x.image)) = (d3, .bad st) →
        exec (.rowLookup r pos) ⟨q, fu, d⟩ = .next ⟨q, fu, d3.gatherFail r st⟩)) ∧
    (∀ i n f d1 b bad d2, i < 2 → n < 64 → Tab.find? (d.sbInst i).fills n = some f → d.sbRead i n f 0 false = (d1, .ok b bad) →
      d2 = (d1.setSbInst i { d1.sbInst i with fills := Tab.del (d1.sbInst i).fills n }).fillGive f b bad →
      exec (.lineFillDone i n) ⟨q, fu, d⟩ = .next ⟨q, fu, if f.doomed || f.bypass || !bad.isEmpty then d2 else d2.sbInstall i f.line b⟩) ∧
    (∀ i n f d1, i < 2 → n < 64 → Tab.find? (d.sbInst i).fills n = some f → d.sbRead i n f 0 false = (d1, .wait) →
      exec (.lineFillDone i n) ⟨q, fu, d⟩ = .next ⟨q, fu, d1⟩) ∧
    (∀ i n f d1, i < 2 → n < 64 → Tab.find? (d.sbInst i).fills n = some f → d.sbRead i n f 0 false = (d1, .fail) →
      exec (.lineFillDone i n) ⟨q, fu, d⟩ = .next ⟨q, fu, ((f.waiters.map Prod.fst).eraseDups).foldl (fun d r => d.gatherFail r .tierFail)
        (d1.setSbInst i { d1.sbInst i with fills := Tab.del (d1.sbInst i).fills n })⟩) ∧
    (∀ i n f, i < 2 → n < 64 → Tab.find? (d.sbInst i).fills n = some f →
      (f.late = true ∨ d.now < f.since + usCycles (d.fd R.sbLate 15 0 i)) → exec (.sbLate i n) ⟨q, fu, d⟩ = .next ⟨q, fu, d⟩) ∧
    (∀ i n f d1, i < 2 → n < 64 → Tab.find? (d.sbInst i).fills n = some f → f.late = false → f.since + usCycles (d.fd R.sbLate 15 0 i) ≤ d.now →
      d1 = (d.setSbInst i { d.sbInst i with fills := Tab.set (d.sbInst i).fills n { f with late := true } }).bump (pgSad i) 0 9 →
      exec (.sbLate i n) ⟨q, fu, d⟩ = .next ⟨q, fu, f.waiters.foldl (fun (e : Dev) w => match e.gather? w.1 with
        | some x => e.stallGather x.use
        | none => e) d1⟩) ∧
    (∀ r x n g, d.run? r = some x → x.step = .gather → x.gather = some n → d.gather? n = some g →
      (g.complete = false → exec (.gatherDone r) ⟨q, fu, d⟩ = .next ⟨q, fu, d⟩) ∧
      (∀ d1 sz base drops go, g.complete = true → sz = up64 (rtDim g.image * (if leAt g.image 50 1 = 0 then 4 else 2)) →
        base = (x.w7 (d.runHdr x)).base + (d.runStage x x.stage).gatherOff →
        go = (List.range g.keys.length).foldl (fun (acc : Dev × Put) u => if acc.2 = .done
          then acc.1.put x.ctx (base + u * sz) (tokenRowBytes g.image (Tab.getD g.rows u none)) else acc) (d, .done) →
        drops = ((List.range g.keys.length).filter (fun u => (Tab.getD g.rows u none).isNone)).length →
        (go = (d1, .done) → exec (.gatherDone r) ⟨q, fu, d⟩ = .next ⟨q, fu, ((d1.delGather n).updRun r
          (fun y => { y with step := .ready, gather := none, dropped := y.dropped || decide (0 < drops) })).bump pgCtx 4 6 drops⟩) ∧
        (go = (d1, .wait) → exec (.gatherDone r) ⟨q, fu, d⟩ = .next ⟨q, fu, d1⟩) ∧
        (∀ st, go = (d1, .fail st) → exec (.gatherDone r) ⟨q, fu, d⟩ = .next ⟨q, fu, d1.gatherFail n st⟩))) ∧
    (∀ sid k s y, sid < 16384 → k < 256 → d.inPhase (qKey sid k) .filter = some (s, y) →
      (d.filterReq (qKey sid k) = none → y.ordered.isEmpty = true →
        exec (.filterPhase sid k) ⟨q, fu, d⟩ = .next ⟨q, fu, d.toPhase (qKey sid k) .write⟩) ∧
      (d.filterReq (qKey sid k) = none → y.ordered.isEmpty = false → bindOf s.binds (cAttrTbl s.image) = none →
        exec (.filterPhase sid k) ⟨q, fu, d⟩ = .next ⟨q, fu, d.queryEnd (qKey sid k) .badTable⟩) ∧
      (∀ b, d.filterReq (qKey sid k) = none → y.ordered.isEmpty = false → bindOf s.binds (cAttrTbl s.image) = some b →
        exec (.filterPhase sid k) ⟨q, fu, d⟩ = .next ⟨q, fu,
          { d with sb := { d.sb with reqs := Tab.set d.sb.reqs d.sb.next (d.filterGather (qKey sid k) y b), next := d.sb.next + 1 } }⟩) ∧
      (∀ n g z, d.filterReq (qKey sid k) = some (n, g) → z = filterRun s.k s.filter g.rows y.ordered.length y →
        ((s.k ≤ z.survivors.length ∨ y.ordered.length ≤ z.evaluated) →
          exec (.filterPhase sid k) ⟨q, fu, d⟩ = .next ⟨q, fu, (((d.setQuery (qKey sid k) z).delGather n).bump (pgSad g.inst) 0 12
            ((g.rows.filter (fun e => decide (z.evaluated ≤ e.1) && e.2.isSome)).length)).toPhase (qKey sid k) .write⟩) ∧
        (z.survivors.length < s.k → z.evaluated < y.ordered.length →
          exec (.filterPhase sid k) ⟨q, fu, d⟩ = .next ⟨q, fu, d.setQuery (qKey sid k) z⟩)))
end

