-- ==== Sys2Proof/Laws/Exec.lean ====
section
/-! SUPPORT. What `exec` can do with any command: it answers a next state that differs in the device alone. Only the two rows that end a
Brand operation reach the fuses. -/

namespace Sys2Proof.Machine
open Sys2Proof
/-- A meaning answers a next state that reads the fuses and changes the device alone. -/
def DevOnly (m : State → Host.Outcome State Fault Refusal) : Prop :=
  ∃ f : Fuses → Dev → Dev, ∀ s, m s = .next { s with dev := f s.fuses s.dev }
theorem devOnly_onDev (f : Dev → Dev) : DevOnly (onDev f) := ⟨fun _ => f, fun _ => rfl⟩
theorem devOnly_onFuses (f : Fuses → Dev → Dev) : DevOnly (onFuses f) := ⟨f, fun _ => rfl⟩
theorem devOnly_onUnit (has : Dev → Bool) (f : Dev → Dev) : DevOnly (onUnit has f) := ⟨fun _ d => if has d then f d else d, fun _ => rfl⟩
theorem devOnly_onPages (p : Nat) (f : Fuses → Dev → Dev) : DevOnly (onPages p f) :=
  ⟨fun fu d => if p < 0x1400 then f fu d else d.unmapped (regBase + 65536 * p), fun _ => rfl⟩

/-- The rows that may change fuses: the end of a Brand operation, and a cold boot, which may interrupt one. -/
def burns : Instr → Bool
  | .brandOpDone _ => true
  | .coldBoot _ _ _ _ _ => true
  | _ => false
/-- Every other command changes the device alone. -/
theorem exec_devOnly : (i : Instr) → burns i = false → DevOnly (exec i)
  | .search ctx, _ => (devOnly_onUnit _ _ : DevOnly (execSearch ctx))
  | .searchBatch ctx, _ => (devOnly_onUnit _ _ : DevOnly (execSearchBatch ctx))
  | .upsertBatch ctx, _ => (devOnly_onUnit _ _ : DevOnly (execUpsertBatch ctx))
  | .deleteBatch ctx, _ => (devOnly_onUnit _ _ : DevOnly (execDeleteBatch ctx))
  | .epochSeal ctx, _ => (devOnly_onUnit _ _ : DevOnly (execEpochSeal ctx))
  | .snapshotOpen ctx, _ => (devOnly_onUnit _ _ : DevOnly (execSnapshotOpen ctx))
  | .snapshotClose ctx, _ => (devOnly_onUnit _ _ : DevOnly (execSnapshotClose ctx))
  | .tablePublish ctx, _ => (devOnly_onUnit _ _ : DevOnly (execTablePublish ctx))
  | .tableRetire ctx, _ => (devOnly_onUnit _ _ : DevOnly (execTableRetire ctx))
  | .rebuildList ctx, _ => (devOnly_onUnit _ _ : DevOnly (execRebuildList ctx))
  | .embed ctx, _ => (devOnly_onUnit _ _ : DevOnly (execEmbed ctx))
  | .rerank ctx, _ => (devOnly_onUnit _ _ : DevOnly (execRerank ctx))
  | .runProgram ctx, _ => (devOnly_onUnit _ _ : DevOnly (execRunProgram ctx))
  | .awlSeq ctx, _ => (devOnly_onUnit _ _ : DevOnly (execAwlSeq ctx))
  | .awlFence ctx, _ => (devOnly_onUnit _ _ : DevOnly (execAwlFence ctx))
  | .poolFill ctx, _ => (devOnly_onUnit _ _ : DevOnly (execPoolFill ctx))
  | .poolCopy ctx, _ => (devOnly_onUnit _ _ : DevOnly (execPoolCopy ctx))
  | .poolCompare ctx, _ => (devOnly_onUnit _ _ : DevOnly (execPoolCompare ctx))
  | .poolReduce ctx, _ => (devOnly_onUnit _ _ : DevOnly (execPoolReduce ctx))
  | .dmaCopy ctx, _ => (devOnly_onUnit _ _ : DevOnly (execDmaCopy ctx))
  | .hint ctx, _ => (devOnly_onUnit _ _ : DevOnly (execHint ctx))
  | .regionPublish ctx, _ => (devOnly_onUnit _ _ : DevOnly (execRegionPublish ctx))
  | .admitColl ctx, _ => (devOnly_onUnit _ _ : DevOnly (execAdmitColl ctx))
  | .leaseRenew ctx, _ => (devOnly_onUnit _ _ : DevOnly (execLeaseRenew ctx))
  | .sqTailDoorbell fn sq value, _ => (devOnly_onUnit _ _ : DevOnly (execSqTailDoorbell fn sq value))
  | .commandFetch, _ => (devOnly_onDev _ : DevOnly (execCommandFetch))
  | .fencedCommandStart ctx, _ => (devOnly_onUnit _ _ : DevOnly (execFencedCommandStart ctx))
  | .completionRecordWrite ctx, _ => (devOnly_onUnit _ _ : DevOnly (execCompletionRecordWrite ctx))
  | .cqHeadDoorbell fn cq value, _ => (devOnly_onUnit _ _ : DevOnly (execCqHeadDoorbell fn cq value))
  | .sqCfgWrite fn sq value, _ => (devOnly_onUnit _ _ : DevOnly (execSqCfgWrite fn sq value))
  | .cqCfgWrite fn cq value, _ => (devOnly_onUnit _ _ : DevOnly (execCqCfgWrite fn cq value))
  | .ctxLost ctx, _ => (devOnly_onUnit _ _ : DevOnly (execCtxLost ctx))
  | .lateSubopResult ctx cinc, _ => (devOnly_onUnit _ _ : DevOnly (execLateSubopResult ctx cinc))
  | .commandDeadline ctx, _ => (devOnly_onUnit _ _ : DevOnly (execCommandDeadline ctx))
  | .memoryAccess m addr acc cond, _ => (devOnly_onFuses _ : DevOnly (execMemoryAccess m addr acc cond))
  | .registerWrite m page off value, _ => (devOnly_onPages _ _ : DevOnly (execRegisterWrite m page off value))
  | .softReset m page, _ => (devOnly_onPages _ _ : DevOnly (execSoftReset m page))
  | .freeze m page on, _ => (devOnly_onPages _ _ : DevOnly (execFreeze m page on))
  | .blkEnable m page on, _ => (devOnly_onPages _ _ : DevOnly (execBlkEnable m page on))
  | .intStatClear m page mask, _ => (devOnly_onPages _ _ : DevOnly (execIntStatClear m page mask))
  | .intForce m page mask, _ => (devOnly_onPages _ _ : DevOnly (execIntForce m page mask))
  | .errStatClear m page mask, _ => (devOnly_onPages _ _ : DevOnly (execErrStatClear m page mask))
  | .eccFlipArm m page mask, _ => (devOnly_onPages _ _ : DevOnly (execEccFlipArm m page mask))
  | .cntClear m page bank, _ => (devOnly_onPages _ _ : DevOnly (execCntClear m page bank))
  | .cntValLoRead m page x, _ => (devOnly_onPages _ _ : DevOnly (execCntValLoRead m page x))
  | .ctxFreeRead m, _ => (devOnly_onFuses _ : DevOnly (execCtxFreeRead m))
  | .kprWaitMaxRead m keeper, _ => (devOnly_onFuses _ : DevOnly (execKprWaitMaxRead m keeper))
  | .updEvtLoRead m, _ => (devOnly_onFuses _ : DevOnly (execUpdEvtLoRead m))
  | .skvEvtRead m eng, _ => (devOnly_onFuses _ : DevOnly (execSkvEvtRead m eng))
  | .latEvtLoRead m, _ => (devOnly_onFuses _ : DevOnly (execLatEvtLoRead m))
  | .rasRecRead m, _ => (devOnly_onFuses _ : DevOnly (execRasRecRead m))
  | .ccInboxLoRead m core, _ => (devOnly_onFuses _ : DevOnly (execCcInboxLoRead m core))
  | .ccInboxHiWrite m core value, _ => (devOnly_onFuses _ : DevOnly (execCcInboxHiWrite m core value))
  | .reinVtLoRead m inst, _ => (devOnly_onFuses _ : DevOnly (execReinVtLoRead m inst))
  | .pwrTempRead m, _ => (devOnly_onFuses _ : DevOnly (execPwrTempRead m))
  | .fnEnable fn post, _ => (devOnly_onUnit _ _ : DevOnly (execFnEnable fn post))
  | .fnQuiesce fn post, _ => (devOnly_onUnit _ _ : DevOnly (execFnQuiesce fn post))
  | .fnReset fn enable post, _ => (devOnly_onUnit _ _ : DevOnly (execFnReset fn enable post))
  | .fnPendingEnable fn enable post, _ => (devOnly_onUnit _ _ : DevOnly (execFnPendingEnable fn enable post))
  | .fnSoftReset fn, _ => (devOnly_onUnit _ _ : DevOnly (execFnSoftReset fn))
  | .fnFreeze fn on, _ => (devOnly_onUnit _ _ : DevOnly (execFnFreeze fn on))
  | .fnClean fn, _ => (devOnly_onUnit _ _ : DevOnly (execFnClean fn))
  | .intMessageSend f, _ => (devOnly_onFuses _ : DevOnly (execIntMessageSend f))
  | .allocReq m v, _ => (devOnly_onDev _ : DevOnly (execAllocReq m v))
  | .objSeal m obj, _ => (devOnly_onUnit _ _ : DevOnly (execObjSeal m obj))
  | .objFree m obj, _ => (devOnly_onUnit _ _ : DevOnly (execObjFree m obj))
  | .nbrAdd, _ => (devOnly_onDev _ : DevOnly (execNbrAdd))
  | .nbrWithdraw, _ => (devOnly_onDev _ : DevOnly (execNbrWithdraw))
  | .mapInstall, _ => (devOnly_onDev _ : DevOnly (execMapInstall))
  | .mapRetireOld, _ => (devOnly_onDev _ : DevOnly (execMapRetireOld))
  | .selftestStart, _ => (devOnly_onDev _ : DevOnly (execSelftestStart))
  | .selftestDone found, _ => (devOnly_onDev _ : DevOnly (execSelftestDone found))
  | .arbCommit value, _ => (devOnly_onFuses _ : DevOnly (execArbCommit value))
  | .revoke slot key, _ => (devOnly_onFuses _ : DevOnly (execRevoke slot key))
  | .keyProg slot, _ => (devOnly_onFuses _ : DevOnly (execKeyProg slot))
  | .extend mr, _ => (devOnly_onDev _ : DevOnly (execExtend mr))
  | .quote, _ => (devOnly_onDev _ : DevOnly (execQuote))
  | .debugOpen, _ => (devOnly_onFuses _ : DevOnly (execDebugOpen))
  | .ccStart mask, _ => (devOnly_onDev _ : DevOnly (execCcStart mask))
  | .offlineReq stack, _ => (devOnly_onUnit _ _ : DevOnly (execOfflineReq stack))
  | .channelOffline, _ => (devOnly_onDev _ : DevOnly (execChannelOffline))
  | .formatStart, _ => (devOnly_onDev _ : DevOnly (execFormatStart))
  | .fmtDone, _ => (devOnly_onDev _ : DevOnly (execFmtDone))
  | .rasZeroStart, _ => (devOnly_onDev _ : DevOnly (execRasZeroStart))
  | .zeroDone, _ => (devOnly_onDev _ : DevOnly (execZeroDone))
  | .suspectClear node agent, _ => (devOnly_onUnit _ _ : DevOnly (execSuspectClear node agent))
  | .exportInvalidate exp, _ => (devOnly_onUnit _ _ : DevOnly (execExportInvalidate exp))
  | .windowEnable win, _ => (devOnly_onUnit _ _ : DevOnly (execWindowEnable win))
  | .mgmtTxDoorbell value, _ => (devOnly_onDev _ : DevOnly (execMgmtTxDoorbell value))
  | .mgmtRxDoorbell value, _ => (devOnly_onDev _ : DevOnly (execMgmtRxDoorbell value))
  | .mgmtRingEnable rx value, _ => (devOnly_onDev _ : DevOnly (execMgmtRingEnable rx value))
  | .lsrOn tile on, _ => (devOnly_onUnit _ _ : DevOnly (execLsrOn tile on))
  | .smbReadByte pecOk, _ => (devOnly_onDev _ : DevOnly (execSmbReadByte pecOk))
  | .smbRegRead off pecOk, _ => (devOnly_onFuses _ : DevOnly (execSmbRegRead off pecOk))
  | .smbRegWrite off value pecOk, _ => (devOnly_onFuses _ : DevOnly (execSmbRegWrite off value pecOk))
  | .engNop eng, _ => (devOnly_onUnit _ _ : DevOnly (execEngNop eng))
  | .engEnd eng, _ => (devOnly_onUnit _ _ : DevOnly (execEngEnd eng))
  | .engLoop eng, _ => (devOnly_onUnit _ _ : DevOnly (execEngLoop eng))
  | .engScalar eng, _ => (devOnly_onUnit _ _ : DevOnly (execEngScalar eng))
  | .engDma eng len count srcStride dstStride, _ => (devOnly_onUnit _ _ : DevOnly (execEngDma eng len count srcStride dstStride))
  | .engWload eng, _ => (devOnly_onUnit _ _ : DevOnly (execEngWload eng))
  | .engMma eng, _ => (devOnly_onUnit _ _ : DevOnly (execEngMma eng))
  | .engVec eng, _ => (devOnly_onUnit _ _ : DevOnly (execEngVec eng))
  | .engQrow eng, _ => (devOnly_onUnit _ _ : DevOnly (execEngQrow eng))
  | .engStep eng, _ => (devOnly_onUnit _ _ : DevOnly (execEngStep eng))
  | .engMerge eng, _ => (devOnly_onUnit _ _ : DevOnly (execEngMerge eng))
  | .engSave eng, _ => (devOnly_onUnit _ _ : DevOnly (execEngSave eng))
  | .engLoad eng, _ => (devOnly_onUnit _ _ : DevOnly (execEngLoad eng))
  | .engBarArrive eng, _ => (devOnly_onUnit _ _ : DevOnly (execEngBarArrive eng))
  | .engBarWait eng, _ => (devOnly_onUnit _ _ : DevOnly (execEngBarWait eng))
  | .engBarSync eng, _ => (devOnly_onUnit _ _ : DevOnly (execEngBarSync eng))
  | .engWait eng, _ => (devOnly_onUnit _ _ : DevOnly (execEngWait eng))
  | .engFence eng, _ => (devOnly_onUnit _ _ : DevOnly (execEngFence eng))
  | .engEmit eng, _ => (devOnly_onUnit _ _ : DevOnly (execEngEmit eng))
  | .tokenRetire eng token, _ => (devOnly_onUnit _ _ : DevOnly (execTokenRetire eng token))
  | .engineReserve eng, _ => (devOnly_onUnit _ _ : DevOnly (execEngineReserve eng))
  | .groupEnd group, _ => (devOnly_onDev _ : DevOnly (execGroupEnd group))
  | .engineWake eng, _ => (devOnly_onUnit _ _ : DevOnly (execEngineWake eng))
  | .idleGateClose eng, _ => (devOnly_onUnit _ _ : DevOnly (execIdleGateClose eng))
  | .governorEstimate mw rise0 rise1, _ => (devOnly_onDev _ : DevOnly (execGovernorEstimate mw rise0 rise1))
  | .powerLimitCheck w higher, _ => (devOnly_onDev _ : DevOnly (execPowerLimitCheck w higher))
  | .currentReading rail amps higher, _ => (devOnly_onUnit _ _ : DevOnly (execCurrentReading rail amps higher))
  | .adaptiveVoltage die up, _ => (devOnly_onUnit _ _ : DevOnly (execAdaptiveVoltage die up))
  | .thermalRead temps, _ => (devOnly_onDev _ : DevOnly (execThermalRead temps))
  | .refclkLoss which, _ => (devOnly_onUnit _ _ : DevOnly (execRefclkLoss which))
  | .hidePllLoss stack, _ => (devOnly_onUnit _ _ : DevOnly (execHidePllLoss stack))
  | .fclkPllLoss group, _ => (devOnly_onUnit _ _ : DevOnly (execFclkPllLoss group))
  | .frefLoss, _ => (devOnly_onFuses _ : DevOnly (execFrefLoss))
  | .frefRestored, _ => (devOnly_onDev _ : DevOnly (execFrefRestored))
  | .resetNFall ns, _ => (devOnly_onDev _ : DevOnly (execResetNFall ns))
  | .shedComplete, _ => (devOnly_onDev _ : DevOnly (execShedComplete))
  | .bootBodyLoaded body, _ => (devOnly_onFuses _ : DevOnly (execBootBodyLoaded body))
  | .hideTrainingDone failed, _ => (devOnly_onDev _ : DevOnly (execHideTrainingDone failed))
  | .recoveryTimeout, _ => (devOnly_onFuses _ : DevOnly (execRecoveryTimeout))
  | .fecAlternate, _ => (devOnly_onDev _ : DevOnly (execFecAlternate))
  | .dhcpRetransmit, _ => (devOnly_onFuses _ : DevOnly (execDhcpRetransmit))
  | .dhcpReply ack addr mask router server file, _ => (devOnly_onDev _ : DevOnly (execDhcpReply ack addr mask router server file))
  | .tftpBlock oack block data, _ => (devOnly_onFuses _ : DevOnly (execTftpBlock oack block data))
  | .tftpTimeout, _ => (devOnly_onDev _ : DevOnly (execTftpTimeout))
  | .pwrFailNFall ns, _ => (devOnly_onDev _ : DevOnly (execPwrFailNFall ns))
  | .flushDone, _ => (devOnly_onDev _ : DevOnly execFlushDone)
  | .laserLow tile input power, _ => (devOnly_onUnit _ _ : DevOnly (execLaserLow tile input power))
  | .laserRecovered tile input power, _ => (devOnly_onUnit _ _ : DevOnly (execLaserRecovered tile input power))
  | .linkUp port rttNs alloc, _ => (devOnly_onUnit _ _ : DevOnly (execLinkUp port rttNs alloc))
  | .trainingFailed port, _ => (devOnly_onUnit _ _ : DevOnly (execTrainingFailed port))
  | .linkDown port, _ => (devOnly_onUnit _ _ : DevOnly (execLinkDown port))
  | .retrain port, _ => (devOnly_onUnit _ _ : DevOnly (execRetrain port))
  | .flitReceive port flit, _ => (devOnly_onUnit _ _ : DevOnly (execFlitReceive port flit))
  | .retryReq port seq, _ => (devOnly_onUnit _ _ : DevOnly (execRetryReq port seq))
  | .retryReqResend port, _ => (devOnly_onUnit _ _ : DevOnly (execRetryReqResend port))
  | .creditStall port vc, _ => (devOnly_onUnit _ _ : DevOnly (execCreditStall port vc))
  | .rdReq m, _ => (devOnly_onFuses _ : DevOnly (execRdReq m))
  | .wrReq m, _ => (devOnly_onFuses _ : DevOnly (execWrReq m))
  | .svcReq m, _ => (devOnly_onDev _ : DevOnly (execSvcReq m))
  | .subSearch src p, _ => (devOnly_onUnit _ _ : DevOnly (execSubSearch src p))
  | .subResult src r, _ => (devOnly_onUnit _ _ : DevOnly (execSubResult src r))
  | .updateFwd src mapGen u, _ => (devOnly_onUnit _ _ : DevOnly (execUpdateFwd src mapGen u))
  | .updateReply src r, _ => (devOnly_onUnit _ _ : DevOnly (execUpdateReply src r))
  | .sealMsg src coll epoch, _ => (devOnly_onUnit _ _ : DevOnly (execSealMsg src coll epoch))
  | .heartbeat m, _ => (devOnly_onDev _ : DevOnly (execHeartbeat m))
  | .memberFence m, _ => (devOnly_onDev _ : DevOnly (execMemberFence m))
  | .mapNotice m, _ => (devOnly_onDev _ : DevOnly (execMapNotice m))
  | .joinReady m, _ => (devOnly_onDev _ : DevOnly (execJoinReady m))
  | .heartbeatTimer, _ => (devOnly_onDev _ : DevOnly (execHeartbeatTimer))
  | .fmSilent, _ => (devOnly_onDev _ : DevOnly (execFmSilent))
  | .rdRsp m, _ => (devOnly_onFuses _ : DevOnly (execRdRsp m))
  | .wrRsp m, _ => (devOnly_onFuses _ : DevOnly (execWrRsp m))
  | .svcAck m, _ => (devOnly_onFuses _ : DevOnly (execSvcAck m))
  | .nack m, _ => (devOnly_onFuses _ : DevOnly (execNack m))
  | .transportTimeout tag, _ => (devOnly_onFuses _ : DevOnly (execTransportTimeout tag))
  | .rdShared m, _ => (devOnly_onDev _ : DevOnly (execRdShared m))
  | .rdOwn m, _ => (devOnly_onDev _ : DevOnly (execRdOwn m))
  | .upgrade m, _ => (devOnly_onDev _ : DevOnly (execUpgrade m))
  | .wb m, _ => (devOnly_onDev _ : DevOnly (execWb m))
  | .ncReduce m fmt mode, _ => (devOnly_onFuses _ : DevOnly (execNcReduce m fmt mode))
  | .leaseReq m, _ => (devOnly_onDev _ : DevOnly (execLeaseReq m))
  | .regionPub m region expect base len hold, _ => (devOnly_onDev _ : DevOnly (execRegionPub m region expect base len hold))
  | .snpShare m, _ => (devOnly_onDev _ : DevOnly (execSnpShare m))
  | .snpInv m, _ => (devOnly_onDev _ : DevOnly (execSnpInv m))
  | .rspI m, _ => (devOnly_onDev _ : DevOnly (execRspI m))
  | .rspS m, _ => (devOnly_onDev _ : DevOnly (execRspS m))
  | .rspDataI m, _ => (devOnly_onDev _ : DevOnly (execRspDataI m))
  | .rspDataS m, _ => (devOnly_onDev _ : DevOnly (execRspDataS m))
  | .gntS m, _ => (devOnly_onFuses _ : DevOnly (execGntS m))
  | .gntE m, _ => (devOnly_onFuses _ : DevOnly (execGntE m))
  | .gntENodata m, _ => (devOnly_onFuses _ : DevOnly (execGntENodata m))
  | .gntUntracked m, _ => (devOnly_onFuses _ : DevOnly (execGntUntracked m))
  | .cmpWb m, _ => (devOnly_onFuses _ : DevOnly (execCmpWb m))
  | .cmpReduce m, _ => (devOnly_onFuses _ : DevOnly (execCmpReduce m))
  | .leaseGnt m status handle, _ => (devOnly_onDev _ : DevOnly (execLeaseGnt m status handle))
  | .regionDone m status spec0 spec1, _ => (devOnly_onDev _ : DevOnly (execRegionDone m status spec0 spec1))
  | .snoopTimeout line agent, _ => (devOnly_onDev _ : DevOnly (execSnoopTimeout line agent))
  | .leaseTermEnd exp slot, _ => (devOnly_onUnit _ _ : DevOnly (execLeaseTermEnd exp slot))
  | .leaseReclaim exp slot, _ => (devOnly_onUnit _ _ : DevOnly (execLeaseReclaim exp slot))
  | .reclaimDone, _ => (devOnly_onDev _ : DevOnly (execReclaimDone))
  | .autoRenewal node handle, _ => (devOnly_onDev _ : DevOnly (execAutoRenewal node handle))
  | .leaseLost node handle, _ => (devOnly_onDev _ : DevOnly (execLeaseLost node handle))
  | .mapForcedRetire, _ => (devOnly_onDev _ : DevOnly (execMapForcedRetire))
  | .reinSelect inst, _ => (devOnly_onUnit _ _ : DevOnly (execReinSelect inst))
  | .starved inst, _ => (devOnly_onUnit _ _ : DevOnly (execStarved inst))
  | .queryStart sid q, _ => (devOnly_onUnit _ _ : DevOnly (execQueryStart sid q))
  | .embedPhase sid q, _ => (devOnly_onUnit _ _ : DevOnly (execEmbedPhase sid q))
  | .coarsePhase sid q, _ => (devOnly_onUnit _ _ : DevOnly (execCoarsePhase sid q))
  | .coarseBatchWindow sid, _ => (devOnly_onUnit _ _ : DevOnly (execCoarseBatchWindow sid))
  | .candidatePhase sid q, _ => (devOnly_onUnit _ _ : DevOnly (execCandidatePhase sid q))
  | .scanPiece sid q j, _ => (devOnly_onUnit _ _ : DevOnly (execScanPiece sid q j))
  | .rerankModelPhase sid q, _ => (devOnly_onUnit _ _ : DevOnly (execRerankModelPhase sid q))
  | .filterPhase sid q, _ => (devOnly_onUnit _ _ : DevOnly (execFilterPhase sid q))
  | .writePhase sid q, _ => (devOnly_onUnit _ _ : DevOnly (execWritePhase sid q))
  | .subsearchTimeout sid, _ => (devOnly_onUnit _ _ : DevOnly (execSubsearchTimeout sid))
  | .chainGrant keeper, _ => (devOnly_onUnit _ _ : DevOnly (execChainGrant keeper))
  | .keeperInsert sid q j, _ => (devOnly_onUnit _ _ : DevOnly (execKeeperInsert sid q j))
  | .thresholdFeedback sid q j, _ => (devOnly_onUnit _ _ : DevOnly (execThresholdFeedback sid q j))
  | .streamEnd sid q j, _ => (devOnly_onUnit _ _ : DevOnly (execStreamEnd sid q j))
  | .poolSlotGrant lac, _ => (devOnly_onUnit _ _ : DevOnly (execPoolSlotGrant lac))
  | .lacingPass sid q, _ => (devOnly_onUnit _ _ : DevOnly (execLacingPass sid q))
  | .sealTimer coll, _ => (devOnly_onUnit _ _ : DevOnly (execSealTimer coll))
  | .sealCheck coll, _ => (devOnly_onUnit _ _ : DevOnly (execSealCheck coll))
  | .rebuildPublish coll list, _ => (devOnly_onUnit _ _ : DevOnly (execRebuildPublish coll list))
  | .ageSweep coll, _ => (devOnly_onUnit _ _ : DevOnly (execAgeSweep coll))
  | .migrationStart m, _ => (devOnly_onDev _ : DevOnly (execMigrationStart m))
  | .copyDone obj, _ => (devOnly_onUnit _ _ : DevOnly (execCopyDone obj))
  | .verifyDone obj, _ => (devOnly_onUnit _ _ : DevOnly (execVerifyDone obj))
  | .migrationAbandon obj, _ => (devOnly_onUnit _ _ : DevOnly (execMigrationAbandon obj))
  | .heatHalving, _ => (devOnly_onDev _ : DevOnly (execHeatHalving))
  | .stagingFill obj unit, _ => (devOnly_onUnit _ _ : DevOnly (execStagingFill obj unit))
  | .tierLate wait, _ => (devOnly_onDev _ : DevOnly (execTierLate wait))
  | .nbrRenew ext, _ => (devOnly_onUnit _ _ : DevOnly (execNbrRenew ext))
  | .nbrStop ext, _ => (devOnly_onUnit _ _ : DevOnly (execNbrStop ext))
  | .refreshDue stack bank, _ => (devOnly_onUnit _ _ : DevOnly (execRefreshDue stack bank))
  | .stitchEnd stack unit, _ => (devOnly_onUnit _ _ : DevOnly (execStitchEnd stack unit))
  | .laneFail stack, _ => (devOnly_onUnit _ _ : DevOnly (execLaneFail stack))
  | .awlStepDone ctx, _ => (devOnly_onUnit _ _ : DevOnly (execAwlStepDone ctx))
  | .awlTranche sid q j, _ => (devOnly_onUnit _ _ : DevOnly (execAwlTranche sid q j))
  | .attn model owner row, _ => (devOnly_onDev _ : DevOnly (execAttn model owner row))
  | .currierWrite channel unit, _ => (devOnly_onUnit _ _ : DevOnly (execCurrierWrite channel unit))
  | .currierRead obj unit, _ => (devOnly_onDev _ : DevOnly (execCurrierRead obj unit))
  | .deallocate channel, _ => (devOnly_onUnit _ _ : DevOnly (execDeallocate channel))
  | .readDecode channel lu step bits, _ => (devOnly_onUnit _ _ : DevOnly (execReadDecode channel lu step bits))
  | .programDone channel die ns ok, _ => (devOnly_onUnit _ _ : DevOnly (execProgramDone channel die ns ok))
  | .blockVerify channel die block bad, _ => (devOnly_onUnit _ _ : DevOnly (execBlockVerify channel die block bad))
  | .foldStart channel, _ => (devOnly_onUnit _ _ : DevOnly (execFoldStart channel))
  | .gcStart channel die, _ => (devOnly_onUnit _ _ : DevOnly (execGcStart channel die))
  | .mapWriteback channel page, _ => (devOnly_onUnit _ _ : DevOnly (execMapWriteback channel page))
  | .zqCalibration channel die, _ => (devOnly_onUnit _ _ : DevOnly (execZqCalibration channel die))
  | .dieTimeout channel, _ => (devOnly_onUnit _ _ : DevOnly (execDieTimeout channel))
  | .busBringup channel probe, _ => (devOnly_onUnit _ _ : DevOnly (execBusBringup channel probe))
  | .currierReady, _ => (devOnly_onDev _ : DevOnly (execCurrierReady))
  | .edgerStreamOpen sid q j, _ => (devOnly_onUnit _ _ : DevOnly (execEdgerStreamOpen sid q j))
  | .edgerTranche sid q j, _ => (devOnly_onUnit _ _ : DevOnly (execEdgerTranche sid q j))
  | .rowLookup req pos, _ => (devOnly_onDev _ : DevOnly (execRowLookup req pos))
  | .lineFillDone saddle slot, _ => (devOnly_onUnit _ _ : DevOnly (execLineFillDone saddle slot))
  | .sbLate saddle slot, _ => (devOnly_onUnit _ _ : DevOnly (execSbLate saddle slot))
  | .gatherDone run, _ => (devOnly_onDev _ : DevOnly (execGatherDone run))
  | .modelLaneGrant run, _ => (devOnly_onDev _ : DevOnly (execModelLaneGrant run))
  | .stageRepetition run, _ => (devOnly_onDev _ : DevOnly (execStageRepetition run))
  | .runEnd run, _ => (devOnly_onDev _ : DevOnly (execRunEnd run))
  | .patrolScrub, _ => (devOnly_onDev _ : DevOnly (execPatrolScrub))
  | .ceSecond, _ => (devOnly_onDev _ : DevOnly (execCeSecond))
  | .rasDatagram, _ => (devOnly_onDev _ : DevOnly (execRasDatagram))
  | .mgmtFrameReceive frame fcsOk, _ => (devOnly_onFuses _ : DevOnly (execMgmtFrameReceive frame fcsOk))
  | .mgmtFrameSent, _ => (devOnly_onDev _ : DevOnly (execMgmtFrameSent))
  | .eraseDone channel die block ok, _ => (devOnly_onUnit _ _ : DevOnly (execEraseDone channel die block ok))
  | .mgmtLinkChange up, _ => (devOnly_onFuses _ : DevOnly (execMgmtLinkChange up))
  | .awlStreamOpen sid q j, _ => (devOnly_onUnit _ _ : DevOnly (execAwlStreamOpen sid q j))
  | .sealForward coll, _ => (devOnly_onUnit _ _ : DevOnly (execSealForward coll))
  | .sealRefusal coll, _ => (devOnly_onUnit _ _ : DevOnly (execSealRefusal coll))
  | .recoveryArp request ip mac, _ => (devOnly_onFuses _ : DevOnly (execRecoveryArp request ip mac))
end Sys2Proof.Machine
end

