-- ==== Sys2Proof/Laws/Tab.lean ====
section
/-! SUPPORT. Laws of sparse tables and of rising lists of numbers. -/

namespace Sys2Proof

variable {α : Type}

theorem rising_iff_pairwise : (l : List Nat) → (rising l = true ↔ l.Pairwise (· < ·))
  | [] => by simp [rising]
  | [a] => by simp [rising]
  | a :: b :: t => by
    have ih := rising_iff_pairwise (b :: t)
    simp only [rising, Bool.and_eq_true, decide_eq_true_eq, ih, List.pairwise_cons, List.mem_cons, forall_eq_or_imp]
    constructor
    · rintro ⟨h, hb, ht⟩
      exact ⟨⟨h, fun x hx => Nat.lt_trans h (hb x hx)⟩, hb, ht⟩
    · rintro ⟨⟨h, _⟩, hb, ht⟩
      exact ⟨h, hb, ht⟩

theorem rising_filter (l : List Nat) (p : Nat → Bool) (h : rising l = true) : rising (l.filter p) = true := by
  rw [rising_iff_pairwise] at *
  exact h.filter p

theorem mem_insNat (k x : Nat) : (l : List Nat) → (x ∈ insNat l k ↔ x = k ∨ x ∈ l)
  | [] => by simp [insNat]
  | j :: t => by
    have ih := mem_insNat k x t
    unfold insNat
    split
    · next e => subst e; simp
    · split
      · simp
      · simp only [List.mem_cons, ih]; exact or_left_comm

theorem rising_insNat (l : List Nat) (k : Nat) (h : rising l = true) : rising (insNat l k) = true := by
  rw [rising_iff_pairwise] at *
  induction l with
  | nil => simp [insNat]
  | cons j t ih =>
    rw [List.pairwise_cons] at h
    unfold insNat
    split
    · exact List.pairwise_cons.2 h
    · split
      · next e1 e2 =>
        refine List.pairwise_cons.2 ⟨fun x hx => ?_, List.pairwise_cons.2 h⟩
        rcases List.mem_cons.1 hx with e | e
        · omega
        · have := h.1 x e; omega
      · next e1 e2 =>
        refine List.pairwise_cons.2 ⟨fun x hx => ?_, ih h.2⟩
        rcases (mem_insNat k x t).1 hx with e | e
        · omega
        · exact h.1 x e

theorem rising_delNat (l : List Nat) (k : Nat) (h : rising l = true) : rising (delNat l k) = true := rising_filter l _ h

/-! Tables. -/

theorem Tab.wf_iff (t : Tab α) : Tab.wf t = true ↔ t.Pairwise (fun a b => a.1 < b.1) := by
  rw [Tab.wf, rising_iff_pairwise, Tab.keys, List.pairwise_map]

theorem Tab.wf_filter (t : Tab α) (p : Nat × α → Bool) (h : Tab.wf t = true) : Tab.wf (t.filter p) = true := by
  rw [Tab.wf_iff] at *
  exact h.filter p

theorem Tab.mem_set (k : Nat) (v : α) (x : Nat × α) : (t : Tab α) → x ∈ Tab.set t k v → x = (k, v) ∨ x ∈ t
  | [], h => by simpa [Tab.set] using h
  | (j, a) :: t, h => by
    unfold Tab.set at h
    split at h
    · rcases List.mem_cons.1 h with e | e
      · exact .inl e
      · exact .inr (List.mem_cons_of_mem _ e)
    · split at h
      · rcases List.mem_cons.1 h with e | e
        · exact .inl e
        · exact .inr e
      · rcases List.mem_cons.1 h with e | e
        · exact .inr (e ▸ List.mem_cons_self)
        · rcases Tab.mem_set k v x t e with e | e
          · exact .inl e
          · exact .inr (List.mem_cons_of_mem _ e)

theorem Tab.mem_del (k : Nat) (x : Nat × α) : (t : Tab α) → x ∈ Tab.del t k → x ∈ t
  | [], h => h
  | (j, a) :: t, h => by
    unfold Tab.del at h
    split at h
    · exact List.mem_cons_of_mem _ h
    · rcases List.mem_cons.1 h with e | e
      · exact e ▸ List.mem_cons_self
      · exact List.mem_cons_of_mem _ (Tab.mem_del k x t e)

theorem Tab.wf_set (t : Tab α) (k : Nat) (v : α) (h : Tab.wf t = true) : Tab.wf (Tab.set t k v) = true := by
  rw [Tab.wf_iff] at *
  induction t with
  | nil => simp [Tab.set]
  | cons p t ih =>
    obtain ⟨j, a⟩ := p
    rw [List.pairwise_cons] at h
    unfold Tab.set
    split
    · next e => subst e; exact List.pairwise_cons.2 h
    · split
      · next e1 e2 =>
        refine List.pairwise_cons.2 ⟨fun x hx => ?_, List.pairwise_cons.2 h⟩
        rcases List.mem_cons.1 hx with e | e
        · subst e; exact e2
        · exact Nat.lt_trans e2 (h.1 x e)
      · next e1 e2 =>
        refine List.pairwise_cons.2 ⟨fun x hx => ?_, ih h.2⟩
        rcases Tab.mem_set k v x t hx with e | e
        · subst e; show j < k; omega
        · exact h.1 x e

theorem Tab.wf_del (t : Tab α) (k : Nat) (h : Tab.wf t = true) : Tab.wf (Tab.del t k) = true := by
  rw [Tab.wf_iff] at *
  induction t with
  | nil => simp [Tab.del]
  | cons p t ih =>
    obtain ⟨j, a⟩ := p
    rw [List.pairwise_cons] at h
    unfold Tab.del
    split
    · exact h.2
    · exact List.pairwise_cons.2 ⟨fun x hx => h.1 x (Tab.mem_del k x t hx), ih h.2⟩

/-- What was put is found, whatever the table. -/
@[simp] theorem Tab.find?_set_self (k : Nat) (v : α) : (t : Tab α) → Tab.find? (Tab.set t k v) k = some v
  | [] => by simp [Tab.set, Tab.find?]
  | (j, a) :: t => by
    unfold Tab.set
    split
    · simp [Tab.find?]
    · next e => split
                · simp [Tab.find?]
                · next e2 => simp [Tab.find?, e, e2, Tab.find?_set_self k v t]

/-- Other entries stay. -/
theorem Tab.find?_set_of_ne (i k : Nat) (v : α) (h : i ≠ k) : (t : Tab α) → Tab.find? (Tab.set t k v) i = Tab.find? t i
  | [] => by
    unfold Tab.set Tab.find?
    simp only [Tab.find?, Ne.symm h, if_false]
    split <;> rfl
  | (j, a) :: t => by
    unfold Tab.set
    split
    · next e => subst e; simp [Tab.find?, Ne.symm h]
    · next e =>
      split
      · next e2 =>
        simp only [Tab.find?, Ne.symm h, if_false]
        by_cases e3 : i < k
        · have : i < j := by omega
          have : j ≠ i := by omega
          simp [*]
        · simp [e3]
      · simp only [Tab.find?]
        rw [Tab.find?_set_of_ne i k v h t]

@[simp] theorem Tab.getD_set_self (t : Tab α) (k : Nat) (v d : α) : Tab.getD (Tab.set t k v) k d = v := by simp [Tab.getD]
theorem Tab.getD_set_of_ne (t : Tab α) (i k : Nat) (v d : α) (h : i ≠ k) : Tab.getD (Tab.set t k v) i d = Tab.getD t i d := by
  simp [Tab.getD, Tab.find?_set_of_ne i k v h t]

theorem Tab.find?_none_of_lt (k : Nat) (t : Tab α) (h : ∀ x ∈ t, k < x.1) : Tab.find? t k = none := by
  cases t with
  | nil => rfl
  | cons p t =>
    obtain ⟨j, a⟩ := p
    have : k < j := h _ List.mem_cons_self
    simp [Tab.find?, this, Nat.ne_of_gt this]

/-- What was dropped from a table in form is not found. -/
theorem Tab.find?_del_self (t : Tab α) (k : Nat) (h : Tab.wf t = true) : Tab.find? (Tab.del t k) k = none := by
  rw [Tab.wf_iff] at h
  induction t with
  | nil => rfl
  | cons p t ih =>
    obtain ⟨j, a⟩ := p
    rw [List.pairwise_cons] at h
    unfold Tab.del
    split
    · next e => subst e; exact Tab.find?_none_of_lt j t h.1
    · next e =>
      simp only [Tab.find?, e, if_false]
      rw [ih h.2]
      split <;> rfl

/-- Dropping an entry leaves the others of a table in form. -/
theorem Tab.find?_del_of_ne (t : Tab α) (i k : Nat) (hi : i ≠ k) (h : Tab.wf t = true) : Tab.find? (Tab.del t k) i = Tab.find? t i := by
  rw [Tab.wf_iff] at h
  induction t with
  | nil => rfl
  | cons p t ih =>
    obtain ⟨j, a⟩ := p
    rw [List.pairwise_cons] at h
    unfold Tab.del
    split
    · next e =>
      subst e
      simp only [Tab.find?, Ne.symm hi, if_false]
      split
      · next e2 => exact Tab.find?_none_of_lt i t (fun x hx => Nat.lt_trans e2 (h.1 x hx))
      · rfl
    · simp only [Tab.find?]
      rw [ih h.2]

end Sys2Proof
end

