-- ==== Sys2Proof/Laws/Memory.lean ====
section
/-! SUPPORT. Every memory operation keeps the memory's canonical form, and what one byte reads as after it. -/

namespace Sys2Proof.Machine
open Sys2Proof

/-- A list of cells in form: addresses rising, no 0 entry. -/
def cellsWf (c : List Host.Cell) : Prop := Tab.wf c = true ∧ ∀ e ∈ c, e.2 ≠ 0

theorem Memory.wf_iff (m : Memory) : m.wf = true ↔ cellsWf m.cells ∧ cellsWf m.ecc ∧ rising m.valid = true := by
  simp only [Memory.wf, cellsWf, Bool.and_eq_true, List.all_eq_true, bne_iff_ne, and_assoc]

theorem cellsWf_putCell (c : List Host.Cell) (a : Nat) (b : Byte) (h : cellsWf c) : cellsWf (putCell c a b) := by
  unfold putCell
  split
  · exact ⟨Tab.wf_del c a h.1, fun e he => h.2 e (Tab.mem_del a e c he)⟩
  · next hb =>
    refine ⟨Tab.wf_set c a b h.1, fun e he => ?_⟩
    rcases Tab.mem_set a b e c he with r | r
    · subst r; exact hb
    · exact h.2 e r

theorem cellsWf_putCells (l : List Byte) : ∀ (c : List Host.Cell) (a : Nat), cellsWf c → cellsWf (putCells c a l) := by
  induction l with
  | nil => exact fun _ _ h => h
  | cons b t ih => exact fun c a h => ih _ _ (cellsWf_putCell c a b h)

theorem cellsWf_filter (c : List Host.Cell) (p : Host.Cell → Bool) (h : cellsWf c) : cellsWf (c.filter p) :=
  ⟨Tab.wf_filter c p h.1, fun e he => h.2 e (List.mem_filter.1 he).1⟩

/-! The operations. -/

theorem Memory.wf_empty : Memory.wf {} = true := rfl

theorem Memory.wf_putRaw (m : Memory) (a : Nat) (l : List Byte) (h : m.wf = true) : (m.putRaw a l).wf = true := by
  rw [Memory.wf_iff] at *
  exact ⟨cellsWf_putCells l _ _ h.1, h.2⟩

theorem Memory.wf_putDisc (m : Memory) (w x : Nat) (h : m.wf = true) : (m.putDisc w x).wf = true := by
  rw [Memory.wf_iff] at *
  exact ⟨h.1, cellsWf_putCell _ _ _ h.2.1, h.2.2⟩

theorem Memory.wf_setValid (m : Memory) (l : Nat) (h : m.wf = true) : (m.setValid l).wf = true := by
  rw [Memory.wf_iff] at *
  exact ⟨h.1, h.2.1, rising_insNat _ _ h.2.2⟩

theorem Memory.wf_clearLine (m : Memory) (l : Nat) (h : m.wf = true) : (m.clearLine l).wf = true := by
  rw [Memory.wf_iff] at *
  exact ⟨cellsWf_filter _ _ h.1, cellsWf_filter _ _ h.2.1, rising_delNat _ _ h.2.2⟩

theorem Memory.wf_clearLines (m : Memory) (lo hi : Nat) (h : m.wf = true) : (m.clearLines lo hi).wf = true := by
  rw [Memory.wf_iff] at *
  exact ⟨cellsWf_filter _ _ h.1, cellsWf_filter _ _ h.2.1, rising_filter _ _ h.2.2⟩

theorem Memory.wf_flip (m : Memory) (w mask : Nat) (h : m.wf = true) : (m.flip w mask).wf = true :=
  Memory.wf_putDisc _ _ _ (Memory.wf_putRaw _ _ _ h)

/-- A property that each step keeps holds after a fold. -/
theorem foldl_keeps {α β : Type} (P : α → Prop) (f : α → β → α) (hf : ∀ a b, P a → P (f a b)) (l : List β) : ∀ a, P a → P (l.foldl f a) := by
  induction l with
  | nil => exact fun _ h => h
  | cons b t ih => exact fun a h => ih _ (hf a b h)

theorem Memory.wf_poisonLine (m : Memory) (l : Nat) (h : m.wf = true) : (m.poisonLine l).wf = true :=
  foldl_keeps (fun m => m.wf = true) _ (fun m i h => Memory.wf_putDisc m (8 * l + i) 0x7F h) _ m h

/-! What a byte reads as. -/

/-- A byte that was put reads back. -/
theorem getD_putCell_self (c : List Host.Cell) (a : Nat) (b : Byte) (h : cellsWf c) : Tab.getD (putCell c a b) a 0 = b := by
  unfold putCell
  split
  · next e => subst e; simp [Tab.getD, Tab.find?_del_self c a h.1]
  · simp

/-- Every other byte reads as before. -/
theorem getD_putCell_of_ne (c : List Host.Cell) (i a : Nat) (b : Byte) (hi : i ≠ a) (h : cellsWf c) :
    Tab.getD (putCell c a b) i 0 = Tab.getD c i 0 := by
  unfold putCell
  split
  · simp [Tab.getD, Tab.find?_del_of_ne c i a hi h.1]
  · exact Tab.getD_set_of_ne c i a b 0 hi

/-- Bytes outside a written range read as before. -/
theorem getD_putCells_of_out (l : List Byte) : ∀ (c : List Host.Cell) (a i : Nat), cellsWf c → i < a ∨ a + l.length ≤ i →
    Tab.getD (putCells c a l) i 0 = Tab.getD c i 0 := by
  induction l with
  | nil => exact fun _ _ _ _ _ => rfl
  | cons b t ih =>
    intro c a i h hi
    rw [List.length_cons] at hi
    show Tab.getD (putCells (putCell c a b) (a + 1) t) i 0 = _
    rw [ih _ _ i (cellsWf_putCell c a b h) (by omega), getD_putCell_of_ne c i a b (by omega) h]

end Sys2Proof.Machine
end

