-- ==== Sys2Proof/Laws/Reports.lean ====
section
/-! SUPPORT. What counting, interrupt and error reporting can change: registers, counters, function states and RAS queues, and nothing
else. One lemma per operation; a proof cites it and does not unfold the operation. -/

namespace Sys2Proof.Machine
open Sys2Proof

/-- `e` is `d` with other registers, counters, function states and RAS state: everything else stands as it was. -/
def Reports (d e : Dev) : Prop :=
  ∃ regs fresh cnts fns ras, e = { d with regs := regs, fresh := fresh, cnts := cnts, fns := fns, ras := ras }

theorem Reports.refl (d : Dev) : Reports d d := ⟨d.regs, d.fresh, d.cnts, d.fns, d.ras, rfl⟩

theorem Reports.trans {d e f : Dev} (h : Reports d e) (g : Reports e f) : Reports d f := by
  obtain ⟨r1, w1, c1, f1, s1, rfl⟩ := h
  obtain ⟨r2, w2, c2, f2, s2, rfl⟩ := g
  exact ⟨r2, w2, c2, f2, s2, rfl⟩

/-- Memory stands as it was. -/
theorem Reports.mem {d e : Dev} (h : Reports d e) : e.mem = d.mem := by obtain ⟨_, _, _, _, _, rfl⟩ := h; rfl
/-- Time, the part and its pins stand as they were. -/
theorem Reports.time {d e : Dev} (h : Reports d e) : e.now = d.now ∧ e.part = d.part ∧ e.pins = d.pins := by
  obtain ⟨_, _, _, _, _, rfl⟩ := h; exact ⟨rfl, rfl, rfl⟩
/-- Contexts, searches, engines, flash, links and Latigo stand as they were. -/
theorem Reports.units {d e : Dev} (h : Reports d e) :
    e.cp = d.cp ∧ e.srch = d.srch ∧ e.eng = d.eng ∧ e.flash = d.flash ∧ e.fab = d.fab ∧ e.lat = d.lat := by
  obtain ⟨_, _, _, _, _, rfl⟩ := h; exact ⟨rfl, rfl, rfl, rfl, rfl, rfl⟩
/-- Tables, updates, the Tack room, stacks, Saddlebag, composition, Brand and power stand as they were. -/
theorem Reports.stores {d e : Dev} (h : Reports d e) :
    e.tbl = d.tbl ∧ e.upd = d.upd ∧ e.tack = d.tack ∧ e.hide = d.hide ∧ e.sb = d.sb ∧ e.cmp = d.cmp ∧ e.brd = d.brd ∧ e.pwr = d.pwr := by
  obtain ⟨_, _, _, _, _, rfl⟩ := h; exact ⟨rfl, rfl, rfl, rfl, rfl, rfl, rfl, rfl⟩

theorem reports_setPg (d : Dev) (p off : Nat) (v : Word) : Reports d (d.setPg p off v) := ⟨_, d.fresh, d.cnts, d.fns, d.ras, rfl⟩
theorem reports_setRg (d : Dev) (r : RegId) (v : Word) (n : Nat) : Reports d (d.setRg r v n) := ⟨_, d.fresh, d.cnts, d.fns, d.ras, rfl⟩
theorem reports_setFd (d : Dev) (r : RegId) (hi lo v n : Nat) : Reports d (d.setFd r hi lo v n) := ⟨_, d.fresh, d.cnts, d.fns, d.ras, rfl⟩
theorem reports_setW1c (d : Dev) (p off : Nat) (v : Word) : Reports d (d.setW1c p off v) := ⟨_, _, d.cnts, d.fns, d.ras, rfl⟩
theorem reports_setFn (d : Dev) (f : Nat) (x : Fn) : Reports d (d.setFn f x) := ⟨d.regs, d.fresh, d.cnts, _, d.ras, rfl⟩
theorem reports_ras (d : Dev) (x : Ras) : Reports d { d with ras := x } := ⟨d.regs, d.fresh, d.cnts, d.fns, x, rfl⟩

theorem reports_bump (d : Dev) (p b i n : Nat) : Reports d (d.bump p b i n) := by
  unfold Dev.bump
  split
  · exact .refl d
  · exact ⟨d.regs, d.fresh, _, d.fns, d.ras, rfl⟩

theorem reports_bumpFn (d : Dev) (i f k n : Nat) : Reports d (d.bumpFn i f k n) := by
  unfold Dev.bumpFn
  split
  · exact .refl d
  · exact ⟨d.regs, d.fresh, _, d.fns, d.ras, rfl⟩

/-- Either branch reports. -/
theorem Reports.ite {d a b : Dev} (c : Prop) [Decidable c] (ha : Reports d a) (hb : Reports d b) : Reports d (if c then a else b) := by
  by_cases h : c
  · rw [if_pos h]; exact ha
  · rw [if_neg h]; exact hb

theorem reports_intSet (k : Nat) : ∀ (d : Dev) (p b : Nat), Reports d (Dev.intSet k d p b) := by
  induction k with
  | zero => exact fun d _ _ => .refl d
  | succ k ih =>
    intro d p b
    have h1 := reports_setW1c d p R.intStat (w32 b)
    unfold Dev.intSet
    refine Reports.ite _ (Reports.ite _ (h1.trans (reports_bump _ _ _ _ _)) (Reports.ite _ (h1.trans (reports_bump _ _ _ _ _))
      (Reports.ite _ (h1.trans (reports_setFn _ _ _)) (Reports.ite _ ?_ ?_)))) h1
    · exact h1.trans ((reports_setFn _ _ _).trans (reports_bump _ _ _ _ _))
    · exact h1.trans ((reports_setFn _ _ _).trans ((reports_bump _ _ _ _ _).trans (ih _ _ _)))

theorem reports_setInt (d : Dev) (p b : Nat) : Reports d (d.setInt p b) := reports_intSet _ _ _ _

theorem reports_raise (d : Dev) (g : Nat) (m : IntMsg) : Reports d (d.raise g m) := by
  unfold Dev.raise
  split
  · exact reports_bump _ _ _ _ _
  · split
    · exact reports_bump _ _ _ _ _
    · split
      · exact reports_setFn _ _ _
      · dsimp only
        split
        · exact (reports_setFn _ _ _).trans (reports_bump _ _ _ _ _)
        · exact (reports_setFn _ _ _).trans ((reports_bump _ _ _ _ _).trans (reports_setInt _ _ _))

theorem reports_intAgain (d : Dev) (p : Nat) : Reports d (d.intAgain p) := by
  unfold Dev.intAgain
  split
  · exact reports_raise _ _ _
  · exact .refl d

/-- Appending a RAS record, or counting the one a full queue drops. -/
theorem reports_rasTake (d : Dev) (r : RasRec) : Reports d (d.rasTake r) := by
  have full : Reports d (((d.setW1c pgRas R.rasStat.off 0x100).bump pgRas 0 5).setInt pgRas 3) :=
    (reports_setW1c _ _ _ _).trans ((reports_bump _ _ _ _ _).trans (reports_setInt _ _ _))
  have put : ∀ x c, Reports d ((({ d with ras := x } : Dev).bump pgRas 0 c).setInt pgRas 0) := fun x c =>
    (reports_ras d x).trans ((reports_bump _ _ _ _ _).trans (reports_setInt _ _ _))
  unfold Dev.rasTake
  dsimp only
  split
  · split
    · exact (reports_ras d _).trans (reports_bump _ _ _ _ _)
    · split
      · exact full
      · exact put _ _
  · split
    · exact full
    · exact put _ _
/-- A record is taken, or waits for a frozen block. -/
theorem reports_rasPush (d : Dev) (r : RasRec) : Reports d (d.rasPush r) := by
  unfold Dev.rasPush
  exact .ite _ (reports_ras _ _) (reports_rasTake _ _)

theorem reports_rasEvent (d : Dev) (t b p a : Nat) : Reports d (d.rasEvent t b p a) := reports_rasPush _ _

theorem reports_errBit (d : Dev) (p b a : Nat) : Reports d (d.errBit p b a) := by
  unfold Dev.errBit
  dsimp only
  split
  · exact (reports_setPg _ _ _ _).trans ((reports_setPg _ _ _ _).trans (reports_setW1c _ _ _ _))
  · exact reports_setW1c _ _ _ _

theorem reports_setErr (d : Dev) (p b a : Nat) : Reports d (d.setErr p b a) := by
  unfold Dev.setErr
  dsimp only
  split
  · exact (reports_errBit _ _ _ _).trans (reports_rasEvent _ _ _ _ _)
  · exact reports_errBit _ _ _ _

theorem reports_fatal (d : Dev) (p b a : Nat) : Reports d (d.fatal p b a) := (reports_errBit _ _ _ _).trans (reports_rasEvent _ _ _ _ _)
theorem reports_unmapped (d : Dev) (a : Nat) : Reports d (d.unmapped a) := reports_setErr _ _ _ _
theorem reports_badAccess (d : Dev) (a : Nat) : Reports d (d.badAccess a) := reports_setErr _ _ _ _

theorem reports_ceSecond (d : Dev) : Reports d d.ceSecond := .ite _ (reports_ras _ _) (.refl d)
theorem reports_ceWord (d : Dev) (p b a s w : Nat) : Reports d (d.ceWord p b a s w) := by
  have h0 : ∀ n, Reports d ({ (d.setInt p b).ceSecond with ras := { (d.setInt p b).ceSecond.ras with ceCount := n } } : Dev) := fun n =>
    (reports_setInt d p b).trans ((reports_ceSecond _).trans (reports_ras _ _))
  unfold Dev.ceWord
  dsimp only
  split
  · split
    · exact (h0 _).trans (reports_bump _ _ _ _ _)
    · exact (h0 _).trans ((reports_bump _ _ _ _ _).trans ((reports_ras _ _).trans ((reports_rasEvent _ _ _ _ _).trans (reports_setInt _ _ _))))
  · exact (h0 _).trans (reports_rasPush _ _)

theorem reports_ueWord (d : Dev) (p b a s w : Nat) : Reports d (d.ueWord p b a s w) := by
  unfold Dev.ueWord
  dsimp only
  split
  · exact (reports_errBit _ _ _ _).trans (reports_rasPush _ _)
  · exact reports_errBit _ _ _ _

theorem reports_poisonUsed (d : Dev) (p a s w : Nat) : Reports d (d.poisonUsed p a s w) := reports_rasPush _ _

theorem reports_stackOff (d : Dev) (n : Nat) : Reports d (d.stackOff n) := by
  unfold Dev.stackOff
  split
  · exact .refl d
  · exact (reports_setFd _ _ _ _ _ _).trans (reports_setInt _ _ _)

theorem reports_hideUe (d : Dev) (n k : Nat) : Reports d (d.hideUe n k) := by
  have h0 := fun x => (reports_ras d x).trans (reports_bump _ (0xC0 + n) 0 5 k)
  unfold Dev.hideUe
  dsimp only
  split
  · exact (h0 _).trans ((reports_stackOff _ _).trans ((reports_rasEvent _ _ _ _ _).trans (reports_setInt _ _ _)))
  · exact h0 _

/-- A line that the bridge loses is an uncorrectable error of its storage. -/
theorem reports_bridgeHit (d : Dev) (l : Nat) : Reports d (d.bridgeHit l) := by
  unfold Dev.bridgeHit
  exact .ite _ ((reports_ras _ _).trans (reports_ueWord _ _ _ _ _ _)) ((reports_ras _ _).trans (reports_rasPush _ _))

end Sys2Proof.Machine
end

