-- ==== Sys2Proof/Laws/State.lean ====
section
/-! SUPPORT. What each named update leaves alone, one lemma per field, and what it puts where: no proof unfolds a record update. -/

namespace Sys2Proof.Machine
open Sys2Proof

variable (d : Dev)

/-! The state of the machine. -/

@[simp] theorem onDev_state (f : Dev → Dev) (s : State) : onDev f s = .next { s with dev := f s.dev } := rfl
@[simp] theorem onFuses_state (f : Fuses → Dev → Dev) (s : State) : onFuses f s = .next { s with dev := f s.fuses s.dev } := rfl

/-! What an update puts. -/

@[simp] theorem Dev.setFn_get (f : Nat) (x : Fn) : (d.setFn f x).fn f = x := by simp [Dev.fn, Dev.setFn]
@[simp] theorem Dev.setCtx_get (c : Nat) (x : Ctx) : (d.setCtx c x).ctx? c = some x := by simp [Dev.ctx?, Dev.setCtx]
@[simp] theorem Dev.setSearch_get (s : Nat) (x : Search) : (d.setSearch s x).search? s = some x := by simp [Dev.search?, Dev.setSearch]
@[simp] theorem Dev.setQuery_get (k : Nat) (x : Query) : (d.setQuery k x).query? k = some x := by simp [Dev.query?, Dev.setQuery]
@[simp] theorem Dev.setStream_get (s : Nat) (x : Stream) : (d.setStream s x).stream? s = some x := by simp [Dev.stream?, Dev.setStream]
@[simp] theorem Dev.setEngine_get (e : Nat) (x : Engine) : (d.setEngine e x).engine e = x := by simp [Dev.engine, Dev.setEngine]
@[simp] theorem Dev.setGroup_get (g : Nat) (x : Group) : (d.setGroup g x).group? g = some x := by simp [Dev.group?, Dev.setGroup]
@[simp] theorem Dev.setSlot_get (e j : Nat) (x : Slot) : (d.setSlot e j x).slotOf e j = x := by simp [Dev.slotOf, Dev.setSlot]
@[simp] theorem Dev.setBar_get (g b : Nat) (x : Barrier) : (d.setBar g b x).bar g b = x := by simp [Dev.bar, Dev.setBar]
@[simp] theorem Dev.setRun_get (r : Nat) (x : Run) : (d.setRun r x).run? r = some x := by simp [Dev.run?, Dev.setRun]
@[simp] theorem Dev.setStack_get (n : Nat) (x : Stack) : (d.setStack n x).stack n = x := by simp [Dev.stack, Dev.setStack]
@[simp] theorem Dev.setSbInst_get (i : Nat) (x : SbInst) : (d.setSbInst i x).sbInst i = x := by simp [Dev.sbInst, Dev.setSbInst]
@[simp] theorem Dev.setGather_get (r : Nat) (x : GatherReq) : (d.setGather r x).gather? r = some x := by simp [Dev.gather?, Dev.setGather]
@[simp] theorem Dev.setPg_get (p off : Nat) (v : Word) : (d.setPg p off v).pg p off = v := by simp [Dev.pg, Dev.setPg]
@[simp] theorem Dev.setRg_get (r : RegId) (v : Word) (n : Nat) : (d.setRg r v n).rg r n = v := by simp [Dev.rg, Dev.setRg, Dev.pg, Dev.setPg]
@[simp] theorem Dev.setRgb_get (r : RegId) (s : Nat) (v : Word) (n : Nat) : (d.setRgb r s v n).rgb r s n = v := by simp [Dev.rgb, Dev.setRgb]

/-- A register of another key reads as before, unless BKL_CFG, which holds GROUP8, was written. -/
theorem Dev.pg_setPg_of_ne (p off q o : Nat) (v : Word) (h : keyOf q o ≠ keyOf p off) (g : keyOf 0x1E0 0x100 ≠ keyOf p off) :
    (d.setPg p off v).pg q o = d.pg q o := by
  have e : (d.setPg p off v).eight = d.eight := by
    simp only [Dev.eight, Dev.setPg, Tab.getD_set_of_ne _ _ _ _ _ g]
  have r : (d.setPg p off v).regReset q o = d.regReset q o := by simp only [Dev.regReset, e]
  simp only [Dev.pg, r]
  simp only [Dev.setPg, Tab.find?_set_of_ne _ _ _ h]

/-! `Dev.drawn` changes draws alone. -/

@[simp] theorem Dev.drawn_now : (d.drawn).now = d.now := rfl
@[simp] theorem Dev.drawn_aphase : (d.drawn).aphase = d.aphase := rfl
@[simp] theorem Dev.drawn_part : (d.drawn).part = d.part := rfl
@[simp] theorem Dev.drawn_stepping : (d.drawn).stepping = d.stepping := rfl
@[simp] theorem Dev.drawn_pins : (d.drawn).pins = d.pins := rfl
@[simp] theorem Dev.drawn_regs : (d.drawn).regs = d.regs := rfl
@[simp] theorem Dev.drawn_shadow : (d.drawn).shadow = d.shadow := rfl
@[simp] theorem Dev.drawn_rqSel : (d.drawn).rqSel = d.rqSel := rfl
@[simp] theorem Dev.drawn_fresh : (d.drawn).fresh = d.fresh := rfl
@[simp] theorem Dev.drawn_resetting : (d.drawn).resetting = d.resetting := rfl
@[simp] theorem Dev.drawn_cnts : (d.drawn).cnts = d.cnts := rfl
@[simp] theorem Dev.drawn_mem : (d.drawn).mem = d.mem := rfl
@[simp] theorem Dev.drawn_cp : (d.drawn).cp = d.cp := rfl
@[simp] theorem Dev.drawn_fns : (d.drawn).fns = d.fns := rfl
@[simp] theorem Dev.drawn_reins : (d.drawn).reins = d.reins := rfl
@[simp] theorem Dev.drawn_ras : (d.drawn).ras = d.ras := rfl
@[simp] theorem Dev.drawn_tbl : (d.drawn).tbl = d.tbl := rfl
@[simp] theorem Dev.drawn_upd : (d.drawn).upd = d.upd := rfl
@[simp] theorem Dev.drawn_srch : (d.drawn).srch = d.srch := rfl
@[simp] theorem Dev.drawn_kpr : (d.drawn).kpr = d.kpr := rfl
@[simp] theorem Dev.drawn_eng : (d.drawn).eng = d.eng := rfl
@[simp] theorem Dev.drawn_tack : (d.drawn).tack = d.tack := rfl
@[simp] theorem Dev.drawn_hide : (d.drawn).hide = d.hide := rfl
@[simp] theorem Dev.drawn_flash : (d.drawn).flash = d.flash := rfl
@[simp] theorem Dev.drawn_sb : (d.drawn).sb = d.sb := rfl
@[simp] theorem Dev.drawn_fab : (d.drawn).fab = d.fab := rfl
@[simp] theorem Dev.drawn_lat : (d.drawn).lat = d.lat := rfl
@[simp] theorem Dev.drawn_cmp : (d.drawn).cmp = d.cmp := rfl
@[simp] theorem Dev.drawn_brd : (d.drawn).brd = d.brd := rfl
@[simp] theorem Dev.drawn_mgmt : (d.drawn).mgmt = d.mgmt := rfl
@[simp] theorem Dev.drawn_pwr : (d.drawn).pwr = d.pwr := rfl
@[simp] theorem Dev.drawn_resp : (d.drawn).resp = d.resp := rfl

/-! `Dev.setPg` changes regs alone. -/

@[simp] theorem Dev.setPg_now (p off : Nat) (v : Word) : (d.setPg p off v).now = d.now := rfl
@[simp] theorem Dev.setPg_aphase (p off : Nat) (v : Word) : (d.setPg p off v).aphase = d.aphase := rfl
@[simp] theorem Dev.setPg_draws (p off : Nat) (v : Word) : (d.setPg p off v).draws = d.draws := rfl
@[simp] theorem Dev.setPg_part (p off : Nat) (v : Word) : (d.setPg p off v).part = d.part := rfl
@[simp] theorem Dev.setPg_stepping (p off : Nat) (v : Word) : (d.setPg p off v).stepping = d.stepping := rfl
@[simp] theorem Dev.setPg_pins (p off : Nat) (v : Word) : (d.setPg p off v).pins = d.pins := rfl
@[simp] theorem Dev.setPg_shadow (p off : Nat) (v : Word) : (d.setPg p off v).shadow = d.shadow := rfl
@[simp] theorem Dev.setPg_rqSel (p off : Nat) (v : Word) : (d.setPg p off v).rqSel = d.rqSel := rfl
@[simp] theorem Dev.setPg_fresh (p off : Nat) (v : Word) : (d.setPg p off v).fresh = d.fresh := rfl
@[simp] theorem Dev.setPg_resetting (p off : Nat) (v : Word) : (d.setPg p off v).resetting = d.resetting := rfl
@[simp] theorem Dev.setPg_cnts (p off : Nat) (v : Word) : (d.setPg p off v).cnts = d.cnts := rfl
@[simp] theorem Dev.setPg_mem (p off : Nat) (v : Word) : (d.setPg p off v).mem = d.mem := rfl
@[simp] theorem Dev.setPg_cp (p off : Nat) (v : Word) : (d.setPg p off v).cp = d.cp := rfl
@[simp] theorem Dev.setPg_fns (p off : Nat) (v : Word) : (d.setPg p off v).fns = d.fns := rfl
@[simp] theorem Dev.setPg_reins (p off : Nat) (v : Word) : (d.setPg p off v).reins = d.reins := rfl
@[simp] theorem Dev.setPg_ras (p off : Nat) (v : Word) : (d.setPg p off v).ras = d.ras := rfl
@[simp] theorem Dev.setPg_tbl (p off : Nat) (v : Word) : (d.setPg p off v).tbl = d.tbl := rfl
@[simp] theorem Dev.setPg_upd (p off : Nat) (v : Word) : (d.setPg p off v).upd = d.upd := rfl
@[simp] theorem Dev.setPg_srch (p off : Nat) (v : Word) : (d.setPg p off v).srch = d.srch := rfl
@[simp] theorem Dev.setPg_kpr (p off : Nat) (v : Word) : (d.setPg p off v).kpr = d.kpr := rfl
@[simp] theorem Dev.setPg_eng (p off : Nat) (v : Word) : (d.setPg p off v).eng = d.eng := rfl
@[simp] theorem Dev.setPg_tack (p off : Nat) (v : Word) : (d.setPg p off v).tack = d.tack := rfl
@[simp] theorem Dev.setPg_hide (p off : Nat) (v : Word) : (d.setPg p off v).hide = d.hide := rfl
@[simp] theorem Dev.setPg_flash (p off : Nat) (v : Word) : (d.setPg p off v).flash = d.flash := rfl
@[simp] theorem Dev.setPg_sb (p off : Nat) (v : Word) : (d.setPg p off v).sb = d.sb := rfl
@[simp] theorem Dev.setPg_fab (p off : Nat) (v : Word) : (d.setPg p off v).fab = d.fab := rfl
@[simp] theorem Dev.setPg_lat (p off : Nat) (v : Word) : (d.setPg p off v).lat = d.lat := rfl
@[simp] theorem Dev.setPg_cmp (p off : Nat) (v : Word) : (d.setPg p off v).cmp = d.cmp := rfl
@[simp] theorem Dev.setPg_brd (p off : Nat) (v : Word) : (d.setPg p off v).brd = d.brd := rfl
@[simp] theorem Dev.setPg_mgmt (p off : Nat) (v : Word) : (d.setPg p off v).mgmt = d.mgmt := rfl
@[simp] theorem Dev.setPg_pwr (p off : Nat) (v : Word) : (d.setPg p off v).pwr = d.pwr := rfl
@[simp] theorem Dev.setPg_resp (p off : Nat) (v : Word) : (d.setPg p off v).resp = d.resp := rfl

/-! `Dev.setRg` changes regs alone. -/

@[simp] theorem Dev.setRg_now (r : RegId) (v : Word) (n : Nat) : (d.setRg r v n).now = d.now := rfl
@[simp] theorem Dev.setRg_aphase (r : RegId) (v : Word) (n : Nat) : (d.setRg r v n).aphase = d.aphase := rfl
@[simp] theorem Dev.setRg_draws (r : RegId) (v : Word) (n : Nat) : (d.setRg r v n).draws = d.draws := rfl
@[simp] theorem Dev.setRg_part (r : RegId) (v : Word) (n : Nat) : (d.setRg r v n).part = d.part := rfl
@[simp] theorem Dev.setRg_stepping (r : RegId) (v : Word) (n : Nat) : (d.setRg r v n).stepping = d.stepping := rfl
@[simp] theorem Dev.setRg_pins (r : RegId) (v : Word) (n : Nat) : (d.setRg r v n).pins = d.pins := rfl
@[simp] theorem Dev.setRg_shadow (r : RegId) (v : Word) (n : Nat) : (d.setRg r v n).shadow = d.shadow := rfl
@[simp] theorem Dev.setRg_rqSel (r : RegId) (v : Word) (n : Nat) : (d.setRg r v n).rqSel = d.rqSel := rfl
@[simp] theorem Dev.setRg_fresh (r : RegId) (v : Word) (n : Nat) : (d.setRg r v n).fresh = d.fresh := rfl
@[simp] theorem Dev.setRg_resetting (r : RegId) (v : Word) (n : Nat) : (d.setRg r v n).resetting = d.resetting := rfl
@[simp] theorem Dev.setRg_cnts (r : RegId) (v : Word) (n : Nat) : (d.setRg r v n).cnts = d.cnts := rfl
@[simp] theorem Dev.setRg_mem (r : RegId) (v : Word) (n : Nat) : (d.setRg r v n).mem = d.mem := rfl
@[simp] theorem Dev.setRg_cp (r : RegId) (v : Word) (n : Nat) : (d.setRg r v n).cp = d.cp := rfl
@[simp] theorem Dev.setRg_fns (r : RegId) (v : Word) (n : Nat) : (d.setRg r v n).fns = d.fns := rfl
@[simp] theorem Dev.setRg_reins (r : RegId) (v : Word) (n : Nat) : (d.setRg r v n).reins = d.reins := rfl
@[simp] theorem Dev.setRg_ras (r : RegId) (v : Word) (n : Nat) : (d.setRg r v n).ras = d.ras := rfl
@[simp] theorem Dev.setRg_tbl (r : RegId) (v : Word) (n : Nat) : (d.setRg r v n).tbl = d.tbl := rfl
@[simp] theorem Dev.setRg_upd (r : RegId) (v : Word) (n : Nat) : (d.setRg r v n).upd = d.upd := rfl
@[simp] theorem Dev.setRg_srch (r : RegId) (v : Word) (n : Nat) : (d.setRg r v n).srch = d.srch := rfl
@[simp] theorem Dev.setRg_kpr (r : RegId) (v : Word) (n : Nat) : (d.setRg r v n).kpr = d.kpr := rfl
@[simp] theorem Dev.setRg_eng (r : RegId) (v : Word) (n : Nat) : (d.setRg r v n).eng = d.eng := rfl
@[simp] theorem Dev.setRg_tack (r : RegId) (v : Word) (n : Nat) : (d.setRg r v n).tack = d.tack := rfl
@[simp] theorem Dev.setRg_hide (r : RegId) (v : Word) (n : Nat) : (d.setRg r v n).hide = d.hide := rfl
@[simp] theorem Dev.setRg_flash (r : RegId) (v : Word) (n : Nat) : (d.setRg r v n).flash = d.flash := rfl
@[simp] theorem Dev.setRg_sb (r : RegId) (v : Word) (n : Nat) : (d.setRg r v n).sb = d.sb := rfl
@[simp] theorem Dev.setRg_fab (r : RegId) (v : Word) (n : Nat) : (d.setRg r v n).fab = d.fab := rfl
@[simp] theorem Dev.setRg_lat (r : RegId) (v : Word) (n : Nat) : (d.setRg r v n).lat = d.lat := rfl
@[simp] theorem Dev.setRg_cmp (r : RegId) (v : Word) (n : Nat) : (d.setRg r v n).cmp = d.cmp := rfl
@[simp] theorem Dev.setRg_brd (r : RegId) (v : Word) (n : Nat) : (d.setRg r v n).brd = d.brd := rfl
@[simp] theorem Dev.setRg_mgmt (r : RegId) (v : Word) (n : Nat) : (d.setRg r v n).mgmt = d.mgmt := rfl
@[simp] theorem Dev.setRg_pwr (r : RegId) (v : Word) (n : Nat) : (d.setRg r v n).pwr = d.pwr := rfl
@[simp] theorem Dev.setRg_resp (r : RegId) (v : Word) (n : Nat) : (d.setRg r v n).resp = d.resp := rfl

/-! `Dev.setRgb` changes regs alone. -/

@[simp] theorem Dev.setRgb_now (r : RegId) (s : Nat) (v : Word) (n : Nat) : (d.setRgb r s v n).now = d.now := rfl
@[simp] theorem Dev.setRgb_aphase (r : RegId) (s : Nat) (v : Word) (n : Nat) : (d.setRgb r s v n).aphase = d.aphase := rfl
@[simp] theorem Dev.setRgb_draws (r : RegId) (s : Nat) (v : Word) (n : Nat) : (d.setRgb r s v n).draws = d.draws := rfl
@[simp] theorem Dev.setRgb_part (r : RegId) (s : Nat) (v : Word) (n : Nat) : (d.setRgb r s v n).part = d.part := rfl
@[simp] theorem Dev.setRgb_stepping (r : RegId) (s : Nat) (v : Word) (n : Nat) : (d.setRgb r s v n).stepping = d.stepping := rfl
@[simp] theorem Dev.setRgb_pins (r : RegId) (s : Nat) (v : Word) (n : Nat) : (d.setRgb r s v n).pins = d.pins := rfl
@[simp] theorem Dev.setRgb_shadow (r : RegId) (s : Nat) (v : Word) (n : Nat) : (d.setRgb r s v n).shadow = d.shadow := rfl
@[simp] theorem Dev.setRgb_rqSel (r : RegId) (s : Nat) (v : Word) (n : Nat) : (d.setRgb r s v n).rqSel = d.rqSel := rfl
@[simp] theorem Dev.setRgb_fresh (r : RegId) (s : Nat) (v : Word) (n : Nat) : (d.setRgb r s v n).fresh = d.fresh := rfl
@[simp] theorem Dev.setRgb_resetting (r : RegId) (s : Nat) (v : Word) (n : Nat) : (d.setRgb r s v n).resetting = d.resetting := rfl
@[simp] theorem Dev.setRgb_cnts (r : RegId) (s : Nat) (v : Word) (n : Nat) : (d.setRgb r s v n).cnts = d.cnts := rfl
@[simp] theorem Dev.setRgb_mem (r : RegId) (s : Nat) (v : Word) (n : Nat) : (d.setRgb r s v n).mem = d.mem := rfl
@[simp] theorem Dev.setRgb_cp (r : RegId) (s : Nat) (v : Word) (n : Nat) : (d.setRgb r s v n).cp = d.cp := rfl
@[simp] theorem Dev.setRgb_fns (r : RegId) (s : Nat) (v : Word) (n : Nat) : (d.setRgb r s v n).fns = d.fns := rfl
@[simp] theorem Dev.setRgb_reins (r : RegId) (s : Nat) (v : Word) (n : Nat) : (d.setRgb r s v n).reins = d.reins := rfl
@[simp] theorem Dev.setRgb_ras (r : RegId) (s : Nat) (v : Word) (n : Nat) : (d.setRgb r s v n).ras = d.ras := rfl
@[simp] theorem Dev.setRgb_tbl (r : RegId) (s : Nat) (v : Word) (n : Nat) : (d.setRgb r s v n).tbl = d.tbl := rfl
@[simp] theorem Dev.setRgb_upd (r : RegId) (s : Nat) (v : Word) (n : Nat) : (d.setRgb r s v n).upd = d.upd := rfl
@[simp] theorem Dev.setRgb_srch (r : RegId) (s : Nat) (v : Word) (n : Nat) : (d.setRgb r s v n).srch = d.srch := rfl
@[simp] theorem Dev.setRgb_kpr (r : RegId) (s : Nat) (v : Word) (n : Nat) : (d.setRgb r s v n).kpr = d.kpr := rfl
@[simp] theorem Dev.setRgb_eng (r : RegId) (s : Nat) (v : Word) (n : Nat) : (d.setRgb r s v n).eng = d.eng := rfl
@[simp] theorem Dev.setRgb_tack (r : RegId) (s : Nat) (v : Word) (n : Nat) : (d.setRgb r s v n).tack = d.tack := rfl
@[simp] theorem Dev.setRgb_hide (r : RegId) (s : Nat) (v : Word) (n : Nat) : (d.setRgb r s v n).hide = d.hide := rfl
@[simp] theorem Dev.setRgb_flash (r : RegId) (s : Nat) (v : Word) (n : Nat) : (d.setRgb r s v n).flash = d.flash := rfl
@[simp] theorem Dev.setRgb_sb (r : RegId) (s : Nat) (v : Word) (n : Nat) : (d.setRgb r s v n).sb = d.sb := rfl
@[simp] theorem Dev.setRgb_fab (r : RegId) (s : Nat) (v : Word) (n : Nat) : (d.setRgb r s v n).fab = d.fab := rfl
@[simp] theorem Dev.setRgb_lat (r : RegId) (s : Nat) (v : Word) (n : Nat) : (d.setRgb r s v n).lat = d.lat := rfl
@[simp] theorem Dev.setRgb_cmp (r : RegId) (s : Nat) (v : Word) (n : Nat) : (d.setRgb r s v n).cmp = d.cmp := rfl
@[simp] theorem Dev.setRgb_brd (r : RegId) (s : Nat) (v : Word) (n : Nat) : (d.setRgb r s v n).brd = d.brd := rfl
@[simp] theorem Dev.setRgb_mgmt (r : RegId) (s : Nat) (v : Word) (n : Nat) : (d.setRgb r s v n).mgmt = d.mgmt := rfl
@[simp] theorem Dev.setRgb_pwr (r : RegId) (s : Nat) (v : Word) (n : Nat) : (d.setRgb r s v n).pwr = d.pwr := rfl
@[simp] theorem Dev.setRgb_resp (r : RegId) (s : Nat) (v : Word) (n : Nat) : (d.setRgb r s v n).resp = d.resp := rfl

/-! `Dev.setFd` changes regs alone. -/

@[simp] theorem Dev.setFd_now (r : RegId) (hi lo v n : Nat) : (d.setFd r hi lo v n).now = d.now := rfl
@[simp] theorem Dev.setFd_aphase (r : RegId) (hi lo v n : Nat) : (d.setFd r hi lo v n).aphase = d.aphase := rfl
@[simp] theorem Dev.setFd_draws (r : RegId) (hi lo v n : Nat) : (d.setFd r hi lo v n).draws = d.draws := rfl
@[simp] theorem Dev.setFd_part (r : RegId) (hi lo v n : Nat) : (d.setFd r hi lo v n).part = d.part := rfl
@[simp] theorem Dev.setFd_stepping (r : RegId) (hi lo v n : Nat) : (d.setFd r hi lo v n).stepping = d.stepping := rfl
@[simp] theorem Dev.setFd_pins (r : RegId) (hi lo v n : Nat) : (d.setFd r hi lo v n).pins = d.pins := rfl
@[simp] theorem Dev.setFd_shadow (r : RegId) (hi lo v n : Nat) : (d.setFd r hi lo v n).shadow = d.shadow := rfl
@[simp] theorem Dev.setFd_rqSel (r : RegId) (hi lo v n : Nat) : (d.setFd r hi lo v n).rqSel = d.rqSel := rfl
@[simp] theorem Dev.setFd_fresh (r : RegId) (hi lo v n : Nat) : (d.setFd r hi lo v n).fresh = d.fresh := rfl
@[simp] theorem Dev.setFd_resetting (r : RegId) (hi lo v n : Nat) : (d.setFd r hi lo v n).resetting = d.resetting := rfl
@[simp] theorem Dev.setFd_cnts (r : RegId) (hi lo v n : Nat) : (d.setFd r hi lo v n).cnts = d.cnts := rfl
@[simp] theorem Dev.setFd_mem (r : RegId) (hi lo v n : Nat) : (d.setFd r hi lo v n).mem = d.mem := rfl
@[simp] theorem Dev.setFd_cp (r : RegId) (hi lo v n : Nat) : (d.setFd r hi lo v n).cp = d.cp := rfl
@[simp] theorem Dev.setFd_fns (r : RegId) (hi lo v n : Nat) : (d.setFd r hi lo v n).fns = d.fns := rfl
@[simp] theorem Dev.setFd_reins (r : RegId) (hi lo v n : Nat) : (d.setFd r hi lo v n).reins = d.reins := rfl
@[simp] theorem Dev.setFd_ras (r : RegId) (hi lo v n : Nat) : (d.setFd r hi lo v n).ras = d.ras := rfl
@[simp] theorem Dev.setFd_tbl (r : RegId) (hi lo v n : Nat) : (d.setFd r hi lo v n).tbl = d.tbl := rfl
@[simp] theorem Dev.setFd_upd (r : RegId) (hi lo v n : Nat) : (d.setFd r hi lo v n).upd = d.upd := rfl
@[simp] theorem Dev.setFd_srch (r : RegId) (hi lo v n : Nat) : (d.setFd r hi lo v n).srch = d.srch := rfl
@[simp] theorem Dev.setFd_kpr (r : RegId) (hi lo v n : Nat) : (d.setFd r hi lo v n).kpr = d.kpr := rfl
@[simp] theorem Dev.setFd_eng (r : RegId) (hi lo v n : Nat) : (d.setFd r hi lo v n).eng = d.eng := rfl
@[simp] theorem Dev.setFd_tack (r : RegId) (hi lo v n : Nat) : (d.setFd r hi lo v n).tack = d.tack := rfl
@[simp] theorem Dev.setFd_hide (r : RegId) (hi lo v n : Nat) : (d.setFd r hi lo v n).hide = d.hide := rfl
@[simp] theorem Dev.setFd_flash (r : RegId) (hi lo v n : Nat) : (d.setFd r hi lo v n).flash = d.flash := rfl
@[simp] theorem Dev.setFd_sb (r : RegId) (hi lo v n : Nat) : (d.setFd r hi lo v n).sb = d.sb := rfl
@[simp] theorem Dev.setFd_fab (r : RegId) (hi lo v n : Nat) : (d.setFd r hi lo v n).fab = d.fab := rfl
@[simp] theorem Dev.setFd_lat (r : RegId) (hi lo v n : Nat) : (d.setFd r hi lo v n).lat = d.lat := rfl
@[simp] theorem Dev.setFd_cmp (r : RegId) (hi lo v n : Nat) : (d.setFd r hi lo v n).cmp = d.cmp := rfl
@[simp] theorem Dev.setFd_brd (r : RegId) (hi lo v n : Nat) : (d.setFd r hi lo v n).brd = d.brd := rfl
@[simp] theorem Dev.setFd_mgmt (r : RegId) (hi lo v n : Nat) : (d.setFd r hi lo v n).mgmt = d.mgmt := rfl
@[simp] theorem Dev.setFd_pwr (r : RegId) (hi lo v n : Nat) : (d.setFd r hi lo v n).pwr = d.pwr := rfl
@[simp] theorem Dev.setFd_resp (r : RegId) (hi lo v n : Nat) : (d.setFd r hi lo v n).resp = d.resp := rfl

/-! `Dev.setFn` changes fns alone. -/

@[simp] theorem Dev.setFn_now (f : Nat) (x : Fn) : (d.setFn f x).now = d.now := rfl
@[simp] theorem Dev.setFn_aphase (f : Nat) (x : Fn) : (d.setFn f x).aphase = d.aphase := rfl
@[simp] theorem Dev.setFn_draws (f : Nat) (x : Fn) : (d.setFn f x).draws = d.draws := rfl
@[simp] theorem Dev.setFn_part (f : Nat) (x : Fn) : (d.setFn f x).part = d.part := rfl
@[simp] theorem Dev.setFn_stepping (f : Nat) (x : Fn) : (d.setFn f x).stepping = d.stepping := rfl
@[simp] theorem Dev.setFn_pins (f : Nat) (x : Fn) : (d.setFn f x).pins = d.pins := rfl
@[simp] theorem Dev.setFn_regs (f : Nat) (x : Fn) : (d.setFn f x).regs = d.regs := rfl
@[simp] theorem Dev.setFn_shadow (f : Nat) (x : Fn) : (d.setFn f x).shadow = d.shadow := rfl
@[simp] theorem Dev.setFn_rqSel (f : Nat) (x : Fn) : (d.setFn f x).rqSel = d.rqSel := rfl
@[simp] theorem Dev.setFn_fresh (f : Nat) (x : Fn) : (d.setFn f x).fresh = d.fresh := rfl
@[simp] theorem Dev.setFn_resetting (f : Nat) (x : Fn) : (d.setFn f x).resetting = d.resetting := rfl
@[simp] theorem Dev.setFn_cnts (f : Nat) (x : Fn) : (d.setFn f x).cnts = d.cnts := rfl
@[simp] theorem Dev.setFn_mem (f : Nat) (x : Fn) : (d.setFn f x).mem = d.mem := rfl
@[simp] theorem Dev.setFn_cp (f : Nat) (x : Fn) : (d.setFn f x).cp = d.cp := rfl
@[simp] theorem Dev.setFn_reins (f : Nat) (x : Fn) : (d.setFn f x).reins = d.reins := rfl
@[simp] theorem Dev.setFn_ras (f : Nat) (x : Fn) : (d.setFn f x).ras = d.ras := rfl
@[simp] theorem Dev.setFn_tbl (f : Nat) (x : Fn) : (d.setFn f x).tbl = d.tbl := rfl
@[simp] theorem Dev.setFn_upd (f : Nat) (x : Fn) : (d.setFn f x).upd = d.upd := rfl
@[simp] theorem Dev.setFn_srch (f : Nat) (x : Fn) : (d.setFn f x).srch = d.srch := rfl
@[simp] theorem Dev.setFn_kpr (f : Nat) (x : Fn) : (d.setFn f x).kpr = d.kpr := rfl
@[simp] theorem Dev.setFn_eng (f : Nat) (x : Fn) : (d.setFn f x).eng = d.eng := rfl
@[simp] theorem Dev.setFn_tack (f : Nat) (x : Fn) : (d.setFn f x).tack = d.tack := rfl
@[simp] theorem Dev.setFn_hide (f : Nat) (x : Fn) : (d.setFn f x).hide = d.hide := rfl
@[simp] theorem Dev.setFn_flash (f : Nat) (x : Fn) : (d.setFn f x).flash = d.flash := rfl
@[simp] theorem Dev.setFn_sb (f : Nat) (x : Fn) : (d.setFn f x).sb = d.sb := rfl
@[simp] theorem Dev.setFn_fab (f : Nat) (x : Fn) : (d.setFn f x).fab = d.fab := rfl
@[simp] theorem Dev.setFn_lat (f : Nat) (x : Fn) : (d.setFn f x).lat = d.lat := rfl
@[simp] theorem Dev.setFn_cmp (f : Nat) (x : Fn) : (d.setFn f x).cmp = d.cmp := rfl
@[simp] theorem Dev.setFn_brd (f : Nat) (x : Fn) : (d.setFn f x).brd = d.brd := rfl
@[simp] theorem Dev.setFn_mgmt (f : Nat) (x : Fn) : (d.setFn f x).mgmt = d.mgmt := rfl
@[simp] theorem Dev.setFn_pwr (f : Nat) (x : Fn) : (d.setFn f x).pwr = d.pwr := rfl
@[simp] theorem Dev.setFn_resp (f : Nat) (x : Fn) : (d.setFn f x).resp = d.resp := rfl

/-! `Dev.setRein` changes reins alone. -/

@[simp] theorem Dev.setRein_now (i : Nat) (x : Rein) : (d.setRein i x).now = d.now := rfl
@[simp] theorem Dev.setRein_aphase (i : Nat) (x : Rein) : (d.setRein i x).aphase = d.aphase := rfl
@[simp] theorem Dev.setRein_draws (i : Nat) (x : Rein) : (d.setRein i x).draws = d.draws := rfl
@[simp] theorem Dev.setRein_part (i : Nat) (x : Rein) : (d.setRein i x).part = d.part := rfl
@[simp] theorem Dev.setRein_stepping (i : Nat) (x : Rein) : (d.setRein i x).stepping = d.stepping := rfl
@[simp] theorem Dev.setRein_pins (i : Nat) (x : Rein) : (d.setRein i x).pins = d.pins := rfl
@[simp] theorem Dev.setRein_regs (i : Nat) (x : Rein) : (d.setRein i x).regs = d.regs := rfl
@[simp] theorem Dev.setRein_shadow (i : Nat) (x : Rein) : (d.setRein i x).shadow = d.shadow := rfl
@[simp] theorem Dev.setRein_rqSel (i : Nat) (x : Rein) : (d.setRein i x).rqSel = d.rqSel := rfl
@[simp] theorem Dev.setRein_fresh (i : Nat) (x : Rein) : (d.setRein i x).fresh = d.fresh := rfl
@[simp] theorem Dev.setRein_resetting (i : Nat) (x : Rein) : (d.setRein i x).resetting = d.resetting := rfl
@[simp] theorem Dev.setRein_cnts (i : Nat) (x : Rein) : (d.setRein i x).cnts = d.cnts := rfl
@[simp] theorem Dev.setRein_mem (i : Nat) (x : Rein) : (d.setRein i x).mem = d.mem := rfl
@[simp] theorem Dev.setRein_cp (i : Nat) (x : Rein) : (d.setRein i x).cp = d.cp := rfl
@[simp] theorem Dev.setRein_fns (i : Nat) (x : Rein) : (d.setRein i x).fns = d.fns := rfl
@[simp] theorem Dev.setRein_ras (i : Nat) (x : Rein) : (d.setRein i x).ras = d.ras := rfl
@[simp] theorem Dev.setRein_tbl (i : Nat) (x : Rein) : (d.setRein i x).tbl = d.tbl := rfl
@[simp] theorem Dev.setRein_upd (i : Nat) (x : Rein) : (d.setRein i x).upd = d.upd := rfl
@[simp] theorem Dev.setRein_srch (i : Nat) (x : Rein) : (d.setRein i x).srch = d.srch := rfl
@[simp] theorem Dev.setRein_kpr (i : Nat) (x : Rein) : (d.setRein i x).kpr = d.kpr := rfl
@[simp] theorem Dev.setRein_eng (i : Nat) (x : Rein) : (d.setRein i x).eng = d.eng := rfl
@[simp] theorem Dev.setRein_tack (i : Nat) (x : Rein) : (d.setRein i x).tack = d.tack := rfl
@[simp] theorem Dev.setRein_hide (i : Nat) (x : Rein) : (d.setRein i x).hide = d.hide := rfl
@[simp] theorem Dev.setRein_flash (i : Nat) (x : Rein) : (d.setRein i x).flash = d.flash := rfl
@[simp] theorem Dev.setRein_sb (i : Nat) (x : Rein) : (d.setRein i x).sb = d.sb := rfl
@[simp] theorem Dev.setRein_fab (i : Nat) (x : Rein) : (d.setRein i x).fab = d.fab := rfl
@[simp] theorem Dev.setRein_lat (i : Nat) (x : Rein) : (d.setRein i x).lat = d.lat := rfl
@[simp] theorem Dev.setRein_cmp (i : Nat) (x : Rein) : (d.setRein i x).cmp = d.cmp := rfl
@[simp] theorem Dev.setRein_brd (i : Nat) (x : Rein) : (d.setRein i x).brd = d.brd := rfl
@[simp] theorem Dev.setRein_mgmt (i : Nat) (x : Rein) : (d.setRein i x).mgmt = d.mgmt := rfl
@[simp] theorem Dev.setRein_pwr (i : Nat) (x : Rein) : (d.setRein i x).pwr = d.pwr := rfl
@[simp] theorem Dev.setRein_resp (i : Nat) (x : Rein) : (d.setRein i x).resp = d.resp := rfl

/-! `Dev.setCtx` changes cp alone. -/

@[simp] theorem Dev.setCtx_now (c : Nat) (x : Ctx) : (d.setCtx c x).now = d.now := rfl
@[simp] theorem Dev.setCtx_aphase (c : Nat) (x : Ctx) : (d.setCtx c x).aphase = d.aphase := rfl
@[simp] theorem Dev.setCtx_draws (c : Nat) (x : Ctx) : (d.setCtx c x).draws = d.draws := rfl
@[simp] theorem Dev.setCtx_part (c : Nat) (x : Ctx) : (d.setCtx c x).part = d.part := rfl
@[simp] theorem Dev.setCtx_stepping (c : Nat) (x : Ctx) : (d.setCtx c x).stepping = d.stepping := rfl
@[simp] theorem Dev.setCtx_pins (c : Nat) (x : Ctx) : (d.setCtx c x).pins = d.pins := rfl
@[simp] theorem Dev.setCtx_regs (c : Nat) (x : Ctx) : (d.setCtx c x).regs = d.regs := rfl
@[simp] theorem Dev.setCtx_shadow (c : Nat) (x : Ctx) : (d.setCtx c x).shadow = d.shadow := rfl
@[simp] theorem Dev.setCtx_rqSel (c : Nat) (x : Ctx) : (d.setCtx c x).rqSel = d.rqSel := rfl
@[simp] theorem Dev.setCtx_fresh (c : Nat) (x : Ctx) : (d.setCtx c x).fresh = d.fresh := rfl
@[simp] theorem Dev.setCtx_resetting (c : Nat) (x : Ctx) : (d.setCtx c x).resetting = d.resetting := rfl
@[simp] theorem Dev.setCtx_cnts (c : Nat) (x : Ctx) : (d.setCtx c x).cnts = d.cnts := rfl
@[simp] theorem Dev.setCtx_mem (c : Nat) (x : Ctx) : (d.setCtx c x).mem = d.mem := rfl
@[simp] theorem Dev.setCtx_fns (c : Nat) (x : Ctx) : (d.setCtx c x).fns = d.fns := rfl
@[simp] theorem Dev.setCtx_reins (c : Nat) (x : Ctx) : (d.setCtx c x).reins = d.reins := rfl
@[simp] theorem Dev.setCtx_ras (c : Nat) (x : Ctx) : (d.setCtx c x).ras = d.ras := rfl
@[simp] theorem Dev.setCtx_tbl (c : Nat) (x : Ctx) : (d.setCtx c x).tbl = d.tbl := rfl
@[simp] theorem Dev.setCtx_upd (c : Nat) (x : Ctx) : (d.setCtx c x).upd = d.upd := rfl
@[simp] theorem Dev.setCtx_srch (c : Nat) (x : Ctx) : (d.setCtx c x).srch = d.srch := rfl
@[simp] theorem Dev.setCtx_kpr (c : Nat) (x : Ctx) : (d.setCtx c x).kpr = d.kpr := rfl
@[simp] theorem Dev.setCtx_eng (c : Nat) (x : Ctx) : (d.setCtx c x).eng = d.eng := rfl
@[simp] theorem Dev.setCtx_tack (c : Nat) (x : Ctx) : (d.setCtx c x).tack = d.tack := rfl
@[simp] theorem Dev.setCtx_hide (c : Nat) (x : Ctx) : (d.setCtx c x).hide = d.hide := rfl
@[simp] theorem Dev.setCtx_flash (c : Nat) (x : Ctx) : (d.setCtx c x).flash = d.flash := rfl
@[simp] theorem Dev.setCtx_sb (c : Nat) (x : Ctx) : (d.setCtx c x).sb = d.sb := rfl
@[simp] theorem Dev.setCtx_fab (c : Nat) (x : Ctx) : (d.setCtx c x).fab = d.fab := rfl
@[simp] theorem Dev.setCtx_lat (c : Nat) (x : Ctx) : (d.setCtx c x).lat = d.lat := rfl
@[simp] theorem Dev.setCtx_cmp (c : Nat) (x : Ctx) : (d.setCtx c x).cmp = d.cmp := rfl
@[simp] theorem Dev.setCtx_brd (c : Nat) (x : Ctx) : (d.setCtx c x).brd = d.brd := rfl
@[simp] theorem Dev.setCtx_mgmt (c : Nat) (x : Ctx) : (d.setCtx c x).mgmt = d.mgmt := rfl
@[simp] theorem Dev.setCtx_pwr (c : Nat) (x : Ctx) : (d.setCtx c x).pwr = d.pwr := rfl
@[simp] theorem Dev.setCtx_resp (c : Nat) (x : Ctx) : (d.setCtx c x).resp = d.resp := rfl

/-! `Dev.setSearch` changes srch alone. -/

@[simp] theorem Dev.setSearch_now (s : Nat) (x : Search) : (d.setSearch s x).now = d.now := rfl
@[simp] theorem Dev.setSearch_aphase (s : Nat) (x : Search) : (d.setSearch s x).aphase = d.aphase := rfl
@[simp] theorem Dev.setSearch_draws (s : Nat) (x : Search) : (d.setSearch s x).draws = d.draws := rfl
@[simp] theorem Dev.setSearch_part (s : Nat) (x : Search) : (d.setSearch s x).part = d.part := rfl
@[simp] theorem Dev.setSearch_stepping (s : Nat) (x : Search) : (d.setSearch s x).stepping = d.stepping := rfl
@[simp] theorem Dev.setSearch_pins (s : Nat) (x : Search) : (d.setSearch s x).pins = d.pins := rfl
@[simp] theorem Dev.setSearch_regs (s : Nat) (x : Search) : (d.setSearch s x).regs = d.regs := rfl
@[simp] theorem Dev.setSearch_shadow (s : Nat) (x : Search) : (d.setSearch s x).shadow = d.shadow := rfl
@[simp] theorem Dev.setSearch_rqSel (s : Nat) (x : Search) : (d.setSearch s x).rqSel = d.rqSel := rfl
@[simp] theorem Dev.setSearch_fresh (s : Nat) (x : Search) : (d.setSearch s x).fresh = d.fresh := rfl
@[simp] theorem Dev.setSearch_resetting (s : Nat) (x : Search) : (d.setSearch s x).resetting = d.resetting := rfl
@[simp] theorem Dev.setSearch_cnts (s : Nat) (x : Search) : (d.setSearch s x).cnts = d.cnts := rfl
@[simp] theorem Dev.setSearch_mem (s : Nat) (x : Search) : (d.setSearch s x).mem = d.mem := rfl
@[simp] theorem Dev.setSearch_cp (s : Nat) (x : Search) : (d.setSearch s x).cp = d.cp := rfl
@[simp] theorem Dev.setSearch_fns (s : Nat) (x : Search) : (d.setSearch s x).fns = d.fns := rfl
@[simp] theorem Dev.setSearch_reins (s : Nat) (x : Search) : (d.setSearch s x).reins = d.reins := rfl
@[simp] theorem Dev.setSearch_ras (s : Nat) (x : Search) : (d.setSearch s x).ras = d.ras := rfl
@[simp] theorem Dev.setSearch_tbl (s : Nat) (x : Search) : (d.setSearch s x).tbl = d.tbl := rfl
@[simp] theorem Dev.setSearch_upd (s : Nat) (x : Search) : (d.setSearch s x).upd = d.upd := rfl
@[simp] theorem Dev.setSearch_kpr (s : Nat) (x : Search) : (d.setSearch s x).kpr = d.kpr := rfl
@[simp] theorem Dev.setSearch_eng (s : Nat) (x : Search) : (d.setSearch s x).eng = d.eng := rfl
@[simp] theorem Dev.setSearch_tack (s : Nat) (x : Search) : (d.setSearch s x).tack = d.tack := rfl
@[simp] theorem Dev.setSearch_hide (s : Nat) (x : Search) : (d.setSearch s x).hide = d.hide := rfl
@[simp] theorem Dev.setSearch_flash (s : Nat) (x : Search) : (d.setSearch s x).flash = d.flash := rfl
@[simp] theorem Dev.setSearch_sb (s : Nat) (x : Search) : (d.setSearch s x).sb = d.sb := rfl
@[simp] theorem Dev.setSearch_fab (s : Nat) (x : Search) : (d.setSearch s x).fab = d.fab := rfl
@[simp] theorem Dev.setSearch_lat (s : Nat) (x : Search) : (d.setSearch s x).lat = d.lat := rfl
@[simp] theorem Dev.setSearch_cmp (s : Nat) (x : Search) : (d.setSearch s x).cmp = d.cmp := rfl
@[simp] theorem Dev.setSearch_brd (s : Nat) (x : Search) : (d.setSearch s x).brd = d.brd := rfl
@[simp] theorem Dev.setSearch_mgmt (s : Nat) (x : Search) : (d.setSearch s x).mgmt = d.mgmt := rfl
@[simp] theorem Dev.setSearch_pwr (s : Nat) (x : Search) : (d.setSearch s x).pwr = d.pwr := rfl
@[simp] theorem Dev.setSearch_resp (s : Nat) (x : Search) : (d.setSearch s x).resp = d.resp := rfl

/-! `Dev.setQuery` changes srch alone. -/

@[simp] theorem Dev.setQuery_now (k : Nat) (x : Query) : (d.setQuery k x).now = d.now := rfl
@[simp] theorem Dev.setQuery_aphase (k : Nat) (x : Query) : (d.setQuery k x).aphase = d.aphase := rfl
@[simp] theorem Dev.setQuery_draws (k : Nat) (x : Query) : (d.setQuery k x).draws = d.draws := rfl
@[simp] theorem Dev.setQuery_part (k : Nat) (x : Query) : (d.setQuery k x).part = d.part := rfl
@[simp] theorem Dev.setQuery_stepping (k : Nat) (x : Query) : (d.setQuery k x).stepping = d.stepping := rfl
@[simp] theorem Dev.setQuery_pins (k : Nat) (x : Query) : (d.setQuery k x).pins = d.pins := rfl
@[simp] theorem Dev.setQuery_regs (k : Nat) (x : Query) : (d.setQuery k x).regs = d.regs := rfl
@[simp] theorem Dev.setQuery_shadow (k : Nat) (x : Query) : (d.setQuery k x).shadow = d.shadow := rfl
@[simp] theorem Dev.setQuery_rqSel (k : Nat) (x : Query) : (d.setQuery k x).rqSel = d.rqSel := rfl
@[simp] theorem Dev.setQuery_fresh (k : Nat) (x : Query) : (d.setQuery k x).fresh = d.fresh := rfl
@[simp] theorem Dev.setQuery_resetting (k : Nat) (x : Query) : (d.setQuery k x).resetting = d.resetting := rfl
@[simp] theorem Dev.setQuery_cnts (k : Nat) (x : Query) : (d.setQuery k x).cnts = d.cnts := rfl
@[simp] theorem Dev.setQuery_mem (k : Nat) (x : Query) : (d.setQuery k x).mem = d.mem := rfl
@[simp] theorem Dev.setQuery_cp (k : Nat) (x : Query) : (d.setQuery k x).cp = d.cp := rfl
@[simp] theorem Dev.setQuery_fns (k : Nat) (x : Query) : (d.setQuery k x).fns = d.fns := rfl
@[simp] theorem Dev.setQuery_reins (k : Nat) (x : Query) : (d.setQuery k x).reins = d.reins := rfl
@[simp] theorem Dev.setQuery_ras (k : Nat) (x : Query) : (d.setQuery k x).ras = d.ras := rfl
@[simp] theorem Dev.setQuery_tbl (k : Nat) (x : Query) : (d.setQuery k x).tbl = d.tbl := rfl
@[simp] theorem Dev.setQuery_upd (k : Nat) (x : Query) : (d.setQuery k x).upd = d.upd := rfl
@[simp] theorem Dev.setQuery_kpr (k : Nat) (x : Query) : (d.setQuery k x).kpr = d.kpr := rfl
@[simp] theorem Dev.setQuery_eng (k : Nat) (x : Query) : (d.setQuery k x).eng = d.eng := rfl
@[simp] theorem Dev.setQuery_tack (k : Nat) (x : Query) : (d.setQuery k x).tack = d.tack := rfl
@[simp] theorem Dev.setQuery_hide (k : Nat) (x : Query) : (d.setQuery k x).hide = d.hide := rfl
@[simp] theorem Dev.setQuery_flash (k : Nat) (x : Query) : (d.setQuery k x).flash = d.flash := rfl
@[simp] theorem Dev.setQuery_sb (k : Nat) (x : Query) : (d.setQuery k x).sb = d.sb := rfl
@[simp] theorem Dev.setQuery_fab (k : Nat) (x : Query) : (d.setQuery k x).fab = d.fab := rfl
@[simp] theorem Dev.setQuery_lat (k : Nat) (x : Query) : (d.setQuery k x).lat = d.lat := rfl
@[simp] theorem Dev.setQuery_cmp (k : Nat) (x : Query) : (d.setQuery k x).cmp = d.cmp := rfl
@[simp] theorem Dev.setQuery_brd (k : Nat) (x : Query) : (d.setQuery k x).brd = d.brd := rfl
@[simp] theorem Dev.setQuery_mgmt (k : Nat) (x : Query) : (d.setQuery k x).mgmt = d.mgmt := rfl
@[simp] theorem Dev.setQuery_pwr (k : Nat) (x : Query) : (d.setQuery k x).pwr = d.pwr := rfl
@[simp] theorem Dev.setQuery_resp (k : Nat) (x : Query) : (d.setQuery k x).resp = d.resp := rfl

/-! `Dev.setStream` changes srch alone. -/

@[simp] theorem Dev.setStream_now (s : Nat) (x : Stream) : (d.setStream s x).now = d.now := rfl
@[simp] theorem Dev.setStream_aphase (s : Nat) (x : Stream) : (d.setStream s x).aphase = d.aphase := rfl
@[simp] theorem Dev.setStream_draws (s : Nat) (x : Stream) : (d.setStream s x).draws = d.draws := rfl
@[simp] theorem Dev.setStream_part (s : Nat) (x : Stream) : (d.setStream s x).part = d.part := rfl
@[simp] theorem Dev.setStream_stepping (s : Nat) (x : Stream) : (d.setStream s x).stepping = d.stepping := rfl
@[simp] theorem Dev.setStream_pins (s : Nat) (x : Stream) : (d.setStream s x).pins = d.pins := rfl
@[simp] theorem Dev.setStream_regs (s : Nat) (x : Stream) : (d.setStream s x).regs = d.regs := rfl
@[simp] theorem Dev.setStream_shadow (s : Nat) (x : Stream) : (d.setStream s x).shadow = d.shadow := rfl
@[simp] theorem Dev.setStream_rqSel (s : Nat) (x : Stream) : (d.setStream s x).rqSel = d.rqSel := rfl
@[simp] theorem Dev.setStream_fresh (s : Nat) (x : Stream) : (d.setStream s x).fresh = d.fresh := rfl
@[simp] theorem Dev.setStream_resetting (s : Nat) (x : Stream) : (d.setStream s x).resetting = d.resetting := rfl
@[simp] theorem Dev.setStream_cnts (s : Nat) (x : Stream) : (d.setStream s x).cnts = d.cnts := rfl
@[simp] theorem Dev.setStream_mem (s : Nat) (x : Stream) : (d.setStream s x).mem = d.mem := rfl
@[simp] theorem Dev.setStream_cp (s : Nat) (x : Stream) : (d.setStream s x).cp = d.cp := rfl
@[simp] theorem Dev.setStream_fns (s : Nat) (x : Stream) : (d.setStream s x).fns = d.fns := rfl
@[simp] theorem Dev.setStream_reins (s : Nat) (x : Stream) : (d.setStream s x).reins = d.reins := rfl
@[simp] theorem Dev.setStream_ras (s : Nat) (x : Stream) : (d.setStream s x).ras = d.ras := rfl
@[simp] theorem Dev.setStream_tbl (s : Nat) (x : Stream) : (d.setStream s x).tbl = d.tbl := rfl
@[simp] theorem Dev.setStream_upd (s : Nat) (x : Stream) : (d.setStream s x).upd = d.upd := rfl
@[simp] theorem Dev.setStream_kpr (s : Nat) (x : Stream) : (d.setStream s x).kpr = d.kpr := rfl
@[simp] theorem Dev.setStream_eng (s : Nat) (x : Stream) : (d.setStream s x).eng = d.eng := rfl
@[simp] theorem Dev.setStream_tack (s : Nat) (x : Stream) : (d.setStream s x).tack = d.tack := rfl
@[simp] theorem Dev.setStream_hide (s : Nat) (x : Stream) : (d.setStream s x).hide = d.hide := rfl
@[simp] theorem Dev.setStream_flash (s : Nat) (x : Stream) : (d.setStream s x).flash = d.flash := rfl
@[simp] theorem Dev.setStream_sb (s : Nat) (x : Stream) : (d.setStream s x).sb = d.sb := rfl
@[simp] theorem Dev.setStream_fab (s : Nat) (x : Stream) : (d.setStream s x).fab = d.fab := rfl
@[simp] theorem Dev.setStream_lat (s : Nat) (x : Stream) : (d.setStream s x).lat = d.lat := rfl
@[simp] theorem Dev.setStream_cmp (s : Nat) (x : Stream) : (d.setStream s x).cmp = d.cmp := rfl
@[simp] theorem Dev.setStream_brd (s : Nat) (x : Stream) : (d.setStream s x).brd = d.brd := rfl
@[simp] theorem Dev.setStream_mgmt (s : Nat) (x : Stream) : (d.setStream s x).mgmt = d.mgmt := rfl
@[simp] theorem Dev.setStream_pwr (s : Nat) (x : Stream) : (d.setStream s x).pwr = d.pwr := rfl
@[simp] theorem Dev.setStream_resp (s : Nat) (x : Stream) : (d.setStream s x).resp = d.resp := rfl

/-! `Dev.setEngine` changes eng alone. -/

@[simp] theorem Dev.setEngine_now (e : Nat) (x : Engine) : (d.setEngine e x).now = d.now := rfl
@[simp] theorem Dev.setEngine_aphase (e : Nat) (x : Engine) : (d.setEngine e x).aphase = d.aphase := rfl
@[simp] theorem Dev.setEngine_draws (e : Nat) (x : Engine) : (d.setEngine e x).draws = d.draws := rfl
@[simp] theorem Dev.setEngine_part (e : Nat) (x : Engine) : (d.setEngine e x).part = d.part := rfl
@[simp] theorem Dev.setEngine_stepping (e : Nat) (x : Engine) : (d.setEngine e x).stepping = d.stepping := rfl
@[simp] theorem Dev.setEngine_pins (e : Nat) (x : Engine) : (d.setEngine e x).pins = d.pins := rfl
@[simp] theorem Dev.setEngine_regs (e : Nat) (x : Engine) : (d.setEngine e x).regs = d.regs := rfl
@[simp] theorem Dev.setEngine_shadow (e : Nat) (x : Engine) : (d.setEngine e x).shadow = d.shadow := rfl
@[simp] theorem Dev.setEngine_rqSel (e : Nat) (x : Engine) : (d.setEngine e x).rqSel = d.rqSel := rfl
@[simp] theorem Dev.setEngine_fresh (e : Nat) (x : Engine) : (d.setEngine e x).fresh = d.fresh := rfl
@[simp] theorem Dev.setEngine_resetting (e : Nat) (x : Engine) : (d.setEngine e x).resetting = d.resetting := rfl
@[simp] theorem Dev.setEngine_cnts (e : Nat) (x : Engine) : (d.setEngine e x).cnts = d.cnts := rfl
@[simp] theorem Dev.setEngine_mem (e : Nat) (x : Engine) : (d.setEngine e x).mem = d.mem := rfl
@[simp] theorem Dev.setEngine_cp (e : Nat) (x : Engine) : (d.setEngine e x).cp = d.cp := rfl
@[simp] theorem Dev.setEngine_fns (e : Nat) (x : Engine) : (d.setEngine e x).fns = d.fns := rfl
@[simp] theorem Dev.setEngine_reins (e : Nat) (x : Engine) : (d.setEngine e x).reins = d.reins := rfl
@[simp] theorem Dev.setEngine_ras (e : Nat) (x : Engine) : (d.setEngine e x).ras = d.ras := rfl
@[simp] theorem Dev.setEngine_tbl (e : Nat) (x : Engine) : (d.setEngine e x).tbl = d.tbl := rfl
@[simp] theorem Dev.setEngine_upd (e : Nat) (x : Engine) : (d.setEngine e x).upd = d.upd := rfl
@[simp] theorem Dev.setEngine_srch (e : Nat) (x : Engine) : (d.setEngine e x).srch = d.srch := rfl
@[simp] theorem Dev.setEngine_kpr (e : Nat) (x : Engine) : (d.setEngine e x).kpr = d.kpr := rfl
@[simp] theorem Dev.setEngine_tack (e : Nat) (x : Engine) : (d.setEngine e x).tack = d.tack := rfl
@[simp] theorem Dev.setEngine_hide (e : Nat) (x : Engine) : (d.setEngine e x).hide = d.hide := rfl
@[simp] theorem Dev.setEngine_flash (e : Nat) (x : Engine) : (d.setEngine e x).flash = d.flash := rfl
@[simp] theorem Dev.setEngine_sb (e : Nat) (x : Engine) : (d.setEngine e x).sb = d.sb := rfl
@[simp] theorem Dev.setEngine_fab (e : Nat) (x : Engine) : (d.setEngine e x).fab = d.fab := rfl
@[simp] theorem Dev.setEngine_lat (e : Nat) (x : Engine) : (d.setEngine e x).lat = d.lat := rfl
@[simp] theorem Dev.setEngine_cmp (e : Nat) (x : Engine) : (d.setEngine e x).cmp = d.cmp := rfl
@[simp] theorem Dev.setEngine_brd (e : Nat) (x : Engine) : (d.setEngine e x).brd = d.brd := rfl
@[simp] theorem Dev.setEngine_mgmt (e : Nat) (x : Engine) : (d.setEngine e x).mgmt = d.mgmt := rfl
@[simp] theorem Dev.setEngine_pwr (e : Nat) (x : Engine) : (d.setEngine e x).pwr = d.pwr := rfl
@[simp] theorem Dev.setEngine_resp (e : Nat) (x : Engine) : (d.setEngine e x).resp = d.resp := rfl

/-! `Dev.setGroup` changes eng alone. -/

@[simp] theorem Dev.setGroup_now (g : Nat) (x : Group) : (d.setGroup g x).now = d.now := rfl
@[simp] theorem Dev.setGroup_aphase (g : Nat) (x : Group) : (d.setGroup g x).aphase = d.aphase := rfl
@[simp] theorem Dev.setGroup_draws (g : Nat) (x : Group) : (d.setGroup g x).draws = d.draws := rfl
@[simp] theorem Dev.setGroup_part (g : Nat) (x : Group) : (d.setGroup g x).part = d.part := rfl
@[simp] theorem Dev.setGroup_stepping (g : Nat) (x : Group) : (d.setGroup g x).stepping = d.stepping := rfl
@[simp] theorem Dev.setGroup_pins (g : Nat) (x : Group) : (d.setGroup g x).pins = d.pins := rfl
@[simp] theorem Dev.setGroup_regs (g : Nat) (x : Group) : (d.setGroup g x).regs = d.regs := rfl
@[simp] theorem Dev.setGroup_shadow (g : Nat) (x : Group) : (d.setGroup g x).shadow = d.shadow := rfl
@[simp] theorem Dev.setGroup_rqSel (g : Nat) (x : Group) : (d.setGroup g x).rqSel = d.rqSel := rfl
@[simp] theorem Dev.setGroup_fresh (g : Nat) (x : Group) : (d.setGroup g x).fresh = d.fresh := rfl
@[simp] theorem Dev.setGroup_resetting (g : Nat) (x : Group) : (d.setGroup g x).resetting = d.resetting := rfl
@[simp] theorem Dev.setGroup_cnts (g : Nat) (x : Group) : (d.setGroup g x).cnts = d.cnts := rfl
@[simp] theorem Dev.setGroup_mem (g : Nat) (x : Group) : (d.setGroup g x).mem = d.mem := rfl
@[simp] theorem Dev.setGroup_cp (g : Nat) (x : Group) : (d.setGroup g x).cp = d.cp := rfl
@[simp] theorem Dev.setGroup_fns (g : Nat) (x : Group) : (d.setGroup g x).fns = d.fns := rfl
@[simp] theorem Dev.setGroup_reins (g : Nat) (x : Group) : (d.setGroup g x).reins = d.reins := rfl
@[simp] theorem Dev.setGroup_ras (g : Nat) (x : Group) : (d.setGroup g x).ras = d.ras := rfl
@[simp] theorem Dev.setGroup_tbl (g : Nat) (x : Group) : (d.setGroup g x).tbl = d.tbl := rfl
@[simp] theorem Dev.setGroup_upd (g : Nat) (x : Group) : (d.setGroup g x).upd = d.upd := rfl
@[simp] theorem Dev.setGroup_srch (g : Nat) (x : Group) : (d.setGroup g x).srch = d.srch := rfl
@[simp] theorem Dev.setGroup_kpr (g : Nat) (x : Group) : (d.setGroup g x).kpr = d.kpr := rfl
@[simp] theorem Dev.setGroup_tack (g : Nat) (x : Group) : (d.setGroup g x).tack = d.tack := rfl
@[simp] theorem Dev.setGroup_hide (g : Nat) (x : Group) : (d.setGroup g x).hide = d.hide := rfl
@[simp] theorem Dev.setGroup_flash (g : Nat) (x : Group) : (d.setGroup g x).flash = d.flash := rfl
@[simp] theorem Dev.setGroup_sb (g : Nat) (x : Group) : (d.setGroup g x).sb = d.sb := rfl
@[simp] theorem Dev.setGroup_fab (g : Nat) (x : Group) : (d.setGroup g x).fab = d.fab := rfl
@[simp] theorem Dev.setGroup_lat (g : Nat) (x : Group) : (d.setGroup g x).lat = d.lat := rfl
@[simp] theorem Dev.setGroup_cmp (g : Nat) (x : Group) : (d.setGroup g x).cmp = d.cmp := rfl
@[simp] theorem Dev.setGroup_brd (g : Nat) (x : Group) : (d.setGroup g x).brd = d.brd := rfl
@[simp] theorem Dev.setGroup_mgmt (g : Nat) (x : Group) : (d.setGroup g x).mgmt = d.mgmt := rfl
@[simp] theorem Dev.setGroup_pwr (g : Nat) (x : Group) : (d.setGroup g x).pwr = d.pwr := rfl
@[simp] theorem Dev.setGroup_resp (g : Nat) (x : Group) : (d.setGroup g x).resp = d.resp := rfl

/-! `Dev.setSlot` changes eng alone. -/

@[simp] theorem Dev.setSlot_now (e j : Nat) (x : Slot) : (d.setSlot e j x).now = d.now := rfl
@[simp] theorem Dev.setSlot_aphase (e j : Nat) (x : Slot) : (d.setSlot e j x).aphase = d.aphase := rfl
@[simp] theorem Dev.setSlot_draws (e j : Nat) (x : Slot) : (d.setSlot e j x).draws = d.draws := rfl
@[simp] theorem Dev.setSlot_part (e j : Nat) (x : Slot) : (d.setSlot e j x).part = d.part := rfl
@[simp] theorem Dev.setSlot_stepping (e j : Nat) (x : Slot) : (d.setSlot e j x).stepping = d.stepping := rfl
@[simp] theorem Dev.setSlot_pins (e j : Nat) (x : Slot) : (d.setSlot e j x).pins = d.pins := rfl
@[simp] theorem Dev.setSlot_regs (e j : Nat) (x : Slot) : (d.setSlot e j x).regs = d.regs := rfl
@[simp] theorem Dev.setSlot_shadow (e j : Nat) (x : Slot) : (d.setSlot e j x).shadow = d.shadow := rfl
@[simp] theorem Dev.setSlot_rqSel (e j : Nat) (x : Slot) : (d.setSlot e j x).rqSel = d.rqSel := rfl
@[simp] theorem Dev.setSlot_fresh (e j : Nat) (x : Slot) : (d.setSlot e j x).fresh = d.fresh := rfl
@[simp] theorem Dev.setSlot_resetting (e j : Nat) (x : Slot) : (d.setSlot e j x).resetting = d.resetting := rfl
@[simp] theorem Dev.setSlot_cnts (e j : Nat) (x : Slot) : (d.setSlot e j x).cnts = d.cnts := rfl
@[simp] theorem Dev.setSlot_mem (e j : Nat) (x : Slot) : (d.setSlot e j x).mem = d.mem := rfl
@[simp] theorem Dev.setSlot_cp (e j : Nat) (x : Slot) : (d.setSlot e j x).cp = d.cp := rfl
@[simp] theorem Dev.setSlot_fns (e j : Nat) (x : Slot) : (d.setSlot e j x).fns = d.fns := rfl
@[simp] theorem Dev.setSlot_reins (e j : Nat) (x : Slot) : (d.setSlot e j x).reins = d.reins := rfl
@[simp] theorem Dev.setSlot_ras (e j : Nat) (x : Slot) : (d.setSlot e j x).ras = d.ras := rfl
@[simp] theorem Dev.setSlot_tbl (e j : Nat) (x : Slot) : (d.setSlot e j x).tbl = d.tbl := rfl
@[simp] theorem Dev.setSlot_upd (e j : Nat) (x : Slot) : (d.setSlot e j x).upd = d.upd := rfl
@[simp] theorem Dev.setSlot_srch (e j : Nat) (x : Slot) : (d.setSlot e j x).srch = d.srch := rfl
@[simp] theorem Dev.setSlot_kpr (e j : Nat) (x : Slot) : (d.setSlot e j x).kpr = d.kpr := rfl
@[simp] theorem Dev.setSlot_tack (e j : Nat) (x : Slot) : (d.setSlot e j x).tack = d.tack := rfl
@[simp] theorem Dev.setSlot_hide (e j : Nat) (x : Slot) : (d.setSlot e j x).hide = d.hide := rfl
@[simp] theorem Dev.setSlot_flash (e j : Nat) (x : Slot) : (d.setSlot e j x).flash = d.flash := rfl
@[simp] theorem Dev.setSlot_sb (e j : Nat) (x : Slot) : (d.setSlot e j x).sb = d.sb := rfl
@[simp] theorem Dev.setSlot_fab (e j : Nat) (x : Slot) : (d.setSlot e j x).fab = d.fab := rfl
@[simp] theorem Dev.setSlot_lat (e j : Nat) (x : Slot) : (d.setSlot e j x).lat = d.lat := rfl
@[simp] theorem Dev.setSlot_cmp (e j : Nat) (x : Slot) : (d.setSlot e j x).cmp = d.cmp := rfl
@[simp] theorem Dev.setSlot_brd (e j : Nat) (x : Slot) : (d.setSlot e j x).brd = d.brd := rfl
@[simp] theorem Dev.setSlot_mgmt (e j : Nat) (x : Slot) : (d.setSlot e j x).mgmt = d.mgmt := rfl
@[simp] theorem Dev.setSlot_pwr (e j : Nat) (x : Slot) : (d.setSlot e j x).pwr = d.pwr := rfl
@[simp] theorem Dev.setSlot_resp (e j : Nat) (x : Slot) : (d.setSlot e j x).resp = d.resp := rfl

/-! `Dev.setBar` changes eng alone. -/

@[simp] theorem Dev.setBar_now (g b : Nat) (x : Barrier) : (d.setBar g b x).now = d.now := rfl
@[simp] theorem Dev.setBar_aphase (g b : Nat) (x : Barrier) : (d.setBar g b x).aphase = d.aphase := rfl
@[simp] theorem Dev.setBar_draws (g b : Nat) (x : Barrier) : (d.setBar g b x).draws = d.draws := rfl
@[simp] theorem Dev.setBar_part (g b : Nat) (x : Barrier) : (d.setBar g b x).part = d.part := rfl
@[simp] theorem Dev.setBar_stepping (g b : Nat) (x : Barrier) : (d.setBar g b x).stepping = d.stepping := rfl
@[simp] theorem Dev.setBar_pins (g b : Nat) (x : Barrier) : (d.setBar g b x).pins = d.pins := rfl
@[simp] theorem Dev.setBar_regs (g b : Nat) (x : Barrier) : (d.setBar g b x).regs = d.regs := rfl
@[simp] theorem Dev.setBar_shadow (g b : Nat) (x : Barrier) : (d.setBar g b x).shadow = d.shadow := rfl
@[simp] theorem Dev.setBar_rqSel (g b : Nat) (x : Barrier) : (d.setBar g b x).rqSel = d.rqSel := rfl
@[simp] theorem Dev.setBar_fresh (g b : Nat) (x : Barrier) : (d.setBar g b x).fresh = d.fresh := rfl
@[simp] theorem Dev.setBar_resetting (g b : Nat) (x : Barrier) : (d.setBar g b x).resetting = d.resetting := rfl
@[simp] theorem Dev.setBar_cnts (g b : Nat) (x : Barrier) : (d.setBar g b x).cnts = d.cnts := rfl
@[simp] theorem Dev.setBar_mem (g b : Nat) (x : Barrier) : (d.setBar g b x).mem = d.mem := rfl
@[simp] theorem Dev.setBar_cp (g b : Nat) (x : Barrier) : (d.setBar g b x).cp = d.cp := rfl
@[simp] theorem Dev.setBar_fns (g b : Nat) (x : Barrier) : (d.setBar g b x).fns = d.fns := rfl
@[simp] theorem Dev.setBar_reins (g b : Nat) (x : Barrier) : (d.setBar g b x).reins = d.reins := rfl
@[simp] theorem Dev.setBar_ras (g b : Nat) (x : Barrier) : (d.setBar g b x).ras = d.ras := rfl
@[simp] theorem Dev.setBar_tbl (g b : Nat) (x : Barrier) : (d.setBar g b x).tbl = d.tbl := rfl
@[simp] theorem Dev.setBar_upd (g b : Nat) (x : Barrier) : (d.setBar g b x).upd = d.upd := rfl
@[simp] theorem Dev.setBar_srch (g b : Nat) (x : Barrier) : (d.setBar g b x).srch = d.srch := rfl
@[simp] theorem Dev.setBar_kpr (g b : Nat) (x : Barrier) : (d.setBar g b x).kpr = d.kpr := rfl
@[simp] theorem Dev.setBar_tack (g b : Nat) (x : Barrier) : (d.setBar g b x).tack = d.tack := rfl
@[simp] theorem Dev.setBar_hide (g b : Nat) (x : Barrier) : (d.setBar g b x).hide = d.hide := rfl
@[simp] theorem Dev.setBar_flash (g b : Nat) (x : Barrier) : (d.setBar g b x).flash = d.flash := rfl
@[simp] theorem Dev.setBar_sb (g b : Nat) (x : Barrier) : (d.setBar g b x).sb = d.sb := rfl
@[simp] theorem Dev.setBar_fab (g b : Nat) (x : Barrier) : (d.setBar g b x).fab = d.fab := rfl
@[simp] theorem Dev.setBar_lat (g b : Nat) (x : Barrier) : (d.setBar g b x).lat = d.lat := rfl
@[simp] theorem Dev.setBar_cmp (g b : Nat) (x : Barrier) : (d.setBar g b x).cmp = d.cmp := rfl
@[simp] theorem Dev.setBar_brd (g b : Nat) (x : Barrier) : (d.setBar g b x).brd = d.brd := rfl
@[simp] theorem Dev.setBar_mgmt (g b : Nat) (x : Barrier) : (d.setBar g b x).mgmt = d.mgmt := rfl
@[simp] theorem Dev.setBar_pwr (g b : Nat) (x : Barrier) : (d.setBar g b x).pwr = d.pwr := rfl
@[simp] theorem Dev.setBar_resp (g b : Nat) (x : Barrier) : (d.setBar g b x).resp = d.resp := rfl

/-! `Dev.setRun` changes eng alone. -/

@[simp] theorem Dev.setRun_now (r : Nat) (x : Run) : (d.setRun r x).now = d.now := rfl
@[simp] theorem Dev.setRun_aphase (r : Nat) (x : Run) : (d.setRun r x).aphase = d.aphase := rfl
@[simp] theorem Dev.setRun_draws (r : Nat) (x : Run) : (d.setRun r x).draws = d.draws := rfl
@[simp] theorem Dev.setRun_part (r : Nat) (x : Run) : (d.setRun r x).part = d.part := rfl
@[simp] theorem Dev.setRun_stepping (r : Nat) (x : Run) : (d.setRun r x).stepping = d.stepping := rfl
@[simp] theorem Dev.setRun_pins (r : Nat) (x : Run) : (d.setRun r x).pins = d.pins := rfl
@[simp] theorem Dev.setRun_regs (r : Nat) (x : Run) : (d.setRun r x).regs = d.regs := rfl
@[simp] theorem Dev.setRun_shadow (r : Nat) (x : Run) : (d.setRun r x).shadow = d.shadow := rfl
@[simp] theorem Dev.setRun_rqSel (r : Nat) (x : Run) : (d.setRun r x).rqSel = d.rqSel := rfl
@[simp] theorem Dev.setRun_fresh (r : Nat) (x : Run) : (d.setRun r x).fresh = d.fresh := rfl
@[simp] theorem Dev.setRun_resetting (r : Nat) (x : Run) : (d.setRun r x).resetting = d.resetting := rfl
@[simp] theorem Dev.setRun_cnts (r : Nat) (x : Run) : (d.setRun r x).cnts = d.cnts := rfl
@[simp] theorem Dev.setRun_mem (r : Nat) (x : Run) : (d.setRun r x).mem = d.mem := rfl
@[simp] theorem Dev.setRun_cp (r : Nat) (x : Run) : (d.setRun r x).cp = d.cp := rfl
@[simp] theorem Dev.setRun_fns (r : Nat) (x : Run) : (d.setRun r x).fns = d.fns := rfl
@[simp] theorem Dev.setRun_reins (r : Nat) (x : Run) : (d.setRun r x).reins = d.reins := rfl
@[simp] theorem Dev.setRun_ras (r : Nat) (x : Run) : (d.setRun r x).ras = d.ras := rfl
@[simp] theorem Dev.setRun_tbl (r : Nat) (x : Run) : (d.setRun r x).tbl = d.tbl := rfl
@[simp] theorem Dev.setRun_upd (r : Nat) (x : Run) : (d.setRun r x).upd = d.upd := rfl
@[simp] theorem Dev.setRun_srch (r : Nat) (x : Run) : (d.setRun r x).srch = d.srch := rfl
@[simp] theorem Dev.setRun_kpr (r : Nat) (x : Run) : (d.setRun r x).kpr = d.kpr := rfl
@[simp] theorem Dev.setRun_tack (r : Nat) (x : Run) : (d.setRun r x).tack = d.tack := rfl
@[simp] theorem Dev.setRun_hide (r : Nat) (x : Run) : (d.setRun r x).hide = d.hide := rfl
@[simp] theorem Dev.setRun_flash (r : Nat) (x : Run) : (d.setRun r x).flash = d.flash := rfl
@[simp] theorem Dev.setRun_sb (r : Nat) (x : Run) : (d.setRun r x).sb = d.sb := rfl
@[simp] theorem Dev.setRun_fab (r : Nat) (x : Run) : (d.setRun r x).fab = d.fab := rfl
@[simp] theorem Dev.setRun_lat (r : Nat) (x : Run) : (d.setRun r x).lat = d.lat := rfl
@[simp] theorem Dev.setRun_cmp (r : Nat) (x : Run) : (d.setRun r x).cmp = d.cmp := rfl
@[simp] theorem Dev.setRun_brd (r : Nat) (x : Run) : (d.setRun r x).brd = d.brd := rfl
@[simp] theorem Dev.setRun_mgmt (r : Nat) (x : Run) : (d.setRun r x).mgmt = d.mgmt := rfl
@[simp] theorem Dev.setRun_pwr (r : Nat) (x : Run) : (d.setRun r x).pwr = d.pwr := rfl
@[simp] theorem Dev.setRun_resp (r : Nat) (x : Run) : (d.setRun r x).resp = d.resp := rfl

/-! `Dev.setChan` changes flash alone. -/

@[simp] theorem Dev.setChan_now (c : Nat) (x : Channel) : (d.setChan c x).now = d.now := rfl
@[simp] theorem Dev.setChan_aphase (c : Nat) (x : Channel) : (d.setChan c x).aphase = d.aphase := rfl
@[simp] theorem Dev.setChan_draws (c : Nat) (x : Channel) : (d.setChan c x).draws = d.draws := rfl
@[simp] theorem Dev.setChan_part (c : Nat) (x : Channel) : (d.setChan c x).part = d.part := rfl
@[simp] theorem Dev.setChan_stepping (c : Nat) (x : Channel) : (d.setChan c x).stepping = d.stepping := rfl
@[simp] theorem Dev.setChan_pins (c : Nat) (x : Channel) : (d.setChan c x).pins = d.pins := rfl
@[simp] theorem Dev.setChan_regs (c : Nat) (x : Channel) : (d.setChan c x).regs = d.regs := rfl
@[simp] theorem Dev.setChan_shadow (c : Nat) (x : Channel) : (d.setChan c x).shadow = d.shadow := rfl
@[simp] theorem Dev.setChan_rqSel (c : Nat) (x : Channel) : (d.setChan c x).rqSel = d.rqSel := rfl
@[simp] theorem Dev.setChan_fresh (c : Nat) (x : Channel) : (d.setChan c x).fresh = d.fresh := rfl
@[simp] theorem Dev.setChan_resetting (c : Nat) (x : Channel) : (d.setChan c x).resetting = d.resetting := rfl
@[simp] theorem Dev.setChan_cnts (c : Nat) (x : Channel) : (d.setChan c x).cnts = d.cnts := rfl
@[simp] theorem Dev.setChan_mem (c : Nat) (x : Channel) : (d.setChan c x).mem = d.mem := rfl
@[simp] theorem Dev.setChan_cp (c : Nat) (x : Channel) : (d.setChan c x).cp = d.cp := rfl
@[simp] theorem Dev.setChan_fns (c : Nat) (x : Channel) : (d.setChan c x).fns = d.fns := rfl
@[simp] theorem Dev.setChan_reins (c : Nat) (x : Channel) : (d.setChan c x).reins = d.reins := rfl
@[simp] theorem Dev.setChan_ras (c : Nat) (x : Channel) : (d.setChan c x).ras = d.ras := rfl
@[simp] theorem Dev.setChan_tbl (c : Nat) (x : Channel) : (d.setChan c x).tbl = d.tbl := rfl
@[simp] theorem Dev.setChan_upd (c : Nat) (x : Channel) : (d.setChan c x).upd = d.upd := rfl
@[simp] theorem Dev.setChan_srch (c : Nat) (x : Channel) : (d.setChan c x).srch = d.srch := rfl
@[simp] theorem Dev.setChan_kpr (c : Nat) (x : Channel) : (d.setChan c x).kpr = d.kpr := rfl
@[simp] theorem Dev.setChan_eng (c : Nat) (x : Channel) : (d.setChan c x).eng = d.eng := rfl
@[simp] theorem Dev.setChan_tack (c : Nat) (x : Channel) : (d.setChan c x).tack = d.tack := rfl
@[simp] theorem Dev.setChan_hide (c : Nat) (x : Channel) : (d.setChan c x).hide = d.hide := rfl
@[simp] theorem Dev.setChan_sb (c : Nat) (x : Channel) : (d.setChan c x).sb = d.sb := rfl
@[simp] theorem Dev.setChan_fab (c : Nat) (x : Channel) : (d.setChan c x).fab = d.fab := rfl
@[simp] theorem Dev.setChan_lat (c : Nat) (x : Channel) : (d.setChan c x).lat = d.lat := rfl
@[simp] theorem Dev.setChan_cmp (c : Nat) (x : Channel) : (d.setChan c x).cmp = d.cmp := rfl
@[simp] theorem Dev.setChan_brd (c : Nat) (x : Channel) : (d.setChan c x).brd = d.brd := rfl
@[simp] theorem Dev.setChan_mgmt (c : Nat) (x : Channel) : (d.setChan c x).mgmt = d.mgmt := rfl
@[simp] theorem Dev.setChan_pwr (c : Nat) (x : Channel) : (d.setChan c x).pwr = d.pwr := rfl
@[simp] theorem Dev.setChan_resp (c : Nat) (x : Channel) : (d.setChan c x).resp = d.resp := rfl

/-! `Dev.setStack` changes hide alone. -/

@[simp] theorem Dev.setStack_now (n : Nat) (x : Stack) : (d.setStack n x).now = d.now := rfl
@[simp] theorem Dev.setStack_aphase (n : Nat) (x : Stack) : (d.setStack n x).aphase = d.aphase := rfl
@[simp] theorem Dev.setStack_draws (n : Nat) (x : Stack) : (d.setStack n x).draws = d.draws := rfl
@[simp] theorem Dev.setStack_part (n : Nat) (x : Stack) : (d.setStack n x).part = d.part := rfl
@[simp] theorem Dev.setStack_stepping (n : Nat) (x : Stack) : (d.setStack n x).stepping = d.stepping := rfl
@[simp] theorem Dev.setStack_pins (n : Nat) (x : Stack) : (d.setStack n x).pins = d.pins := rfl
@[simp] theorem Dev.setStack_regs (n : Nat) (x : Stack) : (d.setStack n x).regs = d.regs := rfl
@[simp] theorem Dev.setStack_shadow (n : Nat) (x : Stack) : (d.setStack n x).shadow = d.shadow := rfl
@[simp] theorem Dev.setStack_rqSel (n : Nat) (x : Stack) : (d.setStack n x).rqSel = d.rqSel := rfl
@[simp] theorem Dev.setStack_fresh (n : Nat) (x : Stack) : (d.setStack n x).fresh = d.fresh := rfl
@[simp] theorem Dev.setStack_resetting (n : Nat) (x : Stack) : (d.setStack n x).resetting = d.resetting := rfl
@[simp] theorem Dev.setStack_cnts (n : Nat) (x : Stack) : (d.setStack n x).cnts = d.cnts := rfl
@[simp] theorem Dev.setStack_mem (n : Nat) (x : Stack) : (d.setStack n x).mem = d.mem := rfl
@[simp] theorem Dev.setStack_cp (n : Nat) (x : Stack) : (d.setStack n x).cp = d.cp := rfl
@[simp] theorem Dev.setStack_fns (n : Nat) (x : Stack) : (d.setStack n x).fns = d.fns := rfl
@[simp] theorem Dev.setStack_reins (n : Nat) (x : Stack) : (d.setStack n x).reins = d.reins := rfl
@[simp] theorem Dev.setStack_ras (n : Nat) (x : Stack) : (d.setStack n x).ras = d.ras := rfl
@[simp] theorem Dev.setStack_tbl (n : Nat) (x : Stack) : (d.setStack n x).tbl = d.tbl := rfl
@[simp] theorem Dev.setStack_upd (n : Nat) (x : Stack) : (d.setStack n x).upd = d.upd := rfl
@[simp] theorem Dev.setStack_srch (n : Nat) (x : Stack) : (d.setStack n x).srch = d.srch := rfl
@[simp] theorem Dev.setStack_kpr (n : Nat) (x : Stack) : (d.setStack n x).kpr = d.kpr := rfl
@[simp] theorem Dev.setStack_eng (n : Nat) (x : Stack) : (d.setStack n x).eng = d.eng := rfl
@[simp] theorem Dev.setStack_tack (n : Nat) (x : Stack) : (d.setStack n x).tack = d.tack := rfl
@[simp] theorem Dev.setStack_flash (n : Nat) (x : Stack) : (d.setStack n x).flash = d.flash := rfl
@[simp] theorem Dev.setStack_sb (n : Nat) (x : Stack) : (d.setStack n x).sb = d.sb := rfl
@[simp] theorem Dev.setStack_fab (n : Nat) (x : Stack) : (d.setStack n x).fab = d.fab := rfl
@[simp] theorem Dev.setStack_lat (n : Nat) (x : Stack) : (d.setStack n x).lat = d.lat := rfl
@[simp] theorem Dev.setStack_cmp (n : Nat) (x : Stack) : (d.setStack n x).cmp = d.cmp := rfl
@[simp] theorem Dev.setStack_brd (n : Nat) (x : Stack) : (d.setStack n x).brd = d.brd := rfl
@[simp] theorem Dev.setStack_mgmt (n : Nat) (x : Stack) : (d.setStack n x).mgmt = d.mgmt := rfl
@[simp] theorem Dev.setStack_pwr (n : Nat) (x : Stack) : (d.setStack n x).pwr = d.pwr := rfl
@[simp] theorem Dev.setStack_resp (n : Nat) (x : Stack) : (d.setStack n x).resp = d.resp := rfl

/-! `Dev.setSeq` changes hide alone. -/

@[simp] theorem Dev.setSeq_now (c : Nat) (x : AwlSeq) : (d.setSeq c x).now = d.now := rfl
@[simp] theorem Dev.setSeq_aphase (c : Nat) (x : AwlSeq) : (d.setSeq c x).aphase = d.aphase := rfl
@[simp] theorem Dev.setSeq_draws (c : Nat) (x : AwlSeq) : (d.setSeq c x).draws = d.draws := rfl
@[simp] theorem Dev.setSeq_part (c : Nat) (x : AwlSeq) : (d.setSeq c x).part = d.part := rfl
@[simp] theorem Dev.setSeq_stepping (c : Nat) (x : AwlSeq) : (d.setSeq c x).stepping = d.stepping := rfl
@[simp] theorem Dev.setSeq_pins (c : Nat) (x : AwlSeq) : (d.setSeq c x).pins = d.pins := rfl
@[simp] theorem Dev.setSeq_regs (c : Nat) (x : AwlSeq) : (d.setSeq c x).regs = d.regs := rfl
@[simp] theorem Dev.setSeq_shadow (c : Nat) (x : AwlSeq) : (d.setSeq c x).shadow = d.shadow := rfl
@[simp] theorem Dev.setSeq_rqSel (c : Nat) (x : AwlSeq) : (d.setSeq c x).rqSel = d.rqSel := rfl
@[simp] theorem Dev.setSeq_fresh (c : Nat) (x : AwlSeq) : (d.setSeq c x).fresh = d.fresh := rfl
@[simp] theorem Dev.setSeq_resetting (c : Nat) (x : AwlSeq) : (d.setSeq c x).resetting = d.resetting := rfl
@[simp] theorem Dev.setSeq_cnts (c : Nat) (x : AwlSeq) : (d.setSeq c x).cnts = d.cnts := rfl
@[simp] theorem Dev.setSeq_mem (c : Nat) (x : AwlSeq) : (d.setSeq c x).mem = d.mem := rfl
@[simp] theorem Dev.setSeq_cp (c : Nat) (x : AwlSeq) : (d.setSeq c x).cp = d.cp := rfl
@[simp] theorem Dev.setSeq_fns (c : Nat) (x : AwlSeq) : (d.setSeq c x).fns = d.fns := rfl
@[simp] theorem Dev.setSeq_reins (c : Nat) (x : AwlSeq) : (d.setSeq c x).reins = d.reins := rfl
@[simp] theorem Dev.setSeq_ras (c : Nat) (x : AwlSeq) : (d.setSeq c x).ras = d.ras := rfl
@[simp] theorem Dev.setSeq_tbl (c : Nat) (x : AwlSeq) : (d.setSeq c x).tbl = d.tbl := rfl
@[simp] theorem Dev.setSeq_upd (c : Nat) (x : AwlSeq) : (d.setSeq c x).upd = d.upd := rfl
@[simp] theorem Dev.setSeq_srch (c : Nat) (x : AwlSeq) : (d.setSeq c x).srch = d.srch := rfl
@[simp] theorem Dev.setSeq_kpr (c : Nat) (x : AwlSeq) : (d.setSeq c x).kpr = d.kpr := rfl
@[simp] theorem Dev.setSeq_eng (c : Nat) (x : AwlSeq) : (d.setSeq c x).eng = d.eng := rfl
@[simp] theorem Dev.setSeq_tack (c : Nat) (x : AwlSeq) : (d.setSeq c x).tack = d.tack := rfl
@[simp] theorem Dev.setSeq_flash (c : Nat) (x : AwlSeq) : (d.setSeq c x).flash = d.flash := rfl
@[simp] theorem Dev.setSeq_sb (c : Nat) (x : AwlSeq) : (d.setSeq c x).sb = d.sb := rfl
@[simp] theorem Dev.setSeq_fab (c : Nat) (x : AwlSeq) : (d.setSeq c x).fab = d.fab := rfl
@[simp] theorem Dev.setSeq_lat (c : Nat) (x : AwlSeq) : (d.setSeq c x).lat = d.lat := rfl
@[simp] theorem Dev.setSeq_cmp (c : Nat) (x : AwlSeq) : (d.setSeq c x).cmp = d.cmp := rfl
@[simp] theorem Dev.setSeq_brd (c : Nat) (x : AwlSeq) : (d.setSeq c x).brd = d.brd := rfl
@[simp] theorem Dev.setSeq_mgmt (c : Nat) (x : AwlSeq) : (d.setSeq c x).mgmt = d.mgmt := rfl
@[simp] theorem Dev.setSeq_pwr (c : Nat) (x : AwlSeq) : (d.setSeq c x).pwr = d.pwr := rfl
@[simp] theorem Dev.setSeq_resp (c : Nat) (x : AwlSeq) : (d.setSeq c x).resp = d.resp := rfl

/-! `Dev.setMover` changes lat alone. -/

@[simp] theorem Dev.setMover_now (c : Nat) (x : Mover) : (d.setMover c x).now = d.now := rfl
@[simp] theorem Dev.setMover_aphase (c : Nat) (x : Mover) : (d.setMover c x).aphase = d.aphase := rfl
@[simp] theorem Dev.setMover_draws (c : Nat) (x : Mover) : (d.setMover c x).draws = d.draws := rfl
@[simp] theorem Dev.setMover_part (c : Nat) (x : Mover) : (d.setMover c x).part = d.part := rfl
@[simp] theorem Dev.setMover_stepping (c : Nat) (x : Mover) : (d.setMover c x).stepping = d.stepping := rfl
@[simp] theorem Dev.setMover_pins (c : Nat) (x : Mover) : (d.setMover c x).pins = d.pins := rfl
@[simp] theorem Dev.setMover_regs (c : Nat) (x : Mover) : (d.setMover c x).regs = d.regs := rfl
@[simp] theorem Dev.setMover_shadow (c : Nat) (x : Mover) : (d.setMover c x).shadow = d.shadow := rfl
@[simp] theorem Dev.setMover_rqSel (c : Nat) (x : Mover) : (d.setMover c x).rqSel = d.rqSel := rfl
@[simp] theorem Dev.setMover_fresh (c : Nat) (x : Mover) : (d.setMover c x).fresh = d.fresh := rfl
@[simp] theorem Dev.setMover_resetting (c : Nat) (x : Mover) : (d.setMover c x).resetting = d.resetting := rfl
@[simp] theorem Dev.setMover_cnts (c : Nat) (x : Mover) : (d.setMover c x).cnts = d.cnts := rfl
@[simp] theorem Dev.setMover_mem (c : Nat) (x : Mover) : (d.setMover c x).mem = d.mem := rfl
@[simp] theorem Dev.setMover_cp (c : Nat) (x : Mover) : (d.setMover c x).cp = d.cp := rfl
@[simp] theorem Dev.setMover_fns (c : Nat) (x : Mover) : (d.setMover c x).fns = d.fns := rfl
@[simp] theorem Dev.setMover_reins (c : Nat) (x : Mover) : (d.setMover c x).reins = d.reins := rfl
@[simp] theorem Dev.setMover_ras (c : Nat) (x : Mover) : (d.setMover c x).ras = d.ras := rfl
@[simp] theorem Dev.setMover_tbl (c : Nat) (x : Mover) : (d.setMover c x).tbl = d.tbl := rfl
@[simp] theorem Dev.setMover_upd (c : Nat) (x : Mover) : (d.setMover c x).upd = d.upd := rfl
@[simp] theorem Dev.setMover_srch (c : Nat) (x : Mover) : (d.setMover c x).srch = d.srch := rfl
@[simp] theorem Dev.setMover_kpr (c : Nat) (x : Mover) : (d.setMover c x).kpr = d.kpr := rfl
@[simp] theorem Dev.setMover_eng (c : Nat) (x : Mover) : (d.setMover c x).eng = d.eng := rfl
@[simp] theorem Dev.setMover_tack (c : Nat) (x : Mover) : (d.setMover c x).tack = d.tack := rfl
@[simp] theorem Dev.setMover_hide (c : Nat) (x : Mover) : (d.setMover c x).hide = d.hide := rfl
@[simp] theorem Dev.setMover_flash (c : Nat) (x : Mover) : (d.setMover c x).flash = d.flash := rfl
@[simp] theorem Dev.setMover_sb (c : Nat) (x : Mover) : (d.setMover c x).sb = d.sb := rfl
@[simp] theorem Dev.setMover_fab (c : Nat) (x : Mover) : (d.setMover c x).fab = d.fab := rfl
@[simp] theorem Dev.setMover_cmp (c : Nat) (x : Mover) : (d.setMover c x).cmp = d.cmp := rfl
@[simp] theorem Dev.setMover_brd (c : Nat) (x : Mover) : (d.setMover c x).brd = d.brd := rfl
@[simp] theorem Dev.setMover_mgmt (c : Nat) (x : Mover) : (d.setMover c x).mgmt = d.mgmt := rfl
@[simp] theorem Dev.setMover_pwr (c : Nat) (x : Mover) : (d.setMover c x).pwr = d.pwr := rfl
@[simp] theorem Dev.setMover_resp (c : Nat) (x : Mover) : (d.setMover c x).resp = d.resp := rfl

/-! `Dev.setSbInst` changes sb alone. -/

@[simp] theorem Dev.setSbInst_now (i : Nat) (x : SbInst) : (d.setSbInst i x).now = d.now := rfl
@[simp] theorem Dev.setSbInst_aphase (i : Nat) (x : SbInst) : (d.setSbInst i x).aphase = d.aphase := rfl
@[simp] theorem Dev.setSbInst_draws (i : Nat) (x : SbInst) : (d.setSbInst i x).draws = d.draws := rfl
@[simp] theorem Dev.setSbInst_part (i : Nat) (x : SbInst) : (d.setSbInst i x).part = d.part := rfl
@[simp] theorem Dev.setSbInst_stepping (i : Nat) (x : SbInst) : (d.setSbInst i x).stepping = d.stepping := rfl
@[simp] theorem Dev.setSbInst_pins (i : Nat) (x : SbInst) : (d.setSbInst i x).pins = d.pins := rfl
@[simp] theorem Dev.setSbInst_regs (i : Nat) (x : SbInst) : (d.setSbInst i x).regs = d.regs := rfl
@[simp] theorem Dev.setSbInst_shadow (i : Nat) (x : SbInst) : (d.setSbInst i x).shadow = d.shadow := rfl
@[simp] theorem Dev.setSbInst_rqSel (i : Nat) (x : SbInst) : (d.setSbInst i x).rqSel = d.rqSel := rfl
@[simp] theorem Dev.setSbInst_fresh (i : Nat) (x : SbInst) : (d.setSbInst i x).fresh = d.fresh := rfl
@[simp] theorem Dev.setSbInst_resetting (i : Nat) (x : SbInst) : (d.setSbInst i x).resetting = d.resetting := rfl
@[simp] theorem Dev.setSbInst_cnts (i : Nat) (x : SbInst) : (d.setSbInst i x).cnts = d.cnts := rfl
@[simp] theorem Dev.setSbInst_mem (i : Nat) (x : SbInst) : (d.setSbInst i x).mem = d.mem := rfl
@[simp] theorem Dev.setSbInst_cp (i : Nat) (x : SbInst) : (d.setSbInst i x).cp = d.cp := rfl
@[simp] theorem Dev.setSbInst_fns (i : Nat) (x : SbInst) : (d.setSbInst i x).fns = d.fns := rfl
@[simp] theorem Dev.setSbInst_reins (i : Nat) (x : SbInst) : (d.setSbInst i x).reins = d.reins := rfl
@[simp] theorem Dev.setSbInst_ras (i : Nat) (x : SbInst) : (d.setSbInst i x).ras = d.ras := rfl
@[simp] theorem Dev.setSbInst_tbl (i : Nat) (x : SbInst) : (d.setSbInst i x).tbl = d.tbl := rfl
@[simp] theorem Dev.setSbInst_upd (i : Nat) (x : SbInst) : (d.setSbInst i x).upd = d.upd := rfl
@[simp] theorem Dev.setSbInst_srch (i : Nat) (x : SbInst) : (d.setSbInst i x).srch = d.srch := rfl
@[simp] theorem Dev.setSbInst_kpr (i : Nat) (x : SbInst) : (d.setSbInst i x).kpr = d.kpr := rfl
@[simp] theorem Dev.setSbInst_eng (i : Nat) (x : SbInst) : (d.setSbInst i x).eng = d.eng := rfl
@[simp] theorem Dev.setSbInst_tack (i : Nat) (x : SbInst) : (d.setSbInst i x).tack = d.tack := rfl
@[simp] theorem Dev.setSbInst_hide (i : Nat) (x : SbInst) : (d.setSbInst i x).hide = d.hide := rfl
@[simp] theorem Dev.setSbInst_flash (i : Nat) (x : SbInst) : (d.setSbInst i x).flash = d.flash := rfl
@[simp] theorem Dev.setSbInst_fab (i : Nat) (x : SbInst) : (d.setSbInst i x).fab = d.fab := rfl
@[simp] theorem Dev.setSbInst_lat (i : Nat) (x : SbInst) : (d.setSbInst i x).lat = d.lat := rfl
@[simp] theorem Dev.setSbInst_cmp (i : Nat) (x : SbInst) : (d.setSbInst i x).cmp = d.cmp := rfl
@[simp] theorem Dev.setSbInst_brd (i : Nat) (x : SbInst) : (d.setSbInst i x).brd = d.brd := rfl
@[simp] theorem Dev.setSbInst_mgmt (i : Nat) (x : SbInst) : (d.setSbInst i x).mgmt = d.mgmt := rfl
@[simp] theorem Dev.setSbInst_pwr (i : Nat) (x : SbInst) : (d.setSbInst i x).pwr = d.pwr := rfl
@[simp] theorem Dev.setSbInst_resp (i : Nat) (x : SbInst) : (d.setSbInst i x).resp = d.resp := rfl

/-! `Dev.setGather` changes sb alone. -/

@[simp] theorem Dev.setGather_now (r : Nat) (x : GatherReq) : (d.setGather r x).now = d.now := rfl
@[simp] theorem Dev.setGather_aphase (r : Nat) (x : GatherReq) : (d.setGather r x).aphase = d.aphase := rfl
@[simp] theorem Dev.setGather_draws (r : Nat) (x : GatherReq) : (d.setGather r x).draws = d.draws := rfl
@[simp] theorem Dev.setGather_part (r : Nat) (x : GatherReq) : (d.setGather r x).part = d.part := rfl
@[simp] theorem Dev.setGather_stepping (r : Nat) (x : GatherReq) : (d.setGather r x).stepping = d.stepping := rfl
@[simp] theorem Dev.setGather_pins (r : Nat) (x : GatherReq) : (d.setGather r x).pins = d.pins := rfl
@[simp] theorem Dev.setGather_regs (r : Nat) (x : GatherReq) : (d.setGather r x).regs = d.regs := rfl
@[simp] theorem Dev.setGather_shadow (r : Nat) (x : GatherReq) : (d.setGather r x).shadow = d.shadow := rfl
@[simp] theorem Dev.setGather_rqSel (r : Nat) (x : GatherReq) : (d.setGather r x).rqSel = d.rqSel := rfl
@[simp] theorem Dev.setGather_fresh (r : Nat) (x : GatherReq) : (d.setGather r x).fresh = d.fresh := rfl
@[simp] theorem Dev.setGather_resetting (r : Nat) (x : GatherReq) : (d.setGather r x).resetting = d.resetting := rfl
@[simp] theorem Dev.setGather_cnts (r : Nat) (x : GatherReq) : (d.setGather r x).cnts = d.cnts := rfl
@[simp] theorem Dev.setGather_mem (r : Nat) (x : GatherReq) : (d.setGather r x).mem = d.mem := rfl
@[simp] theorem Dev.setGather_cp (r : Nat) (x : GatherReq) : (d.setGather r x).cp = d.cp := rfl
@[simp] theorem Dev.setGather_fns (r : Nat) (x : GatherReq) : (d.setGather r x).fns = d.fns := rfl
@[simp] theorem Dev.setGather_reins (r : Nat) (x : GatherReq) : (d.setGather r x).reins = d.reins := rfl
@[simp] theorem Dev.setGather_ras (r : Nat) (x : GatherReq) : (d.setGather r x).ras = d.ras := rfl
@[simp] theorem Dev.setGather_tbl (r : Nat) (x : GatherReq) : (d.setGather r x).tbl = d.tbl := rfl
@[simp] theorem Dev.setGather_upd (r : Nat) (x : GatherReq) : (d.setGather r x).upd = d.upd := rfl
@[simp] theorem Dev.setGather_srch (r : Nat) (x : GatherReq) : (d.setGather r x).srch = d.srch := rfl
@[simp] theorem Dev.setGather_kpr (r : Nat) (x : GatherReq) : (d.setGather r x).kpr = d.kpr := rfl
@[simp] theorem Dev.setGather_eng (r : Nat) (x : GatherReq) : (d.setGather r x).eng = d.eng := rfl
@[simp] theorem Dev.setGather_tack (r : Nat) (x : GatherReq) : (d.setGather r x).tack = d.tack := rfl
@[simp] theorem Dev.setGather_hide (r : Nat) (x : GatherReq) : (d.setGather r x).hide = d.hide := rfl
@[simp] theorem Dev.setGather_flash (r : Nat) (x : GatherReq) : (d.setGather r x).flash = d.flash := rfl
@[simp] theorem Dev.setGather_fab (r : Nat) (x : GatherReq) : (d.setGather r x).fab = d.fab := rfl
@[simp] theorem Dev.setGather_lat (r : Nat) (x : GatherReq) : (d.setGather r x).lat = d.lat := rfl
@[simp] theorem Dev.setGather_cmp (r : Nat) (x : GatherReq) : (d.setGather r x).cmp = d.cmp := rfl
@[simp] theorem Dev.setGather_brd (r : Nat) (x : GatherReq) : (d.setGather r x).brd = d.brd := rfl
@[simp] theorem Dev.setGather_mgmt (r : Nat) (x : GatherReq) : (d.setGather r x).mgmt = d.mgmt := rfl
@[simp] theorem Dev.setGather_pwr (r : Nat) (x : GatherReq) : (d.setGather r x).pwr = d.pwr := rfl
@[simp] theorem Dev.setGather_resp (r : Nat) (x : GatherReq) : (d.setGather r x).resp = d.resp := rfl

/-! `Dev.setPort` changes fab alone. -/

@[simp] theorem Dev.setPort_now (p : Nat) (x : Port) : (d.setPort p x).now = d.now := rfl
@[simp] theorem Dev.setPort_aphase (p : Nat) (x : Port) : (d.setPort p x).aphase = d.aphase := rfl
@[simp] theorem Dev.setPort_draws (p : Nat) (x : Port) : (d.setPort p x).draws = d.draws := rfl
@[simp] theorem Dev.setPort_part (p : Nat) (x : Port) : (d.setPort p x).part = d.part := rfl
@[simp] theorem Dev.setPort_stepping (p : Nat) (x : Port) : (d.setPort p x).stepping = d.stepping := rfl
@[simp] theorem Dev.setPort_pins (p : Nat) (x : Port) : (d.setPort p x).pins = d.pins := rfl
@[simp] theorem Dev.setPort_regs (p : Nat) (x : Port) : (d.setPort p x).regs = d.regs := rfl
@[simp] theorem Dev.setPort_shadow (p : Nat) (x : Port) : (d.setPort p x).shadow = d.shadow := rfl
@[simp] theorem Dev.setPort_rqSel (p : Nat) (x : Port) : (d.setPort p x).rqSel = d.rqSel := rfl
@[simp] theorem Dev.setPort_fresh (p : Nat) (x : Port) : (d.setPort p x).fresh = d.fresh := rfl
@[simp] theorem Dev.setPort_resetting (p : Nat) (x : Port) : (d.setPort p x).resetting = d.resetting := rfl
@[simp] theorem Dev.setPort_cnts (p : Nat) (x : Port) : (d.setPort p x).cnts = d.cnts := rfl
@[simp] theorem Dev.setPort_mem (p : Nat) (x : Port) : (d.setPort p x).mem = d.mem := rfl
@[simp] theorem Dev.setPort_cp (p : Nat) (x : Port) : (d.setPort p x).cp = d.cp := rfl
@[simp] theorem Dev.setPort_fns (p : Nat) (x : Port) : (d.setPort p x).fns = d.fns := rfl
@[simp] theorem Dev.setPort_reins (p : Nat) (x : Port) : (d.setPort p x).reins = d.reins := rfl
@[simp] theorem Dev.setPort_ras (p : Nat) (x : Port) : (d.setPort p x).ras = d.ras := rfl
@[simp] theorem Dev.setPort_tbl (p : Nat) (x : Port) : (d.setPort p x).tbl = d.tbl := rfl
@[simp] theorem Dev.setPort_upd (p : Nat) (x : Port) : (d.setPort p x).upd = d.upd := rfl
@[simp] theorem Dev.setPort_srch (p : Nat) (x : Port) : (d.setPort p x).srch = d.srch := rfl
@[simp] theorem Dev.setPort_kpr (p : Nat) (x : Port) : (d.setPort p x).kpr = d.kpr := rfl
@[simp] theorem Dev.setPort_eng (p : Nat) (x : Port) : (d.setPort p x).eng = d.eng := rfl
@[simp] theorem Dev.setPort_tack (p : Nat) (x : Port) : (d.setPort p x).tack = d.tack := rfl
@[simp] theorem Dev.setPort_hide (p : Nat) (x : Port) : (d.setPort p x).hide = d.hide := rfl
@[simp] theorem Dev.setPort_flash (p : Nat) (x : Port) : (d.setPort p x).flash = d.flash := rfl
@[simp] theorem Dev.setPort_sb (p : Nat) (x : Port) : (d.setPort p x).sb = d.sb := rfl
@[simp] theorem Dev.setPort_lat (p : Nat) (x : Port) : (d.setPort p x).lat = d.lat := rfl
@[simp] theorem Dev.setPort_cmp (p : Nat) (x : Port) : (d.setPort p x).cmp = d.cmp := rfl
@[simp] theorem Dev.setPort_brd (p : Nat) (x : Port) : (d.setPort p x).brd = d.brd := rfl
@[simp] theorem Dev.setPort_mgmt (p : Nat) (x : Port) : (d.setPort p x).mgmt = d.mgmt := rfl
@[simp] theorem Dev.setPort_pwr (p : Nat) (x : Port) : (d.setPort p x).pwr = d.pwr := rfl
@[simp] theorem Dev.setPort_resp (p : Nat) (x : Port) : (d.setPort p x).resp = d.resp := rfl

/-! `Dev.setPhase` changes brd alone. -/

@[simp] theorem Dev.setPhase_now (p : BootPhase) : (d.setPhase p).now = d.now := rfl
@[simp] theorem Dev.setPhase_aphase (p : BootPhase) : (d.setPhase p).aphase = d.aphase := rfl
@[simp] theorem Dev.setPhase_draws (p : BootPhase) : (d.setPhase p).draws = d.draws := rfl
@[simp] theorem Dev.setPhase_part (p : BootPhase) : (d.setPhase p).part = d.part := rfl
@[simp] theorem Dev.setPhase_stepping (p : BootPhase) : (d.setPhase p).stepping = d.stepping := rfl
@[simp] theorem Dev.setPhase_pins (p : BootPhase) : (d.setPhase p).pins = d.pins := rfl
@[simp] theorem Dev.setPhase_regs (p : BootPhase) : (d.setPhase p).regs = d.regs := rfl
@[simp] theorem Dev.setPhase_shadow (p : BootPhase) : (d.setPhase p).shadow = d.shadow := rfl
@[simp] theorem Dev.setPhase_rqSel (p : BootPhase) : (d.setPhase p).rqSel = d.rqSel := rfl
@[simp] theorem Dev.setPhase_fresh (p : BootPhase) : (d.setPhase p).fresh = d.fresh := rfl
@[simp] theorem Dev.setPhase_resetting (p : BootPhase) : (d.setPhase p).resetting = d.resetting := rfl
@[simp] theorem Dev.setPhase_cnts (p : BootPhase) : (d.setPhase p).cnts = d.cnts := rfl
@[simp] theorem Dev.setPhase_mem (p : BootPhase) : (d.setPhase p).mem = d.mem := rfl
@[simp] theorem Dev.setPhase_cp (p : BootPhase) : (d.setPhase p).cp = d.cp := rfl
@[simp] theorem Dev.setPhase_fns (p : BootPhase) : (d.setPhase p).fns = d.fns := rfl
@[simp] theorem Dev.setPhase_reins (p : BootPhase) : (d.setPhase p).reins = d.reins := rfl
@[simp] theorem Dev.setPhase_ras (p : BootPhase) : (d.setPhase p).ras = d.ras := rfl
@[simp] theorem Dev.setPhase_tbl (p : BootPhase) : (d.setPhase p).tbl = d.tbl := rfl
@[simp] theorem Dev.setPhase_upd (p : BootPhase) : (d.setPhase p).upd = d.upd := rfl
@[simp] theorem Dev.setPhase_srch (p : BootPhase) : (d.setPhase p).srch = d.srch := rfl
@[simp] theorem Dev.setPhase_kpr (p : BootPhase) : (d.setPhase p).kpr = d.kpr := rfl
@[simp] theorem Dev.setPhase_eng (p : BootPhase) : (d.setPhase p).eng = d.eng := rfl
@[simp] theorem Dev.setPhase_tack (p : BootPhase) : (d.setPhase p).tack = d.tack := rfl
@[simp] theorem Dev.setPhase_hide (p : BootPhase) : (d.setPhase p).hide = d.hide := rfl
@[simp] theorem Dev.setPhase_flash (p : BootPhase) : (d.setPhase p).flash = d.flash := rfl
@[simp] theorem Dev.setPhase_sb (p : BootPhase) : (d.setPhase p).sb = d.sb := rfl
@[simp] theorem Dev.setPhase_fab (p : BootPhase) : (d.setPhase p).fab = d.fab := rfl
@[simp] theorem Dev.setPhase_lat (p : BootPhase) : (d.setPhase p).lat = d.lat := rfl
@[simp] theorem Dev.setPhase_cmp (p : BootPhase) : (d.setPhase p).cmp = d.cmp := rfl
@[simp] theorem Dev.setPhase_mgmt (p : BootPhase) : (d.setPhase p).mgmt = d.mgmt := rfl
@[simp] theorem Dev.setPhase_pwr (p : BootPhase) : (d.setPhase p).pwr = d.pwr := rfl
@[simp] theorem Dev.setPhase_resp (p : BootPhase) : (d.setPhase p).resp = d.resp := rfl

/-! `Dev.setRcv` changes brd alone. -/

@[simp] theorem Dev.setRcv_now (f : Recovery → Recovery) : (d.setRcv f).now = d.now := rfl
@[simp] theorem Dev.setRcv_aphase (f : Recovery → Recovery) : (d.setRcv f).aphase = d.aphase := rfl
@[simp] theorem Dev.setRcv_draws (f : Recovery → Recovery) : (d.setRcv f).draws = d.draws := rfl
@[simp] theorem Dev.setRcv_part (f : Recovery → Recovery) : (d.setRcv f).part = d.part := rfl
@[simp] theorem Dev.setRcv_stepping (f : Recovery → Recovery) : (d.setRcv f).stepping = d.stepping := rfl
@[simp] theorem Dev.setRcv_pins (f : Recovery → Recovery) : (d.setRcv f).pins = d.pins := rfl
@[simp] theorem Dev.setRcv_regs (f : Recovery → Recovery) : (d.setRcv f).regs = d.regs := rfl
@[simp] theorem Dev.setRcv_shadow (f : Recovery → Recovery) : (d.setRcv f).shadow = d.shadow := rfl
@[simp] theorem Dev.setRcv_rqSel (f : Recovery → Recovery) : (d.setRcv f).rqSel = d.rqSel := rfl
@[simp] theorem Dev.setRcv_fresh (f : Recovery → Recovery) : (d.setRcv f).fresh = d.fresh := rfl
@[simp] theorem Dev.setRcv_resetting (f : Recovery → Recovery) : (d.setRcv f).resetting = d.resetting := rfl
@[simp] theorem Dev.setRcv_cnts (f : Recovery → Recovery) : (d.setRcv f).cnts = d.cnts := rfl
@[simp] theorem Dev.setRcv_mem (f : Recovery → Recovery) : (d.setRcv f).mem = d.mem := rfl
@[simp] theorem Dev.setRcv_cp (f : Recovery → Recovery) : (d.setRcv f).cp = d.cp := rfl
@[simp] theorem Dev.setRcv_fns (f : Recovery → Recovery) : (d.setRcv f).fns = d.fns := rfl
@[simp] theorem Dev.setRcv_reins (f : Recovery → Recovery) : (d.setRcv f).reins = d.reins := rfl
@[simp] theorem Dev.setRcv_ras (f : Recovery → Recovery) : (d.setRcv f).ras = d.ras := rfl
@[simp] theorem Dev.setRcv_tbl (f : Recovery → Recovery) : (d.setRcv f).tbl = d.tbl := rfl
@[simp] theorem Dev.setRcv_upd (f : Recovery → Recovery) : (d.setRcv f).upd = d.upd := rfl
@[simp] theorem Dev.setRcv_srch (f : Recovery → Recovery) : (d.setRcv f).srch = d.srch := rfl
@[simp] theorem Dev.setRcv_kpr (f : Recovery → Recovery) : (d.setRcv f).kpr = d.kpr := rfl
@[simp] theorem Dev.setRcv_eng (f : Recovery → Recovery) : (d.setRcv f).eng = d.eng := rfl
@[simp] theorem Dev.setRcv_tack (f : Recovery → Recovery) : (d.setRcv f).tack = d.tack := rfl
@[simp] theorem Dev.setRcv_hide (f : Recovery → Recovery) : (d.setRcv f).hide = d.hide := rfl
@[simp] theorem Dev.setRcv_flash (f : Recovery → Recovery) : (d.setRcv f).flash = d.flash := rfl
@[simp] theorem Dev.setRcv_sb (f : Recovery → Recovery) : (d.setRcv f).sb = d.sb := rfl
@[simp] theorem Dev.setRcv_fab (f : Recovery → Recovery) : (d.setRcv f).fab = d.fab := rfl
@[simp] theorem Dev.setRcv_lat (f : Recovery → Recovery) : (d.setRcv f).lat = d.lat := rfl
@[simp] theorem Dev.setRcv_cmp (f : Recovery → Recovery) : (d.setRcv f).cmp = d.cmp := rfl
@[simp] theorem Dev.setRcv_mgmt (f : Recovery → Recovery) : (d.setRcv f).mgmt = d.mgmt := rfl
@[simp] theorem Dev.setRcv_pwr (f : Recovery → Recovery) : (d.setRcv f).pwr = d.pwr := rfl
@[simp] theorem Dev.setRcv_resp (f : Recovery → Recovery) : (d.setRcv f).resp = d.resp := rfl

end Sys2Proof.Machine
end

