-- ==== Sys2Proof/Laws/Store.lean ====
section
/-! SUPPORT. The device's reads and writes of memory keep its canonical form. -/

namespace Sys2Proof.Machine
open Sys2Proof

/-- If the memory of `d` is in form, that of `e` is. -/
def KeepsForm (d e : Dev) : Prop := d.mem.wf = true → e.mem.wf = true

theorem KeepsForm.refl (d : Dev) : KeepsForm d d := id
theorem KeepsForm.trans {d e f : Dev} (h : KeepsForm d e) (g : KeepsForm e f) : KeepsForm d f := g ∘ h
theorem Reports.keepsForm {d e : Dev} (h : Reports d e) : KeepsForm d e := fun w => by rw [h.mem]; exact w
theorem KeepsForm.ite {d a b : Dev} (c : Prop) [Decidable c] (ha : KeepsForm d a) (hb : KeepsForm d b) : KeepsForm d (if c then a else b) := by
  by_cases h : c
  · rw [if_pos h]; exact ha
  · rw [if_neg h]; exact hb
theorem KeepsForm.foldl {β : Type} (f : Dev → β → Dev) (hf : ∀ d b, KeepsForm d (f d b)) (l : List β) (d : Dev) : KeepsForm d (l.foldl f d) :=
  fun w => foldl_keeps (fun e => e.mem.wf = true) f (fun e b h => hf e b h) l d w
theorem keepsForm_bump (d : Dev) (p b i n : Nat) : KeepsForm d (d.bump p b i n) := (reports_bump d p b i n).keepsForm

theorem keepsForm_touchWord (d : Dev) (w : Nat) : KeepsForm d (d.touchWord w) := by
  have fix : ∀ e : Dev, KeepsForm d e → KeepsForm d ({ e with mem := (e.mem.putRaw (8 * w) (e.mem.word w)).putDisc w 0 } : Dev) :=
    fun e h x => Memory.wf_putDisc _ _ _ (Memory.wf_putRaw _ _ _ (h x))
  have ce := fun s => (reports_ceWord d (ownerPage (8 * w) (regionOf d.part (8 * w))) 0 (64 * (w / 8)) s (w % 8)).keepsForm
  have ue := fun s => (reports_ueWord d (ownerPage (8 * w) (regionOf d.part (8 * w))) 0 (64 * (w / 8)) s (w % 8)).keepsForm
  unfold Dev.touchWord
  dsimp only
  split
  · exact .refl d
  · exact .refl d
  · split
    · exact (ue _).trans (reports_hideUe _ _ _).keepsForm
    · exact (ue _).trans (keepsForm_bump _ _ _ _ _)
    · exact ue _
  · refine KeepsForm.ite _ (KeepsForm.trans (fix _ ?_) (keepsForm_bump _ _ _ _ _)) ?_
    all_goals
      split
      · exact (ce _).trans (keepsForm_bump _ _ _ _ _)
      · exact (ce _).trans (keepsForm_bump _ _ _ _ _)
      · exact ce _

/-- A line that was lost is written back poisoned. -/
theorem keepsForm_lose {d e : Dev} (l : Nat) (h : KeepsForm d e) :
    KeepsForm d (({ e with mem := (e.mem.setValid l).poisonLine l } : Dev).bump pgRas 0 8) :=
  KeepsForm.trans (e := { e with mem := (e.mem.setValid l).poisonLine l })
    (fun x => Memory.wf_poisonLine _ _ (Memory.wf_setValid _ _ (h x))) (keepsForm_bump _ _ _ _ _)

theorem keepsForm_bridgeRead (d : Dev) (l : Nat) : KeepsForm d (d.bridgeRead l) := by
  have h := (reports_bridgeHit d l).keepsForm
  exact KeepsForm.ite _ (keepsForm_lose l h) h

theorem keepsForm_touchLine (d : Dev) (l : Nat) : KeepsForm d (d.touchLine l) := by
  have words : KeepsForm d ((List.range 8).foldl (fun d i => d.touchWord (8 * l + i)) d) :=
    KeepsForm.foldl _ (fun d i => keepsForm_touchWord d _) _ _
  unfold Dev.touchLine
  refine KeepsForm.ite _ (reports_poisonUsed _ _ _ _ _).keepsForm (KeepsForm.ite _ (keepsForm_bridgeRead _ _) (KeepsForm.ite _ ?_ ?_))
  · split
    · exact keepsForm_bump _ _ _ _ _
    · exact .refl d
  · have used : ∀ (o : Option Nat) (ue : Bool) (p a s : Nat), KeepsForm d (match o with
        | some i => if ue = true then (List.range 8).foldl (fun d i => d.touchWord (8 * l + i)) d
            else ((List.range 8).foldl (fun d i => d.touchWord (8 * l + i)) d).poisonUsed p a s i
        | none => (List.range 8).foldl (fun d i => d.touchWord (8 * l + i)) d) := by
      intro o ue p a s
      cases o with
      | none => exact words
      | some i => exact KeepsForm.ite _ words (words.trans (reports_poisonUsed _ _ _ _ _).keepsForm)
    refine KeepsForm.ite _ (KeepsForm.trans (fun x => ?_) (keepsForm_bump _ _ _ _ _)) (used _ _ _ _ _)
    exact Memory.wf_poisonLine _ _ (used _ _ _ _ _ x)

/-- Entering Rein items leaves memory alone. -/
theorem mem_reinHead (d : Dev) (i f : Nat) : (d.reinHead i f).mem = d.mem := by
  unfold Dev.reinHead
  dsimp only
  split
  · rfl
  · split
    · rfl
    · split
      · split
        · rfl
        · exact (Reports.trans (reports_bump _ _ _ _ _) (reports_bumpFn _ _ _ _ _)).mem
      · split
        · rfl
        · exact (Reports.trans (reports_bump _ _ _ _ _) (reports_bumpFn _ _ _ _ _)).mem
theorem keepsForm_reinPut (d : Dev) (i : Nat) (k : Option Nat) (it : ReinItem) : KeepsForm d (d.reinPut i k it) := by
  unfold Dev.reinPut
  cases k with
  | some k => exact .refl d
  | none => exact fun x => by rw [mem_reinHead]; exact x
theorem keepsForm_baseAccess (d : Dev) (s o n pos : Nat) (who : Charge) : KeepsForm d (d.baseAccess s o n pos who) := by
  have h : KeepsForm d ((d.bump (0xC0 + s) 0 pos n).reinBase s n who) :=
    (keepsForm_bump _ _ _ _ _).trans (KeepsForm.foldl _ (fun d _ => keepsForm_reinPut d _ _ _) _ _)
  unfold Dev.baseAccess
  exact KeepsForm.ite _ (h.trans (.refl _)) h

/-- Reading memory keeps its form. -/
theorem keepsForm_touchLines (d : Dev) (a n : Nat) : KeepsForm d (d.touchLines a n) :=
  KeepsForm.ite _ (.refl d) (KeepsForm.foldl _ (fun d _ => keepsForm_touchLine d _) _ _)
theorem keepsForm_touch (d : Dev) (a n : Nat) (who : Charge) : KeepsForm d (d.touch a n who) := by
  have lines := keepsForm_touchLines d a n
  unfold Dev.touch
  refine KeepsForm.ite _ (.refl d) ?_
  split
  · exact lines.trans (keepsForm_bump _ _ _ _ _)
  · exact lines.trans (keepsForm_baseAccess _ _ _ _ _ _)
  · exact lines

theorem keepsForm_flipArmed (d : Dev) (p w : Nat) : KeepsForm d (d.flipArmed p w) := by
  unfold Dev.flipArmed
  refine KeepsForm.ite _ (KeepsForm.trans (fun x => ?_) (reports_setPg _ _ _ _).keepsForm) (.refl d)
  exact Memory.wf_flip _ _ _ x

theorem Memory.wf_if (c : Prop) [Decidable c] {a b : Memory} (ha : a.wf = true) (hb : b.wf = true) : (if c then a else b).wf = true := by
  by_cases h : c
  · rw [if_pos h]; exact ha
  · rw [if_neg h]; exact hb

theorem keepsForm_readEdges (d : Dev) (a n : Nat) : KeepsForm d (d.readEdges a n) := by
  have words := fun l => KeepsForm.foldl (fun d w => d.touchWord w) (fun d w => keepsForm_touchWord d w) l d
  unfold Dev.readEdges
  dsimp only
  generalize (if d.lineValid (a / 64) = true then edgeWords a n else []) = l
  split
  · exact KeepsForm.ite _ (words _) ((words _).trans (reports_poisonUsed _ _ _ _ _).keepsForm)
  · exact words _

theorem Memory.wf_putPart (m : Memory) (a : Nat) (b : List Byte) (h : m.wf = true) : (m.putPart a b).wf = true := by
  have h1 := foldl_keeps (fun m => m.wf = true) _ (fun (m : Memory) (w : Nat) h => Memory.wf_putRaw m (8 * w) (m.word w) h) (edgeWords a b.length) m h
  exact foldl_keeps (fun m => m.wf = true) _ (fun (m : Memory) (i : Nat) h => Memory.wf_putDisc m (a / 8 + i) 0 h) _ _ (Memory.wf_putRaw _ a b h1)

theorem keepsForm_storeKept (d : Dev) (a : Nat) (b : List Byte) (poison : Bool) : KeepsForm d (d.storeKept a b poison) := by
  unfold Dev.storeKept
  refine KeepsForm.ite _ (.refl d) (KeepsForm.ite _ (KeepsForm.trans (fun x => ?_) (keepsForm_flipArmed _ _ _))
    (KeepsForm.trans (fun x => ?_) (keepsForm_flipArmed _ _ _)))
  · have h0 := Memory.wf_putRaw _ a b (Memory.wf_clearLine _ (a / 64) x)
    have h1 := Memory.wf_if ((regionOf d.part a).lined = true) (Memory.wf_setValid _ (a / 64) h0) h0
    exact Memory.wf_if _ (Memory.wf_poisonLine _ _ h1) h1
  · have h0 := keepsForm_readEdges d a b.length x
    have h1 := Memory.wf_putPart _ a b (Memory.wf_if (d.lineValid (a / 64) = true) h0 (Memory.wf_clearLine _ (a / 64) h0))
    have h2 := Memory.wf_if ((regionOf d.part a).lined = true) (Memory.wf_setValid _ (a / 64) h1) h1
    exact Memory.wf_if _ (Memory.wf_poisonLine _ _ h2) h2
theorem keepsForm_storeLine (d : Dev) (a : Nat) (b : List Byte) (poison : Bool) : KeepsForm d (d.storeLine a b poison) :=
  KeepsForm.ite _ ((reports_bridgeHit _ _).keepsForm.trans (keepsForm_storeKept _ _ _ _)) (keepsForm_storeKept _ _ _ _)

theorem keepsForm_storeGo (k : Nat) : ∀ (d : Dev) (a : Nat) (b : List Byte) (p : Bool), KeepsForm d (Dev.storeGo k d a b p) := by
  induction k with
  | zero => exact fun d _ _ _ => .refl d
  | succ k ih =>
    intro d a b p
    unfold Dev.storeGo
    exact KeepsForm.ite _ (.refl d) ((keepsForm_storeLine _ _ _ _).trans (ih _ _ _ _))

/-- Writing memory keeps its form. -/
theorem keepsForm_store (d : Dev) (a : Nat) (b : List Byte) (p : Bool) (who : Charge) : KeepsForm d (d.store a b p who) := by
  have lines := keepsForm_storeGo (b.length + 1) d a b p
  unfold Dev.store
  split
  · exact lines.trans (keepsForm_bump _ _ _ _ _)
  · exact lines.trans (keepsForm_baseAccess _ _ _ _ _ _)
  · exact lines

theorem keepsForm_storeN (d : Dev) (a n v : Nat) : KeepsForm d (d.storeN a n v) := keepsForm_store _ _ _ _ _

/-- What the environment does to storage keeps its form. -/
theorem keepsForm_condition (d : Dev) (c : MemCond) : KeepsForm d (d.condition c) := by
  cases c with
  | clean => exact .refl d
  | cellError w mask => exact KeepsForm.ite _ (fun x => Memory.wf_flip _ _ _ x) (.refl d)
  | validUe l =>
    simp only [Dev.condition]
    refine KeepsForm.ite _ (keepsForm_lose l ?_) (.refl d)
    have ue := fun p b => (reports_ueWord d p b (64 * l) 0 0xFF).keepsForm
    generalize regionOf d.part (64 * l) = r
    cases r with
    | seat => exact (ue _ _).trans (keepsForm_bump _ _ _ _ _)
    | hide n => exact (ue _ _).trans (reports_hideUe _ _ _).keepsForm
    | _ => exact ue _ _
  | validCe l =>
    simp only [Dev.condition]
    refine KeepsForm.ite _ ?_ (.refl d)
    have ce := fun p b => (reports_ceWord d p b (64 * l) 0 0xFF).keepsForm
    generalize regionOf d.part (64 * l) = r
    cases r with
    | seat => exact (ce _ _).trans (keepsForm_bump _ _ _ _ _)
    | _ => exact (ce _ _).trans (keepsForm_bump _ _ _ _ _)
  | bridgeFail dead => exact KeepsForm.ite _ (reports_fatal _ _ _ _).keepsForm (.refl d)
  | bridgeLine l dead =>
    simp only [Dev.condition]
    have h : KeepsForm d (if (regionOf d.part (64 * l)).stored = true then { d with ras := { d.ras with bridge := insNat d.ras.bridge l } } else d) :=
      KeepsForm.ite _ (.refl _) (.refl _)
    exact KeepsForm.ite _ (h.trans (reports_fatal _ _ _ _).keepsForm) h
  | cacheCe c => exact (reports_ceWord _ _ _ _ _ _).keepsForm
  | cacheUe c l => exact .refl d
  | store e => exact .refl d

/-- The transfer that will fail changes no memory yet. -/
theorem keepsForm_bridgeArm (d : Dev) (a : Nat) (c : MemCond) : KeepsForm d (d.bridgeArm a c) := by
  cases c with
  | bridgeFail dead => exact KeepsForm.ite _ (.refl _) (.refl _)
  | _ => exact .refl d

end Sys2Proof.Machine
end

