-- ==== Sys2Proof/Tests/Build.lean ====
section
/-! SUPPORT. Small states and strings that the witnesses of the statements are built from. -/

namespace Sys2Proof.Tests
open Sys2Proof Sys2Proof.Machine
/-- The device right after reset, out of reset and with every pages' block enabled. -/
def dev0 : Dev := State.reset.dev
/-- It with seat memory and the blocks of some register pages enabled. -/
def devOn (ps : List Nat) : Dev := (0xC :: 0xD :: ps).foldl (fun d p => d.setPg p R.blkCtl 1) dev0
/-- A 64-byte command entry: opcode, then fields as (offset, bytes, value). -/
def entry (op : Nat) (fs : List (Nat × Nat × Nat)) : List Byte := fs.foldl (fun b f => patch b f.1 (natLe f.2.1 f.2.2)) (natLe 64 op)
/-- A command of function 0 that waits to start in context c. -/
def withCmd (d : Dev) (c op : Nat) (fs : List (Nat × Nat × Nat)) : Dev :=
  (d.setFn 0 { st := .enabled, inc := 1 }).setCtx c { inc := 1, entry := entry op fs, ready := true }
/-- A command that runs in context c. -/
def running (d : Dev) (c op : Nat) (fs : List (Nat × Nat × Nat)) : Dev :=
  (d.setFn 0 { st := .enabled, inc := 1 }).setCtx c { inc := 1, entry := entry op fs, ready := true, started := true }
/-- A string of zeros with fields put in it, as (offset, bytes, value). -/
def bytesOf (n : Nat) (fs : List (Nat × Nat × Nat)) : List Byte := fs.foldl (fun b f => patch b f.1 (natLe f.2.1 f.2.2)) (natLe n 0)
/-- A live table of one version at a seat address. -/
def withTbl (d : Dev) (h kind g : Nat) (b : List Byte) : Dev :=
  (d.putTdesc h { kind := kind, st := 1, ver := 1, slots := [{ base := g, len := b.length, ver := 1, st := 1 }, {}, {}, {}] }).store g b
/-- Enabled blocks, and the tables and update areas at places that do not overlap. -/
def devTbl (ps : List Nat) : Dev := (((devOn ps).setRg R.tblBaseLo 0x800000).setRg R.updBaseLo 0x1000000).setRg R.objBaseLo 0x2000000
/-- An active collection of one list: FP32 elements of 32 dimensions, centroids in table 4096, directory in table 4097. -/
def collImg (more : List (Nat × Nat × Nat)) : List Byte :=
  bytesOf 256 ([(1, 1, 1), (4, 4, 1), (8, 4, 256), (12, 4, 256), (64, 1, 1), (66, 2, 32), (76, 4, 1), (80, 4, 1), (84, 2, 4096), (88, 2, 4097),
    (104, 8, 0x3000000)] ++ more)
/-- A device with collection 5 published. -/
def devColl (more : List (Nat × Nat × Nat)) : Dev := withTbl (devTbl [6, 7, 8]) 5 0 0x10000 (collImg more)
/-- An image header: slot 3, a body of 64 zero bytes, signed with the private key of RFC 8032's first test. -/
def hdr0 : List Byte := natLe 256 1561895931428990277246718741852152554694910242337997462268828603156776804124322530130571318282808333805272920836956112200411471993921381596386707954069322886080568418607721837935005712088960574832842859235545346822119101432990657496082150027144771247610011722266263973236196460183688500227483715539120367580267133042583518645447810303487677723147100400983353443443844401170752710827774575462026612422161096978569259467077444283798195890411209007968120655787137396110304006674626598818867658407507282444978756570808284037430206317588266293436519054385800313378656671371918039597712570645500866754867558162133215692375
/-- Fuses whose slot 3 holds the hash of that key. -/
def fuses3 : Fuses := { keys := [(3, natLe 64 10247643613604454302713226997198045324301268078641021840114363617422527144807465390855906759708416965373926487014566264078770359310250067671524089507676686)] }
/-- Node 0, assigned, that reaches every named node through port 31. -/
def devNode (ps nodes : List Nat) : Dev :=
  (nodes.foldl (fun d n => d.setRgb R.fabRoute n 0x3F) ((devOn ps).setRg R.fabNode 0x80000000)).setPort 31 { st := .up }

end Sys2Proof.Tests
end

