-- ==== Sys2Proof/Tests/Slice0.lean ====
section
/-! SUPPORT. Tests: ill-formed commands that WellFormed refuses, reset, and worked examples of the spec. -/

namespace Sys2Proof.Tests
open Sys2Proof Sys2Proof.Machine
set_option Elab.async false

/-! One command for each check of WellFormed, one step beyond its range, and the last it lets through. -/

/-- Refused on the ZQ-6448 with four-lane ports, where the other is let through. -/
def refuses (bad good : Instr) : Bool := !wellFormed .zq6448 false bad && wellFormed .zq6448 false good

theorem test_wf_context : refuses (.search 4096) (.search 4095) = true := by decide
theorem test_wf_function : refuses (.fnClean 1024) (.fnClean 1023) = true := by decide
theorem test_wf_ring : refuses (.sqTailDoorbell 0 8 0) (.sqTailDoorbell 1023 7 0) = true := by decide
theorem test_wf_ring_function : refuses (.cqHeadDoorbell 1024 0 0) (.cqHeadDoorbell 1023 7 0) = true := by decide
theorem test_wf_page : refuses (.softReset (.core 0) 65536) (.softReset (.core 0) 65535) = true := by decide
theorem test_wf_counter : refuses (.cntValLoRead (.core 0) 0 23) (.cntValLoRead (.core 0) 0 22) = true := by decide
theorem test_wf_keeper : refuses (.chainGrant 16) (.chainGrant 15) = true := by decide
theorem test_wf_engine : refuses (.engNop 64) (.engNop 63) = true := by decide
/-- The ZQ-5640 has 56 engines (R4). -/
theorem test_wf_engine_5640 : wellFormed .zq5640 false (.engNop 56) = false := by decide
theorem test_wf_core : refuses (.ccInboxLoRead (.core 0) 16) (.ccInboxLoRead (.core 0) 15) = true := by decide
theorem test_wf_rein : refuses (.starved 96) (.starved 95) = true := by decide
/-- Eight-lane ports have no second port on a tile's link pair (R411). -/
theorem test_wf_rein_eight : wellFormed .zq6448 true (.starved 31) = false := by decide
theorem test_wf_object : refuses (.copyDone (2 ^ 25)) (.copyDone (2 ^ 25 - 1)) = true := by decide
theorem test_wf_stack : refuses (.offlineReq 16) (.offlineReq 15) = true := by decide
theorem test_wf_agent : refuses (.suspectClear 4095 16) (.suspectClear 4095 15) = true := by decide
theorem test_wf_node : refuses (.suspectClear 4096 0) (.suspectClear 4095 15) = true := by decide
theorem test_wf_export : refuses (.exportInvalidate 256) (.exportInvalidate 255) = true := by decide
theorem test_wf_window : refuses (.windowEnable 16) (.windowEnable 15) = true := by decide
theorem test_wf_tile : refuses (.lsrOn 4 false) (.lsrOn 3 false) = true := by decide
theorem test_wf_token : refuses (.tokenRetire 63 16) (.tokenRetire 63 15) = true := by decide
theorem test_wf_rail : refuses (.currentReading 2 none 0) (.currentReading 1 none 0) = true := by decide
theorem test_wf_die : refuses (.adaptiveVoltage 2 none) (.adaptiveVoltage 1 none) = true := by decide
theorem test_wf_refclk : refuses (.refclkLoss 6) (.refclkLoss 5) = true := by decide
theorem test_wf_fclk_group : refuses (.fclkPllLoss 6) (.fclkPllLoss 5) = true := by decide
theorem test_wf_laser : refuses (.laserLow 3 4 0) (.laserLow 3 3 0) = true := by decide
theorem test_wf_port : refuses (.linkDown 32) (.linkDown 31) = true := by decide
theorem test_wf_port_eight : wellFormed .zq6448 true (.linkDown 16) = false := by decide
theorem test_wf_vc : refuses (.creditStall 31 8) (.creditStall 31 7) = true := by decide
theorem test_wf_source : refuses (.subResult 4096 { ref := 0, status := 0 }) (.subResult 4095 { ref := 0, status := 0 }) = true := by decide
theorem test_wf_collection : refuses (.sealTimer 4096) (.sealTimer 4095) = true := by decide
theorem test_wf_tag : refuses (.transportTimeout 8192) (.transportTimeout 8191) = true := by decide
theorem test_wf_lease : refuses (.leaseTermEnd 255 64) (.leaseTermEnd 255 63) = true := by decide
theorem test_wf_query : refuses (.queryStart 16384 0) (.queryStart 16383 255) = true := by decide
theorem test_wf_stream : refuses (.scanPiece 16383 255 32768) (.scanPiece 16383 255 32767) = true := by decide
theorem test_wf_batch : refuses (.coarseBatchWindow 4096) (.coarseBatchWindow 4095) = true := by decide
theorem test_wf_subsearch : refuses (.subsearchTimeout 16384) (.subsearchTimeout 16383) = true := by decide
theorem test_wf_lacing : refuses (.poolSlotGrant 4) (.poolSlotGrant 3) = true := by decide
theorem test_wf_list : refuses (.rebuildPublish 4095 (2 ^ 24)) (.rebuildPublish 4095 (2 ^ 24 - 1)) = true := by decide
theorem test_wf_extent : refuses (.nbrRenew 64) (.nbrRenew 63) = true := by decide
theorem test_wf_bank : refuses (.refreshDue 15 1024) (.refreshDue 15 1023) = true := by decide
theorem test_wf_awl_unit : refuses (.stitchEnd 15 512) (.stitchEnd 15 511) = true := by decide
theorem test_wf_channel : refuses (.dieTimeout 48) (.dieTimeout 47) = true := by decide
/-- The ZQ-5640 has 40 flash channels (R4). -/
theorem test_wf_channel_5640 : wellFormed .zq5640 false (.dieTimeout 40) = false := by decide
theorem test_wf_flash_die : refuses (.gcStart 47 16) (.gcStart 47 15) = true := by decide
theorem test_wf_block : refuses (.eraseDone 47 15 4096 false) (.eraseDone 47 15 4095 false) = true := by decide
theorem test_wf_saddle : refuses (.sbLate 1 64) (.sbLate 1 63) = true := by decide

/-! The step and reset. -/

/-- A command that names an absent unit changes nothing but the queue. -/
theorem test_absent_unit_changes_nothing :
    (match step { State.reset with pending := [.engNop 64] } with
     | .next s => decide (s = State.reset)
     | _ => false) = true := by decide +kernel
/-- The queue is first in, first out. -/
theorem test_first_command_first :
    (match step { State.reset with pending := [.heartbeatTimer, .fmSilent] } with
     | .next s => decide (s.pending = [.fmSilent])
     | _ => false) = true := by decide +kernel
/-- The model's memory at reset has its canonical form. -/
theorem test_reset_memory : State.reset.dev.mem.wf = true := by decide

/-! Worked examples of the spec. -/

/-- "Example: a chain with LIMIT 4" (05): ids held and TIE_TAIL after the eight steps. -/
theorem test_keeper_chain :
    ((([(11, 0xBF800000), (12, 0xC0000000), (13, 0xBFC00000), (14, 0xC0000000), (15, 0xC0000000), (16, 0xC0400000), (17, 0xBE000000)]
        : List (Nat × Nat)).foldl (fun (s : List Cand × Nat × KEvent) c => keeperInsert 4 s.1 s.2.1 { key := c.2, id := c.1 }) ([], 0, .inserted) |>
      fun s => (s.1.map (fun e => e.id), s.2.1)) = ([17, 11, 13, 12], 2)) := by decide
/-- Its last step: a new last key clears TIE_TAIL. -/
theorem test_keeper_chain_last :
    ((keeperInsert 4 [{ key := 0xBE000000, id := 17 }, { key := 0xBF800000, id := 11 }, { key := 0xBFC00000, id := 13 }, { key := 0xC0000000, id := 12 }] 2
        { key := 0xBFC00000, id := 18 } |> fun s => (s.1.map (fun e => e.id), s.2.1)) = ([17, 11, 13, 18], 0)) := by decide

/-- A pool of three that meets a pass of partial lists: ids, T_POOL, duplicates. -/
def passOf (pool : List Cand) (tPool : Nat) (parts : Tab PList) : List Nat × Nat × Nat :=
  let s : Search := { k := 3, f := 1 }
  let y : Query := { pool := pool, tPool := tPool }
  let r := (passInputs y parts).foldl (Pass.take 3) {}
  (r.out.map (fun e => e.id), (passTies s y parts r).1, r.dups)
/-- Partial lists 0 and 1 of "Example: two arrival orders give one pool" (05). -/
def list0 : PList :=
  { ents := [{ key := 0xBF800000, id := 11 }, { key := 0xBFC00000, id := 13, pos := 1 }, { key := 0xBFC00000, id := 18, pos := 2 }],
    full := true, lastKey := 0xBFC00000, tieTail := 2 }
def list1 : PList := { ents := [{ key := 0xBF000000, id := 13, part := 1 }, { key := 0xBFC00000, id := 21, part := 1, pos := 1 }], lastKey := 0xBFC00000 }
theorem test_list_1_first : passOf list1.ents 0 [(0, list0)] = ([13, 11, 18], 3, 1) := by decide
theorem test_list_0_first : passOf list0.ents 2 [(1, list1)] = ([13, 11, 18], 3, 1) := by decide

/-- "Example: a filter shortfall" (04): the program passes R128. -/
def filter4 : List Byte := natLe 8 0x41A0000000020013 ++ natLe 8 0x0000000300000310 ++ natLe 8 0x20 ++ natLe 8 0
theorem test_filter_ok : filterOk filter4 4 = true := by decide
/-- Price 20.0 in region 3 passes, price 20.5 and region 4 fail. -/
theorem test_filter_verdicts :
    ([[0x41A00000, 0, 0, 3], [0x41A40000, 0, 0, 3], [0x41A00000, 0, 0, 4]] : List (List Word)).map (filterVerdict filter4) = [true, false, false] := by decide

/-- "Example: delta stride at 768 dimensions" (03): PQ8 with m = 64, sign pre-scan, INT8_S16. -/
def delta768 : List Byte := patch (natLe 256 0) 66 (natLe 2 768 ++ [4, 3] ++ natLe 2 64 ++ natLe 2 2)
theorem test_delta_stride : (16 + insCode delta768 + insSign delta768 + insVec delta768, insStride delta768) = (946, 960) := by decide

/-- "Example: locating a PQ4FS code" (03): with m = 64, sub-quantiser 5 of item 853 is the high nibble of byte 26,709. -/
theorem test_pq4fs_code :
    ((sgCode (patch (natLe 256 0) 68 [5, 0, 64, 0]) (patch (natLe 27648 0) 26709 [0xA0]) 853).getD 5 0) = 0xA := by decide +kernel

/-- "Example: decoding an MXFP4 block" (07): nibbles 1, 7 and Ah are 0.5, 6.0 and -1.0 before the scale. -/
theorem test_e2m1 : [1, 7, 0xA].map (fun c => word32 (eltVal 5 c)) = ([0x3F000000, 0x40C00000, 0xBF800000] : List Word) := by decide +kernel

/-- "Example: delayed scaling across two steps" (08): history 3.2, 4.0, 2.5 at depth 4. -/
def slot3 : Slot := { depth := 4, head := 3, count := 3, satLimit := 1, hist := [0x404CCCCD, 0x40800000, 0x40200000] }
/-- s = 127 / 8 = 15.875; as a power of two, 8. -/
theorem test_slot_mult : (slot3.mult 1 false 0, slot3.mult 1 true 0) = (0x417E0000, 0x41000000) := by decide +kernel
/-- 2.0, -7.9 and 9.3 give 32, -125 and 127, the last saturated. -/
theorem test_slot_row :
    (quantRow 0 false 1 false 0x417E0000 [0x40000000, 0xC0FCCCCD, 0x4114CCCD] |> fun r => (r.codes.map (· % 256), r.sats)) = ([32, 131, 127], 1) := by
  decide +kernel
/-- STEP pushes 9.3, empties the step's counts and raises SAT_STEP. -/
theorem test_slot_step :
    ((({ slot3 with curAmax := 0x4114CCCD, stepSat := 1 } : Slot).step |> fun r => (r.1.count, r.1.histMax, r.1.stepSat, r.2)) =
      (4, 0x4114CCCD, 0, true)) := by decide +kernel
/-- "Example: one MXFP4 block" (08): largest value 5.3, scale byte 7Fh; 5.3 codes as 6.0 and 0.7 as 0.5. -/
theorem test_mxfp4_block :
    (quantRow 5 false 0 false 0 ([0x40A9999A, 0x3F333333] ++ List.replicate 30 0) |> fun r => (r.codes.take 2, r.scale, r.sats)) = ([7, 1], [0x7F], 0) := by
  decide +kernel

/-- "Example: a refresh inside a stitch" (10): the bank of unit 125 waits for its stitch, then charges 80 WCLK cycles to it. -/
theorem test_refresh_waits :
    (match exec (.refreshDue 3 251) { State.reset with dev := State.reset.dev.setStack 3 { stitches := [(125, { owner := .stream 0, fn := 0 })] } } with
     | .next s => decide ((s.dev.stack 3).refreshWait = [251])
     | _ => false) = true := by decide +kernel

/-- "Example: one token row" (12): U4SO scale 0.25, offset -1.5; code byte 3Ah decodes to 1.0 and -0.75. -/
theorem test_token_row :
    rowDecode (patch (natLe 64 0) 16 (natLe 1 3 ++ natLe 1 0 ++ natLe 2 2)) (natLe 2 0x3400 ++ natLe 2 0xBE00 ++ natLe 1 0x3A) =
      ([0x3F800000, 0xBF400000] : List Word) := by decide +kernel

/-! Hash, signature and check functions that the spec names, against their published values. -/

/-- SHA-512 of the empty string begins cf83e135 7eefb8bd (FIPS 180-4). -/
theorem test_sha512 : (sha512 []).take 8 = [0xcf, 0x83, 0xe1, 0x35, 0x7e, 0xef, 0xb8, 0xbd] := by decide +kernel
/-- CRC-32C of "123456789" (RFC 3720). -/
theorem test_crc32c : crc32c [0x31, 0x32, 0x33, 0x34, 0x35, 0x36, 0x37, 0x38, 0x39] = 0xE3069283 := by decide +kernel
/-- An odd flip count is never read as clean. -/
theorem test_syndrome_of_one_flip : (({} : Memory).flip 0 1).wclass 0 = .fixData 0 := by decide +kernel

end Sys2Proof.Tests
end

