-- ==== Sys2Proof/Tests/WitnessFabric.lean ====
section
/-! SUPPORT. Witnesses: states and operands that meet the hypotheses of each clause of a statement. Power, fabric, composition, management, links. -/

namespace Sys2Proof.Tests
open Sys2Proof Sys2Proof.Machine
set_option linter.unusedVariables false
set_option Elab.async false

/-- Clause by clause, the hypotheses of `Obligations.PowerControl` are met. -/
theorem witness_PowerControl :
    ((let d : Dev := { dev0 with eng := { eng := [(63, { gated := true })] } }
      let e : Nat := 63
      decide (d.alive = true) &&
      decide (e < d.part.engines) &&
      decide (d.gateShut e (d.engine e) = true) : Bool) = true) ∧
    ((let d : Dev := { (devOn [1]) with now := 800, pwr := { env := 4999 } }
      let mw : Nat := 5000
      let r0 : Nat := 0
      let r1 : Nat := 0
      decide (d.alive = true) &&
      decide (d.pwr.govAt + 800 ≤ d.now) &&
      let need := mw + 23100 * (d.wakes.length + d.wakeWaits)
      decide (d.pwr.env < need) : Bool) = true) ∧
    ((let d : Dev := { (devOn [1]) with now := 800, pwr := { env := 500000 } }
      let mw : Nat := 0
      let r0 : Nat := 0
      let r1 : Nat := 0
      decide (d.alive = true) &&
      decide (d.pwr.govAt + 800 ≤ d.now) &&
      let need := mw + 23100 * (d.wakes.length + d.wakeWaits)
      decide (need ≤ d.pwr.env) : Bool) = true) ∧
    ((let d : Dev := { (devOn [1]).setFd R.pwrLimit 11 0 2000 with now := 1600000 }
      let w : Nat := 2001
      let higher : Nat := 1
      decide (d.alive = true) &&
      decide (d.pwr.limitAt + msCycles 1 ≤ d.now) &&
      let p := d.point
      let d1 := (d.bump pgPwr 0 p).setFd R.pwrStat 27 16 (sat 12 w)
      let d2 : Dev := { d1 with pwr := { d1.pwr with limitAt := d1.now } }
      decide (d2.limitW < w) : Bool) = true) ∧
    ((let d : Dev := { (devOn [1]).setFd R.pwrLimit 11 0 2000 with now := 1600000 }
      let w : Nat := 2000
      let higher : Nat := 1
      decide (d.alive = true) &&
      decide (d.pwr.limitAt + msCycles 1 ≤ d.now) &&
      let p := d.point
      let d1 := (d.bump pgPwr 0 p).setFd R.pwrStat 27 16 (sat 12 w)
      let d2 : Dev := { d1 with pwr := { d1.pwr with limitAt := d1.now } }
      decide (w ≤ d2.limitW) &&
      decide (95 * d2.limitW < 100 * w) : Bool) = true) ∧
    ((let d : Dev := { (devOn [1]).setFd R.pwrLimit 11 0 2000 with now := 16000000, pwr := { lowPower := some 0, ptPower := 1 } }
      let w : Nat := 1900
      let higher : Nat := 1
      decide (d.alive = true) &&
      decide (d.pwr.limitAt + msCycles 1 ≤ d.now) &&
      let p := d.point
      let d1 := (d.bump pgPwr 0 p).setFd R.pwrStat 27 16 (sat 12 w)
      let d2 : Dev := { d1 with pwr := { d1.pwr with limitAt := d1.now } }
      decide (w ≤ d2.limitW) &&
      decide (100 * w ≤ 95 * d2.limitW) : Bool) = true) ∧
    ((let d : Dev := { (devOn [1]).setFd R.pwrIlim 10 0 1000 with now := 16000 }
      let rail : Nat := 1
      let amps : Nat := 1001
      let higher : Nat := 1
      decide (d.alive = true) &&
      decide (rail < 2) &&
      decide (Tab.getD d.pwr.readAt rail 0 + usCycles 10 ≤ d.now) &&
      let d1 := { d with pwr := { d.pwr with readAt := Tab.set d.pwr.readAt rail d.now, avsMiss := Tab.del d.pwr.avsMiss rail } }
      let d2 := d1.setFd (R.pwrVdd rail) 26 16 (sat 11 amps)
      decide (d2.limitA < amps) : Bool) = true) ∧
    ((let d : Dev := { (devOn [1]).setFd R.pwrIlim 10 0 1000 with now := 16000 }
      let rail : Nat := 1
      let amps : Nat := 1000
      let higher : Nat := 1
      decide (d.alive = true) &&
      decide (rail < 2) &&
      decide (Tab.getD d.pwr.readAt rail 0 + usCycles 10 ≤ d.now) &&
      let d1 := { d with pwr := { d.pwr with readAt := Tab.set d.pwr.readAt rail d.now, avsMiss := Tab.del d.pwr.avsMiss rail } }
      let d2 : Dev := d1.setFd (R.pwrVdd rail) 26 16 (sat 11 amps)
      decide (amps ≤ d2.limitA) &&
      decide (95 * d2.limitA < 100 * amps) : Bool) = true) ∧
    ((let d : Dev := { (devOn [1]).setFd R.pwrIlim 10 0 1000 with now := 16000000, pwr := { ptCurrent := 1, lowCurrent := [(0, 0), (1, 0)] } }
      let rail : Nat := 1
      let amps : Nat := 950
      let higher : Nat := 1
      decide (d.alive = true) &&
      decide (rail < 2) &&
      decide (Tab.getD d.pwr.readAt rail 0 + usCycles 10 ≤ d.now) &&
      let d1 := { d with pwr := { d.pwr with readAt := Tab.set d.pwr.readAt rail d.now, avsMiss := Tab.del d.pwr.avsMiss rail } }
      let d2 : Dev := d1.setFd (R.pwrVdd rail) 26 16 (sat 11 amps)
      decide (amps ≤ d2.limitA) &&
      decide (100 * amps ≤ 95 * d2.limitA) &&
      let low := Tab.set d2.pwr.lowCurrent rail (Tab.getD d2.pwr.lowCurrent rail d2.now)
      (match Tab.find? low 0 with
      | some t0 =>
      (match Tab.find? low 1 with
      | some t1 =>
      true
      | _ => false)
      | _ => false) : Bool) = true) ∧
    ((let d : Dev := { (devOn [1]).setFd R.pwrIlim 10 0 1000 with now := 16000 }
      let rail : Nat := 1
      let amps : Nat := 950
      let higher : Nat := 1
      let i : Nat := 0
      decide (d.alive = true) &&
      decide (rail < 2) &&
      decide (Tab.getD d.pwr.readAt rail 0 + usCycles 10 ≤ d.now) &&
      let d1 := { d with pwr := { d.pwr with readAt := Tab.set d.pwr.readAt rail d.now, avsMiss := Tab.del d.pwr.avsMiss rail } }
      let d2 : Dev := d1.setFd (R.pwrVdd rail) 26 16 (sat 11 amps)
      decide (amps ≤ d2.limitA) &&
      decide (100 * amps ≤ 95 * d2.limitA) &&
      let low := Tab.set d2.pwr.lowCurrent rail (Tab.getD d2.pwr.lowCurrent rail d2.now)
      decide (i < 2) &&
      decide (Tab.find? low i = none) : Bool) = true) ∧
    ((let d : Dev := { (devOn [1]) with now := 16000, pwr := { avsMiss := [(1, 2)] } }
      let rail : Nat := 1
      let higher : Nat := 1
      decide (d.alive = true) &&
      decide (rail < 2) &&
      decide (Tab.getD d.pwr.readAt rail 0 + usCycles 10 ≤ d.now) : Bool) = true) ∧
    ((let d : Dev := { (devOn [1]) with now := 160000 }
      let die : Nat := 1
      decide (d.alive = true) &&
      decide (die < 2) &&
      decide (d.pwr.avsDead = false) &&
      decide (Tab.getD d.pwr.adaptAt die 0 + usCycles 100 ≤ d.now) : Bool) = true) ∧
    ((let d : Dev := { (devOn [1]).setFd (R.pwrVdd 1) 9 0 605 with now := 160000 }
      let die : Nat := 1
      decide (d.alive = true) &&
      decide (die < 2) &&
      decide (d.pwr.avsDead = false) &&
      decide (Tab.getD d.pwr.adaptAt die 0 + usCycles 100 ≤ d.now) : Bool) = true) ∧
    ((let d : Dev := { (devOn [1]).setFd (R.pwrVdd 1) 9 0 795 with now := 160000 }
      let die : Nat := 1
      decide (d.alive = true) &&
      decide (die < 2) &&
      decide (d.pwr.avsDead = false) &&
      decide (Tab.getD d.pwr.adaptAt die 0 + usCycles 100 ≤ d.now) : Bool) = true) := by decide +kernel

/-- Clause by clause, the hypotheses of `Obligations.PowerEvents` are met. -/
theorem witness_PowerEvents :
    ((let d : Dev := { dev0 with pins := { dev0.pins with resetN := true } }
      let ns : Nat := 999
      decide (d.pwr.stopped = false) &&
      decide (d.pins.resetN = true) &&
      decide (d.flushing = false) &&
      decide (d.pins.holdupDone = false) &&
      decide (ns < 1000) : Bool) = true) ∧
    ((let d : Dev := { dev0 with pins := { dev0.pins with resetN := true } }
      let ns : Nat := 1000
      decide (d.pwr.stopped = false) &&
      decide (d.pins.resetN = true) &&
      decide (d.flushing = false) &&
      decide (d.pins.holdupDone = false) &&
      decide (1000 ≤ ns) : Bool) = true) ∧
    ((let d : Dev := dev0.setRg R.holdupStat 2
      decide (d.pwr.stopped = false) &&
      decide (d.flushing = true) : Bool) = true) ∧
    ((let d : Dev := { dev0 with pins := { dev0.pins with resetN := true } }
      let ns : Nat := 1001
      decide (d.pwr.stopped = false) &&
      decide (d.pins.resetN = true) &&
      decide (1000 < ns) : Bool) = true) ∧
    ((let d : Dev := { dev0 with now := 160000, pwr := { shedAt := some 0 } }
      decide (d.pwr.stopped = false) &&
      (match d.pwr.shedAt with
      | some t =>
      decide (d.pwr.shed = false) &&
      decide (t + usCycles 100 ≤ d.now)
      | _ => false) : Bool) = true) ∧
    ((let d : Dev := dev0
      let w : Nat := 5
      decide (d.pwr.stopped = false) &&
      decide (w < 6) : Bool) = true) ∧
    ((let d : Dev := dev0
      let n : Nat := 15
      decide (d.pwr.stopped = false) &&
      decide (n < 16) : Bool) = true) ∧
    ((let d : Dev := dev0
      let g : Nat := 5
      decide (d.pwr.stopped = false) &&
      decide (8 * g < d.part.channels) : Bool) = true) ∧
    ((let d : Dev := dev0
      decide (d.pwr.stopped = false) &&
      decide (d.pwr.frefGone = false) : Bool) = true) ∧
    ((let d : Dev := { dev0 with pwr := { frefGone := true } }
      decide (d.pwr.stopped = false) &&
      decide (d.pwr.frefGone = true) : Bool) = true) ∧
    ((let d : Dev := { dev0 with now := 160000, pins := { dev0.pins with resetN := true } }
      let temps : List Int := List.replicate 60 320
      decide (d.pwr.stopped = false) &&
      decide (d.pins.resetN = true) &&
      decide (temps.length = 60) &&
      decide (d.pwr.thermAt + usCycles 100 ≤ d.now) : Bool) = true) := by decide +kernel

/-- Clause by clause, the hypotheses of `Obligations.RequestsAreServed` are met. -/
theorem witness_RequestsAreServed :
    ((let m : Msg := { msg := 1, src := 4095, tag := 3, addr := 64, mapGen := 6, len := 64 }
      let d : Dev := { (devNode [6, 8, 0x1E0] [4095]) with cmp := { cur := some { gen := 7, base := 0x40000, len := 128 }, adm := [(4095, (2, 0))] } }
      let fmt : Nat := 8
      let mode : Nat := 2
      decide (d.alive = true) &&
      decide (d.lat.held.contains m = false) &&
      let d1 := (d.took m).bump pgBuckle 1 2
      (match d1.judge m with
      | some (code, a) =>
      true
      | _ => false) : Bool) = true) ∧
    ((let m : Msg := { msg := 2, src := 4095, tag := 3, addr := 64, mapGen := 6, len := 64, data := natLe 64 1 }
      let d : Dev := { (devNode [6, 8, 0x1E0] [4095]) with cmp := { cur := some { gen := 7, base := 0x40000, len := 128 }, adm := [(4095, (2, 0))] } }
      let fmt : Nat := 8
      let mode : Nat := 2
      decide (d.alive = true) &&
      decide (d.lat.held.contains m = false) &&
      let d1 := (d.took m).bump pgBuckle 1 2
      (match d1.judge m with
      | some (code, a) =>
      true
      | _ => false) : Bool) = true) ∧
    ((let m : Msg := { msg := 3, src := 4095, tag := 3, addr := 64, mapGen := 6, len := 64, data := natLe 64 1 }
      let d : Dev := { (devNode [6, 8, 0x1E0] [4095]) with cmp := { cur := some { gen := 7, base := 0x40000, len := 128 }, adm := [(4095, (2, 0))] } }
      let fmt : Nat := 8
      let mode : Nat := 2
      decide (d.alive = true) &&
      decide (d.lat.held.contains m = false) &&
      let d1 := (d.took m).bump pgBuckle 1 2
      (match d1.judge m with
      | some (code, a) =>
      true
      | _ => false) : Bool) = true) ∧
    ((let m : Msg := { msg := 0x4C, src := 4095, tag := 3, addr := 64, mapGen := 6, len := 64, data := natLe 64 1 }
      let d : Dev := { (devNode [6, 8, 0x1E0] [4095]) with cmp := { cur := some { gen := 7, base := 0x40000, len := 128 }, adm := [(4095, (2, 0))] } }
      let fmt : Nat := 8
      let mode : Nat := 2
      decide (d.alive = true) &&
      decide (d.lat.held.contains m = false) &&
      let d1 := (d.took m).bump pgBuckle 1 2
      (match d1.judge m with
      | some (code, a) =>
      decide (d.runs pgLat = true)
      | _ => false) : Bool) = true) ∧
    ((let m : Msg := { msg := 1, src := 4095, tag := 3, addr := 64, mapGen := 7, len := 63 }
      let d : Dev := { (devNode [6, 8, 0x1E0] [4095]) with cmp := { cur := some { gen := 7, base := 0x40000, len := 128 }, adm := [(4095, (2, 0))] } }
      let fmt : Nat := 8
      let mode : Nat := 2
      decide (d.alive = true) &&
      decide (d.lat.held.contains m = false) &&
      let d1 := (d.took m).bump pgBuckle 1 2
      decide (d1.judge m = none) &&
      decide (reqForm m = false) : Bool) = true) ∧
    ((let m : Msg := { msg := 2, src := 4095, tag := 3, addr := 64, mapGen := 7, len := 64 }
      let d : Dev := { (devNode [6, 8, 0x1E0] [4095]) with cmp := { cur := some { gen := 7, base := 0x40000, len := 128 }, adm := [(4095, (2, 0))] } }
      let fmt : Nat := 8
      let mode : Nat := 2
      decide (d.alive = true) &&
      decide (d.lat.held.contains m = false) &&
      let d1 := (d.took m).bump pgBuckle 1 2
      decide (d1.judge m = none) &&
      decide (reqForm m = false) : Bool) = true) ∧
    ((let m : Msg := { msg := 0x4C, src := 4095, tag := 3, addr := 64, mapGen := 7, len := 64, data := natLe 64 1 }
      let d : Dev := { (devNode [6, 8, 0x1E0] [4095]) with cmp := { cur := some { gen := 7, base := 0x40000, len := 128 }, adm := [(4095, (2, 0))] } }
      let fmt : Nat := 8
      let mode : Nat := 3
      decide (d.alive = true) &&
      decide (d.lat.held.contains m = false) &&
      let d1 := (d.took m).bump pgBuckle 1 2
      decide (d1.judge m = none) &&
      decide (d.runs pgLat = true) &&
      decide (latForm m 64 = false ∨ m.code ≠ 0 ∨ (fmt ≠ 8 ∧ fmt ≠ 9) ∨ 2 < mode) : Bool) = true) ∧
    ((let m : Msg := { msg := 1, src := 4095, tag := 3, addr := 2 ^ 52 - 64, mapGen := 7, len := 64 }
      let d : Dev := { (devNode [6, 8, 0x1E0] [4095]) with cmp := { cur := some { gen := 7, base := 0x40000, len := 128 }, adm := [(4095, (2, 0))] } }
      let fmt : Nat := 8
      let mode : Nat := 2
      decide (d.alive = true) &&
      decide (d.lat.held.contains m = false) &&
      let d1 := (d.took m).bump pgBuckle 1 2
      decide (d1.judge m = none) &&
      (match d1.refusal m with
      | some (code, d2) =>
      decide (reqForm m = true)
      | _ => false) : Bool) = true) ∧
    ((let m : Msg := { msg := 2, src := 4095, tag := 3, addr := 2 ^ 52 - 64, mapGen := 7, len := 64, data := natLe 64 1 }
      let d : Dev := { (devNode [6, 8, 0x1E0] [4095]) with cmp := { cur := some { gen := 7, base := 0x40000, len := 128 }, adm := [(4095, (2, 0))] } }
      let fmt : Nat := 8
      let mode : Nat := 2
      decide (d.alive = true) &&
      decide (d.lat.held.contains m = false) &&
      let d1 := (d.took m).bump pgBuckle 1 2
      decide (d1.judge m = none) &&
      (match d1.refusal m with
      | some (code, d2) =>
      decide (reqForm m = true)
      | _ => false) : Bool) = true) ∧
    ((let m : Msg := { msg := 0x4C, src := 4095, tag := 3, addr := 2 ^ 52 - 64, mapGen := 7, len := 64, data := natLe 64 1 }
      let d : Dev := { (devNode [6, 8, 0x1E0] [4095]) with cmp := { cur := some { gen := 7, base := 0x40000, len := 128 }, adm := [(4095, (2, 0))] } }
      let fmt : Nat := 8
      let mode : Nat := 2
      decide (d.alive = true) &&
      decide (d.lat.held.contains m = false) &&
      let d1 := (d.took m).bump pgBuckle 1 2
      decide (d1.judge m = none) &&
      (match d1.refusal m with
      | some (code, d2) =>
      decide (d.runs pgLat = true) &&
      decide (latForm m 64 = true) &&
      decide (m.code = 0) &&
      decide (fmt = 8 ∨ fmt = 9) &&
      decide (mode ≤ 2)
      | _ => false) : Bool) = true) ∧
    ((let m : Msg := { msg := 1, src := 4095, tag := 3, addr := 64, mapGen := 7, len := 64 }
      let d : Dev := { (devNode [6, 8, 0x1E0] [4095]) with cmp := { cur := some { gen := 7, base := 0x40000, len := 128 }, adm := [(4095, (2, 0))] } }
      decide (d.alive = true) &&
      let d1 := (if d.lat.held.contains m then d else (d.took m).bump pgBuckle 1 2)
      let ls : List (Nat × Nat) := (if m.len < 64 then [(m.addr, m.len)] else cutAt 64 65 m.addr m.len)
      decide (d.lat.held.contains m = true ∨ (d1.judge m = none ∧ reqForm m = true ∧ d1.refusal m = none)) &&
      decide (((match d1.place respPort m.addr with | .far _ => false | _ => true) : Bool) = true) &&
      (match d1.allReady respPort false ls with
      | (d2, ok) =>
      true) : Bool) = true) ∧
    ((let m : Msg := { msg := 1, src := 4095, tag := 3, addr := nbrBase + 1023 * 2 ^ 34, mapGen := 7, len := 64 }
      let d : Dev := { ((devNode [6, 8, 0x1E0] [4095]).setRgb R.nwinMap 1023 (w32 (4095 * 2 ^ 18 + 2 ^ 31))) with cmp := { cur := some { gen := 7, base := 0x40000, len := 128 }, adm := [(4095, (2, 0))] } }
      decide (d.alive = true) &&
      let d1 := (if d.lat.held.contains m then d else (d.took m).bump pgBuckle 1 2)
      let ls : List (Nat × Nat) := (if m.len < 64 then [(m.addr, m.len)] else cutAt 64 65 m.addr m.len)
      decide (d.lat.held.contains m = true ∨ (d1.judge m = none ∧ reqForm m = true ∧ d1.refusal m = none)) &&
      (match d1.place respPort m.addr with
      | .far g =>
      (match d1.remoteRead (forwardReader m) g m.len 7 with
      | (d2, .wait) =>
      true
      | _ => false)
      | _ => false) : Bool) = true) ∧
    ((let m : Msg := { msg := 1, src := 4095, tag := 3, addr := nbrBase + 1023 * 2 ^ 34, mapGen := 7, len := 64 }
      let dz : Dev := ((devNode [6, 8, 0x1E0] [4095]).setRgb R.nwinMap 1023 (w32 (4095 * 2 ^ 18 + 2 ^ 31)))
      let d : Dev := { dz with cmp := { cur := some { gen := 7, base := 0x40000, len := 128 }, adm := [(4095, (2, 0))] }, fab := { dz.fab with bufs := [(forwardReader m, { lines := [(2 ^ 46 * 4095, (natLe 64 1, false))] })] } }
      decide (d.alive = true) &&
      let d1 := (if d.lat.held.contains m then d else (d.took m).bump pgBuckle 1 2)
      let ls : List (Nat × Nat) := (if m.len < 64 then [(m.addr, m.len)] else cutAt 64 65 m.addr m.len)
      decide (d.lat.held.contains m = true ∨ (d1.judge m = none ∧ reqForm m = true ∧ d1.refusal m = none)) &&
      (match d1.place respPort m.addr with
      | .far g =>
      (match d1.remoteRead (forwardReader m) g m.len 7 with
      | (d2, .ready b bad) =>
      true
      | _ => false)
      | _ => false) : Bool) = true) ∧
    ((let m : Msg := { msg := 1, src := 4095, tag := 3, addr := nbrBase + 1023 * 2 ^ 34, mapGen := 7, len := 64 }
      let d : Dev := { ((devNode [6, 8, 0x1E0] [4095]).setRgb R.nwinMap 1023 (w32 (4095 * 2 ^ 18 + 2 ^ 31))) with cmp := { cur := some { gen := 7, base := 0x40000, len := 128 }, adm := [(4095, (2, 0))], st := .fenced }, lat := { held := [m] } }
      decide (d.alive = true) &&
      let d1 := (if d.lat.held.contains m then d else (d.took m).bump pgBuckle 1 2)
      let ls : List (Nat × Nat) := (if m.len < 64 then [(m.addr, m.len)] else cutAt 64 65 m.addr m.len)
      decide (d.lat.held.contains m = true ∨ (d1.judge m = none ∧ reqForm m = true ∧ d1.refusal m = none)) &&
      (match d1.place respPort m.addr with
      | .far g =>
      (match d1.remoteRead (forwardReader m) g m.len 7 with
      | (d2, .fail st) =>
      true
      | _ => false)
      | _ => false) : Bool) = true) ∧
    ((let m : Msg := { msg := 2, src := 4095, tag := 3, addr := 64, mapGen := 7, len := 64, data := natLe 64 1 }
      let d : Dev := { (devNode [6, 8, 0x1E0] [4095]) with cmp := { cur := some { gen := 7, base := 0x40000, len := 128 }, adm := [(4095, (2, 0))] }, lat := { held := [{ msg := 2, src := 4095 }, m] } }
      decide (d.alive = true) &&
      let d1 := (if d.lat.held.contains m then d else (d.took m).bump pgBuckle 1 2)
      let ls : List (Nat × Nat) := (if m.len < 64 then [(m.addr, m.len)] else cutAt 64 65 m.addr m.len)
      decide (d.lat.held.contains m = true ∨ (d1.judge m = none ∧ reqForm m = true ∧ d1.refusal m = none)) &&
      decide (d1.wrBehind m = true) : Bool) = true) ∧
    ((let m : Msg := { msg := 2, src := 4095, tag := 3, addr := 64, mapGen := 7, len := 64, data := natLe 64 1 }
      let d : Dev := { ((devNode [6, 8, 0x1E0] [4095]).setPg 0xC R.blkCtl 0) with cmp := { cur := some { gen := 7, base := 0x40000, len := 128 }, adm := [(4095, (2, 0))] } }
      decide (d.alive = true) &&
      let d1 := (if d.lat.held.contains m then d else (d.took m).bump pgBuckle 1 2)
      let ls : List (Nat × Nat) := (if m.len < 64 then [(m.addr, m.len)] else cutAt 64 65 m.addr m.len)
      decide (d.lat.held.contains m = true ∨ (d1.judge m = none ∧ reqForm m = true ∧ d1.refusal m = none)) &&
      decide (d1.wrBehind m = false) &&
      (match d1.allReady respPort true ls with
      | (d2, ok) =>
      true) : Bool) = true) ∧
    ((let m : Msg := { msg := 0x4C, src := 4095, tag := 3, addr := 64, mapGen := 7, len := 64, data := natLe 64 1 }
      let d : Dev := { (devNode [6, 8, 0x1E0] [4095]) with cmp := { cur := some { gen := 7, base := 0x40000, len := 128 }, adm := [(4095, (2, 0))] } }
      let fmt : Nat := 8
      let mode : Nat := 2
      decide (d.alive = true) &&
      decide (d.runs pgLat = true) &&
      let d1 := (if d.lat.held.contains m then d else (d.took m).bump pgBuckle 1 2)
      decide (d.lat.held.contains m = true ∨ (d1.judge m = none ∧ latForm m 64 = true ∧ m.code = 0 ∧ (fmt = 8 ∨ fmt = 9) ∧ mode ≤ 2 ∧ d1.refusal m = none)) &&
      (match d1.allReady respPort true [(m.addr, 64)] with
      | (d2, ok) =>
      true) : Bool) = true) ∧
    ((let m : Msg := { msg := 3, src := 4095, tag := 3, addr := 64, mapGen := 7, len := 32, data := natLe 32 1, aux := 5 }
      let d : Dev := { (devNode [6, 8, 0x1E0] [4095]) with cmp := { cur := some { gen := 7, base := 0x40000, len := 128 }, adm := [(4095, (2, 0))] } }
      decide (d.alive = true) &&
      let d1 := (d.took m).bump pgBuckle 1 2
      decide (d1.judge m = none) &&
      decide (m.code = 0) &&
      decide (m.vc = 4) &&
      decide (m.data.length = m.len) : Bool) = true) ∧
    ((let m : Msg := { msg := 3, src := 4095, tag := 3, addr := 64, mapGen := 7, len := 32, data := natLe 32 1, aux := 5, vc := 7 }
      let d : Dev := { (devNode [6, 8, 0x1E0] [4095]) with cmp := { cur := some { gen := 7, base := 0x40000, len := 128 }, adm := [(4095, (2, 0))] } }
      decide (d.alive = true) &&
      let d1 := (d.took m).bump pgBuckle 1 2
      decide (d1.judge m = none) &&
      decide (m.code ≠ 0 ∨ m.vc ≠ 4 ∨ m.data.length ≠ m.len) : Bool) = true) ∧
    ((let m : Msg := { msg := 0x40, src := 4095, tag := 3, addr := 64, mapGen := 7 }
      let d : Dev := { (devNode [6, 8, 0x1E0] [4095]) with cmp := { cur := some { gen := 7, base := 0x40000, len := 128 }, adm := [(4095, (2, 0))] } }
      decide (d.alive = true) &&
      decide (d.runs pgLat = true) &&
      decide (m.src ≠ d.node) : Bool) = true) ∧
    ((let m : Msg := { msg := 0x41, src := 4095, tag := 3, addr := 64, mapGen := 7 }
      let d : Dev := { (devNode [6, 8, 0x1E0] [4095]) with cmp := { cur := some { gen := 7, base := 0x40000, len := 128 }, adm := [(4095, (2, 0))] } }
      decide (d.alive = true) &&
      decide (d.runs pgLat = true) &&
      decide (m.src ≠ d.node) : Bool) = true) ∧
    ((let m : Msg := { msg := 0x42, src := 4095, tag := 3, addr := 64, mapGen := 7 }
      let d : Dev := { (devNode [6, 8, 0x1E0] [4095]) with cmp := { cur := some { gen := 7, base := 0x40000, len := 128 }, adm := [(4095, (2, 0))] } }
      decide (d.alive = true) &&
      decide (d.runs pgLat = true) &&
      decide (m.src ≠ d.node) : Bool) = true) ∧
    ((let m : Msg := { msg := 0x43, src := 4095, tag := 3, addr := 64, mapGen := 7 }
      let d : Dev := { (devNode [6, 8, 0x1E0] [4095]) with cmp := { cur := some { gen := 7, base := 0x40000, len := 128 }, adm := [(4095, (2, 0))] } }
      decide (d.alive = true) &&
      decide (d.runs pgLat = true) &&
      decide (m.src ≠ d.node) : Bool) = true) ∧
    ((let m : Msg := { msg := 0x40, src := 0, tag := 3, addr := 64, mapGen := 7 }
      let d : Dev := { (devNode [6, 8, 0x1E0] [4095]) with cmp := { cur := some { gen := 7, base := 0x40000, len := 128 }, adm := [(4095, (2, 0))] } }
      decide (d.alive = true) &&
      decide (d.runs pgLat = true) &&
      decide (m.src = d.node) : Bool) = true) ∧
    ((let m : Msg := { msg := 0x41, src := 0, tag := 3, addr := 64, mapGen := 7 }
      let d : Dev := { (devNode [6, 8, 0x1E0] [4095]) with cmp := { cur := some { gen := 7, base := 0x40000, len := 128 }, adm := [(4095, (2, 0))] } }
      decide (d.alive = true) &&
      decide (d.runs pgLat = true) &&
      decide (m.src = d.node) : Bool) = true) ∧
    ((let m : Msg := { msg := 0x42, src := 0, tag := 3, addr := 64, mapGen := 7 }
      let d : Dev := { (devNode [6, 8, 0x1E0] [4095]) with cmp := { cur := some { gen := 7, base := 0x40000, len := 128 }, adm := [(4095, (2, 0))] } }
      decide (d.alive = true) &&
      decide (d.runs pgLat = true) &&
      decide (m.src = d.node) : Bool) = true) ∧
    ((let m : Msg := { msg := 0x43, src := 0, tag := 3, addr := 64, mapGen := 7 }
      let d : Dev := { (devNode [6, 8, 0x1E0] [4095]) with cmp := { cur := some { gen := 7, base := 0x40000, len := 128 }, adm := [(4095, (2, 0))] } }
      decide (d.alive = true) &&
      decide (d.runs pgLat = true) &&
      decide (m.src = d.node) : Bool) = true) ∧
    ((let m : Msg := { msg := 0x50, src := 4095, tag := 3, addr := 64, mapGen := 7, aux := 15 * 16 }
      let d : Dev := { (devNode [6, 8, 0x1E0] [4095]) with cmp := { cur := some { gen := 7, base := 0x40000, len := 128 }, adm := [(4095, (2, 0))] } }
      decide (d.alive = true) &&
      decide (latForm m 0 = true) : Bool) = true) ∧
    ((let m : Msg := { msg := 0x51, src := 4095, tag := 3, addr := 64, mapGen := 7, aux := 15 * 16 }
      let d : Dev := { (devNode [6, 8, 0x1E0] [4095]) with cmp := { cur := some { gen := 7, base := 0x40000, len := 128 }, adm := [(4095, (2, 0))] } }
      decide (d.alive = true) &&
      decide (latForm m 0 = true) : Bool) = true) ∧
    ((let m : Msg := { msg := 0x50, src := 4095, tag := 3, addr := 64, mapGen := 7, len := 64 }
      let d : Dev := { (devNode [6, 8, 0x1E0] [4095]) with cmp := { cur := some { gen := 7, base := 0x40000, len := 128 }, adm := [(4095, (2, 0))] } }
      decide (d.alive = true) &&
      decide (latForm m 0 = false) : Bool) = true) ∧
    ((let m : Msg := { msg := 0x51, src := 4095, tag := 3, addr := 64, mapGen := 7, len := 64 }
      let d : Dev := { (devNode [6, 8, 0x1E0] [4095]) with cmp := { cur := some { gen := 7, base := 0x40000, len := 128 }, adm := [(4095, (2, 0))] } }
      decide (d.alive = true) &&
      decide (latForm m 0 = false) : Bool) = true) ∧
    ((let m : Msg := { msg := 0x58, src := 4095, tag := 3, addr := 64, mapGen := 7, len := 64 }
      let d : Dev := { (devNode [6, 8, 0x1E0] [4095]) with cmp := { cur := some { gen := 7, base := 0x40000, len := 128 }, adm := [(4095, (2, 0))] } }
      decide (d.alive = true) &&
      decide (latForm m 0 = false) : Bool) = true) ∧
    ((let m : Msg := { msg := 0x59, src := 4095, tag := 3, addr := 64, mapGen := 7, len := 64 }
      let d : Dev := { (devNode [6, 8, 0x1E0] [4095]) with cmp := { cur := some { gen := 7, base := 0x40000, len := 128 }, adm := [(4095, (2, 0))] } }
      decide (d.alive = true) &&
      decide (latForm m 0 = false) : Bool) = true) ∧
    ((let m : Msg := { msg := 0x5A, src := 4095, tag := 3, addr := 64, mapGen := 7 }
      let d : Dev := { (devNode [6, 8, 0x1E0] [4095]) with cmp := { cur := some { gen := 7, base := 0x40000, len := 128 }, adm := [(4095, (2, 0))] } }
      decide (d.alive = true) &&
      decide (latForm m 64 = false) : Bool) = true) ∧
    ((let m : Msg := { msg := 0x5B, src := 4095, tag := 3, addr := 64, mapGen := 7 }
      let d : Dev := { (devNode [6, 8, 0x1E0] [4095]) with cmp := { cur := some { gen := 7, base := 0x40000, len := 128 }, adm := [(4095, (2, 0))] } }
      decide (d.alive = true) &&
      decide (latForm m 64 = false) : Bool) = true) ∧
    ((let m : Msg := { msg := 0x58, src := 4095, tag := 3, addr := 64, mapGen := 7, aux := 15 }
      let d : Dev := { (devNode [6, 8, 0x1E0] [4095]) with cmp := { cur := some { gen := 7, base := 0x40000, len := 128 }, adm := [(4095, (2, 0))] } }
      decide (d.alive = true) &&
      decide (((Tab.find? (d.took m).lat.busy (m.addr % 2 ^ 52 / 64)).map (fun t => Tab.has t.waiting (srcAgent m))).getD false = false) &&
      decide (latForm m 0 = true) : Bool) = true) ∧
    ((let m : Msg := { msg := 0x59, src := 4095, tag := 3, addr := 64, mapGen := 7, aux := 15 }
      let d : Dev := { (devNode [6, 8, 0x1E0] [4095]) with cmp := { cur := some { gen := 7, base := 0x40000, len := 128 }, adm := [(4095, (2, 0))] } }
      decide (d.alive = true) &&
      decide (((Tab.find? (d.took m).lat.busy (m.addr % 2 ^ 52 / 64)).map (fun t => Tab.has t.waiting (srcAgent m))).getD false = false) &&
      decide (latForm m 0 = true) : Bool) = true) ∧
    ((let m : Msg := { msg := 0x5A, src := 4095, tag := 3, addr := 64, mapGen := 7, aux := 15, len := 64, data := natLe 64 1 }
      let d : Dev := { (devNode [6, 8, 0x1E0] [4095]) with cmp := { cur := some { gen := 7, base := 0x40000, len := 128 }, adm := [(4095, (2, 0))] } }
      decide (d.alive = true) &&
      decide (((Tab.find? (d.took m).lat.busy (m.addr % 2 ^ 52 / 64)).map (fun t => Tab.has t.waiting (srcAgent m))).getD false = false) &&
      decide (latForm m 64 = true) : Bool) = true) ∧
    ((let m : Msg := { msg := 0x5B, src := 4095, tag := 3, addr := 64, mapGen := 7, aux := 15, len := 64, data := natLe 64 1 }
      let d : Dev := { (devNode [6, 8, 0x1E0] [4095]) with cmp := { cur := some { gen := 7, base := 0x40000, len := 128 }, adm := [(4095, (2, 0))] } }
      decide (d.alive = true) &&
      decide (((Tab.find? (d.took m).lat.busy (m.addr % 2 ^ 52 / 64)).map (fun t => Tab.has t.waiting (srcAgent m))).getD false = false) &&
      decide (latForm m 64 = true) : Bool) = true) ∧
    ((let m : Msg := { msg := 0x58, src := 4095, tag := 3, addr := 64, mapGen := 7, aux := 15 }
      let d : Dev := { (devNode [6, 8, 0x1E0] [4095]) with cmp := { cur := some { gen := 7, base := 0x40000, len := 128 }, adm := [(4095, (2, 0))] }, lat := { busy := [(1, { req := .rdOwn, waiting := [(4095 + 4096 * 15, 5)] })] } }
      decide (d.alive = true) &&
      let l := m.addr % 2 ^ 52 / 64
      (match Tab.find? (d.took m).lat.busy l with
      | some t =>
      decide (Tab.has t.waiting (srcAgent m) = true) &&
      let p := (m.aux / 256).testBit 0
      decide (latForm m 0 = true)
      | _ => false) : Bool) = true) ∧
    ((let m : Msg := { msg := 0x59, src := 4095, tag := 3, addr := 64, mapGen := 7, aux := 15 }
      let d : Dev := { (devNode [6, 8, 0x1E0] [4095]) with cmp := { cur := some { gen := 7, base := 0x40000, len := 128 }, adm := [(4095, (2, 0))] }, lat := { busy := [(1, { req := .rdShared, waiting := [(4095 + 4096 * 15, 5)] })] } }
      decide (d.alive = true) &&
      let l := m.addr % 2 ^ 52 / 64
      (match Tab.find? (d.took m).lat.busy l with
      | some t =>
      decide (Tab.has t.waiting (srcAgent m) = true) &&
      let p := (m.aux / 256).testBit 0
      decide (latForm m 0 = true) &&
      decide (t.req = .rdShared ∨ t.req = .ncRead)
      | _ => false) : Bool) = true) ∧
    ((let m : Msg := { msg := 0x5A, src := 4095, tag := 3, addr := 64, mapGen := 7, aux := 15, len := 64, data := natLe 64 1 }
      let d : Dev := { (devNode [6, 8, 0x1E0] [4095]) with cmp := { cur := some { gen := 7, base := 0x40000, len := 128 }, adm := [(4095, (2, 0))] }, lat := { busy := [(1, { req := .rdOwn, waiting := [(4095 + 4096 * 15, 5)] })] } }
      decide (d.alive = true) &&
      let l := m.addr % 2 ^ 52 / 64
      (match Tab.find? (d.took m).lat.busy l with
      | some t =>
      decide (Tab.has t.waiting (srcAgent m) = true) &&
      let p := (m.aux / 256).testBit 0
      decide (latForm m 64 = true)
      | _ => false) : Bool) = true) ∧
    ((let m : Msg := { msg := 0x5B, src := 4095, tag := 3, addr := 64, mapGen := 7, aux := 15, len := 64, data := natLe 64 1 }
      let d : Dev := { (devNode [6, 8, 0x1E0] [4095]) with cmp := { cur := some { gen := 7, base := 0x40000, len := 128 }, adm := [(4095, (2, 0))] }, lat := { busy := [(1, { req := .rdShared, waiting := [(4095 + 4096 * 15, 5)] })] } }
      decide (d.alive = true) &&
      let l := m.addr % 2 ^ 52 / 64
      (match Tab.find? (d.took m).lat.busy l with
      | some t =>
      decide (Tab.has t.waiting (srcAgent m) = true) &&
      let p := (m.aux / 256).testBit 0
      decide (latForm m 64 = true) &&
      decide (t.req = .rdShared ∨ t.req = .ncRead)
      | _ => false) : Bool) = true) ∧
    ((let m : Msg := { msg := 0, src := 4095, tag := 3, addr := 64, mapGen := 7 }
      let d : Dev := { (devNode [6, 8, 0x1E0] [4095]) with cmp := { cur := some { gen := 7, base := 0x40000, len := 128 }, adm := [(4095, (2, 0))] }, lat := { busy := [(1, { req := .rdOwn, waiting := [(4095 + 4096 * 15, 5)] })] }, now := 5 }
      let l : Nat := 1
      let a : Nat := 4095 + 4096 * 15
      decide (d.alive = true) &&
      (match Tab.find? d.lat.busy l with
      | some t =>
      (match Tab.find? t.waiting a with
      | some w =>
      decide (w ≤ d.now)
      | _ => false)
      | _ => false) : Bool) = true) := by decide +kernel

/-- Clause by clause, the hypotheses of `Obligations.ResponsesAreTaken` are met. -/
theorem witness_ResponsesAreTaken :
    ((let d0 : Dev := running (devNode [6, 8, 0x1E0] [4095]) 4095 1 []
      let d : Dev := { d0 with fab := { d0.fab with tp := { d0.fab.tp with tags := [(8191, { use := .service, gen := 7, node := 4095, sent := 0, msg := 3, addr := 64 })] } } }
      let m : Msg := { tag := 8191 + 7 * 8192, src := 4095, code := 1 }
      (match (d.took m).matchTag m with
      | some (t, e) =>
      true
      | _ => false) : Bool) = true) ∧
    ((let d0 : Dev := running (devNode [6, 8, 0x1E0] [4095]) 4095 1 []
      let d : Dev := { d0 with fab := { d0.fab with tp := { d0.fab.tp with tags := [(8191, { use := .cmdRead 4095 0 64 64, gen := 7, node := 4095, sent := 0, msg := 1, addr := 64 })] } } }
      let m : Msg := { tag := 8191 + 7 * 8192, src := 4095, addr := 64, len := 64, data := natLe 64 1 }
      (match (d.took m).matchTag m with
      | some (t, e) =>
      let d1 : Dev := ((d.took m).freeTagEntry t).bump pgBuckle 1 1
      decide (m.code = 0) &&
      decide (e.msg = 1) &&
      (match e.use with
      | .cmdRead i c a n =>
      true
      | _ => false)
      | _ => false) : Bool) = true) ∧
    ((let d0 : Dev := running (devNode [6, 8, 0x1E0] [4095]) 4095 1 []
      let d : Dev := { d0 with fab := { d0.fab with tp := { d0.fab.tp with tags := [(8191, { use := .masterRead 15 64 64, gen := 7, node := 4095, sent := 0, msg := 1, addr := 64 })] } } }
      let m : Msg := { tag := 8191 + 7 * 8192, src := 4095, addr := 0, len := 64, data := natLe 64 1 }
      (match (d.took m).matchTag m with
      | some (t, e) =>
      let d1 : Dev := ((d.took m).freeTagEntry t).bump pgBuckle 1 1
      decide (m.code = 0) &&
      decide (e.msg = 1) &&
      (match e.use with
      | .masterRead i a n =>
      true
      | _ => false)
      | _ => false) : Bool) = true) ∧
    ((let d0 : Dev := running (devNode [6, 8, 0x1E0] [4095]) 4095 1 []
      let d : Dev := { d0 with fab := { d0.fab with tp := { d0.fab.tp with tags := [(8191, { use := .saddle 15 0, gen := 7, node := 4095, sent := 0, msg := 1, addr := 64 })] } } }
      let m : Msg := { tag := 8191 + 7 * 8192, src := 4095, addr := 0, len := 64, data := natLe 64 1 }
      (match (d.took m).matchTag m with
      | some (t, e) =>
      let d1 : Dev := ((d.took m).freeTagEntry t).bump pgBuckle 1 1
      decide (m.code = 0) &&
      decide (e.msg = 1) &&
      (match e.use with
      | .saddle i s =>
      true
      | _ => false)
      | _ => false) : Bool) = true) ∧
    ((let d0 : Dev := running (devNode [6, 8, 0x1E0] [4095]) 4095 1 []
      let d : Dev := { d0 with fab := { d0.fab with tp := { d0.fab.tp with tags := [(8191, { use := .recovery 0, gen := 7, node := 4095, sent := 0, msg := 1, addr := 64 })] } } }
      let m : Msg := { tag := 8191 + 7 * 8192, src := 4095 }
      (match (d.took m).matchTag m with
      | some (t, e) =>
      let d1 : Dev := ((d.took m).freeTagEntry t).bump pgBuckle 1 1
      decide (m.code = 0) &&
      decide (e.msg = 1) &&
      (match e.use with
      | .recovery o =>
      true
      | _ => false)
      | _ => false) : Bool) = true) ∧
    ((let d0 : Dev := running (devNode [6, 8, 0x1E0] [4095]) 4095 1 []
      let d : Dev := { d0 with fab := { d0.fab with tp := { d0.fab.tp with tags := [(8191, { use := .cmdWrite 4095 0 64, gen := 7, node := 4095, sent := 0, msg := 2, addr := 64 })] } } }
      let m : Msg := { tag := 8191 + 7 * 8192, src := 4095 }
      (match (d.took m).matchTag m with
      | some (t, e) =>
      let d1 : Dev := ((d.took m).freeTagEntry t).bump pgBuckle 1 1
      decide (m.code = 0) &&
      decide (e.msg = 2) &&
      (match e.use with
      | .cmdWrite c k b =>
      true
      | _ => false)
      | _ => false) : Bool) = true) ∧
    ((let d0 : Dev := running (devNode [6, 8, 0x1E0] [4095]) 4095 1 []
      let d : Dev := { d0 with fab := { d0.fab with tp := { d0.fab.tp with tags := [(8191, { use := .forward 4095 5 7, gen := 7, node := 4095, sent := 0, msg := 2, addr := 64 })] } } }
      let m : Msg := { tag := 8191 + 7 * 8192, src := 4095 }
      (match (d.took m).matchTag m with
      | some (t, e) =>
      let d1 : Dev := ((d.took m).freeTagEntry t).bump pgBuckle 1 1
      decide (m.code = 0) &&
      decide (e.msg = 2) &&
      (match e.use with
      | .forward n g k =>
      true
      | _ => false)
      | _ => false) : Bool) = true) ∧
    ((let d0 : Dev := running (devNode [6, 8, 0x1E0] [4095]) 4095 1 []
      let d : Dev := { d0 with fab := { d0.fab with tp := { d0.fab.tp with tags := [(8191, { use := .migWrite 5 6, gen := 7, node := 4095, sent := 0, msg := 2, addr := 64 })] } } }
      let m : Msg := { tag := 8191 + 7 * 8192, src := 4095 }
      (match (d.took m).matchTag m with
      | some (t, e) =>
      let d1 : Dev := ((d.took m).freeTagEntry t).bump pgBuckle 1 1
      decide (m.code = 0) &&
      decide (e.msg = 2) &&
      (match e.use with
      | .migWrite o i =>
      true
      | _ => false)
      | _ => false) : Bool) = true) ∧
    ((let d0 : Dev := running (devNode [6, 8, 0x1E0] [4095]) 4095 1 []
      let d : Dev := { d0 with fab := { d0.fab with tp := { d0.fab.tp with tags := [(8191, { use := .service, gen := 7, node := 4095, sent := 0, msg := 1, addr := 64 })] } } }
      let m : Msg := { tag := 8191 + 7 * 8192, src := 4095, code := 4, addr := 64 }
      (match (d.took m).matchTag m with
      | some (t, e) =>
      let d1 : Dev := ((d.took m).freeTagEntry t).bump pgBuckle 1 1
      decide (m.code ≠ 0) &&
      decide (e.msg = 1)
      | _ => false) : Bool) = true) ∧
    ((let d0 : Dev := running (devNode [6, 8, 0x1E0] [4095]) 4095 1 []
      let d : Dev := { d0 with fab := { d0.fab with tp := { d0.fab.tp with tags := [(8191, { use := .service, gen := 7, node := 4095, sent := 0, msg := 2, addr := 64 })] } } }
      let m : Msg := { tag := 8191 + 7 * 8192, src := 4095, code := 4, addr := 64 }
      (match (d.took m).matchTag m with
      | some (t, e) =>
      let d1 : Dev := ((d.took m).freeTagEntry t).bump pgBuckle 1 1
      decide (m.code ≠ 0) &&
      decide (e.msg = 2)
      | _ => false) : Bool) = true) ∧
    ((let d0 : Dev := running (devNode [6, 8, 0x1E0] [4095]) 4095 1 []
      let d : Dev := { d0 with fab := { d0.fab with tp := { d0.fab.tp with tags := [(8191, { use := .service, gen := 7, node := 4095, sent := 0, msg := 3, addr := 64 })] } } }
      let m : Msg := { tag := 8191 + 7 * 8192, src := 4095, code := 4, addr := 64 }
      (match (d.took m).matchTag m with
      | some (t, e) =>
      let d1 : Dev := ((d.took m).freeTagEntry t).bump pgBuckle 1 1
      decide (m.code ≠ 0) &&
      decide (e.msg = 3)
      | _ => false) : Bool) = true) ∧
    ((let d0 : Dev := running (devNode [6, 8, 0x1E0] [4095]) 4095 1 []
      let d : Dev := { d0 with fab := { d0.fab with tp := { d0.fab.tp with tags := [(8191, { use := .service, gen := 7, node := 4095, sent := 0, msg := 0x40, addr := 64 })] } } }
      let m : Msg := { tag := 8191 + 7 * 8192, src := 4095, code := 4, addr := 64 }
      (match (d.took m).matchTag m with
      | some (t, e) =>
      let d1 : Dev := ((d.took m).freeTagEntry t).bump pgBuckle 1 1
      decide (m.code ≠ 0) &&
      decide (e.msg = 0x40)
      | _ => false) : Bool) = true) ∧
    ((let d0 : Dev := running (devNode [6, 8, 0x1E0] [4095]) 4095 1 []
      let d : Dev := { d0 with fab := { d0.fab with tp := { d0.fab.tp with tags := [(8191, { use := .service, gen := 7, node := 4095, sent := 0, msg := 0x41, addr := 64 })] } } }
      let m : Msg := { tag := 8191 + 7 * 8192, src := 4095, code := 4, addr := 64 }
      (match (d.took m).matchTag m with
      | some (t, e) =>
      let d1 : Dev := ((d.took m).freeTagEntry t).bump pgBuckle 1 1
      decide (m.code ≠ 0) &&
      decide (e.msg = 0x41)
      | _ => false) : Bool) = true) ∧
    ((let d0 : Dev := running (devNode [6, 8, 0x1E0] [4095]) 4095 1 []
      let d : Dev := { d0 with fab := { d0.fab with tp := { d0.fab.tp with tags := [(8191, { use := .service, gen := 7, node := 4095, sent := 0, msg := 0x43, addr := 64 })] } } }
      let m : Msg := { tag := 8191 + 7 * 8192, src := 4095, code := 4, addr := 64 }
      (match (d.took m).matchTag m with
      | some (t, e) =>
      let d1 : Dev := ((d.took m).freeTagEntry t).bump pgBuckle 1 1
      decide (m.code ≠ 0) &&
      decide (e.msg = 0x43)
      | _ => false) : Bool) = true) ∧
    ((let d0 : Dev := running (devNode [6, 8, 0x1E0] [4095]) 4095 1 []
      let d : Dev := { d0 with fab := { d0.fab with tp := { d0.fab.tp with tags := [(8191, { use := .service, gen := 7, node := 4095, sent := 0, msg := 0x44, addr := 64 })] } } }
      let m : Msg := { tag := 8191 + 7 * 8192, src := 4095, code := 4, addr := 64 }
      (match (d.took m).matchTag m with
      | some (t, e) =>
      let d1 : Dev := ((d.took m).freeTagEntry t).bump pgBuckle 1 1
      decide (m.code ≠ 0) &&
      decide (e.msg = 0x44)
      | _ => false) : Bool) = true) ∧
    ((let d0 : Dev := running (devNode [6, 8, 0x1E0] [4095]) 4095 1 []
      let d : Dev := { d0 with fab := { d0.fab with tp := { d0.fab.tp with tags := [(8191, { use := .service, gen := 7, node := 4095, sent := 0, msg := 3, addr := 64 })] } } }
      let m : Msg := { tag := 8191 + 7 * 8192, src := 4095 }
      (match (d.took m).matchTag m with
      | some (t, e) =>
      let d1 : Dev := ((d.took m).freeTagEntry t).bump pgBuckle 1 1
      decide (m.code = 0) &&
      decide (e.msg = 3)
      | _ => false) : Bool) = true) ∧
    ((let d0 : Dev := running (devNode [6, 8, 0x1E0] [4095]) 4095 1 []
      let d : Dev := { d0 with fab := { d0.fab with tp := { d0.fab.tp with tags := [(8191, { use := .agent 15 (2 ^ 52 * 4095 + 64), gen := 7, node := 4095, sent := 0, msg := 0x40, addr := 64 })] } } }
      let m : Msg := { tag := 8191 + 7 * 8192, src := 4095, addr := 64, len := 64, data := natLe 64 1 }
      (match (d.took m).matchTag m with
      | some (t, e) =>
      let d1 : Dev := ((d.took m).freeTagEntry t).bump pgBuckle 1 1
      decide (m.code = 0) &&
      (match e.use with
      | .agent c g =>
      let d2 := { d1 with lat := { d1.lat with asking := delNat d1.lat.asking (d1.lineKey g c) } }
      decide (latForm m 64 = true) &&
      decide (e.msg = 0x40)
      | _ => false)
      | _ => false) : Bool) = true) ∧
    ((let d0 : Dev := running (devNode [6, 8, 0x1E0] [4095]) 4095 1 []
      let d : Dev := { d0 with fab := { d0.fab with tp := { d0.fab.tp with tags := [(8191, { use := .agent 15 (2 ^ 52 * 4095 + 64), gen := 7, node := 4095, sent := 0, msg := 0x41, addr := 64 })] } } }
      let m : Msg := { tag := 8191 + 7 * 8192, src := 4095, addr := 64, len := 64, data := natLe 64 1 }
      (match (d.took m).matchTag m with
      | some (t, e) =>
      let d1 : Dev := ((d.took m).freeTagEntry t).bump pgBuckle 1 1
      decide (m.code = 0) &&
      (match e.use with
      | .agent c g =>
      let d2 := { d1 with lat := { d1.lat with asking := delNat d1.lat.asking (d1.lineKey g c) } }
      decide (latForm m 64 = true) &&
      decide (e.msg = 0x40 ∨ e.msg = 0x41 ∨ e.msg = 0x42)
      | _ => false)
      | _ => false) : Bool) = true) ∧
    ((let d0 : Dev := running (devNode [6, 8, 0x1E0] [4095]) 4095 1 []
      let d : Dev := { d0 with fab := { d0.fab with tp := { d0.fab.tp with tags := [(8191, { use := .agent 15 (2 ^ 52 * 4095 + 64), gen := 7, node := 4095, sent := 0, msg := 0x42, addr := 64 })] } } }
      let m : Msg := { tag := 8191 + 7 * 8192, src := 4095, addr := 64, len := 64, data := natLe 64 1 }
      (match (d.took m).matchTag m with
      | some (t, e) =>
      let d1 : Dev := ((d.took m).freeTagEntry t).bump pgBuckle 1 1
      decide (m.code = 0) &&
      (match e.use with
      | .agent c g =>
      let d2 := { d1 with lat := { d1.lat with asking := delNat d1.lat.asking (d1.lineKey g c) } }
      decide (latForm m 64 = true) &&
      decide (e.msg = 0x40 ∨ e.msg = 0x41 ∨ e.msg = 0x42)
      | _ => false)
      | _ => false) : Bool) = true) ∧
    ((let d0 : Dev := running (devNode [6, 8, 0x1E0] [4095]) 4095 1 []
      let d00 : Dev := { d0 with fab := { d0.fab with tp := { d0.fab.tp with tags := [(8191, { use := .agent 15 (2 ^ 52 * 4095 + 64), gen := 7, node := 4095, sent := 0, msg := 0x42, addr := 64 })] } } }
      let d : Dev := d00.setCoreLine 15 (2 ^ 52 * 4095 + 64) { exclusive := false, data := natLe 64 1, poison := false, untracked := false }
      let m : Msg := { tag := 8191 + 7 * 8192, src := 4095, addr := 64 }
      (match (d.took m).matchTag m with
      | some (t, e) =>
      let d1 : Dev := ((d.took m).freeTagEntry t).bump pgBuckle 1 1
      decide (m.code = 0) &&
      (match e.use with
      | .agent c g =>
      let d2 := { d1 with lat := { d1.lat with asking := delNat d1.lat.asking (d1.lineKey g c) } }
      decide (latForm m 0 = true) &&
      decide (e.msg = 0x42) &&
      (match d2.coreLine? c g with
      | some y =>
      true
      | _ => false)
      | _ => false)
      | _ => false) : Bool) = true) ∧
    ((let d0 : Dev := running (devNode [6, 8, 0x1E0] [4095]) 4095 1 []
      let d : Dev := { d0 with fab := { d0.fab with tp := { d0.fab.tp with tags := [(8191, { use := .agent 15 (2 ^ 52 * 4095 + 64), gen := 7, node := 4095, sent := 0, msg := 0x43, addr := 64 })] } } }
      let m : Msg := { tag := 8191 + 7 * 8192, src := 4095, addr := 64 }
      (match (d.took m).matchTag m with
      | some (t, e) =>
      let d1 : Dev := ((d.took m).freeTagEntry t).bump pgBuckle 1 1
      decide (m.code = 0) &&
      (match e.use with
      | .agent c g =>
      let d2 := { d1 with lat := { d1.lat with asking := delNat d1.lat.asking (d1.lineKey g c) } }
      decide (latForm m 0 = true) &&
      decide (e.msg = 0x43)
      | _ => false)
      | _ => false) : Bool) = true) ∧
    ((let d0 : Dev := running (devNode [6, 8, 0x1E0] [4095]) 4095 1 []
      let d : Dev := { d0 with fab := { d0.fab with tp := { d0.fab.tp with tags := [(8191, { use := .reduce 4095 0 64, gen := 7, node := 4095, sent := 0, msg := 0x44, addr := 64 })] } } }
      let m : Msg := { tag := 8191 + 7 * 8192, src := 4095, addr := 64 }
      (match (d.took m).matchTag m with
      | some (t, e) =>
      let d1 : Dev := ((d.took m).freeTagEntry t).bump pgBuckle 1 1
      decide (m.code = 0) &&
      decide (latForm m 0 = true) &&
      decide (e.msg = 0x44) &&
      (match e.use with
      | .reduce c k a =>
      decide (d1.isLive c k = true)
      | _ => false)
      | _ => false) : Bool) = true) ∧
    ((let d0 : Dev := running (devNode [6, 8, 0x1E0] [4095]) 4095 1 []
      let d : Dev := { d0 with now := 80000, fab := { d0.fab with tp := { d0.fab.tp with tags := [(8191, { use := .service, gen := 7, node := 4095, sent := 0, msg := 3, addr := 64 })] } } }
      let m : Msg := { tag := 8191 + 7 * 8192, src := 4095 }
      let t : Nat := 8191
      decide (t < 8192) &&
      (match Tab.find? d.fab.tp.tags t with
      | some e =>
      decide (e.sent + usCycles 50 ≤ d.now) &&
      decide (d.unsent t e = false) &&
      decide (d.alive = true)
      | _ => false) : Bool) = true) ∧
    ((let d0 : Dev := running (devNode [6, 8, 0x1E0] [4095]) 4095 1 []
      let d : Dev := { d0 with fab := { d0.fab with tp := { d0.fab.tp with tags := [(8191, { use := .service, gen := 7, node := 4095, sent := 0, msg := 3, addr := 64 })] } } }
      let m : Msg := { tag := 8191 + 7 * 8192, src := 4095 }
      let n : Msg := { tag := 8190, src := 4095 }
      (match (d.took m).matchTag m with
      | some (t, e) =>
      let d1 : Dev := ((d.took m).freeTagEntry t).bump pgBuckle 1 1
      decide ((d.took n).matchTag n = none)
      | _ => false) : Bool) = true) := by decide +kernel

/-- Clause by clause, the hypotheses of `Obligations.Composition` are met. -/
theorem witness_Composition :
    ((let d : Dev := devNode [0x1E0] []
      decide (d.runs pgBuckle = true) : Bool) = true) ∧
    ((let d : Dev := devNode [0x1E0] []
      decide (d.runs pgBuckle = true) : Bool) = true) ∧
    ((let d : Dev := { (devNode [6, 8, 0x1E0] [4095]).store 0x40004 (natLe 4 4095) with now := 1600000 * 65535, cmp := { cur := some { gen := 7, base := 0x40000, len := 128 }, old := some { gen := 6, base := 0, len := 0 } } }
      (match d.cmp.old with
      | some g =>
      decide (g.since + msCycles (max (d.fd R.cmpCfg 31 16) 1) ≤ d.now)
      | _ => false) : Bool) = true) ∧
    ((let d : Dev := devNode [0x1E0] []
      decide (d.cmp.st ≠ .admitted) &&
      decide (d.cmp.testRunning = false) &&
      decide (d.runs pgBuckle = true) : Bool) = true) ∧
    ((let d : Dev := { dev0 with cmp := { testRunning := true } }
      let found : Nat := 3
      decide (d.cmp.testRunning = true) : Bool) = true) ∧
    ((let d : Dev := { (devNode [6, 8, 0x1E0] [4095]).store 0x40004 (natLe 4 4095) with cmp := { cur := some { gen := 7, base := 0x40000, len := 128 } } }
      let m : Msg := { msg := 0x10, src := 4095, len := 32, data := bytesOf 32 [(0, 1, 0)] }
      decide (m.msg = 0x10) &&
      decide (d.nodeValid = true) &&
      decide (m.dst = d.node) &&
      let d1 := d.took m
      let d2 : Dev := (if d1.fmNode = some m.src then { d1 with cmp := { d1.cmp with lastFm := d1.now } } else d1)
      decide (leAt m.data 0 1 = 0 ∨ 4 < leAt m.data 0 1) : Bool) = true) ∧
    ((let d : Dev := { (devNode [6, 8, 0x1E0] [4095]).store 0x40004 (natLe 4 4095) with cmp := { cur := some { gen := 7, base := 0x40000, len := 128 } } }
      let m : Msg := { msg := 0x10, src := 4095, len := 32, data := bytesOf 32 [(0, 1, 5)] }
      decide (m.msg = 0x10) &&
      decide (d.nodeValid = true) &&
      decide (m.dst = d.node) &&
      let d1 := d.took m
      let d2 : Dev := (if d1.fmNode = some m.src then { d1 with cmp := { d1.cmp with lastFm := d1.now } } else d1)
      decide (leAt m.data 0 1 = 0 ∨ 4 < leAt m.data 0 1) : Bool) = true) ∧
    ((let d : Dev := { (devNode [6, 8, 0x1E0] [4095]).store 0x40004 (natLe 4 4095) with cmp := { cur := some { gen := 7, base := 0x40000, len := 128 } } }
      let m : Msg := { msg := 0x10, src := 4095, len := 32, data := bytesOf 32 [(0, 1, 255)] }
      decide (m.msg = 0x10) &&
      decide (d.nodeValid = true) &&
      decide (m.dst = d.node) &&
      let d1 := d.took m
      let d2 : Dev := (if d1.fmNode = some m.src then { d1 with cmp := { d1.cmp with lastFm := d1.now } } else d1)
      decide (leAt m.data 0 1 = 0 ∨ 4 < leAt m.data 0 1) : Bool) = true) ∧
    ((let d : Dev := { (devNode [6, 8, 0x1E0] [4095]).store 0x40004 (natLe 4 4095) with cmp := { cur := some { gen := 7, base := 0x40000, len := 128 } } }
      let m : Msg := { msg := 0x10, src := 4095, len := 32, data := bytesOf 32 [(0, 1, 0)] }
      decide (m.msg = 0x10) &&
      decide (d.nodeValid = true) &&
      decide (m.dst = d.node) &&
      let d1 := d.took m
      let d2 : Dev := (if d1.fmNode = some m.src then { d1 with cmp := { d1.cmp with lastFm := d1.now } } else d1)
      decide (leAt m.data 0 1 = 0 ∨ 4 < leAt m.data 0 1) : Bool) = true) ∧
    ((let d : Dev := { (devNode [6, 8, 0x1E0] [4095]).store 0x40004 (natLe 4 4095) with cmp := { cur := some { gen := 7, base := 0x40000, len := 128 } } }
      let m : Msg := { msg := 0x10, src := 4095, len := 32, data := bytesOf 32 [(0, 1, 1)] }
      decide (m.msg = 0x10) &&
      decide (d.nodeValid = true) &&
      decide (m.dst = d.node) &&
      let d1 := d.took m
      let d2 : Dev := (if d1.fmNode = some m.src then { d1 with cmp := { d1.cmp with lastFm := d1.now } } else d1)
      decide (leAt m.data 0 1 = 1) : Bool) = true) ∧
    ((let d : Dev := { (devNode [6, 8, 0x1E0] [4095]).store 0x40004 (natLe 4 4095) with cmp := { cur := some { gen := 7, base := 0x40000, len := 128 } } }
      let m : Msg := { msg := 0x10, src := 4095, len := 32, data := bytesOf 32 [(0, 1, 2), (4, 4, 4095)] }
      decide (m.msg = 0x10) &&
      decide (d.nodeValid = true) &&
      decide (m.dst = d.node) &&
      let d1 := d.took m
      let d2 := (if d1.fmNode = some m.src then { d1 with cmp := { d1.cmp with lastFm := d1.now } } else d1)
      decide (leAt m.data 0 1 = 2) &&
      decide (d2.fmNode = none ∨ d2.fmNode = some m.src) : Bool) = true) ∧
    ((let d : Dev := { (devNode [6, 8, 0x1E0] [4095]).store 0x40004 (natLe 4 4095) with cmp := { cur := some { gen := 7, base := 0x40000, len := 128 } } }
      let m : Msg := { msg := 0x10, src := 4095, len := 32, data := bytesOf 32 [(0, 1, 3)] }
      decide (m.msg = 0x10) &&
      decide (d.nodeValid = true) &&
      decide (m.dst = d.node) &&
      let d1 := d.took m
      let d2 := (if d1.fmNode = some m.src then { d1 with cmp := { d1.cmp with lastFm := d1.now } } else d1)
      decide (leAt m.data 0 1 = 3) &&
      decide (d2.fmNode = none ∨ d2.fmNode = some m.src) : Bool) = true) ∧
    ((let d : Dev := { (devNode [6, 8, 0x1E0] [4095]).store 0x40004 (natLe 4 4095) with cmp := { cur := some { gen := 7, base := 0x40000, len := 128 } } }
      let m : Msg := { msg := 0x10, src := 5, len := 32, data := bytesOf 32 [(0, 1, 2)] }
      decide (m.msg = 0x10) &&
      decide (d.nodeValid = true) &&
      decide (m.dst = d.node) &&
      let d1 := d.took m
      let d2 := (if d1.fmNode = some m.src then { d1 with cmp := { d1.cmp with lastFm := d1.now } } else d1)
      decide (d2.fmNode ≠ none) &&
      decide (d2.fmNode ≠ some m.src) &&
      decide (leAt m.data 0 1 = 2) : Bool) = true) ∧
    ((let d : Dev := { (devNode [6, 8, 0x1E0] [4095]).store 0x40004 (natLe 4 4095) with cmp := { cur := some { gen := 7, base := 0x40000, len := 128 } } }
      let m : Msg := { msg := 0x10, src := 5, len := 32, data := bytesOf 32 [(0, 1, 3)] }
      decide (m.msg = 0x10) &&
      decide (d.nodeValid = true) &&
      decide (m.dst = d.node) &&
      let d1 := d.took m
      let d2 := (if d1.fmNode = some m.src then { d1 with cmp := { d1.cmp with lastFm := d1.now } } else d1)
      decide (d2.fmNode ≠ none) &&
      decide (d2.fmNode ≠ some m.src) &&
      decide (leAt m.data 0 1 = 3) : Bool) = true) ∧
    ((let d0 := devColl []
      let d : Dev := { (d0.setRg R.fabNode 0x80000000).store 0x40004 (natLe 4 4095) with cmp := { cur := some { gen := 7, base := 0x40000, len := 128 } } }
      let m : Msg := { msg := 0x10, src := 4095, len := 32, data := bytesOf 32 [(0, 1, 4), (16, 4, 5)] }
      decide (m.msg = 0x10) &&
      decide (d.nodeValid = true) &&
      decide (m.dst = d.node) &&
      let d1 := d.took m
      let d2 : Dev := (if d1.fmNode = some m.src then { d1 with cmp := { d1.cmp with lastFm := d1.now } } else d1)
      decide (leAt m.data 0 1 = 4) : Bool) = true) ∧
    ((let d : Dev := { (devNode [6, 8, 0x1E0] [4095]).store 0x40004 (natLe 4 4095) with cmp := { cur := some { gen := 7, base := 0x40000, len := 128 } } }
      let m : Msg := { msg := 0x10, src := 4095, len := 32, dst := 1, data := bytesOf 32 [(0, 1, 1)] }
      decide (m.msg = 0x10) &&
      decide (d.nodeValid = false ∨ m.dst ≠ d.node) &&
      decide (leAt m.data 0 1 = 1) : Bool) = true) ∧
    ((let d : Dev := { (devNode [6, 8, 0x1E0] [4095]).store 0x40004 (natLe 4 4095) with cmp := { cur := some { gen := 7, base := 0x40000, len := 128 } } }
      let m : Msg := { msg := 0x10, src := 4095, len := 32, dst := 1, data := bytesOf 32 [(0, 1, 2)] }
      decide (m.msg = 0x10) &&
      decide (d.nodeValid = false ∨ m.dst ≠ d.node) &&
      decide (leAt m.data 0 1 = 2) : Bool) = true) ∧
    ((let d : Dev := { (devNode [6, 8, 0x1E0] [4095]).store 0x40004 (natLe 4 4095) with cmp := { cur := some { gen := 7, base := 0x40000, len := 128 } } }
      let m : Msg := { msg := 0x10, src := 4095, len := 32, dst := 1, data := bytesOf 32 [(0, 1, 3)] }
      decide (m.msg = 0x10) &&
      decide (d.nodeValid = false ∨ m.dst ≠ d.node) &&
      decide (leAt m.data 0 1 = 3) : Bool) = true) ∧
    ((let d : Dev := { (devNode [6, 8, 0x1E0] [4095]).store 0x40004 (natLe 4 4095) with cmp := { cur := some { gen := 7, base := 0x40000, len := 128 } } }
      let m : Msg := { msg := 0x10, src := 4095, len := 32, dst := 1, data := bytesOf 32 [(0, 1, 4)] }
      decide (m.msg = 0x10) &&
      decide (d.nodeValid = false ∨ m.dst ≠ d.node) &&
      decide (leAt m.data 0 1 = 4) : Bool) = true) ∧
    ((let d : Dev := { (devNode [6, 8, 0x1E0] [4095]).store 0x40004 (natLe 4 4095) with now := 1600000 * 5, cmp := { cur := some { gen := 7, base := 0x40000, len := 128 } } }
      (match d.fmNode with
      | some n =>
      decide (d.nodeValid = true) &&
      decide (d.cmp.lastHb + msCycles d.hbMs ≤ d.now) &&
      (match d.sendMember n (memberBytes 1 d.curGen (d.cmp.st.code * 4096) 0 (d.cmp.progress % 2 ^ 32) 0) with
      | (d1, sent) =>
      true)
      | _ => false) : Bool) = true) ∧
    ((let d : Dev := { (devNode [6, 8, 0x1E0] [4095]).store 0x40004 (natLe 4 4095) with now := 1600000 * 19, cmp := { cur := some { gen := 7, base := 0x40000, len := 128 } } }
      decide (d.cmp.cur.isSome = true) &&
      decide (d.cmp.lastFm + msCycles d.silentMs ≤ d.now) : Bool) = true) ∧
    ((let d00 := withCmd (withTbl (devColl [(144, 4, 4)]) 4097 3 0x30000 (bytesOf 72 [(0, 1, 3), (1, 1, 1), (4, 4, 1), (8, 4, 72), (12, 4, 8), (16, 4,
        1)])) 4095 0x48 [(4, 4, 5), (32, 8, 2 ^ 52 * 4095 + 0x800000), (40, 8, 2 ^ 52 * 4095), (60, 4, 1)]
      let d : Dev := { d00 with cmp := { st := .joining } }
      let c : Nat := 4095
      decide (c < 4096) &&
      (match d.ctx? c with
      | some x =>
      decide (Tab.find? d.cmp.admits c = none) &&
      decide (d.canStart c 0x48 = true) &&
      let a : Admit := admitOf x
      decide (admitArgsOk x d.node = false)
      | _ => false) : Bool) = true) ∧
    ((let d00 := withCmd (withTbl (devColl [(144, 4, 4)]) 4097 3 0x30000 (bytesOf 72 [(0, 1, 3), (1, 1, 1), (4, 4, 1), (8, 4, 72), (12, 4, 8), (16, 4,
        1)])) 4095 0x48 [(4, 4, 5), (32, 8, 2 ^ 52 * 4095 + 0x800000), (40, 8, 2 ^ 52 * 4095)]
      let d : Dev := { d00 with cmp := { st := .admitted } }
      let c : Nat := 4095
      decide (c < 4096) &&
      (match d.ctx? c with
      | some x =>
      decide (Tab.find? d.cmp.admits c = none) &&
      decide (d.canStart c 0x48 = true) &&
      let a : Admit := admitOf x
      decide (admitArgsOk x d.node = true) &&
      decide (d.cmp.st ≠ .joining)
      | _ => false) : Bool) = true) ∧
    ((let d00 := withCmd (withTbl (devColl [(144, 4, 4)]) 4097 3 0x30000 (bytesOf 72 [(0, 1, 3), (1, 1, 1), (4, 4, 1), (8, 4, 72), (12, 4, 8), (16, 4,
        1)])) 4095 0x48 [(4, 4, 6), (32, 8, 2 ^ 52 * 4095 + 0x800000), (40, 8, 2 ^ 52 * 4095)]
      let d : Dev := { d00 with cmp := { st := .joining } }
      let c : Nat := 4095
      decide (c < 4096) &&
      (match d.ctx? c with
      | some x =>
      decide (Tab.find? d.cmp.admits c = none) &&
      decide (d.canStart c 0x48 = true) &&
      let a : Admit := admitOf x
      decide (admitArgsOk x d.node = true) &&
      decide (d.cmp.st = .joining) &&
      (match d.lookColl c x.coll with
      | (d1, .bad st) =>
      true
      | _ => false)
      | _ => false) : Bool) = true) ∧
    ((let d0 := (withTbl (devColl [(144, 4, 4)]) 4097 3 0x30000 (bytesOf 72 [(0, 1, 3), (1, 1, 1), (4, 4, 1), (8, 4, 72), (12, 4, 8), (16, 4, 1)]))
      let tb := tdescBytes { kind := 0, st := 1, ver := 1, slots := [{ base := 2 ^ 52 * 4095 + 0x10000, len := 256, ver := 1, st := 1 }, {}, {}, {}] }
      let g := 2 ^ 46 * 4095
      let d00 := (withCmd d0 4095 0x48 [(4, 4, 5), (32, 8, 2 ^ 52 * 4095 + 0x800000), (40, 8,
          2 ^ 52 * 4095)]).updCtx 4095 (fun x => { x with remote := { lines := [(g + 0x400, (slice (collImg [(144, 4, 4)]) 0 64, false)), (g + 0x401, (slice (collImg [(144, 4, 4)]) 64 64, false)), (g + 0x402, (slice (collImg [(144, 4, 4)]) 128 64, false)), (g + 0x403, (slice (collImg [(144, 4, 4)]) 192 64, false)), (g + 0x20000, (slice tb 0 64, false)), (g + 0x20001, (slice tb 64 64, false))] } })
      let d : Dev := { d00 with cmp := { st := .joining } }
      let c : Nat := 4095
      decide (c < 4096) &&
      (match d.ctx? c with
      | some x =>
      decide (Tab.find? d.cmp.admits c = none) &&
      decide (d.canStart c 0x48 = true) &&
      let a : Admit := admitOf x
      decide (admitArgsOk x d.node = true) &&
      decide (d.cmp.st = .joining) &&
      (match d.lookColl c x.coll with
      | (d1, .ok img slot) =>
      (match d1.localRoot c img with
      | (d2, .ok root) =>
      decide (d2.admitLocalOk a.coll a.snap img root = true) &&
      (match d2.partnerImg c a with
      | (d3, .ok pimg) =>
      true
      | _ => false)
      | _ => false)
      | _ => false)
      | _ => false) : Bool) = true) ∧
    ((let d00 := withCmd (withTbl (devColl [(144, 4, 0)]) 4097 3 0x30000 (bytesOf 72 [(0, 1, 3), (1, 1, 1), (4, 4, 1), (8, 4, 72), (12, 4, 8), (16, 4,
        1)])) 4095 0x48 [(4, 4, 5), (32, 8, 2 ^ 52 * 4095 + 0x800000), (40, 8, 2 ^ 52 * 4095)]
      let d : Dev := { d00 with cmp := { st := .joining } }
      let c : Nat := 4095
      decide (c < 4096) &&
      (match d.ctx? c with
      | some x =>
      decide (Tab.find? d.cmp.admits c = none) &&
      decide (d.canStart c 0x48 = true) &&
      let a : Admit := admitOf x
      decide (admitArgsOk x d.node = true) &&
      decide (d.cmp.st = .joining) &&
      (match d.lookColl c x.coll with
      | (d1, .ok img slot) =>
      (match d1.localRoot c img with
      | (d2, .ok root) =>
      decide (d2.admitLocalOk a.coll a.snap img root = false)
      | _ => false)
      | _ => false)
      | _ => false) : Bool) = true) ∧
    ((let d0 := (running (withTbl (devNode [6, 7, 8, 0x1E0] [4095]) 5 0 0x10000 (collImg [(144, 4,
        4)])) 4095 0x48 []).updCtx 4095 (fun x => { x with binds := [(5, 0)] })
      let d : Dev := { d0 with cmp := { st := .joining, admits := [(4095, { coll := 5, partner := 4095, pTbl := 0, pUpd := 0, pColl := 5, snap := 0, step := .copy })] } }
      let c : Nat := 4095
      decide (c < 4096) &&
      (match d.ctx? c with
      | some x =>
      (match Tab.find? d.cmp.admits c with
      | some a =>
      decide (d.live c = true) &&
      let img := ((bindOf x.binds a.coll).map (fun b => d.peekImg (d.boundBase b) 256)).getD []
      decide (a.step = .copy) &&
      decide (a.list < cLists img)
      | _ => false)
      | _ => false) : Bool) = true) ∧
    ((let d0 := (running (withTbl (devNode [6, 7, 8, 0x1E0] [4095]) 5 0 0x10000 (collImg [(144, 4,
        4)])) 4095 0x48 []).updCtx 4095 (fun x => { x with binds := [(5, 0)] })
      let d : Dev := { d0 with cmp := { st := .joining, admits := [(4095, { coll := 5, partner := 4095, pTbl := 0, pUpd := 0, pColl := 5, snap := 0, step := .copy, list := 1 })] } }
      let c : Nat := 4095
      decide (c < 4096) &&
      (match d.ctx? c with
      | some x =>
      (match Tab.find? d.cmp.admits c with
      | some a =>
      decide (d.live c = true) &&
      let img := ((bindOf x.binds a.coll).map (fun b => d.peekImg (d.boundBase b) 256)).getD []
      decide (a.step = .copy) &&
      decide (cLists img ≤ a.list)
      | _ => false)
      | _ => false) : Bool) = true) ∧
    ((let d0 := (running (withTbl (devNode [6, 7, 8, 0x1E0] [4095]) 5 0 0x10000 (collImg [(144, 4,
        4)])) 4095 0x48 []).updCtx 4095 (fun x => { x with binds := [(5, 0)] })
      let d : Dev := { d0 with cmp := { st := .joining, admits := [(4095, { coll := 5, partner := 4095, pTbl := 0, pUpd := 0, pColl := 5, snap := 0, step := .publish })] } }
      let c : Nat := 4095
      decide (c < 4096) &&
      (match d.ctx? c with
      | some x =>
      (match Tab.find? d.cmp.admits c with
      | some a =>
      decide (d.live c = true) &&
      let img := ((bindOf x.binds a.coll).map (fun b => d.peekImg (d.boundBase b) 256)).getD []
      decide (a.step = .publish)
      | _ => false)
      | _ => false) : Bool) = true) ∧
    ((let d0 := (running (withTbl (devNode [6, 7, 8, 0x1E0] [4095]) 5 0 0x10000 (collImg [(144, 4,
        4)])) 4095 0x48 []).updCtx 4095 (fun x => { x with binds := [(5, 0)] })
      let d : Dev := { d0 with cmp := { st := .joining, admits := [(4095, { coll := 5, partner := 4095, pTbl := 0, pUpd := 0, pColl := 5, snap := 0, step := .replay })] } }
      let c : Nat := 4095
      decide (c < 4096) &&
      (match d.ctx? c with
      | some x =>
      (match Tab.find? d.cmp.admits c with
      | some a =>
      decide (d.live c = true) &&
      let img := ((bindOf x.binds a.coll).map (fun b => d.peekImg (d.boundBase b) 256)).getD []
      decide (a.step = .replay)
      | _ => false)
      | _ => false) : Bool) = true) ∧
    ((let d0 := (running (withTbl (devNode [6, 7, 8, 0x1E0] [4095]) 5 0 0x10000 (collImg [(144, 4,
        4)])) 4095 0x48 []).updCtx 4095 (fun x => { x with binds := [(5, 0)] })
      let d : Dev := { d0 with cmp := { st := .joining, admits := [(4095, { coll := 5, partner := 4095, pTbl := 0, pUpd := 0, pColl := 5, snap := 0, step := .joinReady })] } }
      let c : Nat := 4095
      decide (c < 4096) &&
      (match d.ctx? c with
      | some x =>
      (match Tab.find? d.cmp.admits c with
      | some a =>
      decide (d.live c = true) &&
      let img := ((bindOf x.binds a.coll).map (fun b => d.peekImg (d.boundBase b) 256)).getD []
      decide (a.step = .joinReady) &&
      (match d.sendMember a.partner (memberBytes 4 0 0 a.snap 0 a.pColl) with
      | (d1, sent) =>
      true)
      | _ => false)
      | _ => false) : Bool) = true) ∧
    ((let d0 := (running (withTbl (devNode [6, 7, 8, 0x1E0] [4095]) 5 0 0x10000 (collImg [(144, 4,
        4)])) 4095 0x48 []).updCtx 4095 (fun x => { x with binds := [(5, 0)] })
      let d : Dev := { d0 with cmp := { st := .joining, admits := [(4095, { coll := 5, partner := 4095, pTbl := 0, pUpd := 0, pColl := 5, snap := 0, step := .waitSeal })] } }
      let c : Nat := 4095
      decide (c < 4096) &&
      (match d.ctx? c with
      | some x =>
      (match Tab.find? d.cmp.admits c with
      | some a =>
      decide (d.live c = true) &&
      let img := ((bindOf x.binds a.coll).map (fun b => d.peekImg (d.boundBase b) 256)).getD []
      decide (a.step = .waitSeal)
      | _ => false)
      | _ => false) : Bool) = true) ∧
    ((let d0 := (running (withTbl (devNode [6, 7, 8, 0x1E0] [4095]) 5 0 0x10000 (collImg [(144, 4,
        4)])) 4095 0x48 []).updCtx 4095 (fun x => { x with binds := [(5, 0)] })
      let d : Dev := { d0 with cmp := { st := .joining, admits := [(4095, { coll := 5, partner := 4095, pTbl := 0, pUpd := 0, pColl := 5, snap := 0, step := .finalReplay })] } }
      let c : Nat := 4095
      decide (c < 4096) &&
      (match d.ctx? c with
      | some x =>
      (match Tab.find? d.cmp.admits c with
      | some a =>
      decide (d.live c = true) &&
      let img := ((bindOf x.binds a.coll).map (fun b => d.peekImg (d.boundBase b) 256)).getD []
      decide (a.step = .finalReplay)
      | _ => false)
      | _ => false) : Bool) = true) := by decide +kernel

/-- Clause by clause, the hypotheses of `Obligations.ManagementAndRas` are met. -/
theorem witness_ManagementAndRas :
    ((let d : Dev := dev0.setRg R.mgmtTxCfg 0x8000000C
      let v : Nat := 4095
      decide (v < 4096) &&
      decide (v < ringSize (d.rg R.mgmtTxCfg)) : Bool) = true) ∧
    ((let d : Dev := dev0.setRg R.mgmtRxCfg 0x8000000C
      let v : Nat := 4095
      decide (v < 4096) &&
      decide (v < ringSize (d.rg R.mgmtRxCfg)) : Bool) = true) ∧
    ((let d : Dev := dev0
      let rx := true
      let v : Word := 0x8000000C
      decide (v &&& 0x8000001F = v) &&
      decide (ringOn (d.rg (mgmtCfgReg rx)) = false) &&
      decide (ringOn v = true) &&
      decide (4 ≤ fld v 4 0) &&
      decide (fld v 4 0 ≤ 12) &&
      decide (d.mgmtBase rx % 4096 = 0) : Bool) = true) ∧
    ((let d : Dev := { ((((devOn [4]).store 0x4000 (natLe 16 0) true).setRg R.mgmtTxCfg 0x80000004).setRg R.mgmtTxBaseLo 0x4000).setRg R.mgmtTxTail 1 |>.setRg R.mgmtStat 1 with brd := { dev0.brd with phase := .done } }
      decide (d.mgmtReady false = true) &&
      decide (d.mgmtUp = true) &&
      let a := d.mgmtDescAt false
      decide (d.bad a 16 = true) : Bool) = true) ∧
    ((let d : Dev := { ((((devOn [4]).store 0x4000 (bytesOf 16 [(0, 8, 0x8000), (8, 2, 64), (12, 4, 2)])).setRg R.mgmtTxCfg 0x80000004).setRg R.mgmtTxBaseLo 0x4000).setRg R.mgmtTxTail 1 |>.setRg R.mgmtStat 1 with brd := { dev0.brd with phase := .done } }
      decide (d.mgmtReady false = true) &&
      decide (d.mgmtUp = true) &&
      let a := d.mgmtDescAt false
      decide (d.bad a 16 = false) : Bool) = true) ∧
    ((let d : Dev := { (devOn [4]).setRg R.mgmtStat 1 with brd := { dev0.brd with phase := .done } }
      let f : List Byte := []
      decide (d.mgmtUp = true) : Bool) = true) ∧
    ((let d : Dev := { ((devOn [4]).setRg R.mgmtRxCfg 0x80000004).setRg R.mgmtRxBaseLo 0x4000 |>.setRg R.mgmtRxTail 1 |>.setRg R.mgmtStat 1 with brd := { dev0.brd with phase := .done } }
      let fu : Fuses := {}
      let f : List Byte := List.replicate 1519 255
      decide (d.mgmtUp = true) &&
      let d1 := d.fecCount
      decide (d1.macTakes fu f = false ∨ d1.maxFrame < f.length) : Bool) = true) ∧
    ((let d : Dev := { ((devOn [4]).setRg R.mgmtRxCfg 0x80000004).setRg R.mgmtRxBaseLo 0x4000 |>.setRg R.mgmtRxTail 1 |>.setRg R.mgmtStat 1 with brd := { dev0.brd with phase := .done } }
      let fu : Fuses := {}
      let f : List Byte := List.replicate 1518 255
      decide (d.mgmtUp = true) &&
      let d1 := d.fecCount
      decide (d1.macTakes fu f = true) &&
      decide (f.length ≤ d1.maxFrame) : Bool) = true) ∧
    ((let d : Dev := { (devOn [4]).setRg R.mgmtStat 1 with brd := { dev0.brd with phase := .done } }
      let up := false
      let fec := false
      decide ((up == d.mgmtUp) = false) &&
      decide ((up && d.pwr.frefGone) = false) &&
      decide (fec = (if d.brd.phase = .network then d.brd.rcv.fec else d.fd R.mgmtCfg 0 0 == 1)) &&
      let d1 := ((d.setRg R.mgmtStat (w32 (b2n up + 2 * b2n (up && fec)))).setInt pgMgmt 2).bump pgMgmt 0 7
      decide (d1.brd.phase ≠ .network) : Bool) = true) ∧
    ((let d : Dev := { dev0 with brd := { dev0.brd with phase := .network } }
      let up := true
      decide ((up == d.mgmtUp) = false) &&
      decide ((up && d.pwr.frefGone) = false) &&
      let fec := (if d.brd.phase = .network then d.brd.rcv.fec else d.fd R.mgmtCfg 0 0 == 1)
      let d1 := ((d.setRg R.mgmtStat (w32 (b2n up + 2 * b2n (up && fec)))).setInt pgMgmt 2).bump pgMgmt 0 7
      decide (d1.brd.phase = .network) : Bool) = true) ∧
    ((let d : Dev := dev0
      let t : Nat := 3
      decide (t < 4) : Bool) = true) ∧
    ((let d : Dev := dev0.setRg R.rasZeroLen 1
      decide (d.ras.zeroing = none) : Bool) = true) ∧
    ((let d : Dev := { dev0 with ras := { zeroing := some (0, 65536) } }
      decide (d.ras.zeroing.isSome = true) : Bool) = true) ∧
    ((let d : Dev := { devOn [] with ras := { zeroing := some (0, 65536) } }
      (match d.ras.zeroing with
      | some (a, e) =>
      (match d.zeroRange a (e - a) with
      | some d1 =>
      true
      | _ => false)
      | _ => false) : Bool) = true) ∧
    ((let d : Dev := { (devOn []).setPg 0xC R.blkCtl 0 with ras := { zeroing := some (0, 65536) } }
      (match d.ras.zeroing with
      | some (a, e) =>
      decide (d.zeroRange a (e - a) = none)
      | _ => false) : Bool) = true) ∧
    ((let d : Dev := { devOn [2] with now := secCycles (3600 * 255) }
      let h := d.fd R.rasScrub 7 0
      decide (h ≠ 0) &&
      decide (d.runs pgRas = true) &&
      decide (d.ras.scrubFrom + secCycles (3600 * h) ≤ d.now) : Bool) = true) ∧
    ((let d : Dev := { dev0 with now := secCycles 1 }
      decide (d.ras.second < d.now / secCycles 1) : Bool) = true) ∧
    ((let d : Dev := { (devOn [4]).setRg R.mgmtStat 1 with brd := { dev0.brd with phase := .done }, ras := { notify := [{ seq := 0, typ := 1, bit := 0, page := 0, addr := 0, syndrome := 0, word := 0, count := 0, time := 10000000 }], lastSent := some 0 } }
      (match d.ras.notify with
      | r :: rest =>
      let d1 := { d with ras := { d.ras with notify := rest } }
      decide (d.mgmtUp = true) &&
      decide ((match d.ras.lastSent with | some t => decide (t + usCycles (max (d.fd R.rasNotify 31 16) 1) ≤ 16 * r.time) | none => true) = true)
      | _ => false) : Bool) = true) ∧
    ((let d : Dev := { dev0 with brd := dev0.brd, ras := { notify := [{ seq := 0, typ := 1, bit := 0, page := 0, addr := 0, syndrome := 0, word := 0, count := 0, time := 100 }] } }
      (match d.ras.notify with
      | r :: rest =>
      let d1 := { d with ras := { d.ras with notify := rest } }
      decide (d.mgmtUp = false)
      | _ => false) : Bool) = true) ∧
    ((let d : Dev := { (devOn [4]).setRg R.mgmtStat 1 with brd := { dev0.brd with phase := .done }, ras := { notify := [{ seq := 0, typ := 1, bit := 0, page := 0, addr := 0, syndrome := 0, word := 0, count := 0, time := 100 }], lastSent := some 1 } }
      (match d.ras.notify with
      | r :: rest =>
      let d1 := { d with ras := { d.ras with notify := rest } }
      (match d.ras.lastSent with
      | some t =>
      decide (16 * r.time < t + usCycles (max (d.fd R.rasNotify 31 16) 1))
      | _ => false)
      | _ => false) : Bool) = true) := by decide +kernel

/-- Clause by clause, the hypotheses of `Obligations.Links` are met. -/
theorem witness_Links :
    ((let d0 := dev0.setFd R.bklLaserLim 15 0 1000 3
      let d : Dev := d0.setRg (R.bklLaser 3) 0x10000 3
      let b : Nat := 3
      let j : Nat := 3
      let w : Nat := 999
      decide (b < 4) &&
      decide (j < 4) &&
      decide (d.laserBelow b w = true) &&
      decide (fbit (d.rg (R.bklLaser j) b) 16 = true) : Bool) = true) ∧
    ((let d : Dev := dev0.setFd R.bklLaserLim 15 0 1000 3
      let b : Nat := 3
      let j : Nat := 3
      let w : Nat := 999
      decide (b < 4) &&
      decide (j < 4) &&
      decide (d.laserBelow b w = true) &&
      decide (fbit (d.rg (R.bklLaser j) b) 16 = false) : Bool) = true) ∧
    ((let d : Dev := dev0.setFd R.bklLaserLim 15 0 1000 3
      let b : Nat := 3
      let j : Nat := 3
      let w : Nat := 1000
      decide (b < 4) &&
      decide (j < 4) &&
      decide (d.laserBelow b w = false) : Bool) = true) ∧
    ((let d : Dev := { dev0.setPort 31 { st := .training } with now := 0 }
      let p : Nat := 31
      let rtt : Nat := 5
      let alloc : List Nat := []
      decide (p < d.ports) &&
      let x := d.port p
      decide (x.st = .training) : Bool) = true) ∧
    ((let d : Dev := { dev0.setPort 31 { st := .training } with now := 0 }
      let p : Nat := 31
      decide (p < d.ports) &&
      let x := d.port p
      decide (x.st = .training) : Bool) = true) ∧
    ((let d : Dev := { dev0.setPort 31 { st := .retrain } with now := 0 }
      let p : Nat := 31
      decide (p < d.ports) &&
      let x := d.port p
      decide (x.st = .retrain) : Bool) = true) ∧
    ((let d : Dev := { dev0.setPort 31 { st := .retrain } with now := 0 }
      let p : Nat := 31
      decide (p < d.ports) &&
      let x := d.port p
      decide (x.st = .up ∨ x.st = .retrain ∨ x.st = .training) : Bool) = true) ∧
    ((let d : Dev := { dev0.setPort 31 { st := .retrain } with now := 0 }
      let p : Nat := 31
      decide (p < d.ports) &&
      let x := d.port p
      decide (x.st = .retrain) : Bool) = true) ∧
    ((let d : Dev := { dev0.setPort 31 { st := .up, txNext := 65535 } with now := 0 }
      let p : Nat := 31
      let s : Nat := 65535
      decide (p < d.ports) &&
      let x := d.port p
      decide (x.st = .up) &&
      decide (s < 65536) &&
      let d1 := d.bump (pgLink p) 0 4
      decide (s = x.txNext) : Bool) = true) ∧
    ((let d : Dev := { dev0.setPort 31 { st := .up, txNext := 1, replay := [(0, [])] } with now := 0 }
      let p : Nat := 31
      let s : Nat := 0
      decide (p < d.ports) &&
      let x := d.port p
      decide (x.st = .up) &&
      decide (s < 65536) &&
      let d1 := d.bump (pgLink p) 0 4
      decide (s ≠ x.txNext) &&
      decide (x.replay.any (fun e => e.1 == s) = true) : Bool) = true) ∧
    ((let d : Dev := { dev0.setPort 31 { st := .up, txNext := 1, replay := [(0, [])] } with now := 0 }
      let p : Nat := 31
      let s : Nat := 65535
      decide (p < d.ports) &&
      let x := d.port p
      decide (x.st = .up) &&
      decide (s < 65536) &&
      let d1 := d.bump (pgLink p) 0 4
      decide (s ≠ x.txNext) &&
      decide (x.replay.any (fun e => e.1 == s) = false) : Bool) = true) ∧
    ((let d : Dev := { dev0.setPort 31 { st := .up, retry := some (0, 0) } with now := 1600 }
      let p : Nat := 31
      decide (p < d.ports) &&
      let x := d.port p
      decide (x.st = .up) &&
      (match x.retry with
      | some (n, t) =>
      decide (t * 10 + x.rttNs * 16 + 16000 ≤ d.now * 10)
      | _ => false) : Bool) = true) ∧
    ((let d : Dev := { dev0.setPort 31 { st := .up, stalled := [(7, 0)] } with now := 1600 * 65535 }
      let p : Nat := 31
      let v : Nat := 7
      decide (p < d.ports) &&
      let x := d.port p
      decide (v < 8) &&
      (match Tab.find? x.stalled v with
      | some t =>
      decide (t + usCycles (max (d.fd R.lnkCfg 31 16 p) 1) ≤ d.now)
      | _ => false) : Bool) = true) ∧
    ((let d : Dev := { dev0.setPort 31 { st := .training } with now := 0 }
      let p : Nat := 31
      let f : Flit := { bytes := [] }
      decide (p < d.ports) &&
      let x := d.port p
      let d0 := (d.bump (pgLink p) 0 7 f.fecFixed).bump (pgLink p) 0 8 f.fecLost
      decide (x.st ≠ .up) : Bool) = true) ∧
    ((let d : Dev := { dev0.setPort 31 { st := .up } with now := 0 }
      let p : Nat := 31
      let f : Flit := { bytes := [], markerMisplaced := !false }
      decide (p < d.ports) &&
      let x := d.port p
      let d0 := (d.bump (pgLink p) 0 7 f.fecFixed).bump (pgLink p) 0 8 f.fecLost
      decide (x.st = .up) &&
      decide (f.markerMisplaced = true) : Bool) = true) ∧
    ((let d : Dev := { dev0.setPort 31 { st := .up } with now := 0 }
      let p : Nat := 31
      let f : Flit := { bytes := [] }
      decide (p < d.ports) &&
      let x := d.port p
      let d0 := (d.bump (pgLink p) 0 7 f.fecFixed).bump (pgLink p) 0 8 f.fecLost
      decide (x.st = .up) &&
      decide (f.markerMisplaced = false) &&
      decide (flitGood f.bytes = false) : Bool) = true) ∧
    ((let d : Dev := { dev0.setPort 31 { st := .up } with now := 0 }
      let p : Nat := 31
      let b0 := bytesOf 252 [(0, 8, 2 ^ 48 + 5 * 2 ^ 32), (8, 8, 0)]
      let f : Flit := { bytes := b0 ++ natLe 4 (crc32c b0), fecFixed := 1 }
      decide (p < d.ports) &&
      let x := d.port p
      let d0 := (d.bump (pgLink p) 0 7 f.fecFixed).bump (pgLink p) 0 8 f.fecLost
      decide (x.st = .up) &&
      decide (f.markerMisplaced = false) &&
      decide (flitGood f.bytes = true) &&
      let h := leAt f.bytes 0 8
      let c := leAt f.bytes 8 8
      let d1 : Dev := (if bits h 15 9 + bits h 55 49 + bits c 63 40 = 0 then d0 else d0.bump (pgLink p) 0 10)
      decide ((h.testBit 48 && serialAfter 16 (bits h 47 32) ((x.txNext + 65535) % 65536)) = true) : Bool) = true) ∧
    ((let d : Dev := { dev0.setPort 31 { st := .up } with now := 0 }
      let p : Nat := 31
      let b0 := bytesOf 252 [(0, 8, 0), (8, 8, 8 + 16)]
      let f : Flit := { bytes := b0 ++ natLe 4 (crc32c b0), fecFixed := 1 }
      decide (p < d.ports) &&
      let x := d.port p
      let d0 := (d.bump (pgLink p) 0 7 f.fecFixed).bump (pgLink p) 0 8 f.fecLost
      decide (x.st = .up) &&
      decide (f.markerMisplaced = false) &&
      decide (flitGood f.bytes = true) &&
      let h := leAt f.bytes 0 8
      let c := leAt f.bytes 8 8
      let d1 : Dev := (if bits h 15 9 + bits h 55 49 + bits c 63 40 = 0 then d0 else d0.bump (pgLink p) 0 10)
      decide ((h.testBit 48 && serialAfter 16 (bits h 47 32) ((x.txNext + 65535) % 65536)) = false) &&
      let x1 : Port := (if h.testBit 48 then { x with replay := x.replay.filter (fun e => serialAfter 16 e.1 (bits h 47 32)) } else x)
      (match x1.credit (c.testBit 3) (bits c 2 0) (bits c 19 4) with
      | (x2, ok1) =>
      (match x2.credit (c.testBit 23) (bits c 22 20) (bits c 39 24) with
      | (x3, ok2) =>
      decide ((ok1 && ok2) = false))) : Bool) = true) ∧
    ((let d : Dev := { dev0.setPort 31 { st := .up } with now := 0 }
      let p : Nat := 31
      let b0 := bytesOf 252 [(0, 8, 0), (8, 8, 0)]
      let f : Flit := { bytes := b0 ++ natLe 4 (crc32c b0), fecFixed := 1 }
      decide (p < d.ports) &&
      let x := d.port p
      let d0 := (d.bump (pgLink p) 0 7 f.fecFixed).bump (pgLink p) 0 8 f.fecLost
      decide (x.st = .up) &&
      decide (f.markerMisplaced = false) &&
      decide (flitGood f.bytes = true) &&
      let h := leAt f.bytes 0 8
      let c := leAt f.bytes 8 8
      let d1 : Dev := (if bits h 15 9 + bits h 55 49 + bits c 63 40 = 0 then d0 else d0.bump (pgLink p) 0 10)
      decide ((h.testBit 48 && serialAfter 16 (bits h 47 32) ((x.txNext + 65535) % 65536)) = false) &&
      let x1 : Port := (if h.testBit 48 then { x with replay := x.replay.filter (fun e => serialAfter 16 e.1 (bits h 47 32)) } else x)
      (match x1.credit (c.testBit 3) (bits c 2 0) (bits c 19 4) with
      | (x2, ok1) =>
      (match x2.credit (c.testBit 23) (bits c 22 20) (bits c 39 24) with
      | (x3, ok2) =>
      decide ((ok1 && ok2) = true) &&
      decide (bits h 3 0 = 0))) : Bool) = true) ∧
    ((let d : Dev := { dev0.setPort 31 { st := .up } with now := 0 }
      let p : Nat := 31
      let b0 := bytesOf 252 [(0, 8, 2), (8, 8, 0)]
      let f : Flit := { bytes := b0 ++ natLe 4 (crc32c b0), fecFixed := 1 }
      decide (p < d.ports) &&
      let x := d.port p
      let d0 := (d.bump (pgLink p) 0 7 f.fecFixed).bump (pgLink p) 0 8 f.fecLost
      decide (x.st = .up) &&
      decide (f.markerMisplaced = false) &&
      decide (flitGood f.bytes = true) &&
      let h := leAt f.bytes 0 8
      let c := leAt f.bytes 8 8
      let d1 : Dev := (if bits h 15 9 + bits h 55 49 + bits c 63 40 = 0 then d0 else d0.bump (pgLink p) 0 10)
      decide ((h.testBit 48 && serialAfter 16 (bits h 47 32) ((x.txNext + 65535) % 65536)) = false) &&
      let x1 : Port := (if h.testBit 48 then { x with replay := x.replay.filter (fun e => serialAfter 16 e.1 (bits h 47 32)) } else x)
      (match x1.credit (c.testBit 3) (bits c 2 0) (bits c 19 4) with
      | (x2, ok1) =>
      (match x2.credit (c.testBit 23) (bits c 22 20) (bits c 39 24) with
      | (x3, ok2) =>
      decide ((ok1 && ok2) = true) &&
      decide (bits h 3 0 = 2))) : Bool) = true) ∧
    ((let d : Dev := { dev0.setPort 31 { st := .up } with now := 0 }
      let p : Nat := 31
      let b0 := bytesOf 252 [(0, 8, 1 + 7 * 16 + 0x180 + 2 ^ 56), (8, 8, 0)]
      let f : Flit := { bytes := b0 ++ natLe 4 (crc32c b0), fecFixed := 1 }
      decide (p < d.ports) &&
      let x := d.port p
      let d0 := (d.bump (pgLink p) 0 7 f.fecFixed).bump (pgLink p) 0 8 f.fecLost
      decide (x.st = .up) &&
      decide (f.markerMisplaced = false) &&
      decide (flitGood f.bytes = true) &&
      let h := leAt f.bytes 0 8
      let c := leAt f.bytes 8 8
      let d1 : Dev := (if bits h 15 9 + bits h 55 49 + bits c 63 40 = 0 then d0 else d0.bump (pgLink p) 0 10)
      decide ((h.testBit 48 && serialAfter 16 (bits h 47 32) ((x.txNext + 65535) % 65536)) = false) &&
      let x1 : Port := (if h.testBit 48 then { x with replay := x.replay.filter (fun e => serialAfter 16 e.1 (bits h 47 32)) } else x)
      (match x1.credit (c.testBit 3) (bits c 2 0) (bits c 19 4) with
      | (x2, ok1) =>
      (match x2.credit (c.testBit 23) (bits c 22 20) (bits c 39 24) with
      | (x3, ok2) =>
      decide ((ok1 && ok2) = true) &&
      decide (bits h 3 0 = 1))) : Bool) = true) := by decide +kernel

end Sys2Proof.Tests
end

