-- ==== Sys2Proof/Tests/WitnessProofs.lean ====
section
/-! SUPPORT. Witnesses that are shown by proof, since their values are free or their tables long. -/

namespace Sys2Proof.Tests
open Sys2Proof Sys2Proof.Machine
set_option linter.unusedVariables false
set_option Elab.async false

/-- An operation that is no Brand operation leaves a next state. -/
theorem witness_OnlyBrandOperationsChangeFuses : (∀ b, Instr.heartbeatTimer ≠ .brandOpDone b) ∧ (∀ r st n h a, Instr.heartbeatTimer ≠ .coldBoot r st n h a) ∧
    ∃ t, exec .heartbeatTimer State.reset = .next t :=
  ⟨nofun, nofun, _, rfl⟩

/-- Fuses with one key more than `fuses3` had grown from them, and a step goes on from there. -/
theorem witness_ProgrammedFusesStay :
    Fuses.grew fuses3 { fuses3 with arb := 1, revoked := [2] } ∧
    ∃ t, step { State.reset with fuses := { fuses3 with arb := 1, revoked := [2] }, pending := [.heartbeatTimer] } = .next t := by
  refine ⟨⟨?_, ?_, fun k h e => e, rfl, rfl, rfl⟩, _, rfl⟩
  · exact Nat.zero_le _
  · intro k h; cases h

/-- An instruction of class c whose OP byte is operation i's, with operand bits from 32 on. -/
def opWord (c i rest : Nat) : BitVec 128 := BitVec.ofNat 128 (c + 16 * opByte c i + 2 ^ 32 * rest)

theorem opByte_lt (c i : Nat) (h : c = 6 → i < 256) : opByte c i < 256 := by
  unfold opByte; split
  · exact h ‹_›
  · exact (Config.opCode c i).isLt

theorem opWord_toNat (c i r : Nat) (hc : c < 16) (hi : i < 256) (hr : r < 2 ^ 96) :
    (opWord c i r).toNat = c + 16 * opByte c i + 2 ^ 32 * r := by
  have := opByte_lt c i (fun _ => hi)
  unfold opWord; rw [BitVec.toNat_ofNat]; omega

theorem iClass_opWord (c i r : Nat) (hc : c < 16) (hi : i < 256) (hr : r < 2 ^ 96) : iClass (opWord c i r) = c := by
  unfold iClass ifl bits; rw [opWord_toNat c i r hc hi hr, Nat.shiftRight_eq_div_pow]; omega

theorem iOp_opWord (c i r : Nat) (hc : c < 16) (hi : i < 256) (hr : r < 2 ^ 96) : iOp (opWord c i r) = opByte c i := by
  have := opByte_lt c i (fun _ => hi)
  unfold iOp ifl bits; rw [opWord_toNat c i r hc hi hr, Nat.shiftRight_eq_div_pow]; omega

theorem isOp_opWord (c i r : Nat) (hc : c < 16) (hi : i < 256) (hr : r < 2 ^ 96) : isOp (opWord c i r) c i = true := by
  unfold isOp; rw [iClass_opWord c i r hc hi hr, iOp_opWord c i r hc hi hr]; simp

theorem ifl_opWord (c i r : Nat) (hc : c < 16) (hi : i < 256) (hr : r < 2 ^ 96) : ifl (opWord c i r) 63 48 = r / 2 ^ 16 % 2 ^ 16 := by
  have := opByte_lt c i (fun _ => hi)
  unfold ifl bits; rw [opWord_toNat c i r hc hi hr, Nat.shiftRight_eq_div_pow]; omega

/-- Operation 0 of a class is found by its OP byte. -/
theorem opIndex_opWord (c r : Nat) (hc : c < 16) (hr : r < 2 ^ 96) (hn : opCount c ≠ 0) : opIndex (opWord c 0 r) = some 0 := by
  unfold opIndex firstBelow
  rw [iClass_opWord c 0 r hc (by omega) hr]
  obtain ⟨n, h⟩ := Nat.exists_eq_succ_of_ne_zero hn
  rw [h, List.range_succ_eq_map]
  simp [iOp_opWord c 0 r hc (by omega) hr]

/-- Engine 63 runs a program of group 5 whose next instruction is w. -/
def engDev (w : BitVec 128) (tok : List Nat) (pd : List Pend := []) : Dev :=
  { devOn [0x7F, 0x17] with eng := { eng := [(63, { owner := .group, group := 5, istore := [w], tokens := tok, pend := pd })], groups := [(5, { running := true })] } }

theorem issue_engDev (w : BitVec 128) (tok : List Nat) (pd : List Pend) :
    (engDev w tok pd).issue 63 = some ({ owner := .group, group := 5, istore := [w], tokens := tok, pend := pd }, w) := by
  have h1 : (engDev w tok pd).runs (pgEng 63) = true := by
    have : (engDev w tok pd).runs (pgEng 63) = (devOn [0x7F, 0x17]).runs (pgEng 63) := rfl
    rw [this]; decide +kernel
  have h2 : (engDev w tok pd).engine 63 = { owner := .group, group := 5, istore := [w], tokens := tok, pend := pd } := rfl
  have h3 : (engDev w tok pd).group? 5 = some { running := true } := rfl
  simp [Dev.issue, h1, h2, h3]

/-- Engine 63 exists, is not stalled and is about to issue w, with the pending instructions pd. -/
abbrev IssuesWith (pd : List Pend) (w : BitVec 128) (tok : List Nat) (p : Dev → Engine → Prop) : Prop :=
  ∃ (d : Dev) (x : Engine), 63 < d.part.engines ∧ d.issue 63 = some (x, w) ∧ x.pend = pd ∧ x.stalled = false ∧ x.tokens = tok ∧ p d x

/-- Engine 63 issues w with no instruction pending. -/
abbrev Issues (w : BitVec 128) (tok : List Nat) (p : Engine → Prop) : Prop := IssuesWith [] w tok (fun _ x => p x)

theorem issuesWith (pd : List Pend) (w : BitVec 128) (tok : List Nat) {p : Dev → Engine → Prop}
    (h : p (engDev w tok pd) { owner := .group, group := 5, istore := [w], tokens := tok, pend := pd }) : IssuesWith pd w tok p :=
  ⟨engDev w tok pd, _, by show 63 < 64; omega, issue_engDev w tok pd, rfl, rfl, rfl, h⟩

theorem issues (w : BitVec 128) (tok : List Nat) {p : Engine → Prop} (h : ∀ x, p x) : Issues w tok p := issuesWith [] w tok (h _)

/-- Engine 63 as `engDev` has it, arrived for the BAR_SYNC it is at. -/
def syncDev : Dev := (engDev (opWord 7 2 0) []).updEngine 63 (fun x => { x with syncing := true })

theorem issue_syncDev : syncDev.issue 63 = some ({ owner := .group, group := 5, istore := [opWord 7 2 0], syncing := true }, opWord 7 2 0) := by
  have h1 : syncDev.runs (pgEng 63) = true := by
    have : syncDev.runs (pgEng 63) = (devOn [0x7F, 0x17]).runs (pgEng 63) := rfl
    rw [this]; decide +kernel
  have h2 : syncDev.engine 63 = { owner := .group, group := 5, istore := [opWord 7 2 0], syncing := true } := rfl
  have h3 : syncDev.group? 5 = some { running := true } := rfl
  have h4 : syncDev.now = 0 := rfl
  simp [Dev.issue, h1, h2, h3, h4]

theorem witness_EngineControlInstructions :
    (∃ x, syncDev.issue 63 = some (x, opWord 7 2 0) ∧ isOp (opWord 7 2 0) 7 2 = true ∧ x.syncing = true) ∧
    Issues (opWord 0 0 0) [] (fun _ => iNop (opWord 0 0 0) = true) ∧
    Issues (opWord 0 1 0) [] (fun _ => iEnd (opWord 0 1 0) = true) ∧
    Issues (opWord 0 1 0) [15] (fun _ => iEnd (opWord 0 1 0) = true) ∧
    Issues (opWord 0 2 1) [] (fun _ => iLoop (opWord 0 2 1) = true ∧ ifl (opWord 0 2 1) 63 48 = 0) ∧
    Issues (opWord 0 2 (1 + 2 ^ 16)) [] (fun _ => iLoop (opWord 0 2 (1 + 2 ^ 16)) = true ∧ ifl (opWord 0 2 (1 + 2 ^ 16)) 63 48 ≠ 0) ∧
    Issues (opWord 1 0 0) [] (fun _ => iClass (opWord 1 0 0) = 1 ∧ opIndex (opWord 1 0 0) = some 0) ∧
    (∀ i, i < 5 → IssuesWith [] (opWord 7 i 0) [] (fun d x => isOp (opWord 7 i 0) 7 i = true ∧ x.syncing = false ∧ d.quiet x = true)) ∧
    (∀ i, i < 5 → IssuesWith [{ w := 2 }] (opWord 7 i 0) [] (fun d x => isOp (opWord 7 i 0) 7 i = true ∧ x.syncing = false ∧ d.quiet x = false)) ∧
    IssuesWith [{ w := 2 }] (opWord 0 1 0) [] (fun _ x => iEnd (opWord 0 1 0) = true ∧ x.pend.isEmpty = false) :=
  ⟨⟨_, issue_syncDev, isOp_opWord 7 2 0 (by omega) (by omega) (by omega), rfl⟩,
   issues _ _ fun _ => isOp_opWord 0 0 0 (by omega) (by omega) (by omega),
   issues _ _ fun _ => isOp_opWord 0 1 0 (by omega) (by omega) (by omega),
   issues _ _ fun _ => isOp_opWord 0 1 0 (by omega) (by omega) (by omega),
   issues _ _ fun _ => ⟨isOp_opWord 0 2 1 (by omega) (by omega) (by omega), (ifl_opWord 0 2 1 (by omega) (by omega) (by omega)).trans (by decide)⟩,
   issues _ _ fun _ => ⟨isOp_opWord 0 2 _ (by omega) (by omega) (by omega), by rw [ifl_opWord 0 2 _ (by omega) (by omega) (by omega)]; decide⟩,
   issues _ _ fun _ => ⟨iClass_opWord 1 0 0 (by omega) (by omega) (by omega), opIndex_opWord 1 0 (by omega) (by omega) (by decide)⟩,
   fun i hi => issuesWith _ _ _ ⟨isOp_opWord 7 i 0 (by omega) (by omega) (by omega), rfl, rfl⟩,
   fun i hi => issuesWith _ _ _ ⟨isOp_opWord 7 i 0 (by omega) (by omega) (by omega), rfl, by
     have h : iClass 2#128 = 2 := by decide +kernel
     simp [Dev.quiet, h]⟩,
   issuesWith _ _ _ ⟨isOp_opWord 0 1 0 (by omega) (by omega) (by omega), rfl⟩⟩

theorem witness_EngineUnitInstructions :
    (∀ c, c = 2 ∨ c = 3 ∨ c = 4 → Issues (opWord c 0 0) [] (fun _ => iClass (opWord c 0 0) = c)) ∧
    (∀ i, i < 5 → Issues (opWord 6 i 0) [] (fun _ => isOp (opWord 6 i 0) 6 i = true)) ∧
    Issues (opWord 5 0 0) [] (fun _ => iClass (opWord 5 0 0) = 5 ∧ opIndex (opWord 5 0 0) = some 0) ∧
    (∃ (x : Engine) (p : Pend), (engDev 0 [15]).issue 63 = some (x, 0) ∧ iTokEn p.w = true ∧ x.tokens.contains (iToken p.w) = true) ∧
    (((engDev 0 [15]).drive 63).engine 63).pend.any (fun p => p.tok == some 15) = false ∧
    (∃ d : Dev, (d.engine 63).gated = true ∧ (d.engine 63).pend.any (fun p => unitOf p.w == 4) = true ∧ d.wakeRoom = true) :=
  ⟨fun c hc => issues _ _ fun _ => iClass_opWord c 0 0 (by omega) (by omega) (by omega),
   fun i hi => issues _ _ fun _ => isOp_opWord 6 i 0 (by omega) (by omega) (by omega),
   issues _ _ fun _ => ⟨iClass_opWord 5 0 0 (by omega) (by omega) (by omega), opIndex_opWord 5 0 (by omega) (by omega) (by decide)⟩,
   ⟨_, { w := 0x1F000 }, issue_engDev 0 [15] [], by decide +kernel, by decide +kernel⟩,
   by decide +kernel,
   ⟨{ dev0 with pwr := { dev0.pwr with env := 200000 }, eng := { eng := [(63, { pend := [{ w := 4 }] })] } },
    by decide +kernel, by decide +kernel, by decide +kernel⟩⟩

/-- The staging cache full of one unit, as many times as it has places. -/
def fullStage (n : Nat) : Tab StageUnit := (List.range n).map (fun i => (i, { obj := 1, unit := 0 }))

theorem find?_fullStage (n i : Nat) (h : i < n) : Tab.find? (fullStage n) i = some { obj := 1, unit := 0 } := by
  have go : ∀ m s, s ≤ i → i < s + m →
      Tab.find? ((List.range' s m).map (fun i => (i, ({ obj := 1, unit := 0 } : StageUnit)))) i = some { obj := 1, unit := 0 } := by
    intro m
    induction m with
    | zero => intros; omega
    | succ m ih =>
      intro s h1 h2
      simp only [List.range'_succ, List.map_cons, Tab.find?]
      by_cases e : s = i
      · simp [e]
      · rw [if_neg e, if_neg (by omega)]
        exact ih (s + 1) (by omega) (by omega)
  simpa [fullStage, List.range_eq_range'] using go n 0 (by omega) (by omega)

/-- CLOCK finds no place in a cache whose every unit is kept. -/
theorem clockGo_none (n : Nat) (hn : 0 < n) (keep : StageUnit → Bool) (hk : keep { obj := 1, unit := 0 } = true) (f h : Nat) :
    clockGo n keep f h (fullStage n) = none := by
  induction f generalizing h with
  | zero => rfl
  | succ f ih =>
    have := find?_fullStage n (h % n) (Nat.mod_lt _ hn)
    simp [clockGo, this, hk, ih]

/-- An object on flash, a unit of which is read and decoded. -/
def decodedDev : Dev :=
  { ((devOn [7, 9]).setRg R.objBaseLo 0x2000000).putObj 33554431 { st := 2, fn := 0, len := 1, primary := 3, loc := 47 * 2 ^ 48 } with
    flash := { ch := [(47, { up := true, inService := true, dies := 4, planes := 4, blocksPerDie := 512, pagesPerBlock := 1024, luCount := 2 ^ 20,
                             reads := [{ obj := 33554431, ounit := 15, lu := 15, decoded := true }] })] } }

/-- That device with a staging cache of n units, all of which an access reads. -/
def stagedDev (n : Nat) : Dev :=
  { decodedDev with
    tack := { decodedDev.tack with stage := fullStage n,
                                   held := [{ who := .master 0, obj := 1, tier := 3, addr := objAddr 1, len := 64, since := 0 }] } }

theorem stagePlace_full (n : Nat) (hn : 0 < n) (d : Dev) (h : d.stageCap = n) (hs : d.tack.stage = fullStage n)
    (hk : d.unitRead { obj := 1, unit := 0 } = true) : d.stagePlace = none := by
  have hf : firstBelow n (fun i => !Tab.has (fullStage n) i) = none := by
    simp only [firstBelow, List.find?_eq_none, List.mem_range]
    intro i hi
    simp [Tab.has, find?_fullStage n i hi]
  simp [Dev.stagePlace, h, hs, hf, clockGo_none n hn d.unitRead hk]

theorem stagedDev_full (n : Nat) (hn : 0 < n) (c : Nat) (x : Channel) (h : ((stagedDev n).setChan c x).stageCap = n) :
    ((stagedDev n).setChan c x).stagePlace = none := by
  refine stagePlace_full n hn _ h rfl ?_
  have : ((stagedDev n).setChan c x).tack.held = [{ who := .master 0, obj := 1, tier := 3, addr := objAddr 1, len := 64, since := 0 }] := rfl
  unfold Dev.unitRead; rw [this]; decide +kernel

theorem stagedDev_notStaged (n : Nat) : (stagedDev n).staged 33554431 15 = false := by
  have hs : (stagedDev n).tack.stage = fullStage n := rfl
  simp [Dev.staged, hs, fullStage]

/-- The hypotheses of the clause of `Obligations.HeatHintsAndStaging` in which the staging cache has no place are met. -/
theorem witness_StagingFull :
    ∃ (d : Dev) (o u c : Nat) (x : Channel) (r : FlashRead), o < 2 ^ 25 ∧ c = (d.boundObj o 3).loc / 2 ^ 48 ∧ d.chan? c = some x ∧
      x.reads.find? (fun r => r.obj == o && r.ounit == u && r.decoded) = some r ∧ d.enabled pgTack = true ∧ (d.boundObj o 3).primary = 3 ∧
      d.staged o u = false ∧ (d.setChan c { x with reads := x.reads.erase r }).stagePlace = none := by
  refine ⟨stagedDev decodedDev.stageCap, 33554431, 15, 47, (decodedDev.chan? 47).getD {}, { obj := 33554431, ounit := 15, lu := 15, decoded := true },
    ?_, ?_, ?_, ?_, ?_, ?_, stagedDev_notStaged _, stagedDev_full _ ?_ _ _ ?_⟩
  all_goals decide +kernel

/-- Cells that make every entry of a snapshot table at s open: byte 1 of each is 10h. -/
def fullSnaps (s i n : Nat) : List Host.Cell := (List.range' i n).map (fun j => (s + 16 * j + 1, 0x10))

theorem find?_fullSnaps (s i : Nat) : (n j : Nat) → j ≤ i → i < j + n → Tab.find? (fullSnaps s j n) (s + 16 * i + 1) = some 0x10
  | 0, j, h, h2 => by omega
  | n + 1, j, h, h2 => by
    by_cases e : j = i
    · subst e; simp [fullSnaps, List.range', Tab.find?]
    · have e2 : ¬ s + 16 * j + 1 = s + 16 * i + 1 := by omega
      have e3 : ¬ s + 16 * i + 1 < s + 16 * j + 1 := by omega
      have := find?_fullSnaps s i n (j + 1) (by omega) (by omega)
      rw [fullSnaps, List.range'_succ, List.map_cons, Tab.find?, if_neg e2, if_neg e3]
      exact this

theorem find?_append_above (k : Nat) (l : List Host.Cell) : (p : List Host.Cell) → p.all (fun c => decide (c.1 < k)) = true → Tab.find? (p ++ l) k = Tab.find? l k
  | [], _ => rfl
  | c :: p, h => by
    simp only [List.all_cons, Bool.and_eq_true, decide_eq_true_eq] at h
    have h1 : ¬ c.1 = k := by omega
    have h2 : ¬ k < c.1 := by omega
    obtain ⟨a, b⟩ := c
    simp only [List.cons_append, Tab.find?, h1, h2, if_false]
    exact find?_append_above k l p h.2

theorem lineData_raw (d : Dev) (l : Nat) (hv : d.lineValid l = true) (he : d.mem.ecc = []) :
    d.lineData l = ((List.range 8).map (fun i => d.mem.raw (8 * (8 * l + i)) 8)).flatten := by
  have hw (w : Nat) : d.mem.word w = d.mem.raw (8 * w) 8 := by
    have : d.mem.wclass w = .good := by rw [Memory.wclass, Memory.disc, he]; exact (by decide : classify (synOf 0) = .good)
    rw [Memory.word, this]
  simp only [Dev.lineData, hv, if_true, hw]

theorem peek2 (d : Dev) (l r : Nat) (hr : r < 4) (hv : d.lineValid l = true) (he : d.mem.ecc = []) :
    leAt (d.peek (64 * l + 16 * r) 16) 0 2 = (Tab.getD d.mem.cells (64 * l + 16 * r) 0).toNat + 256 * (Tab.getD d.mem.cells (64 * l + 16 * r + 1) 0).toNat := by
  have h1 : (64 * l + 16 * r) / 64 = l := by omega
  have h2 : (64 * l + 16 * r + 16 - 1) / 64 = l := by omega
  have h3 : 64 * l + 16 * r - 64 * l = 16 * r := by omega
  have h4 : l + 1 - l = 1 := by omega
  simp only [Dev.peek, h1, h2, h3, h4, if_neg (show ¬ (16 = 0) by decide)]
  simp only [List.range_one, List.map_cons, List.map_nil, List.flatten_cons, List.flatten_nil, List.append_nil, Nat.add_zero, lineData_raw d l hv he]
  have hr' : r = 0 ∨ r = 1 ∨ r = 2 ∨ r = 3 := by omega
  rcases hr' with rfl | rfl | rfl | rfl <;>
  simp [slice, leAt, leNat, Memory.raw, List.range, List.range.loop, Nat.mul_add, Nat.add_assoc, ← Nat.mul_assoc]

theorem rotateFrom_none (f : Nat → Bool) (n : Nat) (hn : 0 < n) (h : ∀ i, i < n → f i = false) : (k j : Nat) → rotateFrom f j n k = none
  | 0, _ => rfl
  | k + 1, j => by rw [rotateFrom, h _ (Nat.mod_lt _ hn)]; simpa using rotateFrom_none f n hn h k (j + 1)

theorem freeSnap_full (d : Dev) (p : List Host.Cell) (l : Nat) (hl : d.updBase + 0x40000 = 64 * l) (hv : ∀ i, i < 1024 → d.lineValid (l + i) = true)
    (he : d.mem.ecc = []) (hc : d.mem.cells = p ++ fullSnaps (64 * l) 0 4096) (hp : p.all (fun c => decide (c.1 < 64 * l)) = true) :
    d.freeSnap = (none, d.upd.snapPtr) := by
  have hs (i : Nat) (hi : i < 4096) : ((d.snap i).st == 0) = false := by
    have ha : d.snapAt i = 64 * (l + i / 4) + 16 * (i % 4) := by rw [Dev.snapAt, hl]; omega
    have hb : 64 * (l + i / 4) + 16 * (i % 4) + 1 = 64 * l + 16 * i + 1 := by omega
    have hp' : p.all (fun c => decide (c.1 < 64 * l + 16 * i + 1)) = true := by
      rw [List.all_eq_true] at hp ⊢
      intro c m; have := hp c m; simp only [decide_eq_true_eq] at this ⊢; omega
    have hx : Tab.getD d.mem.cells (64 * l + 16 * i + 1) 0 = 0x10 := by
      rw [hc, Tab.getD, find?_append_above _ _ _ hp', find?_fullSnaps _ _ _ _ (Nat.zero_le _) (by omega)]; rfl
    have hq := peek2 d (l + i / 4) (i % 4) (Nat.mod_lt _ (by decide)) (hv _ (by omega)) he
    simp only [Dev.snap, ha, hq, hb, hx]
    have := (Tab.getD d.mem.cells (64 * (l + i / 4) + 16 * (i % 4)) 0).isLt
    generalize (Tab.getD d.mem.cells (64 * (l + i / 4) + 16 * (i % 4)) 0).toNat = lo at *
    simp only [bits, Nat.shiftRight_eq_div_pow]
    rw [show (BitVec.toNat (16 : Byte)) = 16 from rfl]
    have : (lo + 256 * 16) / 2 ^ 12 = 1 := by omega
    rw [this]; rfl
  rw [Dev.freeSnap, rotatePick, rotateFrom_none _ _ (by decide) hs]

/-- A device whose update area lies in control core SRAM and whose snapshot table is full, with a snapshot-open command for collection 5. -/
def devFullSnaps : Dev :=
  let d := withCmd ((devColl []).setRg R.updBaseHi 0x20 |>.setRg R.updBaseLo 0x20000000) 4095 0x0B [(4, 4, 5)]
  { d with mem := { d.mem with cells := d.mem.cells ++ fullSnaps 0x2020040000 0 4096 } }

/-- Two cell lists are the same, compared from the front. -/
def sameCells : List Host.Cell → List Host.Cell → Bool
  | [], [] => true
  | a :: l, b :: m => if a.1 = b.1 ∧ a.2 = b.2 then sameCells l m else false
  | _, _ => false

theorem eq_of_sameCells : (l m : List Host.Cell) → sameCells l m = true → l = m
  | [], [], _ => rfl
  | (a, b) :: l, (c, e) :: m, h => by
    rw [sameCells] at h
    split at h
    · next k => obtain ⟨rfl, rfl⟩ := k; rw [eq_of_sameCells l m h]
    · cases h
  | [], _ :: _, h => by cases h
  | _ :: _, [], h => by cases h

/-- What the snapshot-open of `devFullSnaps` meets, but for the full table. -/
theorem devFullSnaps_hyps : ((match devFullSnaps.ctx? 4095 with
  | some x => (match devFullSnaps.bindColl 4095 x.coll false with
    | (d1, .ok _ _) => x.cflagsOk && x.zeroFrom 32 && devFullSnaps.canStart 4095 0x0B && !devFullSnaps.admitOn x.coll &&
        decide (d1.updBase + 0x40000 = 64 * 0x80801000) && d1.mem.ecc.isEmpty && decide (d1.part = .zq6448) &&
        sameCells d1.mem.cells ((devColl []).mem.cells ++ fullSnaps (64 * 0x80801000) 0 4096) &&
        (devColl []).mem.cells.all (fun c => decide (c.1 < 64 * 0x80801000))
    | _ => false)
  | none => false) : Bool) = true := by decide +kernel

theorem core_line (d : Dev) (hp : d.part = .zq6448) (i : Nat) (hi : i < 1024) : d.lineValid (0x80801000 + i) = true := by
  have hr : regionOf d.part (64 * (0x80801000 + i)) = .coreSram 0 := by
    rw [hp, regionOf, if_neg (by omega), if_neg (by simp; omega), if_pos (by simp; omega)]
    have h1 : 64 * (0x80801000 + i) % 2 ^ 29 = 0x40000 + 64 * i := by omega
    simp only [h1]
    rw [if_pos (by omega)]
    congr 1; omega
  simp [Dev.lineValid, hr, Region.lined]

theorem witness_SnapshotsOpenAndClose_full : ∃ x d1 img slot p, devFullSnaps.ctx? 4095 = some x ∧ x.cflagsOk = true ∧ x.zeroFrom 32 = true ∧
    devFullSnaps.canStart 4095 0x0B = true ∧ devFullSnaps.admitOn x.coll = false ∧
    devFullSnaps.bindColl 4095 x.coll false = (d1, .ok img slot) ∧ d1.freeSnap = (none, p) := by
  have h := devFullSnaps_hyps
  split at h
  · next x hx =>
    split at h
    · next d1 img slot hb =>
      simp only [Bool.and_eq_true, decide_eq_true_eq, Bool.not_eq_true', List.isEmpty_iff] at h
      obtain ⟨⟨⟨⟨⟨⟨⟨⟨h1, h2⟩, h3⟩, h4⟩, h5⟩, h6⟩, h7⟩, h8⟩, h9⟩ := h
      exact ⟨x, d1, img, slot, _, hx, h1, h2, h3, h4, hb, freeSnap_full d1 _ 0x80801000 h5 (fun i hi => core_line d1 h7 i hi) h6 (eq_of_sameCells _ _ h8) h9⟩
    · cases h
  · cases h
end Sys2Proof.Tests
end

