-- ==== Sys2Proof/Tests/WitnessRings.lean ====
section
/-! SUPPORT. Witnesses: states and operands that meet the hypotheses of each clause of a statement. Rings and commands: intake, updates, batches, searches. -/

namespace Sys2Proof.Tests
open Sys2Proof Sys2Proof.Machine
set_option linter.unusedVariables false
set_option Elab.async false

/-- Clause by clause, the hypotheses of `Obligations.EveryCommandCompletes` are met. -/
theorem witness_EveryCommandCompletes :
    ((let i : Instr := .engNop 64
      let s : State := State.reset
      decide (wellFormed s.dev.part s.dev.eight i = false) &&
      decide (accessesRegister i = false) : Bool) = true) ∧
    ((let i : Instr := .cntValLoRead (.core 15) 6 23
      let s : State := State.reset
      decide (wellFormed s.dev.part s.dev.eight i = false) &&
      (match exec i s with
      | .next t =>
      true
      | _ => false) : Bool) = true) := by decide +kernel

/-- Clause by clause, the hypotheses of `Obligations.ExecLeavesTheQueue` are met. -/
theorem witness_ExecLeavesTheQueue :
    ((let i : Instr := .engNop 63
      let s : State := State.reset
      (match exec i s with
      | .next t =>
      true
      | _ => false) : Bool) = true) := by decide +kernel

/-- Clause by clause, the hypotheses of `Obligations.SyndromeClasses` are met. -/
theorem witness_SyndromeClasses :
    ((let s := 127
      decide (0 < s) &&
      decide (s < 128) : Bool) = true) ∧
    ((let j := 6
      decide (j < 7) : Bool) = true) ∧
    ((let i := 63
      decide (i < 64) : Bool) = true) ∧
    ((let s := 126
      decide (0 < s) &&
      decide (s < 0x7F) &&
      decide ((List.range 7).all (fun j => s != 2 ^ j)) &&
      decide ((List.range 64).all (fun i => s != pos i)) : Bool) = true) := by decide +kernel

/-- Clause by clause, the hypotheses of `Obligations.OneFlippedBitIsCorrected` are met. -/
theorem witness_OneFlippedBitIsCorrected :
    ((let m : Memory := (Memory.putRaw {} 8 [0xA5])
      let w : Nat := 1
      let i : Nat := 71
      let j := 0
      decide (m.wf = true) &&
      decide (m.disc w = 0) &&
      decide (i < 72) : Bool) = true) ∧
    ((let m : Memory := (Memory.putRaw {} 8 [0xA5])
      let w : Nat := 1
      let i : Nat := 71
      let j := 0
      decide (m.wf = true) &&
      decide (m.disc w = 0) &&
      decide (i < 72) : Bool) = true) := by decide +kernel

/-- Clause by clause, the hypotheses of `Obligations.TwoFlippedBitsAreDetected` are met. -/
theorem witness_TwoFlippedBitsAreDetected :
    ((let m : Memory := (Memory.putRaw {} 8 [0xA5])
      let w : Nat := 1
      let i : Nat := 71
      let j : Nat := 0
      decide (m.wf = true) &&
      decide (m.disc w = 0) &&
      decide (i < 72) &&
      decide (j < 72) &&
      decide (i ≠ j) : Bool) = true) ∧
    ((let m : Memory := (Memory.putRaw {} 8 [0xA5])
      let w : Nat := 1
      let i : Nat := 71
      let j : Nat := 0
      decide (m.wf = true) &&
      decide (m.disc w = 0) &&
      decide (i < 72) &&
      decide (j < 72) &&
      decide (i ≠ j) : Bool) = true) ∧
    ((let m : Memory := (Memory.putRaw {} 8 [0xA5])
      let w : Nat := 1
      let i : Nat := 71
      let j : Nat := 0
      decide (m.wf = true) &&
      decide (m.disc w = 0) &&
      decide (i < 72) &&
      decide (j < 72) : Bool) = true) ∧
    ((let m : Memory := (Memory.putRaw {} 8 [0xA5])
      let w : Nat := 1
      let i : Nat := 71
      let j : Nat := 0
      decide (m.wf = true) &&
      decide (m.disc w = 0) &&
      decide (i < 72) &&
      decide (j < 72) : Bool) = true) ∧
    ((let m : Memory := (Memory.putRaw {} 8 [0xA5])
      let w : Nat := 1
      let i : Nat := 71
      let j : Nat := 0
      decide (m.wf = true) &&
      decide (m.disc w = 0) &&
      decide (i < 72) &&
      decide (j < 72) : Bool) = true) := by decide +kernel

/-- Clause by clause, the hypotheses of `Obligations.StoredBytesReadBack` are met. -/
theorem witness_StoredBytesReadBack :
    ((let m : Memory := (Memory.putRaw {} 8 [0xA5])
      let a : Nat := 7
      let b : List Byte := [1, 0]
      let c := 9
      let w := 1
      decide (m.wf = true) : Bool) = true) ∧
    ((let m : Memory := (Memory.putRaw {} 8 [0xA5])
      let a : Nat := 7
      let b : List Byte := [1, 0]
      let c := 9
      let w := 1
      decide (m.wf = true) &&
      decide (c < a ∨ a + b.length ≤ c) : Bool) = true) ∧
    ((let m : Memory := (Memory.putRaw {} 8 [0xA5])
      let a : Nat := 7
      let b : List Byte := [1, 0]
      let c := 9
      let w := 1
      decide (m.wf = true) : Bool) = true) ∧
    ((let m : Memory := (Memory.putRaw {} 8 [0xA5])
      let a : Nat := 7
      let b : List Byte := [1, 0]
      let c := 9
      let w := 1
      decide (m.wf = true) : Bool) = true) := by decide +kernel

/-- Clause by clause, the hypotheses of `Obligations.EpochsCompareSerially` are met. -/
theorem witness_EpochsCompareSerially :
    ((let a : Nat := 2 ^ 32 - 1
      let b : Nat := 0
      decide (a < 2 ^ 32) &&
      decide (b < 2 ^ 32) : Bool) = true) ∧
    ((let a : Nat := 2 ^ 32 - 1
      let b : Nat := 0
      decide (a < 2 ^ 32) &&
      decide (b < 2 ^ 32) : Bool) = true) ∧
    ((let a : Nat := 2 ^ 32 - 1
      let b : Nat := 0
      decide (a < 2 ^ 32) &&
      decide (b < 2 ^ 32) : Bool) = true) ∧
    ((let a : Nat := 2 ^ 32 - 1
      let b : Nat := 0
      decide (a < 2 ^ 32) &&
      decide (b < 2 ^ 32) : Bool) = true) ∧
    ((let a : Nat := 2 ^ 32 - 1
      let b : Nat := 0
      decide (a < 2 ^ 32) &&
      decide (b < 2 ^ 32) : Bool) = true) ∧
    ((let a : Nat := 2 ^ 32 - 1
      let b : Nat := 0
      decide (a < 2 ^ 32) &&
      decide (b < 2 ^ 32) &&
      decide (a ≠ b) &&
      decide ((b + 2 ^ 32 - a) % 2 ^ 32 ≠ 2 ^ 31) : Bool) = true) := by decide +kernel

/-- Clause by clause, the hypotheses of `Obligations.ArbiterPicksFirstFromPointer` are met. -/
theorem witness_ArbiterPicksFirstFromPointer :
    ((let l : List Nat := []
      let p : Nat := 0
      let n : Nat := 1
      decide (l.all (fun j => decide (j < n))) &&
      decide (p < n) &&
      decide (l = []) : Bool) = true) ∧
    ((let l : List Nat := [1, 7]
      let p : Nat := 7
      let n : Nat := 8
      decide (l.all (fun j => decide (j < n))) &&
      decide (p < n) &&
      decide (l ≠ []) : Bool) = true) := by decide +kernel

/-- Clause by clause, the hypotheses of `Obligations.CountersSaturate` are met. -/
theorem witness_CountersSaturate :
    ((let d : Dev := devOn [6]
      let p : Nat := 6
      let b : Nat := 255
      let i : Nat := 31
      let n : Nat := 2
      decide (i < 32) &&
      decide (b < 256) &&
      decide (d.cnt p b i ≤ 2 ^ 64 - 1) &&
      decide (d.frozen p = false) : Bool) = true) ∧
    ((let d : Dev := dev0.setPg 6 R.blkCtl 5
      let p : Nat := 6
      let b : Nat := 255
      let i : Nat := 31
      let n : Nat := 2
      decide (i < 32) &&
      decide (b < 256) &&
      decide (d.cnt p b i ≤ 2 ^ 64 - 1) &&
      decide (d.frozen p = true) : Bool) = true) ∧
    ((let d : Dev := devOn [6]
      let p : Nat := 6
      let b : Nat := 255
      let i : Nat := 31
      let n : Nat := 2
      let p' : Nat := 6
      let b' : Nat := 255
      let i' : Nat := 30
      decide (i < 32) &&
      decide (b < 256) &&
      decide (d.cnt p b i ≤ 2 ^ 64 - 1) &&
      decide (i' < 32) &&
      decide (b' < 256) &&
      decide ((p', b', i') ≠ (p, b, i)) : Bool) = true) := by decide +kernel

/-- Clause by clause, the hypotheses of `Obligations.RingDoorbellsAndConfiguration` are met. -/
theorem witness_RingDoorbellsAndConfiguration :
    ((let d : Dev := ((devOn [6]).setRg (R.sqCfg 7) 0x80000008 1023).setRg (R.cqCfg 7) 0x80000008 1023
      let f : Nat := 1023
      let n : Nat := 7
      let w : Nat := 65536 + 255
      decide (f < 1024) &&
      decide (n < 8) &&
      let v := w % 65536
      decide (v < ringSize (d.rg (R.sqCfg n) f)) : Bool) = true) ∧
    ((let d : Dev := ((devOn [6]).setRg (R.sqCfg 7) 0x80000008 1023).setRg (R.cqCfg 7) 0x80000008 1023
      let f : Nat := 1023
      let n : Nat := 7
      let w : Nat := 65536 + 256
      decide (f < 1024) &&
      decide (n < 8) &&
      let v := w % 65536
      decide (ringSize (d.rg (R.sqCfg n) f) ≤ v) : Bool) = true) ∧
    ((let d : Dev := (((devOn [6]).setRg (R.sqCfg 7) 0x80000008 1023).setRg (R.cqCfg 7) 0x80000008 1023).setRg (R.cqTail 7) 255 1023
      let f : Nat := 1023
      let n : Nat := 7
      let w : Nat := 65536 + 255
      decide (f < 1024) &&
      decide (n < 8) &&
      let v := w % 65536
      let size := ringSize (d.rg (R.cqCfg n) f)
      let old := (d.rg (R.cqHead n) f).toNat % size
      let tail := (d.rg (R.cqTail n) f).toNat
      decide (v < size) &&
      decide ((v + size - old) % size ≤ (tail + size - old) % size) &&
      decide (v = tail) : Bool) = true) ∧
    ((let d : Dev := (((devOn [6]).setRg (R.sqCfg 7) 0x80000008 1023).setRg (R.cqCfg 7) 0x80000008 1023).setRg (R.cqTail 7) 255 1023
      let f : Nat := 1023
      let n : Nat := 7
      let w : Nat := 65536 + 254
      decide (f < 1024) &&
      decide (n < 8) &&
      let v := w % 65536
      let size := ringSize (d.rg (R.cqCfg n) f)
      let old := (d.rg (R.cqHead n) f).toNat % size
      let tail := (d.rg (R.cqTail n) f).toNat
      decide (v < size) &&
      decide ((v + size - old) % size ≤ (tail + size - old) % size) &&
      decide (v ≠ tail) : Bool) = true) ∧
    ((let d : Dev := (((devOn [6]).setRg (R.sqCfg 7) 0x80000008 1023).setRg (R.cqCfg 7) 0x80000008 1023).setRg (R.cqTail 7) 3 1023
      let f : Nat := 1023
      let n : Nat := 7
      let w : Nat := 65536 + 4
      decide (f < 1024) &&
      decide (n < 8) &&
      let v := w % 65536
      let size := ringSize (d.rg (R.cqCfg n) f)
      let old := (d.rg (R.cqHead n) f).toNat % size
      let tail := (d.rg (R.cqTail n) f).toNat
      decide (size ≤ v ∨ (tail + size - old) % size < (v + size - old) % size) : Bool) = true) ∧
    ((let d : Dev := dev0
      let f : Nat := 1023
      let n : Nat := 7
      let w : Word := 0x80000008
      decide (f < 1024) &&
      decide (n < 8) &&
      let v : Word := w &&& 0x8000071F
      decide (ringOn (d.rg (R.sqCfg n) f) = false) &&
      decide (ringOn v = true) &&
      decide (ringOk v (d.sqBase f n) = true) : Bool) = true) ∧
    ((let d : Dev := dev0
      let f : Nat := 1023
      let n : Nat := 7
      let w : Word := 0x80000001
      decide (f < 1024) &&
      decide (n < 8) &&
      let v : Word := w &&& 0x8000071F
      decide (ringOn (d.rg (R.sqCfg n) f) = false) &&
      decide (ringOn v = true) &&
      decide (ringOk v (d.sqBase f n) = false) : Bool) = true) ∧
    ((let d : Dev := ((devOn [6]).setRg (R.sqCfg 7) 0x80000008 1023).setRg (R.cqCfg 7) 0x80000008 1023
      let f : Nat := 1023
      let n : Nat := 7
      let w : Word := 0x80000009
      decide (f < 1024) &&
      decide (n < 8) &&
      let v : Word := w &&& 0x8000071F
      decide (ringOn (d.rg (R.sqCfg n) f) = true) &&
      decide ((d.rg (R.sqCfg n) f ^^^ v) &&& 0x71F ≠ 0) : Bool) = true) ∧
    ((let d : Dev := ((devOn [6]).setRg (R.sqCfg 7) 0x80000008 1023).setRg (R.cqCfg 7) 0x80000008 1023
      let f : Nat := 1023
      let n : Nat := 7
      let w : Word := 0x00000008
      decide (f < 1024) &&
      decide (n < 8) &&
      let v : Word := w &&& 0x8000071F
      decide (ringOn (d.rg (R.sqCfg n) f) = true ∧ (d.rg (R.sqCfg n) f ^^^ v) &&& 0x71F = 0 ∨ ringOn (d.rg (R.sqCfg n) f) = false ∧ ringOn v = false) : Bool) = true) ∧
    ((let d : Dev := dev0
      let f : Nat := 1023
      let n : Nat := 7
      let w : Word := 0x80000001
      decide (f < 1024) &&
      decide (n < 8) &&
      let v : Word := w &&& 0x8000011F
      decide (ringOn (d.rg (R.cqCfg n) f) = false) &&
      decide (ringOn v = true) &&
      decide (ringOk v (d.cqBase f n) = false) : Bool) = true) ∧
    ((let d : Dev := ((devOn [6]).setRg (R.sqCfg 7) 0x80000008 1023).setRg (R.cqCfg 7) 0x80000008 1023
      let f : Nat := 1023
      let n : Nat := 7
      let w : Word := 0x80000009
      decide (f < 1024) &&
      decide (n < 8) &&
      let v : Word := w &&& 0x8000011F
      decide (ringOn (d.rg (R.cqCfg n) f) = true) &&
      decide ((d.rg (R.cqCfg n) f ^^^ v) &&& 0x1F ≠ 0) : Bool) = true) ∧
    ((let d : Dev := ((devOn [6]).setRg (R.sqCfg 7) 0x80000008 1023).setRg (R.cqCfg 7) 0x80000008 1023
      let f : Nat := 1023
      let n : Nat := 7
      let w : Word := 0x00000008
      decide (f < 1024) &&
      decide (n < 8) &&
      let v : Word := w &&& 0x8000011F
      decide (ringOn (d.rg (R.cqCfg n) f) = true ∧ (d.rg (R.cqCfg n) f ^^^ v) &&& 0x1F = 0 ∨ ringOn (d.rg (R.cqCfg n) f) = false ∧ ringOn v = false) : Bool) = true) ∧
    ((let d : Dev := dev0
      let f : Nat := 1023
      let n : Nat := 7
      let w : Word := 0x80000008
      decide (f < 1024) &&
      decide (n < 8) &&
      let v : Word := w &&& 0x8000011F
      decide (ringOn (d.rg (R.cqCfg n) f) = false) &&
      decide (ringOn v = true) &&
      decide (ringOk v (d.cqBase f n) = true) : Bool) = true) := by decide +kernel

/-- Clause by clause, the hypotheses of `Obligations.CommandsAreFetchedAndFenced` are met. -/
theorem witness_CommandsAreFetchedAndFenced :
    ((let d : Dev := ((((devOn [6]).setFn 0 { st := .enabled, inc := 1 }).setRg (R.sqCfg 7) 0x80000008).setRg (R.sqTail 7) 1).setRg (R.sqBaseLo 7) 0x4000
      decide (d.runs pgCtx = true) &&
      decide (d.cp.held.length < 4096) &&
      (match rotatePickL d.fetchers d.cp.fetchPtr 8192 with
      | (some j, p) =>
      (match ({ d with cp := { d.cp with fetchPtr := p } } : Dev).cmdRead (ringReader j) (d.sqBase (j / 8) (j % 8) + 64 * (d.rg (R.sqHead (j % 8)) (j / 8)).toNat) 64 with
      | (d1, .ready b bad) =>
      true
      | _ => false)
      | _ => false) : Bool) = true) ∧
    ((let d : Dev := (((devOn [6]).setFn 0 { st := .enabled, inc := 1 }).setRg (R.sqCfg 7) 0x80000008).setRg (R.sqTail 7) 1 |>.setRg (R.sqBaseHi 7) 0x100000
      decide (d.runs pgCtx = true) &&
      decide (d.cp.held.length < 4096) &&
      (match rotatePickL d.fetchers d.cp.fetchPtr 8192 with
      | (some j, p) =>
      (match ({ d with cp := { d.cp with fetchPtr := p } } : Dev).cmdRead (ringReader j) (d.sqBase (j / 8) (j % 8) + 64 * (d.rg (R.sqHead (j % 8)) (j / 8)).toNat) 64 with
      | (d1, .fail st) =>
      true
      | _ => false)
      | _ => false) : Bool) = true) ∧
    ((let d : Dev := (devOn [6]).setCtx 4095 { entry := entry 1 [] }
      let c : Nat := 4095
      decide (c < 4096) &&
      (match d.ctx? c with
      | some x =>
      decide (x.ready = false) &&
      decide (x.done = none) &&
      decide (d.ctxWorks = true) &&
      decide (d.cp.held.all (fun e => !(e.2.fn == x.fn && e.2.sq == x.sq && decide (e.2.seq < x.seq)))) &&
      decide (opcodes.contains x.opcode = true)
      | _ => false) : Bool) = true) ∧
    ((let d : Dev := (devOn [6]).setCtx 4095 { entry := entry 0xFF [] }
      let c : Nat := 4095
      decide (c < 4096) &&
      (match d.ctx? c with
      | some x =>
      decide (x.ready = false) &&
      decide (x.done = none) &&
      decide (d.ctxWorks = true) &&
      decide (d.cp.held.all (fun e => !(e.2.fn == x.fn && e.2.sq == x.sq && decide (e.2.seq < x.seq)))) &&
      decide (opcodes.contains x.opcode = false)
      | _ => false) : Bool) = true) := by decide +kernel

/-- Clause by clause, the hypotheses of `Obligations.CompletionRecords` are met. -/
theorem witness_CompletionRecords :
    ((let d : Dev := ((devOn [6]).setFn 0 { st := .clean, inc := 1 }).setCtx 4095 { inc := 1, entry := entry 1 [], ready := true, started := true, done := some {} }
      let c : Nat := 4095
      decide (c < 4096) &&
      decide (d.ctxWorks = true) &&
      (match d.ctx? c with
      | some x =>
      (match x.done with
      | some r =>
      decide (x.posted = none) &&
      decide (d.discards x = true)
      | _ => false)
      | _ => false) : Bool) = true) ∧
    ((let d : Dev := (((devOn [6]).setFn 0 { st := .enabled, inc := 1 }).setRg (R.cqCfg 0) 0x80000008).setCtx 4095 { inc := 1, entry := entry 1 [], ready := true, started := true, done := some {} }
      let c : Nat := 4095
      decide (c < 4096) &&
      decide (d.ctxWorks = true) &&
      (match d.ctx? c with
      | some x =>
      (match x.done with
      | some r =>
      decide (x.posted = none) &&
      decide (d.discards x = false) &&
      decide (x.remote.wrOut = 0) &&
      decide (ringOn (d.rg (R.cqCfg x.cq) x.fn) = true) &&
      decide (d.cqFull x.fn x.cq = false) &&
      decide (d.firstDone x r = true) &&
      (match (d.giveBack c).ctx? c with
      | some y =>
      (match y.done with
      | some r' =>
      true
      | _ => false)
      | _ => false)
      | _ => false)
      | _ => false) : Bool) = true) := by decide +kernel

/-- Clause by clause, the hypotheses of `Obligations.EnableStartsAnIncarnation` are met. -/
theorem witness_EnableStartsAnIncarnation :
    ((let d : Dev := dev0
      let f : Nat := 1023
      decide (f < 1024) &&
      decide ((d.fn f).st = .disabled ∨ (d.fn f).st = .clean) &&
      decide ((d.fn f).softReset = false) : Bool) = true) := by decide +kernel

/-- Clause by clause, the hypotheses of `Obligations.FunctionStateCommands` are met. -/
theorem witness_FunctionStateCommands :
    ((let d : Dev := dev0.setFn 1023 { st := .enabled, inc := 1 }
      let f : Nat := 1023
      decide (f < 1024) &&
      decide ((d.fn f).st = .enabled) : Bool) = true) ∧
    ((let d : Dev := dev0.setFn 1023 { st := .enabled, inc := 1 }
      let f : Nat := 1023
      decide (f < 1024) &&
      decide ((d.fn f).st = .enabled ∨ (d.fn f).st = .quiescing) : Bool) = true) ∧
    ((let d : Dev := dev0.setFn 1023 { st := .draining, inc := 1 }
      let f : Nat := 1023
      decide (f < 1024) &&
      decide ((d.fn f).st = .quiescing ∨ (d.fn f).st = .draining) : Bool) = true) ∧
    ((let d : Dev := dev0.setFn 1023 { st := .enabled, inc := 1 }
      let f : Nat := 1023
      decide (f < 1024) &&
      decide ((d.fn f).st = .enabled ∨ (d.fn f).st = .quiescing) : Bool) = true) ∧
    ((let d : Dev := dev0.setFn 1023 { st := .clean }
      let f : Nat := 1023
      decide (f < 1024) &&
      decide ((d.fn f).st = .disabled ∨ (d.fn f).st = .clean ∨ (d.fn f).st = .draining) : Bool) = true) ∧
    ((let d : Dev := dev0.setFn 1023 { softReset := true }
      let f : Nat := 1023
      let on : Bool := true
      decide (f < 1024) &&
      decide (on = true ∧ (d.fn f).softReset = true) : Bool) = true) ∧
    ((let d : Dev := dev0.setFn 1023 { softReset := true }
      let f : Nat := 1023
      let on : Bool := false
      decide (f < 1024) &&
      decide (on = false ∨ (d.fn f).softReset = false) : Bool) = true) ∧
    ((let d : Dev := dev0.setFn 1023 { st := .quiescing, inc := 1 }
      let f : Nat := 1023
      decide (f < 1024) &&
      decide ((d.fn f).st = .quiescing ∨ (d.fn f).st = .draining) &&
      decide (d.heldBy f = 0) &&
      decide (d.itemsOf f = false) : Bool) = true) ∧
    ((let d : Dev := dev0.setFn 1023 { st := .clean, softReset := true }
      let f : Nat := 1023
      decide (f < 1024) &&
      let x := d.fn f
      decide (x.st = .disabled ∨ x.st = .clean) &&
      decide (x.softReset = true) : Bool) = true) := by decide +kernel

/-- Clause by clause, the hypotheses of `Obligations.ReinServesItsResource` are met. -/
theorem witness_ReinServesItsResource :
    ((let d : Dev := (({ dev0 with fab := { dev0.fab with tp := { dev0.fab.tp with outbox := [(3, {})] } } } : Dev).setPort 31 { st := .up, peerAlloc := [(0, 9), (1, 9), (2, 9), (3, 9), (4, 9), (5, 9), (6, 9), (7, 9)] }).setRein 31 { strict := [(0, [{ fn := 0, owner := .work, kind := .message 3, cost := 64 }])] }
      let i : Nat := 31
      decide (i < 96) &&
      decide ((d.eight && decide (16 ≤ i) && decide (i < 32)) = false) &&
      decide (d.frozen (pgRein i) = false) &&
      decide (d.alive = true) &&
      (match d.reinSelect i (fun it => d.reinCan i it) with
      | (d1, some it) =>
      (match it.kind with
      | .message n =>
      (match Tab.find? d1.fab.tp.outbox n with
      | some m =>
      true
      | _ => false)
      | _ => false)
      | _ => false) : Bool) = true) ∧
    ((let d : Dev := ((dev0.setRein 95 { strict := [(0, [{ fn := 0, owner := .work, kind := .base, cost := 64 }])] }) : Dev)
      let i : Nat := 95
      decide (i < 96) &&
      decide ((d.eight && decide (16 ≤ i) && decide (i < 32)) = false) &&
      decide (d.frozen (pgRein i) = false) &&
      decide (d.alive = true) &&
      (match d.reinSelect i (fun it => d.reinCan i it) with
      | (d1, some it) =>
      decide ((match it.kind with | .message _ => false | _ => true) = true)
      | _ => false) : Bool) = true) ∧
    ((let d : Dev := ({ dev0 with now := 1600000000 } : Dev).setRein 95 { strict := [(0, [{ fn := 0, owner := .work, kind := .message 3, cost := 64 }])], queues := [(0, { tagged := true })] }
      let i : Nat := 95
      decide (i < 96) &&
      decide ((d.eight && decide (16 ≤ i) && decide (i < 32)) = false) &&
      let us := max (d.fd R.reinCfg 15 0 i) 1
      decide ((d.rein i).queues.any (fun q => q.2.tagged) = true) &&
      decide ((d.rein i).servedAt + usCycles us ≤ d.now) &&
      decide ((d.rein i).strict.any (fun q => !q.2.isEmpty) = true) &&
      decide (d.frozen (pgRein i) = false) : Bool) = true) := by decide +kernel

/-- Clause by clause, the hypotheses of `Obligations.AccessesAndInterruptMessages` are met. -/
theorem witness_AccessesAndInterruptMessages :
    ((let d : Dev := devOn []
      let fu : Fuses := {}
      let m : Master := .core 15
      let a : Nat := 64
      let n : Nat := 64
      decide (d.pwr.stopped = false) &&
      (match d.allReady m false (d.pieces m a n) with
      | (d1, true) =>
      decide (((match (d1.accHeat a).place m a with | .far _ => false | _ => true) : Bool) = true) &&
      (match (d1.accHeat a).accReads fu m (d.pieces m a n) with
      | (d2, b, bad) =>
      true)
      | _ => false) : Bool) = true) ∧
    ((let d : Dev := devOn []
      let m : Master := .core 15
      let a : Nat := 64
      let b : List Byte := [1, 2]
      decide (d.pwr.stopped = false) &&
      (match d.allReady m true (d.pieces m a b.length) with
      | (d1, true) =>
      decide (((match (d1.answer []).place m a with | .far _ => false | _ => true) : Bool) = true)
      | _ => false) : Bool) = true) ∧
    ((let d : Dev := (devNode [] [3]).setRgb R.nwinMap 1023 (w32 (2 ^ 31 + 3 * 2 ^ 18))
      let m : Master := .port 31
      let a : Nat := nbrBase + 2 ^ 34 * 1023 + 64
      let n : Nat := 64
      decide (d.pwr.stopped = false) &&
      (match d.allReady m false (d.pieces m a n) with
      | (d1, true) =>
      (match (d1.accHeat a).place m a with
      | .far g =>
      true
      | _ => false)
      | _ => false) : Bool) = true) ∧
    ((let d : Dev := (devNode [] [3]).setRgb R.nwinMap 1023 (w32 (2 ^ 31 + 3 * 2 ^ 18))
      let m : Master := .port 31
      let a : Nat := nbrBase + 2 ^ 34 * 1023 + 64
      let b : List Byte := List.replicate 64 1
      decide (d.pwr.stopped = false) &&
      (match d.allReady m true (d.pieces m a b.length) with
      | (d1, true) =>
      (match (d1.answer []).place m a with
      | .far g =>
      true
      | _ => false)
      | _ => false) : Bool) = true) ∧
    ((let d : Dev := (devOn []).setFn 1023 { st := .enabled, inc := 1, queue := [{ kind := 1, index := 0, vector := 5 }] }
      let f : Nat := 1023
      decide (f < 1024) &&
      (match d.nextMsg f with
      | some i =>
      decide (d.frozen (pgFn f) = false) &&
      decide (d.alive = true) &&
      decide (d.takesMsg f = true) &&
      let g := d.addr64 R.fnMsgAddrLo R.fnMsgAddrHi f
      decide (g = 0)
      | _ => false) : Bool) = true) ∧
    ((let d : Dev := ((devOn []).setFn 1023 { st := .enabled, inc := 1, queue := [{ kind := 1, index := 0, vector := 5 }] }).setRg R.fnMsgAddrLo 0x1000 1023
      let f : Nat := 1023
      decide (f < 1024) &&
      (match d.nextMsg f with
      | some i =>
      decide (d.frozen (pgFn f) = false) &&
      decide (d.alive = true) &&
      decide (d.takesMsg f = true) &&
      let g := d.addr64 R.fnMsgAddrLo R.fnMsgAddrHi f
      decide (g ≠ 0) &&
      decide (fld (d.rg R.fnIrqShape f) 15 0 = 0 ∨ 1600000 ≤ (d.fn f).bucket) &&
      decide (d.isLocal g = true) &&
      decide (d.blocked (localPart g) 8 true = false) &&
      decide ((d.sentMsg f).isLocal g = true)
      | _ => false) : Bool) = true) ∧
    ((let d : Dev := ((devOn []).setFn 1023 { st := .enabled, inc := 1, queue := [{ kind := 1, index := 0, vector := 5 }] }).setRg R.fnMsgAddrHi 0x00300000 1023
      let f : Nat := 1023
      decide (f < 1024) &&
      (match d.nextMsg f with
      | some i =>
      decide (d.frozen (pgFn f) = false) &&
      decide (d.alive = true) &&
      decide (d.takesMsg f = true) &&
      let g := d.addr64 R.fnMsgAddrLo R.fnMsgAddrHi f
      decide (g ≠ 0) &&
      decide (fld (d.rg R.fnIrqShape f) 15 0 = 0 ∨ 1600000 ≤ (d.fn f).bucket) &&
      decide (d.isLocal g = false) &&
      decide ((d.sentMsg f).isLocal g = false)
      | _ => false) : Bool) = true) := by decide +kernel

/-- Clause by clause, the hypotheses of `Obligations.CommandsEndEarly` are met. -/
theorem witness_CommandsEndEarly :
    ((let d : Dev := running (devOn [6]) 4095 2 []
      let c : Nat := 4095
      let k : Nat := 65535
      decide (c < 4096) &&
      (match d.ctx? c with
      | some x =>
      decide (x.cause = none) &&
      decide (x.done = none)
      | _ => false) : Bool) = true) ∧
    ((let d : Dev := ({ (devOn [6]) with now := 1600 } : Dev).setCtx 4095 { entry := entry 2 [], started := true, deadline := some 1600 }
      let c : Nat := 4095
      decide (c < 4096) &&
      (match d.ctx? c with
      | some x =>
      decide (x.cause = none) &&
      decide (x.done = none) &&
      (match x.deadline with
      | some t =>
      decide (t ≤ d.now) &&
      decide (d.ctxWorks = true) &&
      decide (d.wroteBy c t = false)
      | _ => false)
      | _ => false) : Bool) = true) ∧
    ((let d : Dev := devOn [6]
      let c : Nat := 4095
      decide (c < 4096) &&
      decide (d.ctx? c = none) : Bool) = true) ∧
    ((let d : Dev := running (devOn [6]) 4095 2 []
      let c : Nat := 4095
      let k : Nat := 65535
      decide (c < 4096) &&
      (match d.ctx? c with
      | some x =>
      decide (x.cinc ≠ k)
      | _ => false) : Bool) = true) ∧
    ((let d : Dev := (devOn [6]).setCtx 4095 { inc := 1, entry := entry 1 [], started := true, done := some {} }
      let c : Nat := 4095
      let k : Nat := 0
      decide (c < 4096) &&
      (match d.ctx? c with
      | some x =>
      decide (x.done ≠ none)
      | _ => false) : Bool) = true) := by decide +kernel

/-- Clause by clause, the hypotheses of `Obligations.TablesArePublishedAndRetired` are met. -/
theorem witness_TablesArePublishedAndRetired :
    ((let d : Dev := withCmd ((devTbl [6]).store 0x10000 (bytesOf 64 [(0, 1, 4), (1, 1, 1), (4, 4, 1), (8, 4, 64), (12, 4, 16), (18, 2, 4), (24, 8,
        0x20000)])) 4095 0x10 [(32, 2, 4096), (34, 1, 4), (8, 8, 0x10000), (28, 4, 64)]
      let c : Nat := 4095
      decide (c < 4096) &&
      (match d.ctx? c with
      | some x =>
      decide ((d.start c).tdescBad (x.n 32 2) = false) &&
      let t : TDesc := (d.start c).tdesc (x.n 32 2)
      decide (d.canStart c 0x10 = true) &&
      decide (d.tblMine c = true) &&
      decide (pubFieldsOk x = true) &&
      decide (t.st = 0 ∨ t.kind = x.n 34 1) &&
      decide (x.desc ≠ 0 ∨ x.descLen ≠ 0) &&
      decide (x.n 36 4 = (if t.st = 0 then 0 else t.ver)) &&
      (match t.freeSlot with
      | some s =>
      (match (d.start c).imgCheck c (x.n 32 2) (x.n 34 1) x.desc x.descLen with
      | (d1, .good) =>
      true
      | _ => false)
      | _ => false)
      | _ => false) : Bool) = true) ∧
    ((let d : Dev := withCmd (withTbl (devTbl [6]) 4096 4 0x10000 (bytesOf 64 [(0, 1, 4), (1, 1, 1), (4, 4, 1), (8, 4, 64), (12, 4, 16), (18, 2, 4), (24, 8,
        0x20000)])) 4095 0x10 [(32, 2, 4096), (34, 1, 4), (36, 4, 1)]
      let c : Nat := 4095
      decide (c < 4096) &&
      (match d.ctx? c with
      | some x =>
      decide ((d.start c).tdescBad (x.n 32 2) = false) &&
      let t : TDesc := (d.start c).tdesc (x.n 32 2)
      decide (d.canStart c 0x10 = true) &&
      decide (d.tblMine c = true) &&
      decide (pubFieldsOk x = true) &&
      decide (t.st = 1) &&
      decide (t.kind = x.n 34 1) &&
      decide (x.desc = 0) &&
      decide (x.descLen = 0) &&
      decide (x.n 36 4 = t.ver)
      | _ => false) : Bool) = true) ∧
    ((let d : Dev := withCmd ((devTbl [6]).store 0x10000 (bytesOf 64 [(0, 1, 4), (1, 1, 1), (4, 4, 1), (8, 4, 64), (12, 4, 16), (18, 2, 4), (24, 8,
        0x20000)])) 4095 0x10 [(32, 2, 4096), (34, 1, 4), (8, 8, 0x10000), (28, 4, 64), (35, 1, 1)]
      let c : Nat := 4095
      decide (c < 4096) &&
      (match d.ctx? c with
      | some x =>
      decide ((d.start c).tdescBad (x.n 32 2) = false) &&
      let t : TDesc := (d.start c).tdesc (x.n 32 2)
      decide (d.canStart c 0x10 = true) &&
      decide (d.tblMine c = true) &&
      decide (pubFieldsOk x = false)
      | _ => false) : Bool) = true) ∧
    ((let d : Dev := withCmd (((devTbl [6]).putTdesc 4096 { kind := 3, st := 1, ver := 1, slots := [{}, {}, {}, {}] }).store 0x10000 (bytesOf 64 [(0, 1, 4),
        (1, 1, 1), (4, 4, 1), (8, 4, 64), (12, 4, 16), (18, 2, 4), (24, 8, 0x20000)])) 4095 0x10 [(32, 2, 4096), (34, 1, 4), (8, 8, 0x10000), (28, 4, 64)]
      let c : Nat := 4095
      decide (c < 4096) &&
      (match d.ctx? c with
      | some x =>
      decide ((d.start c).tdescBad (x.n 32 2) = false) &&
      let t : TDesc := (d.start c).tdesc (x.n 32 2)
      decide (d.canStart c 0x10 = true) &&
      decide (d.tblMine c = true) &&
      decide (pubFieldsOk x = true) &&
      decide ((t.st ≠ 0 ∧ t.kind ≠ x.n 34 1) ∨ (x.desc = 0 ∧ x.descLen = 0 ∧ t.st ≠ 1))
      | _ => false) : Bool) = true) ∧
    ((let d : Dev := withCmd ((devTbl [6]).store 0x10000 (bytesOf 64 [(0, 1, 4), (1, 1, 1), (4, 4, 1), (8, 4, 64), (12, 4, 16), (18, 2, 4), (24, 8,
        0x20000)])) 4095 0x10 [(32, 2, 4096), (34, 1, 4), (8, 8, 0x10000), (28, 4, 64), (36, 4, 1)]
      let c : Nat := 4095
      decide (c < 4096) &&
      (match d.ctx? c with
      | some x =>
      decide ((d.start c).tdescBad (x.n 32 2) = false) &&
      let t : TDesc := (d.start c).tdesc (x.n 32 2)
      decide (d.canStart c 0x10 = true) &&
      decide (d.tblMine c = true) &&
      decide (pubFieldsOk x = true) &&
      decide (t.st = 0 ∨ t.kind = x.n 34 1) &&
      decide (x.desc ≠ 0 ∨ x.descLen ≠ 0 ∨ t.st = 1) &&
      decide (x.n 36 4 ≠ (if t.st = 0 then 0 else t.ver))
      | _ => false) : Bool) = true) ∧
    ((let d : Dev := withCmd (((devTbl [6]).putTdesc 4096 { kind := 4, st := 1, ver := 7, slots := [{ base := 64, len := 64, ver := 4, st := 2 }, { base := 64, len := 64, ver := 5, st := 2 }, { base := 64, len := 64, ver := 6, st := 2 }, { base := 64, len := 64, ver := 7, st := 1 }] }).store 0x10000 (bytesOf 64 [(0, 1, 4), (1, 1, 1), (4, 4, 1), (8, 4, 64), (12, 4, 16), (18, 2, 4), (24, 8, 0x20000)])) 4095 0x10 [(32, 2, 4096), (34, 1, 4), (8, 8, 0x10000), (28, 4, 64), (36, 4, 7)]
      let c : Nat := 4095
      decide (c < 4096) &&
      (match d.ctx? c with
      | some x =>
      decide ((d.start c).tdescBad (x.n 32 2) = false) &&
      let t : TDesc := (d.start c).tdesc (x.n 32 2)
      decide (d.canStart c 0x10 = true) &&
      decide (d.tblMine c = true) &&
      decide (pubFieldsOk x = true) &&
      decide (t.st = 0 ∨ t.kind = x.n 34 1) &&
      decide (x.desc ≠ 0 ∨ x.descLen ≠ 0) &&
      decide (x.n 36 4 = (if t.st = 0 then 0 else t.ver)) &&
      decide (t.freeSlot = none)
      | _ => false) : Bool) = true) ∧
    ((let d : Dev := withCmd ((devTbl [6]).store 0x10000 (bytesOf 64 [(0, 1, 4), (1, 1, 1), (4, 4, 1), (8, 4, 64), (12, 4, 16), (18, 2, 4), (24, 8,
        0x20000)])) 4095 0x10 [(32, 2, 4096), (34, 1, 4), (8, 8, 0x10000), (28, 4, 64), (28, 4, 128)]
      let c : Nat := 4095
      decide (c < 4096) &&
      (match d.ctx? c with
      | some x =>
      decide ((d.start c).tdescBad (x.n 32 2) = false) &&
      let t : TDesc := (d.start c).tdesc (x.n 32 2)
      decide (d.canStart c 0x10 = true) &&
      decide (d.tblMine c = true) &&
      decide (pubFieldsOk x = true) &&
      decide (t.st = 0 ∨ t.kind = x.n 34 1) &&
      decide (x.desc ≠ 0 ∨ x.descLen ≠ 0) &&
      decide (x.n 36 4 = (if t.st = 0 then 0 else t.ver)) &&
      (match t.freeSlot with
      | some s =>
      (match (d.start c).imgCheck c (x.n 32 2) (x.n 34 1) x.desc x.descLen with
      | (d1, .bad st) =>
      true
      | _ => false)
      | _ => false)
      | _ => false) : Bool) = true) ∧
    ((let d0 := withCmd ((devTbl [6]).store 0x10000 (bytesOf 64 [(0, 1, 4), (1, 1, 1), (4, 4, 1), (8, 4, 64), (12, 4, 16), (18, 2, 4), (24, 8,
        0x20000)])) 4095 0x10 [(32, 2, 4096), (34, 1, 4), (8, 8, 0x10000), (28, 4, 64)]
      let d : Dev := d0.setPg 0xC R.blkCtl 0
      let c : Nat := 4095
      decide (c < 4096) &&
      (match d.ctx? c with
      | some x =>
      decide ((d.start c).tdescBad (x.n 32 2) = false) &&
      let t : TDesc := (d.start c).tdesc (x.n 32 2)
      decide (d.canStart c 0x10 = true) &&
      decide (d.tblMine c = true) &&
      decide (pubFieldsOk x = true) &&
      decide (t.st = 0 ∨ t.kind = x.n 34 1) &&
      decide (x.desc ≠ 0 ∨ x.descLen ≠ 0) &&
      decide (x.n 36 4 = (if t.st = 0 then 0 else t.ver)) &&
      (match t.freeSlot with
      | some s =>
      (match (d.start c).imgCheck c (x.n 32 2) (x.n 34 1) x.desc x.descLen with
      | (d1, .wait) =>
      true
      | _ => false)
      | _ => false)
      | _ => false) : Bool) = true) ∧
    ((let d : Dev := withCmd ((devTbl [6]).putTdesc 4096 { kind := 4, st := 1, cur := 1, ver := 2, slots := [{ base := 64, len := 64, ver := 1, st := 2 }, { base := 64, len := 64, ver := 2, st := 1 }, {}, {}] }) 4095 0x11 [(32, 2, 4096), (34, 2, 1)]
      let c : Nat := 4095
      decide (c < 4096) &&
      (match d.ctx? c with
      | some x =>
      decide ((d.start c).tdescBad (x.n 32 2) = false) &&
      let t : TDesc := (d.start c).tdesc (x.n 32 2)
      decide (d.canStart c 0x11 = true) &&
      decide (d.tblBusy = false) &&
      decide (retireFieldsOk x = false)
      | _ => false) : Bool) = true) ∧
    ((let d : Dev := withCmd (devTbl [6]) 4095 0x11 [(32, 2, 65535)]
      let c : Nat := 4095
      decide (c < 4096) &&
      (match d.ctx? c with
      | some x =>
      decide ((d.start c).tdescBad (x.n 32 2) = false) &&
      let t : TDesc := (d.start c).tdesc (x.n 32 2)
      decide (d.canStart c 0x11 = true) &&
      decide (d.tblBusy = false) &&
      decide (retireFieldsOk x = true) &&
      decide (t.st = 0 ∨ 6 < t.kind)
      | _ => false) : Bool) = true) ∧
    ((let d : Dev := withCmd ((devTbl [6]).putTdesc 4096 { kind := 4, st := 1, cur := 1, ver := 2, slots := [{ base := 64, len := 64, ver := 1, st := 2 }, { base := 64, len := 64, ver := 2, st := 1 }, {}, {}] }) 4095 0x11 [(32, 2, 4096), (36, 4, 3)]
      let c : Nat := 4095
      decide (c < 4096) &&
      (match d.ctx? c with
      | some x =>
      decide ((d.start c).tdescBad (x.n 32 2) = false) &&
      let t : TDesc := (d.start c).tdesc (x.n 32 2)
      decide (d.canStart c 0x11 = true) &&
      decide (d.tblBusy = false) &&
      decide (retireFieldsOk x = true) &&
      decide (t.st ≠ 0) &&
      decide (t.kind ≤ 6) &&
      decide (firstBelow 4 (fun s => (t.slot s).st != 0 && (t.slot s).ver == x.n 36 4) = none)
      | _ => false) : Bool) = true) ∧
    ((let d : Dev := withCmd ((devTbl [6]).putTdesc 4096 { kind := 4, st := 1, cur := 1, ver := 2, slots := [{ base := 64, len := 64, ver := 1, st := 2 }, { base := 64, len := 64, ver := 2, st := 1 }, {}, {}] }) 4095 0x11 [(32, 2, 4096), (36, 4, 2)]
      let c : Nat := 4095
      decide (c < 4096) &&
      (match d.ctx? c with
      | some x =>
      decide ((d.start c).tdescBad (x.n 32 2) = false) &&
      let t : TDesc := (d.start c).tdesc (x.n 32 2)
      decide (d.canStart c 0x11 = true) &&
      decide (d.tblBusy = false) &&
      decide (retireFieldsOk x = true) &&
      decide (t.st ≠ 0) &&
      decide (t.kind ≤ 6) &&
      (match firstBelow 4 (fun s => (t.slot s).st != 0 && (t.slot s).ver == x.n 36 4) with
      | some s =>
      decide ((t.slot s).st = 1)
      | _ => false)
      | _ => false) : Bool) = true) ∧
    ((let d : Dev := withCmd ((devTbl [6]).putTdesc 4096 { kind := 4, st := 1, cur := 1, ver := 2, slots := [{ base := 64, len := 64, ver := 1, st := 3 }, { base := 64, len := 64, ver := 2, st := 1 }, {}, {}] }) 4095 0x11 [(32, 2, 4096), (36, 4, 1)]
      let c : Nat := 4095
      decide (c < 4096) &&
      (match d.ctx? c with
      | some x =>
      decide ((d.start c).tdescBad (x.n 32 2) = false) &&
      let t : TDesc := (d.start c).tdesc (x.n 32 2)
      decide (d.canStart c 0x11 = true) &&
      decide (d.tblBusy = false) &&
      decide (retireFieldsOk x = true) &&
      decide (t.st ≠ 0) &&
      decide (t.kind ≤ 6) &&
      (match firstBelow 4 (fun s => (t.slot s).st != 0 && (t.slot s).ver == x.n 36 4) with
      | some s =>
      decide ((t.slot s).st = 3)
      | _ => false)
      | _ => false) : Bool) = true) ∧
    ((let d : Dev := withCmd ((devTbl [6]).putTdesc 4096 { kind := 4, st := 1, cur := 1, ver := 2, slots := [{ base := 64, len := 64, ver := 1, st := 2 }, { base := 64, len := 64, ver := 2, st := 1 }, {}, {}] }) 4095 0x11 [(32, 2, 4096), (36, 4, 1)]
      let c : Nat := 4095
      decide (c < 4096) &&
      (match d.ctx? c with
      | some x =>
      decide ((d.start c).tdescBad (x.n 32 2) = false) &&
      let t : TDesc := (d.start c).tdesc (x.n 32 2)
      decide (d.canStart c 0x11 = true) &&
      decide (d.tblBusy = false) &&
      decide (retireFieldsOk x = true) &&
      decide (t.st ≠ 0) &&
      decide (t.kind ≤ 6) &&
      (match firstBelow 4 (fun s => (t.slot s).st != 0 && (t.slot s).ver == x.n 36 4) with
      | some s =>
      decide ((t.slot s).st = 2)
      | _ => false)
      | _ => false) : Bool) = true) := by decide +kernel

/-- Clause by clause, the hypotheses of `Obligations.AwlSequences` are met. -/
theorem witness_AwlSequences :
    ((let d : Dev := withCmd ((devOn [6, 0xDF, 0xCF]).store 0x4000 (bytesOf 64 [(0, 1, 1), (2, 2, 1), (8, 8, hideBase + 15 * 2 ^ 36)] ++ bytesOf 64 [(0, 1,
        4), (4, 4, 1), (32, 4, 16)])) 4095 0x20 [(8, 8, 0x4000), (28, 4, 128)]
      let c : Nat := 4095
      decide (c < 4096) &&
      decide (d.canStart c 0x20 = true) &&
      (match d.ctx? c with
      | some x =>
      decide (d.seqEntryOk x = true) &&
      (match d.need c x.desc x.descLen with
      | (d1, .ok b) =>
      decide (d1.seqDescOk x b = true) &&
      decide (d1.stackOut (seqStack b) = false)
      | _ => false)
      | _ => false) : Bool) = true) ∧
    ((let d : Dev := (running (devOn [6, 0xDF,
        0xCF]) 4095 0x20 []).setSeq 4095 { stack := 15, steps := bytesOf 64 [(0, 1, 4), (4, 4, 1), (32, 4, 16)], nsteps := 1, begun := true }
      let c : Nat := 4095
      decide (c < 4096) &&
      (match d.seq? c with
      | some x =>
      decide (d.live c = true) &&
      decide (d.stackOut x.stack = false) &&
      decide (d.runs (pgAwl x.stack) = true) &&
      decide (d.runs (pgHide x.stack) = true) &&
      decide (x.begun = true) &&
      decide ((x.at x.step).op ≠ 8) &&
      (match d.awlRows (hideBase + 2 ^ 36 * x.stack) (x.at x.step) (List.range (x.at x.step).rows) with
      | (d1, n, true) =>
      true
      | _ => false)
      | _ => false) : Bool) = true) ∧
    ((let d : Dev := (running (devOn [6, 0xDF,
        0xCF]) 4095 0x20 []).setSeq 4095 { stack := 15, steps := bytesOf 64 [(0, 1, 8), (1, 1, 2), (4, 4, 1), (32, 4, 32)], nsteps := 1, begun := true }
      let c : Nat := 4095
      let r : Nat := 0
      decide (c < 4096) &&
      (match d.seq? c with
      | some x =>
      decide (d.live c = true) &&
      decide (d.stackOut x.stack = false) &&
      decide (d.runs (pgAwl x.stack) = true) &&
      decide (d.runs (pgHide x.stack) = true) &&
      decide (x.begun = true) &&
      decide ((x.at x.step).op = 8) &&
      decide (r < (x.at x.step).rows) &&
      decide (x.attnDone.contains r = false) &&
      (match d.awlRow (hideBase + 2 ^ 36 * x.stack) (x.at x.step) r with
      | (d1, true) =>
      true
      | _ => false)
      | _ => false) : Bool) = true) ∧
    ((let c : Nat := 4095
      decide (c < 4096) : Bool) = true) ∧
    ((let d0 := running (devOn [6, 0xDF, 0xCF]) 4095 0x18 []
      let d : Dev := { d0 with eng := { d0.eng with runs := [(7, { use := .embed 0, ctx := 4095, base := 0x4000, attn := true, attnOut := true })] } }
      let n : Nat := 7
      let r : Nat := 0
      let c : Nat := 4095
      decide (c < 4096) &&
      (match d.run? n with
      | some x =>
      decide (x.attn = true) &&
      decide (x.attnOut = true) &&
      let h := d.runHdr x
      decide (d.blocked (localPart (x.arena h)) (2 ^ 20 * mKv h) true = false)
      | _ => false) : Bool) = true) ∧
    ((let d : Dev := withCmd (devOn [6]) 4095 0x21 [(32, 2, 0x8000)]
      let c : Nat := 4095
      decide (c < 4096) &&
      decide (Tab.has d.hide.fences c = false) &&
      decide (d.canStart c 0x21 = true) &&
      (match d.ctx? c with
      | some x =>
      decide (x.cflagsOk = true) &&
      decide (x.zeroFrom 34 = true) &&
      decide (x.n 32 2 ≠ 0)
      | _ => false) : Bool) = true) := by decide +kernel

/-- Clause by clause, the hypotheses of `Obligations.RefreshAndStitches` are met. -/
theorem witness_RefreshAndStitches :
    ((let d : Dev := (devOn [0xCF, 0xDF]).setStack 15 { stitches := [(511, { owner := .stream 3, fn := 0 })] }
      let n : Nat := 15
      let b : Nat := 1023
      decide (n < 16) &&
      decide (b < 1024) &&
      decide ((d.stack n).selfRefresh = false) &&
      decide (d.stackOut n = false) &&
      decide (Tab.has (d.stack n).stitches (b / 2) = true) &&
      decide ((d.stack n).refreshWait.contains b = false) : Bool) = true) ∧
    ((let d : Dev := devOn [0xCF, 0xDF]
      let n : Nat := 15
      let b : Nat := 1023
      decide (n < 16) &&
      decide (b < 1024) &&
      decide ((d.stack n).selfRefresh = false) &&
      decide (d.stackOut n = false) &&
      decide (Tab.has (d.stack n).stitches (b / 2) = false) : Bool) = true) ∧
    ((let d : Dev := (devOn [0xCF, 0xDF]).setStack 15 { stitches := [(511, { owner := .stream 3, fn := 0 })], refreshWait := [7, 1023] }
      let n : Nat := 15
      let u : Nat := 511
      let k : Nat := 3
      decide (n < 16) &&
      decide (u < 512) &&
      (match Tab.find? (d.stack n).stitches u with
      | some s =>
      decide (s.owner = .stream k ∨ s.owner = .attn k)
      | _ => false) : Bool) = true) ∧
    ((let d0 := (running (devOn [6, 0xDF, 0xCF]) 4095 0x20 []).setSeq 4095 { stack := 15, nsteps := 1 }
      let d : Dev := d0.setStack 15 { stitches := [(511, { owner := .seq 4095, fn := 0 })], refreshWait := [7, 1023] }
      let n : Nat := 15
      let u : Nat := 511
      let k : Nat := 4095
      decide (n < 16) &&
      decide (u < 512) &&
      (match Tab.find? (d.stack n).stitches u with
      | some s =>
      decide (s.owner = .seq k) &&
      let due := (d.stack n).refreshWait.filter (fun b => b / 2 == u)
      let rest := (d.stack n).refreshWait.filter (fun b => b / 2 != u)
      let w := ((d.setStack n { d.stack n with stitches := Tab.del (d.stack n).stitches u, refreshWait := rest }).bump (pgHide n) 0 2 due.length).bump (pgAwl n) 0 4 (80 * due.length)
      (match w.seq? k with
      | some x =>
      true
      | _ => false)
      | _ => false) : Bool) = true) ∧
    ((let d : Dev := (devOn [0xCF, 0xDF]).setStack 15 { stitches := [(511, { owner := .pool 3, fn := 0 })], refreshWait := [7, 1023] }
      let n : Nat := 15
      let u : Nat := 511
      let k : Nat := 3
      decide (n < 16) &&
      decide (u < 512) &&
      (match Tab.find? (d.stack n).stitches u with
      | some s =>
      decide (s.owner = .pool k)
      | _ => false) : Bool) = true) ∧
    ((let n : Nat := 15
      decide (n < 16) : Bool) = true) ∧
    ((let n : Nat := 15
      decide (n < 16) : Bool) = true) := by decide +kernel

/-- Clause by clause, the hypotheses of `Obligations.SnapshotsOpenAndClose` are met. -/
theorem witness_SnapshotsOpenAndClose :
    ((let d : Dev := withCmd (devColl []) 4095 0x0B [(4, 4, 5)]
      let c : Nat := 4095
      decide (c < 4096) &&
      (match d.ctx? c with
      | some x =>
      decide (x.cflagsOk = true) &&
      decide (x.zeroFrom 32 = true) &&
      decide (d.canStart c 0x0B = true) &&
      decide (d.admitOn x.coll = false) &&
      (match d.bindColl c x.coll false with
      | (d1, .ok img slot) =>
      (match d1.freeSnap with
      | (some i, p) =>
      true
      | _ => false)
      | _ => false)
      | _ => false) : Bool) = true) ∧
    ((let d : Dev := (withCmd (devColl []) 4095 0x0C [(4, 4,
        5 + 4096 * 4095 + 2 ^ 24 * 1)]).putSnap 4095 { coll := 5, st := 1, fn := 0, epoch := 0, pins := 0, gen := 1 }
      let c : Nat := 4095
      decide (c < 4096) &&
      (match d.ctx? c with
      | some x =>
      decide (x.cflagsOk = true) &&
      decide (x.zeroFrom 32 = true) &&
      decide (d.canStart c 0x0C = true) &&
      decide ((d.snap x.snapIdx).st = 1) &&
      decide ((d.snap x.snapIdx).gen = x.snapGen)
      | _ => false) : Bool) = true) ∧
    ((let d : Dev := withCmd (devColl []) 4095 0x0C [(4, 4, 5 + 4096 * 4095 + 2 ^ 24 * 1)]
      let c : Nat := 4095
      decide (c < 4096) &&
      (match d.ctx? c with
      | some x =>
      decide (x.cflagsOk = true) &&
      decide (x.zeroFrom 32 = true) &&
      decide (d.canStart c 0x0C = true) &&
      decide ((d.snap x.snapIdx).st ≠ 1 ∨ (d.snap x.snapIdx).gen ≠ x.snapGen)
      | _ => false) : Bool) = true) := by decide +kernel

/-- Clause by clause, the hypotheses of `Obligations.SealsFallDueAndSeal` are met. -/
theorem witness_SealsFallDueAndSeal :
    ((let d : Dev := withCmd (devColl []) 4095 0x0A [(4, 4, 5)]
      let c : Nat := 4095
      decide (c < 4096) &&
      decide (d.canStart c 0x0A = true) &&
      (match d.ctx? c with
      | some x =>
      decide (x.cflagsOk = true) &&
      decide (x.zeroFrom 32 = true) &&
      (match d.bindColl c x.coll true with
      | (d1, .ok img slot) =>
      decide ((d1.start c).follows img = false)
      | _ => false)
      | _ => false) : Bool) = true) ∧
    ((let dz := ((((devColl [(144, 4, 4), (192, 2, 1), (194, 2, 3), (196, 2,
        1)]).setRg R.fabNode 0x80000000).setRgb R.fabRoute 4095 0x3F).setPort 31 { st := .up })
      let d : Dev := withCmd (({ dz with cmp := { cur := some { gen := 7, base := 0x40000, len := 128 } } } : Dev).store 0x40000 (bytesOf 128 [(8, 4, 4), (16,
          4, 64), (64 + 24, 2, 2), (64 + 28, 4, 112), (112, 2, 9), (114, 2, 4095)])) 4095 0x0A [(4, 4, 5)]
      let c : Nat := 4095
      decide (c < 4096) &&
      decide (d.canStart c 0x0A = true) &&
      (match d.ctx? c with
      | some x =>
      decide (x.cflagsOk = true) &&
      decide (x.zeroFrom 32 = true) &&
      (match d.bindColl c x.coll true with
      | (d1, .ok img slot) =>
      decide ((d1.start c).follows img = true) &&
      (match (d1.start c).leaderOf img with
      | some l =>
      let e := (d1.start c).openEpoch x.coll
      (match (d1.start c).sendSvc (.sealFwd c x.cinc) 5 l (d1.start c).curGen [x.coll, 1, e] { fn := x.fn, owner := .command c x.cinc } with
      | (d2, true) =>
      true
      | _ => false)
      | _ => false)
      | _ => false)
      | _ => false) : Bool) = true) ∧
    ((let d : Dev := ({ devColl [] with now := 1600 * 1000 } : Dev).setCs 5 20 4 1
      let c : Nat := 5
      decide (c < 4096) &&
      decide (d.updRuns = true) &&
      (match d.collImage c with
      | some img =>
      decide (cState img = 1) &&
      decide (d.follows img = false) &&
      decide (d.partnerOf c = none) &&
      decide (cSealUs img ≠ 0xFFFFFFFF) &&
      decide (d.csFlag c 0 = true) &&
      decide (Tab.has d.upd.seals c = false) &&
      decide (max (d.cs c 32 8) (Tab.getD d.upd.refusedAt c 0) + cSealUs img ≤ d.us)
      | _ => false) : Bool) = true) ∧
    ((let d0 := devColl []
      let d : Dev := { d0 with upd := { d0.upd with seals := [(5, {  })] } }
      let c : Nat := 5
      decide (c < 4096) &&
      decide (d.updRuns = true) &&
      (match Tab.find? d.upd.seals c with
      | some s =>
      decide (s.refused = false) &&
      decide (d.sealPasses c = true) &&
      decide (s.upto = none)
      | _ => false) : Bool) = true) ∧
    ((let d0 := devColl []
      let d : Dev := { d0 with upd := { d0.upd with seals := [(5, { upto := some 3 })] } }
      let c : Nat := 5
      decide (c < 4096) &&
      decide (d.updRuns = true) &&
      (match Tab.find? d.upd.seals c with
      | some s =>
      (match s.upto with
      | some u =>
      true
      | _ => false)
      | _ => false) : Bool) = true) ∧
    ((let d0 := devColl []
      let d : Dev := { d0 with upd := { d0.upd with seals := [(5, { refused := true })] } }
      let c : Nat := 5
      decide (c < 4096) &&
      decide (d.updRuns = true) &&
      (match Tab.find? d.upd.seals c with
      | some s =>
      decide (s.refused = true ∨ d.sealPasses c = false)
      | _ => false) : Bool) = true) ∧
    ((let dz := devColl [(144, 4, 4), (192, 2, 1), (194, 2, 3), (196, 2, 1)]
      let d : Dev := ({ dz with cmp := { cur := some { gen := 7, base := 0x40000, len := 128 } } } : Dev).store 0x40000 (bytesOf 128 [(8, 4, 4), (16, 4, 64),
          (64 + 24, 2, 2), (64 + 28, 4, 112), (112, 2, 9), (114, 2, 4095)])
      let c : Nat := 5
      let coll : Nat := 5
      let src : Nat := 4095
      let e : Nat := 0
      decide (c < 4096) &&
      decide (coll < 4096) &&
      decide (c = (if d.cmp.st == .joining then (d.joinColl src coll).getD coll else coll)) &&
      decide (d.updRuns = true) &&
      (match d.collImage c with
      | some img =>
      decide (d.partnerOf c = some src ∨ (d.partnerOf c = none ∧ d.follows img = true ∧ d.leaderOf img = some src)) &&
      decide (cState img ≠ 0) &&
      decide (eLe ((d.admitSeal src c e).openEpoch c) e = true)
      | _ => false) : Bool) = true) ∧
    ((let dz := devColl [(144, 4, 4), (192, 2, 1), (194, 2, 3), (196, 2, 1)]
      let d : Dev := ({ dz with cmp := { cur := some { gen := 7, base := 0x40000, len := 128 } } } : Dev).store 0x40000 (bytesOf 128 [(8, 4, 4), (16, 4, 64),
          (64 + 24, 2, 2), (64 + 28, 4, 112), (112, 2, 9), (114, 2, 4095)])
      let c : Nat := 5
      let coll : Nat := 5
      let src : Nat := 4095
      let e : Nat := 2 ^ 32 - 1
      decide (c < 4096) &&
      decide (coll < 4096) &&
      decide (c = (if d.cmp.st == .joining then (d.joinColl src coll).getD coll else coll)) &&
      decide (d.updRuns = true) &&
      (match d.collImage c with
      | some img =>
      decide (d.partnerOf c = some src ∨ (d.partnerOf c = none ∧ d.follows img = true ∧ d.leaderOf img = some src)) &&
      decide (eLe ((d.admitSeal src c e).openEpoch c) e = false) &&
      decide (eLt e ((d.admitSeal src c e).openEpoch c) = true)
      | _ => false) : Bool) = true) ∧
    ((let dz := devColl [(144, 4, 4), (192, 2, 1), (194, 2, 3), (196, 2, 1)]
      let d : Dev := ({ dz with cmp := { cur := some { gen := 7, base := 0x40000, len := 128 } } } : Dev).store 0x40000 (bytesOf 128 [(8, 4, 4), (16, 4, 64),
          (64 + 24, 2, 2), (64 + 28, 4, 112), (112, 2, 9), (114, 2, 0)])
      let c : Nat := 5
      decide (c < 4096) &&
      decide (d.updRuns = true) &&
      (match d.collImage c with
      | some img =>
      decide (cSharded img = true) &&
      decide (d.leaderOf img = some d.node) &&
      decide (cState img ≠ 0)
      | _ => false) : Bool) = true) ∧
    ((let dz := devColl [(144, 4, 4), (192, 2, 1), (194, 2, 3), (196, 2, 1)]
      let d : Dev := ({ dz with cmp := { cur := some { gen := 7, base := 0x40000, len := 128 } } } : Dev).store 0x40000 (bytesOf 128 [(8, 4, 4), (16, 4, 64),
          (64 + 24, 2, 2), (64 + 28, 4, 112), (112, 2, 9), (114, 2, 4095)])
      let c : Nat := 5
      decide (c < 4096) &&
      decide (d.updRuns = true) &&
      (match d.collImage c with
      | some img =>
      decide (d.follows img = true)
      | _ => false) : Bool) = true) ∧
    ((let dz := devColl [(144, 4, 4), (192, 2, 1), (194, 2, 3), (196, 2, 1)]
      let d0 := ({ dz with cmp := { cur := some { gen := 7, base := 0x40000, len := 128 } } } : Dev).store 0x40000 (bytesOf 128 [(8, 4, 4), (16, 4, 64),
          (64 + 24, 2, 2), (64 + 28, 4, 112), (112, 2, 9), (114, 2, 0)])
      let d : Dev := { d0 with upd := { d0.upd with seals := [(5, {  })] } }
      let c : Nat := 5
      decide (c < 4096) &&
      decide (d.updRuns = true) &&
      (match d.collImage c with
      | some img =>
      decide (d.follows img = false) &&
      (match Tab.find? d.upd.seals c with
      | some s =>
      decide (cSharded img = true) &&
      decide (d.leaderOf img = some d.node)
      | _ => false)
      | _ => false) : Bool) = true) := by decide +kernel

/-- Clause by clause, the hypotheses of `Obligations.BatchesAndForwardedRecords` are met. -/
theorem witness_BatchesAndForwardedRecords :
    ((let d : Dev := withCmd ((devColl []).store 0x4000 (bytesOf 128 [(4, 4, 1), (8, 4, 64)])) 4095 8 [(4, 4, 5), (8, 8, 0x4000), (28, 4, 128), (16, 8,
        0x8000), (24, 4, 8)]
      let c : Nat := 4095
      decide (c < 4096) &&
      decide (Tab.has d.upd.batches c = false) &&
      decide (d.canStart c 0x08 = true) &&
      (match d.ctx? c with
      | some x =>
      decide (d.batchFieldsOk x = true) &&
      decide (d.isFenced = false) &&
      decide (Tab.has d.upd.seals x.coll = false) &&
      (match (d.unholdBatch c).need c x.desc 64 with
      | (d1, .ok h) =>
      decide (batchHdrOk x true h = true) &&
      (match d1.need c (x.desc + 64) (leAt h 4 4 * leAt h 8 4) with
      | (d2, .ok b) =>
      true
      | _ => false)
      | _ => false)
      | _ => false) : Bool) = true) ∧
    ((let d : Dev := withCmd ((devColl []).store 0x4000 (bytesOf 80 [(4, 4, 1), (8, 4, 16)])) 4095 9 [(4, 4, 5), (8, 8, 0x4000), (28, 4, 80), (16, 8, 0x8000),
        (24, 4, 8)]
      let c : Nat := 4095
      decide (c < 4096) &&
      decide (Tab.has d.upd.batches c = false) &&
      decide (d.canStart c 0x09 = true) &&
      (match d.ctx? c with
      | some x =>
      decide (d.batchFieldsOk x = true) &&
      decide (d.isFenced = false) &&
      decide (Tab.has d.upd.seals x.coll = false) &&
      (match (d.unholdBatch c).need c x.desc 64 with
      | (d1, .ok h) =>
      decide (batchHdrOk x false h = true) &&
      (match d1.need c (x.desc + 64) (leAt h 4 4 * leAt h 8 4) with
      | (d2, .ok b) =>
      true
      | _ => false)
      | _ => false)
      | _ => false) : Bool) = true) ∧
    ((let d0 := withCmd ((devColl []).store 0x4000 (bytesOf 128 [(4, 4, 1), (8, 4, 64)])) 4095 8 [(4, 4, 5), (8, 8, 0x4000), (28, 4, 128), (16, 8, 0x8000),
        (24, 4, 8)]
      let d : Dev := { d0 with upd := { d0.upd with seals := [(5, {})] } }
      let c : Nat := 4095
      decide (c < 4096) &&
      decide (Tab.has d.upd.batches c = false) &&
      (match d.ctx? c with
      | some x =>
      decide (d.batchFieldsOk x = true) &&
      decide (d.isFenced = false) &&
      decide (Tab.has d.upd.seals x.coll = true) &&
      decide (d.canStart c 0x08 = true)
      | _ => false) : Bool) = true) ∧
    ((let d0 := withCmd ((devColl []).store 0x4000 (bytesOf 128 [(4, 4, 1), (8, 4, 64)])) 4095 9 [(4, 4, 5), (8, 8, 0x4000), (28, 4, 128), (16, 8, 0x8000),
        (24, 4, 8)]
      let d : Dev := { d0 with upd := { d0.upd with seals := [(5, {})] } }
      let c : Nat := 4095
      decide (c < 4096) &&
      decide (Tab.has d.upd.batches c = false) &&
      (match d.ctx? c with
      | some x =>
      decide (d.batchFieldsOk x = true) &&
      decide (d.isFenced = false) &&
      decide (Tab.has d.upd.seals x.coll = true) &&
      decide (d.canStart c 0x09 = true)
      | _ => false) : Bool) = true) ∧
    ((let d0 := running (devColl []) 4095 8 []
      let d : Dev := { d0 with upd := { d0.upd with batches := [(4095, { coll := 5, upsert := true, recs := [], out := 0x8000 })] } }
      let c : Nat := 4095
      decide (c < 4096) &&
      decide (Tab.has d.upd.batches c = true) : Bool) = true) ∧
    ((let d0 := running (devColl []) 4095 8 []
      let d : Dev := { d0 with upd := { d0.upd with batches := [(4095, { coll := 5, upsert := true, recs := [], out := 0x8000 })] } }
      let c : Nat := 4095
      decide (c < 4096) &&
      decide (Tab.has d.upd.batches c = true) : Bool) = true) ∧
    ((let d0 := ((devColl []).store 0x3000000 (bytesOf 32 [(8, 8, 0x50000), (20, 4, 1)])).store 0x50000 (bytesOf 80 [(12, 2, 1), (64, 8, 77)])
      let d : Dev := { d0 with cmp := { d0.cmp with cur := some { gen := 7, base := 0x40000, len := 128 }, adm := [(4095, (2, 0))] } }
      let c : Nat := 0
      let src : Nat := 4095
      let g : Nat := 7
      let u : FwdUpdate := { coll := 5, upsert := false, id := 77, list := 0 }
      decide (c < 4096) &&
      decide (src < 4096) &&
      decide (d.tblBusy = false) &&
      decide (d.upd.fwdWait = []) &&
      decide (d.isFenced = false) &&
      decide ((d.admEntry src).1 ≠ 0) &&
      decide ((d.admEntry src).1 ≠ 3) &&
      (match d.collImage u.coll with
      | some img =>
      decide (u.epoch = none) &&
      decide (d.genLive g = true) &&
      decide (d.ownerNode img g u.id = some d.node) &&
      decide (cState img = 1) &&
      (match (d.bump pgBuckle 2 2).applyFrom img (d.openEpoch u.coll) u with
      | (d1, .ok) =>
      true
      | _ => false)
      | _ => false) : Bool) = true) ∧
    ((let d0 := devColl []
      let d : Dev := { d0 with cmp := { d0.cmp with adm := [(4095, (2, 0))] } }
      let c : Nat := 0
      let src : Nat := 4095
      let g : Nat := 7
      let u : FwdUpdate := { coll := 5, upsert := false, id := 77, list := 0, epoch := some 4 }
      decide (c < 4096) &&
      decide (src < 4096) &&
      decide (d.tblBusy = false) &&
      decide (d.upd.fwdWait = []) &&
      decide (d.isFenced = false) &&
      decide ((d.admEntry src).1 ≠ 0) &&
      decide ((d.admEntry src).1 ≠ 3) &&
      (match u.epoch with
      | some e =>
      true
      | _ => false) : Bool) = true) ∧
    ((let d0 := devColl []
      let d : Dev := { running d0 4095 0x10 [] with tbl := { d0.tbl with busy := some (4095, 0) } }
      let c : Nat := 0
      let src : Nat := 4095
      let g : Nat := 7
      let u : FwdUpdate := { coll := 5, upsert := false, id := 77, list := 0 }
      decide (c < 4096) &&
      decide (src < 4096) &&
      decide (d.tblBusy = true) : Bool) = true) ∧
    ((let g : Nat := 0
      let u : FwdUpdate := { coll := 0, upsert := true, id := 0, list := 0 }
      let d : Dev := { dev0 with cmp := { dev0.cmp with st := .fenced } }
      let c : Nat := 0
      let src : Nat := 4095
      decide (c < 4096) &&
      decide (src < 4096) &&
      decide (d.tblBusy = false) &&
      decide (d.upd.fwdWait = []) &&
      decide (d.isFenced = true ∨ (d.admEntry src).1 = 0 ∨ (d.admEntry src).1 = 3) : Bool) = true) ∧
    ((let r : UpdReply := { ref := 5, status := 0, epoch := 0 }
      let c : Nat := 0
      let src : Nat := 4095
      decide (c < 4096) &&
      decide (src < 4096) : Bool) = true) := by decide +kernel

/-- Clause by clause, the hypotheses of `Obligations.RebuildsAndAgeSweeps` are met. -/
theorem witness_RebuildsAndAgeSweeps :
    ((let d : Dev := withCmd (devColl []) 4095 0x12 [(4, 4, 5)]
      let c : Nat := 4095
      decide (c < 4096) &&
      decide (d.canStart c 0x12 = true) &&
      (match d.ctx? c with
      | some x =>
      decide (x.cflagsOk = true) &&
      decide (x.n 36 4 < 2) &&
      decide (x.zeroFrom 40 = true) &&
      (match d.bindColl c x.coll true with
      | (d1, .ok img slot) =>
      decide (x.n 32 4 < cLists img)
      | _ => false)
      | _ => false) : Bool) = true) ∧
    ((let d0 := devColl []
      let d : Dev := { d0 with upd := { d0.upd with rebuilds := [(listKey 4095 (2 ^ 24 - 1), { coll := 4095, list := 2 ^ 24 - 1, fn := 0 })] } }
      let c : Nat := 4095
      let l : Nat := 2 ^ 24 - 1
      decide (c < 4096) &&
      decide (l < 2 ^ 24) &&
      (match Tab.find? d.upd.rebuilds (listKey c l) with
      | some r =>
      decide (d.updRuns = true) &&
      decide (r.published = none) &&
      decide (r.newEntry = [])
      | _ => false) : Bool) = true) ∧
    ((let d0 := devColl []
      let d : Dev := { d0 with upd := { d0.upd with rebuilds := [(listKey 4095 (2 ^ 24 - 1), { coll := 4095, list := 2 ^ 24 - 1, fn := 0, newEntry := [1] })] } }
      let c : Nat := 4095
      let l : Nat := 2 ^ 24 - 1
      decide (c < 4096) &&
      decide (l < 2 ^ 24) &&
      (match Tab.find? d.upd.rebuilds (listKey c l) with
      | some r =>
      decide (d.updRuns = true) &&
      decide (r.published = none) &&
      decide (r.newEntry ≠ [])
      | _ => false) : Bool) = true) ∧
    ((let d0 := withTbl (devColl []) 4097 3 0x30000 (bytesOf 72 [(0, 1, 3), (1, 1, 1), (4, 4, 1), (8, 4, 72), (12, 4, 8), (16, 4, 1)])
      let d : Dev := { d0 with now := 1600 * 60000000 }
      let c : Nat := 5
      decide (c < 4096) &&
      decide (d.updRuns = true) &&
      (match d.collImage c with
      | some img =>
      (match (d.tdesc (cDirTbl img)).current with
      | some (k, s) =>
      decide (cState img = 1) &&
      decide (Tab.getD d.upd.sweptAt c 0 + 1000 * cSweepMs img ≤ d.us) &&
      let olds := (List.range (cLists img)).map (fun l => (l, d.listOldest img s.base (d.lastSealed c) l))
      let d1 := (d.setCs c 12 4 ((olds.map Prod.snd).foldl eMin (d.lastSealed c))).bump pgCtx 3 13
      decide (olds.all (fun o => decide (eAge o.2 (({ d1 with upd := { d1.upd with sweptAt := Tab.set d1.upd.sweptAt c d1.us } } : Dev).openEpoch c) ≤ 2 ^ 29)))
      | _ => false)
      | _ => false) : Bool) = true) := by decide +kernel

/-- Clause by clause, the hypotheses of `Obligations.SearchesStart` are met. -/
theorem witness_SearchesStart :
    ((let d0 := withCmd ((devColl []).store 0x4000 (bytesOf 128 [(0, 1, 0), (2, 2, 32), (4, 4, 128), (8, 4, 64)] ++ bytesOf 64 [])) 4095 1 [(4, 4, 5), (8, 8,
        0x4000), (28, 4, 192), (16, 8, 0x8000), (24, 4, 16 * 1024), (32, 2, 1024), (34, 2, 1)]
      let d : Dev := d0.putSnap 0 { coll := 5, st := 1, fn := 0, epoch := 0, pins := 0, gen := 0 }
      let c : Nat := 4095
      let batch : Bool := false
      decide (c < 4096) &&
      decide (d.canStart c (if batch then 0x02 else 0x01) = true) &&
      (match d.ctx? c with
      | some x =>
      decide (d.searchArgsOk x batch = true) &&
      (match d.need c x.desc 64 with
      | (d1, .ok h) =>
      decide (searchHdrOk h x.descLen (x.sQueries batch) = true) &&
      (match d1.need c x.desc x.descLen with
      | (d2, .ok b) =>
      decide (d2.admitOn x.coll = false) &&
      (match d2.lookColl c x.coll with
      | (d3, .ok img slot) =>
      decide (d3.shardOk img d3.curGen = true) &&
      decide (searchAgrees x img h (searchInputs x batch h b) = true) &&
      (match d3.filterBind c img (sdFilter h b) with
      | (d4, .ok attr) =>
      decide (searchNeeds x batch ≤ x.outLen) &&
      decide (batch = false) &&
      decide (d4.snapOpen x = true)
      | _ => false)
      | _ => false)
      | _ => false)
      | _ => false)
      | _ => false) : Bool) = true) ∧
    ((let d0 := withCmd ((devColl []).store 0x4000 (bytesOf 128 [(0, 1, 0), (2, 2, 32), (4, 4, 128), (8, 4, 64)] ++ bytesOf 64 [])) 4095 2 [(4, 4, 5), (8, 8,
        0x4000), (28, 4, 192), (16, 8, 0x8000), (24, 4, 20 * 1024), (32, 2, 1024), (34, 2, 1), (42, 2, 1)]
      let d : Dev := d0.putSnap 0 { coll := 5, st := 1, fn := 0, epoch := 0, pins := 0, gen := 0 }
      let c : Nat := 4095
      let batch : Bool := true
      decide (c < 4096) &&
      decide (d.canStart c (if batch then 0x02 else 0x01) = true) &&
      (match d.ctx? c with
      | some x =>
      decide (d.searchArgsOk x batch = true) &&
      (match d.need c x.desc 64 with
      | (d1, .ok h) =>
      decide (searchHdrOk h x.descLen (x.sQueries batch) = true) &&
      (match d1.need c x.desc x.descLen with
      | (d2, .ok b) =>
      decide (d2.admitOn x.coll = false) &&
      (match d2.lookColl c x.coll with
      | (d3, .ok img slot) =>
      decide (d3.shardOk img d3.curGen = true) &&
      decide (searchAgrees x img h (searchInputs x batch h b) = true) &&
      (match d3.filterBind c img (sdFilter h b) with
      | (d4, .ok attr) =>
      decide (searchNeeds x batch ≤ x.outLen) &&
      decide (batch = true) &&
      decide (d4.snapOpen x = true)
      | _ => false)
      | _ => false)
      | _ => false)
      | _ => false)
      | _ => false) : Bool) = true) ∧
    ((let d0 := withCmd ((devColl []).store 0x4000 (bytesOf 128 [(0, 1, 0), (2, 2, 32), (4, 4, 128), (8, 4, 64)] ++ bytesOf 64 [])) 4095 1 [(4, 4, 5), (8, 8,
        0x4000), (28, 4, 192), (16, 8, 0x8000), (24, 4, 16 * 1024), (32, 2, 1024), (34, 2, 1)]
      let d : Dev := d0
      let c : Nat := 4095
      let batch : Bool := false
      decide (c < 4096) &&
      decide (d.canStart c (if batch then 0x02 else 0x01) = true) &&
      (match d.ctx? c with
      | some x =>
      decide (d.searchArgsOk x batch = true) &&
      (match d.need c x.desc 64 with
      | (d1, .ok h) =>
      decide (searchHdrOk h x.descLen (x.sQueries batch) = true) &&
      (match d1.need c x.desc x.descLen with
      | (d2, .ok b) =>
      decide (d2.admitOn x.coll = false) &&
      (match d2.lookColl c x.coll with
      | (d3, .ok img slot) =>
      decide (d3.shardOk img d3.curGen = true) &&
      decide (searchAgrees x img h (searchInputs x batch h b) = true) &&
      (match d3.filterBind c img (sdFilter h b) with
      | (d4, .ok attr) =>
      decide (searchNeeds x batch ≤ x.outLen) &&
      decide (batch = false) &&
      decide (d4.snapOpen x = false)
      | _ => false)
      | _ => false)
      | _ => false)
      | _ => false)
      | _ => false) : Bool) = true) ∧
    ((let d0 := withCmd ((devColl []).store 0x4000 (bytesOf 128 [(0, 1, 0), (2, 2, 32), (4, 4, 128), (8, 4, 64)] ++ bytesOf 64 [])) 4095 2 [(4, 4, 5), (8, 8,
        0x4000), (28, 4, 192), (16, 8, 0x8000), (24, 4, 20 * 1024), (32, 2, 1024), (34, 2, 1), (42, 2, 1)]
      let d : Dev := d0
      let c : Nat := 4095
      let batch : Bool := true
      decide (c < 4096) &&
      decide (d.canStart c (if batch then 0x02 else 0x01) = true) &&
      (match d.ctx? c with
      | some x =>
      decide (d.searchArgsOk x batch = true) &&
      (match d.need c x.desc 64 with
      | (d1, .ok h) =>
      decide (searchHdrOk h x.descLen (x.sQueries batch) = true) &&
      (match d1.need c x.desc x.descLen with
      | (d2, .ok b) =>
      decide (d2.admitOn x.coll = false) &&
      (match d2.lookColl c x.coll with
      | (d3, .ok img slot) =>
      decide (d3.shardOk img d3.curGen = true) &&
      decide (searchAgrees x img h (searchInputs x batch h b) = true) &&
      (match d3.filterBind c img (sdFilter h b) with
      | (d4, .ok attr) =>
      decide (searchNeeds x batch ≤ x.outLen) &&
      decide (batch = true) &&
      decide (d4.snapOpen x = false)
      | _ => false)
      | _ => false)
      | _ => false)
      | _ => false)
      | _ => false) : Bool) = true) := by decide +kernel

/-- Clause by clause, the hypotheses of `Obligations.SubSearches` are met. -/
theorem witness_SubSearches :
    ((let d0 := devColl []
      let d : Dev := { d0 with cmp := { d0.cmp with adm := [(4095, (2, 0))] } }
      let src : Nat := 4095
      let p : SubSearch := { coll := 5, k := 1, nprobe := 1, epoch := 0 }
      decide (src < 4096) &&
      decide (d.ctxWorks = true) &&
      decide (d.subRefused src p.mapGen = none) &&
      (match firstBelow 12288 (fun i => (d.search? (4096 + i)).isNone) with
      | some i =>
      decide (d.admitOn p.coll = false) &&
      (match d.lookColl (4096 + i) p.coll with
      | (d1, .ok img slot) =>
      decide (eLt p.epoch (d1.readFloor p.coll) = false) &&
      (match d1.filterBind (4096 + i) img p.filter with
      | (d2, .ok attr) =>
      true
      | _ => false)
      | _ => false)
      | _ => false) : Bool) = true) ∧
    ((let d0 := devColl []
      let d : Dev := { d0 with cmp := { d0.cmp with st := .fenced } }
      let src : Nat := 4095
      let p : SubSearch := { coll := 5, k := 1, nprobe := 1, epoch := 0 }
      decide (src < 4096) &&
      decide (d.ctxWorks = true) &&
      (match d.subRefused src p.mapGen with
      | some st =>
      true
      | _ => false) : Bool) = true) ∧
    ((let src : Nat := 4095
      let r : SubResult := { ref := 5, status := 0 }
      decide (src < 4096) : Bool) = true) ∧
    ((let d0 := devColl []
      let d : Dev := { d0 with now := 5, srch := { d0.srch with all := [(16383, { coll := 5, origin := some (4095, 3), deadline := some 5 })] } }
      let src : Nat := 4095
      let sid : Nat := 16383
      decide (src < 4096) &&
      decide (sid < 16384) &&
      (match d.search? sid with
      | some s =>
      (match s.origin with
      | some (n, ref) =>
      (match s.deadline with
      | some t =>
      decide (t ≤ d.now)
      | _ => false)
      | _ => false)
      | _ => false) : Bool) = true) ∧
    ((let d0 := running (devColl []) 4095 1 []
      let d2 : Dev := { d0 with now := 5, srch := { d0.srch with all := [(4095, { coll := 5, fanout := true })], queries := [(256 * 4095, { phase := .candidate, shards := [{ node := 4095 }] })] } }
      let d : Dev := d2.updCtx 4095 (fun x => { x with deadline := some 5 })
      let src : Nat := 4095
      let sid : Nat := 4095
      decide (src < 4096) &&
      decide (sid < 16384) &&
      (match d.search? sid with
      | some s =>
      decide (s.origin = none) &&
      decide (d.qRuns sid = true) &&
      decide (d.fanLate sid = true)
      | _ => false) : Bool) = true) := by decide +kernel

/-- Clause by clause, the hypotheses of `Obligations.QueriesStartAndSelect` are met. -/
theorem witness_QueriesStartAndSelect :
    ((let d : Dev := { (running (withTbl (withTbl (devTbl [6, 0x17, 0x2E, 0x2F, 0x7E, 0x7F]) 5 0 0x10000 (collImg [(72, 2, 0)])) 4096 1 0x20000 (bytesOf 192 [(0, 1, 1), (1, 1, 1), (4, 4, 1), (8, 4, 192), (16, 2, 32), (19, 1, 0), (24, 4, 64), (28, 4, 128), (128, 1, 2)])) 4095 1 []) with  srch := { all := [(4095, { coll := 5, image := (collImg [(72, 2, 0)]) })], queries := [(256 * 4095 + 255, { phase := .waitCore })] } }
      let sid : Nat := 4095
      let k : Nat := 255
      decide (sid < 16384) &&
      decide (k < 256) &&
      (match d.inPhase (qKey sid k) .waitCore with
      | some (s, y) =>
      decide (s.origin = none ∨ eLt (d.lastSealed s.coll) s.epoch = false) &&
      (match d.coreFor s sid with
      | some c =>
      true
      | _ => false)
      | _ => false) : Bool) = true) ∧
    ((let d : Dev := { (running (withTbl (withTbl (devTbl [6, 0x17, 0x2E, 0x2F, 0x7E, 0x7F]) 5 0 0x10000 (collImg [(72, 2, 0)])) 4096 1 0x20000 (bytesOf 192 [(0, 1, 1), (1, 1, 1), (4, 4, 1), (8, 4, 192), (16, 2, 32), (19, 1, 0), (24, 4, 64), (28, 4, 128), (128, 1, 2)])) 4095 1 []) with  srch := { all := [(4095, { coll := 5, image := (collImg [(72, 2, 0)]), fanout := true })], queries := [(256 * 4095 + 255, { phase := .coarse, core := 7 })] } }
      let sid : Nat := 4095
      let k : Nat := 255
      decide (sid < 16384) &&
      decide (k < 256) &&
      (match d.inPhase (qKey sid k) .coarse with
      | some (s, y) =>
      decide (s.fanout = true)
      | _ => false) : Bool) = true) ∧
    ((let d : Dev := { (running (withTbl (withTbl (devTbl [6, 0x17, 0x2E, 0x2F, 0x7E, 0x7F]) 5 0 0x10000 (collImg [(72, 2, 0)])) 4096 1 0x20000 (bytesOf 192 [(0, 1, 1), (1, 1, 1), (4, 4, 1), (8, 4, 192), (16, 2, 32), (19, 1, 0), (24, 4, 64), (28, 4, 128), (128, 1, 2)])) 4095 1 []) with  srch := { all := [(4095, { coll := 5, image := (collImg [(72, 2, 0)]), batch := true, k := 1024, nprobe := 4096 })], queries := [(256 * 4095 + 255, { phase := .coarse, core := 7, chain := some (14, 0, 64), probe := some {} })] } }
      let sid : Nat := 4095
      let k : Nat := 255
      decide (sid < 16384) &&
      decide (k < 256) &&
      (match d.inPhase (qKey sid k) .coarse with
      | some (s, y) =>
      decide (s.fanout = false) &&
      decide (y.coarseDone = false) &&
      decide (y.chain.isNone = false) &&
      decide ((chainKeepers y.chain).all (fun n => d.goesOn (pgKpr n))) &&
      (match y.probe with
      | some p =>
      true
      | _ => false)
      | _ => false) : Bool) = true) ∧
    ((let d : Dev := { (running (withTbl (withTbl (devTbl [6, 0x17, 0x2E, 0x2F, 0x7E, 0x7F]) 5 0 0x10000 (collImg [(72, 2, 4)])) 4096 1 0x20000 (bytesOf 192 [(0, 1, 1), (1, 1, 1), (4, 4, 1), (8, 4, 192), (16, 2, 32), (19, 1, 1), (24, 4, 64), (28, 4, 128), (128, 1, 2)])) 4095 1 []) with  srch := { all := [(4095, { coll := 5, image := (collImg [(72, 2, 4)]), k := 1024, nprobe := 4096 })], queries := [(256 * 4095 + 255, { phase := .coarse, core := 7, chain := some (14, 0, 64) })] } }
      let sid : Nat := 4095
      let k : Nat := 255
      decide (sid < 16384) &&
      decide (k < 256) &&
      (match d.inPhase (qKey sid k) .coarse with
      | some (s, y) =>
      decide (s.fanout = false) &&
      decide (y.coarseDone = false) &&
      decide (y.chain.isNone = false) &&
      decide ((chainKeepers y.chain).all (fun n => d.goesOn (pgKpr n))) &&
      decide (y.probe = none) &&
      decide (s.shares = false) &&
      decide (d.runs (pgCore y.core) = true) &&
      (match d.kernelEngines y.core (d.queryFn (qKey sid k)) with
      | (d1, es) =>
      decide (es.isEmpty = false) &&
      (match d1.phaseBind (qKey sid k) s.image (coarseWants s.image) with
      | (d2, .ok bs) =>
      (match d2.firstImage (qRd (qKey sid k)) bs with
      | (d3, .ok ct) =>
      true
      | _ => false)
      | _ => false))
      | _ => false) : Bool) = true) ∧
    ((let d : Dev := dev0
      let sid : Nat := 4095
      let k : Nat := 255
      decide (sid < 16384) &&
      decide (k < 256) &&
      decide (sid < 4096) : Bool) = true) ∧
    ((let d : Dev := { (running (withTbl (withTbl (devTbl [6, 0x17, 0x2E, 0x2F, 0x7E, 0x7F]) 5 0 0x10000 (collImg [(72, 2, 0)])) 4096 1 0x20000 (bytesOf 192 [(0, 1, 1), (1, 1, 1), (4, 4, 1), (8, 4, 192), (16, 2, 32), (19, 1, 0), (24, 4, 64), (28, 4, 128), (128, 1, 2)])) 4095 1 []) with now := 3200, srch := { all := [(4095, { coll := 5, image := (collImg [(72, 2, 0)]), batch := true })], queries := [(256 * 4095 + 255, { phase := .coarse, core := 7 })] } }
      let sid : Nat := 4095
      let k : Nat := 255
      let c := 7
      decide (sid < 16384) &&
      decide (k < 256) &&
      (match d.search? sid with
      | some s =>
      (match (d.gemms sid c).head? with
      | some (t0, k0 :: rest) =>
      decide (d.qRuns sid = true) &&
      decide (s.shares = true) &&
      decide (t0 + usCycles 2 ≤ d.now ∨ 63 ≤ rest.length) &&
      decide (d.runs (pgCore c) = true) &&
      (match d.kernelEngines c (d.queryFn k0) with
      | (d1, es) =>
      decide (es.isEmpty = false) &&
      (match d1.phaseBind k0 s.image (coarseWants s.image) with
      | (d2, .ok bs) =>
      (match d2.firstImage (qRd k0) bs with
      | (d3, .ok ct) =>
      true
      | _ => false)
      | _ => false))
      | _ => false)
      | _ => false) : Bool) = true) := by decide +kernel

/-- Clause by clause, the hypotheses of `Obligations.GroupsStartAndEnd` are met. -/
theorem witness_GroupsStartAndEnd :
    ((let d : Dev := withCmd ((devOn [6]).store 0x4000 (bytesOf 208 [(0, 1, 1), (4, 4, 1), (12, 4, 208), (192, 2, 22)])) 4095 0x1A [(32, 1, 7), (33, 1, 255),
        (8, 8, 0x4000), (28, 4, 208)]
      let c : Nat := 4095
      decide (c < 4096) &&
      decide (d.canStart c 0x1A = true) &&
      (match d.ctx? c with
      | some x =>
      decide (d.runArgsOk x = true) &&
      (match d.runCore x with
      | some core =>
      (match d.need c x.desc x.descLen with
      | (d1, .ok img) =>
      decide (d1.runImgOk x core img = true)
      | _ => false)
      | _ => false)
      | _ => false) : Bool) = true) ∧
    ((let d : Dev := { devOn [0x7F, 0x17] with eng := { groups := [(5, { core := 7, mask := 255 })], nextGroup := 6 } }
      let e : Nat := 63
      let g : Nat := 5
      decide (e < d.part.engines) &&
      decide (d.engIdle e = true) &&
      (match d.group? g with
      | some x =>
      (match d.groupPick (d.eng.groups.filter (fun z => z.2.core == d.engCore e && z.2.wants (d.engPos e))) (Tab.getD d.eng.grantPtr (d.engCore e) 0) with
      | (some g_, ptr) =>
      decide (g_ = g)
      | _ => false)
      | _ => false) : Bool) = true) ∧
    ((let d0 : Dev := running (devOn [6]) 4095 0x1A []
      let d : Dev := { d0 with eng := { eng := [(63, { owner := .group, group := 5, ended := true })], groups := [(5, { ctx := 4095, core := 7, mask := 128, reserved := 128, running := true })] } }
      let g : Nat := 5
      (match d.group? g with
      | some x =>
      decide (x.run = 0) &&
      decide (x.running = true) &&
      let es := (d.groupEngs x).map d.engine
      decide (es.all (fun y => y.ended) = true) &&
      (match d.ctx? x.ctx with
      | some c =>
      true
      | _ => false)
      | _ => false) : Bool) = true) := by decide +kernel

end Sys2Proof.Tests
end

