-- ==== Sys2Proof/Tests/WitnessScan.lean ====
section
/-! SUPPORT. Witnesses: states and operands that meet the hypotheses of each clause of a statement. Scans, pools, results, models, movers, rows. -/

namespace Sys2Proof.Tests
open Sys2Proof Sys2Proof.Machine
set_option linter.unusedVariables false
set_option Elab.async false

/-- Clause by clause, the hypotheses of `Obligations.Scans` are met. -/
theorem witness_Scans :
    ((let d0 : Dev := { (running (withTbl (withTbl (devTbl [6, 0x17, 0x2E, 0x2F, 0x7F, 0x33, 0xDF, 0x12F]) 5 0 0x10000 (collImg [])) 4097 3 0x30000 (bytesOf 72 [(0, 1, 3), (1, 1, 1), (4, 4, 1), (8, 4, 72), (12, 4, 8), (16, 4, 1)])) 4095 1 []) with  srch := { all := [(4095, { coll := 5, image := (collImg []) })], queries := [((256 * 4095 + 255), { phase := .candidate, core := 7, lac := 3 })], streams := [((32768 * (256 * 4095 + 255) + 32767), { part := 32767, limit := 16 })] } }
      let ptr : Nat := (d0.sidFn 4095 + 1) % 1024
      let k := 15
      let d : Dev := d0
      decide (k < 16) &&
      let d1 := { d with kpr := { d.kpr with ptr := Tab.set d.kpr.ptr k ptr } }
      (match d.fnPick ((Tab.keys d.srch.queries).filter (fun i => (d.chainAsk k i).isSome)) id (Tab.getD d.kpr.ptr k 0) with
      | (some k0, ptr_) =>
      decide (ptr_ = ptr) &&
      (match d.chainAsk k k0 with
      | some (some (sn, x)) =>
      true
      | _ => false)
      | _ => false) : Bool) = true) ∧
    ((let d0 : Dev := { (running (withTbl (withTbl (devTbl [6, 0x17, 0x2E, 0x2F, 0x7F, 0x33, 0xDF, 0x12F]) 5 0 0x10000 (collImg [])) 4097 3 0x30000 (bytesOf 72 [(0, 1, 3), (1, 1, 1), (4, 4, 1), (8, 4, 72), (12, 4, 8), (16, 4, 1)])) 4095 1 []) with  srch := { all := [(4095, { coll := 5, image := (collImg []) })], queries := [((256 * 4095 + 255), { phase := .coarse, core := 7 })], streams := [((32768 * (256 * 4095 + 255) + 32767), { part := 32767 })] } }
      let ptr : Nat := (d0.sidFn 4095 + 1) % 1024
      let k := 14
      let d : Dev := d0
      decide (k < 16) &&
      let d1 := { d with kpr := { d.kpr with ptr := Tab.set d.kpr.ptr k ptr } }
      (match d.fnPick ((Tab.keys d.srch.queries).filter (fun i => (d.chainAsk k i).isSome)) id (Tab.getD d.kpr.ptr k 0) with
      | (some k0, ptr_) =>
      decide (ptr_ = ptr) &&
      decide (d.chainAsk k k0 = some none) &&
      (match d.inPhase k0 .coarse with
      | some (s, y) =>
      true
      | _ => false)
      | _ => false) : Bool) = true) ∧
    ((let d : Dev := dev0
      let k := 15
      let ptr : Nat := 0
      decide (k < 16) &&
      decide (d.fnPick ((Tab.keys d.srch.queries).filter (fun i => (d.chainAsk k i).isSome)) id (Tab.getD d.kpr.ptr k 0) = (none, ptr)) : Bool) = true) ∧
    ((let d : Dev := { (running (withTbl (withTbl (devTbl [6, 0x17, 0x2E, 0x2F, 0x7F, 0x33, 0xDF, 0x12F]) 5 0 0x10000 (collImg [])) 4097 3 0x30000 (bytesOf 72 [(0, 1, 3), (1, 1, 1), (4, 4, 1), (8, 4, 72), (12, 4, 8), (16, 4, 1)])) 4095 1 []) with eng := { eng := [(63, { owner := .kernel, stream := some (32768 * (256 * 4095 + 255) + 32767) })] }, srch := { all := [(4095, { coll := 5, image := (collImg []) })], queries := [((256 * 4095 + 255), { phase := .candidate, core := 7, lac := 3 })], streams := [((32768 * (256 * 4095 + 255) + 32767), { part := 32767, started := true, delta := true })] } }
      let e := 63
      decide (e < d.part.engines) &&
      let x := d.engine e
      (match x.stream with
      | some sn =>
      decide ((x.owner == .kernel) = true) &&
      decide (d.runs (pgEng e) = true)
      | _ => false) : Bool) = true) ∧
    ((let d : Dev := { (running (withTbl (withTbl (devTbl [6, 0x17, 0x2E, 0x2F, 0x7F, 0x33, 0xDF, 0x12F]) 5 0 0x10000 (collImg [])) 4097 3 0x30000 (bytesOf 72 [(0, 1, 3), (1, 1, 1), (4, 4, 1), (8, 4, 72), (12, 4, 8), (16, 4, 1)])) 4095 1 []) with eng := { eng := [(63, { owner := .group, stream := some (32768 * (256 * 4095 + 255) + 32767) })] }, srch := { all := [(4095, { coll := 5, image := (collImg []) })], queries := [((256 * 4095 + 255), { phase := .candidate, core := 7, lac := 3 })], streams := [((32768 * (256 * 4095 + 255) + 32767), { part := 32767, started := true, delta := true })] } }
      let e := 63
      decide (e < d.part.engines) &&
      let x := d.engine e
      decide (x.stream = none ∨ (x.owner == .kernel) = false ∨ d.runs (pgEng e) = false) : Bool) = true) ∧
    ((let d0 : Dev := { (running (withTbl (withTbl (devTbl [6, 0x17, 0x2E, 0x2F, 0x7F, 0x33, 0xDF, 0x12F]) 5 0 0x10000 (collImg [])) 4097 3 0x30000 (bytesOf 72 [(0, 1, 3), (1, 1, 1), (4, 4, 1), (8, 4, 72), (12, 4, 8), (16, 4, 1)])) 4095 1 []) with  srch := { all := [(4095, { coll := 5, image := (collImg []) })], queries := [((256 * 4095 + 255), { phase := .candidate, core := 7, lac := 3 })], streams := [((32768 * (256 * 4095 + 255) + 32767), { part := 32767, limit := 16, chain := some (15, 0, 1), offered := [{ key := 5, id := 7 }] })] } }
      let ptr : Nat := (d0.sidFn 4095 + 1) % 1024
      let d : Dev := d0
      let sid := 4095
      let k := 255
      let j := 32767
      decide (sid < 16384) &&
      decide (k < 256) &&
      decide (j < 32768) &&
      (match d.stream? (streamNo sid k j) with
      | some x =>
      (match x.chain with
      | some (kp, f, n) =>
      decide (x.queue = []) &&
      (match x.offered with
      | c :: rest =>
      decide (d.goesOn (pgKpr kp) = true) &&
      decide (d.gateNext kp = (some (streamNo sid k j), ptr)) &&
      let d1 := { d with kpr := { d.kpr with gatePtr := Tab.set d.kpr.gatePtr kp ptr, gateAt := Tab.upd d.kpr.gateAt kp (0, 0) (tally d.now) } }
      let y := { x with offered := rest, gateAt := tally d.now x.gateAt, readFrom := if rest.isEmpty then d.now else x.readFrom }
      decide (gateRejects x.limit x.ents x.tieTail c = none)
      | _ => false)
      | _ => false)
      | _ => false) : Bool) = true) ∧
    ((let d0 : Dev := { (running (withTbl (withTbl (devTbl [6, 0x17, 0x2E, 0x2F, 0x7F, 0x33, 0xDF, 0x12F]) 5 0 0x10000 (collImg [])) 4097 3 0x30000 (bytesOf 72 [(0, 1, 3), (1, 1, 1), (4, 4, 1), (8, 4, 72), (12, 4, 8), (16, 4, 1)])) 4095 1 []) with  srch := { all := [(4095, { coll := 5, image := (collImg []) })], queries := [((256 * 4095 + 255), { phase := .candidate, core := 7, lac := 3 })], streams := [((32768 * (256 * 4095 + 255) + 32767), { part := 32767, limit := 1, chain := some (15, 0, 1), ents := [{ key := 4, id := 1 }], offered := [{ key := 5, id := 7 }] })] } }
      let ptr : Nat := (d0.sidFn 4095 + 1) % 1024
      let d : Dev := d0
      let sid := 4095
      let k := 255
      let j := 32767
      decide (sid < 16384) &&
      decide (k < 256) &&
      decide (j < 32768) &&
      (match d.stream? (streamNo sid k j) with
      | some x =>
      (match x.chain with
      | some (kp, f, n) =>
      decide (x.queue = []) &&
      (match x.offered with
      | c :: rest =>
      decide (d.goesOn (pgKpr kp) = true) &&
      decide (d.gateNext kp = (some (streamNo sid k j), ptr)) &&
      let d1 := { d with kpr := { d.kpr with gatePtr := Tab.set d.kpr.gatePtr kp ptr, gateAt := Tab.upd d.kpr.gateAt kp (0, 0) (tally d.now) } }
      let y := { x with offered := rest, gateAt := tally d.now x.gateAt, readFrom := if rest.isEmpty then d.now else x.readFrom }
      (match gateRejects x.limit x.ents x.tieTail c with
      | some (t, e) =>
      true
      | _ => false)
      | _ => false)
      | _ => false)
      | _ => false) : Bool) = true) ∧
    ((let d : Dev := { (running (withTbl (withTbl (devTbl [6, 0x17, 0x2E, 0x2F, 0x7F, 0x33, 0xDF, 0x12F]) 5 0 0x10000 (collImg [])) 4097 3 0x30000 (bytesOf 72 [(0, 1, 3), (1, 1, 1), (4, 4, 1), (8, 4, 72), (12, 4, 8), (16, 4, 1)])) 4095 1 []) with now := 10000, srch := { all := [(4095, { coll := 5, image := (collImg []) })], queries := [((256 * 4095 + 255), { phase := .candidate, core := 7, lac := 3 })], streams := [((32768 * (256 * 4095 + 255) + 32767), { part := 32767, limit := 1, chain := some (15, 0, 1), ents := [{ key := 5, id := 7 }], queue := [{ key := 4, id := 1 }], insFrom := 10000 })] } }
      let sid := 4095
      let k := 255
      let j := 32767
      decide (sid < 16384) &&
      decide (k < 256) &&
      decide (j < 32768) &&
      (match d.stream? (streamNo sid k j) with
      | some x =>
      (match x.chain with
      | some (kp, f, n) =>
      (match x.queue with
      | c :: rest =>
      decide (d.goesOn (pgKpr kp) = true) &&
      decide (x.insFrom ≤ d.now) &&
      let r := keeperInsert x.limit x.ents x.tieTail c
      let d1 := (d.setStream (streamNo sid k j) { x with queue := rest, ents := r.1, tieTail := r.2.1, insFrom := d.now + 1 }).kprCount kp r.2.2
      decide ((d1.gateNext kp).1 ≠ some (streamNo sid k j))
      | _ => false)
      | _ => false)
      | _ => false) : Bool) = true) ∧
    ((let d0 : Dev := { (running (withTbl (withTbl (devTbl [6, 0x17, 0x2E, 0x2F, 0x7F, 0x33, 0xDF, 0x12F]) 5 0 0x10000 (collImg [])) 4097 3 0x30000 (bytesOf 72 [(0, 1, 3), (1, 1, 1), (4, 4, 1), (8, 4, 72), (12, 4, 8), (16, 4, 1)])) 4095 1 []) with now := 10000, srch := { all := [(4095, { coll := 5, image := (collImg []) })], queries := [((256 * 4095 + 255), { phase := .candidate, core := 7, lac := 3 })], streams := [((32768 * (256 * 4095 + 255) + 32767), { part := 32767, limit := 16, chain := some (15, 0, 1), offered := [{ key := 5, id := 7 }], queue := [{ key := 4, id := 1 }] })] } }
      let ptr : Nat := (d0.sidFn 4095 + 1) % 1024
      let d : Dev := d0
      let sid := 4095
      let k := 255
      let j := 32767
      decide (sid < 16384) &&
      decide (k < 256) &&
      decide (j < 32768) &&
      (match d.stream? (streamNo sid k j) with
      | some x =>
      (match x.chain with
      | some (kp, f, n) =>
      decide (d.goesOn (pgKpr kp) = true) &&
      let d1 := d.chainInsert kp (streamNo sid k j) x
      decide (d1.gateNext kp = (some (streamNo sid k j), ptr)) &&
      (match d1.stream? (streamNo sid k j) with
      | some y =>
      true
      | _ => false)
      | _ => false)
      | _ => false) : Bool) = true) ∧
    ((let d0 : Dev := { (running (withTbl (withTbl (devTbl [6, 0x17, 0x2E, 0x2F, 0x7F, 0x33, 0xDF, 0x12F]) 5 0 0x10000 (collImg [])) 4097 3 0x30000 (bytesOf 72 [(0, 1, 3), (1, 1, 1), (4, 4, 1), (8, 4, 72), (12, 4, 8), (16, 4, 1)])) 4095 1 []) with  srch := { all := [(4095, { coll := 5, image := (collImg []) })], queries := [((256 * 4095 + 255), { phase := .candidate, core := 7, lac := 3 })], streams := [((32768 * (256 * 4095 + 255) + 32767), { part := 32767, limit := 16, chain := some (15, 0, 1), offered := [{ key := 5, id := 7 }] })] } }
      let d : Dev := d0.setPg 0x2F R.blkCtl 5
      let sid := 4095
      let k := 255
      let j := 32767
      decide (sid < 16384) &&
      decide (k < 256) &&
      decide (j < 32768) &&
      (match d.stream? (streamNo sid k j) with
      | some x =>
      (match x.chain with
      | some (kp, f, n) =>
      decide (d.goesOn (pgKpr kp) = false)
      | _ => false)
      | _ => false) : Bool) = true) ∧
    ((let d0 : Dev := { (running (withTbl (withTbl (devTbl [6, 0x17, 0x2E, 0x2F, 0x7F, 0x33, 0xDF, 0x12F]) 5 0 0x10000 (collImg [])) 4097 3 0x30000 (bytesOf 72 [(0, 1, 3), (1, 1, 1), (4, 4, 1), (8, 4, 72), (12, 4, 8), (16, 4, 1)])) 4095 1 []) with now := 10000, srch := { all := [(4095, { coll := 5, image := (collImg []) })], queries := [((256 * 4095 + 255), { phase := .candidate, core := 7, lac := 3 })], streams := [((32768 * (256 * 4095 + 255) + 32767), { part := 32767, limit := 1, chain := some (15, 0, 1), ents := [{ key := 5, id := 7 }] })] } }
      let d : Dev := d0.setFd R.kprCfg 0 0 1 15
      let sid := 4095
      let k := 255
      let j := 32767
      decide (sid < 16384) &&
      decide (k < 256) &&
      decide (j < 32768) &&
      (match d.stream? (streamNo sid k j) with
      | some x =>
      (match x.chain with
      | some (kp, f, n) =>
      decide (d.feedbackDue kp x = true)
      | _ => false)
      | _ => false) : Bool) = true) ∧
    ((let d0 : Dev := { (running (withTbl (withTbl (devTbl [6, 0x17, 0x2E, 0x2F, 0x7F, 0x33, 0xDF, 0x12F]) 5 0 0x10000 (collImg [])) 4097 3 0x30000 (bytesOf 72 [(0, 1, 3), (1, 1, 1), (4, 4, 1), (8, 4, 72), (12, 4, 8), (16, 4, 1)])) 4095 1 []) with now := 10000, srch := { all := [(4095, { coll := 5, image := (collImg []) })], queries := [((256 * 4095 + 255), { phase := .candidate, core := 7, lac := 3 })], streams := [((32768 * (256 * 4095 + 255) + 32767), { part := 32767, limit := 1, chain := some (15, 0, 1) })] } }
      let d : Dev := d0.setFd R.kprCfg 0 0 1 15
      let sid := 4095
      let k := 255
      let j := 32767
      decide (sid < 16384) &&
      decide (k < 256) &&
      decide (j < 32768) &&
      (match d.stream? (streamNo sid k j) with
      | some x =>
      (match x.chain with
      | some (kp, f, n) =>
      decide (d.feedbackDue kp x = false)
      | _ => false)
      | _ => false) : Bool) = true) ∧
    ((let d : Dev := { (running (withTbl (withTbl (devTbl [6, 0x17, 0x2E, 0x2F, 0x7F, 0x33, 0xDF, 0x12F]) 5 0 0x10000 (collImg [])) 4097 3 0x30000 (bytesOf 72 [(0, 1, 3), (1, 1, 1), (4, 4, 1), (8, 4, 72), (12, 4, 8), (16, 4, 1)])) 4095 1 []) with  srch := { all := [(4095, { coll := 5, image := (collImg []) })], queries := [((256 * 4095 + 255), { phase := .candidate, core := 7, lac := 3 })], streams := [((32768 * (256 * 4095 + 255) + 32767), { part := 32767, ended := true, chain := some (15, 0, 1) })] } }
      let sid := 4095
      let k := 255
      let j := 32767
      decide (sid < 16384) &&
      decide (k < 256) &&
      decide (j < 32768) &&
      (match d.stream? (streamNo sid k j) with
      | some x =>
      (match d.inPhase (qKey sid k) .candidate with
      | some (s, y) =>
      (match x.chain with
      | some (kp, f, n) =>
      decide (x.ended = true) &&
      decide (x.offered = []) &&
      decide (x.queue = []) &&
      decide (d.goesOn (pgKpr kp) = true) &&
      decide (d.goesOn (pgLac y.lac) = true)
      | _ => false)
      | _ => false)
      | _ => false) : Bool) = true) ∧
    ((let d : Dev := { (running (withTbl (withTbl (devTbl [6, 0x17, 0x2E, 0x2F, 0x7F, 0x33, 0xDF, 0x12F]) 5 0 0x10000 (collImg [])) 4097 3 0x30000 (bytesOf 72 [(0, 1, 3), (1, 1, 1), (4, 4, 1), (8, 4, 72), (12, 4, 8), (16, 4, 1)])) 4095 1 []) with  srch := { all := [(4095, { coll := 5, image := (collImg []) })], queries := [((256 * 4095 + 255), { phase := .candidate, core := 7, lac := 3 })], streams := [((32768 * (256 * 4095 + 255) + 32767), { part := 32767, ended := true, chain := some (15, 0, 1), queue := [{ key := 5, id := 7 }] })] } }
      let sid := 4095
      let k := 255
      let j := 32767
      decide (sid < 16384) &&
      decide (k < 256) &&
      decide (j < 32768) &&
      (match d.stream? (streamNo sid k j) with
      | some x =>
      (match d.inPhase (qKey sid k) .candidate with
      | some (s, y) =>
      (match x.chain with
      | some (kp, f, n) =>
      decide (x.ended = false ∨ x.offered ≠ [] ∨ x.queue ≠ [])
      | _ => false)
      | _ => false)
      | _ => false) : Bool) = true) ∧
    ((let d : Dev := { (running (withTbl (withTbl (devTbl [6, 0x17, 0x2E, 0x2F, 0x7F, 0x33, 0xDF, 0x12F]) 5 0 0x10000 (collImg [])) 4097 3 0x30000 (bytesOf 72 [(0, 1, 3), (1, 1, 1), (4, 4, 1), (8, 4, 72), (12, 4, 8), (16, 4, 1)])) 4095 1 []) with  srch := { all := [(4095, { coll := 5, image := (collImg []) })], queries := [((256 * 4095 + 255), { phase := .candidate, core := 7, lac := 3 })], streams := [((32768 * (256 * 4095 + 255) + 32767), { part := 32767, started := true, place := .hide 15 })] } }
      let sid := 4095
      let k := 255
      let j := 32767
      decide (sid < 16384) &&
      decide (k < 256) &&
      decide (j < 32768) &&
      (match d.stream? (streamNo sid k j) with
      | some x =>
      (match d.inPhase (streamNo sid k j / 32768) .candidate with
      | some (s, y) =>
      decide (x.started = true) &&
      decide (x.opened = false) &&
      (match x.place with
      | .hide n =>
      true
      | _ => false)
      | _ => false)
      | _ => false) : Bool) = true) ∧
    ((let d : Dev := { (running (withTbl (withTbl (devTbl [6, 0x17, 0x2E, 0x2F, 0x7F, 0x33, 0xDF, 0x12F]) 5 0 0x10000 (collImg [])) 4097 3 0x30000 (bytesOf 72 [(0, 1, 3), (1, 1, 1), (4, 4, 1), (8, 4, 72), (12, 4, 8), (16, 4, 1)])) 4095 1 []) with flash := { ch := [(47, { up := true, inService := true, dies := 4, planes := 4, blocksPerDie := 512, pagesPerBlock := 1024, luCount := 2 ^ 20 })] }, srch := { all := [(4095, { coll := 5, image := (collImg []) })], queries := [((256 * 4095 + 255), { phase := .candidate, core := 7, lac := 3 })], streams := [((32768 * (256 * 4095 + 255) + 32767), { part := 32767, started := true, place := .flash 47 })] } }
      let sid := 4095
      let k := 255
      let j := 32767
      decide (sid < 16384) &&
      decide (k < 256) &&
      decide (j < 32768) &&
      (match d.stream? (streamNo sid k j) with
      | some x =>
      (match d.inPhase (streamNo sid k j / 32768) .candidate with
      | some (s, y) =>
      decide (x.started = true) &&
      decide (x.opened = false) &&
      (match x.place with
      | .flash c =>
      (match Tab.find? d.flash.ch c with
      | some h =>
      true
      | _ => false)
      | _ => false)
      | _ => false)
      | _ => false) : Bool) = true) ∧
    ((let d : Dev := { (running (withTbl (withTbl (devTbl [6, 0x17, 0x2E, 0x2F, 0x7F, 0x33, 0xDF, 0x12F]) 5 0 0x10000 (collImg [])) 4097 3 0x30000 (bytesOf 72 [(0, 1, 3), (1, 1, 1), (4, 4, 1), (8, 4, 72), (12, 4, 8), (16, 4, 1)])) 4095 1 []) with  srch := { all := [(4095, { coll := 5, image := (collImg []) })], queries := [((256 * 4095 + 255), { phase := .candidate, core := 7, lac := 3 })], streams := [((32768 * (256 * 4095 + 255) + 32767), { part := 32767, opened := true, place := .hide 15 })] } }
      let sid := 4095
      let k := 255
      let j := 32767
      decide (sid < 16384) &&
      decide (k < 256) &&
      decide (j < 32768) &&
      (match d.stream? (streamNo sid k j) with
      | some x =>
      (match x.place with
      | .hide n =>
      decide (x.opened = true) &&
      decide (x.ended = false) &&
      decide (x.offered = []) &&
      decide (d.runs (pgAwl n) = true)
      | _ => false)
      | _ => false) : Bool) = true) ∧
    ((let d : Dev := { (running (withTbl (withTbl (devTbl [6, 0x17, 0x2E, 0x2F, 0x7F, 0x33, 0xDF, 0x12F]) 5 0 0x10000 (collImg [])) 4097 3 0x30000 (bytesOf 72 [(0, 1, 3), (1, 1, 1), (4, 4, 1), (8, 4, 72), (12, 4, 8), (16, 4, 1)])) 4095 1 []) with  srch := { all := [(4095, { coll := 5, image := (collImg []) })], queries := [((256 * 4095 + 255), { phase := .candidate, core := 7, lac := 3 })], streams := [((32768 * (256 * 4095 + 255) + 32767), { part := 32767, opened := true, place := .hide 15, offered := [{ key := 5, id := 7 }] })] } }
      let sid := 4095
      let k := 255
      let j := 32767
      decide (sid < 16384) &&
      decide (k < 256) &&
      decide (j < 32768) &&
      (match d.stream? (streamNo sid k j) with
      | some x =>
      (match x.place with
      | .hide n =>
      decide (x.opened = false ∨ x.ended = true ∨ x.offered ≠ [] ∨ d.runs (pgAwl n) = false)
      | _ => false)
      | _ => false) : Bool) = true) ∧
    ((let d : Dev := { (running (withTbl (withTbl (devTbl [6, 0x17, 0x2E, 0x2F, 0x7F, 0x33, 0xDF, 0x12F]) 5 0 0x10000 (collImg [])) 4097 3 0x30000 (bytesOf 72 [(0, 1, 3), (1, 1, 1), (4, 4, 1), (8, 4, 72), (12, 4, 8), (16, 4, 1)])) 4095 1 []) with  srch := { all := [(4095, { coll := 5, image := (collImg []) })], queries := [((256 * 4095 + 255), { phase := .candidate, core := 7, lac := 3 })], streams := [((32768 * (256 * 4095 + 255) + 32767), { part := 32767, opened := true, place := .flash 47 })] } }
      let sid := 4095
      let k := 255
      let j := 32767
      decide (sid < 16384) &&
      decide (k < 256) &&
      decide (j < 32768) &&
      (match d.stream? (streamNo sid k j) with
      | some x =>
      (match x.place with
      | .flash c =>
      decide (x.opened = true) &&
      decide (d.runs (pgEdg c) = true)
      | _ => false)
      | _ => false) : Bool) = true) ∧
    ((let d : Dev := { (running (withTbl (withTbl (devTbl [6, 0x17, 0x2E, 0x2F, 0x7F, 0x33, 0xDF, 0x12F]) 5 0 0x10000 (collImg [])) 4097 3 0x30000 (bytesOf 72 [(0, 1, 3), (1, 1, 1), (4, 4, 1), (8, 4, 72), (12, 4, 8), (16, 4, 1)])) 4095 1 []) with  srch := { all := [(4095, { coll := 5, image := (collImg []) })], queries := [((256 * 4095 + 255), { phase := .candidate, core := 7, lac := 3 })], streams := [((32768 * (256 * 4095 + 255) + 32767), { part := 32767, place := .flash 47 })] } }
      let sid := 4095
      let k := 255
      let j := 32767
      decide (sid < 16384) &&
      decide (k < 256) &&
      decide (j < 32768) &&
      (match d.stream? (streamNo sid k j) with
      | some x =>
      (match x.place with
      | .flash c =>
      decide (x.opened = false ∨ d.runs (pgEdg c) = false)
      | _ => false)
      | _ => false) : Bool) = true) ∧
    ((let d : Dev := { (((running (withTbl (withTbl (devTbl [6, 0x17, 0x2E, 0x2F, 0x7F, 0x33, 0xDF, 0x12F]) 5 0 0x10000 (collImg [])) 4097 3 0x30000 (bytesOf 72 [(0, 1, 3), (1, 1, 1), (4, 4, 1), (8, 4, 72), (12, 4, 8), (16, 4, 1)])) 4095 1 []).store 0x3000000 (bytesOf 32 [(0, 8, 0x50000), (16, 4, 1)])).store 0x50000 (bytesOf 256 [(12, 2, 1), (64, 8, 77)])) with  srch := { all := [(4095, { coll := 5, image := (collImg []) })], queries := [((256 * 4095 + 255), { phase := .candidate, core := 7, lac := 3 })], streams := [((32768 * (256 * 4095 + 255) + 32767), { part := 32767, delta := true, chain := some (15, 0, 1) })] } }
      let sid := 4095
      let k := 255
      let j := 32767
      decide (sid < 16384) &&
      decide (k < 256) &&
      decide (j < 32768) &&
      (match d.stream? (streamNo sid k j) with
      | some x =>
      (match d.inPhase (qKey sid k) .candidate with
      | some (s, y) =>
      decide (x.started = false) &&
      decide (x.chain.isNone = false) &&
      decide (d.runs (pgCore y.core) = true) &&
      decide (x.delta = true) &&
      let recs := (d.insRecs s.image (d.head s.image x.list)).map (fun r => (r.block, r.idx))
      let n := recs.length
      decide (n ≠ 0) &&
      (match d.kernelEngines y.core (d.queryFn (qKey sid k)) with
      | (d1, e :: es) =>
      true
      | _ => false)
      | _ => false)
      | _ => false) : Bool) = true) ∧
    ((let d : Dev := { (running (withTbl (withTbl (devTbl [6, 0x17, 0x2E, 0x2F, 0x7F, 0x33, 0xDF, 0x12F]) 5 0 0x10000 (collImg [])) 4097 3 0x30000 (bytesOf 72 [(0, 1, 3), (1, 1, 1), (4, 4, 1), (8, 4, 72), (12, 4, 8), (16, 4, 1)])) 4095 1 []) with  srch := { all := [(4095, { coll := 5, image := (collImg []) })], queries := [((256 * 4095 + 255), { phase := .candidate, core := 7, lac := 3 })], streams := [((32768 * (256 * 4095 + 255) + 32767), { part := 32767, delta := true, chain := some (15, 0, 1) })] } }
      let sid := 4095
      let k := 255
      let j := 32767
      decide (sid < 16384) &&
      decide (k < 256) &&
      decide (j < 32768) &&
      (match d.stream? (streamNo sid k j) with
      | some x =>
      (match d.inPhase (qKey sid k) .candidate with
      | some (s, y) =>
      decide (x.started = false) &&
      decide (x.chain.isNone = false) &&
      decide (d.runs (pgCore y.core) = true) &&
      decide (x.delta = true) &&
      decide (d.insRecs s.image (d.head s.image x.list) = [])
      | _ => false)
      | _ => false) : Bool) = true) ∧
    ((let d : Dev := { (running (withTbl (withTbl (devTbl [6, 0x17, 0x2E, 0x2F, 0x7F, 0x33, 0xDF, 0x12F]) 5 0 0x10000 (collImg [])) 4097 3 0x30000 (bytesOf 72 [(0, 1, 3), (1, 1, 1), (4, 4, 1), (8, 4, 72), (12, 4, 8), (16, 4, 1)])) 4095 1 []) with  srch := { all := [(4095, { coll := 5, image := (collImg []) })], queries := [((256 * 4095 + 255), { phase := .candidate, core := 7, lac := 3 })], streams := [((32768 * (256 * 4095 + 255) + 32767), { part := 32767, chain := some (15, 0, 1) })] } }
      let sid := 4095
      let k := 255
      let j := 32767
      decide (sid < 16384) &&
      decide (k < 256) &&
      decide (j < 32768) &&
      (match d.stream? (streamNo sid k j) with
      | some x =>
      (match d.inPhase (qKey sid k) .candidate with
      | some (s, y) =>
      decide (x.started = false) &&
      decide (x.chain.isNone = false) &&
      decide (d.runs (pgCore y.core) = true) &&
      decide (x.delta = false)
      | _ => false)
      | _ => false) : Bool) = true) ∧
    ((let d : Dev := { (running (withTbl (withTbl (devTbl [6, 0x17, 0x2E, 0x2F, 0x7F, 0x33, 0xDF, 0x12F]) 5 0 0x10000 (collImg [])) 4097 3 0x30000 (bytesOf 72 [(0, 1, 3), (1, 1, 1), (4, 4, 1), (8, 4, 72), (12, 4, 8), (16, 4, 1)])) 4095 1 []) with  srch := { all := [(4095, { coll := 5, image := (collImg []) })], queries := [((256 * 4095 + 255), { phase := .candidate, core := 7, lac := 3 })], streams := [((32768 * (256 * 4095 + 255) + 32767), { part := 32767, started := true, chain := some (15, 0, 1) })] } }
      let sid := 4095
      let k := 255
      let j := 32767
      decide (sid < 16384) &&
      decide (k < 256) &&
      decide (j < 32768) &&
      (match d.stream? (streamNo sid k j) with
      | some x =>
      (match d.inPhase (qKey sid k) .candidate with
      | some (s, y) =>
      decide (x.started = true ∨ x.chain.isNone = true ∨ d.runs (pgCore y.core) = false)
      | _ => false)
      | _ => false) : Bool) = true) := by decide +kernel

/-- Clause by clause, the hypotheses of `Obligations.PoolsAndResults` are met. -/
theorem witness_PoolsAndResults :
    ((let d0 : Dev := { (running (withTbl (withTbl (devTbl [6, 0x17, 0x2E, 0x2F, 0x7F, 0x33, 0xDF, 0x12F]) 5 0 0x10000 (collImg [])) 4097 3 0x30000 (bytesOf 72 [(0, 1, 3), (1, 1, 1), (4, 4, 1), (8, 4, 72), (12, 4, 8), (16, 4, 1)])) 4095 1 []) with  srch := { all := [(4095, { coll := 5, image := (collImg []) })], queries := [((256 * 4095 + 255), { phase := .candidate, core := 7, lac := 3, asked := true })], streams := [((32768 * (256 * 4095 + 255) + 32767), { part := 32767 })] } }
      let d : Dev := d0
      let ptr : Nat := (d0.sidFn 4095 + 1) % 1024
      let l := 3
      decide (l < 4) &&
      decide (d.lacRoom l = true) &&
      (match d.fnPick (d.slotAskers l) id (Tab.getD d.kpr.lacPtr l 0) with
      | (some k, ptr_) =>
      decide (ptr_ = ptr)
      | _ => false) : Bool) = true) ∧
    ((let d : Dev := dev0
      let l := 3
      decide (l < 4) &&
      decide (d.lacRoom l = false ∨ (d.fnPick (d.slotAskers l) id (Tab.getD d.kpr.lacPtr l 0)).1 = none) : Bool) = true) ∧
    ((let d : Dev := { (running (withTbl (withTbl (devTbl [6, 0x17, 0x2E, 0x2F, 0x7F, 0x33, 0xDF, 0x12F]) 5 0 0x10000 (collImg [])) 4097 3 0x30000 (bytesOf 72 [(0, 1, 3), (1, 1, 1), (4, 4, 1), (8, 4, 72), (12, 4, 8), (16, 4, 1)])) 4095 1 []) with  srch := { all := [(4095, { coll := 5, image := (collImg []) })], queries := [((256 * 4095 + 255), { phase := .candidate, core := 7, lac := 3 })], streams := [((32768 * (256 * 4095 + 255) + 32767), { part := 32767 })] } }
      let sid := 4095
      let k := 255
      decide (sid < 16384) &&
      decide (k < 256) &&
      (match d.inPhase (qKey sid k) .candidate with
      | some (s, y) =>
      decide (y.slot = false)
      | _ => false) : Bool) = true) ∧
    ((let d : Dev := { (running (withTbl (withTbl (devTbl [6, 0x17, 0x2E, 0x2F, 0x7F, 0x33, 0xDF, 0x12F]) 5 0 0x10000 (collImg [])) 4097 3 0x30000 (bytesOf 72 [(0, 1, 3), (1, 1, 1), (4, 4, 1), (8, 4, 72), (12, 4, 8), (16, 4, 1)])) 4095 1 []) with  srch := { all := [(4095, { coll := 5, image := (collImg []), fanout := true })], queries := [((256 * 4095 + 255), { phase := .candidate, core := 7, lac := 3, slot := true, shards := [{ node := 4095 }] })], streams := [((32768 * (256 * 4095 + 255) + 32767), { part := 32767 })] } }
      let sid := 4095
      let k := 255
      decide (sid < 16384) &&
      decide (k < 256) &&
      (match d.inPhase (qKey sid k) .candidate with
      | some (s, y) =>
      decide (y.slot = true) &&
      decide (s.fanout = true) &&
      decide (y.shards.any (fun h => h.result.isNone) = true ∨ y.merged < y.streams)
      | _ => false) : Bool) = true) ∧
    ((let d : Dev := { (running (withTbl (withTbl (devTbl [6, 0x17, 0x2E, 0x2F, 0x7F, 0x33, 0xDF, 0x12F]) 5 0 0x10000 (collImg [])) 4097 3 0x30000 (bytesOf 72 [(0, 1, 3), (1, 1, 1), (4, 4, 1), (8, 4, 72), (12, 4, 8), (16, 4, 1)])) 4095 1 []) with  srch := { all := [(4095, { coll := 5, image := (collImg []), fanout := true })], queries := [((256 * 4095 + 255), { phase := .candidate, core := 7, lac := 3, slot := true, shards := [{ node := 4095, result := some (.tierFail, 0, 0, 0) }] })], streams := [((32768 * (256 * 4095 + 255) + 32767), { part := 32767 })] } }
      let sid := 4095
      let k := 255
      decide (sid < 16384) &&
      decide (k < 256) &&
      (match d.inPhase (qKey sid k) .candidate with
      | some (s, y) =>
      decide (y.slot = true) &&
      decide (s.fanout = true) &&
      decide (y.shards.any (fun h => h.result.isNone) = false) &&
      decide (y.streams ≤ y.merged) &&
      (match shardBad y.shards with
      | some st =>
      true
      | _ => false)
      | _ => false) : Bool) = true) ∧
    ((let d : Dev := { (running (withTbl (withTbl (devTbl [6, 0x17, 0x2E, 0x2F, 0x7F, 0x33, 0xDF, 0x12F]) 5 0 0x10000 (collImg [])) 4097 3 0x30000 (bytesOf 72 [(0, 1, 3), (1, 1, 1), (4, 4, 1), (8, 4, 72), (12, 4, 8), (16, 4, 1)])) 4095 1 []) with  srch := { all := [(4095, { coll := 5, image := (collImg []), fanout := true })], queries := [((256 * 4095 + 255), { phase := .candidate, core := 7, lac := 3, slot := true, shards := [{ node := 4095, result := some (.ok, 0, 0, 0) }] })], streams := [((32768 * (256 * 4095 + 255) + 32767), { part := 32767 })] } }
      let sid := 4095
      let k := 255
      decide (sid < 16384) &&
      decide (k < 256) &&
      (match d.inPhase (qKey sid k) .candidate with
      | some (s, y) =>
      decide (y.slot = true) &&
      decide (s.fanout = true) &&
      decide (y.shards.any (fun h => h.result.isNone) = false) &&
      decide (y.streams ≤ y.merged) &&
      decide (shardBad y.shards = none)
      | _ => false) : Bool) = true) ∧
    ((let d : Dev := { (running (withTbl (withTbl (devTbl [6, 0x17, 0x2E, 0x2F, 0x7F, 0x33, 0xDF, 0x12F]) 5 0 0x10000 (collImg [])) 4097 3 0x30000 (bytesOf 72 [(0, 1, 3), (1, 1, 1), (4, 4, 1), (8, 4, 72), (12, 4, 8), (16, 4, 1)])) 4095 1 []) with  srch := { all := [(4095, { coll := 5, image := (collImg []) })], queries := [((256 * 4095 + 255), { phase := .candidate, core := 7, lac := 3, slot := true, probes := [(0, 0)] })], streams := [((32768 * (256 * 4095 + 255) + 32767), { part := 32767 })] } }
      let sid := 4095
      let k := 255
      decide (sid < 16384) &&
      decide (k < 256) &&
      (match d.inPhase (qKey sid k) .candidate with
      | some (s, y) =>
      decide (y.slot = true) &&
      decide (s.fanout = false) &&
      decide (y.streams = 0) &&
      decide (y.probes.isEmpty = false) &&
      (match d.phaseBind (qKey sid k) s.image (candWants s.image) with
      | (d1, .ok bs) =>
      (match bindOf bs (cDirTbl s.image) with
      | some b =>
      (match d1.readEntries (qRd (qKey sid k)) (d1.boundBase b) (y.probes.map Prod.snd) with
      | (d2, .ok ents) =>
      true
      | _ => false)
      | _ => false)
      | _ => false)
      | _ => false) : Bool) = true) ∧
    ((let d : Dev := { (running (withTbl (withTbl (devTbl [6, 0x17, 0x2E, 0x2F, 0x7F, 0x33, 0xDF, 0x12F]) 5 0 0x10000 (collImg [(88, 2, 4098)])) 4097 3 0x30000 (bytesOf 72 [(0, 1, 3), (1, 1, 1), (4, 4, 1), (8, 4, 72), (12, 4, 8), (16, 4, 1)])) 4095 1 []) with  srch := { all := [(4095, { coll := 5, image := (collImg [(88, 2, 4098)]) })], queries := [((256 * 4095 + 255), { phase := .candidate, core := 7, lac := 3, slot := true, probes := [(0, 0)] })], streams := [((32768 * (256 * 4095 + 255) + 32767), { part := 32767 })] } }
      let sid := 4095
      let k := 255
      decide (sid < 16384) &&
      decide (k < 256) &&
      (match d.inPhase (qKey sid k) .candidate with
      | some (s, y) =>
      decide (y.slot = true) &&
      decide (s.fanout = false) &&
      decide (y.streams = 0) &&
      decide (y.probes.isEmpty = false) &&
      (match d.phaseBind (qKey sid k) s.image (candWants s.image) with
      | (d1, .bad st) =>
      true
      | _ => false)
      | _ => false) : Bool) = true) ∧
    ((let d : Dev := { ((running (withTbl (withTbl (devTbl [6, 0x17, 0x2E, 0x2F, 0x7F, 0x33, 0xDF, 0x12F]) 5 0 0x10000 (collImg [])) 4097 3 0x30000 (bytesOf 72 [(0, 1, 3), (1, 1, 1), (4, 4, 1), (8, 4, 72), (12, 4, 8), (16, 4, 1)])) 4095 1 []).store 0x30040 (natLe 8 0) true) with  srch := { all := [(4095, { coll := 5, image := (collImg []) })], queries := [((256 * 4095 + 255), { phase := .candidate, core := 7, lac := 3, slot := true, probes := [(0, 0)], binds := [(4097, 0)] })], streams := [((32768 * (256 * 4095 + 255) + 32767), { part := 32767 })] } }
      let sid := 4095
      let k := 255
      decide (sid < 16384) &&
      decide (k < 256) &&
      (match d.inPhase (qKey sid k) .candidate with
      | some (s, y) =>
      decide (y.slot = true) &&
      decide (s.fanout = false) &&
      decide (y.streams = 0) &&
      decide (y.probes.isEmpty = false) &&
      (match d.phaseBind (qKey sid k) s.image (candWants s.image) with
      | (d1, .ok bs) =>
      (match bindOf bs (cDirTbl s.image) with
      | some b =>
      (match d1.readEntries (qRd (qKey sid k)) (d1.boundBase b) (y.probes.map Prod.snd) with
      | (d2, .bad st) =>
      true
      | _ => false)
      | _ => false)
      | _ => false)
      | _ => false) : Bool) = true) ∧
    ((let d : Dev := { (running (withTbl (withTbl (devTbl [6, 0x17, 0x2E, 0x2F, 0x7F, 0x33, 0xDF, 0x12F]) 5 0 0x10000 (collImg [])) 4097 3 0x30000 (bytesOf 72 [(0, 1, 3), (1, 1, 1), (4, 4, 1), (8, 4, 72), (12, 4, 8), (16, 4, 1)])) 4095 1 []) with  srch := { all := [(4095, { coll := 5, image := (collImg []) })], queries := [((256 * 4095 + 255), { phase := .candidate, core := 7, lac := 3, slot := true, streams := 1 })], streams := [((32768 * (256 * 4095 + 255) + 32767), { part := 32767 })] } }
      let sid := 4095
      let k := 255
      decide (sid < 16384) &&
      decide (k < 256) &&
      (match d.inPhase (qKey sid k) .candidate with
      | some (s, y) =>
      decide (y.slot = true) &&
      decide (s.fanout = false) &&
      decide (y.streams ≠ 0) &&
      decide (y.merged < y.streams)
      | _ => false) : Bool) = true) ∧
    ((let d : Dev := { (running (withTbl (withTbl (devTbl [6, 0x17, 0x2E, 0x2F, 0x7F, 0x33, 0xDF, 0x12F]) 5 0 0x10000 (collImg [])) 4097 3 0x30000 (bytesOf 72 [(0, 1, 3), (1, 1, 1), (4, 4, 1), (8, 4, 72), (12, 4, 8), (16, 4, 1)])) 4095 1 []) with  srch := { all := [(4095, { coll := 5, image := (collImg []), rr := 1 })], queries := [((256 * 4095 + 255), { phase := .candidate, core := 7, lac := 3, slot := true, streams := 1, merged := 1 })], streams := [((32768 * (256 * 4095 + 255) + 32767), { part := 32767 })] } }
      let sid := 4095
      let k := 255
      decide (sid < 16384) &&
      decide (k < 256) &&
      (match d.inPhase (qKey sid k) .candidate with
      | some (s, y) =>
      decide (y.slot = true) &&
      decide (s.fanout = false) &&
      decide (y.streams ≠ 0 ∨ y.probes.isEmpty = true) &&
      decide (y.streams ≤ y.merged)
      | _ => false) : Bool) = true) ∧
    ((let d : Dev := { (running (withTbl (withTbl (devTbl [6, 0x17, 0x2E, 0x2F, 0x7F, 0x33, 0xDF, 0x12F]) 5 0 0x10000 (collImg [])) 4097 3 0x30000 (bytesOf 72 [(0, 1, 3), (1, 1, 1), (4, 4, 1), (8, 4, 72), (12, 4, 8), (16, 4, 1)])) 4095 1 []) with  srch := { all := [(4095, { coll := 5, image := (collImg []), k := 1 })], queries := [((256 * 4095 + 255), { phase := .candidate, core := 7, lac := 3, slot := true, parts := [(0, { ents := [{ key := 5, id := 7 }] })] })], streams := [((32768 * (256 * 4095 + 255) + 32767), { part := 32767 })] } }
      let sid := 4095
      let k := 255
      decide (sid < 16384) &&
      decide (k < 256) &&
      (match d.inPhase (qKey sid k) .candidate with
      | some (s, y) =>
      decide (y.slot = true) &&
      decide (d.goesOn (pgLac y.lac) = true) &&
      let take := y.parts.take (d.leaves y.lac)
      decide (take.isEmpty = false)
      | _ => false) : Bool) = true) ∧
    ((let d : Dev := { (running (withTbl (withTbl (devTbl [6, 0x17, 0x2E, 0x2F, 0x7F, 0x33, 0xDF, 0x12F]) 5 0 0x10000 (collImg [])) 4097 3 0x30000 (bytesOf 72 [(0, 1, 3), (1, 1, 1), (4, 4, 1), (8, 4, 72), (12, 4, 8), (16, 4, 1)])) 4095 1 []) with  srch := { all := [(4095, { coll := 5, image := (collImg []) })], queries := [((256 * 4095 + 255), { phase := .candidate, core := 7, lac := 3, slot := true })], streams := [((32768 * (256 * 4095 + 255) + 32767), { part := 32767 })] } }
      let sid := 4095
      let k := 255
      decide (sid < 16384) &&
      decide (k < 256) &&
      (match d.inPhase (qKey sid k) .candidate with
      | some (s, y) =>
      decide (y.slot = false ∨ d.goesOn (pgLac y.lac) = false ∨ y.parts = [])
      | _ => false) : Bool) = true) ∧
    ((let d : Dev := { (running (withTbl (withTbl (devTbl [6, 0x17, 0x2E, 0x2F, 0x7F, 0x33, 0xDF, 0x12F]) 5 0 0x10000 (collImg [])) 4097 3 0x30000 (bytesOf 72 [(0, 1, 3), (1, 1, 1), (4, 4, 1), (8, 4, 72), (12, 4, 8), (16, 4, 1)])) 4095 1 []) with  srch := { all := [(4095, { coll := 5, image := (collImg []), k := 1024, out := 0x8000 })], queries := [((256 * 4095 + 255), { phase := .write, core := 7, ordered := [{ key := 5, id := 7 }] })], streams := [((32768 * (256 * 4095 + 255) + 32767), { part := 32767 })] } }
      let sid := 4095
      let k := 255
      decide (sid < 16384) &&
      decide (k < 256) &&
      (match d.inPhase (qKey sid k) .write with
      | some (s, y) =>
      decide (s.batch = false) &&
      decide (s.origin = none) &&
      let r := resultOf s y
      (match d.put sid s.out (resultBytes s.k r.recs) with
      | (d1, .done) =>
      (match d1.ctx? sid with
      | some x =>
      true
      | _ => false)
      | _ => false)
      | _ => false) : Bool) = true) ∧
    ((let d : Dev := { (running (withTbl (withTbl (devTbl [6, 0x17, 0x2E, 0x2F, 0x7F, 0x33, 0xDF, 0x12F]) 5 0 0x10000 (collImg [])) 4097 3 0x30000 (bytesOf 72 [(0, 1, 3), (1, 1, 1), (4, 4, 1), (8, 4, 72), (12, 4, 8), (16, 4, 1)])) 4095 1 []) with  srch := { all := [(4095, { coll := 5, image := (collImg []), k := 1024, out := 2 ^ 52 * 4095 })], queries := [((256 * 4095 + 255), { phase := .write, core := 7, ordered := [{ key := 5, id := 7 }] })], streams := [((32768 * (256 * 4095 + 255) + 32767), { part := 32767 })] } }
      let sid := 4095
      let k := 255
      decide (sid < 16384) &&
      decide (k < 256) &&
      (match d.inPhase (qKey sid k) .write with
      | some (s, y) =>
      decide (s.batch = false) &&
      decide (s.origin = none) &&
      (match d.put sid s.out (resultBytes s.k (resultOf s y).recs) with
      | (d1, .fail st) =>
      true
      | _ => false)
      | _ => false) : Bool) = true) ∧
    ((let d0 : Dev := { (running (withTbl (withTbl (devTbl [6, 0x17, 0x2E, 0x2F, 0x7F, 0x33, 0xDF, 0x12F]) 5 0 0x10000 (collImg [])) 4097 3 0x30000 (bytesOf 72 [(0, 1, 3), (1, 1, 1), (4, 4, 1), (8, 4, 72), (12, 4, 8), (16, 4, 1)])) 4095 1 []) with  srch := { all := [(4095, { coll := 5, image := (collImg []), k := 1024, out := 0x8000 })], queries := [((256 * 4095 + 255), { phase := .write, core := 7, ordered := [{ key := 5, id := 7 }] })], streams := [((32768 * (256 * 4095 + 255) + 32767), { part := 32767 })] } }
      let d : Dev := d0.setPg 0xC R.blkCtl 0
      let sid := 4095
      let k := 255
      decide (sid < 16384) &&
      decide (k < 256) &&
      (match d.inPhase (qKey sid k) .write with
      | some (s, y) =>
      decide (s.batch = false) &&
      decide (s.origin = none) &&
      (match d.put sid s.out (resultBytes s.k (resultOf s y).recs) with
      | (d1, .wait) =>
      true
      | _ => false)
      | _ => false) : Bool) = true) ∧
    ((let d : Dev := { (running (withTbl (withTbl (devTbl [6, 0x17, 0x2E, 0x2F, 0x7F, 0x33, 0xDF, 0x12F]) 5 0 0x10000 (collImg [])) 4097 3 0x30000 (bytesOf 72 [(0, 1, 3), (1, 1, 1), (4, 4, 1), (8, 4, 72), (12, 4, 8), (16, 4, 1)])) 4095 1 []) with  srch := { all := [(4095, { coll := 5, image := (collImg []), k := 1024, out := 0x8000, batch := true })], queries := [((256 * 4095 + 255), { phase := .write, core := 7, ordered := [{ key := 5, id := 7 }] })], streams := [((32768 * (256 * 4095 + 255) + 32767), { part := 32767 })] } }
      let sid := 4095
      let k := 255
      decide (sid < 16384) &&
      decide (k < 256) &&
      (match d.inPhase (qKey sid k) .write with
      | some (s, y) =>
      decide (s.batch = true)
      | _ => false) : Bool) = true) ∧
    ((let d : Dev := { (running (withTbl (withTbl (devTbl [6, 0x17, 0x2E, 0x2F, 0x7F, 0x33, 0xDF, 0x12F]) 5 0 0x10000 (collImg [])) 4097 3 0x30000 (bytesOf 72 [(0, 1, 3), (1, 1, 1), (4, 4, 1), (8, 4, 72), (12, 4, 8), (16, 4, 1)])) 4095 1 []) with  srch := { all := [(4095, { coll := 5, image := (collImg []), k := 1024, origin := some (4095, 3) })], queries := [((256 * 4095 + 255), { phase := .write, core := 7, ordered := [{ key := 5, id := 7 }] })], streams := [((32768 * (256 * 4095 + 255) + 32767), { part := 32767 })] } }
      let sid := 4095
      let k := 255
      let ref : Nat := 3
      decide (sid < 16384) &&
      decide (k < 256) &&
      (match d.inPhase (qKey sid k) .write with
      | some (s, y) =>
      decide (s.batch = false) &&
      (match s.origin with
      | some (n, ref_) =>
      decide (ref_ = ref)
      | _ => false)
      | _ => false) : Bool) = true) := by decide +kernel

/-- Clause by clause, the hypotheses of `Obligations.DataMovers` are met. -/
theorem witness_DataMovers :
    ((let d0 := running (devOn [6, 8]) 4095 0x30 [(8, 8, 0x4000), (16, 8, 0x8000), (24, 8, 4096)]
      let c : Nat := 4095
      let x : Ctx := {}
      let d : Dev := d0.setMover 4095 (moverOf 4 { entry := entry 0x30 [(8, 8, 0x4000), (16, 8, 0x8000), (24, 8, 4096)] })
      decide (c < 4096) &&
      decide (Tab.has d.lat.movers c = true) : Bool) = true) ∧
    ((let d0 := running (devOn [6, 8]) 4095 0x30 [(8, 8, 0x4000), (16, 8, 0x8000), (24, 8, 4096)]
      let c : Nat := 4095
      let x : Ctx := {}
      let d : Dev := d0.setMover 4095 (moverOf 4 { entry := entry 0x30 [(8, 8, 0x4000), (16, 8, 0x8000), (24, 8, 4096)] })
      decide (c < 4096) &&
      decide (Tab.has d.lat.movers c = true) : Bool) = true) ∧
    ((let d0 := running (devOn [6, 8]) 4095 0x30 [(8, 8, 0x4000), (16, 8, 0x8000), (24, 8, 4096)]
      let c : Nat := 4095
      let x : Ctx := {}
      let d : Dev := d0.setMover 4095 (moverOf 4 { entry := entry 0x30 [(8, 8, 0x4000), (16, 8, 0x8000), (24, 8, 4096)] })
      decide (c < 4096) &&
      decide (Tab.has d.lat.movers c = true) : Bool) = true) ∧
    ((let d0 := running (devOn [6, 8]) 4095 0x30 [(8, 8, 0x4000), (16, 8, 0x8000), (24, 8, 4096)]
      let c : Nat := 4095
      let x : Ctx := {}
      let d : Dev := d0.setMover 4095 (moverOf 4 { entry := entry 0x30 [(8, 8, 0x4000), (16, 8, 0x8000), (24, 8, 4096)] })
      decide (c < 4096) &&
      decide (Tab.has d.lat.movers c = true) : Bool) = true) ∧
    ((let d0 := running (devOn [6, 8]) 4095 0x30 [(8, 8, 0x4000), (16, 8, 0x8000), (24, 8, 4096)]
      let c : Nat := 4095
      let x : Ctx := {}
      let d : Dev := d0.setMover 4095 (moverOf 4 { entry := entry 0x30 [(8, 8, 0x4000), (16, 8, 0x8000), (24, 8, 4096)] })
      decide (c < 4096) &&
      decide (Tab.has d.lat.movers c = true) : Bool) = true) ∧
    ((let d : Dev := withCmd (devOn [6, 8]) 4095 0x2B [(8, 8, 0x4000), (16, 8, 0x8000), (24, 4, 0), (40, 1, 9), (41, 1, 2)]
      let c : Nat := 4095
      let code : Nat := 0x2B
      let op : Nat := 3
      let i : Instr := .poolReduce c
      decide (c < 4096) &&
      decide ((code, op, i) ∈ [(0x28, 0, Instr.poolFill c), (0x29, 1, .poolCopy c), (0x2A, 2, .poolCompare c), (0x2B, 3, .poolReduce c), (0x30, 4,
          .dmaCopy c)]) &&
      decide (Tab.has d.lat.movers c = false) &&
      decide (d.canStart c code = true) &&
      (match d.ctx? c with
      | some x =>
      decide (d.moverArgs x op = false)
      | _ => false) : Bool) = true) ∧
    ((let d0 := withCmd (devOn [6, 8]) 4095 0x2B [(8, 8, 0x4000), (16, 8, 0x8000), (24, 4, 64), (40, 1, 9), (41, 1, 2)]
      let d : Dev := { d0 with cmp := { d0.cmp with st := .fenced } }
      let c : Nat := 4095
      let code : Nat := 0x2B
      let op : Nat := 3
      let i : Instr := .poolReduce c
      decide (c < 4096) &&
      decide ((code, op, i) ∈ [(0x28, 0, Instr.poolFill c), (0x29, 1, .poolCopy c), (0x2A, 2, .poolCompare c), (0x2B, 3, .poolReduce c), (0x30, 4,
          .dmaCopy c)]) &&
      decide (Tab.has d.lat.movers c = false) &&
      decide (d.canStart c code = true) &&
      (match d.ctx? c with
      | some x =>
      decide (d.moverArgs x op = true) &&
      decide (op ≠ 4) &&
      decide (d.isFenced = true)
      | _ => false) : Bool) = true) ∧
    ((let d : Dev := withCmd (devOn [6]) 4095 0x2B [(8, 8, 0x4000), (16, 8, 0x8000), (24, 4, 64), (40, 1, 9), (41, 1, 2)]
      let c : Nat := 4095
      let code : Nat := 0x2B
      let op : Nat := 3
      let i : Instr := .poolReduce c
      decide (c < 4096) &&
      decide ((code, op, i) ∈ [(0x28, 0, Instr.poolFill c), (0x29, 1, .poolCopy c), (0x2A, 2, .poolCompare c), (0x2B, 3, .poolReduce c), (0x30, 4,
          .dmaCopy c)]) &&
      decide (Tab.has d.lat.movers c = false) &&
      decide (d.canStart c code = true) &&
      (match d.ctx? c with
      | some x =>
      decide (d.moverArgs x op = true) &&
      decide (op ≠ 4) &&
      decide (d.isFenced = false) &&
      decide (d.runs pgLat = false)
      | _ => false) : Bool) = true) ∧
    ((let d : Dev := withCmd (devOn [6, 8]) 4095 0x2B [(8, 8, 0x4000), (16, 8, 0x8000), (24, 4, 64), (40, 1, 9), (41, 1, 2)]
      let c : Nat := 4095
      let code : Nat := 0x2B
      let op : Nat := 3
      let i : Instr := .poolReduce c
      decide (c < 4096) &&
      decide ((code, op, i) ∈ [(0x28, 0, Instr.poolFill c), (0x29, 1, .poolCopy c), (0x2A, 2, .poolCompare c), (0x2B, 3, .poolReduce c), (0x30, 4,
          .dmaCopy c)]) &&
      decide (Tab.has d.lat.movers c = false) &&
      decide (d.canStart c code = true) &&
      (match d.ctx? c with
      | some x =>
      decide (d.moverArgs x op = true) &&
      decide (op = 4 ∨ (d.isFenced = false ∧ d.runs pgLat = true))
      | _ => false) : Bool) = true) := by decide +kernel

/-- Clause by clause, the hypotheses of `Obligations.Models` are met. -/
theorem witness_Models :
    ((let d : Dev := withCmd (withTbl (withTbl (devTbl [6, 7, 8, 0x17, 0x2E, 0x2F, 0x7F]) 5 0 0x10000 (collImg [(92, 2,
        4098)])) 4098 5 0x60000 (bytesOf 128 [(0, 1, 5), (1, 1, 1), (4, 4, 1), (16, 1, 0), (17, 1, 2), (18, 1, 0), (19, 1, 8), (20, 2, 16), (22, 2, 512), (24,
        2, 32), (26, 1, 1), (27, 1, 4), (32, 4, 64), (38, 2, 1), (48, 8, 0x4000000), (56, 8, 0x5000000)])) 4095 0x18 [(4, 4, 5), (8, 8, 0x4000), (28, 4, 128),
        (16, 8, 0x8000), (24, 4, 256), (34, 2, 2), (36, 4, 64), (40, 4, 64), (44, 1, 3)]
      let c : Nat := 4095
      decide (c < 4096) &&
      decide (d.canStart c 0x18 = true) &&
      (match d.ctx? c with
      | some x =>
      decide (d.embedArgsOk x = false)
      | _ => false) : Bool) = true) ∧
    ((let d : Dev := withCmd (withTbl (withTbl (devTbl [6, 7, 8, 0x17, 0x2E, 0x2F, 0x7F]) 5 0 0x10000 (collImg [(92, 2,
        4098)])) 4098 5 0x60000 (bytesOf 128 [(0, 1, 5), (1, 1, 1), (4, 4, 1), (16, 1, 0), (17, 1, 2), (18, 1, 0), (19, 1, 8), (20, 2, 16), (22, 2, 512), (24,
        2, 32), (26, 1, 1), (27, 1, 4), (32, 4, 64), (38, 2, 1), (48, 8, 0x4000000), (56, 8, 0x5000000), (16, 1, 1)])) 4095 0x18 [(4, 4, 5), (8, 8, 0x4000),
        (28, 4, 128), (16, 8, 0x8000), (24, 4, 256), (34, 2, 2), (36, 4, 64), (40, 4, 64), (44, 1, 0)]
      let c : Nat := 4095
      decide (c < 4096) &&
      decide (d.canStart c 0x18 = true) &&
      (match d.ctx? c with
      | some x =>
      decide (d.embedArgsOk x = true) &&
      (match d.modelColl c x (x.n 32 2) cEncTbl with
      | (d1, .ok coll) =>
      let img := (coll.map Prod.fst).getD []
      let model := embedModel x img
      let token := embedToken x img
      (match d1.modelLook c model token with
      | (d2, .ok ls) =>
      (match embedOk x img (d2.modelHdr ls) token with
      | some st =>
      true
      | _ => false)
      | _ => false)
      | _ => false)
      | _ => false) : Bool) = true) ∧
    ((let d : Dev := withCmd (withTbl (withTbl (devTbl [6, 7, 8, 0x17, 0x2E, 0x2F, 0x7F]) 5 0 0x10000 (collImg [(92, 2,
        4098)])) 4098 5 0x60000 (bytesOf 128 [(0, 1, 5), (1, 1, 1), (4, 4, 1), (16, 1, 0), (17, 1, 2), (18, 1, 0), (19, 1, 8), (20, 2, 16), (22, 2, 512), (24,
        2, 32), (26, 1, 1), (27, 1, 4), (32, 4, 64), (38, 2, 1), (48, 8, 0x4000000), (56, 8, 0x5000000)])) 4095 0x18 [(4, 4, 5), (8, 8, 0x4000), (28, 4, 128),
        (16, 8, 0x8000), (24, 4, 256), (34, 2, 2), (36, 4, 64), (40, 4, 64), (44, 1, 0)]
      let c : Nat := 4095
      decide (c < 4096) &&
      decide (d.canStart c 0x18 = true) &&
      (match d.ctx? c with
      | some x =>
      decide (d.embedArgsOk x = true) &&
      (match d.modelColl c x (x.n 32 2) cEncTbl with
      | (d1, .ok coll) =>
      let img := (coll.map Prod.fst).getD []
      let model := embedModel x img
      let token := embedToken x img
      (match d1.modelLook c model token with
      | (d2, .ok ls) =>
      decide (embedOk x img (d2.modelHdr ls) token = none) &&
      (match d2.need c x.desc (x.n 34 2 * x.n 36 4) with
      | (d3, .ok b) =>
      (match d3.modelBind c model token with
      | (d4, .ok bs) =>
      true
      | _ => false)
      | _ => false)
      | _ => false)
      | _ => false)
      | _ => false) : Bool) = true) ∧
    ((let d : Dev := (withCmd (withTbl (withTbl (devTbl [6, 7, 8, 0x17, 0x2E, 0x2F, 0x7F]) 5 0 0x10000 (collImg [(94, 2,
        4098)])) 4098 5 0x60000 (bytesOf 128 [(0, 1, 5), (1, 1, 1), (4, 4, 1), (16, 1, 1), (17, 1, 0), (18, 1, 0), (19, 1, 8), (20, 2, 16), (22, 2, 512), (24,
        2, 32), (26, 1, 1), (27, 1, 4), (32, 4, 64), (38, 2, 1), (48, 8, 0x4000000), (56, 8, 0x5000000)])) 4095 0x19 [(4, 4, 5), (8, 8, 0x4000), (28, 4, 512),
        (16, 8, 0x8000), (24, 4, 16), (34, 2, 2), (36, 4, 192), (40, 4, 128), (44, 4, 128)])
      let c : Nat := 4095
      decide (c < 4096) &&
      decide (d.canStart c 0x19 = true) &&
      (match d.ctx? c with
      | some x =>
      decide (d.rerankArgsOk x = false)
      | _ => false) : Bool) = true) ∧
    ((let d : Dev := (withCmd (withTbl (withTbl (devTbl [6, 7, 8, 0x17, 0x2E, 0x2F, 0x7F]) 5 0 0x10000 (collImg [(94, 2,
        4098)])) 4098 5 0x60000 (bytesOf 128 [(0, 1, 5), (1, 1, 1), (4, 4, 1), (16, 1, 1), (17, 1, 0), (18, 1, 0), (19, 1, 8), (20, 2, 16), (22, 2, 512), (24,
        2, 32), (26, 1, 1), (27, 1, 4), (32, 4, 64), (38, 2, 1), (48, 8, 0x4000000), (56, 8, 0x5000000)])) 4095 0x19 [(4, 4, 5), (8, 8, 0x4000), (28, 4, 512),
        (16, 8, 0x8000), (24, 4, 64), (34, 2, 2), (36, 4, 192), (40, 4, 128), (44, 4, 128)]).store (0x4000 + 128) (List.replicate 64 255)
      let c : Nat := 4095
      decide (c < 4096) &&
      decide (d.canStart c 0x19 = true) &&
      (match d.ctx? c with
      | some x =>
      decide (d.rerankArgsOk x = true) &&
      (match d.need c x.desc (up64 (x.n 44 4) + x.n 34 2 * x.n 36 4) with
      | (d1, .ok b) =>
      let recs := rerankRecs x b
      decide (rerankRecsOk recs = false)
      | _ => false)
      | _ => false) : Bool) = true) ∧
    ((let d : Dev := (withCmd (withTbl (withTbl (devTbl [6, 7, 8, 0x17, 0x2E, 0x2F, 0x7F]) 5 0 0x10000 (collImg [(94, 2,
        4098)])) 4098 5 0x60000 (bytesOf 128 [(0, 1, 5), (1, 1, 1), (4, 4, 1), (16, 1, 1), (17, 1, 0), (18, 1, 0), (19, 1, 8), (20, 2, 16), (22, 2, 512), (24,
        2, 32), (26, 1, 1), (27, 1, 4), (32, 4, 64), (38, 2, 1), (48, 8, 0x4000000), (56, 8, 0x5000000), (16, 1, 0)])) 4095 0x19 [(4, 4, 5), (8, 8, 0x4000),
        (28, 4, 512), (16, 8, 0x8000), (24, 4, 64), (34, 2, 2), (36, 4, 192), (40, 4, 128), (44, 4, 128)])
      let c : Nat := 4095
      decide (c < 4096) &&
      decide (d.canStart c 0x19 = true) &&
      (match d.ctx? c with
      | some x =>
      decide (d.rerankArgsOk x = true) &&
      (match d.need c x.desc (up64 (x.n 44 4) + x.n 34 2 * x.n 36 4) with
      | (d1, .ok b) =>
      let recs := rerankRecs x b
      decide (rerankRecsOk recs = true) &&
      (match d1.modelColl c x (x.n 32 2) cRerTbl with
      | (d2, .ok coll) =>
      let img := (coll.map Prod.fst).getD []
      let model := rerankModel x img
      let token := rerankToken x img
      (match d2.modelLook c model token with
      | (d3, .ok ls) =>
      (match rerankOk x img (d3.modelHdr ls) token with
      | some st =>
      true
      | _ => false)
      | _ => false)
      | _ => false)
      | _ => false)
      | _ => false) : Bool) = true) ∧
    ((let d : Dev := (withCmd (withTbl (withTbl (devTbl [6, 7, 8, 0x17, 0x2E, 0x2F, 0x7F]) 5 0 0x10000 (collImg [(94, 2,
        4098)])) 4098 5 0x60000 (bytesOf 128 [(0, 1, 5), (1, 1, 1), (4, 4, 1), (16, 1, 1), (17, 1, 0), (18, 1, 0), (19, 1, 8), (20, 2, 16), (22, 2, 512), (24,
        2, 32), (26, 1, 1), (27, 1, 4), (32, 4, 64), (38, 2, 1), (48, 8, 0x4000000), (56, 8, 0x5000000)])) 4095 0x19 [(4, 4, 5), (8, 8, 0x4000), (28, 4, 512),
        (16, 8, 0x8000), (24, 4, 64), (34, 2, 2), (36, 4, 192), (40, 4, 128), (44, 4, 128)])
      let c : Nat := 4095
      decide (c < 4096) &&
      decide (d.canStart c 0x19 = true) &&
      (match d.ctx? c with
      | some x =>
      decide (d.rerankArgsOk x = true) &&
      (match d.need c x.desc (up64 (x.n 44 4) + x.n 34 2 * x.n 36 4) with
      | (d1, .ok b) =>
      let recs := rerankRecs x b
      decide (rerankRecsOk recs = true) &&
      (match d1.modelColl c x (x.n 32 2) cRerTbl with
      | (d2, .ok coll) =>
      let img := (coll.map Prod.fst).getD []
      let model := rerankModel x img
      let token := rerankToken x img
      (match d2.modelLook c model token with
      | (d3, .ok ls) =>
      decide (rerankOk x img (d3.modelHdr ls) token = none) &&
      (match d3.modelBind c model token with
      | (d4, .ok bs) =>
      true
      | _ => false)
      | _ => false)
      | _ => false)
      | _ => false)
      | _ => false) : Bool) = true) ∧
    ((let e0 := running (withTbl (withTbl (devTbl [6, 7, 8, 0x17, 0x2E, 0x2F, 0x7F]) 5 0 0x10000 (collImg [])) 4098 5 0x60000 (bytesOf 128 [(0, 1, 5), (1, 1,
        1), (4, 4, 1), (16, 1, 0), (17, 1, 2), (18, 1, 0), (19, 1, 8), (20, 2, 16), (22, 2, 512), (24, 2, 32), (26, 1, 1), (27, 1, 4), (32, 4, 64), (38, 2,
        1), (48, 8, 0x4000000), (56, 8, 0x5000000)])) 4095 0x18 []
      let d : Dev := { e0 with eng := { e0.eng with runs := [(7, { use := .embed 0, ctx := 4095, cinc := 1, handle := 4098, base := 0x60000, core := 7, group := 3, step := .lane })] } }
      let r : Nat := 7
      (match d.run? r with
      | some x =>
      decide ((x.step == .lane) = true) &&
      (match (if x.core < 8 then some x.core else d.nextCore) with
      | some k =>
      let d0 : Dev := (if x.core < 8 then d else (d.gaveCore k).updRun r (fun y => { y with core := k }))
      (match d0.ctx? x.ctx with
      | some c =>
      (match firstBelow (mLanes (d.runHdr x)) (fun l => !(d0.lanesHeld { x with core := k }).contains l) with
      | some l =>
      let g : Group := { ctx := x.ctx, cinc := c.cinc, core := k, want := mEngines (d.runHdr x), run := r }
      (match d0.addGroup g with
      | (d1, n) =>
      true)
      | _ => false)
      | _ => false)
      | _ => false)
      | _ => false) : Bool) = true) ∧
    ((let e0 := running (withTbl (withTbl (devTbl [6, 7, 8, 0x17, 0x2E, 0x2F, 0x7F]) 5 0 0x10000 (collImg [])) 4098 5 0x60000 (bytesOf 128 [(0, 1, 5), (1, 1,
        1), (4, 4, 1), (16, 1, 0), (17, 1, 2), (18, 1, 0), (19, 1, 8), (20, 2, 16), (22, 2, 512), (24, 2, 32), (26, 1, 1), (27, 1, 4), (32, 4, 64), (38, 2,
        1), (48, 8, 0x4000000), (56, 8, 0x5000000)])) 4095 0x18 []
      let d : Dev := { e0 with eng := { e0.eng with runs := [(7, { use := .embed 0, ctx := 4095, cinc := 1, handle := 4098, base := 0x60000, core := 7, group := 3, step := .ready, lane := some 0 })], groups := [(3, { ctx := 4095, cinc := 1, core := 7, mask := 0, want := 8, reserved := 255, run := 7 })] } }
      let r : Nat := 7
      (match d.run? r with
      | some x =>
      (match d.group? x.group with
      | some g =>
      decide (x.step = .ready)
      | _ => false)
      | _ => false) : Bool) = true) ∧
    ((let e0 := running (withTbl (withTbl (devTbl [6, 7, 8, 0x17, 0x2E, 0x2F, 0x7F]) 5 0 0x10000 (collImg [])) 4098 5 0x60000 (bytesOf 128 [(0, 1, 5), (1, 1,
        1), (4, 4, 1), (16, 1, 0), (17, 1, 2), (18, 1, 0), (19, 1, 8), (20, 2, 16), (22, 2, 512), (24, 2, 32), (26, 1, 1), (27, 1, 4), (32, 4, 64), (38, 2,
        1), (48, 8, 0x4000000), (56, 8, 0x5000000)])) 4095 0x18 []
      let d : Dev := { e0 with eng := { e0.eng with runs := [(7, { use := .embed 0, ctx := 4095, cinc := 1, handle := 4098, base := 0x60000, core := 7, group := 3, step := .engines, lane := some 0 })], groups := [(3, { ctx := 4095, cinc := 1, core := 7, mask := 0, want := 8, reserved := 255, run := 7 })] } }
      let r : Nat := 7
      (match d.run? r with
      | some x =>
      (match d.group? x.group with
      | some g =>
      decide (x.step = .engines) &&
      decide (g.full = true) &&
      (match d.put x.ctx (x.scratch (d.runHdr x)) x.block with
      | (d1, .done) =>
      true
      | _ => false)
      | _ => false)
      | _ => false) : Bool) = true) ∧
    ((let e0 := running (withTbl (withTbl (devTbl [6, 7, 8, 0x17, 0x2E, 0x2F, 0x7F]) 5 0 0x10000 (collImg [])) 4098 5 0x60000 (bytesOf 128 [(0, 1, 5), (1, 1,
        1), (4, 4, 1), (16, 1, 0), (17, 1, 2), (18, 1, 0), (19, 1, 8), (20, 2, 16), (22, 2, 512), (24, 2, 32), (26, 1, 1), (27, 1, 4), (32, 4, 64), (38, 2,
        1), (48, 8, 0x4000000), (56, 8, 0x5000000)])) 4095 0x18 []
      let dz : Dev := { e0 with eng := { e0.eng with runs := [(7, { use := .embed 0, ctx := 4095, cinc := 1, handle := 4098, base := 0x60000, core := 7, group := 3, step := .engines, lane := some 0 })], groups := [(3, { ctx := 4095, cinc := 1, core := 7, mask := 0, want := 8, reserved := 255, run := 7 })] } }
      let d : Dev := dz.setPg 0xC R.blkCtl 0
      let r : Nat := 7
      (match d.run? r with
      | some x =>
      (match d.group? x.group with
      | some g =>
      decide (x.step = .engines) &&
      decide (g.full = true) &&
      (match d.put x.ctx (x.scratch (d.runHdr x)) x.block with
      | (d1, .wait) =>
      true
      | _ => false)
      | _ => false)
      | _ => false) : Bool) = true) ∧
    ((let e0 := running (withTbl (withTbl (devTbl [6, 7, 8, 0x17, 0x2E, 0x2F, 0x7F]) 5 0 0x10000 (collImg [])) 4098 5 0x60000 (bytesOf 128 [(0, 1, 5), (1, 1,
        1), (4, 4, 1), (16, 1, 0), (17, 1, 2), (18, 1, 0), (19, 1, 8), (20, 2, 16), (22, 2, 512), (24, 2, 32), (26, 1, 1), (27, 1, 4), (32, 4, 64), (38, 2,
        1), (48, 8, 0x4000000), (56, 8, 0x5000000), (48, 8, 2 ^ 52 * 4095)])) 4095 0x18 []
      let d : Dev := { e0 with eng := { e0.eng with runs := [(7, { use := .embed 0, ctx := 4095, cinc := 1, handle := 4098, base := 0x60000, core := 7, group := 3, step := .engines, lane := some 0 })], groups := [(3, { ctx := 4095, cinc := 1, core := 7, mask := 0, want := 8, reserved := 255, run := 7 })] } }
      let r : Nat := 7
      (match d.run? r with
      | some x =>
      (match d.group? x.group with
      | some g =>
      decide (x.step = .engines) &&
      decide (g.full = true) &&
      (match d.put x.ctx (x.scratch (d.runHdr x)) x.block with
      | (d1, .fail st) =>
      true
      | _ => false)
      | _ => false)
      | _ => false) : Bool) = true) ∧
    ((let e0 := running (withTbl (withTbl (devTbl [6, 7, 8, 0x17, 0x2E, 0x2F, 0x7F]) 5 0 0x10000 (collImg [])) 4098 5 0x60000 (bytesOf 128 [(0, 1, 5), (1, 1,
        1), (4, 4, 1), (16, 1, 0), (17, 1, 2), (18, 1, 0), (19, 1, 8), (20, 2, 16), (22, 2, 512), (24, 2, 32), (26, 1, 1), (27, 1, 4), (32, 4, 64), (38, 2,
        1), (48, 8, 0x4000000), (56, 8, 0x5000000)])) 4095 0x18 []
      let d : Dev := { e0 with eng := { e0.eng with runs := [(7, { use := .embed 0, ctx := 4095, cinc := 1, handle := 4098, base := 0x60000, core := 7, group := 3, step := .engines, lane := some 0 })], groups := [(3, { ctx := 4095, cinc := 1, core := 7, mask := 0, want := 8, reserved := 127, run := 7 })] } }
      let r : Nat := 7
      (match d.run? r with
      | some x =>
      (match d.group? x.group with
      | some g =>
      decide (x.step = .engines) &&
      decide (g.full = false)
      | _ => false)
      | _ => false) : Bool) = true) ∧
    ((let e0 := running (withTbl (withTbl (devTbl [6, 7, 8, 0x17, 0x2E, 0x2F, 0x7F]) 5 0 0x10000 (collImg [])) 4098 5 0x60000 (bytesOf 128 [(0, 1, 5), (1, 1,
        1), (4, 4, 1), (16, 1, 0), (17, 1, 2), (18, 1, 0), (19, 1, 8), (20, 2, 16), (22, 2, 512), (24, 2, 32), (26, 1, 1), (27, 1, 4), (32, 4, 64), (38, 2,
        1), (48, 8, 0x4000000), (56, 8, 0x5000000)])) 4095 0x18 []
      let d : Dev := { e0 with eng := { e0.eng with runs := [(7, { use := .embed 0, ctx := 4095, cinc := 1, handle := 4098, base := 0x60000, core := 7, group := 3, step := .stage, lane := some 0, repRunning := true })], groups := [(3, { ctx := 4095, cinc := 1, core := 7, mask := 0, want := 8, reserved := 255, run := 7 })], eng := [(56, { ended := true, owner := .group }), (57, { ended := true, owner := .group }), (58, { ended := true, owner := .group }), (59, { ended := true, owner := .group }), (60, { ended := true, owner := .group }), (61, { ended := true, owner := .group }), (62, { ended := true, owner := .group }), (63, { ended := !true, owner := .group })] } }
      let r : Nat := 7
      (match d.run? r with
      | some x =>
      (match d.group? x.group with
      | some g =>
      decide (x.step = .stage) &&
      decide (x.attn = true ∨ x.repRunning = false ∨ (d.groupEngs g).all (fun e => (d.engine e).ended) = false)
      | _ => false)
      | _ => false) : Bool) = true) ∧
    ((let e0 := running (withTbl (withTbl (devTbl [6, 7, 8, 0x17, 0x2E, 0x2F, 0x7F]) 5 0 0x10000 (collImg [])) 4098 5 0x60000 (bytesOf 128 [(0, 1, 5), (1, 1,
        1), (4, 4, 1), (16, 1, 0), (17, 1, 2), (18, 1, 0), (19, 1, 8), (20, 2, 16), (22, 2, 512), (24, 2, 32), (26, 1, 1), (27, 1, 4), (32, 4, 64), (38, 2,
        1), (48, 8, 0x4000000), (56, 8, 0x5000000), (80, 2, 2)])) 4095 0x18 []
      let d : Dev := { e0 with eng := { e0.eng with runs := [(7, { use := .embed 0, ctx := 4095, cinc := 1, handle := 4098, base := 0x60000, core := 7, group := 3, step := .stage, lane := some 0, repRunning := true })], groups := [(3, { ctx := 4095, cinc := 1, core := 7, mask := 0, want := 8, reserved := 255, run := 7 })], eng := [(56, { ended := true, owner := .group }), (57, { ended := true, owner := .group }), (58, { ended := true, owner := .group }), (59, { ended := true, owner := .group }), (60, { ended := true, owner := .group }), (61, { ended := true, owner := .group }), (62, { ended := true, owner := .group }), (63, { ended := true, owner := .group })] } }
      let r : Nat := 7
      (match d.run? r with
      | some x =>
      (match d.group? x.group with
      | some g =>
      decide (x.step = .stage) &&
      decide (x.attn = false) &&
      decide (x.repRunning = true) &&
      decide ((d.groupEngs g).all (fun e => (d.engine e).ended) = true) &&
      let d1 := d.repFold r x (d.groupEngs g)
      let st := d1.runStage x x.stage
      decide (x.rep + 1 < st.rep) &&
      (match d1.run? r with
      | some y =>
      true
      | _ => false)
      | _ => false)
      | _ => false) : Bool) = true) ∧
    ((let e0 := running (withTbl (withTbl (devTbl [6, 7, 8, 0x17, 0x2E, 0x2F, 0x7F]) 5 0 0x10000 (collImg [])) 4098 5 0x60000 (bytesOf 128 [(0, 1, 5), (1, 1,
        1), (4, 4, 1), (16, 1, 0), (17, 1, 2), (18, 1, 0), (19, 1, 8), (20, 2, 16), (22, 2, 512), (24, 2, 32), (26, 1, 1), (27, 1, 4), (32, 4, 64), (38, 2,
        1), (48, 8, 0x4000000), (56, 8, 0x5000000), (82, 2, 2)])) 4095 0x18 []
      let d : Dev := { e0 with eng := { e0.eng with runs := [(7, { use := .embed 0, ctx := 4095, cinc := 1, handle := 4098, base := 0x60000, core := 7, group := 3, step := .stage, lane := some 0, repRunning := true })], groups := [(3, { ctx := 4095, cinc := 1, core := 7, mask := 0, want := 8, reserved := 255, run := 7 })], eng := [(56, { ended := true, owner := .group }), (57, { ended := true, owner := .group }), (58, { ended := true, owner := .group }), (59, { ended := true, owner := .group }), (60, { ended := true, owner := .group }), (61, { ended := true, owner := .group }), (62, { ended := true, owner := .group }), (63, { ended := true, owner := .group })] } }
      let r : Nat := 7
      (match d.run? r with
      | some x =>
      (match d.group? x.group with
      | some g =>
      decide (x.step = .stage) &&
      decide (x.attn = false) &&
      decide (x.repRunning = true) &&
      decide ((d.groupEngs g).all (fun e => (d.engine e).ended) = true) &&
      let d1 := d.repFold r x (d.groupEngs g)
      let st := d1.runStage x x.stage
      decide (st.rep ≤ x.rep + 1) &&
      decide (st.attn = true)
      | _ => false)
      | _ => false) : Bool) = true) ∧
    ((let e0 := running (withTbl (withTbl (devTbl [6, 7, 8, 0x17, 0x2E, 0x2F, 0x7F]) 5 0 0x10000 (collImg [])) 4098 5 0x60000 (bytesOf 128 [(0, 1, 5), (1, 1,
        1), (4, 4, 1), (16, 1, 0), (17, 1, 2), (18, 1, 0), (19, 1, 8), (20, 2, 16), (22, 2, 512), (24, 2, 32), (26, 1, 1), (27, 1, 4), (32, 4, 64), (38, 2,
        1), (48, 8, 0x4000000), (56, 8, 0x5000000)])) 4095 0x18 []
      let d : Dev := { e0 with eng := { e0.eng with runs := [(7, { use := .embed 0, ctx := 4095, cinc := 1, handle := 4098, base := 0x60000, core := 7, group := 3, step := .stage, lane := some 0, repRunning := true })], groups := [(3, { ctx := 4095, cinc := 1, core := 7, mask := 0, want := 8, reserved := 255, run := 7 })], eng := [(56, { ended := true, owner := .group }), (57, { ended := true, owner := .group }), (58, { ended := true, owner := .group }), (59, { ended := true, owner := .group }), (60, { ended := true, owner := .group }), (61, { ended := true, owner := .group }), (62, { ended := true, owner := .group }), (63, { ended := true, owner := .group })] } }
      let r : Nat := 7
      (match d.run? r with
      | some x =>
      (match d.group? x.group with
      | some g =>
      decide (x.step = .stage) &&
      decide (x.attn = false) &&
      decide (x.repRunning = true) &&
      decide ((d.groupEngs g).all (fun e => (d.engine e).ended) = true) &&
      let d1 := d.repFold r x (d.groupEngs g)
      let st := d1.runStage x x.stage
      decide (st.rep ≤ x.rep + 1) &&
      decide (st.attn = false)
      | _ => false)
      | _ => false) : Bool) = true) ∧
    ((let e0 := running (withTbl (withTbl (devTbl [6, 7, 8, 0x17, 0x2E, 0x2F, 0x7F]) 5 0 0x10000 (collImg [])) 4098 5 0x60000 (bytesOf 128 [(0, 1, 5), (1, 1,
        1), (4, 4, 1), (16, 1, 0), (17, 1, 2), (18, 1, 0), (19, 1, 8), (20, 2, 16), (22, 2, 512), (24, 2, 32), (26, 1, 1), (27, 1, 4), (32, 4, 64), (38, 2,
        1), (48, 8, 0x4000000), (56, 8, 0x5000000)])) 4095 0x18 []
      let d : Dev := { e0 with eng := { e0.eng with runs := [(7, { use := .embed 0, ctx := 4095, cinc := 1, handle := 4098, base := 0x60000, core := 7, group := 3, step := .finished, lane := some 0 })], groups := [(3, { ctx := 4095, cinc := 1, core := 7, mask := 0, want := 8, reserved := 255, run := 7 })], eng := [(56, { ended := true, owner := .group }), (57, { ended := true, owner := .group }), (58, { ended := true, owner := .group }), (59, { ended := true, owner := .group }), (60, { ended := true, owner := .group }), (61, { ended := true, owner := .group }), (62, { ended := true, owner := .group }), (63, { ended := true, owner := .group })] } }
      let r : Nat := 7
      (match d.run? r with
      | some x =>
      decide ((x.step != .finished) = false) &&
      (match d.need x.ctx (x.w7 (d.runHdr x)).base (4 * (if x.cands = 0 then mVecDim (d.runHdr x) else x.cands)) with
      | (d1, .ok b) =>
      (match d1.deliver x (bytesWords b) with
      | (d2, .done) =>
      (match d2.group? x.group with
      | some g =>
      (match d2.pushAmax x (d.runHdr x) ((d2.groupEngs g).headD 0) with
      | (d3, ev) =>
      true)
      | _ => false)
      | _ => false)
      | _ => false)
      | _ => false) : Bool) = true) ∧
    ((let e0 := running (withTbl (withTbl (devTbl [6, 7, 8, 0x17, 0x2E, 0x2F, 0x7F]) 5 0 0x10000 (collImg [])) 4098 5 0x60000 (bytesOf 128 [(0, 1, 5), (1, 1,
        1), (4, 4, 1), (16, 1, 0), (17, 1, 2), (18, 1, 0), (19, 1, 8), (20, 2, 16), (22, 2, 512), (24, 2, 32), (26, 1, 1), (27, 1, 4), (32, 4, 64), (38, 2,
        1), (48, 8, 0x4000000), (56, 8, 0x5000000), (48, 8, 2 ^ 52 * 4095)])) 4095 0x18 []
      let d : Dev := { e0 with eng := { e0.eng with runs := [(7, { use := .embed 0, ctx := 4095, cinc := 1, handle := 4098, base := 0x60000, core := 7, group := 3, step := .finished, lane := some 0 })], groups := [(3, { ctx := 4095, cinc := 1, core := 7, mask := 0, want := 8, reserved := 255, run := 7 })], eng := [(56, { ended := true, owner := .group }), (57, { ended := true, owner := .group }), (58, { ended := true, owner := .group }), (59, { ended := true, owner := .group }), (60, { ended := true, owner := .group }), (61, { ended := true, owner := .group }), (62, { ended := true, owner := .group }), (63, { ended := true, owner := .group })] } }
      let r : Nat := 7
      (match d.run? r with
      | some x =>
      decide ((x.step != .finished) = false) &&
      (match d.need x.ctx (x.w7 (d.runHdr x)).base (4 * (if x.cands = 0 then mVecDim (d.runHdr x) else x.cands)) with
      | (d1, .bad st) =>
      true
      | _ => false)
      | _ => false) : Bool) = true) ∧
    ((let d : Dev := { (running (withTbl (withTbl (devTbl [6, 7, 8, 0x17, 0x2E, 0x2F, 0x7F]) 5 0 0x10000 (collImg [(92, 2, 4098)])) 4098 5 0x60000 (bytesOf 128 [(0, 1, 5), (1, 1, 1), (4, 4, 1), (16, 1, 0), (17, 1, 2), (18, 1, 0), (19, 1, 8), (20, 2, 16), (22, 2, 512), (24, 2, 32), (26, 1, 1), (27, 1, 4), (32, 4, 64), (38, 2, 1), (48, 8, 0x4000000), (56, 8, 0x5000000)])) 4095 1 []) with srch := { all := [(4095, { coll := 5, image := (collImg [(92, 2, 4098)]), inputs := (List.range 256).map (fun _ => natLe 64 5) })], queries := [((256 * 4095 + 255), { phase := .embed, core := 7 })] } }
      let sid := 4095
      let k := 255
      decide (sid < 16384) &&
      decide (k < 256) &&
      (match d.inPhase (qKey sid k) .embed with
      | some (s, y) =>
      true
      | _ => false) : Bool) = true) ∧
    ((let d : Dev := { (running (withTbl (withTbl (devTbl [6, 7, 8, 0x17, 0x2E, 0x2F, 0x7F]) 5 0 0x10000 (collImg [(94, 2, 4098)])) 4098 5 0x60000 (bytesOf 128 [(0, 1, 5), (1, 1, 1), (4, 4, 1), (16, 1, 1), (17, 1, 0), (18, 1, 0), (19, 1, 8), (20, 2, 16), (22, 2, 512), (24, 2, 32), (26, 1, 1), (27, 1, 4), (32, 4, 64), (38, 2, 1), (48, 8, 0x4000000), (56, 8, 0x5000000)])) 4095 1 []) with srch := { all := [(4095, { coll := 5, image := (collImg [(94, 2, 4098)]), k := 1024, model := true })], queries := [((256 * 4095 + 255), { phase := .rerankModel, core := 7 })] } }
      let sid := 4095
      let k := 255
      decide (sid < 16384) &&
      decide (k < 256) &&
      (match d.inPhase (qKey sid k) .rerankModel with
      | some (s, y) =>
      decide (y.ordered.isEmpty = true)
      | _ => false) : Bool) = true) ∧
    ((let d : Dev := { (running (withTbl (withTbl (devTbl [6, 7, 8, 0x17, 0x2E, 0x2F, 0x7F]) 5 0 0x10000 (collImg [(94, 2, 4098)])) 4098 5 0x60000 (bytesOf 128 [(0, 1, 5), (1, 1, 1), (4, 4, 1), (16, 1, 1), (17, 1, 0), (18, 1, 0), (19, 1, 8), (20, 2, 16), (22, 2, 512), (24, 2, 32), (26, 1, 1), (27, 1, 4), (32, 4, 64), (38, 2, 1), (48, 8, 0x4000000), (56, 8, 0x5000000)])) 4095 1 []) with srch := { all := [(4095, { coll := 5, image := (collImg [(94, 2, 4098)]), k := 1024, model := true })], queries := [((256 * 4095 + 255), { phase := .rerankModel, core := 7, vec := List.replicate 32 0, ordered := [{ key := 5, id := 7 }], full := [List.replicate 32 0] })] } }
      let sid := 4095
      let k := 255
      decide (sid < 16384) &&
      decide (k < 256) &&
      (match d.inPhase (qKey sid k) .rerankModel with
      | some (s, y) =>
      decide (y.ordered.isEmpty = false)
      | _ => false) : Bool) = true) := by decide +kernel

/-- Clause by clause, the hypotheses of `Obligations.RowsAndFilter` are met. -/
theorem witness_RowsAndFilter :
    ((let d : Dev := { (devTbl [6, 0xA, 0xB]) with sb := { reqs := [(9, { inst := 1, use := .tokens 7, handle := 4099, version := 1, image := bytesOf 64 [(0, 1, 6), (1, 1, 1), (4, 4, 900), (12, 4, 64), (16, 1, 0), (17, 1, 0), (18, 2, 8), (24, 8, 0x40000), (40, 8, 0x70000)], keys := [5, 900], begun := [1], rows := [(1, none)] })] } }
      let r : Nat := 9
      let pos : Nat := 1
      (match d.gather? r with
      | some x =>
      decide (Tab.has x.rows pos = true ∨ x.keys.length ≤ pos ∨ d.gatherLimit x < pos)
      | _ => false) : Bool) = true) ∧
    ((let d0 : Dev := { (devTbl [6, 0xA, 0xB]) with sb := { reqs := [(9, { inst := 1, use := .tokens 7, handle := 4099, version := 1, image := bytesOf 64 [(0, 1, 6), (1, 1, 1), (4, 4, 900), (12, 4, 64), (16, 1, 0), (17, 1, 0), (18, 2, 8), (24, 8, 0x40000), (40, 8, 0x70000)], keys := [5, 900] })] } }
      let d : Dev := d0
      let ptr : Nat := 1
      let r : Nat := 9
      let pos : Nat := 1
      (match d.gather? r with
      | some x =>
      decide (Tab.has x.rows pos = false) &&
      decide (pos < x.keys.length) &&
      decide (pos ≤ d.gatherLimit x) &&
      decide (x.begun.contains pos = false) &&
      decide (d.lookupNext x.inst = (some r, ptr))
      | _ => false) : Bool) = true) ∧
    ((let d : Dev := { (devTbl [6]) with sb := { reqs := [(9, { inst := 1, use := .tokens 7, handle := 4099, version := 1, image := bytesOf 64 [(0, 1, 6), (1, 1, 1), (4, 4, 900), (12, 4, 64), (16, 1, 0), (17, 1, 0), (18, 2, 8), (24, 8, 0x40000), (40, 8, 0x70000)], keys := [5, 900] })] } }
      let r : Nat := 9
      let pos : Nat := 1
      (match d.gather? r with
      | some x =>
      decide (x.begun.contains pos = false) &&
      decide ((d.lookupNext x.inst).1 ≠ some r)
      | _ => false) : Bool) = true) ∧
    ((let d : Dev := { (devTbl [6, 0xA, 0xB]) with sb := { reqs := [(9, { inst := 1, use := .tokens 7, handle := 4099, version := 1, image := bytesOf 64 [(0, 1, 6), (1, 1, 1), (4, 4, 900), (12, 4, 64), (16, 1, 0), (17, 1, 0), (18, 2, 8), (24, 8, 0x40000), (40, 8, 0x70000)], keys := [5, 900], begun := [1] })] } }
      let r : Nat := 9
      let pos : Nat := 1
      (match d.gather? r with
      | some x =>
      let p := pgSad x.inst
      decide (d.goesOn p = true) &&
      decide (Tab.has x.rows pos = false) &&
      decide (pos < x.keys.length) &&
      decide (pos ≤ d.gatherLimit x) &&
      decide (x.begun.contains pos = true) &&
      (match d.rowIndex r pos x (x.keys.getD pos 0) with
      | (d2, .ok (.invalid, n)) =>
      true
      | _ => false)
      | _ => false) : Bool) = true) ∧
    ((let d : Dev := { (devTbl [6, 0xA, 0xB]) with sb := { reqs := [(9, { inst := 1, use := .tokens 7, handle := 4099, version := 1, image := bytesOf 64 [(0, 1, 6), (1, 1, 1), (4, 4, 901), (12, 4, 64), (16, 1, 0), (17, 1, 4), (18, 2, 8), (24, 8, 0x40000), (40, 8, 0x70000)], keys := [5, 900], begun := [1] })] } }
      let r : Nat := 9
      let pos : Nat := 1
      (match d.gather? r with
      | some x =>
      let p := pgSad x.inst
      decide (d.goesOn p = true) &&
      decide (Tab.has x.rows pos = false) &&
      decide (pos < x.keys.length) &&
      decide (pos ≤ d.gatherLimit x) &&
      decide (x.begun.contains pos = true) &&
      (match d.rowIndex r pos x (x.keys.getD pos 0) with
      | (d2, .ok (.missing, n)) =>
      true
      | _ => false)
      | _ => false) : Bool) = true) ∧
    ((let d : Dev := { ((devTbl [6, 0xA, 0xB]).store 0x70070 [0x10]) with sb := { reqs := [(9, { inst := 1, use := .tokens 7, handle := 4099, version := 1, image := bytesOf 64 [(0, 1, 6), (1, 1, 1), (4, 4, 901), (12, 4, 64), (16, 1, 0), (17, 1, 4), (18, 2, 8), (24, 8, 0x40000), (40, 8, 0x70000)], keys := [5, 900], begun := [1] })] } }
      let r : Nat := 9
      let pos : Nat := 1
      (match d.gather? r with
      | some x =>
      let p := pgSad x.inst
      decide (d.goesOn p = true) &&
      decide (Tab.has x.rows pos = false) &&
      decide (pos < x.keys.length) &&
      decide (pos ≤ d.gatherLimit x) &&
      decide (x.begun.contains pos = true) &&
      (match d.rowIndex r pos x (x.keys.getD pos 0) with
      | (d2, .ok (.row i, n)) =>
      (match d2.sbBytes r pos x 0 (i * rtStride x.image) (rowBytes (rtFmt x.image) (rtDim x.image)) with
      | (d3, .ok b) =>
      true
      | _ => false)
      | _ => false)
      | _ => false) : Bool) = true) ∧
    ((let d : Dev := { ((devTbl [6, 0xA, 0xB]).store 0x70070 [0x10] true) with sb := { reqs := [(9, { inst := 1, use := .tokens 7, handle := 4099, version := 1, image := bytesOf 64 [(0, 1, 6), (1, 1, 1), (4, 4, 901), (12, 4, 64), (16, 1, 0), (17, 1, 4), (18, 2, 8), (24, 8, 0x40000), (40, 8, 0x70000)], keys := [5, 900], begun := [1] })] } }
      let r : Nat := 9
      let pos : Nat := 1
      (match d.gather? r with
      | some x =>
      let p := pgSad x.inst
      decide (d.goesOn p = true) &&
      decide (Tab.has x.rows pos = false) &&
      decide (pos < x.keys.length) &&
      decide (pos ≤ d.gatherLimit x) &&
      decide (x.begun.contains pos = true) &&
      (match d.rowIndex r pos x (x.keys.getD pos 0) with
      | (d2, .bad st) =>
      true
      | _ => false)
      | _ => false) : Bool) = true) ∧
    ((let d : Dev := { (((devTbl [6, 0xA, 0xB]).store 0x70070 [0x10]).store (0x40000 + 64 * 900) [0] true) with sb := { reqs := [(9, { inst := 1, use := .tokens 7, handle := 4099, version := 1, image := bytesOf 64 [(0, 1, 6), (1, 1, 1), (4, 4, 901), (12, 4, 64), (16, 1, 0), (17, 1, 4), (18, 2, 8), (24, 8, 0x40000), (40, 8, 0x70000)], keys := [5, 900], begun := [1] })] } }
      let r : Nat := 9
      let pos : Nat := 1
      (match d.gather? r with
      | some x =>
      let p := pgSad x.inst
      decide (d.goesOn p = true) &&
      decide (Tab.has x.rows pos = false) &&
      decide (pos < x.keys.length) &&
      decide (pos ≤ d.gatherLimit x) &&
      decide (x.begun.contains pos = true) &&
      (match d.rowIndex r pos x (x.keys.getD pos 0) with
      | (d2, .ok (.row i, n)) =>
      (match d2.sbBytes r pos x 0 (i * rtStride x.image) (rowBytes (rtFmt x.image) (rtDim x.image)) with
      | (d3, .bad st) =>
      true
      | _ => false)
      | _ => false)
      | _ => false) : Bool) = true) ∧
    ((let d : Dev := { devOn [6, 0xB] with now := 0, sb := { inst := [(1, { fills := [(63, { line := { handle := 4099, version := 1, extent := 0, off := 256 }, addr := 0x40100, waiters := [(9, 1)] })] })], reqs := [(9, { inst := 1, use := .tokens 7, handle := 4099, version := 1, image := bytesOf 64 [(0, 1, 6), (1, 1, 1), (4, 4, 901), (12, 4, 64), (16, 1, 0), (17, 1, 0), (18, 2, 8), (24, 8, 0x40000), (40, 8, 0x70000)], keys := [5, 900] })] } }
      let i : Nat := 1
      let n : Nat := 63
      decide (i < 2) &&
      decide (n < 64) &&
      (match Tab.find? (d.sbInst i).fills n with
      | some f =>
      (match d.sbRead i n f 0 false with
      | (d1, .ok b bad) =>
      true
      | _ => false)
      | _ => false) : Bool) = true) ∧
    ((let d : Dev := { devOn [6, 0xB] with now := 0, sb := { inst := [(1, { fills := [(63, { line := { handle := 4099, version := 1, extent := 0, off := 256 }, addr := 2 ^ 52 * 4095 + 0x40100, waiters := [(9, 1)] })] })], reqs := [(9, { inst := 1, use := .tokens 7, handle := 4099, version := 1, image := bytesOf 64 [(0, 1, 6), (1, 1, 1), (4, 4, 901), (12, 4, 64), (16, 1, 0), (17, 1, 0), (18, 2, 8), (24, 8, 0x40000), (40, 8, 0x70000)], keys := [5, 900] })] } }
      let i : Nat := 1
      let n : Nat := 63
      decide (i < 2) &&
      decide (n < 64) &&
      (match Tab.find? (d.sbInst i).fills n with
      | some f =>
      (match d.sbRead i n f 0 false with
      | (d1, .wait) =>
      true
      | _ => false)
      | _ => false) : Bool) = true) ∧
    ((let d : Dev := { devOn [6, 0xB] with now := 0, sb := { inst := [(1, { fills := [(63, { line := { handle := 4099, version := 1, extent := 0, off := 256 }, addr := 2 ^ 52 * 4095 + 0x40100, waiters := [(9, 1)], failed := true })] })], reqs := [(9, { inst := 1, use := .tokens 7, handle := 4099, version := 1, image := bytesOf 64 [(0, 1, 6), (1, 1, 1), (4, 4, 901), (12, 4, 64), (16, 1, 0), (17, 1, 0), (18, 2, 8), (24, 8, 0x40000), (40, 8, 0x70000)], keys := [5, 900] })] } }
      let i : Nat := 1
      let n : Nat := 63
      decide (i < 2) &&
      decide (n < 64) &&
      (match Tab.find? (d.sbInst i).fills n with
      | some f =>
      (match d.sbRead i n f 0 false with
      | (d1, .fail) =>
      true
      | _ => false)
      | _ => false) : Bool) = true) ∧
    ((let d : Dev := { devOn [6, 0xB] with now := 0, sb := { inst := [(1, { fills := [(63, { line := { handle := 4099, version := 1, extent := 0, off := 256 }, addr := 0x40100, waiters := [(9, 1)] })] })], reqs := [(9, { inst := 1, use := .tokens 7, handle := 4099, version := 1, image := bytesOf 64 [(0, 1, 6), (1, 1, 1), (4, 4, 901), (12, 4, 64), (16, 1, 0), (17, 1, 0), (18, 2, 8), (24, 8, 0x40000), (40, 8, 0x70000)], keys := [5, 900] })] } }
      let i : Nat := 1
      let n : Nat := 63
      decide (i < 2) &&
      decide (n < 64) &&
      (match Tab.find? (d.sbInst i).fills n with
      | some f =>
      decide (f.late = true ∨ d.now < f.since + usCycles (d.fd R.sbLate 15 0 i))
      | _ => false) : Bool) = true) ∧
    ((let d : Dev := { devOn [6, 0xB] with now := 1000000000000, sb := { inst := [(1, { fills := [(63, { line := { handle := 4099, version := 1, extent := 0, off := 256 }, addr := 0x40100, waiters := [(9, 1)] })] })], reqs := [(9, { inst := 1, use := .tokens 7, handle := 4099, version := 1, image := bytesOf 64 [(0, 1, 6), (1, 1, 1), (4, 4, 901), (12, 4, 64), (16, 1, 0), (17, 1, 0), (18, 2, 8), (24, 8, 0x40000), (40, 8, 0x70000)], keys := [5, 900] })] } }
      let i : Nat := 1
      let n : Nat := 63
      decide (i < 2) &&
      decide (n < 64) &&
      (match Tab.find? (d.sbInst i).fills n with
      | some f =>
      decide (f.late = false) &&
      decide (f.since + usCycles (d.fd R.sbLate 15 0 i) ≤ d.now)
      | _ => false) : Bool) = true) ∧
    ((let e0 := running (withTbl (withTbl (devTbl [6, 7, 8, 0x17, 0x2E, 0x2F, 0x7F]) 5 0 0x10000 (collImg [])) 4098 5 0x60000 (bytesOf 128 [(0, 1, 5), (1, 1,
        1), (4, 4, 1), (16, 1, 0), (17, 1, 2), (18, 1, 0), (19, 1, 8), (20, 2, 16), (22, 2, 512), (24, 2, 32), (26, 1, 1), (27, 1, 4), (32, 4, 64), (38, 2,
        1), (48, 8, 0x4000000), (56, 8, 0x5000000)])) 4095 0x18 []
      let d : Dev := { e0 with eng := { e0.eng with runs := [(7, { use := .embed 0, ctx := 4095, cinc := 1, handle := 4098, base := 0x60000, core := 7, group := 3, step := .gather, lane := some 0, gather := some 9 })], groups := [(3, { ctx := 4095, cinc := 1, core := 7, mask := 0, want := 8, reserved := 255, run := 7 })] } , sb := { e0.sb with reqs := [(9, { inst := 1, use := .tokens 7, handle := 4099, version := 1, image := bytesOf 64 [(0, 1, 6), (1, 1, 1), (4, 4, 901), (12, 4, 64), (16, 1, 0), (17, 1, 0), (18, 2, 8), (24, 8, 0x40000), (40, 8, 0x70000)], keys := [5, 900], rows := [(0, none)] })] } }
      let r : Nat := 7
      (match d.run? r with
      | some x =>
      decide (x.step = .gather) &&
      (match x.gather with
      | some n =>
      (match d.gather? n with
      | some g =>
      decide (g.complete = false)
      | _ => false)
      | _ => false)
      | _ => false) : Bool) = true) ∧
    ((let e0 := running (withTbl (withTbl (devTbl [6, 7, 8, 0x17, 0x2E, 0x2F, 0x7F]) 5 0 0x10000 (collImg [])) 4098 5 0x60000 (bytesOf 128 [(0, 1, 5), (1, 1,
        1), (4, 4, 1), (16, 1, 0), (17, 1, 2), (18, 1, 0), (19, 1, 8), (20, 2, 16), (22, 2, 512), (24, 2, 32), (26, 1, 1), (27, 1, 4), (32, 4, 64), (38, 2,
        1), (48, 8, 0x4000000), (56, 8, 0x5000000)])) 4095 0x18 []
      let d : Dev := { e0 with eng := { e0.eng with runs := [(7, { use := .embed 0, ctx := 4095, cinc := 1, handle := 4098, base := 0x60000, core := 7, group := 3, step := .gather, lane := some 0, gather := some 9 })], groups := [(3, { ctx := 4095, cinc := 1, core := 7, mask := 0, want := 8, reserved := 255, run := 7 })] } , sb := { e0.sb with reqs := [(9, { inst := 1, use := .tokens 7, handle := 4099, version := 1, image := bytesOf 64 [(0, 1, 6), (1, 1, 1), (4, 4, 901), (12, 4, 64), (16, 1, 0), (17, 1, 0), (18, 2, 8), (24, 8, 0x40000), (40, 8, 0x70000)], keys := [5, 900], rows := [(0, none), (1, some (List.replicate 8 0))] })] } }
      let r : Nat := 7
      (match d.run? r with
      | some x =>
      decide (x.step = .gather) &&
      (match x.gather with
      | some n =>
      (match d.gather? n with
      | some g =>
      decide (g.complete = true) &&
      let sz := up64 (rtDim g.image * (if leAt g.image 50 1 = 0 then 4 else 2))
      let base := (x.w7 (d.runHdr x)).base + (d.runStage x x.stage).gatherOff
      let go : Dev × Put := (List.range g.keys.length).foldl (fun (acc : Dev × Put) u => if acc.2 = .done then acc.1.put x.ctx (base + u * sz) (tokenRowBytes g.image (Tab.getD g.rows u none)) else acc) (d, .done)
      let drops := ((List.range g.keys.length).filter (fun u => (Tab.getD g.rows u none).isNone)).length
      (match go with
      | (d1, .done) =>
      true
      | _ => false)
      | _ => false)
      | _ => false)
      | _ => false) : Bool) = true) ∧
    ((let e0 := running (withTbl (withTbl (devTbl [6, 7, 8, 0x17, 0x2E, 0x2F, 0x7F]) 5 0 0x10000 (collImg [])) 4098 5 0x60000 (bytesOf 128 [(0, 1, 5), (1, 1,
        1), (4, 4, 1), (16, 1, 0), (17, 1, 2), (18, 1, 0), (19, 1, 8), (20, 2, 16), (22, 2, 512), (24, 2, 32), (26, 1, 1), (27, 1, 4), (32, 4, 64), (38, 2,
        1), (48, 8, 0x4000000), (56, 8, 0x5000000)])) 4095 0x18 []
      let dz : Dev := { e0 with eng := { e0.eng with runs := [(7, { use := .embed 0, ctx := 4095, cinc := 1, handle := 4098, base := 0x60000, core := 7, group := 3, step := .gather, lane := some 0, gather := some 9 })], groups := [(3, { ctx := 4095, cinc := 1, core := 7, mask := 0, want := 8, reserved := 255, run := 7 })] } , sb := { e0.sb with reqs := [(9, { inst := 1, use := .tokens 7, handle := 4099, version := 1, image := bytesOf 64 [(0, 1, 6), (1, 1, 1), (4, 4, 901), (12, 4, 64), (16, 1, 0), (17, 1, 0), (18, 2, 8), (24, 8, 0x40000), (40, 8, 0x70000)], keys := [5, 900], rows := [(0, none), (1, some (List.replicate 8 0))] })] } }
      let d : Dev := dz.setPg 0xC R.blkCtl 0
      let r : Nat := 7
      (match d.run? r with
      | some x =>
      decide (x.step = .gather) &&
      (match x.gather with
      | some n =>
      (match d.gather? n with
      | some g =>
      decide (g.complete = true) &&
      let sz := up64 (rtDim g.image * (if leAt g.image 50 1 = 0 then 4 else 2))
      let base := (x.w7 (d.runHdr x)).base + (d.runStage x x.stage).gatherOff
      let go : Dev × Put := (List.range g.keys.length).foldl (fun (acc : Dev × Put) u => if acc.2 = .done then acc.1.put x.ctx (base + u * sz) (tokenRowBytes g.image (Tab.getD g.rows u none)) else acc) (d, .done)
      let drops := ((List.range g.keys.length).filter (fun u => (Tab.getD g.rows u none).isNone)).length
      (match go with
      | (d1, .wait) =>
      true
      | _ => false)
      | _ => false)
      | _ => false)
      | _ => false) : Bool) = true) ∧
    ((let e0 := running (withTbl (withTbl (devTbl [6, 7, 8, 0x17, 0x2E, 0x2F, 0x7F]) 5 0 0x10000 (collImg [])) 4098 5 0x60000 (bytesOf 128 [(0, 1, 5), (1, 1,
        1), (4, 4, 1), (16, 1, 0), (17, 1, 2), (18, 1, 0), (19, 1, 8), (20, 2, 16), (22, 2, 512), (24, 2, 32), (26, 1, 1), (27, 1, 4), (32, 4, 64), (38, 2,
        1), (48, 8, 0x4000000), (56, 8, 0x5000000), (48, 8, 2 ^ 52 * 4095)])) 4095 0x18 []
      let d : Dev := { e0 with eng := { e0.eng with runs := [(7, { use := .embed 0, ctx := 4095, cinc := 1, handle := 4098, base := 0x60000, core := 7, group := 3, step := .gather, lane := some 0, gather := some 9 })], groups := [(3, { ctx := 4095, cinc := 1, core := 7, mask := 0, want := 8, reserved := 255, run := 7 })] } , sb := { e0.sb with reqs := [(9, { inst := 1, use := .tokens 7, handle := 4099, version := 1, image := bytesOf 64 [(0, 1, 6), (1, 1, 1), (4, 4, 901), (12, 4, 64), (16, 1, 0), (17, 1, 0), (18, 2, 8), (24, 8, 0x40000), (40, 8, 0x70000)], keys := [5, 900], rows := [(0, none), (1, some (List.replicate 8 0))] })] } }
      let r : Nat := 7
      (match d.run? r with
      | some x =>
      decide (x.step = .gather) &&
      (match x.gather with
      | some n =>
      (match d.gather? n with
      | some g =>
      decide (g.complete = true) &&
      let sz := up64 (rtDim g.image * (if leAt g.image 50 1 = 0 then 4 else 2))
      let base := (x.w7 (d.runHdr x)).base + (d.runStage x x.stage).gatherOff
      let go : Dev × Put := (List.range g.keys.length).foldl (fun (acc : Dev × Put) u => if acc.2 = .done then acc.1.put x.ctx (base + u * sz) (tokenRowBytes g.image (Tab.getD g.rows u none)) else acc) (d, .done)
      let drops := ((List.range g.keys.length).filter (fun u => (Tab.getD g.rows u none).isNone)).length
      (match go with
      | (d1, .fail st) =>
      true
      | _ => false)
      | _ => false)
      | _ => false)
      | _ => false) : Bool) = true) ∧
    ((let d : Dev := { (running (withTbl (withTbl (devTbl [6, 7, 8, 0x17, 0xB]) 5 0 0x10000 (collImg [(90, 2, 4099)])) 4099 6 0x60000 (bytesOf 64 [(0, 1, 6), (1, 1, 1), (4, 4, 901), (12, 4, 64), (16, 1, 0), (17, 1, 0), (18, 2, 8), (24, 8, 0x40000), (40, 8, 0x70000)])) 4095 1 []) with srch := { all := [(4095, { coll := 5, image := (collImg [(90, 2, 4099)]), k := 1024, filter := List.replicate 64 0, binds := [(4099, 0)] })], queries := [((256 * 4095 + 255), { phase := .filter, core := 7, ordered := [] })] } }
      let sid := 4095
      let k := 255
      decide (sid < 16384) &&
      decide (k < 256) &&
      (match d.inPhase (qKey sid k) .filter with
      | some (s, y) =>
      decide (d.filterReq (qKey sid k) = none) &&
      decide (y.ordered.isEmpty = true)
      | _ => false) : Bool) = true) ∧
    ((let d : Dev := { (running (withTbl (withTbl (devTbl [6, 7, 8, 0x17, 0xB]) 5 0 0x10000 (collImg [(90, 2, 4099)])) 4099 6 0x60000 (bytesOf 64 [(0, 1, 6), (1, 1, 1), (4, 4, 901), (12, 4, 64), (16, 1, 0), (17, 1, 0), (18, 2, 8), (24, 8, 0x40000), (40, 8, 0x70000)])) 4095 1 []) with srch := { all := [(4095, { coll := 5, image := (collImg [(90, 2, 4099)]), k := 1024, filter := List.replicate 64 0, binds := [] })], queries := [((256 * 4095 + 255), { phase := .filter, core := 7, ordered := [{ key := 5, id := 7 }] })] } }
      let sid := 4095
      let k := 255
      decide (sid < 16384) &&
      decide (k < 256) &&
      (match d.inPhase (qKey sid k) .filter with
      | some (s, y) =>
      decide (d.filterReq (qKey sid k) = none) &&
      decide (y.ordered.isEmpty = false) &&
      decide (bindOf s.binds (cAttrTbl s.image) = none)
      | _ => false) : Bool) = true) ∧
    ((let d : Dev := { (running (withTbl (withTbl (devTbl [6, 7, 8, 0x17, 0xB]) 5 0 0x10000 (collImg [(90, 2, 4099)])) 4099 6 0x60000 (bytesOf 64 [(0, 1, 6), (1, 1, 1), (4, 4, 901), (12, 4, 64), (16, 1, 0), (17, 1, 0), (18, 2, 8), (24, 8, 0x40000), (40, 8, 0x70000)])) 4095 1 []) with srch := { all := [(4095, { coll := 5, image := (collImg [(90, 2, 4099)]), k := 1024, filter := List.replicate 64 0, binds := [(4099, 0)] })], queries := [((256 * 4095 + 255), { phase := .filter, core := 7, ordered := [{ key := 5, id := 7 }] })] } }
      let sid := 4095
      let k := 255
      decide (sid < 16384) &&
      decide (k < 256) &&
      (match d.inPhase (qKey sid k) .filter with
      | some (s, y) =>
      decide (d.filterReq (qKey sid k) = none) &&
      decide (y.ordered.isEmpty = false) &&
      (match bindOf s.binds (cAttrTbl s.image) with
      | some b =>
      true
      | _ => false)
      | _ => false) : Bool) = true) ∧
    ((let d : Dev := { (running (withTbl (withTbl (devTbl [6, 7, 8, 0x17, 0xB]) 5 0 0x10000 (collImg [(90, 2, 4099)])) 4099 6 0x60000 (bytesOf 64 [(0, 1, 6), (1, 1, 1), (4, 4, 901), (12, 4, 64), (16, 1, 0), (17, 1, 0), (18, 2, 8), (24, 8, 0x40000), (40, 8, 0x70000)])) 4095 1 []) with srch := { all := [(4095, { coll := 5, image := (collImg [(90, 2, 4099)]), k := 1024, filter := List.replicate 64 0, binds := [(4099, 0)] })], queries := [((256 * 4095 + 255), { phase := .filter, core := 7, ordered := [{ key := 5, id := 7 }] })] }, sb := { reqs := [(9, { inst := 1, use := .filter (256 * 4095 + 255), handle := 4099, version := 1, image := bytesOf 64 [(0, 1, 6), (1, 1, 1), (4, 4, 901), (12, 4, 64), (16, 1, 0), (17, 1, 0), (18, 2, 8), (24, 8, 0x40000), (40, 8, 0x70000)], keys := [7], begun := [0], rows := [(0, some (List.replicate 8 0))] })] } }
      let sid := 4095
      let k := 255
      decide (sid < 16384) &&
      decide (k < 256) &&
      (match d.inPhase (qKey sid k) .filter with
      | some (s, y) =>
      (match d.filterReq (qKey sid k) with
      | some (n, g) =>
      let z := filterRun s.k s.filter g.rows y.ordered.length y
      decide (s.k ≤ z.survivors.length ∨ y.ordered.length ≤ z.evaluated)
      | _ => false)
      | _ => false) : Bool) = true) ∧
    ((let d : Dev := { (running (withTbl (withTbl (devTbl [6, 7, 8, 0x17, 0xB]) 5 0 0x10000 (collImg [(90, 2, 4099)])) 4099 6 0x60000 (bytesOf 64 [(0, 1, 6), (1, 1, 1), (4, 4, 901), (12, 4, 64), (16, 1, 0), (17, 1, 0), (18, 2, 8), (24, 8, 0x40000), (40, 8, 0x70000)])) 4095 1 []) with srch := { all := [(4095, { coll := 5, image := (collImg [(90, 2, 4099)]), k := 1024, filter := List.replicate 64 0, binds := [(4099, 0)] })], queries := [((256 * 4095 + 255), { phase := .filter, core := 7, ordered := [{ key := 5, id := 7 }] })] }, sb := { reqs := [(9, { inst := 1, use := .filter (256 * 4095 + 255), handle := 4099, version := 1, image := bytesOf 64 [(0, 1, 6), (1, 1, 1), (4, 4, 901), (12, 4, 64), (16, 1, 0), (17, 1, 0), (18, 2, 8), (24, 8, 0x40000), (40, 8, 0x70000)], keys := [7], begun := [0], rows := [] })] } }
      let sid := 4095
      let k := 255
      decide (sid < 16384) &&
      decide (k < 256) &&
      (match d.inPhase (qKey sid k) .filter with
      | some (s, y) =>
      (match d.filterReq (qKey sid k) with
      | some (n, g) =>
      let z := filterRun s.k s.filter g.rows y.ordered.length y
      decide (z.survivors.length < s.k) &&
      decide (z.evaluated < y.ordered.length)
      | _ => false)
      | _ => false) : Bool) = true) := by decide +kernel

end Sys2Proof.Tests
end

