-- ==== Sys2Proof/Tests/WitnessUnits.lean ====
section
/-! SUPPORT. Witnesses: states and operands that meet the hypotheses of each clause of a statement. Registers, boot, flash, placement, leases. -/

namespace Sys2Proof.Tests
open Sys2Proof Sys2Proof.Machine
set_option linter.unusedVariables false
set_option Elab.async false

/-- Clause by clause, the hypotheses of `Obligations.RegisterAndControlWrites` are met. -/
theorem witness_RegisterAndControlWrites :
    ((let d : Dev := devOn [0x7F]
      let m : Master := .core 15
      let b : Blk := .engine
      let n : Nat := 63
      let p : Nat := 0x7F
      let off : Nat := 0x100
      let v : Word := 0x10
      decide (p = b.page n) &&
      decide (d.pageUnit p = some (b, n)) &&
      decide (p < 0x1400) &&
      decide (off < 65536) &&
      decide (off % 4 = 0) &&
      decide (onPage b n off = true) : Bool) = true) ∧
    ((let d : Dev := devOn [0x7F]
      let m : Master := .core 15
      let b : Blk := .engine
      let n : Nat := 63
      let p : Nat := 0x7F
      let off : Nat := 0xFFFF
      let v : Word := 0x10
      decide (p = b.page n) &&
      decide (d.pageUnit p = some (b, n)) &&
      decide (p < 0x1400) &&
      decide (off < 65536) &&
      decide (off % 4 ≠ 0) : Bool) = true) ∧
    ((let d : Dev := devOn [0x7F]
      let m : Master := .core 15
      let b : Blk := .engine
      let n : Nat := 63
      let p : Nat := 0x7F
      let p' : Nat := 0x1400
      let off : Nat := 4
      let v : Word := 1
      decide (p = b.page n) &&
      decide (d.pageUnit p = some (b, n)) &&
      decide (p < 0x1400) &&
      decide (0x1400 ≤ p') : Bool) = true) ∧
    ((let d : Dev := devOn [0x7F]
      let m : Master := .core 15
      let b : Blk := .engine
      let n : Nat := 63
      let p : Nat := 0x7F
      decide (p = b.page n) &&
      decide (d.pageUnit p = some (b, n)) &&
      decide (p < 0x1400) &&
      decide (b ≠ .fn) : Bool) = true) ∧
    ((let d : Dev := devOn [0x7F]
      let m : Master := .core 15
      let b : Blk := .fn
      let n : Nat := 1023
      let p : Nat := 0x13FF
      decide (p = b.page n) &&
      decide (d.pageUnit p = some (b, n)) &&
      decide (p < 0x1400) &&
      decide (b = .fn) : Bool) = true) ∧
    ((let d : Dev := devOn [0x7F]
      let m : Master := .core 15
      let b : Blk := .engine
      let n : Nat := 63
      let p : Nat := 0x7F
      let on := true
      decide (p = b.page n) &&
      decide (d.pageUnit p = some (b, n)) &&
      decide (p < 0x1400) &&
      decide (b ≠ .fn) &&
      decide (d.resetting.contains p = false) : Bool) = true) ∧
    ((let d0 := devOn [2]
      let d : Dev := { d0 with resetting := [2] }
      let m : Master := .core 15
      let b : Blk := .ras
      let n : Nat := 0
      let p : Nat := 2
      decide (p = b.page n) &&
      decide (d.pageUnit p = some (b, n)) &&
      decide (p < 0x1400) &&
      decide (b ≠ .fn) &&
      decide (d.resetting.contains p = true) : Bool) = true) ∧
    ((let d : Dev := devOn [0x7F]
      let m : Master := .core 15
      let b : Blk := .fn
      let n : Nat := 1023
      let p : Nat := 0x13FF
      let on := true
      decide (p = b.page n) &&
      decide (d.pageUnit p = some (b, n)) &&
      decide (p < 0x1400) &&
      decide (b = .fn) : Bool) = true) ∧
    ((let d : Dev := devOn [0x7F]
      let m : Master := .core 15
      let b : Blk := .engine
      let n : Nat := 63
      let p : Nat := 0x7F
      let on := false
      decide (p = b.page n) &&
      decide (d.pageUnit p = some (b, n)) &&
      decide (p < 0x1400) &&
      decide (b ≠ .fn) : Bool) = true) ∧
    ((let d : Dev := devOn [0x7F]
      let m : Master := .core 15
      let b : Blk := .engine
      let n : Nat := 63
      let p : Nat := 0x7F
      let v : Word := 1
      decide (p = b.page n) &&
      decide (d.pageUnit p = some (b, n)) &&
      decide (p < 0x1400) : Bool) = true) ∧
    ((let d : Dev := devOn [0x7F]
      let m : Master := .core 15
      let b : Blk := .engine
      let n : Nat := 63
      let p : Nat := 0x7F
      let v : Word := 1
      decide (p = b.page n) &&
      decide (d.pageUnit p = some (b, n)) &&
      decide (p < 0x1400) : Bool) = true) ∧
    ((let d : Dev := devOn [0x7F]
      let m : Master := .core 15
      let b : Blk := .engine
      let n : Nat := 63
      let p : Nat := 0x7F
      let v : Word := 1
      decide (p = b.page n) &&
      decide (d.pageUnit p = some (b, n)) &&
      decide (p < 0x1400) : Bool) = true) ∧
    ((let d : Dev := devOn [0x7F]
      let m : Master := .core 15
      let b : Blk := .engine
      let n : Nat := 63
      let p : Nat := 0x7F
      let mask : BitVec 72 := 2 ^ 71
      decide (p = b.page n) &&
      decide (d.pageUnit p = some (b, n)) &&
      decide (p < 0x1400) : Bool) = true) := by decide +kernel

/-- Clause by clause, the hypotheses of `Obligations.CountersClearAndLatch` are met. -/
theorem witness_CountersClearAndLatch :
    ((let d : Dev := devOn [0x7F]
      let m : Master := .core 15
      let b : Blk := .engine
      let n : Nat := 63
      let p : Nat := 0x7F
      let bank : Nat := 255
      decide (p = b.page n) &&
      decide (d.pageUnit p = some (b, n)) &&
      decide (p < 0x1400) &&
      decide (bank % 256 ≠ 1 ∨ (b ≠ .ras ∧ b ≠ .rein)) : Bool) = true) ∧
    ((let d : Dev := devOn [0x7F]
      let m : Master := .core 15
      let b : Blk := .ras
      let n : Nat := 0
      let p : Nat := 2
      let bank : Nat := 257
      decide (p = b.page n) &&
      decide (d.pageUnit p = some (b, n)) &&
      decide (p < 0x1400) &&
      decide (bank % 256 = 1) &&
      decide (b = .ras) : Bool) = true) ∧
    ((let d : Dev := devOn [0x7F]
      let m : Master := .core 15
      let b : Blk := .rein
      let n : Nat := 95
      let p : Nat := pgRein 95
      let bank : Nat := 1
      decide (p = b.page n) &&
      decide (d.pageUnit p = some (b, n)) &&
      decide (p < 0x1400) &&
      decide (bank % 256 = 1) &&
      decide (b = .rein) : Bool) = true) ∧
    ((let d : Dev := devOn [0x7F]
      let m : Master := .core 15
      let b : Blk := .engine
      let n : Nat := 63
      let p : Nat := 0x7F
      let x : Nat := 22
      decide (p = b.page n) &&
      decide (d.pageUnit p = some (b, n)) &&
      decide (p < 0x1400) &&
      decide (x < 23) : Bool) = true) ∧
    ((let d : Dev := devOn [0x7F]
      let m : Master := .core 15
      let b : Blk := .engine
      let n : Nat := 63
      let p : Nat := 0x7F
      let x : Nat := 23
      decide (p = b.page n) &&
      decide (d.pageUnit p = some (b, n)) &&
      decide (p < 0x1400) &&
      decide (23 ≤ x) : Bool) = true) := by decide +kernel

/-- Clause by clause, the hypotheses of `Obligations.ReadsWithEffects` are met. -/
theorem witness_ReadsWithEffects :
    ((true : Bool) = true) ∧
    ((let d : Dev := devOn [6, 8]
      let m : Master := .core 15
      let k : Nat := 15
      decide (k < 16) : Bool) = true) ∧
    ((true : Bool) = true) ∧
    ((let d : Dev := devOn [6, 8]
      let m : Master := .core 15
      let e : Nat := 63
      decide (e < d.part.engines) : Bool) = true) ∧
    ((true : Bool) = true) ∧
    ((true : Bool) = true) ∧
    ((let d : Dev := devOn [6, 8]
      let m : Master := .core 15
      let c : Nat := 15
      decide (c < 16) : Bool) = true) ∧
    ((let d : Dev := devOn [6, 8]
      let m : Master := .core 15
      let c : Nat := 15
      let v : Word := 5
      decide (c < 16) : Bool) = true) ∧
    ((let d : Dev := devOn [6, 8]
      let m : Master := .core 15
      let i : Nat := 95
      decide (i < 96) &&
      decide (d.pageUnit (pgRein i) = some (.rein, i)) : Bool) = true) ∧
    ((true : Bool) = true) ∧
    ((let d : Dev := { dev0 with brd := { dev0.brd with phase := .done } }
      let m : Master := .smbus
      let fu : Fuses := State.reset.fuses
      decide (d.brd.phase ≠ .off) : Bool) = true) ∧
    ((let d : Dev := { dev0 with brd := { dev0.brd with phase := .done } }
      let m : Master := .smbus
      let fu : Fuses := State.reset.fuses
      decide (d.brd.phase ≠ .off) : Bool) = true) ∧
    ((let d : Dev := { dev0 with brd := { dev0.brd with phase := .done } }
      let m : Master := .smbus
      let fu : Fuses := State.reset.fuses
      let off : Nat := 0x4FFFC
      decide (d.brd.phase ≠ .off) &&
      decide (off % 2 ^ 32 < 0x50000) &&
      (match (d.bump pgBrand 0 3).regLoad fu .smbus (regBase + off % 2 ^ 32) 4 with
      | (e, b) =>
      true) : Bool) = true) ∧
    ((let d : Dev := { dev0 with brd := { dev0.brd with phase := .done } }
      let m : Master := .smbus
      let fu : Fuses := State.reset.fuses
      let off : Nat := 0x4FFFC
      let v : Word := 1
      decide (d.brd.phase ≠ .off) &&
      decide (off % 2 ^ 32 < 0x50000) : Bool) = true) ∧
    ((let d : Dev := { dev0 with brd := { dev0.brd with phase := .done } }
      let m : Master := .smbus
      let fu : Fuses := State.reset.fuses
      let off : Nat := 0x50000
      decide (d.brd.phase ≠ .off) &&
      decide (0x50000 ≤ off % 2 ^ 32) : Bool) = true) ∧
    ((let d : Dev := { dev0 with brd := { dev0.brd with phase := .done } }
      let m : Master := .smbus
      let fu : Fuses := State.reset.fuses
      let off : Nat := 0xFFFFFFFF
      let v : Word := 1
      decide (d.brd.phase ≠ .off) &&
      decide (0x50000 ≤ off % 2 ^ 32) : Bool) = true) ∧
    ((let d : Dev := { dev0 with brd := { dev0.brd with phase := .done } }
      let m : Master := .smbus
      let fu : Fuses := State.reset.fuses
      let off : Nat := 0x4FFFC
      let v : Word := 1
      decide (d.brd.phase ≠ .off) : Bool) = true) ∧
    ((let d : Dev := { dev0 with brd := { dev0.brd with phase := .done } }
      let m : Master := .smbus
      let fu : Fuses := State.reset.fuses
      let off : Nat := 0x4FFFC
      let v : Word := 1
      decide (d.brd.phase ≠ .off) : Bool) = true) := by decide +kernel

/-- Clause by clause, the hypotheses of `Obligations.BrandOperations` are met. -/
theorem witness_BrandOperations :
    ((let d : Dev := dev0.setRg R.brdBootStat (w32 (127 * 65536))
      let fu : Fuses := State.reset.fuses
      let v : Nat := 255
      decide (d.brd.op = none) &&
      decide (v % 128 ≤ d.runVersion) &&
      decide (fu.arb < v % 128) : Bool) = true) ∧
    ((let d : Dev := dev0.setRg R.brdBootStat (w32 (126 * 65536))
      let fu : Fuses := State.reset.fuses
      let v : Nat := 255
      decide (d.brd.op = none) &&
      decide (d.runVersion < v % 128 ∨ v % 128 ≤ fu.arb) : Bool) = true) ∧
    ((let d : Dev := dev0
      let fu : Fuses := { keys := [(0, natLe 64 5), (3, natLe 64 7)] }
      let k : Nat := 7
      let key : Nat := 0xFA5
      let j : Nat := 0
      decide (d.brd.op = none) &&
      decide (key % 256 = 0xA5) &&
      decide (k % 4 ≠ d.runSlot) &&
      decide (j < 4) &&
      decide (j ≠ k % 4) &&
      decide (fu.good j = true) : Bool) = true) ∧
    ((let d : Dev := dev0
      let fu : Fuses := State.reset.fuses
      let k : Nat := 3
      let key : Nat := 0xA6
      decide (d.brd.op = none) &&
      decide (key % 256 ≠ 0xA5) : Bool) = true) ∧
    ((let d : Dev := dev0
      let fu : Fuses := State.reset.fuses
      let k : Nat := 4
      let key : Nat := 0xA5
      decide (d.brd.op = none) &&
      decide (key % 256 = 0xA5) &&
      decide (k % 4 = d.runSlot) : Bool) = true) ∧
    ((let d : Dev := { dev0 with brd := { dev0.brd with op := some (.extend 7 []) } }
      let fu : Fuses := State.reset.fuses
      let k : Nat := 255
      let key : Nat := 0xA5
      (match d.brd.op with
      | some o =>
      true
      | _ => false) : Bool) = true) ∧
    ((let d : Dev := { dev0 with brd := { dev0.brd with op := some (.extend 7 []) } }
      let fu : Fuses := State.reset.fuses
      let k : Nat := 255
      let key : Nat := 0xA5
      (match d.brd.op with
      | some o =>
      true
      | _ => false) : Bool) = true) ∧
    ((let d : Dev := { dev0 with brd := { dev0.brd with op := some (.extend 7 []) } }
      let fu : Fuses := State.reset.fuses
      let k : Nat := 255
      let key : Nat := 0xA5
      (match d.brd.op with
      | some o =>
      true
      | _ => false) : Bool) = true) ∧
    ((let d : Dev := dev0
      let fu : Fuses := State.reset.fuses
      let k : Nat := 7
      decide (d.brd.op = none) &&
      decide (k % 4 ≠ d.runSlot) &&
      decide (fu.programmed (k % 4) = false) &&
      decide (k % 4 ∉ fu.revoked) &&
      let a := d.addr52 R.brdKeyAddrLo R.brdKeyAddrHi
      decide (d.seatArg a 64 = true) : Bool) = true) ∧
    ((let d : Dev := dev0
      let i : Nat := 15
      decide (d.brd.op = none) &&
      decide (3 ≤ i % 8) &&
      let a := d.addr52 R.brdExtAddrLo R.brdExtAddrHi
      decide (d.seatArg a 64 = true) : Bool) = true) ∧
    ((let d : Dev := dev0
      decide (d.brd.op = none) &&
      let a := d.addr52 R.brdQuoteAddrLo R.brdQuoteAddrHi
      decide (d.seatArg a 768 = true) : Bool) = true) ∧
    ((let op : BrandOp := .commit 127
      let d : Dev := { dev0 with brd := { dev0.brd with op := some op } }
      let fu : Fuses := State.reset.fuses
      let bad : Nat := 0
      decide (d.brd.op = some op) &&
      decide (fu.fails op bad = false) : Bool) = true) ∧
    ((let op : BrandOp := .commit 127
      let d : Dev := { dev0 with brd := { dev0.brd with op := some op } }
      let fu : Fuses := State.reset.fuses
      let bad : Nat := 85070591730234615865843651857942052864
      decide (d.brd.op = some op) &&
      decide (fu.fails op bad = true) : Bool) = true) ∧
    ((let d : Dev := dev0
      let fu : Fuses := State.reset.fuses
      decide (fu.debugLock = false) &&
      decide (d.fd R.brdDebug 1 1 ≠ 1) : Bool) = true) ∧
    ((let d : Dev := dev0
      let fu : Fuses := State.reset.fuses
      let c : Nat := 15
      let mask : Nat := 0x8000
      decide (1 ≤ c) &&
      decide (c < 16) &&
      decide (mask.testBit c = true) &&
      decide (c ∉ d.brd.running) : Bool) = true) := by decide +kernel

/-- Clause by clause, the hypotheses of `Obligations.BootFromFlash` are met. -/
theorem witness_BootFromFlash :
    ((let d : Dev := dev0
      let fu : Fuses := fuses3
      let hdr := hdr0
      let torn : Nat := 3
      let again : List Byte := []
      decide (d.pins.resetN = false) &&
      let fu' := (d.brd.op.map (fun op => fu.program op torn)).getD fu
      let h := (if hNoMedia hdr then again else hdr)
      let d1 := (bootPages d.part).foldl (fun d p => d.setPg p R.blkCtl 1) d.coldReset
      decide (hCause fu' h = 0) : Bool) = true) ∧
    ((let d : Dev := { dev0 with brd := { dev0.brd with op := some (.commit 5) } }
      let fu : Fuses := State.reset.fuses
      let hdr : List Byte := [1]
      let torn : Nat := 3
      let again : List Byte := []
      decide (d.pins.resetN = false) &&
      let fu' := (d.brd.op.map (fun op => fu.program op torn)).getD fu
      let h := (if hNoMedia hdr then again else hdr)
      let d1 := (bootPages d.part).foldl (fun d p => d.setPg p R.blkCtl 1) d.coldReset
      decide (hCause fu' h ≠ 0) : Bool) = true) ∧
    ((let d : Dev := { dev0 with brd := { dev0.brd with op := some (.commit 5) } }
      let fu : Fuses := State.reset.fuses
      let hdr : List Byte := [1]
      let torn : Nat := 3
      let again : List Byte := []
      decide (d.pins.resetN = false) : Bool) = true) ∧
    ((let d : Dev := { dev0 with brd := { dev0.brd with op := some (.commit 5) } }
      let fu : Fuses := State.reset.fuses
      let hdr : List Byte := [1]
      let torn : Nat := 3
      let again : List Byte := []
      let r := true
      decide (d.pins.resetN = false) : Bool) = true) ∧
    ((let d : Dev := { dev0 with brd := { dev0.brd with phase := .body, header := hdr0 } }
      let body : List Byte := natLe 64 0
      decide (d.brd.phase = .body) &&
      let h := d.brd.header
      let d1 := d.store (hLoad h) (slice body 0 (hBodyLen h))
      decide (d1.bodyGood h = true) : Bool) = true) ∧
    ((let d : Dev := { dev0 with brd := { dev0.brd with phase := .body, header := hdr0 } }
      let body : List Byte := natLe 64 1
      decide (d.brd.phase = .body) &&
      let h := d.brd.header
      let d1 := d.store (hLoad h) (slice body 0 (hBodyLen h))
      decide (d1.bodyGood h = false) : Bool) = true) ∧
    ((let d : Dev := { dev0 with brd := { dev0.brd with phase := .trainWait } }
      let failed : Nat := 0x8001
      decide (d.brd.phase = .trainWait) &&
      decide (d.brd.hideTrained = false) &&
      let d1 := ((List.range 16).filter (fun n => failed.testBit n)).foldl (fun d n => d.stackDown n) d
      decide (d1.brd.phase = .trainWait) : Bool) = true) ∧
    ((let d : Dev := { dev0 with brd := { dev0.brd with phase := .body } }
      let failed : Nat := 0x8001
      decide (d.brd.phase ≠ .off) &&
      decide (d.brd.phase ≠ .halted) &&
      decide (d.brd.hideTrained = false) &&
      let d1 := ((List.range 16).filter (fun n => failed.testBit n)).foldl (fun d n => d.stackDown n) d
      decide (d1.brd.phase ≠ .trainWait) : Bool) = true) := by decide +kernel

/-- Clause by clause, the hypotheses of `Obligations.NetworkRecovery` are met. -/
theorem witness_NetworkRecovery :
    ((let d : Dev := { dev0 with now := 192000000000, brd := { dev0.brd with phase := .fabric, rcv := { stage := .link } } }
      let r : Recovery := d.brd.rcv
      decide (d.brd.phase = .fabric) &&
      decide (r.since + secCycles 120 ≤ d.now) : Bool) = true) ∧
    ((let d : Dev := { dev0 with now := 1600000000, brd := { dev0.brd with phase := .network, rcv := { stage := .link } } }
      let r : Recovery := d.brd.rcv
      decide (d.brd.phase = .network) &&
      decide (r.stage = .link) &&
      decide (r.fecAt + secCycles 1 ≤ d.now) : Bool) = true) ∧
    ((let d : Dev := { dev0 with now := 0, brd := { dev0.brd with phase := .network, rcv := { stage := .discover } } }
      let file : List Byte := [0x41]
      let server : Nat := 1
      let addr : Nat := 5
      let mask : Nat := 0
      let router : Nat := 0
      let r : Recovery := d.brd.rcv
      decide (d.brd.phase = .network) &&
      decide (r.stage = .discover) &&
      decide (file ≠ []) &&
      decide (server ≠ 0) : Bool) = true) ∧
    ((let d : Dev := { dev0 with now := 0, brd := { dev0.brd with phase := .network, rcv := { stage := .request, leased := 5 } } }
      let mask : Nat := 0
      let router : Nat := 0
      let server : Nat := 1
      let file : List Byte := []
      let r : Recovery := d.brd.rcv
      decide (d.brd.phase = .network) &&
      decide (r.stage = .request) : Bool) = true) ∧
    ((let d : Dev := { dev0 with now := 12800000000, brd := { dev0.brd with phase := .network, rcv := { stage := .request, tries := 1 } } }
      let r : Recovery := d.brd.rcv
      decide (d.brd.phase = .network) &&
      decide (r.stage = .discover ∨ r.stage = .request) &&
      decide (r.sentAt + secCycles (4 * 2 ^ r.tries) ≤ d.now) &&
      decide (r.tries ≠ 2) : Bool) = true) ∧
    ((let d : Dev := { dev0 with now := 25600000000, brd := { dev0.brd with phase := .network, rcv := { stage := .discover, tries := 2 } } }
      let r : Recovery := d.brd.rcv
      decide (d.brd.phase = .network) &&
      decide (r.stage = .discover ∨ r.stage = .request) &&
      decide (r.sentAt + secCycles 16 ≤ d.now) &&
      decide (r.tries = 2) : Bool) = true) ∧
    ((let d : Dev := { dev0 with now := 0, brd := { dev0.brd with phase := .network, rcv := { stage := .tftp, leased := 5 } } }
      let mac : Nat := 7
      let r : Recovery := d.brd.rcv
      decide (d.brd.phase = .network) &&
      decide (r.stage = .arp ∨ r.stage = .tftp) &&
      decide (r.leased ≠ 0) : Bool) = true) ∧
    ((let d : Dev := { dev0 with now := 0, brd := { dev0.brd with phase := .network, rcv := { stage := .arp, leased := 5 } } }
      let mac : Nat := 7
      let r : Recovery := d.brd.rcv
      decide (d.brd.phase = .network) &&
      decide (r.stage = .arp) : Bool) = true) ∧
    ((let d : Dev := { dev0 with now := 0, brd := { dev0.brd with phase := .network, rcv := { stage := .tftp } } }
      let n : Nat := 512
      let data : List Byte := []
      let r : Recovery := d.brd.rcv
      decide (d.brd.phase = .network) &&
      decide (r.stage = .tftp) &&
      decide (r.block = 0) &&
      decide (r.got = []) : Bool) = true) ∧
    ((let fu : Fuses := State.reset.fuses
      let d : Dev := { dev0 with now := 0, brd := { dev0.brd with phase := .network, rcv := { stage := .tftp, block := 65535 } } }
      let data : List Byte := [1]
      let r : Recovery := d.brd.rcv
      decide (d.brd.phase = .network) &&
      decide (r.stage = .tftp) : Bool) = true) ∧
    ((let d : Dev := { dev0 with now := 0, brd := { dev0.brd with phase := .network, rcv := { stage := .tftp, block := 65535 } } }
      let data : List Byte := [1]
      let r : Recovery := d.brd.rcv
      decide (d.brd.phase = .network) &&
      decide (r.stage = .tftp) : Bool) = true) ∧
    ((let d : Dev := { dev0 with now := 1600000000, brd := { dev0.brd with phase := .network, rcv := { stage := .tftp, tries := 4, block := 1 } } }
      let r : Recovery := d.brd.rcv
      decide (d.brd.phase = .network) &&
      decide (r.stage = .tftp) &&
      decide (r.sentAt + secCycles 1 ≤ d.now) &&
      decide (r.tries < 5) : Bool) = true) ∧
    ((let d : Dev := { dev0 with now := 1600000000, brd := { dev0.brd with phase := .network, rcv := { stage := .tftp, tries := 5, block := 1 } } }
      let r : Recovery := d.brd.rcv
      decide (d.brd.phase = .network) &&
      decide (r.stage = .tftp) &&
      decide (r.sentAt + secCycles 1 ≤ d.now) &&
      decide (5 ≤ r.tries) : Bool) = true) ∧
    ((let d : Dev := { dev0.setRg R.brdRcvCfg 0x20000 with now := 192000000000, brd := { dev0.brd with phase := .network, rcv := { stage := .link } } }
      let r : Recovery := d.brd.rcv
      decide (d.brd.phase = .network) &&
      decide (r.since + secCycles 120 ≤ d.now) : Bool) = true) := by decide +kernel

/-- Clause by clause, the hypotheses of `Obligations.FlashChannels` are met. -/
theorem witness_FlashChannels :
    ((let d : Dev := { devOn [9] with flash := { ch := [(0, { up := true, inService := true, dies := 4, planes := 4, blocksPerDie := 512, pagesPerBlock := 1024, ident := 0 :: List.replicate 20 0 })] } }
      let c : Nat := 47
      let p : FlashProbe := { dies := 4, planes := 4, blocksPerDie := 512, pagesPerBlock := 1024 }
      decide (c < d.part.channels) &&
      decide ((Tab.getD d.flash.ch c {}).up = false) &&
      decide (d.runs pgCur = true) &&
      decide (c = 0 ∨ d.chanUp 0 = true) : Bool) = true) ∧
    ((let d : Dev := devOn [9]
      let c : Nat := 47
      decide (c < d.part.channels) : Bool) = true) ∧
    ((let d : Dev := devOn [9]
      let c : Nat := 47
      decide (c < d.part.channels) : Bool) = true) ∧
    ((let d : Dev := { ((devOn [9, 7]).setFd R.curStat 3 0 2) with now := 1600000000, reins := [(79, { given := [.flash 3 .calibrate 0] })], flash := { ch := [(47, { up := true, inService := true, dies := 4, planes := 4, blocksPerDie := 512, pagesPerBlock := 1024 })] } }
      let c : Nat := 47
      let die : Nat := 3
      decide (c < d.part.channels) &&
      (match d.chan? c with
      | some x =>
      decide (die < 16) &&
      decide (die < x.dies) &&
      decide (d.chanRuns c = true) &&
      decide (x.progs.all (fun p => p.die != die)) &&
      decide (x.reads.all (fun r => r.decoded)) &&
      decide (Tab.getD x.zqAt die 0 + msCycles (max (d.fd R.curOnfi 15 8) 1) ≤ d.now) &&
      let its := [d.flashItem c die .calibrate 0 64 d.workCharge]
      decide (d.reinGiven (chanRein c) its = true)
      | _ => false) : Bool) = true) ∧
    ((let d : Dev := { ((devOn [9, 7]).setFd R.curStat 3 0 2) with reins := [(79, { given := [.flash 3 (.map 3) 0] })], flash := { ch := [(47, { up := true, inService := true, dies := 4, planes := 4, blocksPerDie := 512, pagesPerBlock := 1024, dirty := [(3, 0)] })] } }
      let c : Nat := 47
      let page : Nat := 3
      decide (c < d.part.channels) &&
      (match d.chan? c with
      | some x =>
      decide (d.chanRuns c = true) &&
      decide (Tab.has x.dirty page = true) &&
      let its := [d.flashItem c (page % max x.dies 1) (.map page) 0 4096 d.workCharge]
      decide (d.reinGiven (chanRein c) its = true)
      | _ => false) : Bool) = true) ∧
    ((let d : Dev := { ((devOn [9, 7]).setFd R.curStat 3 0 2) with flash := { ch := [(47, { up := true, inService := true, dies := 4, planes := 4, blocksPerDie := 512, pagesPerBlock := 1024, dirty := [(3, 0)] })] } }
      let c : Nat := 47
      let page : Nat := 3
      decide (c < d.part.channels) &&
      (match d.chan? c with
      | some x =>
      decide (d.chanRuns c = true) &&
      decide (Tab.has x.dirty page = true) &&
      let its := [d.flashItem c (page % max x.dies 1) (.map page) 0 4096 d.workCharge]
      decide (d.reinGiven (chanRein c) its = false)
      | _ => false) : Bool) = true) ∧
    ((let d : Dev := { ((devOn [9, 7]).setFd R.curStat 3 0 2) with reins := [(79, { given := [.flash 0 (.read 1 2) 0] })], flash := { ch := [(47, { up := true, inService := true, dies := 4, planes := 4, blocksPerDie := 512, pagesPerBlock := 1024, reads := [{ obj := 1, ounit := 2, lu := 3 }] })] } }
      let c : Nat := 47
      let lu : Nat := 3
      let step : Nat := 5
      let bits : Nat := 0
      decide (c < d.part.channels) &&
      (match d.chan? c with
      | some x =>
      (match x.reads.find? (fun r => r.lu == lu && !r.decoded) with
      | some r =>
      decide (d.reinGiven (chanRein c) (d.readItems c r) = true) &&
      let d1 := (if 2 ≤ step then (d.reinUse (chanRein c) (d.readItems c r)).bump pgCur 0 3 else d.reinUse (chanRein c) (d.readItems c r))
      let y : Channel := { x with reads := x.reads.map (fun q => if q.lu == lu then { q with decoded := true } else q) }
      decide (5 ≤ step ∨ step = 4 ∧ (∀ k, r.block = some k → (x.block k).st ≠ .opened ∧ (x.block k).st ≠ .full))
      | _ => false)
      | _ => false) : Bool) = true) ∧
    ((let d : Dev := { ((devOn [9, 7]).setFd R.curStat 3 0 2) with reins := [(79, { given := [.flash 0 (.read 1 2) 0] })], flash := { ch := [(47, { up := true, inService := true, dies := 4, planes := 4, blocksPerDie := 512, pagesPerBlock := 1024, reads := [{ obj := 1, ounit := 2, lu := 3 }] })] } }
      let c : Nat := 47
      let lu : Nat := 3
      let step : Nat := 1
      let bits : Nat := 0
      decide (c < d.part.channels) &&
      (match d.chan? c with
      | some x =>
      (match x.reads.find? (fun r => r.lu == lu && !r.decoded) with
      | some r =>
      decide (d.reinGiven (chanRein c) (d.readItems c r) = true) &&
      let d1 := (if 2 ≤ step then (d.reinUse (chanRein c) (d.readItems c r)).bump pgCur 0 3 else d.reinUse (chanRein c) (d.readItems c r))
      let y : Channel := { x with reads := x.reads.map (fun q => if q.lu == lu then { q with decoded := true } else q) }
      decide (step < 2) &&
      decide (bits ≤ d1.fd R.curLdpc 15 8)
      | _ => false)
      | _ => false) : Bool) = true) ∧
    ((let d : Dev := { ((devOn [9, 7]).setFd R.curStat 3 0 2) with reins := [(79, { given := [.flash 0 (.read 1 2) 0] })], flash := { ch := [(47, { up := true, inService := true, dies := 4, planes := 4, blocksPerDie := 512, pagesPerBlock := 1024, reads := [{ obj := 1, ounit := 2, lu := 3, block := some 5 }], blocks := [(5, { st := .full })] })] } }
      let c : Nat := 47
      let lu : Nat := 3
      let step : Nat := 4
      let bits : Nat := 0
      let k : Nat := 5
      decide (c < d.part.channels) &&
      (match d.chan? c with
      | some x =>
      (match x.reads.find? (fun r => r.lu == lu && !r.decoded) with
      | some r =>
      decide (d.reinGiven (chanRein c) (d.readItems c r) = true) &&
      let d1 := (if 2 ≤ step then (d.reinUse (chanRein c) (d.readItems c r)).bump pgCur 0 3 else d.reinUse (chanRein c) (d.readItems c r))
      let y : Channel := { x with reads := x.reads.map (fun q => if q.lu == lu then { q with decoded := true } else q) }
      decide (step = 4) &&
      decide (r.block = some k) &&
      decide ((x.block k).st = .opened ∨ (x.block k).st = .full)
      | _ => false)
      | _ => false) : Bool) = true) ∧
    ((let d : Dev := { ((devOn [9, 7]).setFd R.curStat 3 0 2) with reins := [(79, { given := [.flash 0 (.read 1 2) 0] })], flash := { ch := [(47, { up := true, inService := true, dies := 4, planes := 4, blocksPerDie := 512, pagesPerBlock := 1024, reads := [{ obj := 1, ounit := 2, lu := 3 }] })] } }
      let c : Nat := 47
      let lu : Nat := 3
      let step : Nat := 3
      let bits : Nat := 0
      decide (c < d.part.channels) &&
      (match d.chan? c with
      | some x =>
      (match x.reads.find? (fun r => r.lu == lu && !r.decoded) with
      | some r =>
      decide (d.reinGiven (chanRein c) (d.readItems c r) = true) &&
      let d1 := (if 2 ≤ step then (d.reinUse (chanRein c) (d.readItems c r)).bump pgCur 0 3 else d.reinUse (chanRein c) (d.readItems c r))
      let y : Channel := { x with reads := x.reads.map (fun q => if q.lu == lu then { q with decoded := true } else q) }
      decide (step < 4) &&
      decide (2 ≤ step ∨ d1.fd R.curLdpc 15 8 < bits)
      | _ => false)
      | _ => false) : Bool) = true) ∧
    ((let d : Dev := { ((devOn [9, 7]).setFd R.curStat 3 0 2) with tack := { deallocs := [{ pool := .flash 47, start := 0, len := 1, fn := 0 }] }, flash := { ch := [(47, { up := true, inService := true, dies := 4, planes := 4, blocksPerDie := 512, pagesPerBlock := 1024 })] } }
      let c : Nat := 47
      decide (c < d.part.channels) &&
      (match d.chan? c with
      | some x =>
      (match d.tack.deallocs.find? (fun a => a.pool == .flash c) with
      | some a =>
      decide (d.curState = 2) &&
      decide (d.runs pgCur = true) &&
      decide (d.flushing = false)
      | _ => false)
      | _ => false) : Bool) = true) ∧
    ((let d : Dev := { ((((devOn [9, 7]).setFd R.curStat 3 0 2).setRg R.objBaseLo 0x2000000).putObj 33554431 { st := 2, primary := 3, fn := 0, len := 1, loc := 47 * 2 ^ 48 }) with tack := { waits := [{ obj := 33554431, unit := 15, who := .master 0, addr := 0, len := 64, since := 0 }] }, flash := { ch := [(47, { up := true, inService := true, dies := 4, planes := 4, blocksPerDie := 512, pagesPerBlock := 1024 })] } }
      let c : Nat := 47
      let o : Nat := 33554431
      let u : Nat := 15
      decide (c < d.part.channels) &&
      decide ((d.boundObj o 3).loc / 2 ^ 48 = c) &&
      (match d.chan? c with
      | some x =>
      decide (d.chanRuns c = true) &&
      decide ((d.boundObj o 3).primary = 3) &&
      decide (d.tack.waits.any (fun w => w.obj == o && w.unit == u) = true) &&
      decide (x.reads.any (fun r => r.obj == o && r.ounit == u) = false)
      | _ => false) : Bool) = true) := by decide +kernel

/-- Clause by clause, the hypotheses of `Obligations.FlashBlocks` are met. -/
theorem witness_FlashBlocks :
    ((let d : Dev := { ((devOn [9, 7]).setFd R.curStat 3 0 2) with reins := [(79, { given := [.flash 15 .program 0] })], flash := { ch := [(47, { up := true, inService := true, dies := 4, planes := 4, blocksPerDie := 512, pagesPerBlock := 1024, progs := [{ die := 15, block := 65535, page := 0, native := false, parity := some 5 }], stripes := [(5, [0])] })] } }
      let c : Nat := 47
      let die : Nat := 15
      let blk : Nat := 4095
      let ns : Nat := 65536000
      decide (c < d.part.channels) &&
      decide (die < 16) &&
      decide (blk < 4096) &&
      (match d.chan? c with
      | some x =>
      (match x.progs.find? (fun p => p.die == die) with
      | some p =>
      decide (d.flushing = true ∨ d.reinGiven (chanRein c) (d.progItems c x p) = true)
      | _ => false)
      | _ => false) : Bool) = true) ∧
    ((let d : Dev := { (((devOn [9, 7]).setFd R.curStat 3 0 2).setFd R.holdupStat 1 1 1) with flash := { ch := [(47, { up := true, inService := true, dies := 4, planes := 4, blocksPerDie := 512, pagesPerBlock := 1024, progs := [{ die := 15, block := 65535, page := 0, native := !false, units := [5] }] })] } }
      let c : Nat := 47
      let die : Nat := 15
      let blk : Nat := 4095
      let ns : Nat := 0
      decide (c < d.part.channels) &&
      decide (die < 16) &&
      decide (blk < 4096) &&
      (match d.chan? c with
      | some x =>
      (match x.progs.find? (fun p => p.die == die) with
      | some p =>
      decide (d.flushing = true ∨ d.reinGiven (chanRein c) (d.progItems c x p) = true)
      | _ => false)
      | _ => false) : Bool) = true) ∧
    ((let d : Dev := { ((devOn [9, 7]).setFd R.curStat 3 0 2) with now := 16000000, reins := [(79, { given := [.flash 3 (.fold 12799) (2 ^ 40)] })], flash := { ch := [(47, { up := true, inService := true, dies := 4, planes := 4, blocksPerDie := 512, pagesPerBlock := 1024, blocks := [(12799, { st := .full, set := 0 })] })] } }
      let c : Nat := 47
      let die : Nat := 3
      let blk : Nat := 511
      decide (c < d.part.channels) &&
      decide (die < 16) &&
      decide (blk < 4096) &&
      (match d.chan? c with
      | some x =>
      decide (d.chanRuns c = true) &&
      decide (d.foldIdle x = true ∨ d.nSlc x * d.fd R.curGc 15 8 < 100 * x.slcUsed) &&
      (match x.foldPick (d.foldIdle x) with
      | some (k, b) =>
      let us := x.unitsIn k
      (match d.relocate c x 1 us with
      | some (d1, y, dest) =>
      decide (d1.reinGiven (chanRein c) (d1.copyItems c k x us (.fold k)) = true)
      | _ => false)
      | _ => false)
      | _ => false) : Bool) = true) ∧
    ((let d : Dev := { (((devOn [9, 7]).setFd R.curStat 3 0 2).setFd R.curGc 7 0 255) with reins := [(79, { given := [.flash 3 (.collect 12799) (2 ^ 40)] })], flash := { ch := [(47, { up := true, inService := true, dies := 4, planes := 4, blocksPerDie := 16, pagesPerBlock := 1024, blocks := [(12799, { st := .full, set := 1 })] })] } }
      let c : Nat := 47
      let die : Nat := 3
      let blk : Nat := 511
      decide (c < d.part.channels) &&
      decide (die < 16) &&
      decide (blk < 4096) &&
      (match d.chan? c with
      | some x =>
      decide (d.chanRuns c = true) &&
      decide (die < x.dies) &&
      decide (x.freeOn die < d.fd R.curGc 7 0) &&
      (match x.gcPick die with
      | some (k, b) =>
      let us := x.unitsIn k
      (match d.relocate c x 2 us with
      | some (d1, y, dest) =>
      decide (d1.reinGiven (chanRein c) (d1.copyItems c k x us (.collect k)) = true)
      | _ => false)
      | _ => false)
      | _ => false) : Bool) = true) ∧
    ((let d : Dev := { ((devOn [9, 7]).setFd R.curStat 3 0 2) with reins := [(79, { given := [.flash 3 (.erase 12799) 0] })], flash := { ch := [(47, { up := true, inService := true, dies := 4, planes := 4, blocksPerDie := 512, pagesPerBlock := 1024, blocks := [(12799, { st := .verified, set := 1, emptied := true })] })] } }
      let c : Nat := 47
      let die : Nat := 3
      let blk : Nat := 511
      decide (c < d.part.channels) &&
      decide (die < 16) &&
      decide (blk < 4096) &&
      (match d.chan? c with
      | some x =>
      let k := 4096 * die + blk
      decide (d.chanRuns c = true) &&
      decide (x.erasable k = true) &&
      let n := (x.block k).erases + 1
      decide (d.reinGiven (chanRein c) [d.flashItem c die (.erase k) 0 64 d.workCharge] = true)
      | _ => false) : Bool) = true) ∧
    ((let d : Dev := { ((devOn [9, 7]).setFd R.curStat 3 0 2) with reins := [(79, { given := [.flash 3 (.erase 12799) 0] })], flash := { ch := [(47, { up := true, inService := true, dies := 4, planes := 4, blocksPerDie := 512, pagesPerBlock := 1024, blocks := [(12799, { st := .verified, set := 1, emptied := true })] })] } }
      let c : Nat := 47
      let die : Nat := 3
      let blk : Nat := 511
      decide (c < d.part.channels) &&
      decide (die < 16) &&
      decide (blk < 4096) &&
      (match d.chan? c with
      | some x =>
      let k := 4096 * die + blk
      decide (d.chanRuns c = true) &&
      decide (x.erasable k = true) &&
      let n := (x.block k).erases + 1
      decide (d.reinGiven (chanRein c) [d.flashItem c die (.erase k) 0 64 d.workCharge] = true)
      | _ => false) : Bool) = true) ∧
    ((let d : Dev := { ((devOn [9, 7]).setFd R.curStat 3 0 2) with reins := [(79, { given := [.flash 15 (.verify 65535) 0] })], flash := { ch := [(47, { up := true, inService := true, dies := 4, planes := 4, blocksPerDie := 512, pagesPerBlock := 1024, blocks := [(65535, { st := .full, set := 2 })] })] } }
      let c : Nat := 47
      let die : Nat := 15
      let blk : Nat := 4095
      decide (c < d.part.channels) &&
      decide (die < 16) &&
      decide (blk < 4096) &&
      (match d.chan? c with
      | some x =>
      let k := 4096 * die + blk
      decide (x.inService = true) &&
      decide (d.curState = 1 ∨ d.curState = 2) &&
      decide (d.runs pgCur = true) &&
      decide (d.flushing = false) &&
      decide ((x.block k).st = .full) &&
      decide ((x.block k).set < 3) &&
      let its := d.pageItems c die (.verify k) 0 (16384 * (x.block k).pages) d.workCharge
      decide (d.reinGiven (chanRein c) its = true)
      | _ => false) : Bool) = true) ∧
    ((let d : Dev := { ((devOn [9, 7]).setFd R.curStat 3 0 2) with reins := [(79, { given := [.flash 15 (.verify 65535) 0] })], flash := { ch := [(47, { up := true, inService := true, dies := 4, planes := 4, blocksPerDie := 512, pagesPerBlock := 1024, blocks := [(65535, { st := .full, set := 2 })] })] } }
      let c : Nat := 47
      let die : Nat := 15
      let blk : Nat := 4095
      let bad : List Nat := [0]
      decide (c < d.part.channels) &&
      decide (die < 16) &&
      decide (blk < 4096) &&
      (match d.chan? c with
      | some x =>
      let k := 4096 * die + blk
      decide (x.inService = true) &&
      decide (d.curState = 1 ∨ d.curState = 2) &&
      decide (d.runs pgCur = true) &&
      decide (d.flushing = false) &&
      decide ((x.block k).st = .full) &&
      decide ((x.block k).set < 3) &&
      let its := d.pageItems c die (.verify k) 0 (16384 * (x.block k).pages) d.workCharge
      decide (d.reinGiven (chanRein c) its = true) &&
      let d0 := d.reinUse (chanRein c) its
      decide (bad ≠ []) &&
      let us := (x.map.filter (fun e => e.2 / 32768 == k && bad.contains (e.2 % 32768))).map Prod.fst
      (match d0.relocate c x 1 us with
      | some (d1, y, dest) =>
      true
      | _ => false)
      | _ => false) : Bool) = true) ∧
    ((let d : Dev := { ((devOn [9]).setFd R.curStat 3 0 2) with flash := { ch := [(47, { up := true, inService := true, dies := 4, planes := 4, blocksPerDie := 512, pagesPerBlock := 1024 })] } }
      let c : Nat := 47
      let die : Nat := 15
      let blk : Nat := 4095
      decide (c < d.part.channels) &&
      decide (die < 16) &&
      decide (blk < 4096) &&
      (match d.chan? c with
      | some x =>
      decide (d.enabled pgTack = false) &&
      decide (d.runs pgCur = true) &&
      decide (d.flushing = false) &&
      decide (d.curState = 0 ∨ d.curState = 2)
      | _ => false) : Bool) = true) ∧
    ((let d : Dev := { ((devOn [9]).setFd R.curStat 3 0 3) with flash := { ch := [(47, { up := true, inService := true, dies := 4, planes := 4, blocksPerDie := 512, pagesPerBlock := 1024 })] } }
      let c : Nat := 47
      let die : Nat := 15
      let blk : Nat := 4095
      decide (c < d.part.channels) &&
      decide (die < 16) &&
      decide (blk < 4096) &&
      (match d.chan? c with
      | some x =>
      decide (d.curState = 3)
      | _ => false) : Bool) = true) ∧
    ((let d : Dev := { ((devOn [9]).setFd R.curStat 3 0 1) with flash := { ch := [(47, { up := true, inService := true, dies := 4, planes := 4, blocksPerDie := 512, pagesPerBlock := 1024, blocks := [(65535, { st := .full, set := 3 })] })], record := some (5, 6), recordMissing := !false } }
      let c : Nat := 47
      let die : Nat := 15
      let blk : Nat := 4095
      decide (c < d.part.channels) &&
      decide (die < 16) &&
      decide (blk < 4096) &&
      (match d.chan? c with
      | some x =>
      decide (d.curState = 1) &&
      decide (d.runs pgCur = true) &&
      decide ((Tab.vals d.flash.ch).all (fun y => y.blocks.all (fun e => !(decide (e.2.set < 3) && e.2.st == .full))))
      | _ => false) : Bool) = true) := by decide +kernel

/-- Clause by clause, the hypotheses of `Obligations.ObjectsAndMigrations` are met. -/
theorem witness_ObjectsAndMigrations :
    ((let d : Dev := devOn [7]
      let m : Master := .core 15
      let v : Word := 1
      let fn := Tab.getD d.tack.allocFn m.index 0 % 1024
      decide (d.runs pgTack = true) : Bool) = true) ∧
    ((let d : Dev := dev0
      let m : Master := .core 15
      let v : Word := 1
      let fn := Tab.getD d.tack.allocFn m.index 0 % 1024
      decide (d.runs pgTack = false) : Bool) = true) ∧
    ((let d : Dev := (((devOn [7, 9]).setRg R.objBaseLo 0x2000000).putObj 33554431 { st := 2, fn := 0, len := 1 })
      let m : Master := .core 15
      let o : Nat := 33554431
      decide (o < 2 ^ 25) &&
      decide (d.runs pgTack = true) : Bool) = true) ∧
    ((let d : Dev := (((devOn [7, 9]).setRg R.objBaseLo 0x2000000).putObj 33554431 { st := 2, fn := 0, len := 1 })
      let m : Master := .core 15
      let o : Nat := 33554431
      decide (o < 2 ^ 25) &&
      decide (d.runs pgTack = true) : Bool) = true) ∧
    ((let d : Dev := (((devOn []).setRg R.objBaseLo 0x2000000).putObj 33554431 { st := 2, fn := 0, len := 1 })
      let m : Master := .core 15
      let o : Nat := 33554431
      decide (o < 2 ^ 25) &&
      decide (d.runs pgTack = false) : Bool) = true) ∧
    ((let d : Dev := (((devOn []).setRg R.objBaseLo 0x2000000).putObj 33554431 { st := 2, fn := 0, len := 1 })
      let m : Master := .core 15
      let o : Nat := 33554431
      decide (o < 2 ^ 25) &&
      decide (d.runs pgTack = false) : Bool) = true) ∧
    ((let d : Dev := (((devOn [7, 9]).setRg R.objBaseLo 0x2000000).putObj 33554431 { st := 2, fn := 0, len := 1, hint := 1, primary := 3 }).setRg R.tackCfg 1
      let o : Nat := 33554431
      decide (d.runs pgTack = true) &&
      decide (fbit (d.rg R.tackCfg) 0 = true) &&
      decide (d.migFree (d.obj o) false = true) &&
      (match d.promoteTarget (d.obj o) with
      | some p =>
      true
      | _ => false) : Bool) = true) ∧
    ((let d0 : Dev := (((devOn [7, 9]).setRg R.objBaseLo 0x2000000).putObj 33554431 { st := 2, fn := 0, len := 1, hint := 3, primary := 0 }).setRg R.tackCfg 1
      let d : Dev := { d0 with flash := { ch := [(47, { up := true, inService := true, dies := 4, planes := 4, blocksPerDie := 512, pagesPerBlock := 1024, luCount := 2 ^ 20, map := [(0, 0)] })] } }
      let o : Nat := 33554431
      let m : Master := .core 15
      decide (d.runs pgTack = true) &&
      decide (fbit (d.rg R.tackCfg) 0 = true) &&
      decide (d.migFree (d.obj o) false = true) &&
      decide ((d.obj o).hint = 3) &&
      decide ((d.obj o).primary ≠ 3) &&
      (match d.bestChannel with
      | some c =>
      true
      | _ => false) : Bool) = true) ∧
    ((let d0 : Dev := (((devOn [7, 9]).setRg R.objBaseLo 0x2000000).putObj 33554431 { st := 2, fn := 0, len := 1, primary := 3 }).setRg R.tackCfg 1
      let d : Dev := { d0 with tack := { d0.tack with allocs := [{ pool := .hide 15, start := 0, len := 1, fn := 0 }] } }
      let o : Nat := 33554431
      let m : Master := .core 15
      let x : Nat := 63
      let n : Nat := 15
      decide (d.runs pgTack = true) &&
      decide (fbit (d.rg R.tackCfg) 0 = true) &&
      decide (d.migFree (d.obj o) false = true) &&
      decide ((d.obj o).primary = 3) &&
      decide ((d.obj o).nbr = false) &&
      decide ((d.obj o).hint ≠ 3) &&
      decide (d.fd R.tackCfg 31 24 ≤ (d.obj o).heat) &&
      decide (n < 16) &&
      decide (d.poolWithin (.hide n) 0 (d.wmLow 1) = false) : Bool) = true) ∧
    ((let d : Dev := (((devOn [7,
        9]).setRg R.objBaseLo 0x2000000).putObj 33554431 { st := 2, fn := 0, len := 1, primary := 0, nbr := !false }).setRg R.tackCfg 1
      let o : Nat := 33554431
      let m : Master := .core 15
      decide (d.runs pgTack = true) &&
      decide (fbit (d.rg R.tackCfg) 0 = true) &&
      decide ((d.obj o).nbr = true) &&
      decide ((d.obj o).mig = 0) &&
      decide ((d.obj o).primary ≠ 3 ∨ ((d.obj o).pinned = false ∧ (d.obj o).hint = 3)) : Bool) = true) ∧
    ((let d0 : Dev := (((devOn [7, 9]).setRg R.objBaseLo 0x2000000).putObj 33554431 { st := 2, fn := 0, len := 1, primary := 3 })
      let d : Dev := { d0 with tack := { d0.tack with pinWaits := [{ obj := 33554431, tier := 3, stack := none, ctx := 4095 }], pins := [(4095, {})] } }
      let o : Nat := 33554431
      let m : Master := .core 15
      decide (d.runs pgTack = true) &&
      (match d.tack.pinWaits.find? (fun w => w.obj == o) with
      | some w =>
      decide ((d.obj o).mig = 0) &&
      decide ((d.obj o).st ≠ 1) &&
      decide ((d.obj o).primary = w.tier)
      | _ => false) : Bool) = true) ∧
    ((let d0 : Dev := (((devOn [7,
        9]).setRg R.objBaseLo 0x2000000).putObj 33554431 { st := 2, fn := 0, len := 1, primary := 0, mig := 1, loc := 0x100000 }).setFd R.curStat 3 0 2
      let d00 : Dev := (d0.store 0x100000 [5] true {})
      let d : Dev := { d00 with tack := { d00.tack with migs := [(33554431, { kind := .move, target := some { pool := .seat, start := 0, len := 1, fn := 0 } })] } }
      let m : Master := .core 15
      let o : Nat := 33554431
      decide (o < 2 ^ 25) &&
      (match Tab.find? d.tack.migs o with
      | some g =>
      (match g.target with
      | some a =>
      let e := d.obj o
      decide (e.mig = 1 ∨ e.mig = 2) &&
      (match d.copyBad e e.primary 0 (65536 * e.len) with
      | some st =>
      true
      | _ => false)
      | _ => false)
      | _ => false) : Bool) = true) ∧
    ((let d0 : Dev := (((devOn [7,
        9]).setRg R.objBaseLo 0x2000000).putObj 33554431 { st := 2, fn := 0, len := 1, primary := 3, mig := 1, loc := 47 * 2 ^ 48 }).setFd R.curStat 3 0 2
      let d : Dev := { d0 with tack := { d0.tack with migs := [(33554431, { kind := .move, target := some { pool := .nbr 63, start := 0, len := 1, fn := 0 } })] }, flash := { ch := [(47, { up := true, inService := true, dies := 4, planes := 4, blocksPerDie := 512, pagesPerBlock := 1024, luCount := 2 ^ 20, map := [(0, 0)] })] } }
      let m : Master := .core 15
      let o : Nat := 33554431
      decide (o < 2 ^ 25) &&
      (match Tab.find? d.tack.migs o with
      | some g =>
      (match g.target with
      | some a =>
      let e := d.obj o
      decide (e.mig = 1 ∨ e.mig = 2) &&
      decide (d.copyBad e e.primary 0 (65536 * e.len) = none) &&
      decide (d.targetLost a = true)
      | _ => false)
      | _ => false) : Bool) = true) ∧
    ((let d0 : Dev := (((devOn [7,
        9]).setRg R.objBaseLo 0x2000000).putObj 33554431 { st := 2, fn := 0, len := 1, primary := 3, mig := 2, loc := 47 * 2 ^ 48 }).setFd R.curStat 3 0 2
      let d : Dev := { d0 with tack := { d0.tack with migs := [(33554431, { kind := .move, target := some { pool := .nbr 63, start := 0, len := 1, fn := 0 }, verified := 16, copied := 16 })], nbr := [(63, { st := .active, base := nbrBase + 1023 * 2 ^ 34 })] }, flash := { ch := [(47, { up := true, inService := true, dies := 4, planes := 4, blocksPerDie := 512, pagesPerBlock := 1024, luCount := 2 ^ 20, map := [(0, 0)] })] } }
      let m : Master := .core 15
      let o : Nat := 33554431
      decide (o < 2 ^ 25) &&
      (match Tab.find? d.tack.migs o with
      | some g =>
      (match g.target with
      | some a =>
      let e := d.obj o
      decide (d.targetLost a = false) &&
      decide (d.copyBad e e.primary 0 (65536 * e.len) = none) &&
      decide (d.enabled pgTack = true) &&
      decide (e.mig = 2) &&
      decide ((a.pool.tier ≤ 1 ∧ e.primary ≠ 3) ∨ a.pool.tier = 2) &&
      (match d.targetEqual o e g a with
      | (d1, v) =>
      decide (v = .equal))
      | _ => false)
      | _ => false) : Bool) = true) ∧
    ((let dz : Dev := (((devOn [7,
        9]).setRg R.objBaseLo 0x2000000).putObj 33554431 { st := 2, fn := 0, len := 1, primary := 3, mig := 2, loc := 47 * 2 ^ 48 }).setFd R.curStat 3 0 2
      let d0 : Dev := dz.setRgb R.nwinMap 1023 (w32 (4095 * 2 ^ 18 + 2 ^ 31)) |>.setRgb R.nwinLease 1023 5
      let d : Dev := { d0 with tack := { d0.tack with migs := [(33554431, { kind := .move, target := some { pool := .nbr 63, start := 0, len := 1, fn := 0 }, verified := 15, copied := 16 })], nbr := [(63, { st := .active, base := nbrBase + 1023 * 2 ^ 34 })] }, flash := { ch := [(47, { up := true, inService := true, dies := 4, planes := 4, blocksPerDie := 512, pagesPerBlock := 1024, luCount := 2 ^ 20, map := [(0, 0)] })] } }
      let m : Master := .core 15
      let o : Nat := 33554431
      decide (o < 2 ^ 25) &&
      (match Tab.find? d.tack.migs o with
      | some g =>
      (match g.target with
      | some a =>
      let e := d.obj o
      decide (d.targetLost a = false) &&
      decide (d.copyBad e e.primary 0 (65536 * e.len) = none) &&
      decide (d.enabled pgTack = true) &&
      decide (e.mig = 2) &&
      decide ((a.pool.tier ≤ 1 ∧ e.primary ≠ 3) ∨ a.pool.tier = 2) &&
      (match d.targetEqual o e g a with
      | (d1, v) =>
      decide (v = .differs))
      | _ => false)
      | _ => false) : Bool) = true) ∧
    ((let dz : Dev := (((devOn [7,
        9]).setRg R.objBaseLo 0x2000000).putObj 33554431 { st := 2, fn := 0, len := 1, primary := 3, mig := 2, loc := 47 * 2 ^ 48 }).setFd R.curStat 3 0 2
      let d0 : Dev := dz
      let d : Dev := { d0 with tack := { d0.tack with migs := [(33554431, { kind := .move, target := some { pool := .nbr 63, start := 0, len := 1, fn := 0 }, verified := 15, copied := 16 })], nbr := [(63, { st := .active, base := nbrBase + 1023 * 2 ^ 34 })] }, flash := { ch := [(47, { up := true, inService := true, dies := 4, planes := 4, blocksPerDie := 512, pagesPerBlock := 1024, luCount := 2 ^ 20, map := [(0, 0)] })] } }
      let m : Master := .core 15
      let o : Nat := 33554431
      decide (o < 2 ^ 25) &&
      (match Tab.find? d.tack.migs o with
      | some g =>
      (match g.target with
      | some a =>
      let e := d.obj o
      decide (d.targetLost a = false) &&
      decide (d.copyBad e e.primary 0 (65536 * e.len) = none) &&
      decide (d.enabled pgTack = true) &&
      decide (e.mig = 2) &&
      decide ((a.pool.tier ≤ 1 ∧ e.primary ≠ 3) ∨ a.pool.tier = 2) &&
      (match d.targetEqual o e g a with
      | (d1, v) =>
      decide (v = .failed))
      | _ => false)
      | _ => false) : Bool) = true) ∧
    ((let dz : Dev := (((devNode [7, 8, 9,
        0x1E0] [4095]).setRg R.objBaseLo 0x2000000).putObj 33554431 { st := 2, fn := 0, len := 1, primary := 3, mig := 2, loc := 47 * 2 ^ 48 }).setFd R.curStat 3 0 2
      let d0 : Dev := dz.setRgb R.nwinMap 1023 (w32 (4095 * 2 ^ 18 + 2 ^ 31))
      let d : Dev := { d0 with tack := { d0.tack with migs := [(33554431, { kind := .move, target := some { pool := .nbr 63, start := 0, len := 1, fn := 0 }, verified := 15, copied := 16 })], nbr := [(63, { st := .active, base := nbrBase + 1023 * 2 ^ 34 })] }, flash := { ch := [(47, { up := true, inService := true, dies := 4, planes := 4, blocksPerDie := 512, pagesPerBlock := 1024, luCount := 2 ^ 20, map := [(0, 0)] })] } }
      let m : Master := .core 15
      let o : Nat := 33554431
      decide (o < 2 ^ 25) &&
      (match Tab.find? d.tack.migs o with
      | some g =>
      (match g.target with
      | some a =>
      let e := d.obj o
      decide (d.targetLost a = false) &&
      decide (d.copyBad e e.primary 0 (65536 * e.len) = none) &&
      decide (d.enabled pgTack = true) &&
      decide (e.mig = 2) &&
      decide ((a.pool.tier ≤ 1 ∧ e.primary ≠ 3) ∨ a.pool.tier = 2) &&
      (match d.targetEqual o e g a with
      | (d1, v) =>
      decide (v = .wait))
      | _ => false)
      | _ => false) : Bool) = true) ∧
    ((let d0 : Dev := (((devOn [7,
        9]).setRg R.objBaseLo 0x2000000).putObj 33554431 { st := 2, fn := 0, len := 1, primary := 0, mig := 2, loc := 0x100000 }).setFd R.curStat 3 0 2
      let d : Dev := { d0 with reins := [(79, { given := [.flash 0 (.check 33554431) 0] })], tack := { d0.tack with migs := [(33554431, { kind := .move, target := some { pool := .flash 47, start := 0, len := 1, fn := 0 }, copied := 16 })] }, flash := { ch := [(47, { up := true, inService := true, dies := 4, planes := 4, blocksPerDie := 512, pagesPerBlock := 1024, luCount := 2 ^ 20, map := [(0, 0)] })] } }
      let m : Master := .core 15
      let o : Nat := 33554431
      let l : Nat := 47 * 2 ^ 48
      decide (o < 2 ^ 25) &&
      (match Tab.find? d.tack.migs o with
      | some g =>
      (match g.target with
      | some a =>
      let e := d.obj o
      decide (d.targetLost a = false) &&
      decide (d.copyBad e e.primary 0 (65536 * e.len) = none) &&
      decide (d.enabled pgTack = true) &&
      decide (e.mig = 2) &&
      decide ((a.pool.tier = 3 ∧ l = d.locOf a) ∨ (a.pool.tier ≤ 1 ∧ e.primary = 3 ∧ l = e.loc)) &&
      (match d.chan? (l / 2 ^ 48) with
      | some x =>
      let its : List ReinItem := d.unitItems (l / 2 ^ 48) x ((unitsOf 0 (65536 * e.len)).map (fun u => l % 2 ^ 48 + u)) (if a.pool.tier = 3 then .check o else .copy o) { fn := some e.fn }
      decide (d.reinGiven (chanRein (l / 2 ^ 48)) its = true)
      | _ => false)
      | _ => false)
      | _ => false) : Bool) = true) ∧
    ((let d0 : Dev := (((devOn [7,
        9]).setRg R.objBaseLo 0x2000000).putObj 33554431 { st := 2, fn := 0, len := 1, primary := 2, nbr := !false, mig := 1, loc := 0x100000 }).setFd R.curStat 3 0 2
      let d : Dev := { d0 with tack := { d0.tack with migs := [(33554431, { kind := .move, target := some { pool := .seat, start := 0, len := 1, fn := 0 } })] }, flash := { ch := [(47, { up := true, inService := true, dies := 4, planes := 4, blocksPerDie := 512, pagesPerBlock := 1024, luCount := 2 ^ 20, map := [(0, 0)] })] } }
      let m : Master := .core 15
      let o : Nat := 33554431
      decide (o < 2 ^ 25) &&
      (match Tab.find? d.tack.migs o with
      | some g =>
      (match g.target with
      | some a =>
      let e := d.obj o
      decide (d.targetLost a = false) &&
      decide (d.copyBad e e.primary 0 (65536 * e.len) = none) &&
      decide (d.enabled pgTack = true) &&
      decide (e.mig = 1) &&
      decide (a.pool.tier ≤ 1) &&
      decide (e.primary ≠ 3)
      | _ => false)
      | _ => false) : Bool) = true) ∧
    ((let d0 : Dev := (((devOn [7,
        9]).setRg R.objBaseLo 0x2000000).putObj 33554431 { st := 2, fn := 0, len := 1, primary := 3, mig := 1, loc := 47 * 2 ^ 48 }).setFd R.curStat 3 0 2
      let d : Dev := { d0 with reins := [(79, { given := [.flash 0 (.copy 33554431) 0] })], tack := { d0.tack with migs := [(33554431, { kind := .move, target := some { pool := .seat, start := 0, len := 1, fn := 0 } })] }, flash := { ch := [(47, { up := true, inService := true, dies := 4, planes := 4, blocksPerDie := 512, pagesPerBlock := 1024, luCount := 2 ^ 20, map := [(0, 0)] })] } }
      let m : Master := .core 15
      let o : Nat := 33554431
      decide (o < 2 ^ 25) &&
      (match Tab.find? d.tack.migs o with
      | some g =>
      (match g.target with
      | some a =>
      let e := d.obj o
      decide (d.targetLost a = false) &&
      decide (d.copyBad e e.primary 0 (65536 * e.len) = none) &&
      decide (d.enabled pgTack = true) &&
      decide (e.mig = 1) &&
      decide (a.pool.tier ≤ 1) &&
      decide (e.primary = 3) &&
      (match d.chan? (e.loc / 2 ^ 48) with
      | some x =>
      let its : List ReinItem := d.unitItems (e.loc / 2 ^ 48) x ((unitsOf 0 (65536 * e.len)).map (fun u => e.loc % 2 ^ 48 + u)) (.copy o) { fn := some e.fn }
      decide (d.reinGiven (chanRein (e.loc / 2 ^ 48)) its = true)
      | _ => false)
      | _ => false)
      | _ => false) : Bool) = true) ∧
    ((let d0 : Dev := (((devOn [7,
        9]).setRg R.objBaseLo 0x2000000).putObj 33554431 { st := 2, fn := 0, len := 1, primary := 3, mig := 1, loc := 47 * 2 ^ 48 }).setFd R.curStat 3 0 2
      let d : Dev := { d0 with tack := { d0.tack with migs := [(33554431, { kind := .move, target := some { pool := .nbr 63, start := 0, len := 1, fn := 0 }, copied := 16 })], nbr := [(63, { st := .active, base := nbrBase + 1023 * 2 ^ 34 })] }, flash := { ch := [(47, { up := true, inService := true, dies := 4, planes := 4, blocksPerDie := 512, pagesPerBlock := 1024, luCount := 2 ^ 20, map := [(0, 0)] })] } }
      let m : Master := .core 15
      let o : Nat := 33554431
      decide (o < 2 ^ 25) &&
      (match Tab.find? d.tack.migs o with
      | some g =>
      (match g.target with
      | some a =>
      let e := d.obj o
      decide (d.targetLost a = false) &&
      decide (d.copyBad e e.primary 0 (65536 * e.len) = none) &&
      decide (d.enabled pgTack = true) &&
      decide (e.mig = 1) &&
      decide (2 ≤ a.pool.tier) &&
      decide (g.copied = 16 * e.len) &&
      decide (g.out = 0)
      | _ => false)
      | _ => false) : Bool) = true) ∧
    ((let d0 : Dev := (((devOn [7,
        9]).setRg R.objBaseLo 0x2000000).putObj 33554431 { st := 2, fn := 0, len := 1, primary := 0, mig := 1, loc := 0x100000 }).setFd R.curStat 3 0 2
      let d : Dev := { d0 with tack := { d0.tack with migs := [(33554431, { kind := .move, target := some { pool := .nbr 63, start := 0, len := 1, fn := 0 }, copied := 15 })], nbr := [(63, { st := .active, base := nbrBase + 1023 * 2 ^ 34 })] }, flash := { ch := [(47, { up := true, inService := true, dies := 4, planes := 4, blocksPerDie := 512, pagesPerBlock := 1024, luCount := 2 ^ 20, map := [(0, 0)] })] } }
      let m : Master := .core 15
      let o : Nat := 33554431
      decide (o < 2 ^ 25) &&
      (match Tab.find? d.tack.migs o with
      | some g =>
      (match g.target with
      | some a =>
      let e := d.obj o
      decide (d.targetLost a = false) &&
      decide (d.copyBad e e.primary 0 (65536 * e.len) = none) &&
      decide (d.enabled pgTack = true) &&
      decide (e.mig = 1) &&
      decide (a.pool.tier = 2) &&
      decide (g.copied < 16 * e.len) &&
      decide (e.primary ≠ 3)
      | _ => false)
      | _ => false) : Bool) = true) ∧
    ((let d00 : Dev := (((devOn [7,
        9]).setRg R.objBaseLo 0x2000000).putObj 33554431 { st := 2, fn := 0, len := 1, mig := 1, loc := 0x100000 }).setFd R.curStat 3 0 2 |>.store 0x100000 [0] true
      let d0 := d00.setRg R.holdupBudget 30000000
      let g : Migration := { kind := .move, target := some { pool := .flash 47, start := 0, len := 1, fn := 0 } }
      let d : Dev := { d0 with tack := { d0.tack with migs := [(33554431, g)] }, flash := { ch := [(47, { up := true, inService := true, dies := 4, planes := 4, blocksPerDie := 512, pagesPerBlock := 1024, luCount := 2 ^ 20 })] } }
      let m : Master := .core 15
      let c : Nat := 47
      let o : Nat := 33554431
      let u : Nat := 0
      decide (c < d.part.channels) &&
      decide ((o, g) ∈ d.tack.migs) &&
      let e := d.obj o
      decide (e.mig = 1) &&
      (match g.target with
      | some a =>
      decide (a.pool = .flash c) &&
      decide (u = 16 * a.start + g.copied) &&
      decide (u < 16 * (a.start + a.len)) &&
      decide ((d.tack.migs.all (fun z => decide (z = (o, g)))) = true) &&
      decide ((d.copyBad e e.primary (4096 * g.copied) 4096).isSome = true)
      | _ => false) : Bool) = true) ∧
    ((let d00 : Dev := (((devOn [7,
        9]).setRg R.objBaseLo 0x2000000).putObj 33554431 { st := 2, fn := 0, len := 1, mig := 1, loc := 0x100000 }).setFd R.curStat 3 0 2
      let d0 := d00.setRg R.holdupBudget 30000000
      let g : Migration := { kind := .move, target := some { pool := .flash 47, start := 0, len := 1, fn := 0 } }
      let d : Dev := { d0 with tack := { d0.tack with migs := [(33554431, g)] }, flash := { ch := [(47, { up := true, inService := true, dies := 4, planes := 4, blocksPerDie := 512, pagesPerBlock := 1024, luCount := 2 ^ 20 })] } }
      let m : Master := .core 15
      let c : Nat := 47
      let o : Nat := 33554431
      let u : Nat := 0
      decide (c < d.part.channels) &&
      decide ((o, g) ∈ d.tack.migs) &&
      let e := d.obj o
      decide (e.mig = 1) &&
      (match g.target with
      | some a =>
      decide (a.pool = .flash c) &&
      decide (u = 16 * a.start + g.copied) &&
      decide (u < 16 * (a.start + a.len)) &&
      decide ((d.tack.migs.all (fun z => decide (z = (o, g)))) = true) &&
      decide (d.copyBad e e.primary (4096 * g.copied) 4096 = none) &&
      let d1 := (if e.primary ≤ 1 then d.touch (e.loc + 4096 * g.copied) 4096 { fn := some e.fn } else d)
      (match d1.curWrite c u (d1.copyBytes e e.primary (4096 * g.copied) 4096) e.fn with
      | (d2, true) =>
      true
      | _ => false)
      | _ => false) : Bool) = true) ∧
    ((let d00 : Dev := (((devOn [7, 9]).setRg R.objBaseLo 0x2000000).putObj 33554431 { st := 2, fn := 0, len := 1, mig := 1, loc := 0x100000 })
      let d0 := d00.setRg R.holdupBudget 30000000
      let g : Migration := { kind := .move, target := some { pool := .flash 47, start := 0, len := 1, fn := 0 } }
      let d : Dev := { d0 with tack := { d0.tack with migs := [(33554431, g)] }, flash := { ch := [(47, { up := true, inService := true, dies := 4, planes := 4, blocksPerDie := 512, pagesPerBlock := 1024, luCount := 2 ^ 20 })] } }
      let m : Master := .core 15
      let c : Nat := 47
      let o : Nat := 33554431
      let u : Nat := 0
      decide (c < d.part.channels) &&
      decide ((o, g) ∈ d.tack.migs) &&
      let e := d.obj o
      decide (e.mig = 1) &&
      (match g.target with
      | some a =>
      decide (a.pool = .flash c) &&
      decide (u = 16 * a.start + g.copied) &&
      decide (u < 16 * (a.start + a.len)) &&
      decide ((d.tack.migs.all (fun z => decide (z = (o, g)))) = true) &&
      decide (d.copyBad e e.primary (4096 * g.copied) 4096 = none) &&
      let d1 := (if e.primary ≤ 1 then d.touch (e.loc + 4096 * g.copied) 4096 { fn := some e.fn } else d)
      (match d1.curWrite c u (d1.copyBytes e e.primary (4096 * g.copied) 4096) e.fn with
      | (d2, false) =>
      true
      | _ => false)
      | _ => false) : Bool) = true) := by decide +kernel

/-- Clause by clause, the hypotheses of `Obligations.HeatHintsAndStaging` are met. -/
theorem witness_HeatHintsAndStaging :
    ((let d : Dev := { devOn [7] with now := 1600000 * 255 }
      decide (d.runs pgTack = true) &&
      decide (d.tack.halvedAt + msCycles (max (d.fd R.tackCfg 15 8) 1) ≤ d.now) : Bool) = true) ∧
    ((let d0 : Dev := running (devOn [6, 7]) 4095 0x38 []
      let d : Dev := { d0 with tack := { d0.tack with pins := [(4095, {})] } }
      let c : Nat := 4095
      decide (c < 4096) &&
      decide (d.live c = true) &&
      decide (Tab.has d.tack.pins c = true) : Bool) = true) ∧
    ((let d : Dev := withCmd (((devOn [6, 7]).setRg R.objBaseLo 0x2000000).putObj 65535 { st := 2, fn := 0, len := 1 }) 4095 0x38 [(32, 1, 0), (8, 8,
        objAddr 65535), (36, 4, 1)]
      let c : Nat := 4095
      decide (c < 4096) &&
      decide (Tab.has d.tack.pins c = false) &&
      decide (d.canStart c 0x38 = true) &&
      decide (d.runs pgTack = true) &&
      (match d.ctx? c with
      | some x =>
      decide (d.hintArgs x = true) &&
      decide ((x.n 33 1).testBit 0 = false) &&
      (match d.objStart x.desc with
      | some o =>
      true
      | _ => false)
      | _ => false) : Bool) = true) ∧
    ((let d : Dev := withCmd (withTbl (devColl [(76, 4, 5)]) 4097 3 0x30000 (bytesOf 352 [(0, 1, 3), (1, 1, 1), (4, 4, 1), (8, 4, 352), (12, 4, 64), (16, 4,
        5)])) 4095 0x38 [(33, 1, 7), (4, 4, 5), (36, 4, 2), (40, 4, 3)]
      let c : Nat := 4095
      decide (c < 4096) &&
      decide (Tab.has d.tack.pins c = false) &&
      decide (d.canStart c 0x38 = true) &&
      decide (d.runs pgTack = true) &&
      (match d.ctx? c with
      | some x =>
      decide (d.hintArgs x = true) &&
      decide ((x.n 33 1).testBit 0 = true) &&
      (match d.lookColl c x.coll with
      | (d1, .ok img slot) =>
      decide (d1.shardOk img d1.curGen = true) &&
      decide (x.n 40 4 + x.n 36 4 ≤ cLists img) &&
      let ws : List Want := [{ h := cDirTbl img, kind := 3, chk := 3 }]
      (match d1.bindLook c img ws with
      | (d2, .ok bs) =>
      (match d2.readEntries c ((bs.head?.map d2.boundBase).getD 0) ((List.range (x.n 36 4)).map (fun i => x.n 40 4 + i)) with
      | (d3, .ok es) =>
      true
      | _ => false)
      | _ => false)
      | _ => false)
      | _ => false) : Bool) = true) ∧
    ((let d : Dev := withCmd (((devOn [6, 7]).setRg R.objBaseLo 0x2000000).putObj 65535 { st := 2, fn := 0, len := 1 }) 4095 0x38 [(32, 1, 6)]
      let c : Nat := 4095
      decide (c < 4096) &&
      decide (Tab.has d.tack.pins c = false) &&
      decide (d.canStart c 0x38 = true) &&
      decide (d.runs pgTack = true) &&
      (match d.ctx? c with
      | some x =>
      decide (d.hintArgs x = false)
      | _ => false) : Bool) = true) ∧
    ((let d0 : Dev := ((devOn [7, 9]).setRg R.objBaseLo 0x2000000).putObj 33554431 { st := 2, fn := 0, len := 1, primary := 3, loc := 47 * 2 ^ 48 }
      let d : Dev := { d0 with flash := { ch := [(47, { up := true, inService := true, dies := 4, planes := 4, blocksPerDie := 512, pagesPerBlock := 1024, luCount := 2 ^ 20, reads := [{ obj := 33554431, ounit := 15, lu := 15, decoded := true }] })] } }
      let o : Nat := 33554431
      let u : Nat := 15
      decide (o < 2 ^ 25) &&
      let e := d.boundObj o 3
      let c := e.loc / 2 ^ 48
      (match d.chan? c with
      | some x =>
      (match x.reads.find? (fun r => r.obj == o && r.ounit == u && r.decoded) with
      | some r =>
      decide (d.enabled pgTack = true) &&
      let d1 := d.setChan c { x with reads := x.reads.erase r }
      decide (e.primary = 3) &&
      decide (d.staged o u = false) &&
      (match d1.stagePlace with
      | some (k, t) =>
      true
      | _ => false)
      | _ => false)
      | _ => false) : Bool) = true) ∧
    ((let d : Dev := { devOn [7] with now := 1600 * 70000, tack := { waits := [{ obj := 1, unit := 0, who := .master 0, addr := 0, len := 64, since := 0 }] } }
      let i : Nat := 0
      (match d.tack.waits[i]? with
      | some w =>
      decide (w.late = false) &&
      decide (w.since + usCycles (d.fd R.tackLate 15 0) < d.now)
      | _ => false) : Bool) = true) ∧
    ((let d : Dev := devOn [7]
      decide (d.runs pgTack = true) : Bool) = true) ∧
    ((let d : Dev := devOn [7]
      decide (d.runs pgTack = true) : Bool) = true) ∧
    ((let d : Dev := dev0
      decide (d.runs pgTack = false) : Bool) = true) ∧
    ((let d : Dev := dev0
      decide (d.runs pgTack = false) : Bool) = true) ∧
    ((let d : Dev := { devOn [7] with now := 1600000 * 19, tack := { nbr := [(63, { st := .active })] } }
      let e : Nat := 63
      decide (e < 64) &&
      (match Tab.find? d.tack.nbr e with
      | some x =>
      decide (d.enabled pgTack = true) &&
      decide (x.ackAt + msCycles d.nbrStopMs ≤ d.now)
      | _ => false) : Bool) = true) := by decide +kernel

/-- Clause by clause, the hypotheses of `Obligations.Leases` are met. -/
theorem witness_Leases :
    ((let d : Dev := withCmd (devNode [6, 8, 0x1E0] [4095]) 4095 0x49 [(32, 1, 3), (34, 2, 4095)]
      let c : Nat := 4095
      decide (c < 4096) &&
      decide (d.canStart c 0x49 = true) &&
      (match d.ctx? c with
      | some x =>
      decide (leaseArgsOk x d.node = false)
      | _ => false) : Bool) = true) ∧
    ((let d0 := withCmd (devNode [6, 8, 0x1E0] [4095]) 4095 0x49 [(32, 1, 4), (34, 2, 4095)]
      let d : Dev := { d0 with cmp := { d0.cmp with st := .fenced } }
      let c : Nat := 4095
      decide (c < 4096) &&
      decide (d.canStart c 0x49 = true) &&
      (match d.ctx? c with
      | some x =>
      decide (leaseArgsOk x d.node = true) &&
      decide (d.isFenced = true)
      | _ => false) : Bool) = true) ∧
    ((let d : Dev := withCmd (devNode [6, 8, 0x1E0] [4095]) 4095 0x49 [(32, 1, 4), (34, 2, 4095)]
      let c : Nat := 4095
      decide (c < 4096) &&
      decide (d.canStart c 0x49 = true) &&
      (match d.ctx? c with
      | some x =>
      decide (leaseArgsOk x d.node = true) &&
      decide (d.isFenced = false) &&
      decide (d.runs pgLat = true) &&
      (match (d.start c).sendLease (.lease c x.cinc) (x.n 34 2) x.mapGen x.fn (.command c x.cinc) (slice x.entry 32 32) with
      | (d1, sent) =>
      true)
      | _ => false) : Bool) = true) ∧
    ((let d0 : Dev := running (devNode [6, 8, 0x1E0] [4095]) 4095 0x49 []
      let d : Dev := { d0 with lat := { leaseCmds := [(4095, { op := 0, auto := false, node := 4095, handle := 0, sent := 0 })] }, fab := { d0.fab with tp := { d0.fab.tp with tags := [(8191, { use := .lease 4095 0, gen := 7, node := 4095, sent := 0, msg := 0x48, addr := 0 })] } } }
      let m : Msg := { msg := 0x68, tag := 8191 + 7 * 8192, src := 4095 }
      let st : Nat := 0
      let h : Nat := 5
      (match (d.took m).matchTag m with
      | some (t, e) =>
      decide (e.msg = 0x48) &&
      let d1 := ((d.took m).freeTagEntry t).bump pgBuckle 1 1
      let r := (if m.code = 0 then statusOf st else nackStatus m.code)
      (match e.use with
      | .lease c k =>
      decide (d1.isLive c k = true) &&
      (match Tab.find? d1.lat.leaseCmds c with
      | some p =>
      true
      | _ => false)
      | _ => false)
      | _ => false) : Bool) = true) ∧
    ((let d0 : Dev := devNode [8, 0x1E0] [4095]
      let d : Dev := { d0 with lat := { borrowed := [{ node := 4095, handle := 257, fn := 0, since := 0, lastSent := 0 }] }, fab := { d0.fab with tp := { d0.fab.tp with tags := [(8191, { use := .renewal 4095 257, gen := 7, node := 4095, sent := 0, msg := 0x48, addr := 0 })] } } }
      let m : Msg := { msg := 0x68, tag := 8191 + 7 * 8192, src := 4095 }
      let st : Nat := 2
      let h : Nat := 257
      (match (d.took m).matchTag m with
      | some (t, e) =>
      decide (e.msg = 0x48) &&
      let d1 := ((d.took m).freeTagEntry t).bump pgBuckle 1 1
      let r := (if m.code = 0 then statusOf st else nackStatus m.code)
      (match e.use with
      | .renewal n g =>
      true
      | _ => false)
      | _ => false) : Bool) = true) ∧
    ((let d0 : Dev := devNode [7, 8, 0x1E0] [4095]
      let d : Dev := { d0 with tack := { nbr := [(63, { st := .active, lease := 257 })] }, fab := { d0.fab with tp := { d0.fab.tp with tags := [(8191, { use := .nbrRenew 63, gen := 7, node := 4095, sent := 0, msg := 0x48, addr := 0 })] } } }
      let m : Msg := { msg := 0x68, tag := 8191 + 7 * 8192, src := 4095 }
      let st : Nat := 0
      let h : Nat := 257
      (match (d.took m).matchTag m with
      | some (t, e) =>
      decide (e.msg = 0x48) &&
      let d1 := ((d.took m).freeTagEntry t).bump pgBuckle 1 1
      let r := (if m.code = 0 then statusOf st else nackStatus m.code)
      (match e.use with
      | .nbrRenew x =>
      true
      | _ => false)
      | _ => false) : Bool) = true) ∧
    ((let d : Dev := devNode [8, 0x1E0] []
      let m : Msg := { msg := 0x68, tag := 8191 + 7 * 8192, src := 4095 }
      let st : Nat := 0
      let h : Nat := 5
      decide ((d.took m).matchTag m = none) : Bool) = true) ∧
    ((let d : Dev := { devNode [6, 8, 0x1E0] [4095] with now := 1600000*5, lat := { borrowed := [{ node := 4095, handle := 257, fn := 0, since := 0, lastSent := 0, auto := !false }] } }
      let n : Nat := 4095
      let h : Nat := 257
      (match d.borrowed? n h with
      | some b =>
      decide (b.auto = true) &&
      decide (b.lost = false) &&
      decide (d.isFenced = false) &&
      decide (d.runs pgLat = true) &&
      decide (b.lastSent + msCycles d.renewMs ≤ d.now) &&
      (match d.sendLease (.renewal n h) n d.curGen b.fn .work (leaseBytes 1 1 (h % 256) n h) with
      | (d1, sent) =>
      true)
      | _ => false) : Bool) = true) ∧
    ((let d : Dev := { devNode [6, 8, 0x1E0] [4095] with now := leaseTerm, lat := { borrowed := [{ node := 4095, handle := 257, fn := 0, since := 0, lastSent := 0 }] } }
      let n : Nat := 4095
      let h : Nat := 257
      (match d.borrowed? n h with
      | some b =>
      decide (b.since + leaseTerm ≤ d.now)
      | _ => false) : Bool) = true) ∧
    ((let d : Dev := { (devNode [6, 7, 8, 0x1E0] [4095]).setRgb R.nwinMap 1023 (w32 (4095 * 2 ^ 18 + 2 ^ 31)) with now := 8000000, tack := { nbr := [(63, { st := .active, base := nbrBase + 1023 * 2 ^ 34, len := 1, lease := 257 })] } }
      let e : Nat := 63
      decide (e < 64) &&
      (match Tab.find? d.tack.nbr e with
      | some x =>
      decide (x.st = .active) &&
      decide (x.renewTag = none) &&
      decide (d.runs pgTack = true) &&
      decide (d.isFenced = false) &&
      decide (x.renewAt + msCycles d.nbrRenewMs ≤ d.now) &&
      (match d.sendLease (.nbrRenew e) (fld (d.rgb R.nwinMap (x.base % 2 ^ 44 / 2 ^ 34)) 29 18) d.curGen 0 .work (leaseBytes 1 0 (x.lease % 256) (fld (d.rgb R.nwinMap (x.base % 2 ^ 44 / 2 ^ 34)) 29 18) x.lease) with
      | (d1, sent) =>
      true)
      | _ => false) : Bool) = true) ∧
    ((let d : Dev := devNode [8, 0x1E0] [4095]
      let m : Msg := { msg := 0x48, src := 4095, len := 32, data := natLe 32 2 }
      decide (d.runs pgLat = true) &&
      decide (m.data.length = 32) &&
      decide (leAt m.data 0 1 % 4 ≠ 3) &&
      decide (leAt m.data 0 1 < 16) : Bool) = true) ∧
    ((let d : Dev := devNode [8, 0x1E0] [4095]
      let m : Msg := { msg := 0x48, src := 4095, len := 32, data := natLe 32 16 }
      decide (d.runs pgLat = true) &&
      decide (m.data.length ≠ 32 ∨ leAt m.data 0 1 % 4 = 3 ∨ 16 ≤ leAt m.data 0 1) : Bool) = true) ∧
    ((let d : Dev := { dev0 with now := leaseTerm, lat := { slots := [(16383, { node := 4095, since := 0 })] } }
      let e : Nat := 255
      let i : Nat := 63
      decide (e < 256) &&
      decide (i < 64) &&
      (match Tab.find? d.lat.slots (64 * e + i) with
      | some x =>
      decide (x.since + leaseTerm ≤ d.now)
      | _ => false) : Bool) = true) ∧
    ((let d : Dev := { dev0 with now := leaseTerm + leaseGrace, lat := { slots := [(16383, { node := 4095, since := 0, ended := true })] } }
      let e : Nat := 255
      let i : Nat := 63
      decide (e < 256) &&
      decide (i < 64) &&
      (match Tab.find? d.lat.slots (64 * e + i) with
      | some x =>
      decide (x.ended = true ∧ x.since + leaseTerm + leaseGrace ≤ d.now)
      | _ => false) : Bool) = true) ∧
    ((let d : Dev := dev0.setRgb R.latExpCtl 255 1
      let e : Nat := 255
      decide (e < 256) &&
      decide (d.enabled pgLat = false) &&
      decide (fbit (d.rgb R.latExpCtl e) 0 = true) : Bool) = true) ∧
    ((let d : Dev := dev0
      let w : Nat := 15
      decide (w < 16) &&
      decide (d.enabled pgLat = false) : Bool) = true) ∧
    ((let d : Dev := dev0
      let n : Nat := 4095
      let a : Nat := 15
      decide (n < 4096) &&
      decide (a < 16) : Bool) = true) ∧
    ((let d0 := (devOn [8]).setFd R.latCfg 7 7 1
      let d : Dev := { d0 with now := 16, lat := { reclaim := [{ node := 4095, handle := 5, entered := 3 }], sweepFrom := 8 } }
      decide (d.runs pgLat = true) &&
      decide (d.fd R.latCfg 7 7 ≠ 0) : Bool) = true) := by decide +kernel

/-- Clause by clause, the hypotheses of `Obligations.Regions` are met. -/
theorem witness_Regions :
    ((let d : Dev := withCmd (devOn [6, 8]) 4095 0x40 [(8, 8, 63)]
      let c : Nat := 4095
      decide (c < 4096) &&
      decide (d.canStart c 0x40 = true) &&
      (match d.ctx? c with
      | some x =>
      decide (regionArgsOk x = false)
      | _ => false) : Bool) = true) ∧
    ((let d0 := withCmd (devOn [6, 8]) 4095 0x40 [(8, 8, 64), (28, 4, 64)]
      let d : Dev := { d0 with cmp := { d0.cmp with st := .fenced } }
      let c : Nat := 4095
      decide (c < 4096) &&
      decide (d.canStart c 0x40 = true) &&
      (match d.ctx? c with
      | some x =>
      decide (regionArgsOk x = true) &&
      decide (d.isFenced = true)
      | _ => false) : Bool) = true) ∧
    ((let d : Dev := withCmd ((devOn [6, 8]).setFd R.latRegCount 12 0 1) 4095 0x40 [(8, 8, 64), (28, 4, 64)]
      let c : Nat := 4095
      decide (c < 4096) &&
      decide (d.canStart c 0x40 = true) &&
      (match d.ctx? c with
      | some x =>
      decide (regionArgsOk x = true) &&
      decide (d.isFenced = false) &&
      decide (d.runs pgLat = true) &&
      decide (x.n 32 2 = d.node) &&
      (match d.regionSwap d.node (regionPubOf x) with
      | (d1, some (st, s0, s1)) =>
      true
      | _ => false)
      | _ => false) : Bool) = true) ∧
    ((let d : Dev := withCmd (((devOn [6, 8]).setFd R.latRegCount 12 0 1).setPg 0xC R.blkCtl 0) 4095 0x40 [(8, 8, 64), (28, 4, 64)]
      let c : Nat := 4095
      decide (c < 4096) &&
      decide (d.canStart c 0x40 = true) &&
      (match d.ctx? c with
      | some x =>
      decide (regionArgsOk x = true) &&
      decide (d.isFenced = false) &&
      decide (d.runs pgLat = true) &&
      decide (x.n 32 2 = d.node) &&
      (match d.regionSwap d.node (regionPubOf x) with
      | (d1, none) =>
      true
      | _ => false)
      | _ => false) : Bool) = true) ∧
    ((let d : Dev := withCmd (devNode [6, 8, 0x1E0] [4095]) 4095 0x40 [(32, 2, 4095), (8, 8, 64), (28, 4, 64)]
      let c : Nat := 4095
      decide (c < 4096) &&
      decide (d.canStart c 0x40 = true) &&
      (match d.ctx? c with
      | some x =>
      decide (regionArgsOk x = true) &&
      decide (d.isFenced = false) &&
      decide (d.runs pgLat = true) &&
      decide (x.n 32 2 ≠ d.node) &&
      (match (d.start c).sendReq (.region c x.cinc) ((d.start c).regionMsg x) { fn := x.fn, owner := .command c x.cinc } with
      | (d1, sent) =>
      true)
      | _ => false) : Bool) = true) ∧
    ((let d : Dev := (devNode [6, 8, 0x1E0] [4095])
      let m : Msg := { msg := 0x49, src := 4095, mapGen := 7 }
      let region : Nat := 0
      let expect : Nat := 0
      let base : Nat := 0
      let len : Nat := 64
      let hold : Nat := 0
      decide (d.runs pgLat = true) &&
      (match d.judge m with
      | some (code, a) =>
      true
      | _ => false) : Bool) = true) ∧
    ((let d0 : Dev := ((devNode [6, 8, 0x1E0] [4095]).setFd R.latRegCount 12 0 1).setPg 0xC R.blkCtl 0
      let d : Dev := { d0 with cmp := { d0.cmp with cur := some { gen := 7, base := 0x40000, len := 128 }, adm := [(4095, (2, 0))] } }
      let m : Msg := { msg := 0x49, src := 4095, mapGen := 7 }
      let region : Nat := 0
      let expect : Nat := 0
      let base : Nat := 0
      let len : Nat := 64
      let hold : Nat := 0
      decide (d.runs pgLat = true) &&
      decide (d.judge m = none) &&
      let p : RegionPub := { region := region, expect := expect, base := base, len := len, hold := hold }
      (match d.regionSwap m.src p with
      | (d1, none) =>
      true
      | _ => false) : Bool) = true) ∧
    ((let d0 : Dev := (devNode [6, 8, 0x1E0] [4095]).setFd R.latRegCount 12 0 1
      let d : Dev := { d0 with cmp := { d0.cmp with cur := some { gen := 7, base := 0x40000, len := 128 }, adm := [(4095, (2, 0))] } }
      let m : Msg := { msg := 0x49, src := 4095, mapGen := 7 }
      let region : Nat := 0
      let expect : Nat := 0
      let base : Nat := 0
      let len : Nat := 64
      let hold : Nat := 0
      decide (d.runs pgLat = true) &&
      decide (d.judge m = none) &&
      let p : RegionPub := { region := region, expect := expect, base := base, len := len, hold := hold }
      (match d.regionSwap m.src p with
      | (d1, some (st, s0, s1)) =>
      true
      | _ => false) : Bool) = true) ∧
    ((let d0 : Dev := running (devNode [6, 8, 0x1E0] [4095]) 4095 0x40 []
      let d : Dev := { d0 with lat := { regionCmds := [4095] }, fab := { d0.fab with tp := { d0.fab.tp with tags := [(8191, { use := .region 4095 0, gen := 7, node := 4095, sent := 0, msg := 0x49, addr := 0 })] } } }
      let m : Msg := { msg := 0x69, tag := 8191 + 7 * 8192, src := 4095 }
      let st : Nat := 0
      let s0 : Nat := 1
      let s1 : Nat := 0
      (match (d.took m).matchTag m with
      | some (t, e) =>
      decide (e.msg = 0x49) &&
      (match e.use with
      | .region c k =>
      let d1 := ((d.took m).freeTagEntry t).bump pgBuckle 1 1
      let d2 := { d1 with lat := { d1.lat with regionCmds := delNat d1.lat.regionCmds c } }
      decide (d2.isLive c k = true)
      | _ => false)
      | _ => false) : Bool) = true) := by decide +kernel

end Sys2Proof.Tests
end

section
/-! PROOFS. The scope of the model (00_scope.md): counters that saturate (R21), and commands that name a unit the part lacks (R4, R6). -/

namespace Sys2Proof.Machine
open Sys2Proof

/-! What counting does to each counter. -/

/-- A frozen block counts nothing (R55). -/
theorem Dev.bump_of_frozen {d : Dev} {p : Nat} (hf : d.frozen p = true) (b i n : Nat) : d.bump p b i n = d := by
  simp [Dev.bump, hf]

@[simp] theorem Dev.bump_zero (d : Dev) (p b i : Nat) : d.bump p b i 0 = d := by simp [Dev.bump]

/-- Counting anything in a block that is not frozen stores the saturated sum. -/
theorem Dev.bump_of_pos {d : Dev} {p n : Nat} (hf : d.frozen p = false) (hn : n ≠ 0) (b i : Nat) :
    d.bump p b i n = { d with cnts := Tab.set d.cnts (cntKey p b i) (sat 64 (d.cnt p b i + n)) } := by
  simp [Dev.bump, hf, hn]

/-- The counted value is the sum, or all ones past it (R21). -/
theorem Dev.cnt_bump_self {d : Dev} {p b i : Nat} (hf : d.frozen p = false) (hc : d.cnt p b i ≤ 2 ^ 64 - 1) (n : Nat) :
    (d.bump p b i n).cnt p b i = min (d.cnt p b i + n) (2 ^ 64 - 1) := by
  by_cases hn : n = 0
  · subst hn
    rw [Dev.bump_zero, Nat.add_zero, Nat.min_eq_left hc]
  · rw [Dev.bump_of_pos hf hn, Dev.cnt, Tab.getD_set_self]
    rfl

/-- A bank has room for 32 counters and a page for 256 banks, so keys of different counters differ. -/
theorem cntKey_inj {p b i p' b' i' : Nat} (hi : i < 32) (hb : b < 256) (hi' : i' < 32) (hb' : b' < 256)
    (h : cntKey p' b' i' = cntKey p b i) : p' = p ∧ b' = b ∧ i' = i := by
  unfold cntKey at h
  omega

/-- Counting leaves the counter of any other key as it was. -/
theorem Dev.cnt_bump_of_ne (d : Dev) {p b i p' b' i' : Nat} (hk : cntKey p' b' i' ≠ cntKey p b i) (n : Nat) :
    (d.bump p b i n).cnt p' b' i' = d.cnt p' b' i' := by
  unfold Dev.bump
  split
  · rfl
  · exact Tab.getD_set_of_ne _ _ _ _ _ hk

/-- Settles O15: `Dev.bump` stores the sum through `sat 64` under one key, and keys of different counters differ. -/
theorem countersSaturate : Obligations.CountersSaturate := by
  intro d p b i n hi hb hc
  refine ⟨fun hf => Dev.cnt_bump_self hf hc n, fun hf => Dev.bump_of_frozen hf b i n, fun p' b' i' hi' hb' hne => ?_⟩
  refine Dev.cnt_bump_of_ne d (fun hk => hne ?_) n
  obtain ⟨rfl, rfl, rfl⟩ := cntKey_inj hi hb hi' hb' hk
  rfl

/-! Every command completes, the two rows that may burn fuses too. -/

theorem brandDone_pending (bad : Nat) (s : State) : (brandDone bad s).pending = s.pending := by
  unfold brandDone
  split
  · rfl
  · dsimp only
    split <;> rfl

theorem coldBoot_pending (recovery selfTest : Bool) (torn : Nat) (hdr again : List Byte) (s : State) :
    (coldBoot recovery selfTest torn hdr again s).pending = s.pending := by
  unfold coldBoot
  split <;> rfl

/-- No command stops the machine or touches the queue. -/
theorem exec_completes (i : Instr) (s : State) : ∃ t, exec i s = .next t ∧ t.pending = s.pending := by
  cases hb : burns i
  case false =>
    obtain ⟨f, hf⟩ := exec_devOnly i hb
    exact ⟨_, hf s, rfl⟩
  case true =>
    cases i
    case brandOpDone bad => exact ⟨_, rfl, brandDone_pending bad s⟩
    case coldBoot r st n h a => exact ⟨_, rfl, coldBoot_pending r st n h a s⟩
    all_goals cases hb

/-! A register access of an absent unit leaves memory alone. -/

theorem mem_updEvtRead (d : Dev) (m : Master) : (d.updEvtRead m).1.mem = d.mem := by
  unfold Dev.updEvtRead
  split <;> rfl

theorem mem_skvEvtRead (d : Dev) (m : Master) (e : Nat) : (d.skvEvtRead m e).1.mem = d.mem := by
  unfold Dev.skvEvtRead
  split <;> rfl

theorem mem_latEvtRead (d : Dev) (m : Master) : (d.latEvtRead m).1.mem = d.mem := by
  unfold Dev.latEvtRead
  split <;> rfl

theorem mem_rasRecRead (d : Dev) (m : Master) : (d.rasRecRead m).1.mem = d.mem := by
  unfold Dev.rasRecRead
  split
  · rfl
  · refine foldl_keeps (fun e : Dev => e.mem = d.mem) _ (fun e w he => ?_) _ _ rfl
    exact he

theorem mem_inboxRead (d : Dev) (m : Master) (c : Nat) : (d.inboxRead m c).1.mem = d.mem := by
  unfold Dev.inboxRead
  dsimp only
  split <;> rfl

/-- Either branch of a read leaves memory alone. -/
theorem mem_fst_ite {d : Dev} (c : Prop) [Decidable c] {a b : Dev × Word} (ha : a.1.mem = d.mem) (hb : b.1.mem = d.mem) :
    (if c then a else b).1.mem = d.mem := by
  by_cases h : c
  · rw [if_pos h]; exact ha
  · rw [if_neg h]; exact hb

theorem mem_tempRead (d : Dev) : d.tempRead.1.mem = d.mem := by
  show (if _ then _ else d : Dev).mem = d.mem
  split <;> rfl

/-- No register read has an effect on memory. -/
theorem mem_regRead (d : Dev) (fu : Fuses) (m : Master) (p off : Nat) : (d.regRead fu m p off).1.mem = d.mem := by
  unfold Dev.regRead
  split
  · rfl
  next b n _ =>
    refine mem_fst_ite _ ?counter ?own
    case counter =>
      show (if off % 8 = 0 then d.cntLatch m b n off else d).mem = d.mem
      split <;> rfl
    case own =>
      cases b
      case ctxPool => exact mem_fst_ite _ rfl (mem_fst_ite _ (mem_updEvtRead d m) rfl)
      case keeper => exact mem_fst_ite _ rfl rfl
      case skiver => exact mem_fst_ite _ (mem_skvEvtRead d m n) rfl
      case latigo => exact mem_fst_ite _ (mem_latEvtRead d m) rfl
      case ras => exact mem_fst_ite _ (mem_rasRecRead d m) rfl
      case mgmt => exact mem_fst_ite _ (mem_inboxRead d m _) rfl
      case rein => exact mem_fst_ite _ rfl rfl
      case pwr => exact mem_fst_ite _ (mem_tempRead d) rfl
      all_goals rfl

theorem mem_readReg (m : Master) (p off : Nat) (fu : Fuses) (d : Dev) : (readReg m p off fu d).mem = d.mem := mem_regRead d fu m p off

/-- The outcome of a command in state `s` has the fuses and the memory of `s`. -/
def LeavesStores (s : State) (o : Host.Outcome State Fault Refusal) : Prop :=
  ∀ t, o = .next t → t.fuses = s.fuses ∧ t.dev.mem = s.dev.mem

theorem leavesStores_next {s t : State} (hf : t.fuses = s.fuses) (hm : t.dev.mem = s.dev.mem) : LeavesStores s (.next t) := by
  intro u hu
  obtain rfl := Host.Outcome.next.inj hu
  exact ⟨hf, hm⟩

theorem leavesStores_onFuses {f : Fuses → Dev → Dev} {s : State} (h : (f s.fuses s.dev).mem = s.dev.mem) :
    LeavesStores s (onFuses f s) :=
  leavesStores_next rfl h

/-- Past the function pages an access only raises ADDR_UNMAPPED (R49, R51). -/
theorem leavesStores_onPages {p : Nat} {f : Fuses → Dev → Dev} {s : State} (h : p < 0x1400 → (f s.fuses s.dev).mem = s.dev.mem) :
    LeavesStores s (onPages p f s) := by
  refine leavesStores_next rfl ?_
  by_cases hp : p < 0x1400
  · simp only [hp, if_true, h hp]
  · simp only [hp, if_false, (reports_unmapped s.dev _).mem]

/-- A page past the last of register space. -/
theorem leavesStores_onPages_of_absent {p : Nat} {f : Fuses → Dev → Dev} {s : State} (h : decide (p < 65536) = false) :
    LeavesStores s (onPages p f s) :=
  leavesStores_onPages fun hp => absurd (Nat.lt_trans hp (by decide)) (of_decide_eq_false h)

/-- A read that names a register of the part or none. -/
theorem mem_readReg_or_noReg (c : Prop) [Decidable c] (m : Master) (p off : Nat) (fu : Fuses) (d : Dev) :
    ((if c then readReg m p off else noReg) fu d).mem = d.mem := by
  split
  · exact mem_readReg m p off fu d
  · rfl

/-- A register access that names an absent unit leaves fuses and memory as they were (R6, R19, R49). -/
theorem leavesStores_of_absent_register {i : Instr} {s : State} (hw : wellFormed s.dev.part s.dev.eight i = false)
    (ha : accessesRegister i = true) : LeavesStores s (exec i s) := by
  unfold exec
  cases i
  case registerWrite | softReset | freeze | blkEnable | intStatClear | intForce | errStatClear | eccFlipArm | cntClear =>
    exact leavesStores_onPages_of_absent hw
  case cntValLoRead => exact leavesStores_onPages fun _ => mem_readReg_or_noReg _ _ _ _ _ _
  case kprWaitMaxRead | skvEvtRead | ccInboxLoRead | reinVtLoRead => exact leavesStores_onFuses (mem_readReg_or_noReg _ _ _ _ _ _)
  all_goals cases ha

/-! Any other command that names an absent unit changes nothing. -/

theorem onUnit_of_absent {has : Dev → Bool} {f : Dev → Dev} {s : State} (h : has s.dev = false) : onUnit has f s = .next s := by
  simp [onUnit, h]

/-- A command on a numbered unit without a register of its own. -/
theorem onFuses_of_absent {c : Prop} [Decidable c] {f : Fuses → Dev → Dev} {s : State} (h : decide c = false) :
    onFuses (fun fu d => if c then f fu d else d) s = .next s := by
  simp [onFuses, of_decide_eq_false h]

/-- A command that names an absent unit and accesses no register changes nothing (log entry 7): the guard of its meaning is what
`wellFormed` asks. -/
theorem exec_of_absent_unit {i : Instr} {s : State} (hw : wellFormed s.dev.part s.dev.eight i = false) (ha : accessesRegister i = false) :
    exec i s = .next s := by
  unfold exec
  cases i
  -- a command context
  case search | searchBatch | upsertBatch | deleteBatch | epochSeal | snapshotOpen | snapshotClose | tablePublish | tableRetire |
      rebuildList | embed | rerank | runProgram | awlSeq | awlFence | poolFill | poolCopy | poolCompare | poolReduce | dmaCopy | hint |
      regionPublish | admitColl | leaseRenew | fencedCommandStart | completionRecordWrite | ctxLost | lateSubopResult | commandDeadline |
      awlStepDone =>
    exact onUnit_of_absent hw
  -- a function or one of its rings
  case sqTailDoorbell | sqCfgWrite | cqHeadDoorbell | cqCfgWrite | fnEnable | fnQuiesce | fnReset | fnPendingEnable | fnSoftReset |
      fnFreeze | fnClean =>
    exact onUnit_of_absent hw
  -- a Keeper, a Lacing unit, a query or a stream
  case chainGrant | queryStart | embedPhase | coarsePhase | candidatePhase | rerankModelPhase | filterPhase | writePhase | lacingPass |
      coarseBatchWindow | scanPiece | keeperInsert | thresholdFeedback | streamEnd | awlTranche | edgerStreamOpen | edgerTranche |
      awlStreamOpen | subsearchTimeout | poolSlotGrant =>
    exact onUnit_of_absent hw
  -- an engine
  case engNop | engEnd | engLoop | engScalar | engDma | engWload | engMma | engVec | engQrow | engStep | engMerge | engSave | engLoad |
      engBarArrive | engBarWait | engBarSync | engWait | engFence | engEmit | engineReserve | engineWake | idleGateClose |
      tokenRetire =>
    exact onUnit_of_absent hw
  -- a unit of Rein
  case starved | reinSelect =>
    exact onUnit_of_absent hw
  -- a Hide stack
  case offlineReq | hidePllLoss | laneFail | refreshDue | stitchEnd =>
    exact onUnit_of_absent hw
  -- an object, a node, a window, a lease or a neighbour
  case objSeal | objFree | copyDone | verifyDone | migrationAbandon | stagingFill | suspectClear | exportInvalidate | windowEnable |
      leaseTermEnd | leaseReclaim | nbrRenew | nbrStop =>
    exact onUnit_of_absent hw
  -- a rail, a die, a reference clock, a laser tile
  case lsrOn | currentReading | adaptiveVoltage | refclkLoss | fclkPllLoss | laserLow | laserRecovered =>
    exact onUnit_of_absent hw
  -- a port
  case linkUp | trainingFailed | linkDown | retrain | flitReceive | retryReq | retryReqResend | creditStall =>
    exact onUnit_of_absent hw
  -- a flash channel or a Saddlebag slot
  case currierWrite | deallocate | readDecode | foldStart | mapWriteback | dieTimeout | busBringup | programDone | gcStart |
      zqCalibration | blockVerify | eraseDone | lineFillDone | sbLate =>
    exact onUnit_of_absent hw
  -- a collection or the source of a forwarded message
  case subSearch | subResult | updateFwd | updateReply | sealMsg | sealTimer | sealCheck | ageSweep | sealForward | sealRefusal |
      rebuildPublish =>
    exact onUnit_of_absent hw
  -- a core's inbox, a function's message, a transport tag
  case ccInboxHiWrite | intMessageSend | transportTimeout => exact onFuses_of_absent hw
  case registerWrite | softReset | freeze | blkEnable | intStatClear | intForce | errStatClear | eccFlipArm | cntClear | cntValLoRead |
      kprWaitMaxRead | skvEvtRead | ccInboxLoRead | reinVtLoRead => cases ha
  -- the others name no unit that a part may lack
  all_goals cases hw

/-- Settles O3: a command that names an absent unit stops at the guard of its meaning; a register access of one only answers or raises
ADDR_UNMAPPED. -/
theorem everyCommandCompletes : Obligations.EveryCommandCompletes := by
  intro i s
  refine ⟨exec_completes i s, exec_of_absent_unit, fun t hw ht => ?_⟩
  cases ha : accessesRegister i
  case false => exact leavesStores_next rfl rfl t ((exec_of_absent_unit hw ha).symm.trans ht)
  case true => exact leavesStores_of_absent_register hw ha t ht

end Sys2Proof.Machine
end

section
/-! PROOFS. Sparse tables of which the entries of some keys are kept. -/

namespace Sys2Proof

variable {α : Type} {keep : Nat → Bool} {k : Nat}

/-- Keeping the entries of some keys finds nothing at another. -/
theorem Tab.find?_filter_of_not (hk : keep k = false) :
    (t : Tab α) → Tab.find? (t.filter (fun e => keep e.1)) k = none
  | [] => rfl
  | (j, a) :: t => by
    have ih := Tab.find?_filter_of_not hk t
    by_cases hj : keep j = true
    · have hjk : j ≠ k := fun e => by simp [e, hk] at hj
      simp [hj, Tab.find?, hjk, ih]
    · simpa [hj] using ih

/-- Keeping the entries of some keys of a table in form finds what stood at each of them. -/
theorem Tab.find?_filter_of_keep (hk : keep k = true) (t : Tab α) (h : Tab.wf t = true) :
    Tab.find? (t.filter (fun e => keep e.1)) k = Tab.find? t k := by
  rw [Tab.wf_iff] at h
  induction t with
  | nil => rfl
  | cons e t ih =>
    obtain ⟨j, a⟩ := e
    rw [List.pairwise_cons] at h
    obtain ⟨hlt, ht⟩ := h
    by_cases hj : keep j = true
    · simp only [List.filter_cons, hj, if_true, Tab.find?, ih ht]
    · have hjk : j ≠ k := fun e => hj (e ▸ hk)
      simp only [List.filter_cons, if_neg hj, Tab.find?, if_neg hjk, ih ht]
      split
      · next hkj => exact Tab.find?_none_of_lt k t fun x hx => Nat.lt_trans hkj (hlt x hx)
      · rfl

end Sys2Proof
end

section
/-! PROOFS. The control model (02_control_model.md): counter banks and their registers (R55, R59, R491, R559). -/

namespace Sys2Proof.Machine
open Sys2Proof

/-! A command on a register page that has registers. -/

theorem onPages_next {p : Nat} {f : Fuses → Dev → Dev} {q : List Instr} {fu : Fuses} {d e : Dev} (hp : p < 0x1400) (h : f fu d = e) :
    onPages p f ⟨q, fu, d⟩ = .next ⟨q, fu, e⟩ := by
  simp [onPages, hp, h]

/-- Plain writes change stored registers alone. -/
theorem Dev.plainWrite_regs (d : Dev) (m : Master) (b : Blk) (n off : Nat) (v : Word) :
    ∃ regs, d.plainWrite m b n off v = { d with regs := regs } := by
  unfold Dev.plainWrite
  split
  · exact ⟨d.regs, rfl⟩
  · split
    · exact ⟨_, rfl⟩
    · exact ⟨_, rfl⟩

@[simp] theorem Dev.plainWrite_cnts (d : Dev) (m : Master) (b : Blk) (n off : Nat) (v : Word) : (d.plainWrite m b n off v).cnts = d.cnts := by
  obtain ⟨regs, h⟩ := d.plainWrite_regs m b n off v
  rw [h]

@[simp] theorem Dev.plainWrite_rqSelOf (d : Dev) (m : Master) (b : Blk) (n off : Nat) (v : Word) (m' : Master) (i : Nat) :
    (d.plainWrite m b n off v).rqSelOf m' i = d.rqSelOf m' i := by
  obtain ⟨regs, h⟩ := d.plainWrite_regs m b n off v
  rw [h]
  rfl

/-! CNT_CLEAR. -/

/-- BANK of the word that CNT_CLEAR writes to CNT_SEL. -/
theorem fld_clearWord (k : Nat) : fld (w32 (k % 256 + 256)) 7 0 = k % 256 := by
  simp only [fld, bits, w32, BitVec.toNat_ofNat]
  omega

/-- CLEAR of that word. -/
theorem fbit_clearWord (k : Nat) : fbit (w32 (k % 256 + 256)) 8 = true := by
  have h : (k % 256 + 256) % 2 ^ 32 = 2 ^ 8 + k % 256 := by omega
  rw [fbit, w32, BitVec.toNat_ofNat, h, Nat.testBit_two_pow_add_eq, Nat.testBit_lt_two_pow (by omega)]
  rfl

/-- Every page has the registers below 0x0100. -/
theorem onPage_common (b : Blk) (n : Nat) {off : Nat} (h : off < 0x100) : onPage b n off = true := by
  have : ¬ 0x200 ≤ off := by omega
  simp [onPage, this]

/-- CNT_CLEAR of a unit's page: CNT_SEL takes the bank, then the bank is cleared. -/
theorem exec_cntClear {d : Dev} {b : Blk} {n p : Nat} (hu : d.pageUnit p = some (b, n)) (hp : p < 0x1400) (q : List Instr) (fu : Fuses)
    (m : Master) (bank : Nat) :
    exec (.cntClear m p bank) ⟨q, fu, d⟩ =
      .next ⟨q, fu, (d.plainWrite m b n 0x40 (w32 (bank % 256 + 256))).cntClear m b n (bank % 256)⟩ := by
  show execCntClear m p bank _ = _
  refine onPages_next hp ?_
  simp [Dev.regWrite, hu, onPage_common, Dev.commonWrite, fld_clearWord, fbit_clearWord]

/-- The keys of a bank are those of its 32 positions. -/
theorem cntKey_div {i : Nat} (hi : i < 32) (p bank : Nat) : cntKey p bank i / 32 = 256 * p + bank := by
  unfold cntKey
  omega

/-- Clearing a bank whose counters stand by page and bank drops their entries. -/
theorem Dev.cnts_cntClear {b : Blk} {bank : Nat} (h : bank ≠ 1 ∨ (b ≠ .ras ∧ b ≠ .rein)) (d : Dev) (m : Master) (n : Nat) :
    (d.cntClear m b n bank).cnts = d.cnts.filter (fun e => e.1 / 32 != 256 * b.page n + bank) := by
  have hras : (b == .ras && decide (bank = 1)) = false := by
    rcases h with h | ⟨h, -⟩ <;> simp [h]
  have hrein : (b == .rein && decide (bank = 1)) = false := by
    rcases h with h | ⟨-, h⟩ <;> simp [h]
  simp [Dev.cntClear, hras, hrein]

/-- Every counter of the bank is zero (R55). -/
theorem Dev.cnt_cntClear_self {b : Blk} {bank i : Nat} (h : bank ≠ 1 ∨ (b ≠ .ras ∧ b ≠ .rein)) (hi : i < 32) (d : Dev) (m : Master)
    (n : Nat) : (d.cntClear m b n bank).cnt (b.page n) bank i = 0 := by
  rw [Dev.cnt, Dev.cnts_cntClear h, Tab.getD,
    Tab.find?_filter_of_not (keep := fun k => k / 32 != 256 * b.page n + bank) (by simp [cntKey_div hi])]
  rfl

/-- With the table of counters in form, every counter of another page or bank is as it was. -/
theorem Dev.cnt_cntClear_of_ne {b : Blk} {bank p' bank' i n : Nat} (h : bank ≠ 1 ∨ (b ≠ .ras ∧ b ≠ .rein)) (hi : i < 32) (hb : bank < 256)
    (hb' : bank' < 256) (hne : (p', bank') ≠ (b.page n, bank)) {d : Dev} (hw : Tab.wf d.cnts = true) (m : Master) :
    (d.cntClear m b n bank).cnt p' bank' i = d.cnt p' bank' i := by
  have hk : (cntKey p' bank' i / 32 != 256 * b.page n + bank) = true := by
    rw [cntKey_div hi, bne_iff_ne]
    intro e
    exact hne (by rw [Prod.mk.injEq]; omega)
  rw [Dev.cnt, Dev.cnts_cntClear h, Tab.getD, Tab.find?_filter_of_keep (keep := fun k => k / 32 != 256 * b.page n + bank) hk _ hw]
  rfl

/-- Bank 1 of the RAS page: the write of CNT_SEL is all there is (R559). -/
theorem Dev.cntClear_ras (d : Dev) (m : Master) (n : Nat) : d.cntClear m .ras n 1 = d := by simp [Dev.cntClear]

/-- Bank 1 of a page of Rein: the counters of the function that the master has selected are zero (R491). -/
theorem Dev.cntClear_rein {i : Nat} (hi : i < 32) (d : Dev) (m : Master) (n : Nat) :
    Tab.getD (d.cntClear m .rein n 1).cnts (fnCntKey n (d.rqSelOf m n) i) 0 = 0 := by
  have hk : fnCntKey n (d.rqSelOf m n) i / 32 = fnCntKey n (d.rqSelOf m n) 0 / 32 := by
    unfold fnCntKey
    omega
  show Tab.getD (d.cnts.filter (fun e => e.1 / 32 != fnCntKey n (d.rqSelOf m n) 0 / 32)) _ 0 = 0
  rw [Tab.getD, Tab.find?_filter_of_not (keep := fun k => k / 32 != fnCntKey n (d.rqSelOf m n) 0 / 32) (by simp [hk])]
  rfl

/-! CNT_VAL_LO_READ. -/

/-- CNT_VAL_LO_x reads the low half of the counter shown; the high half goes into the master's shadow (R59). -/
theorem exec_cntValLoRead {d : Dev} {b : Blk} {n x : Nat} (hu : d.pageUnit (b.page n) = some (b, n)) (hp : b.page n < 0x1400) (hx : x < 23)
    (q : List Instr) (fu : Fuses) (m : Master) :
    exec (.cntValLoRead m (b.page n) x) ⟨q, fu, d⟩ = .next ⟨q, fu,
      (d.setShadow m (b.page n) (0x4C + 8 * x) (w32 (d.shownCnt m b n x / 2 ^ 32))).answer
        (natLe 4 (w32 (d.shownCnt m b n x % 2 ^ 32)).toNat)⟩ := by
  have hlo : 0x48 ≤ 0x48 + 8 * x := by omega
  have hhi : 0x48 + 8 * x < 0x100 := by omega
  have hoff : (0x48 + 8 * x) % 8 = 0 := by omega
  have hpos : (0x48 + 8 * x - 0x48) / 8 = x := by omega
  have hshadow : 0x48 + 8 * x + 4 = 0x4C + 8 * x := by omega
  have hid : 0x48 + 8 * x ≠ 4 ∧ 0x48 + 8 * x ≠ 8 ∧ 0x48 + 8 * x ≠ 12 := by omega
  have hvalue : d.regValue fu m (b.page n) (0x48 + 8 * x) = w32 (d.shownCnt m b n x % 2 ^ 32) := by
    simp [Dev.regValue, hu, onPage_common b n hhi, hhi, Dev.commonReg, hid, hoff]
  show execCntValLoRead m (b.page n) x _ = _
  refine onPages_next hp ?_
  simp only [hx, if_true, readReg, Dev.regRead, hu, hvalue, hlo, hhi, hoff, decide_true, Bool.and_self, Dev.cntLatch, hpos, hshadow]

/-- Past the 23 positions there is no register, and a read gives zeros (log entry 7). -/
theorem exec_cntValLoRead_past {d : Dev} {p x : Nat} (hp : p < 0x1400) (hx : 23 ≤ x) (q : List Instr) (fu : Fuses) (m : Master) :
    exec (.cntValLoRead m p x) ⟨q, fu, d⟩ = .next ⟨q, fu, d.answer (natLe 4 0)⟩ := by
  show execCntValLoRead m p x _ = _
  refine onPages_next hp ?_
  rw [if_neg (Nat.not_lt.2 hx)]
  rfl

/-! The statement, for counter tables in form and for others. -/

/-- All that O38 says holds of a device whose counter table is in form. -/
theorem countersClearAndLatch_of_wf {d : Dev} (hw : Tab.wf d.cnts = true) {b : Blk} {n p : Nat} (hpage : p = b.page n)
    (hu : d.pageUnit p = some (b, n)) (hp : p < 0x1400) (q : List Instr) (fu : Fuses) (m : Master) :
    (∀ bank, bank % 256 ≠ 1 ∨ (b ≠ .ras ∧ b ≠ .rein) → ∃ e : Dev, exec (.cntClear m p bank) ⟨q, fu, d⟩ = .next ⟨q, fu, e⟩ ∧
      (∀ i, i < 32 → e.cnt p (bank % 256) i = 0) ∧
      (∀ p' bank' i, i < 32 → bank' < 256 → (p', bank') ≠ (p, bank % 256) → e.cnt p' bank' i = d.cnt p' bank' i)) ∧
    (∀ bank, bank % 256 = 1 → b = .ras → exec (.cntClear m p bank) ⟨q, fu, d⟩ = .next ⟨q, fu, d.plainWrite m .ras n 0x40 0x101⟩) ∧
    (∀ bank, bank % 256 = 1 → b = .rein → ∃ e : Dev, exec (.cntClear m p bank) ⟨q, fu, d⟩ = .next ⟨q, fu, e⟩ ∧
      (∀ i, i < 32 → Tab.getD e.cnts (fnCntKey n (d.rqSelOf m n) i) 0 = 0)) ∧
    (∀ x, x < 23 → exec (.cntValLoRead m p x) ⟨q, fu, d⟩ = .next ⟨q, fu,
      (d.setShadow m p (0x4C + 8 * x) (w32 (d.shownCnt m b n x / 2 ^ 32))).answer (natLe 4 (w32 (d.shownCnt m b n x % 2 ^ 32)).toNat)⟩) ∧
    (∀ x, 23 ≤ x → exec (.cntValLoRead m p x) ⟨q, fu, d⟩ = .next ⟨q, fu, d.answer (natLe 4 0)⟩) := by
  subst hpage
  refine ⟨fun bank h => ⟨_, exec_cntClear hu hp q fu m bank, ?zeroed, ?kept⟩, ?ras, ?rein,
    fun x hx => exec_cntValLoRead hu hp hx q fu m, fun x hx => exec_cntValLoRead_past hp hx q fu m⟩
  case zeroed => exact fun i hi => Dev.cnt_cntClear_self h hi _ m n
  case kept =>
    intro p' bank' i hi hb' hne
    rw [Dev.cnt_cntClear_of_ne h hi (Nat.mod_lt _ (by decide)) hb' hne (by simpa using hw), Dev.cnt, Dev.plainWrite_cnts]
    rfl
  case ras =>
    rintro bank hbank rfl
    rw [exec_cntClear hu hp, hbank, Dev.cntClear_ras]
    rfl
  case rein =>
    rintro bank hbank rfl
    refine ⟨_, exec_cntClear hu hp q fu m bank, fun i hi => ?_⟩
    rw [hbank, ← Dev.plainWrite_rqSelOf d m .rein n 0x40 (w32 (1 + 256)) m n]
    exact Dev.cntClear_rein hi _ m n

/-- A device whose counter table lists position 0 of PWR before position 0 of CLK, the lesser key: `Tab.find?`, which stops at the first
greater key, does not see the second. -/
def unorderedCounters : Dev := { cnts := [(cntKey 1 0 0, 1), (cntKey 0 0 0, 1)] }

/-- Refutes O38: the clause that leaves every other counter as it was asks nothing of the counter table. In `unorderedCounters` clearing
bank 0 of PWR drops the entry that hid CLK's counter, which then reads 1 where it read 0. `countersClearAndLatch_of_wf` is the statement
with that premise. -/
theorem not_countersClearAndLatch : ¬ Obligations.CountersClearAndLatch := by
  intro h
  have hu : unorderedCounters.pageUnit 1 = some (.pwr, 0) := rfl
  obtain ⟨clear, -⟩ := h [] {} unorderedCounters (.core 0) .pwr 0 1 rfl hu (by decide)
  obtain ⟨e, he, -, keep⟩ := clear 0 (.inl (by decide))
  rw [exec_cntClear hu (by decide)] at he
  have hcnt : e.cnt 0 0 0 = 1 := by
    cases he
    rw [Dev.cnt, Dev.cnts_cntClear (.inl (by decide)), Dev.plainWrite_cnts]
    rfl
  have hkept : e.cnt 0 0 0 = unorderedCounters.cnt 0 0 0 := keep 0 0 0 (by decide) (by decide) (by decide)
  have hwas : unorderedCounters.cnt 0 0 0 = 0 := rfl
  omega

end Sys2Proof.Machine
end

section
/-! PROOFS. The control model (02_control_model.md): rings, fetching, fences, completion records and commands that end early (R60 to R76,
R154, R470, R597). -/

namespace Sys2Proof.Machine
open Sys2Proof

/-! A command of a unit the part has is its operation on the device. -/

theorem onCtx_next {c : Nat} (hc : c < 4096) {f : Dev → Dev} {d e : Dev} (h : f d = e) (q : List Instr) (fu : Fuses) :
    onUnit (fun _ => decide (c < 4096)) f ⟨q, fu, d⟩ = .next ⟨q, fu, e⟩ := by
  simp [onUnit, hc, h]

theorem onRing_next {f n : Nat} (hf : f < 1024) (hn : n < 8) {op : Dev → Dev} {d e : Dev} (h : op d = e) (q : List Instr) (fu : Fuses) :
    onUnit (fun _ => decide (f < 1024) && decide (n < 8)) op ⟨q, fu, d⟩ = .next ⟨q, fu, e⟩ := by
  simp [onUnit, hf, hn, h]

theorem onDev_next {op : Dev → Dev} {d e : Dev} (h : op d = e) (q : List Instr) (fu : Fuses) : onDev op ⟨q, fu, d⟩ = .next ⟨q, fu, e⟩ := by
  rw [onDev_state, h]

/-! Doorbells (R61, R62, R472). -/

theorem sqTailOp_of_lt {d : Dev} {f n v : Nat} (h : v < ringSize (d.rg (R.sqCfg n) f)) : sqTailOp f n v d = d.setRg (R.sqTail n) (w32 v) f :=
  if_neg (Nat.not_le.2 h)

theorem sqTailOp_of_le {d : Dev} {f n v : Nat} (h : ringSize (d.rg (R.sqCfg n) f) ≤ v) : sqTailOp f n v d = d.ringErr f := if_pos h

section
variable {d : Dev} {f n v size old tail : Nat} (hsize : size = ringSize (d.rg (R.cqCfg n) f))
  (hold : old = (d.rg (R.cqHead n) f).toNat % size) (htail : tail = (d.rg (R.cqTail n) f).toNat)
include hsize hold htail

/-- A head inside the ring that does not pass the tail is stored, with a new message while records remain. -/
theorem cqHeadOp_of_reached (hv : v < size) (hle : (v + size - old) % size ≤ (tail + size - old) % size) :
    cqHeadOp f n v d = if v = tail then d.setRg (R.cqHead n) (w32 v) f else (d.setRg (R.cqHead n) (w32 v) f).cqMessage f n := by
  subst hsize hold htail
  simp only [cqHeadOp, Nat.not_le.2 hv, Nat.not_lt.2 hle, decide_false, Bool.or_self, Bool.false_eq_true, if_false]

theorem cqHeadOp_of_past (h : size ≤ v ∨ (tail + size - old) % size < (v + size - old) % size) : cqHeadOp f n v d = d.ringErr f := by
  subst hsize hold htail
  rcases h with h | h <;> simp [cqHeadOp, h]
end

/-! Configuration of a submission ring (R61). -/

section
variable {d : Dev} {f n : Nat} {w v : Word} (hv : v = w &&& 0x8000071F)
include hv

/-- Enabling a submission ring clears its indexes. -/
theorem sqCfgOp_enables (hoff : ringOn (d.rg (R.sqCfg n) f) = false) (hon : ringOn v = true) (hok : ringOk v (d.sqBase f n) = true) :
    sqCfgOp f n w d = ((d.setRg (R.sqCfg n) v f).setRg (R.sqTail n) 0 f).setRg (R.sqHead n) 0 f := by
  simp only [sqCfgOp, ← hv, hoff, hon, hok, Bool.false_eq_true, if_false, if_true]

theorem sqCfgOp_of_bad_ring (hoff : ringOn (d.rg (R.sqCfg n) f) = false) (hon : ringOn v = true) (hbad : ringOk v (d.sqBase f n) = false) :
    sqCfgOp f n w d = d.ringErr f := by
  simp only [sqCfgOp, ← hv, hoff, hon, hbad, Bool.false_eq_true, if_false, if_true]

theorem sqCfgOp_of_fixed_changed (hon : ringOn (d.rg (R.sqCfg n) f) = true) (h : (d.rg (R.sqCfg n) f ^^^ v) &&& 0x71F ≠ 0) :
    sqCfgOp f n w d = d.ringErr f := by
  simp only [sqCfgOp, ← hv, hon, if_true, bne_iff_ne.2 h]

theorem sqCfgOp_stores (h : ringOn (d.rg (R.sqCfg n) f) = true ∧ (d.rg (R.sqCfg n) f ^^^ v) &&& 0x71F = 0 ∨
    ringOn (d.rg (R.sqCfg n) f) = false ∧ ringOn v = false) : sqCfgOp f n w d = d.setRg (R.sqCfg n) v f := by
  rcases h with ⟨hon, hkept⟩ | ⟨hoff, hoff'⟩
  · simp only [sqCfgOp, ← hv, hon, if_true, hkept, bne_self_eq_false, Bool.false_eq_true, if_false]
  · simp only [sqCfgOp, ← hv, hoff, hoff', Bool.false_eq_true, if_false]
end

/-! Configuration of a completion ring (R61, R75, R76). -/

section
variable {d : Dev} {f n : Nat} {w v : Word} (hv : v = w &&& 0x8000011F)
include hv

/-- Enabling a completion ring clears its indexes and starts its phase; then the records that wait are written. -/
theorem cqCfgOp_enables {d1 : Dev} (hoff : ringOn (d.rg (R.cqCfg n) f) = false) (hon : ringOn v = true) (hok : ringOk v (d.cqBase f n) = true)
    (hd : d1 = (((d.setRg (R.cqCfg n) v f).setRg (R.cqTail n) 0 f).setRg (R.cqHead n) 0 f).setFn f
      { d.fn f with flipped := delNat (d.fn f).flipped n }) :
    cqCfgOp f n w d = (d1.waitingFor f n).foldl (fun e c => recordWriteOp c e) d1 := by
  subst hd
  simp only [cqCfgOp, ← hv, hoff, hon, hok, Bool.false_eq_true, if_false, if_true]
  rfl

theorem cqCfgOp_of_bad_ring (hoff : ringOn (d.rg (R.cqCfg n) f) = false) (hon : ringOn v = true) (hbad : ringOk v (d.cqBase f n) = false) :
    cqCfgOp f n w d = d.ringErr f := by
  simp only [cqCfgOp, ← hv, hoff, hon, hbad, Bool.false_eq_true, if_false, if_true]

theorem cqCfgOp_of_fixed_changed (hon : ringOn (d.rg (R.cqCfg n) f) = true) (h : (d.rg (R.cqCfg n) f ^^^ v) &&& 0x1F ≠ 0) :
    cqCfgOp f n w d = d.ringErr f := by
  simp only [cqCfgOp, ← hv, hon, if_true, bne_iff_ne.2 h]

theorem cqCfgOp_stores (h : ringOn (d.rg (R.cqCfg n) f) = true ∧ (d.rg (R.cqCfg n) f ^^^ v) &&& 0x1F = 0 ∨
    ringOn (d.rg (R.cqCfg n) f) = false ∧ ringOn v = false) : cqCfgOp f n w d = d.setRg (R.cqCfg n) v f := by
  rcases h with ⟨hon, hkept⟩ | ⟨hoff, hoff'⟩
  · simp only [cqCfgOp, ← hv, hon, if_true, hkept, bne_self_eq_false, Bool.false_eq_true, if_false]
  · simp only [cqCfgOp, ← hv, hoff, hoff', Bool.false_eq_true, if_false]
end

/-- Settles O16: each branch of the four ring operations. -/
theorem ringDoorbellsAndConfiguration : Obligations.RingDoorbellsAndConfiguration := by
  intro q fu d f n hf hn
  refine ⟨?tail_in, ?tail_past, ?head, ?sq, ?cq⟩
  case tail_in =>
    rintro w _ rfl h
    exact onRing_next hf hn (sqTailOp_of_lt h) q fu
  case tail_past =>
    rintro w _ rfl h
    exact onRing_next hf hn (sqTailOp_of_le h) q fu
  case head =>
    rintro w _ size old tail rfl hsize hold htail
    refine ⟨fun hv hle heq => ?_, fun hv hle hne => ?_, fun h => onRing_next hf hn (cqHeadOp_of_past hsize hold htail h) q fu⟩
    · exact onRing_next hf hn ((cqHeadOp_of_reached hsize hold htail hv hle).trans (if_pos heq)) q fu
    · exact onRing_next hf hn ((cqHeadOp_of_reached hsize hold htail hv hle).trans (if_neg hne)) q fu
  case sq =>
    intro w v hv
    exact ⟨fun hoff hon hok => onRing_next hf hn (sqCfgOp_enables hv hoff hon hok) q fu,
      fun hoff hon hbad => onRing_next hf hn (sqCfgOp_of_bad_ring hv hoff hon hbad) q fu,
      fun hon h => onRing_next hf hn (sqCfgOp_of_fixed_changed hv hon h) q fu,
      fun h => onRing_next hf hn (sqCfgOp_stores hv h) q fu⟩
  case cq =>
    intro w v hv
    exact ⟨fun hoff hon hbad => onRing_next hf hn (cqCfgOp_of_bad_ring hv hoff hon hbad) q fu,
      fun hon h => onRing_next hf hn (cqCfgOp_of_fixed_changed hv hon h) q fu,
      fun h => onRing_next hf hn (cqCfgOp_stores hv h) q fu,
      fun d1 hoff hon hok hd => onRing_next hf hn (cqCfgOp_enables hv hoff hon hok hd) q fu⟩

/-! Fetching (R63, R68, R470, R600). -/

/-- The device after the read of an entry of ring n of function f: what was read goes into a context, a failed read as a poisoned entry
(log entry 45). -/
def entryTaken (f n : Nat) : Dev × Got → Dev
  | (d, .wait) => d
  | (d, .fail _) => d.takeEntry f n (List.replicate 64 0) true
  | (d, .ready b bad) => d.takeEntry f n b bad.isSome

/-- The fetch pointer moves past the winning ring, and its entry is read at head. -/
theorem commandFetchOp_of_winner {d : Dev} {j p : Nat} (hrun : d.runs pgCtx = true) (hfree : d.cp.held.length < 4096)
    (hpick : rotatePickL d.fetchers d.cp.fetchPtr 8192 = (some j, p)) :
    commandFetchOp d = entryTaken (j / 8) (j % 8) (({ d with cp := { d.cp with fetchPtr := p } } : Dev).cmdRead (ringReader j)
      (d.sqBase (j / 8) (j % 8) + 64 * (d.rg (R.sqHead (j % 8)) (j / 8)).toNat) 64) := by
  unfold commandFetchOp
  simp only [hrun, Nat.not_le.2 hfree, decide_false, Bool.not_true, Bool.or_self, Bool.false_eq_true, if_false, hpick]
  rfl

/-! Fences (R64, R71). -/

/-- A reserved opcode ends a command that is ready. -/
theorem Dev.opKnown_of_ready {d : Dev} {c : Nat} {x : Ctx} (hx : d.ctx? c = some x) (hr : x.ready = true) :
    d.opKnown c = if opcodes.contains x.opcode = true then d else d.finishSt c .invalidCmd := by
  simp only [Dev.opKnown, hx, hr, Bool.true_and]
  cases opcodes.contains x.opcode <;> rfl

/-- A fence ends when no earlier command of the ring is held. -/
theorem fencedStartOp_of_first {d : Dev} {c : Nat} {x : Ctx} (hx : d.ctx? c = some x) (hr : x.ready = false) (hd : x.done = none)
    (hw : d.ctxWorks = true) (hfirst : ∀ e ∈ d.cp.held, e.2.fn = x.fn → e.2.sq = x.sq → ¬ e.2.seq < x.seq) :
    fencedStartOp c d = if opcodes.contains x.opcode = true then d.setCtx c { x with ready := true }
      else (d.setCtx c { x with ready := true }).finishSt c .invalidCmd := by
  have hnone : d.cp.held.any (fun e => e.2.fn == x.fn && e.2.sq == x.sq && decide (e.2.seq < x.seq)) = false := by
    rw [List.any_eq_false]
    intro e he
    simpa using hfirst e he
  refine Eq.trans ?_ (Dev.opKnown_of_ready (x := { x with ready := true }) (Dev.setCtx_get d c _) rfl)
  simp only [fencedStartOp, hx, hr, hd, hw, hnone, Option.isSome_none, Bool.not_true, Bool.or_self, Bool.false_eq_true, if_false]

/-- Settles O17: the fetch arbiter's winner, and the end of a fence. -/
theorem commandsAreFetchedAndFenced : Obligations.CommandsAreFetchedAndFenced := by
  intro q fu d
  refine ⟨?ready, ?fail, ?known, ?reserved⟩
  case ready =>
    intro j p d1 b bad hrun hfree hpick hread
    refine onDev_next ((commandFetchOp_of_winner hrun hfree hpick).trans ?_) q fu
    rw [hread]
    rfl
  case fail =>
    intro j p d1 st hrun hfree hpick hread
    refine onDev_next ((commandFetchOp_of_winner hrun hfree hpick).trans ?_) q fu
    rw [hread]
    rfl
  case known =>
    intro c x hc hx hr hd hw hfirst hop
    exact onCtx_next hc ((fencedStartOp_of_first hx hr hd hw hfirst).trans (if_pos hop)) q fu
  case reserved =>
    intro c x hc hx hr hd hw hfirst hop
    exact onCtx_next hc ((fencedStartOp_of_first hx hr hd hw hfirst).trans (if_neg (ne_true_of_eq_false hop))) q fu

/-! Completion records (R73 to R76, R476, R479). -/

section
variable {d : Dev} {c : Nat} {x : Ctx} {r : Compl} (hw : d.ctxWorks = true) (hx : d.ctx? c = some x) (hr : x.done = some r)
  (hp : x.posted = none)
include hw hx hr hp

/-- A record that its function's state discards is counted, and the context freed. -/
theorem recordWriteOp_of_discards (h : d.discards x = true) :
    recordWriteOp c d = (((d.giveBack c).countEnd x r).bump (pgFn x.fn) 0 2).freeCtx c := by
  simp only [recordWriteOp, hw, hx, hr, hp, h, Bool.not_true, Bool.false_eq_true, if_false, if_true, Option.isSome_none]

/-- A record whose ring has room, and whose turn it is, goes to the ring. -/
theorem recordWriteOp_of_room {y : Ctx} {r' : Compl} (h : d.discards x = false) (hout : x.remote.wrOut = 0)
    (hon : ringOn (d.rg (R.cqCfg x.cq) x.fn) = true) (hroom : d.cqFull x.fn x.cq = false) (hturn : d.firstDone x r = true)
    (hy : (d.giveBack c).ctx? c = some y) (hr' : y.done = some r') : recordWriteOp c d = d.recordOut c y r' := by
  simp only [recordWriteOp, hw, hx, hr, hp, h, hout, hon, hroom, hturn, hy, hr', Bool.not_true, Bool.false_eq_true, if_false,
    Option.isSome_none, Nat.lt_irrefl, decide_false, Bool.false_and, Bool.or_self, Option.bind_some, Option.map_some]
end

/-- Settles O18: the two ends of a record that need not wait. -/
theorem completionRecords : Obligations.CompletionRecords := by
  intro q fu d c x r hc hw hx hr hp
  refine ⟨fun h => onCtx_next hc (recordWriteOp_of_discards hw hx hr hp h) q fu, fun y r' h hout hon hroom hturn hy hr' => ?_⟩
  exact onCtx_next hc (recordWriteOp_of_room hw hx hr hp h hout hon hroom hturn hy hr') q fu

/-! Commands that end early (R69, R154, R597). -/

/-- A cause ends a command that has not ended. -/
theorem Dev.endCmd_of_running {d : Dev} {c : Nat} {x : Ctx} (hx : d.ctx? c = some x) (hd : x.done = none) (st : Status) :
    d.endCmd c st = (d.finish c { status := st, count := d.earlyCount c }).dropWork c x.cinc st := by
  simp only [Dev.endCmd, hx, hd, Option.isSome_none, Bool.false_eq_true, if_false]

/-- A deadline that has passed before WRITE began is a cause. -/
theorem commandDeadlineOp_of_passed {d : Dev} {c t : Nat} {x : Ctx} (hx : d.ctx? c = some x) (ht : x.deadline = some t) (hnow : t ≤ d.now)
    (hw : d.ctxWorks = true) (hwrote : d.wroteBy c t = false) : commandDeadlineOp c d = d.endCmd c .timeout := by
  simp only [commandDeadlineOp, hx, ht, hnow, hw, hwrote, decide_true, Bool.not_false, Bool.and_self, if_true]

/-- A result of a free context is late. -/
theorem lateSubopOp_of_free {d : Dev} {c : Nat} (hx : d.ctx? c = none) (k : Nat) : lateSubopOp c k d = d.bump pgCtx 0 1 := by
  simp only [lateSubopOp, hx, Bool.false_eq_true, if_false]

/-- So is one of a context that has ended, or of another incarnation. -/
theorem lateSubopOp_of_past {d : Dev} {c k : Nat} {x : Ctx} (hx : d.ctx? c = some x) (h : x.cinc ≠ k ∨ x.done ≠ none) :
    lateSubopOp c k d = d.bump pgCtx 0 1 := by
  have hlate : (x.cinc == k && x.done.isNone) = false := by
    rcases h with h | h
    · simp [h]
    · simp [Option.ne_none_iff_isSome.1 h]
  simp only [lateSubopOp, hx, hlate, Bool.false_eq_true, if_false]

/-- Settles O23: both causes end a running command, and each late result is counted. -/
theorem commandsEndEarly : Obligations.CommandsEndEarly := by
  intro q fu d c hc
  refine ⟨fun x hx _ hd => onCtx_next hc (Dev.endCmd_of_running hx hd .ctxLost) q fu, fun x t hx _ hd ht hnow hw hwrote => ?_,
    fun k hx => onCtx_next hc (lateSubopOp_of_free hx k) q fu, fun k x hx h => onCtx_next hc (lateSubopOp_of_past hx (.inl h)) q fu,
    fun k x hx h => onCtx_next hc (lateSubopOp_of_past hx (.inr h)) q fu⟩
  exact onCtx_next hc ((commandDeadlineOp_of_passed hx ht hnow hw hwrote).trans (Dev.endCmd_of_running hx hd .timeout)) q fu

end Sys2Proof.Machine
end

section
/-! PROOFS. The control model (02_control_model.md): accesses of masters (R49, R53), interrupt messages (R471 to R474), and data movers
(R72, R463 to R466). -/

namespace Sys2Proof.Machine
open Sys2Proof

/-! Accesses. -/

/-- An access that meets no condition and whose pieces are all ready is served where its first byte lies: `hnear` is what the last arm of
the choice asks. -/
theorem Dev.masterLoad_near {d d1 d2 : Dev} {m : Master} {a n : Nat} {fu : Fuses} {b : List Byte} {bad : Bool}
    (hready : d.allReady m false (d.pieces m a n) = (d1, true)) (hnear : ∀ g, (d1.accHeat a).place m a ≠ .far g)
    (hread : (d1.accHeat a).accReads fu m (d.pieces m a n) = (d2, b, bad)) : d.masterLoad fu m a n .clean = d2.given m a b bad := by
  simp only [Dev.masterLoad, hready, Dev.lossSeen, Dev.lossAt, Bool.false_eq_true, if_false, hread, Bool.or_false]

theorem Dev.masterLoad_far {d d1 : Dev} {m : Master} {a n g : Nat} (hready : d.allReady m false (d.pieces m a n) = (d1, true))
    (hfar : (d1.accHeat a).place m a = .far g) (fu : Fuses) :
    d.masterLoad fu m a n .clean = (d1.accHeat a).farReads m (d.pieces m a n) := by
  simp only [Dev.masterLoad, hready, Dev.lossSeen, Dev.lossAt, Bool.false_eq_true, if_false, hfar]

theorem Dev.masterStore_near {d d1 : Dev} {m : Master} {a : Nat} {b : List Byte}
    (hready : d.allReady m true (d.pieces m a b.length) = (d1, true)) (hnear : ∀ g, (d1.answer []).place m a ≠ .far g) (fu : Fuses) :
    d.masterStore fu m a b .clean = Dev.accWrites fu m false a b (d1.answer []) (d.pieces m a b.length) := by
  simp only [Dev.masterStore, hready, Dev.lossSeen, Dev.lossAt, Bool.false_eq_true, if_false]

theorem Dev.masterStore_far {d d1 : Dev} {m : Master} {a g : Nat} {b : List Byte}
    (hready : d.allReady m true (d.pieces m a b.length) = (d1, true)) (hfar : (d1.answer []).place m a = .far g) (fu : Fuses) :
    d.masterStore fu m a b .clean = (d1.answer []).farWrites m a b false (d.pieces m a b.length) := by
  simp only [Dev.masterStore, hready, Dev.lossSeen, Dev.lossAt, Bool.false_eq_true, if_false, hfar]

/-- In a working package a clean access changes nothing before it is served. -/
theorem exec_memoryAccess_read {d e : Dev} (hs : d.pwr.stopped = false) {m : Master} {a n : Nat} {fu : Fuses}
    (h : d.masterLoad fu m a n .clean = e) (q : List Instr) :
    exec (.memoryAccess m a (.read n) .clean) ⟨q, fu, d⟩ = .next ⟨q, fu, e⟩ := by
  have hop : memoryAccessOp m a (.read n) .clean fu d = e := (if_neg (ne_true_of_eq_false hs)).trans h
  rw [← hop]
  rfl

theorem exec_memoryAccess_write {d e : Dev} (hs : d.pwr.stopped = false) {m : Master} {a : Nat} {b : List Byte} {fu : Fuses}
    (h : d.masterStore fu m a b .clean = e) (q : List Instr) :
    exec (.memoryAccess m a (.write b) .clean) ⟨q, fu, d⟩ = .next ⟨q, fu, e⟩ := by
  have hop : memoryAccessOp m a (.write b) .clean fu d = e := (if_neg (ne_true_of_eq_false hs)).trans h
  rw [← hop]
  rfl

/-! Interrupt messages. -/

section
variable {d : Dev} {f : Nat} {i : IntMsg} (hi : d.nextMsg f = some i) (hfrz : d.frozen (pgFn f) = false) (halive : d.alive = true)
  (htakes : d.takesMsg f = true)
include hi hfrz halive htakes

/-- With no message address the message is discarded and counted. -/
theorem intMessageSendOp_of_no_address (hg : d.addr64 R.fnMsgAddrLo R.fnMsgAddrHi f = 0) (fu : Fuses) :
    intMessageSendOp f fu d = (d.popMsg f).bump (pgFn f) 0 6 := by
  simp only [intMessageSendOp, hi, hfrz, halive, htakes, hg, Bool.not_true, Bool.or_self, Bool.false_eq_true, if_false, if_true]

variable {g : Nat} (hg : g = d.addr64 R.fnMsgAddrLo R.fnMsgAddrHi f) (hg0 : g ≠ 0)
  (htoken : fld (d.rg R.fnIrqShape f) 15 0 = 0 ∨ 1600000 ≤ (d.fn f).bucket)
include hg hg0 htoken

/-- With a token, and no line to recall, the message leaves for its address. -/
theorem intMessageSendOp_of_token (hline : (d.isLocal g && d.blocked (localPart g) 8 true) = false) (fu : Fuses) :
    intMessageSendOp f fu d = if (d.sentMsg f).isLocal g = true
      then (d.sentMsg f).msgLocal fu f (localPart g) (natLe 8 (i.value f (d.fn f).inc (d.fn f).sent))
      else (d.sentMsg f).msgAway f g (natLe 8 (i.value f (d.fn f).inc (d.fn f).sent)) := by
  have hlimited : (fld (d.rg R.fnIrqShape f) 15 0 != 0 && decide ((d.fn f).bucket < 1600000)) = false := by
    rcases htoken with h | h
    · simp [h]
    · simp [Nat.not_lt.2 h]
  simp only [intMessageSendOp, hi, hfrz, halive, htakes, ← hg, hg0, hlimited, hline, Bool.not_true, Bool.or_self, Bool.false_eq_true, if_false]
end

/-- A function's message, as a command. -/
theorem exec_intMessageSend {d e : Dev} {f : Nat} (hf : f < 1024) {fu : Fuses} (h : intMessageSendOp f fu d = e) (q : List Instr) :
    exec (.intMessageSend f) ⟨q, fu, d⟩ = .next ⟨q, fu, e⟩ := by
  rw [← h]
  show execIntMessageSend f _ = _
  rw [execIntMessageSend, onFuses_state, if_pos hf]

/-- Settles O22: the near and the far end of an access, and the three ways a message leaves. -/
theorem accessesAndInterruptMessages : Obligations.AccessesAndInterruptMessages := by
  intro q fu d
  refine ⟨fun m a n d1 d2 b bad hs hready hnear hread => exec_memoryAccess_read hs (Dev.masterLoad_near hready hnear hread) q,
    fun m a b d1 hs hready hnear => exec_memoryAccess_write hs (Dev.masterStore_near hready hnear fu) q,
    fun m a n d1 g hs hready hfar => exec_memoryAccess_read hs (Dev.masterLoad_far hready hfar fu) q,
    fun m a b d1 g hs hready hfar => exec_memoryAccess_write hs (Dev.masterStore_far hready hfar fu) q, ?message⟩
  intro f i g hf hi hfrz halive htakes hg
  refine ⟨fun hg0 => ?none, fun hg0 htoken hlocal hline hlocal' => ?here, fun hg0 htoken haway haway' => ?away⟩
  case none => exact exec_intMessageSend hf (intMessageSendOp_of_no_address hi hfrz halive htakes (hg ▸ hg0) fu) q
  case here =>
    have hleaves := intMessageSendOp_of_token hi hfrz halive htakes hg hg0 htoken (by rw [hline, Bool.and_false]) fu
    exact exec_intMessageSend hf (hleaves.trans (if_pos hlocal')) q
  case away =>
    have hleaves := intMessageSendOp_of_token hi hfrz halive htakes hg hg0 htoken (by rw [haway, Bool.false_and]) fu
    exact exec_intMessageSend hf (hleaves.trans (if_neg (ne_true_of_eq_false haway'))) q

/-! Data movers. -/

/-- The commands of a context that move lines: opcode, operation and row. -/
def moverRows (c : Nat) : List (Nat × Nat × Instr) :=
  [(0x28, 0, .poolFill c), (0x29, 1, .poolCopy c), (0x2A, 2, .poolCompare c), (0x2B, 3, .poolReduce c), (0x30, 4, .dmaCopy c)]

theorem exec_of_moverRow {c code op : Nat} {i : Instr} (hi : (code, op, i) ∈ moverRows c) (hc : c < 4096) {d e : Dev}
    (h : moverOp code op c d = e) (q : List Instr) (fu : Fuses) : exec i ⟨q, fu, d⟩ = .next ⟨q, fu, e⟩ := by
  simp only [moverRows, List.mem_cons, Prod.mk.injEq, List.not_mem_nil, or_false] at hi
  rcases hi with ⟨rfl, rfl, rfl⟩ | ⟨rfl, rfl, rfl⟩ | ⟨rfl, rfl, rfl⟩ | ⟨rfl, rfl, rfl⟩ | ⟨rfl, rfl, rfl⟩
  all_goals exact onCtx_next hc h q fu

/-- A command whose mover waits goes on from where it stood. -/
theorem moverOp_of_begun {d : Dev} {c : Nat} (h : Tab.has d.lat.movers c = true) (code op : Nat) : moverOp code op c d = d.moverFed c := if_pos h

section
variable {d : Dev} {c code op : Nat} {x : Ctx} (hnew : Tab.has d.lat.movers c = false) (hstart : d.canStart c code = true)
  (hx : d.ctx? c = some x)
include hnew hstart hx

theorem moverOp_of_bad_args (h : d.moverArgs x op = false) : moverOp code op c d = d.finishSt c .invalidCmd := by
  simp only [moverOp, hnew, hstart, hx, h, Bool.not_true, Bool.not_false, Bool.false_eq_true, if_false, if_true]

variable (hargs : d.moverArgs x op = true)
include hargs

theorem moverOp_of_fenced (hop : op ≠ 4) (h : d.isFenced = true) : moverOp code op c d = d.finishSt c .fenced := by
  simp only [moverOp, hnew, hstart, hx, hargs, h, bne_iff_ne.2 hop, Bool.and_self, Bool.not_true, Bool.false_eq_true, if_false, if_true]

theorem moverOp_of_stopped (hop : op ≠ 4) (h : d.isFenced = false) (hrun : d.runs pgLat = false) : moverOp code op c d = d := by
  simp only [moverOp, hnew, hstart, hx, hargs, h, hrun, beq_eq_false_iff_ne.2 hop, Bool.false_and, Bool.or_self, Bool.not_true, Bool.not_false,
    Bool.false_eq_true, if_false, if_true]

/-- A command that may begin starts, and runs on Awl units where the free choice of R464 says so. -/
theorem moverOp_starts (h : op = 4 ∨ (d.isFenced = false ∧ d.runs pgLat = true)) {d1 : Dev}
    (hd : d1 = ((d.start c).setDeadline c (if op = 4 then 0 else x.n 44 4)).moverHeat op x) :
    moverOp code op c d = ((d1.poolStack (moverOf op x)).map (fun n =>
      ((d1.drawn.bump (pgAwl n) 0 14).setMover c { moverOf op x with awl := some n }).moverRun c)).getD
        ((d1.setMover c (moverOf op x)).moverRun c) := by
  have hfence : (d.isFenced && op != 4) = false := by
    rcases h with h | ⟨h, -⟩ <;> simp [h]
  have hrun : (op == 4 || d.runs pgLat) = true := by
    rcases h with h | ⟨-, h⟩ <;> simp [h]
  simp only [moverOp, hnew, hstart, hx, hargs, hfence, hrun, ← hd, Bool.not_true, Bool.false_eq_true, if_false]
  cases d1.poolStack (moverOf op x) <;> rfl
end

/-- Settles O59: the branches of the one operation that the five rows share. -/
theorem dataMovers : Obligations.DataMovers := by
  intro q fu d c x hc
  refine ⟨fun h => ?begun, fun code op i hi hnew hstart hx => ⟨?bad, ?fenced, ?stopped, ?starts⟩⟩
  case begun =>
    have goesOn (code op : Nat) := moverOp_of_begun h code op
    exact ⟨onCtx_next hc (goesOn _ _) q fu, onCtx_next hc (goesOn _ _) q fu, onCtx_next hc (goesOn _ _) q fu, onCtx_next hc (goesOn _ _) q fu,
      onCtx_next hc (goesOn _ _) q fu⟩
  case bad => exact fun h => exec_of_moverRow hi hc (moverOp_of_bad_args hnew hstart hx h) q fu
  case fenced => exact fun hargs hop h => exec_of_moverRow hi hc (moverOp_of_fenced hnew hstart hx hargs hop h) q fu
  case stopped => exact fun hargs hop h hrun => exec_of_moverRow hi hc (moverOp_of_stopped hnew hstart hx hargs hop h hrun) q fu
  case starts => exact fun d1 hargs h hd => exec_of_moverRow hi hc (moverOp_starts hnew hstart hx hargs h hd) q fu

end Sys2Proof.Machine
end

section
/-! PROOFS. Collections and indexes (03_collections_and_indexes.md): publishing and retiring tables (R87 to R93). -/

namespace Sys2Proof.Machine
open Sys2Proof

/-! TABLE_PUBLISH: the checks of R88 in their order, each past the ones before it. -/

/-- A handle that has published nothing takes any kind; another takes its own. -/
theorem otherKind_eq_false {t : TDesc} {kind : Nat} (h : t.st = 0 ∨ t.kind = kind) : (t.st != 0 && t.kind != kind) = false := by
  rcases h with h | h <;> simp [h]

/-- A command without DESC_ADDR and DESC_LEN withdraws; one with an image does not. -/
theorem withdraws_eq_false {x : Ctx} (h : x.desc ≠ 0 ∨ x.descLen ≠ 0) : (x.desc == 0 && x.descLen == 0) = false := by
  rcases h with h | h <;> simp [h]

/-- How a publish goes on from the outcome of its image's checks, with slot s free for the new version. -/
def Dev.imgChecked (d : Dev) (c : Nat) (x : Ctx) (t : TDesc) (s : Nat) : ImgGot → Dev
  | .wait => d.pubWait c x
  | .bad st => d.pubEnd c st 0 0
  | .good =>
    let d1 := d.putTdesc (x.n 32 2) (t.publish (x.n 34 1) s x.desc x.descLen)
    (if x.n 34 1 = 0 then d1.firstPublish (x.n 32 2) (d1.peekImg x.desc 256) else d1).pubEnd c .ok t.nextVer s

section
variable {d : Dev} {c : Nat} {x : Ctx} (hx : d.ctx? c = some x) (hstart : d.canStart c 0x10 = true) (hmine : d.tblMine c = true)
include hx hstart hmine

theorem tablePublishOp_of_bad_fields (h : pubFieldsOk x = false) : tablePublishOp c d = (d.start c).pubEnd c .invalidCmd 0 0 := by
  simp only [tablePublishOp, hx, hstart, hmine, h, Bool.not_true, Bool.not_false, Bool.or_self, Bool.false_eq_true, if_false, if_true]

variable (hfields : pubFieldsOk x = true) (hread : (d.start c).tdescBad (x.n 32 2) = false) {t : TDesc}
  (ht : t = (d.start c).tdesc (x.n 32 2))
include hfields hread ht

/-- Another kind, or nothing to withdraw. -/
theorem tablePublishOp_of_bad_table (h : (t.st ≠ 0 ∧ t.kind ≠ x.n 34 1) ∨ (x.desc = 0 ∧ x.descLen = 0 ∧ t.st ≠ 1)) :
    tablePublishOp c d = (d.start c).pubEnd c .badTable 0 0 := by
  have hrefused : ((t.st != 0 && t.kind != x.n 34 1) || (x.desc == 0 && x.descLen == 0 && t.st != 1)) = true := by
    rcases h with ⟨hst, hk⟩ | ⟨hdesc, hlen, hst⟩
    · rw [bne_iff_ne.2 hst, bne_iff_ne.2 hk, Bool.and_self, Bool.true_or]
    · rw [hdesc, hlen, bne_iff_ne.2 hst, beq_self_eq_true, Bool.and_self, Bool.and_self, Bool.or_true]
  simp only [tablePublishOp, hx, hstart, hmine, hfields, hread, ← ht, hrefused, Bool.not_true, Bool.or_self, Bool.false_eq_true, if_false,
    if_true]

/-- An ACTIVE table of the kind and the expected version, and no image. -/
theorem tablePublishOp_withdraws (hactive : t.st = 1) (hkind : t.kind = x.n 34 1) (hdesc : x.desc = 0) (hlen : x.descLen = 0)
    (hver : x.n 36 4 = t.ver) :
    tablePublishOp c d = ((d.start c).putTdesc (x.n 32 2) t.withdraw).pubEnd c .ok t.nextVer 0xFFFFFFFF := by
  simp only [tablePublishOp, hx, hstart, hmine, hfields, hread, ← ht, hactive, hkind, hdesc, hlen, hver, bne_self_eq_false, beq_self_eq_true,
    Nat.one_ne_zero, Bool.and_false, Bool.and_self, Bool.not_true, Bool.or_self, Bool.false_eq_true, if_false, if_true]

variable (hkind : t.st = 0 ∨ t.kind = x.n 34 1)
include hkind

theorem tablePublishOp_of_other_version (hform : x.desc ≠ 0 ∨ x.descLen ≠ 0 ∨ t.st = 1)
    (h : x.n 36 4 ≠ (if t.st = 0 then 0 else t.ver)) : tablePublishOp c d = (d.start c).pubEnd c .versionConflict t.ver 0 := by
  have hnothing : (x.desc == 0 && x.descLen == 0 && t.st != 1) = false := by
    rcases hform with h0 | h0 | h0
    · rw [withdraws_eq_false (.inl h0), Bool.false_and]
    · rw [withdraws_eq_false (.inr h0), Bool.false_and]
    · rw [h0, bne_self_eq_false, Bool.and_false]
  simp only [tablePublishOp, hx, hstart, hmine, hfields, hread, ← ht, otherKind_eq_false hkind, hnothing, bne_iff_ne.2 h,
    Bool.not_true, Bool.or_self, Bool.false_eq_true, if_false, if_true]

section
variable (himage : x.desc ≠ 0 ∨ x.descLen ≠ 0) (hver : x.n 36 4 = (if t.st = 0 then 0 else t.ver))
include himage hver

theorem tablePublishOp_of_no_slot (h : t.freeSlot = none) :
    tablePublishOp c d = (d.start c).pubEnd c .versionConflict t.ver 1 := by
  simp only [tablePublishOp, hx, hstart, hmine, hfields, hread, ← ht, otherKind_eq_false hkind, withdraws_eq_false himage, hver,
    bne_self_eq_false, h, Bool.false_and, Bool.not_true, Bool.or_self, Bool.false_eq_true, if_false]

theorem tablePublishOp_of_image {s : Nat} (hs : t.freeSlot = some s) {d1 : Dev} {r : ImgGot}
    (h : (d.start c).imgCheck c (x.n 32 2) (x.n 34 1) x.desc x.descLen = (d1, r)) : tablePublishOp c d = d1.imgChecked c x t s r := by
  simp only [tablePublishOp, hx, hstart, hmine, hfields, hread, ← ht, otherKind_eq_false hkind, withdraws_eq_false himage, hver,
    bne_self_eq_false, hs, h, Bool.false_and, Bool.not_true, Bool.or_self, Bool.false_eq_true, if_false]
  cases r <;> rfl
end
end

/-! TABLE_RETIRE (R92, R93). -/

section
variable {d : Dev} {c : Nat} {x : Ctx} (hx : d.ctx? c = some x) (hstart : d.canStart c 0x11 = true) (hidle : d.tblBusy = false)
include hx hstart hidle

theorem tableRetireOp_of_bad_fields (h : retireFieldsOk x = false) : tableRetireOp c d = (d.start c).finishSt c .invalidCmd := by
  simp only [tableRetireOp, hx, hstart, hidle, h, Bool.not_true, Bool.not_false, Bool.or_self, Bool.false_eq_true, if_false, if_true]

variable (hfields : retireFieldsOk x = true) (hread : (d.start c).tdescBad (x.n 32 2) = false) {t : TDesc}
  (ht : t = (d.start c).tdesc (x.n 32 2))
include hfields hread ht

theorem tableRetireOp_of_bad_table (h : t.st = 0 ∨ 6 < t.kind) : tableRetireOp c d = (d.start c).finishSt c .badTable := by
  have hrefused : (decide (t.st = 0) || decide (6 < t.kind)) = true := by simpa using h
  simp only [tableRetireOp, hx, hstart, hidle, hfields, hread, ← ht, hrefused, Bool.not_true, Bool.or_self, Bool.false_eq_true, if_false,
    if_true]

variable (hst : t.st ≠ 0) (hkind : t.kind ≤ 6)
include hst hkind

theorem tableRetireOp_of_no_slot (h : firstBelow 4 (fun s => (t.slot s).st != 0 && (t.slot s).ver == x.n 36 4) = none) :
    tableRetireOp c d = (d.start c).finish c { status := .versionConflict, spec1 := 3 } := by
  simp only [tableRetireOp, hx, hstart, hidle, hfields, hread, ← ht, hst, Nat.not_lt.2 hkind, h, decide_false, Bool.not_true, Bool.or_self,
    Bool.false_eq_true, if_false]

/-- A slot that holds the version is retired unless it is CURRENT or RETIRING. -/
theorem tableRetireOp_of_slot {s : Nat} (h : firstBelow 4 (fun s => (t.slot s).st != 0 && (t.slot s).ver == x.n 36 4) = some s) {d1 : Dev}
    (hd : d1 = (d.start c).setRetiring (x.n 32 2) s) :
    tableRetireOp c d =
      if (t.slot s).st = 1 then (d.start c).finish c { status := .versionConflict, spec1 := 2 }
      else if (t.slot s).st = 3 then (d.start c).finish c { status := .versionConflict, spec1 := 4 }
      else ({ d1 with tbl := { d1.tbl with retires := Tab.set d1.tbl.retires c (x.n 32 2, s) } } : Dev).slotFree (x.n 32 2) s := by
  simp only [tableRetireOp, hx, hstart, hidle, hfields, hread, ← ht, hst, Nat.not_lt.2 hkind, h, ← hd, decide_false, Bool.not_true,
    Bool.or_self, Bool.false_eq_true, if_false]
end

/-- Settles O24: the branches of the two operations, in the order of their checks. -/
theorem tablesArePublishedAndRetired : Obligations.TablesArePublishedAndRetired := by
  intro q fu d c x t hc hx hread ht
  refine ⟨fun s d1 hstart hmine hfields hkind himage hver hs hgood => ?published,
    fun hstart hmine hfields hactive hkind hdesc hlen hver => ?withdrawn, fun hstart hmine => ?notPublished,
    fun hstart hidle => ?notRetired, fun s d1 hstart hidle hfields hst hkind hs hsuperseded hd => ?retired⟩
  case published =>
    exact onCtx_next hc (tablePublishOp_of_image hx hstart hmine hfields hread ht hkind himage hver hs hgood) q fu
  case withdrawn =>
    exact onCtx_next hc (tablePublishOp_withdraws hx hstart hmine hfields hread ht hactive hkind hdesc hlen hver) q fu
  case notPublished =>
    refine ⟨fun h => ?fields, fun hfields h => ?table, fun hfields hkind hform h => ?version,
      fun hfields hkind himage hver => ⟨fun h => ?slot, fun s d1 st hs hbad => ?image, fun s d1 hs hwait => ?waits⟩⟩
    case fields => exact onCtx_next hc (tablePublishOp_of_bad_fields hx hstart hmine h) q fu
    case table => exact onCtx_next hc (tablePublishOp_of_bad_table hx hstart hmine hfields hread ht h) q fu
    case version => exact onCtx_next hc (tablePublishOp_of_other_version hx hstart hmine hfields hread ht hkind hform h) q fu
    case slot => exact onCtx_next hc (tablePublishOp_of_no_slot hx hstart hmine hfields hread ht hkind himage hver h) q fu
    case image => exact onCtx_next hc (tablePublishOp_of_image hx hstart hmine hfields hread ht hkind himage hver hs hbad) q fu
    case waits => exact onCtx_next hc (tablePublishOp_of_image hx hstart hmine hfields hread ht hkind himage hver hs hwait) q fu
  case notRetired =>
    refine ⟨fun h => ?fields, fun hfields h => ?table, fun hfields hst hkind =>
      ⟨fun h => ?absent, fun s hs h => ?current, fun s hs h => ?retiring⟩⟩
    case fields => exact onCtx_next hc (tableRetireOp_of_bad_fields hx hstart hidle h) q fu
    case table => exact onCtx_next hc (tableRetireOp_of_bad_table hx hstart hidle hfields hread ht h) q fu
    case absent => exact onCtx_next hc (tableRetireOp_of_no_slot hx hstart hidle hfields hread ht hst hkind h) q fu
    case current =>
      have hslot := tableRetireOp_of_slot hx hstart hidle hfields hread ht hst hkind hs rfl
      exact onCtx_next hc (hslot.trans (if_pos h)) q fu
    case retiring =>
      have hslot := tableRetireOp_of_slot hx hstart hidle hfields hread ht hst hkind hs rfl
      have hnotCurrent : (t.slot s).st ≠ 1 := by omega
      exact onCtx_next hc (hslot.trans ((if_neg hnotCurrent).trans (if_pos h))) q fu
  case retired =>
    have hslot := tableRetireOp_of_slot hx hstart hidle hfields hread ht hst hkind hs hd
    have hnotCurrent : (t.slot s).st ≠ 1 := by omega
    have hnotRetiring : (t.slot s).st ≠ 3 := by omega
    exact onCtx_next hc (hslot.trans ((if_neg hnotCurrent).trans (if_neg hnotRetiring))) q fu

end Sys2Proof.Machine
end

section
/-! PROOFS. Search execution (04_search_execution.md): searches and sub-searches, and the start and the coarse phase of queries (R122 to R137,
R156 to R161). -/

namespace Sys2Proof.Machine
open Sys2Proof

/-! A command of a unit the part has is its operation on the device. -/

theorem onUnit_next {has : Dev → Bool} {f : Dev → Dev} {d e : Dev} (hu : has d = true) (h : f d = e) (q : List Instr) (fu : Fuses) :
    onUnit has f ⟨q, fu, d⟩ = .next ⟨q, fu, e⟩ := by
  rw [onUnit, if_pos hu, h]

/-- A unit known by one number. -/
theorem onNumbered_next {n size : Nat} (hn : n < size) {f : Dev → Dev} {d e : Dev} (h : f d = e) (q : List Instr) (fu : Fuses) :
    onUnit (fun _ => decide (n < size)) f ⟨q, fu, d⟩ = .next ⟨q, fu, e⟩ :=
  onUnit_next (decide_eq_true hn) h q fu

/-- A unit known by two, as query k of a search. -/
theorem onPair_next {m n msize nsize : Nat} (hm : m < msize) (hn : n < nsize) {f : Dev → Dev} {d e : Dev} (h : f d = e) (q : List Instr)
    (fu : Fuses) : onUnit (fun _ => decide (m < msize) && decide (n < nsize)) f ⟨q, fu, d⟩ = .next ⟨q, fu, e⟩ :=
  onUnit_next (by rw [decide_eq_true hm, decide_eq_true hn]; rfl) h q fu

/-! A value that is there, one that must be waited for, and one that cannot be had. -/

@[simp] theorem GotV.after_ok {α : Type} (d : Dev) (v : α) (bad : Dev → Status → Dev) (go : Dev → α → Dev) :
    GotV.after (d, .ok v) bad go = go d v := rfl

@[simp] theorem GotV.after_wait {α : Type} (d : Dev) (bad : Dev → Status → Dev) (go : Dev → α → Dev) :
    GotV.after (d, .wait) bad go = d := rfl

@[simp] theorem GotV.after_bad {α : Type} (d : Dev) (st : Status) (bad : Dev → Status → Dev) (go : Dev → α → Dev) :
    GotV.after (d, .bad st) bad go = bad d st := rfl

/-! SEARCH and SEARCH_BATCH: the checks of R129 in their order. -/

section
variable {d1 d2 d3 d4 : Dev} {c : Nat} {x : Ctx} {batch : Bool} {h b img : List Byte} {slot : Nat × Nat} {attr : List (Nat × Nat)}

/-- A command whose entry, descriptor and collection pass goes on to the shard, the inputs, the filter and the output. -/
theorem Dev.searchCmd_of_descriptor {d : Dev} {op : Nat} (hstart : d.canStart c op = true) (hx : d.ctx? c = some x)
    (hargs : d.searchArgsOk x batch = true) (hhead : d.need c x.desc 64 = (d1, .ok h))
    (hhdr : searchHdrOk h x.descLen (x.sQueries batch) = true) (hdesc : d1.need c x.desc x.descLen = (d2, .ok b))
    (hadmit : d2.admitOn x.coll = false) (hcoll : d2.lookColl c x.coll = (d3, .ok img slot)) :
    d.searchCmd c op batch = d3.searchBegin c x batch h b img slot := by
  simp only [Dev.searchCmd, hstart, hx, hargs, hhead, hhdr, hdesc, hadmit, hcoll, GotV.after_ok, Bool.not_true, Bool.false_eq_true, if_false]

/-- The last check is that the handle names an open snapshot (R193). -/
theorem Dev.searchBegin_of_room (hshard : d3.shardOk img d3.curGen = true) (hagree : searchAgrees x img h (searchInputs x batch h b) = true)
    (hfilter : d3.filterBind c img (sdFilter h b) = (d4, .ok attr)) (hroom : searchNeeds x batch ≤ x.outLen) :
    d3.searchBegin c x batch h b img slot =
      if d4.snapOpen x = true then d4.searchStart c x batch h b img slot attr else (d4.unbind c attr).finishSt c .snapshotExpired := by
  simp only [Dev.searchBegin, hshard, hagree, hfilter, Nat.not_lt.2 hroom, Bool.not_true, Bool.false_eq_true, if_false]
  cases d4.snapOpen x <;> rfl
end

theorem exec_search {d e : Dev} {c : Nat} (hc : c < 4096) (h : d.searchCmd c 0x01 false = e) (q : List Instr) (fu : Fuses) :
    exec (.search c) ⟨q, fu, d⟩ = .next ⟨q, fu, e⟩ :=
  onCtx_next (f := searchOp c) hc h q fu

theorem exec_searchBatch {d e : Dev} {c : Nat} (hc : c < 4096) (h : d.searchCmd c 0x02 true = e) (q : List Instr) (fu : Fuses) :
    exec (.searchBatch c) ⟨q, fu, d⟩ = .next ⟨q, fu, e⟩ :=
  onCtx_next (f := searchBatchOp c) hc h q fu

/-- Settles O31: a command that passes every check but the last starts or ends by that one. -/
theorem searchesStart : Obligations.SearchesStart := by
  intro q fu d d1 d2 d3 d4 c x batch h b img slot attr hc hstart hx hargs hhead hhdr hdesc hadmit hcoll hshard hagree hfilter hroom
  have hcmd := (Dev.searchCmd_of_descriptor hstart hx hargs hhead hhdr hdesc hadmit hcoll).trans
    (Dev.searchBegin_of_room hshard hagree hfilter hroom)
  refine ⟨?search, ?batch, ?searchExpired, ?batchExpired⟩
  case search =>
    rintro rfl hopen
    exact exec_search hc (hcmd.trans (if_pos hopen)) q fu
  case batch =>
    rintro rfl hopen
    exact exec_searchBatch hc (hcmd.trans (if_pos hopen)) q fu
  case searchExpired =>
    rintro rfl hclosed
    exact exec_search hc (hcmd.trans (if_neg (ne_true_of_eq_false hclosed))) q fu
  case batchExpired =>
    rintro rfl hclosed
    exact exec_searchBatch hc (hcmd.trans (if_neg (ne_true_of_eq_false hclosed))) q fu

/-! SUB_SEARCH (R157, R161). -/

/-- A refused sub-search is answered with the status. -/
theorem Dev.subBegin_of_refused {d : Dev} {src : Nat} {p : SubSearch} {st : Status} (h : d.subRefused src p.mapGen = some st) :
    d.subBegin src p = (d.sendSubResult src { ref := p.ref, status := st.code }, true) := by
  simp only [Dev.subBegin, h]

/-- One that nothing refuses starts, under the first free search number. -/
theorem Dev.subBegin_starts {d d1 d2 : Dev} {src i : Nat} {p : SubSearch} {img : List Byte} {slot : Nat × Nat} {attr : List (Nat × Nat)}
    (hnode : d.subRefused src p.mapGen = none) (hfree : firstBelow 12288 (fun i => (d.search? (4096 + i)).isNone) = some i)
    (hadmit : d.admitOn p.coll = false) (hcoll : d.lookColl (4096 + i) p.coll = (d1, .ok img slot))
    (hepoch : eLt p.epoch (d1.readFloor p.coll) = false) (hfilter : d1.filterBind (4096 + i) img p.filter = (d2, .ok attr)) :
    d.subBegin src p = ((((d2.addTblReader slot).setSearch (4096 + i)
      ((d2.addTblReader slot).subSearchOf src p img (slot :: attr))).addQueries (4096 + i) [p.vec]).fixPins p.coll, true) := by
  simp only [Dev.subBegin, hnode, hfree, hadmit, hcoll, hepoch, hfilter, Bool.false_eq_true, if_false]

theorem subSearchOp_of_works {d : Dev} (hw : d.ctxWorks = true) (src : Nat) (p : SubSearch) : subSearchOp src p d = (d.subBegin src p).1 := by
  simp only [subSearchOp, hw, Bool.not_true, Bool.false_eq_true, if_false]

/-! SUBSEARCH_TIMEOUT (R158). -/

/-- At a shard, whose own deadline counts. -/
theorem subsearchTimeoutOp_of_passed {d : Dev} {sid n ref t : Nat} {s : Search} (hs : d.search? sid = some s) (ho : s.origin = some (n, ref))
    (ht : s.deadline = some t) (hnow : t ≤ d.now) :
    subsearchTimeoutOp sid d = d.subAnswer sid { ref := ref, status := Status.timeout.code } := by
  simp only [subsearchTimeoutOp, hs, ho, ht, hnow, decide_true, if_true]

/-- At the coordinator, which ends the command. -/
theorem subsearchTimeoutOp_of_late {d : Dev} {sid : Nat} {s : Search} (hs : d.search? sid = some s) (ho : s.origin = none)
    (hrun : d.qRuns sid = true) (hlate : d.fanLate sid = true) : subsearchTimeoutOp sid d =
      ((d.updCtx sid (fun x => { x with cause := some (.timeout, d.now) })).dropQueries sid).finishSt sid .timeout := by
  simp only [subsearchTimeoutOp, hs, ho, hrun, hlate, Bool.and_self, if_true]

/-- Settles O32: the two ends of a sub-search's checks, and the deadline at each side. -/
theorem subSearches : Obligations.SubSearches := by
  intro q fu d src hsrc
  refine ⟨?starts, ?refused, fun r => onNumbered_next hsrc rfl q fu, ?shard, ?coordinator⟩
  case starts =>
    intro p i d1 d2 img slot attr hw hnode hfree hadmit hcoll hepoch hfilter
    have hbegin := congrArg Prod.fst (Dev.subBegin_starts hnode hfree hadmit hcoll hepoch hfilter)
    exact onNumbered_next hsrc ((subSearchOp_of_works hw src p).trans hbegin) q fu
  case refused =>
    intro p st hw h
    exact onNumbered_next hsrc ((subSearchOp_of_works hw src p).trans (congrArg Prod.fst (Dev.subBegin_of_refused h))) q fu
  case shard => exact fun sid s n ref t hsid hs ho ht hnow => onNumbered_next hsid (subsearchTimeoutOp_of_passed hs ho ht hnow) q fu
  case coordinator => exact fun sid s hsid hs ho hrun hlate => onNumbered_next hsid (subsearchTimeoutOp_of_late hs ho hrun hlate) q fu

/-! QUERY_START (R131, R132, R157). -/

/-- A query whose epoch has sealed here takes a core, and the Lacing unit of its die that the last one did not take. -/
theorem queryStartOp_of_core {d : Dev} {sid k c l : Nat} {s : Search} {y : Query} (hq : d.inPhase (qKey sid k) .waitCore = some (s, y))
    (hsealed : s.origin = none ∨ eLt (d.lastSealed s.coll) s.epoch = false) (hcore : d.coreFor s sid = some c)
    (hl : l = 2 * (c / 4) + (Tab.getD d.srch.lastLac (c / 4) 1 + 1) % 2) {d2 d3 : Dev}
    (hd2 : d2 = { d.gaveCore c with srch := { (d.gaveCore c).srch with lastLac := Tab.set (d.gaveCore c).srch.lastLac (c / 4) (l % 2) } })
    (hd3 : d3 = (d2.bump pgCtx 2 0).updQuery (qKey sid k) (fun y => { y with core := c, lac := l })) :
    queryStartOp sid k d = if s.format = 3 ∧ s.origin = none then d3.toPhase (qKey sid k) .embed else d3.afterVec (qKey sid k) := by
  have hwaits : (s.origin.isSome && eLt (d.lastSealed s.coll) s.epoch) = false := by
    rcases hsealed with h | h <;> simp [h]
  subst hl hd2 hd3
  simp only [queryStartOp, hq, hwaits, hcore, Bool.and_eq_true, decide_eq_true_eq, Option.isNone_iff_eq_none, Bool.false_eq_true, if_false]

/-! COARSE_PHASE (R136, R156). -/

theorem Dev.noneHeld_of_goOn {d : Dev} {l : List Nat} (h : ∀ n ∈ l, d.goesOn (pgKpr n) = true) :
    l.any (fun n => !d.goesOn (pgKpr n)) = false := by
  simpa [List.any_eq_false] using h

section
variable {d : Dev} {sid k : Nat} {s : Search} {y : Query} (hq : d.inPhase (qKey sid k) .coarse = some (s, y))
include hq

theorem coarsePhaseOp_of_fanout (hf : s.fanout = true) : coarsePhaseOp sid k d = d.fanOut (qKey sid k) := by
  simp only [coarsePhaseOp, hq, hf, if_true]

variable (hf : s.fanout = false) (hdone : y.coarseDone = false) (hchain : y.chain.isNone = false)
  (hkpr : ∀ n ∈ chainKeepers y.chain, d.goesOn (pgKpr n) = true)
include hf hdone hchain hkpr

/-- The keys of a shared GEMM have come. -/
theorem coarsePhaseOp_of_probe {p : Probe} (hp : y.probe = some p) :
    coarsePhaseOp sid k d = (d.coarseDo (qKey sid k) s y p).phaseEnd (qKey sid k) .candidate := by
  simp only [coarsePhaseOp, hq, hf, hdone, hchain, Dev.noneHeld_of_goOn hkpr, hp, Bool.or_self, Bool.false_eq_true, if_false]

/-- The query's own core computes them. -/
theorem coarsePhaseOp_of_image {es : List Nat} {d1 d2 d3 : Dev} {bs : List (Nat × Nat)} {ct : List Byte} {p : Probe} (hp : y.probe = none)
    (hshares : s.shares = false) (hcore : d.runs (pgCore y.core) = true)
    (heng : d.kernelEngines y.core (d.queryFn (qKey sid k)) = (d1, es)) (hes : es.isEmpty = false)
    (hbind : d1.phaseBind (qKey sid k) s.image (coarseWants s.image) = (d2, .ok bs))
    (himage : d2.firstImage (qRd (qKey sid k)) bs = (d3, .ok ct)) (hsel : p = coarseSelect [d3.draws, 20] s.image ct y.vec s.nprobe s.ef) :
    coarsePhaseOp sid k d =
      ((d3.coarseEngines y.core es s.image ct 1 p.hops).drawn.coarseDo (qKey sid k) s y p).phaseEnd (qKey sid k) .candidate := by
  subst hsel
  simp only [coarsePhaseOp, hq, hf, hdone, hchain, Dev.noneHeld_of_goOn hkpr, hp, hshares, hcore, heng, hes, hbind, himage, GotV.after_ok,
    Bool.or_self, Bool.not_true, Bool.false_eq_true, if_false]
end

/-! COARSE_BATCH_WINDOW (R133, R136). -/

/-- A window is over after 2 µs, or once 64 queries are in it. -/
theorem Dev.gemmRun_of_over {d : Dev} {sid c t0 k0 : Nat} {s : Search} {rest es : List Nat} {d1 d2 d3 : Dev} {bs : List (Nat × Nat)}
    {ct : List Byte} (hs : d.search? sid = some s) (hwindow : (d.gemms sid c).head? = some (t0, k0 :: rest)) (hrun : d.qRuns sid = true)
    (hshares : s.shares = true) (hover : t0 + usCycles 2 ≤ d.now ∨ 63 ≤ rest.length) (hcore : d.runs (pgCore c) = true)
    (heng : d.kernelEngines c (d.queryFn k0) = (d1, es)) (hes : es.isEmpty = false)
    (hbind : d1.phaseBind k0 s.image (coarseWants s.image) = (d2, .ok bs)) (himage : d2.firstImage (qRd k0) bs = (d3, .ok ct)) :
    d.gemmRun sid c = (d3.coarseEngines c es s.image ct (rest.length + 1) 0).gemmDone s (k0 :: rest) bs ct := by
  have hopen : (decide (d.now < t0 + usCycles 2) && decide (rest.length < 63)) = false := by
    rcases hover with h | h <;> simp [Nat.not_lt.2 h]
  simp only [Dev.gemmRun, hs, hwindow, hrun, hshares, hopen, hcore, heng, hes, hbind, himage, Bool.not_true, Bool.or_self, Bool.false_eq_true,
    if_false]

/-- Settles O33: how each of the three operations goes on. -/
theorem queriesStartAndSelect : Obligations.QueriesStartAndSelect := by
  intro q fu d sid k hsid hk
  refine ⟨?start, ?fanout, ?shared, ?own, fun hsid' => onNumbered_next hsid' rfl q fu, ?window⟩
  case start =>
    rintro s y c d1 hq hsealed hcore rfl
    exact onPair_next hsid hk (queryStartOp_of_core hq hsealed hcore rfl rfl rfl) q fu
  case fanout => exact fun s y hq hf => onPair_next hsid hk (coarsePhaseOp_of_fanout hq hf) q fu
  case shared =>
    exact fun s y p hq hf hdone hchain hkpr hp => onPair_next hsid hk (coarsePhaseOp_of_probe hq hf hdone hchain hkpr hp) q fu
  case own =>
    intro s y es d1 d2 d3 bs ct p hq hf hdone hchain hkpr hp hshares hcore heng hes hbind himage hsel
    exact onPair_next hsid hk (coarsePhaseOp_of_image hq hf hdone hchain hkpr hp hshares hcore heng hes hbind himage hsel) q fu
  case window =>
    intro c s t0 k0 rest es d1 d2 d3 bs ct hs hwindow hrun hshares hover hcore heng hes hbind himage
    exact Dev.gemmRun_of_over hs hwindow hrun hshares hover hcore heng hes hbind himage

end Sys2Proof.Machine
end

section
/-! PROOFS. Search execution (04_search_execution.md): chains, gates and streams of the Keepers, and the scanners that feed them (R138, R139,
R165 to R171, R244, R345, R346, R383 to R385). -/

namespace Sys2Proof.Machine
open Sys2Proof

/-- Counting takes no time. -/
@[simp] theorem Dev.bump_now (d : Dev) (p b i n : Nat) : (d.bump p b i n).now = d.now := (reports_bump d p b i n).time.1

/-! CHAIN_GRANT (R166). -/

section
variable {d : Dev} {k ptr : Nat}

theorem chainGrantOp_of_none (hpick : d.fnPick ((Tab.keys d.srch.queries).filter (fun i => (d.chainAsk k i).isSome)) id
    (Tab.getD d.kpr.ptr k 0) = (none, ptr)) : chainGrantOp k d = d := by
  simp only [chainGrantOp, hpick]

variable {k0 : Nat} (hpick : d.fnPick ((Tab.keys d.srch.queries).filter (fun i => (d.chainAsk k i).isSome)) id
  (Tab.getD d.kpr.ptr k 0) = (some k0, ptr)) {d1 : Dev} (hd : d1 = { d with kpr := { d.kpr with ptr := Tab.set d.kpr.ptr k ptr } })
include hpick hd

theorem chainGrantOp_of_stream {sn : Nat} {x : Stream} (hask : d.chainAsk k k0 = some (some (sn, x))) :
    chainGrantOp k d = d1.chainToStream k k0 sn x := by
  simp only [chainGrantOp, hpick, hask, hd]

theorem chainGrantOp_of_coarse {s : Search} {y : Query} (hask : d.chainAsk k k0 = some none) (hq : d.inPhase k0 .coarse = some (s, y)) :
    chainGrantOp k d = d1.chainToCoarse k k0 s y := by
  simp only [chainGrantOp, hpick, hask, hq, hd]
end

/-! EMIT (R244, R255). -/

theorem engEmitOp_of_kernel {d : Dev} {e sn : Nat} (hs : (d.engine e).stream = some sn) (hown : ((d.engine e).owner == .kernel) = true)
    (hrun : d.runs (pgEng e) = true) : engEmitOp e d = (d.bump (pgEng e) 0 2).scanStep sn (.engine e) := by
  simp only [engEmitOp, hs, hown, hrun, Bool.and_self, if_true]

theorem engEmitOp_of_idle {d : Dev} {e : Nat}
    (h : (d.engine e).stream = none ∨ ((d.engine e).owner == .kernel) = false ∨ d.runs (pgEng e) = false) : engEmitOp e d = d := by
  cases hs : (d.engine e).stream with
  | none => simp only [engEmitOp, hs]
  | some sn =>
    have hidle : ((d.engine e).owner == .kernel && d.runs (pgEng e)) = false := by
      rcases h with h | h | h
      · exact nomatch hs.symm.trans h
      · rw [h, Bool.false_and]
      · rw [h, Bool.and_false]
    simp only [engEmitOp, hs, hidle, Bool.false_eq_true, if_false]

theorem onEngine_next {d d1 : Dev} {e : Nat} (he : e < d.part.engines) {f : Dev → Dev} (h : f d = d1) (q : List Instr) (fu : Fuses) :
    onUnit (fun d => decide (e < d.part.engines)) f ⟨q, fu, d⟩ = .next ⟨q, fu, d1⟩ :=
  onUnit_next (has := fun d => decide (e < d.part.engines)) (decide_eq_true he) h q fu

/-! The gate's examination of a candidate (R169). -/

section
variable {d : Dev} {kp sn ptr : Nat} {x : Stream} {c : Cand} {rest : List Cand} (ho : x.offered = c :: rest) {d1 : Dev}
  (hd : d1 = { d with kpr := { d.kpr with
    gatePtr := Tab.set d.kpr.gatePtr kp ptr, gateAt := Tab.upd d.kpr.gateAt kp (0, 0) (tally d.now) } })
  {y : Stream}
  (hy : y = { x with offered := rest, gateAt := tally d.now x.gateAt, readFrom := if rest.isEmpty then d.now else x.readFrom })
include ho hd hy

theorem Dev.gateTake_of_admitted (h : gateRejects x.limit x.ents x.tieTail c = none) :
    d.gateTake kp sn x ptr = (d1.bump (pgKpr kp) 0 0).setStream sn { y with queue := x.queue ++ [c] } := by
  subst hd hy
  simp only [Dev.gateTake, ho, h, Dev.bump_now]

theorem Dev.gateTake_of_rejected {t : Nat} {e : KEvent} (h : gateRejects x.limit x.ents x.tieTail c = some (t, e)) :
    d.gateTake kp sn x ptr =
      ((d1.bump (pgKpr kp) 0 0).setStream sn { y with tieTail := t, badKeys := x.badKeys + b2n (e == .badKey) }).kprCount kp e := by
  subst hd hy
  simp only [Dev.gateTake, ho, h, Dev.bump_now]
end

/-- Keeper kp's gate turns to stream sn: it examines the stream's next candidate if rotation over the functions gives it the turn. -/
def Dev.gateTurn (d : Dev) (kp sn : Nat) : Dev :=
  match d.gateNext kp, d.stream? sn with
  | (some n, ptr), some x => if n = sn then d.gateTake kp sn x ptr else d
  | _, _ => d

theorem Dev.gateTurn_of_turn {d : Dev} {kp sn ptr : Nat} {x : Stream} (hnext : d.gateNext kp = (some sn, ptr)) (hx : d.stream? sn = some x) :
    d.gateTurn kp sn = d.gateTake kp sn x ptr := by
  simp only [Dev.gateTurn, hnext, hx, if_true]

theorem Dev.gateTurn_of_other {d : Dev} {kp sn : Nat} (h : (d.gateNext kp).1 ≠ some sn) : d.gateTurn kp sn = d := by
  unfold Dev.gateTurn
  split
  next n ptr x hnext hx =>
    have hn : n ≠ sn := fun e => h (by rw [hnext, e])
    rw [if_neg hn]
  next => rfl

/-! A chain's insertion of its oldest queued candidate (R165, R168). -/

theorem Dev.chainInsert_of_empty {x : Stream} (hq : x.queue = []) (d : Dev) (kp sn : Nat) : d.chainInsert kp sn x = d := by
  simp only [Dev.chainInsert, hq]

theorem Dev.chainInsert_of_queued {d : Dev} {x : Stream} {c : Cand} {rest : List Cand} (hq : x.queue = c :: rest) (hnow : x.insFrom ≤ d.now)
    {r : List Cand × Nat × KEvent} (hr : r = keeperInsert x.limit x.ents x.tieTail c) (kp sn : Nat) :
    d.chainInsert kp sn x =
      (d.setStream sn { x with queue := rest, ents := r.1, tieTail := r.2.1, insFrom := d.now + 1 }).kprCount kp r.2.2 := by
  subst hr
  simp only [Dev.chainInsert, hq, Nat.not_lt.2 hnow, if_false]

/-! Opening a stream on a stack or an Edger (R345, R383, R384). -/

/-- A waiting stream is opened. -/
theorem Dev.openWait_of_waiting {d : Dev} {sn : Nat} {x : Stream} {s : Search} {y : Query} (hx : d.stream? sn = some x)
    (hq : d.inPhase (sn / 32768) .candidate = some (s, y)) (hstarted : x.started = true) (hopened : x.opened = false)
    (f : Dev → Search → Query → Stream → Dev) : d.openWait sn f = f d s y x := by
  simp only [Dev.openWait, hx, hq, hstarted, hopened, Bool.not_false, Bool.and_self, if_true]

/-- It opens on its stack when its log set finds room there. -/
theorem Dev.awlOpen_eq {d : Dev} {n kib : Nat} {s : Search} {y : Query} {x : Stream} (hkib : kib = ceilDiv (16 * d.logSet s y x.list) 1024)
    (sn : Nat) : d.awlOpen sn n s y x = if d.runs (pgAwl n) = true ∧ d.tombHeld n + kib ≤ 2048
      then (d.setStream sn { x with opened := true, tombKib := kib }).reinForget (80 + n) (.stitch (.stream sn))
      else d.setStream sn x := by
  subst hkib
  simp only [Dev.awlOpen, Bool.and_eq_true, decide_eq_true_eq]

/-- It opens on its Edger when there is a stream, table and tombstone room. -/
theorem Dev.edgOpen_eq {d : Dev} {c t kib usedT usedK : Nat} {s : Search} {y : Query} {x : Stream} {h h1 : Channel} {sn : Nat}
    (hc : Tab.find? d.flash.ch c = some h) (ht : t = up64 (edgTables s)) (hkib : kib = ceilDiv (16 * d.logSet s y x.list) 1024)
    (husedT : usedT = (h.edger.map (fun u => u.tableBytes)).foldl (· + ·) 0) (husedK : usedK = (h.edger.map (fun u => u.tombKib)).foldl (· + ·) 0)
    (hh : h1 = { h with edger := h.edger ++ [{ sid := sn, tableBytes := t, tombKib := kib }] }) :
    d.edgOpen sn c s y x = if d.runs (pgEdg c) = true ∧ h.edger.length < 8 ∧ usedT + t ≤ 65536 ∧ usedK + kib ≤ 512
      then ((({ d with flash := { d.flash with ch := Tab.set d.flash.ch c h1 } } : Dev).setStream sn { x with opened := true, tombKib := kib }).bump
          (pgEdg c) 0 0).reinForget (chanRein c) (.flash 0 (.tranche sn) 0)
      else d.setStream sn x := by
  subst ht hkib husedT husedK hh
  simp only [Dev.edgOpen, hc, Bool.and_eq_true, decide_eq_true_eq, and_assoc]

/-! The rows of a stream. -/

theorem onStream_next {sid k j : Nat} (hsid : sid < 16384) (hk : k < 256) (hj : j < 32768) {f : Dev → Dev} {d e : Dev} (h : f d = e)
    (q : List Instr) (fu : Fuses) : onUnit (fun _ => streamOk sid k j) f ⟨q, fu, d⟩ = .next ⟨q, fu, e⟩ :=
  onUnit_next (by simp [streamOk, hsid, hk, hj]) h q fu

section
variable {d : Dev} {sid k j : Nat} {x : Stream} (hx : d.stream? (streamNo sid k j) = some x)
include hx

/-! On a stack or an Edger. -/

theorem awlStreamOpenOp_of_waiting {n : Nat} {s : Search} {y : Query} (hq : d.inPhase (streamNo sid k j / 32768) .candidate = some (s, y))
    (hstarted : x.started = true) (hopened : x.opened = false) (hplace : x.place = .hide n) :
    awlStreamOpenOp sid k j d = d.awlOpen (streamNo sid k j) n s y x := by
  simp only [awlStreamOpenOp, Dev.openWait_of_waiting hx hq hstarted hopened, hplace]

theorem edgerStreamOpenOp_of_waiting {c : Nat} {s : Search} {y : Query} (hq : d.inPhase (streamNo sid k j / 32768) .candidate = some (s, y))
    (hstarted : x.started = true) (hopened : x.opened = false) (hplace : x.place = .flash c) :
    edgerStreamOpenOp sid k j d = d.edgOpen (streamNo sid k j) c s y x := by
  simp only [edgerStreamOpenOp, Dev.openWait_of_waiting hx hq hstarted hopened, hplace]

theorem awlTrancheOp_of_open {n : Nat} (hplace : x.place = .hide n) (hopened : x.opened = true) (hended : x.ended = false)
    (ho : x.offered = []) (hrun : d.runs (pgAwl n) = true) : awlTrancheOp sid k j d = d.scanStep (streamNo sid k j) (.awl n) := by
  simp only [awlTrancheOp, hx, hplace, hopened, hended, ho, hrun, List.isEmpty_nil, Bool.not_true, Bool.or_self, Bool.false_eq_true, if_false]

theorem awlTrancheOp_of_blocked {n : Nat} (hplace : x.place = .hide n)
    (h : x.opened = false ∨ x.ended = true ∨ x.offered ≠ [] ∨ d.runs (pgAwl n) = false) : awlTrancheOp sid k j d = d := by
  have hblocked : (!x.opened || x.ended || !x.offered.isEmpty || !d.runs (pgAwl n)) = true := by
    rcases h with h | h | h | h <;> simp [h]
  simp only [awlTrancheOp, hx, hplace, hblocked, if_true]

theorem edgerTrancheOp_eq {c : Nat} (hplace : x.place = .flash c) :
    edgerTrancheOp sid k j d = if x.opened = true ∧ d.runs (pgEdg c) = true then d.scanStep (streamNo sid k j) (.edger c) else d := by
  simp only [edgerTrancheOp, hx, hplace, Bool.and_eq_true]

/-! At a Keeper. -/

theorem thresholdFeedbackOp_eq {kp f n : Nat} (hc : x.chain = some (kp, f, n)) : thresholdFeedbackOp sid k j d =
    if d.feedbackDue kp x = true
    then (d.setStream (streamNo sid k j) { x with thresh := x.lastKey, sentAt := d.now }).bump (pgKpr kp) 0 9 else d := by
  simp only [thresholdFeedbackOp, hx, hc]

/-- A Keeper that goes on inserts, and then its gate turns to the stream. -/
theorem keeperInsertOp_of_goesOn {kp f n : Nat} (hc : x.chain = some (kp, f, n)) (hgo : d.goesOn (pgKpr kp) = true) :
    keeperInsertOp sid k j d = (d.chainInsert kp (streamNo sid k j) x).gateTurn kp (streamNo sid k j) := by
  simp only [keeperInsertOp, hx, hc, hgo, Option.bind_some, Bool.not_true, Bool.false_eq_true, if_false]
  rfl

theorem keeperInsertOp_of_held {kp f n : Nat} (hc : x.chain = some (kp, f, n)) (hgo : d.goesOn (pgKpr kp) = false) :
    keeperInsertOp sid k j d = d := by
  simp only [keeperInsertOp, hx, hc, hgo, Option.bind_some, Bool.not_false, if_true]

section
variable {s : Search} {y : Query} (hq : d.inPhase (qKey sid k) .candidate = some (s, y))
include hq

/-- An ended stream whose candidates have all passed the gate and the queue drains to Lacing. -/
theorem streamEndOp_of_drained {kp f n : Nat} (hc : x.chain = some (kp, f, n)) (hended : x.ended = true) (ho : x.offered = [])
    (hqueue : x.queue = []) (hkpr : d.goesOn (pgKpr kp) = true) (hlac : d.goesOn (pgLac y.lac) = true) :
    streamEndOp sid k j d = ((d.dropStream (streamNo sid k j)).updQuery (qKey sid k)
      (fun z => { z with parts := Tab.set z.parts x.part x.partialList })).bump (pgKpr kp) 0 8 := by
  simp only [streamEndOp, hx, hq, hc, hended, ho, hqueue, hkpr, hlac, List.isEmpty_nil, Bool.not_true, Bool.or_self, Bool.false_eq_true, if_false]

theorem streamEndOp_of_undrained {kp f n : Nat} (hc : x.chain = some (kp, f, n)) (h : x.ended = false ∨ x.offered ≠ [] ∨ x.queue ≠ []) :
    streamEndOp sid k j d = d := by
  have hundrained : (!x.ended || !x.offered.isEmpty || !x.queue.isEmpty || !d.goesOn (pgKpr kp) || !d.goesOn (pgLac y.lac)) = true := by
    rcases h with h | h | h <;> simp [h]
  simp only [streamEndOp, hx, hq, hc, hundrained, if_true]

/-! The start of a piece (R138, R139). -/

theorem scanPieceOp_of_blocked (h : x.started = true ∨ x.chain.isNone = true ∨ d.runs (pgCore y.core) = false) : scanPieceOp sid k j d = d := by
  have hblocked : (x.started || x.chain.isNone || !d.runs (pgCore y.core)) = true := by
    rcases h with h | h | h <;> simp only [h, Bool.true_or, Bool.or_true, Bool.not_false]
  simp only [scanPieceOp, hx, hq, hblocked, if_true]

variable (hnew : x.started = false) (hchain : x.chain.isNone = false) (hcore : d.runs (pgCore y.core) = true)
include hnew hchain hcore

theorem scanPieceOp_of_sealed (hsealed : x.delta = false) : scanPieceOp sid k j d = d.scanSealedStart (streamNo sid k j) s y x := by
  simp only [scanPieceOp, hx, hq, hnew, hchain, hcore, hsealed, Bool.not_true, Bool.or_self, Bool.false_eq_true, if_false]

variable (hdelta : x.delta = true)
include hdelta

theorem scanPieceOp_of_empty_delta (h : d.insRecs s.image (d.head s.image x.list) = []) : scanPieceOp sid k j d =
    (d.setStream (streamNo sid k j) { x with started := true, opened := true, ended := true }).bump pgCtx 2 11 := by
  simp only [scanPieceOp, hx, hq, hnew, hchain, hcore, hdelta, h, List.map_nil, List.length_nil, Bool.not_true, Bool.or_self,
    Bool.false_eq_true, if_false, if_true]

/-- A delta piece of some records takes the first free engine of its core. -/
theorem scanPieceOp_of_delta {recs : List (Nat × Nat)} {d1 : Dev} {e : Nat} {es : List Nat}
    (hrecs : recs = (d.insRecs s.image (d.head s.image x.list)).map (fun r => (r.block, r.idx))) (hsome : recs.length ≠ 0)
    (heng : d.kernelEngines y.core (d.queryFn (qKey sid k)) = (d1, e :: es)) : scanPieceOp sid k j d =
    (d1.kernelStart (streamNo sid k j) e { x with started := true, stop := recs.length, recs := recs }).bump pgCtx 2 11 := by
  simp only [scanPieceOp, hx, hq, hnew, hchain, hcore, hdelta, ← hrecs, hsome, heng, Bool.not_true, Bool.or_self, Bool.false_eq_true, if_false,
    if_true]
end
end

/-- Settles O56: what each row does with a stream in each of its states. -/
theorem scans : Obligations.Scans := by
  intro q fu d
  refine ⟨?toStream, ?toCoarse, fun k ptr hk hpick => onNumbered_next hk (chainGrantOp_of_none hpick) q fu, ?emits, ?idle, ?stream⟩
  case toStream =>
    exact fun k k0 ptr d1 sn x hk hd hpick hask => onNumbered_next hk (chainGrantOp_of_stream hpick hd hask) q fu
  case toCoarse =>
    exact fun k k0 ptr d1 s y hk hd hpick hask hq => onNumbered_next hk (chainGrantOp_of_coarse hpick hd hask hq) q fu
  case emits =>
    rintro e x sn he rfl hs hown hrun
    exact onEngine_next he (engEmitOp_of_kernel hs hown hrun) q fu
  case idle =>
    rintro e x he rfl h
    exact onEngine_next he (engEmitOp_of_idle h) q fu
  case stream =>
    intro sid k j x hsid hk hj hx
    refine ⟨?gate, ?inserts, ?both, ?held, ?due, ?undue, ?drained, ?undrained, ?onStack, ?onEdger, ?stackTranche, ?noStackTranche,
      ?edgerTranche, ?noEdgerTranche, ?delta, ?emptyDelta, ?sealed, ?noPiece⟩
    case gate =>
      intro kp f n c rest ptr d1 y hc hqueue ho hgo hnext hd hy
      have hturn : keeperInsertOp sid k j d = d.gateTake kp (streamNo sid k j) x ptr := by
        rw [keeperInsertOp_of_goesOn hx hc hgo, Dev.chainInsert_of_empty hqueue, Dev.gateTurn_of_turn hnext hx]
      refine ⟨fun h => ?_, fun t e h => onStream_next hsid hk hj (hturn.trans (Dev.gateTake_of_rejected ho hd hy h)) q fu⟩
      have hadmit := Dev.gateTake_of_admitted (sn := streamNo sid k j) ho hd hy h
      rw [hqueue] at hadmit
      exact onStream_next hsid hk hj (hturn.trans hadmit) q fu
    case inserts =>
      intro kp f n c rest r d1 hc hqueue hgo hnow hr hd hother
      refine onStream_next hsid hk hj ?_ q fu
      rw [keeperInsertOp_of_goesOn hx hc hgo, Dev.chainInsert_of_queued hqueue hnow hr, ← hd, Dev.gateTurn_of_other hother]
    case both =>
      rintro kp f n d1 y ptr hc hgo rfl hnext hy
      exact onStream_next hsid hk hj ((keeperInsertOp_of_goesOn hx hc hgo).trans (Dev.gateTurn_of_turn hnext hy)) q fu
    case held => exact fun kp f n hc hgo => onStream_next hsid hk hj (keeperInsertOp_of_held hx hc hgo) q fu
    case due => exact fun kp f n hc h => onStream_next hsid hk hj ((thresholdFeedbackOp_eq hx hc).trans (if_pos h)) q fu
    case undue =>
      exact fun kp f n hc h => onStream_next hsid hk hj ((thresholdFeedbackOp_eq hx hc).trans (if_neg (ne_true_of_eq_false h))) q fu
    case drained =>
      intro s y kp f n hq hc hended ho hqueue hkpr hlac
      exact onStream_next hsid hk hj (streamEndOp_of_drained hx hq hc hended ho hqueue hkpr hlac) q fu
    case undrained => exact fun s y kp f n hq hc h => onStream_next hsid hk hj (streamEndOp_of_undrained hx hq hc h) q fu
    case onStack =>
      intro s y n kib hq hstarted hopened hplace hkib
      exact onStream_next hsid hk hj ((awlStreamOpenOp_of_waiting hx hq hstarted hopened hplace).trans (Dev.awlOpen_eq hkib _)) q fu
    case onEdger =>
      intro s y c h h1 t kib usedT usedK hq hstarted hopened hplace hch ht hkib husedT husedK hh
      exact onStream_next hsid hk hj ((edgerStreamOpenOp_of_waiting hx hq hstarted hopened hplace).trans
        (Dev.edgOpen_eq hch ht hkib husedT husedK hh)) q fu
    case stackTranche =>
      exact fun n hplace hopened hended ho hrun => onStream_next hsid hk hj (awlTrancheOp_of_open hx hplace hopened hended ho hrun) q fu
    case noStackTranche => exact fun n hplace h => onStream_next hsid hk hj (awlTrancheOp_of_blocked hx hplace h) q fu
    case edgerTranche =>
      exact fun c hplace hopened hrun => onStream_next hsid hk hj ((edgerTrancheOp_eq hx hplace).trans (if_pos ⟨hopened, hrun⟩)) q fu
    case noEdgerTranche =>
      intro c hplace h
      have hblocked : ¬(x.opened = true ∧ d.runs (pgEdg c) = true) := by
        rcases h with h | h <;> simp [h]
      exact onStream_next hsid hk hj ((edgerTrancheOp_eq hx hplace).trans (if_neg hblocked)) q fu
    case delta =>
      rintro s y n recs d1 e es hq hnew hchain hcore hdelta hrecs rfl hsome heng
      exact onStream_next hsid hk hj (scanPieceOp_of_delta hx hq hnew hchain hcore hdelta hrecs hsome heng) q fu
    case emptyDelta =>
      exact fun s y hq hnew hchain hcore hdelta h =>
        onStream_next hsid hk hj (scanPieceOp_of_empty_delta hx hq hnew hchain hcore hdelta h) q fu
    case sealed =>
      exact fun s y hq hnew hchain hcore hsealed => onStream_next hsid hk hj (scanPieceOp_of_sealed hx hq hnew hchain hcore hsealed) q fu
    case noPiece => exact fun s y hq h => onStream_next hsid hk hj (scanPieceOp_of_blocked hx hq h) q fu

end Sys2Proof.Machine
end

section
/-! PROOFS. Search execution (04_search_execution.md): pool slots, the CANDIDATE phase, Lacing passes and results (R131, R139, R143 to R151,
R157 to R160, R174 to R178). -/

namespace Sys2Proof.Machine
open Sys2Proof

/-! POOL_SLOT_GRANT (R174). -/

theorem poolSlotGrantOp_of_pick {d : Dev} {l k ptr : Nat} (hroom : d.lacRoom l = true)
    (hpick : d.fnPick (d.slotAskers l) id (Tab.getD d.kpr.lacPtr l 0) = (some k, ptr)) :
    poolSlotGrantOp l d = ({ d with kpr := { d.kpr with lacPtr := Tab.set d.kpr.lacPtr l ptr } } : Dev).updQuery k
      (fun z => { z with slot := true, asked := false }) := by
  simp only [poolSlotGrantOp, hroom, hpick, Bool.not_true, Bool.false_eq_true, if_false]

theorem poolSlotGrantOp_of_none {d : Dev} {l : Nat}
    (h : d.lacRoom l = false ∨ (d.fnPick (d.slotAskers l) id (Tab.getD d.kpr.lacPtr l 0)).1 = none) : poolSlotGrantOp l d = d := by
  unfold poolSlotGrantOp
  split
  · rfl
  next hroom =>
    have hnone := h.resolve_left fun e => hroom (by rw [e]; rfl)
    split
    · rfl
    next hpick => exact nomatch hnone.symm.trans (congrArg Prod.fst hpick)

/-! CANDIDATE_PHASE. -/

section
variable {d : Dev} {sid k : Nat} {s : Search} {y : Query} (hq : d.inPhase (qKey sid k) .candidate = some (s, y))
include hq

theorem candidatePhaseOp_of_no_slot (hslot : y.slot = false) : candidatePhaseOp sid k d = d.takeSlot (qKey sid k) y := by
  simp only [candidatePhaseOp, hq, hslot, Bool.not_false, if_true]

variable (hslot : y.slot = true)

/-! A fan-out query's shards (R159, R160). -/

section
variable (hf : s.fanout = true)
include hslot hf

theorem candidatePhaseOp_of_shards_out (h : y.shards.any (fun h => h.result.isNone) = true ∨ y.merged < y.streams) :
    candidatePhaseOp sid k d = d := by
  have hwaits : (y.shards.any (fun h => h.result.isNone) || decide (y.merged < y.streams)) = true := by
    rcases h with h | h <;> simp only [h, decide_true, Bool.true_or, Bool.or_true]
  simp only [candidatePhaseOp, hq, hslot, hf, hwaits, Bool.not_true, Bool.false_eq_true, if_false, if_true]

variable (hback : y.shards.any (fun h => h.result.isNone) = false) (hmerged : y.streams ≤ y.merged)
include hback hmerged

theorem candidatePhaseOp_of_bad_shard {st : Status} (h : shardBad y.shards = some st) :
    candidatePhaseOp sid k d = d.queryEnd (qKey sid k) st := by
  simp only [candidatePhaseOp, hq, hslot, hf, hback, Nat.not_lt.2 hmerged, h, decide_false, Bool.or_self, Bool.not_true, Bool.false_eq_true,
    if_false, if_true]

theorem candidatePhaseOp_of_good_shards (h : shardBad y.shards = none) :
    candidatePhaseOp sid k d = (d.bump (pgLac y.lac) 0 10).candOrder (qKey sid k) s y := by
  simp only [candidatePhaseOp, hq, hslot, hf, hback, Nat.not_lt.2 hmerged, h, decide_false, Bool.or_self, Bool.not_true, Bool.false_eq_true,
    if_false, if_true]
end

/-! A query's own lists (R131, R139). -/

section
variable (hf : s.fanout = false)
include hslot hf

/-- Streams are still to be merged. -/
theorem candidatePhaseOp_of_unmerged (hstreams : y.streams ≠ 0) (h : y.merged < y.streams) : candidatePhaseOp sid k d = d := by
  simp only [candidatePhaseOp, hq, hslot, hf, hstreams, h, decide_false, Bool.false_and, Bool.not_true, Bool.false_eq_true, if_false, if_true]

theorem candidatePhaseOp_of_merged (hstarted : y.streams ≠ 0 ∨ y.probes.isEmpty = true) (h : y.streams ≤ y.merged) :
    candidatePhaseOp sid k d = d.candOrder (qKey sid k) s y := by
  have hbegun : (decide (y.streams = 0) && !y.probes.isEmpty) = false := by
    rcases hstarted with h | h <;> simp [h]
  simp only [candidatePhaseOp, hq, hslot, hf, hbegun, Nat.not_lt.2 h, Bool.not_true, Bool.false_eq_true, if_false]

variable (hstreams : y.streams = 0) (hprobes : y.probes.isEmpty = false) {d1 : Dev}
include hstreams hprobes

theorem candidatePhaseOp_of_bad_bind {st : Status} (hbind : d.phaseBind (qKey sid k) s.image (candWants s.image) = (d1, .bad st)) :
    candidatePhaseOp sid k d = d1.queryEnd (qKey sid k) st := by
  simp only [candidatePhaseOp, hq, hslot, hf, hstreams, hprobes, hbind, GotV.after_bad, decide_true, Bool.and_self, Bool.not_true,
    Bool.not_false, Bool.false_eq_true, if_false, if_true]

variable {d2 : Dev} {bs : List (Nat × Nat)} {b : Nat × Nat}
  (hbind : d.phaseBind (qKey sid k) s.image (candWants s.image) = (d1, .ok bs)) (hdir : bindOf bs (cDirTbl s.image) = some b)
include hbind hdir

theorem candidatePhaseOp_of_bad_entries {st : Status}
    (hents : d1.readEntries (qRd (qKey sid k)) (d1.boundBase b) (y.probes.map Prod.snd) = (d2, .bad st)) :
    candidatePhaseOp sid k d = d2.queryEnd (qKey sid k) st := by
  simp only [candidatePhaseOp, hq, hslot, hf, hstreams, hprobes, hbind, hdir, hents, GotV.after_ok, GotV.after_bad, decide_true, Bool.and_self,
    Bool.not_true, Bool.not_false, Bool.false_eq_true, if_false, if_true]

theorem candidatePhaseOp_of_entries {ents : Tab (List Byte)}
    (hents : d1.readEntries (qRd (qKey sid k)) (d1.boundBase b) (y.probes.map Prod.snd) = (d2, .ok ents)) :
    candidatePhaseOp sid k d = d2.makeStreams (qKey sid k) s y ents := by
  simp only [candidatePhaseOp, hq, hslot, hf, hstreams, hprobes, hbind, hdir, hents, GotV.after_ok, decide_true, Bool.and_self, Bool.not_true,
    Bool.not_false, Bool.false_eq_true, if_false, if_true]
end

/-! LACING_PASS (R176 to R178). -/

theorem lacingPassOp_of_lists {take : Tab PList} {r : Pass} (hslot : y.slot = true) (hgo : d.goesOn (pgLac y.lac) = true)
    (htake : take = y.parts.take (d.leaves y.lac)) (hsome : take.isEmpty = false)
    (hr : r = (passInputs y take).foldl (Pass.take s.poolSize) {}) :
    lacingPassOp sid k d = (d.passCount (pgLac y.lac) take.length r (passTies s y take r).2).updQuery (qKey sid k)
      (fun z => { z with parts := z.parts.drop take.length, pool := r.out, tPool := (passTies s y take r).1,
                         merged := z.merged + take.length, flags := z.flags ||| (if r.dups = 0 then 0 else 8) }) := by
  simp only [lacingPassOp, hq, hslot, hgo, ← htake, hsome, ← hr, Bool.not_true, Bool.or_self, Bool.false_eq_true, if_false]

theorem lacingPassOp_of_none (h : y.slot = false ∨ d.goesOn (pgLac y.lac) = false ∨ y.parts = []) : lacingPassOp sid k d = d := by
  simp only [lacingPassOp, hq]
  rcases h with h | h | h <;> simp [h]
end

/-! WRITE_PHASE (R150 to R152, R157). -/

section
variable {d : Dev} {sid k : Nat} {s : Search} {y : Query} (hq : d.inPhase (qKey sid k) .write = some (s, y))
include hq

theorem writePhaseOp_of_batch (hb : s.batch = true) : writePhaseOp sid k d = d.writeBatch (qKey sid k) s y := by
  simp only [writePhaseOp, hq, hb, if_true]

variable (hb : s.batch = false) {r : Result} (hr : r = resultOf s y)
include hb hr

/-- A sub-search's result goes to its sender. -/
theorem writePhaseOp_of_sub {n ref : Nat} (ho : s.origin = some (n, ref)) : writePhaseOp sid k d = (d.queryDone (qKey sid k) r).subAnswer sid
    { ref := ref, status := 0, flags := r.flags, tie := r.tie, lists := sat 16 y.scanned, evaluated := sat 16 y.evaluated,
      scored := sat 32 y.scored, records := r.recs.map candRecord } := by
  simp only [writePhaseOp, hq, hb, ho, ← hr, Bool.false_eq_true, if_false]

variable (ho : s.origin = none) {d1 : Dev}
include ho

theorem writePhaseOp_of_stored {x : Ctx} (hput : d.put sid s.out (resultBytes s.k r.recs) = (d1, .done)) (hx : d1.ctx? sid = some x) :
    writePhaseOp sid k d = (d1.queryDone (qKey sid k) r).finish sid
      { status := .ok, flags := r.flags, count := r.recs.length, tie := r.tie, spec0 := searchSpec0 y.scanned y.evaluated y.scored,
        spec1 := d1.sinceFetch x } := by
  simp only [writePhaseOp, hq, hb, ho, ← hr, hput, hx, Bool.false_eq_true, if_false]

theorem writePhaseOp_of_bad_store {st : Status} (hput : d.put sid s.out (resultBytes s.k r.recs) = (d1, .fail st)) :
    writePhaseOp sid k d = d1.queryEnd (qKey sid k) st := by
  simp only [writePhaseOp, hq, hb, ho, ← hr, hput, Bool.false_eq_true, if_false]

theorem writePhaseOp_of_unstored (hput : d.put sid s.out (resultBytes s.k r.recs) = (d1, .wait)) : writePhaseOp sid k d = d1 := by
  simp only [writePhaseOp, hq, hb, ho, ← hr, hput, Bool.false_eq_true, if_false]
end

/-- Settles O57: the branches of the four operations. -/
theorem poolsAndResults : Obligations.PoolsAndResults := by
  intro q fu d
  refine ⟨fun l k ptr hl hroom hpick => onNumbered_next hl (poolSlotGrantOp_of_pick hroom hpick) q fu,
    fun l hl h => onNumbered_next hl (poolSlotGrantOp_of_none h) q fu, fun sid k hsid hk => ?query⟩
  refine ⟨fun s y hq hslot => onPair_next hsid hk (candidatePhaseOp_of_no_slot hq hslot) q fu, fun s y hq hslot hf => ?shards,
    fun s y hq hslot hf => ?lists, ?pass, fun s y hq h => onPair_next hsid hk (lacingPassOp_of_none hq h) q fu, ?stored, ?badStore, ?unstored,
    fun s y hq hb => onPair_next hsid hk (writePhaseOp_of_batch hq hb) q fu,
    fun s y r n ref hq hb ho hr => onPair_next hsid hk (writePhaseOp_of_sub hq hb hr ho) q fu⟩
  case shards =>
    exact ⟨fun h => onPair_next hsid hk (candidatePhaseOp_of_shards_out hq hslot hf h) q fu,
      fun st hback hmerged h => onPair_next hsid hk (candidatePhaseOp_of_bad_shard hq hslot hf hback hmerged h) q fu,
      fun hback hmerged h => onPair_next hsid hk (candidatePhaseOp_of_good_shards hq hslot hf hback hmerged h) q fu⟩
  case lists =>
    refine ⟨fun d1 d2 bs b ents hstreams hprobes hbind hdir hents => ?starts, fun d1 st hstreams hprobes hbind => ?badBind,
      fun d1 d2 bs b st hstreams hprobes hbind hdir hents => ?badEntries,
      fun hstreams h => onPair_next hsid hk (candidatePhaseOp_of_unmerged hq hslot hf hstreams h) q fu,
      fun hstarted h => onPair_next hsid hk (candidatePhaseOp_of_merged hq hslot hf hstarted h) q fu⟩
    case starts => exact onPair_next hsid hk (candidatePhaseOp_of_entries hq hslot hf hstreams hprobes hbind hdir hents) q fu
    case badBind => exact onPair_next hsid hk (candidatePhaseOp_of_bad_bind hq hslot hf hstreams hprobes hbind) q fu
    case badEntries => exact onPair_next hsid hk (candidatePhaseOp_of_bad_entries hq hslot hf hstreams hprobes hbind hdir hents) q fu
  case pass =>
    exact fun s y take r hq hslot hgo htake hsome hr => onPair_next hsid hk (lacingPassOp_of_lists hq hslot hgo htake hsome hr) q fu
  case stored =>
    rintro s y r d1 x hq hb ho rfl hput hx
    exact onPair_next hsid hk (writePhaseOp_of_stored hq hb rfl ho hput hx) q fu
  case badStore => exact fun s y d1 st hq hb ho hput => onPair_next hsid hk (writePhaseOp_of_bad_store hq hb rfl ho hput) q fu
  case unstored => exact fun s y d1 hq hb ho hput => onPair_next hsid hk (writePhaseOp_of_unstored hq hb rfl ho hput) q fu

end Sys2Proof.Machine
end

section
/-! PROOFS. Search execution (04_search_execution.md) and Saddlebag (12_saddlebag_row_tables.md): row lookups, fills, gathers and the FILTER
phase (R145, R395 to R406). -/

namespace Sys2Proof.Machine
open Sys2Proof

/-! The lookup of a begun key (R396, R397, R403, R404). -/

section
variable {d d2 : Dev} {r pos n : Nat} {x : GatherReq} (hx : d.gather? r = some x)
include hx

theorem Dev.lookup_of_bad_index {st : Status} (hrow : d.rowIndex r pos x (x.keys.getD pos 0) = (d2, .bad st)) :
    d.lookup r pos = d2.gatherFail r st := by
  simp only [Dev.lookup, hx, hrow, GotV.after_bad]

theorem Dev.lookup_of_invalid (hrow : d.rowIndex r pos x (x.keys.getD pos 0) = (d2, .ok (.invalid, n))) :
    d.lookup r pos = ((d2.rowPut r pos none).bump (pgSad x.inst) 0 2).bump (pgSad x.inst) 0 13 (n - 1) := by
  simp only [Dev.lookup, hx, hrow, GotV.after_ok]

theorem Dev.lookup_of_missing (hrow : d.rowIndex r pos x (x.keys.getD pos 0) = (d2, .ok (.missing, n))) :
    d.lookup r pos = ((d2.rowPut r pos none).bump (pgSad x.inst) 0 3).bump (pgSad x.inst) 0 13 (n - 1) := by
  simp only [Dev.lookup, hx, hrow, GotV.after_ok]

variable {d3 : Dev} {i : Nat} (hrow : d.rowIndex r pos x (x.keys.getD pos 0) = (d2, .ok (.row i, n)))
include hrow

theorem Dev.lookup_of_row {b : List Byte}
    (hread : d2.sbBytes r pos x 0 (i * rtStride x.image) (rowBytes (rtFmt x.image) (rtDim x.image)) = (d3, .ok b)) :
    d.lookup r pos = ((d3.rowPut r pos (some (rowDecode x.image b))).bump (pgSad x.inst) 0 1).bump (pgSad x.inst) 0 13 (n - 1) := by
  simp only [Dev.lookup, hx, hrow, hread, GotV.after_ok]

theorem Dev.lookup_of_bad_row {st : Status}
    (hread : d2.sbBytes r pos x 0 (i * rtStride x.image) (rowBytes (rtFmt x.image) (rtDim x.image)) = (d3, .bad st)) :
    d.lookup r pos = d3.gatherFail r st := by
  simp only [Dev.lookup, hx, hrow, hread, GotV.after_ok, GotV.after_bad]
end

/-! ROW_LOOKUP (R397, R405). -/

section
variable {d : Dev} {r pos : Nat} {x : GatherReq} (hx : d.gather? r = some x)
include hx

/-- The key has its row, or is none of the request's, or lies past where it may run ahead to. -/
theorem rowLookupOp_of_closed (h : Tab.has x.rows pos = true ∨ x.keys.length ≤ pos ∨ d.gatherLimit x < pos) : rowLookupOp r pos d = d := by
  have hclosed : (Tab.has x.rows pos || decide (x.keys.length ≤ pos) || decide (d.gatherLimit x < pos)) = true := by
    rcases h with h | h | h <;> simp [h]
  simp only [rowLookupOp, hx, hclosed, if_true]

/-- It is not the turn of a key that has not begun. -/
theorem rowLookupOp_of_other (hnew : x.begun.contains pos = false) (h : (d.lookupNext x.inst).1 ≠ some r) : rowLookupOp r pos d = d := by
  simp only [rowLookupOp, hx, hnew, Bool.false_eq_true, if_false]
  split
  · rfl
  · split
    next m ptr hnext =>
      have hm : m ≠ r := fun e => h (by rw [hnext, e])
      rw [if_neg hm]
    next => rfl

variable (hrows : Tab.has x.rows pos = false) (hkeys : pos < x.keys.length) (hlimit : pos ≤ d.gatherLimit x)
include hrows hkeys hlimit

theorem rowLookupOp_of_begun (hbegun : x.begun.contains pos = true) (hgo : d.goesOn (pgSad x.inst) = true) :
    rowLookupOp r pos d = d.lookup r pos := by
  simp only [rowLookupOp, hx, hrows, Nat.not_le.2 hkeys, Nat.not_lt.2 hlimit, hbegun, hgo, decide_false, Bool.or_self, Bool.false_eq_true,
    if_false, if_true]

theorem rowLookupOp_of_turn {ptr : Nat} (hnew : x.begun.contains pos = false) (hnext : d.lookupNext x.inst = (some r, ptr)) :
    rowLookupOp r pos d = (d.lookupBegin r pos x ptr).lookup r pos := by
  simp only [rowLookupOp, hx, hrows, Nat.not_le.2 hkeys, Nat.not_lt.2 hlimit, hnew, hnext, decide_false, Bool.or_self, Bool.false_eq_true,
    if_false, if_true]
end

/-! LINE_FILL_DONE (R400 to R402, R404). -/

section
variable {d d1 : Dev} {i n : Nat} {f : Fill} (hf : Tab.find? (d.sbInst i).fills n = some f)
include hf

theorem lineFillDoneOp_of_ready {b : List Byte} {bad : List Nat} (hread : d.sbRead i n f 0 false = (d1, .ok b bad)) {d2 : Dev}
    (hd : d2 = (d1.setSbInst i { d1.sbInst i with fills := Tab.del (d1.sbInst i).fills n }).fillGive f b bad) :
    lineFillDoneOp i n d = if f.doomed || f.bypass || !bad.isEmpty then d2 else d2.sbInstall i f.line b := by
  simp only [lineFillDoneOp, hf, hread, hd]

theorem lineFillDoneOp_of_waits (hread : d.sbRead i n f 0 false = (d1, .wait)) : lineFillDoneOp i n d = d1 := by
  simp only [lineFillDoneOp, hf, hread]

theorem lineFillDoneOp_of_failed (hread : d.sbRead i n f 0 false = (d1, .fail)) :
    lineFillDoneOp i n d = ((f.waiters.map Prod.fst).eraseDups).foldl (fun d r => d.gatherFail r .tierFail)
      (d1.setSbInst i { d1.sbInst i with fills := Tab.del (d1.sbInst i).fills n }) := by
  simp only [lineFillDoneOp, hf, hread]

/-! SB_LATE (R401). -/

theorem sbLateOp_of_early (h : f.late = true ∨ d.now < f.since + usCycles (d.fd R.sbLate 15 0 i)) : sbLateOp i n d = d := by
  have hearly : (f.late || decide (d.now < f.since + usCycles (d.fd R.sbLate 15 0 i))) = true := by
    rcases h with h | h <;> simp [h]
  simp only [sbLateOp, hf, hearly, if_true]

/-- STALLED_TIER on the command of request r. -/
def Dev.stallWaiter (d : Dev) (r : Nat) : Dev :=
  match d.gather? r with
  | some x => d.stallGather x.use
  | none => d

/-- A fill that has just become late stalls the commands that wait for it. -/
theorem sbLateOp_of_late (hnew : f.late = false) (h : f.since + usCycles (d.fd R.sbLate 15 0 i) ≤ d.now)
    (hd : d1 = (d.setSbInst i { d.sbInst i with fills := Tab.set (d.sbInst i).fills n { f with late := true } }).bump (pgSad i) 0 9) :
    sbLateOp i n d = f.waiters.foldl (fun e w => e.stallWaiter w.1) d1 := by
  subst hd
  simp only [sbLateOp, hf, hnew, Nat.not_lt.2 h, decide_false, Bool.or_self, Bool.false_eq_true, if_false]
  rfl
end

/-! GATHER_DONE (R283, R403, R406). -/

/-- Steps that agree everywhere fold alike. -/
theorem foldl_eq_of_step_eq {α β : Type} {f g : α → β → α} (h : ∀ a b, f a b = g a b) (a : α) (l : List β) : l.foldl f a = l.foldl g a := by
  rw [funext fun a => funext (h a)]

/-- Row u of gather g goes to W7 of run x, in slots of `sz` bytes from `base`, once the rows before it are stored. -/
def putRow (x : Run) (g : GatherReq) (base sz : Nat) (acc : Dev × Put) (u : Nat) : Dev × Put :=
  if acc.2 = .done then acc.1.put x.ctx (base + u * sz) (tokenRowBytes g.image (Tab.getD g.rows u none)) else acc

/-- The rows of a complete gather have been stored, must be waited for, or cannot be. -/
def Dev.rowsStored (d : Dev) (r n drops : Nat) : Put → Dev
  | .done => ((d.delGather n).updRun r
      (fun y => { y with step := .ready, gather := none, dropped := y.dropped || decide (0 < drops) })).bump pgCtx 4 6 drops
  | .wait => d
  | .fail st => d.gatherFail n st

section
variable {d : Dev} {r n : Nat} {x : Run} {g : GatherReq} (hx : d.run? r = some x) (hstep : x.step = .gather) (hgather : x.gather = some n)
  (hg : d.gather? n = some g)
include hx hstep hgather hg

theorem gatherDoneOp_of_incomplete (h : g.complete = false) : gatherDoneOp r d = d := by
  simp only [gatherDoneOp, hx, hstep, hgather, hg, h, Bool.not_false, if_true]

theorem gatherDoneOp_of_complete {d1 : Dev} {sz base drops : Nat} {p : Put} (h : g.complete = true)
    (hsz : sz = up64 (rtDim g.image * (if leAt g.image 50 1 = 0 then 4 else 2)))
    (hbase : base = (x.w7 (d.runHdr x)).base + (d.runStage x x.stage).gatherOff)
    (hdrops : drops = ((List.range g.keys.length).filter (fun u => (Tab.getD g.rows u none).isNone)).length)
    (hput : (List.range g.keys.length).foldl (putRow x g base sz) (d, .done) = (d1, p)) : gatherDoneOp r d = d1.rowsStored r n drops p := by
  subst hsz hbase hdrops
  simp only [gatherDoneOp, hx, hstep, hgather, hg, h, Bool.not_true, Bool.false_eq_true, if_false]
  rw [(foldl_eq_of_step_eq ?row _ _).trans hput]
  case row => rintro ⟨e, _ | _ | st⟩ u <;> simp only [putRow, if_true, reduceCtorEq, if_false]
  cases p <;> rfl
end

/-! FILTER_PHASE (R145, R405). -/

section
variable {d : Dev} {sid k : Nat} {s : Search} {y : Query} (hq : d.inPhase (qKey sid k) .filter = some (s, y))
include hq

section
variable (hnew : d.filterReq (qKey sid k) = none)
include hnew

theorem filterPhaseOp_of_no_candidate (h : y.ordered.isEmpty = true) : filterPhaseOp sid k d = d.toPhase (qKey sid k) .write := by
  simp only [filterPhaseOp, hq, hnew, h, if_true]

variable (hsome : y.ordered.isEmpty = false)
include hsome

theorem filterPhaseOp_of_no_table (h : bindOf s.binds (cAttrTbl s.image) = none) : filterPhaseOp sid k d = d.queryEnd (qKey sid k) .badTable := by
  simp only [filterPhaseOp, hq, hnew, hsome, h, Bool.false_eq_true, if_false]

theorem filterPhaseOp_of_table {b : Nat × Nat} (h : bindOf s.binds (cAttrTbl s.image) = some b) : filterPhaseOp sid k d =
    { d with sb := { d.sb with reqs := Tab.set d.sb.reqs d.sb.next (d.filterGather (qKey sid k) y b), next := d.sb.next + 1 } } := by
  simp only [filterPhaseOp, hq, hnew, hsome, h, Bool.false_eq_true, if_false]
end

/-- The program runs on the rows that have come; the phase ends with K survivors, or when all are evaluated. -/
theorem filterPhaseOp_of_gather {n : Nat} {g : GatherReq} {z : Query} (hreq : d.filterReq (qKey sid k) = some (n, g))
    (hz : z = filterRun s.k s.filter g.rows y.ordered.length y) : filterPhaseOp sid k d =
      if s.k ≤ z.survivors.length ∨ y.ordered.length ≤ z.evaluated
      then (((d.setQuery (qKey sid k) z).delGather n).bump (pgSad g.inst) 0 12
        ((g.rows.filter (fun e => decide (z.evaluated ≤ e.1) && e.2.isSome)).length)).toPhase (qKey sid k) .write
      else d.setQuery (qKey sid k) z := by
  subst hz
  simp only [filterPhaseOp, hq, hreq, Bool.or_eq_true, decide_eq_true_eq]
end

/-- Settles O60: what each row does with a key, a fill, a gather and a filter in each of its states. -/
theorem rowsAndFilter : Obligations.RowsAndFilter := by
  intro q fu d
  refine ⟨fun r pos x hx h => onDev_next (rowLookupOp_of_closed hx h) q fu, ?turn,
    fun r pos x hx hnew h => onDev_next (rowLookupOp_of_other hx hnew h) q fu, ?begun,
    fun i n f d1 b bad d2 hi hn hf hread hd => onPair_next hi hn (lineFillDoneOp_of_ready hf hread hd) q fu,
    fun i n f d1 hi hn hf hread => onPair_next hi hn (lineFillDoneOp_of_waits hf hread) q fu,
    fun i n f d1 hi hn hf hread => onPair_next hi hn (lineFillDoneOp_of_failed hf hread) q fu,
    fun i n f hi hn hf h => onPair_next hi hn (sbLateOp_of_early hf h) q fu,
    fun i n f d1 hi hn hf hnew h hd => onPair_next hi hn (sbLateOp_of_late hf hnew h hd) q fu, ?gather, ?filter⟩
  case turn =>
    rintro r pos x ptr d1 hx hrows hkeys hlimit hnew hnext rfl
    exact onDev_next (rowLookupOp_of_turn hx hrows hkeys hlimit hnew hnext) q fu
  case begun =>
    rintro r pos x p hx rfl hgo hrows hkeys hlimit hbegun
    have hlook := rowLookupOp_of_begun hx hrows hkeys hlimit hbegun hgo
    exact ⟨fun d2 n hrow => onDev_next (hlook.trans (Dev.lookup_of_invalid hx hrow)) q fu,
      fun d2 n hrow => onDev_next (hlook.trans (Dev.lookup_of_missing hx hrow)) q fu,
      fun d2 d3 n i b hrow hread => onDev_next (hlook.trans (Dev.lookup_of_row hx hrow hread)) q fu,
      fun d2 st hrow => onDev_next (hlook.trans (Dev.lookup_of_bad_index hx hrow)) q fu,
      fun d2 d3 n i st hrow hread => onDev_next (hlook.trans (Dev.lookup_of_bad_row hx hrow hread)) q fu⟩
  case gather =>
    intro r x n g hx hstep hgather hg
    refine ⟨fun h => onDev_next (gatherDoneOp_of_incomplete hx hstep hgather hg h) q fu, fun d1 sz base drops go h hsz hbase hgo hdrops => ?_⟩
    have hstored (p : Put) (hp : go = (d1, p)) : gatherDoneOp r d = d1.rowsStored r n drops p :=
      gatherDoneOp_of_complete hx hstep hgather hg h hsz hbase hdrops (hgo.symm.trans hp)
    exact ⟨fun hp => onDev_next (hstored _ hp) q fu, fun hp => onDev_next (hstored _ hp) q fu,
      fun st hp => onDev_next (hstored _ hp) q fu⟩
  case filter =>
    intro sid k s y hsid hk hq
    refine ⟨fun hnew h => onPair_next hsid hk (filterPhaseOp_of_no_candidate hq hnew h) q fu,
      fun hnew hsome h => onPair_next hsid hk (filterPhaseOp_of_no_table hq hnew hsome h) q fu,
      fun b hnew hsome h => onPair_next hsid hk (filterPhaseOp_of_table hq hnew hsome h) q fu,
      fun n g z hreq hz => ⟨fun h => ?ends, fun hfew hleft => ?goesOn⟩⟩
    case ends => exact onPair_next hsid hk ((filterPhaseOp_of_gather hq hreq hz).trans (if_pos h)) q fu
    case goesOn =>
      have hmore : ¬(s.k ≤ z.survivors.length ∨ y.ordered.length ≤ z.evaluated) := by omega
      exact onPair_next hsid hk ((filterPhaseOp_of_gather hq hreq hz).trans (if_neg hmore)) q fu

end Sys2Proof.Machine
end

section
/-! PROOFS. Registers whose read has an effect (R68, R183, R219, R275, R467, R491, R519, R558, R583), the inboxes of the control cores (R519),
and the SMBus target (R537). -/

namespace Sys2Proof.Machine
open Sys2Proof

/-! The unit that a page belongs to (R6, R51). -/

theorem Blk.mem_all (b : Blk) : b ∈ Blk.all := by cases b <;> decide

/-- No page belongs to two blocks. -/
theorem Blk.pages_disjoint : ∀ b ∈ Blk.all, ∀ c ∈ Blk.all, b ≠ c → b.first + b.count ≤ c.first ∨ c.first + c.count ≤ b.first := by decide

/-- The search over all blocks finds the page's own, since no other has it. -/
theorem blkOfPage_page {b : Blk} {n : Nat} (hn : n < b.count) : blkOfPage (b.page n) = some (b, n) := by
  have hown : b.first ≤ b.page n ∧ b.page n < b.first + b.count := by unfold Blk.page; omega
  have hfind : Blk.all.find? (fun c => decide (c.first ≤ b.page n) && decide (b.page n < c.first + c.count)) = some b := by
    cases hc : Blk.all.find? (fun c => decide (c.first ≤ b.page n) && decide (b.page n < c.first + c.count)) with
    | none => simpa [hown] using List.find?_eq_none.1 hc b b.mem_all
    | some c =>
      have hin := List.find?_some hc
      simp only [Bool.and_eq_true, decide_eq_true_eq] at hin
      by_cases hcb : b = c
      · rw [hcb]
      · have hapart := Blk.pages_disjoint b b.mem_all c c.mem_all hcb
        omega
  rw [blkOfPage, hfind, Option.map_some, Blk.page, Nat.add_sub_cancel_left]

theorem engines_le (p : Part) : p.engines ≤ 64 := by cases p <;> decide

/-- Every part has all 16 Keepers. -/
theorem Dev.pageUnit_pgKpr (d : Dev) {k : Nat} (hk : k < 16) : d.pageUnit (pgKpr k) = some (.keeper, k) := by
  have hpage : blkOfPage (pgKpr k) = some (.keeper, k) := blkOfPage_page (b := .keeper) hk
  simp [Dev.pageUnit, hpage]

theorem Dev.pageUnit_pgSkv {d : Dev} {e : Nat} (he : e < d.part.engines) : d.pageUnit (pgSkv e) = some (.skiver, e) := by
  have hpage : blkOfPage (pgSkv e) = some (.skiver, e) := blkOfPage_page (b := .skiver) (Nat.lt_of_lt_of_le he (engines_le d.part))
  simp [Dev.pageUnit, hpage, he]

/-! What a master's read of each register does and gives. -/

section
variable {d : Dev} {p n : Nat} (fu : Fuses) (m : Master)

theorem Dev.regRead_ctxFree (h : d.pageUnit p = some (.ctxPool, n)) :
    d.regRead fu m p 0x108 = ({ d with cp := { d.cp with lowMark := d.ctxFree } }, d.regValue fu m p 0x108) := by
  simp [Dev.regRead, h]

theorem Dev.regRead_updEvt (h : d.pageUnit p = some (.ctxPool, n)) : d.regRead fu m p 0x128 = d.updEvtRead m := by
  simp [Dev.regRead, h]

theorem Dev.regRead_kprWaitMax (h : d.pageUnit p = some (.keeper, n)) : d.regRead fu m p 0x108 =
    ({ d with kpr := { d.kpr with waitMax := Tab.del d.kpr.waitMax n } }, w32 (sat 32 (Tab.getD d.kpr.waitMax n 0))) := by
  simp [Dev.regRead, h]

theorem Dev.regRead_skvEvt (h : d.pageUnit p = some (.skiver, n)) : d.regRead fu m p 0x100 = d.skvEvtRead m n := by
  simp [Dev.regRead, h]

theorem Dev.regRead_latEvt (h : d.pageUnit p = some (.latigo, n)) : d.regRead fu m p 0x170 = d.latEvtRead m := by
  simp [Dev.regRead, h]

theorem Dev.regRead_rasRec (h : d.pageUnit p = some (.ras, n)) : d.regRead fu m p 0x110 = d.rasRecRead m := by
  simp [Dev.regRead, h]

theorem Dev.regRead_inboxLo (h : d.pageUnit p = some (.mgmt, n)) {c : Nat} (hc : c < 16) :
    d.regRead fu m p (0x400 + 16 * c) = d.inboxRead m c := by
  have hcommon : ¬0x400 + 16 * c < 0x100 := by omega
  have hlast : 0x400 + 16 * c < 0x500 := by omega
  have hlo : (0x400 + 16 * c) % 16 = 0 := by omega
  simp [Dev.regRead, h, hcommon, hlast, hlo]

theorem Dev.regRead_reinVt (h : d.pageUnit p = some (.rein, n)) :
    d.regRead fu m p 0x104 = (d.setShadow m p 0x108 (w32 ((d.rein n).v / 2 ^ 32)), w32 (d.rein n).v) := by
  simp [Dev.regRead, h]

theorem Dev.regRead_pwrTemp (h : d.pageUnit p = some (.pwr, n)) : d.regRead fu m p 0x124 = d.tempRead := by
  simp [Dev.regRead, h]

/-- A write of CC_INBOX_HI_c sends the pair (R519). -/
theorem Dev.regWrite_inboxHi (h : d.pageUnit p = some (.mgmt, n)) {c : Nat} (hc : c < 16) (v : Word) :
    d.regWrite fu m p (0x404 + 16 * c) v = d.inboxHi m c v := by
  have hcommon : ¬0x404 + 16 * c < 0x100 := by omega
  have hinbox : 0x400 ≤ 0x404 + 16 * c ∧ 0x404 + 16 * c < 0x500 := by omega
  have hhi : (0x404 + 16 * c) % 16 = 4 := by omega
  have hcore : (0x404 + 16 * c - 0x400) / 16 = c := by omega
  have hother : ∀ k < 0x404, 0x404 + 16 * c ≠ k := by omega
  simp [Dev.regWrite, h, onPage, hcommon, Dev.blockWrite, guardedOff, Dev.wrMgmt, hinbox, hhi, hcore, hother]
end

/-! Commands that read or write a register of a fixed page. -/

theorem onFuses_next {f : Fuses → Dev → Dev} {fu : Fuses} {d e : Dev} (h : f fu d = e) (q : List Instr) :
    onFuses f ⟨q, fu, d⟩ = .next ⟨q, fu, e⟩ := by
  rw [onFuses_state, h]

/-- The master gets the value of the read, and the device keeps its effect. -/
theorem onFuses_readReg {fu : Fuses} {d : Dev} {m : Master} {p off : Nat} {r : Dev × Word} (h : d.regRead fu m p off = r) (q : List Instr) :
    onFuses (readReg m p off) ⟨q, fu, d⟩ = .next ⟨q, fu, r.1.answer (natLe 4 r.2.toNat)⟩ := by
  subst h
  rfl

/-- The same for the register of a unit that the part has. -/
theorem onFuses_readReg_of_pos {c : Prop} [Decidable c] (hc : c) {fu : Fuses} {d : Dev} {m : Master} {p off : Nat} {r : Dev × Word}
    (h : d.regRead fu m p off = r) (q : List Instr) :
    onFuses (if c then readReg m p off else noReg) ⟨q, fu, d⟩ = .next ⟨q, fu, r.1.answer (natLe 4 r.2.toNat)⟩ := by
  rw [if_pos hc, onFuses_readReg h]

/-! The SMBus target (R537). -/

section
variable {d : Dev} (hon : d.brd.phase ≠ .off)
include hon

theorem Dev.smbTake_of_good_pec (f : Dev → Dev) : d.smbTake true f = f (d.bump pgBrand 0 3) := by
  simp [Dev.smbTake, hon]

theorem Dev.smbTake_of_bad_pec (f : Dev → Dev) : d.smbTake false f = d.bump pgBrand 0 4 := by
  simp [Dev.smbTake, hon]

theorem smbReadByteOp_of_good_pec :
    smbReadByteOp true d = (d.bump pgBrand 0 3).smbGive (natLe 1 ((d.bump pgBrand 0 3).rg R.brdBootStat).toNat) :=
  Dev.smbTake_of_good_pec hon _

theorem smbReadByteOp_of_bad_pec : smbReadByteOp false d = d.bump pgBrand 0 4 := Dev.smbTake_of_bad_pec hon _

theorem smbRegReadOp_of_bad_pec (off : Nat) (fu : Fuses) : smbRegReadOp off false fu d = d.bump pgBrand 0 4 :=
  Dev.smbTake_of_bad_pec hon _

theorem smbRegWriteOp_of_bad_pec (off : Nat) (v : Word) (fu : Fuses) : smbRegWriteOp off v false fu d = d.bump pgBrand 0 4 :=
  Dev.smbTake_of_bad_pec hon _

theorem smbRegReadOp_of_lt {fu : Fuses} {off : Nat} (h : off % 2 ^ 32 < 0x50000) {r : Dev × List Byte}
    (hload : (d.bump pgBrand 0 3).regLoad fu .smbus (regBase + off % 2 ^ 32) 4 = r) : smbRegReadOp off true fu d = r.1.smbGive r.2 := by
  rw [smbRegReadOp, Dev.smbTake_of_good_pec hon, if_neg (Nat.not_le.2 h), hload]

theorem smbRegReadOp_of_le {off : Nat} (h : 0x50000 ≤ off % 2 ^ 32) (fu : Fuses) :
    smbRegReadOp off true fu d = ((d.bump pgBrand 0 3).bump pgBrand 0 5).smbGive (List.replicate 4 0) := by
  rw [smbRegReadOp, Dev.smbTake_of_good_pec hon, if_pos h]

theorem smbRegWriteOp_of_lt {off : Nat} (h : off % 2 ^ 32 < 0x50000) (v : Word) (fu : Fuses) :
    smbRegWriteOp off v true fu d = (d.bump pgBrand 0 3).regStore fu .smbus (regBase + off % 2 ^ 32) (natLe 4 v.toNat) := by
  rw [smbRegWriteOp, Dev.smbTake_of_good_pec hon, if_neg (Nat.not_le.2 h)]

theorem smbRegWriteOp_of_le {off : Nat} (h : 0x50000 ≤ off % 2 ^ 32) (v : Word) (fu : Fuses) :
    smbRegWriteOp off v true fu d = (d.bump pgBrand 0 3).bump pgBrand 0 5 := by
  rw [smbRegWriteOp, Dev.smbTake_of_good_pec hon, if_pos h]
end

/-- Settles O39: each register's page belongs to its unit, so the command is that register's read or write; an SMBus transaction is
counted by its PEC and then by its offset. -/
theorem readsWithEffects : Obligations.ReadsWithEffects := by
  intro q fu d m
  have ctx : d.pageUnit pgCtx = some (.ctxPool, 0) := rfl
  have lat : d.pageUnit pgLat = some (.latigo, 0) := rfl
  have ras : d.pageUnit pgRas = some (.ras, 0) := rfl
  have mgmt : d.pageUnit pgMgmt = some (.mgmt, 0) := rfl
  have pwr : d.pageUnit pgPwr = some (.pwr, 0) := rfl
  refine ⟨onFuses_readReg (Dev.regRead_ctxFree fu m ctx) q,
    fun k hk => onFuses_readReg_of_pos hk (Dev.regRead_kprWaitMax fu m (d.pageUnit_pgKpr hk)) q,
    onFuses_readReg (Dev.regRead_updEvt fu m ctx) q,
    fun e he => onFuses_readReg_of_pos (Nat.lt_of_lt_of_le he (engines_le d.part)) (Dev.regRead_skvEvt fu m (Dev.pageUnit_pgSkv he)) q,
    onFuses_readReg (Dev.regRead_latEvt fu m lat) q,
    onFuses_readReg (Dev.regRead_rasRec fu m ras) q,
    fun c hc => onFuses_readReg_of_pos hc (Dev.regRead_inboxLo fu m mgmt hc) q,
    ?inbox,
    fun i hi rein => onFuses_readReg_of_pos hi (Dev.regRead_reinVt fu m rein) q,
    onFuses_readReg (Dev.regRead_pwrTemp fu m pwr) q, fun hon => ?smbus⟩
  case inbox =>
    intro c v hc
    show execCcInboxHiWrite m c v _ = _
    refine onFuses_next ?_ q
    rw [if_pos hc, Dev.regWrite_inboxHi fu m mgmt hc]
  case smbus =>
    exact ⟨onDev_next (smbReadByteOp_of_good_pec hon) q fu, onDev_next (smbReadByteOp_of_bad_pec hon) q fu,
      fun off e b h hload => onFuses_next (smbRegReadOp_of_lt hon h hload) q,
      fun off v h => onFuses_next (smbRegWriteOp_of_lt hon h v fu) q,
      fun off h => onFuses_next (smbRegReadOp_of_le hon h fu) q,
      fun off v h => onFuses_next (smbRegWriteOp_of_le hon h v fu) q,
      fun off => onFuses_next (smbRegReadOp_of_bad_pec hon off fu) q,
      fun off v => onFuses_next (smbRegWriteOp_of_bad_pec hon off v fu) q⟩

end Sys2Proof.Machine
end

section
/-! PROOFS. Updates and visibility (06_updates_and_visibility.md): the order of epochs (R186), and snapshots (R191, R192). -/

namespace Sys2Proof.Machine
open Sys2Proof

/-! Serial numbers (R186): a is after b when it lies ahead of b by less than half the ring. -/

theorem serialAfter_iff {w a b : Nat} (hb : b < 2 ^ w) :
    serialAfter w a b = true ↔ (a + 2 ^ w - b) % 2 ^ w ≠ 0 ∧ (a + 2 ^ w - b) % 2 ^ w < 2 ^ (w - 1) := by
  simp only [serialAfter, Nat.mod_eq_of_lt hb, Bool.and_eq_true, decide_eq_true_eq, Nat.pos_iff_ne_zero]

section
variable {a b : Nat} (ha : a < 2 ^ 32) (hb : b < 2 ^ 32)
include ha

theorem eLt_iff : eLt a b = true ↔ (b + 2 ^ 32 - a) % 2 ^ 32 ≠ 0 ∧ (b + 2 ^ 32 - a) % 2 ^ 32 < 2 ^ 31 := serialAfter_iff ha

theorem eAge_of_lt : eAge a b = (b + 2 ^ 32 - a) % 2 ^ 32 := by
  rw [eAge, Nat.mod_eq_of_lt ha]

include hb

theorem eLe_iff : eLe a b = true ↔ a = b ∨ eLt a b = true := by
  rw [eLe, Nat.mod_eq_of_lt ha, Nat.mod_eq_of_lt hb, Bool.or_eq_true, beq_iff_eq]

/-- The two distances around the ring add up to its size, so at most one is less than half of it. -/
theorem not_eLt_and_eLt : ¬(eLt a b = true ∧ eLt b a = true) := by
  rw [eLt_iff ha, eLt_iff hb]
  omega

/-- Off the antipode one of the two distances is less than half the ring. -/
theorem eLt_or_eLt (hne : a ≠ b) (hhalf : (b + 2 ^ 32 - a) % 2 ^ 32 ≠ 2 ^ 31) : eLt a b = true ∨ eLt b a = true := by
  rw [eLt_iff ha, eLt_iff hb]
  omega
end

/-- Settles O13: the comparisons are those of the distance around the ring of 2^32. -/
theorem epochsCompareSerially : Obligations.EpochsCompareSerially :=
  fun _ _ ha hb => ⟨eLt_iff ha, eLe_iff ha hb, not_eLt_and_eLt ha hb, eAge_of_lt ha, eLt_or_eLt ha hb⟩

/-! SNAPSHOT_OPEN and SNAPSHOT_CLOSE (R191, R192). -/

section
variable {d d1 : Dev} {c : Nat} {x : Ctx}

theorem snapshotOpenOp_of_bound {img : List Byte} {slot : Nat × Nat} (hstart : d.canStart c 0x0B = true) (hx : d.ctx? c = some x)
    (hflags : x.cflagsOk = true) (hzero : x.zeroFrom 32 = true) (hadmit : d.admitOn x.coll = false)
    (hcoll : d.bindColl c x.coll false = (d1, .ok img slot)) : snapshotOpenOp c d = d1.snapTake c x := by
  simp only [snapshotOpenOp, hstart, hx, hflags, hzero, hadmit, hcoll, Bool.and_self, Bool.not_true, Bool.false_eq_true, if_false]

theorem Dev.snapTake_of_free {i p : Nat} (h : d.freeSnap = (some i, p)) {d2 : Dev}
    (hd : d2 = d.putSnap i { coll := x.coll, st := 1, fn := x.fn, epoch := d.lastSealed x.coll, pins := 0, gen := (d.snap i).gen }) :
    d.snapTake c x = ((({ d2 with upd := { d2.upd with snapPtr := p } } : Dev).fixPins x.coll).bump pgCtx 3 8).finishOk c 0
      (i + 4096 * (d.snap i).gen) (d.lastSealed x.coll) := by
  simp only [Dev.snapTake, h, hd]

theorem Dev.snapTake_of_full {p : Nat} (h : d.freeSnap = (none, p)) : d.snapTake c x = d.finishSt c .quota := by
  simp only [Dev.snapTake, h]

/-- A good command closes the snapshot that its handle names, or names none. -/
theorem snapshotCloseOp_of_fields (hstart : d.canStart c 0x0C = true) (hx : d.ctx? c = some x) (hflags : x.cflagsOk = true)
    (hzero : x.zeroFrom 32 = true) : snapshotCloseOp c d =
      if (d.snap x.snapIdx).st ≠ 1 ∨ (d.snap x.snapIdx).gen ≠ x.snapGen then d.finishSt c .snapshotExpired
      else (d.closeSnap x.snapIdx).finishOk c 0 0 0 := by
  simp only [snapshotCloseOp, hstart, hx, hflags, hzero, Bool.and_self, Bool.not_true, Bool.false_eq_true, if_false, Bool.or_eq_true,
    bne_iff_ne]
end

/-- Settles O27: an open takes what the arbiter of free entries answers; a close goes by the entry its handle names. -/
theorem snapshotsOpenAndClose : Obligations.SnapshotsOpenAndClose := by
  intro q fu d c x hc hx hflags hzero
  refine ⟨?opens, ?full, ?closes, ?expired⟩
  case opens =>
    rintro d1 d2 img slot i p g hstart hadmit hcoll hfree rfl hd
    have hbound := snapshotOpenOp_of_bound hstart hx hflags hzero hadmit hcoll
    exact onCtx_next hc (hbound.trans (Dev.snapTake_of_free hfree hd)) q fu
  case full =>
    intro d1 img slot p hstart hadmit hcoll hfull
    have hbound := snapshotOpenOp_of_bound hstart hx hflags hzero hadmit hcoll
    exact onCtx_next hc (hbound.trans (Dev.snapTake_of_full hfull)) q fu
  case closes =>
    intro hstart hst hgen
    have hnamed : ¬((d.snap x.snapIdx).st ≠ 1 ∨ (d.snap x.snapIdx).gen ≠ x.snapGen) := by simp [hst, hgen]
    exact onCtx_next hc ((snapshotCloseOp_of_fields hstart hx hflags hzero).trans (if_neg hnamed)) q fu
  case expired =>
    intro hstart hother
    exact onCtx_next hc ((snapshotCloseOp_of_fields hstart hx hflags hzero).trans (if_pos hother)) q fu

end Sys2Proof.Machine
end

section
/-! PROOFS. Updates and visibility (06_updates_and_visibility.md): seals (R195 to R199, R512). -/

namespace Sys2Proof.Machine
open Sys2Proof

/-! EPOCH_SEAL: a collection that follows no leader here has a seal due; one that does asks the leader. -/

section
variable {d d1 : Dev} {c : Nat} {x : Ctx} {img : List Byte} {slot : Nat × Nat} (hstart : d.canStart c 0x0A = true) (hx : d.ctx? c = some x)
  (hflags : x.cflagsOk = true) (hzero : x.zeroFrom 32 = true) (hcoll : d.bindColl c x.coll true = (d1, .ok img slot))
include hstart hx hflags hzero hcoll

theorem epochSealOp_of_not_follows (hleads : (d1.start c).follows img = false) :
    epochSealOp c d = (d1.start c).sealDue x.coll img (fun s => { s with cmds := s.cmds ++ [c] }) := by
  simp only [epochSealOp, hstart, hx, hflags, hzero, hcoll, hleads, Bool.and_self, Bool.not_true, Bool.false_eq_true, if_false]

theorem epochSealOp_of_follows (hfollows : (d1.start c).follows img = true) {l : Nat} (hl : (d1.start c).leaderOf img = some l) {d2 : Dev}
    (hsent : (d1.start c).sendSvc (.sealFwd c x.cinc) 5 l (d1.start c).curGen [x.coll, 1, (d1.start c).openEpoch x.coll]
      { fn := x.fn, owner := .command c x.cinc } = (d2, true)) :
    epochSealOp c d =
      { d2 with upd := { d2.upd with forwarded := Tab.set d2.upd.forwarded c (x.coll, (d1.start c).openEpoch x.coll) } } := by
  simp only [epochSealOp, hstart, hx, hflags, hzero, hcoll, hfollows, hl, hsent, Bool.and_self, Bool.not_true, Bool.false_eq_true, if_false,
    if_true]
end

/-! One seal of SEAL_CHECK. -/

section
variable {d : Dev} {c : Nat} {s : Seal} (hs : Tab.find? d.upd.seals c = some s)
include hs

theorem Dev.sealSteps_of_refused (h : s.refused = true ∨ d.sealPasses c = false) (n : Nat) (img : List Byte) :
    Dev.sealSteps (n + 1) d c img = d.sealRefuse c img := by
  have hrefused : (s.refused || !d.sealPasses c) = true := by simpa using h
  simp only [Dev.sealSteps, hs, hrefused, if_true]

theorem Dev.sealSteps_of_passes (hpasses : d.sealPasses c = true) (hasked : s.refused = false) (n : Nat) (img : List Byte) :
    Dev.sealSteps (n + 1) d c img = Dev.sealSteps n ((d.sealNow c).applyHeld c img) c img := by
  simp only [Dev.sealSteps, hs, hasked, hpasses, Bool.not_true, Bool.or_self, Bool.false_eq_true, if_false]
end

/-! The rows that only run while the device's update work does. -/

section
variable {d : Dev} {c : Nat} {img : List Byte} (hrun : d.updRuns = true)
include hrun

/-- SEAL_CHECK takes a seal of the open epoch, and one more for each epoch up to the one a message named (R199). -/
theorem sealCheckOp_of_named {s : Seal} (hs : Tab.find? d.upd.seals c = some s) {u : Nat} (hupto : s.upto = some u) :
    sealCheckOp c d = Dev.sealSteps (eAge (d.openEpoch c) u + 1) d c ((d.collImage c).getD []) := by
  simp only [sealCheckOp, hs, hrun, hupto, Bool.not_true, Bool.false_eq_true, if_false]

theorem sealCheckOp_of_passes {s : Seal} (hs : Tab.find? d.upd.seals c = some s) (hupto : s.upto = none) (hasked : s.refused = false)
    (hpasses : d.sealPasses c = true) : sealCheckOp c d = (d.sealNow c).applyHeld c ((d.collImage c).getD []) := by
  simp only [sealCheckOp, hs, hrun, hupto, Bool.not_true, Bool.false_eq_true, if_false]
  exact Dev.sealSteps_of_passes hs hpasses hasked 0 _

/-- However many epochs are due, the first refusal ends them. -/
theorem sealCheckOp_of_refused {s : Seal} (hs : Tab.find? d.upd.seals c = some s) (h : s.refused = true ∨ d.sealPasses c = false) :
    sealCheckOp c d = d.sealRefuse c ((d.collImage c).getD []) := by
  simp only [sealCheckOp, hs, hrun, Bool.not_true, Bool.false_eq_true, if_false]
  exact Dev.sealSteps_of_refused hs h _ _

variable (himg : d.collImage c = some img)
include himg

/-- SEAL_TIMER at the end of SEAL_PERIOD_US. -/
theorem sealTimerOp_of_passed (hst : cState img = 1) (hleads : d.follows img = false) (halone : d.partnerOf c = none)
    (hon : cSealUs img ≠ 0xFFFFFFFF) (hdirty : d.csFlag c 0 = true) (hidle : Tab.has d.upd.seals c = false)
    (hpassed : max (d.cs c 32 8) (Tab.getD d.upd.refusedAt c 0) + cSealUs img ≤ d.us) :
    sealTimerOp c d = d.sealDue c img (fun s => { s with timer := true }) := by
  simp only [sealTimerOp, hrun, himg, hst, hleads, halone, bne_iff_ne.2 hon, hdirty, hidle, hpassed, Option.isNone_none, beq_self_eq_true,
    decide_true, Bool.and_self, Bool.not_true, Bool.not_false, Bool.false_eq_true, if_false, if_true]

theorem sealForwardOp_of_leader (hsharded : cSharded img = true) (hleader : d.leaderOf img = some d.node) (hst : cState img ≠ 0) :
    sealForwardOp c d = d.sealDue c img id := by
  simp only [sealForwardOp, hrun, himg, hsharded, hleader, bne_iff_ne.2 hst, beq_self_eq_true, Bool.and_self, Bool.not_true,
    Bool.false_eq_true, if_false, if_true]

theorem sealRefusalOp_of_follows (hfollows : d.follows img = true) : sealRefusalOp c d = d.refuseFwd c := by
  simp only [sealRefusalOp, hrun, himg, hfollows, Bool.not_true, Bool.false_eq_true, if_false, if_true]

theorem sealRefusalOp_of_leader (hleads : d.follows img = false) {s : Seal} (hs : Tab.find? d.upd.seals c = some s)
    (hsharded : cSharded img = true) (hleader : d.leaderOf img = some d.node) :
    sealRefusalOp c d = { d with upd := { d.upd with seals := Tab.set d.upd.seals c { s with refused := true } } } := by
  simp only [sealRefusalOp, hrun, himg, hleads, hs, hsharded, hleader, beq_self_eq_true, Bool.and_self, Bool.not_true, Bool.false_eq_true,
    if_false, if_true]
end

/-! SEAL_MSG (R199, R512): who may send it, and what the epoch it names means here. -/

/-- A due seal reaches at least to epoch e. -/
def Seal.reaching (e : Nat) (s : Seal) : Seal :=
  { s with upto := some (match s.upto with
    | some u => serialMax 32 u e
    | none => e) }

/-- Node src may name the seals of collection c: the partner that feeds it, or else the leader it follows. -/
def Dev.SealsFrom (d : Dev) (c : Nat) (img : List Byte) (src : Nat) : Prop :=
  d.partnerOf c = some src ∨ (d.partnerOf c = none ∧ d.follows img = true ∧ d.leaderOf img = some src)

section
variable {d : Dev} {src coll e c : Nat} {img : List Byte} (hc : c = (if d.cmp.st == .joining then (d.joinColl src coll).getD coll else coll))
  (hrun : d.updRuns = true) (himg : d.collImage c = some img) (hsrc : d.SealsFrom c img src)
include hc hrun himg hsrc

/-- From such a node, an epoch that is still to seal makes seals due, and one that has sealed is told to those that asked for it. -/
theorem sealMsgOp_of_sealsFrom : sealMsgOp src coll e d =
    if (cState img != 0 && eLe ((d.admitSeal src c e).openEpoch c) e) = true then (d.admitSeal src c e).sealDue c img (Seal.reaching e)
    else if eLt e ((d.admitSeal src c e).openEpoch c) = true then (d.admitSeal src c e).sealedFwd c e (fun _ => true)
    else d.admitSeal src c e := by
  obtain hpartner | ⟨halone, hfollows, hleader⟩ := hsrc
  · simp only [sealMsgOp, ← hc, hrun, himg, hpartner, beq_self_eq_true, Bool.true_and, Bool.not_true, Bool.false_eq_true, if_false]
    rfl
  · simp only [sealMsgOp, ← hc, hrun, himg, halone, hfollows, hleader, beq_self_eq_true, Bool.true_and, Bool.not_true, Bool.false_eq_true,
      if_false]
    rfl

theorem sealMsgOp_of_open (hst : cState img ≠ 0) (hopen : eLe ((d.admitSeal src c e).openEpoch c) e = true) :
    sealMsgOp src coll e d = (d.admitSeal src c e).sealDue c img (Seal.reaching e) :=
  (sealMsgOp_of_sealsFrom hc hrun himg hsrc).trans (if_pos (by rw [bne_iff_ne.2 hst, hopen, Bool.and_self]))

theorem sealMsgOp_of_sealed (hsealed : eLe ((d.admitSeal src c e).openEpoch c) e = false)
    (hpast : eLt e ((d.admitSeal src c e).openEpoch c) = true) :
    sealMsgOp src coll e d = (d.admitSeal src c e).sealedFwd c e (fun _ => true) := by
  have hnotDue : ¬(cState img != 0 && eLe ((d.admitSeal src c e).openEpoch c) e) = true := by simp [hsealed]
  exact (sealMsgOp_of_sealsFrom hc hrun himg hsrc).trans ((if_neg hnotDue).trans (if_pos hpast))
end

/-- Settles O28: each row's branch, and SEAL_CHECK's first step. -/
theorem sealsFallDueAndSeal : Obligations.SealsFallDueAndSeal := by
  intro q fu d c img hc
  refine ⟨?leads, ?follows, ?timer, fun s hrun hs => ⟨?passes, ?named, ?refuses⟩, ?message, ?lateMessage, ?forward, ?refusedHere,
    ?refusedLeader⟩
  case leads =>
    intro x d1 slot hstart hx hflags hzero hcoll hleads
    exact onCtx_next hc (epochSealOp_of_not_follows hstart hx hflags hzero hcoll hleads) q fu
  case follows =>
    rintro x d1 d2 slot l e hstart hx hflags hzero hcoll hfollows hl rfl hsent
    exact onCtx_next hc (epochSealOp_of_follows hstart hx hflags hzero hcoll hfollows hl hsent) q fu
  case timer =>
    intro hrun himg hst hleads halone hon hdirty hidle hpassed
    exact onNumbered_next hc (sealTimerOp_of_passed hrun himg hst hleads halone hon hdirty hidle hpassed) q fu
  case passes =>
    exact fun hasked hpasses hupto => onNumbered_next hc (sealCheckOp_of_passes hrun hs hupto hasked hpasses) q fu
  case named => exact fun u hupto => onNumbered_next hc (sealCheckOp_of_named hrun hs hupto) q fu
  case refuses => exact fun h => onNumbered_next hc (sealCheckOp_of_refused hrun hs h) q fu
  case message =>
    intro src coll e hcoll hhere hrun himg hsrc hst hopen
    exact onNumbered_next hcoll (sealMsgOp_of_open hhere hrun himg hsrc hst hopen) q fu
  case lateMessage =>
    intro src coll e hcoll hhere hrun himg hsrc hsealed hpast
    exact onNumbered_next hcoll (sealMsgOp_of_sealed hhere hrun himg hsrc hsealed hpast) q fu
  case forward =>
    exact fun hrun himg hsharded hleader hst => onNumbered_next hc (sealForwardOp_of_leader hrun himg hsharded hleader hst) q fu
  case refusedHere => exact fun hrun himg hfollows => onNumbered_next hc (sealRefusalOp_of_follows hrun himg hfollows) q fu
  case refusedLeader =>
    intro s hrun himg hleads hs hsharded hleader
    exact onNumbered_next hc (sealRefusalOp_of_leader hrun himg hleads hs hsharded hleader) q fu

end Sys2Proof.Machine
end

section
/-! PROOFS. Updates and visibility (06_updates_and_visibility.md): batches and forwarded records (R200 to R209, R512). -/

namespace Sys2Proof.Machine
open Sys2Proof

/-! UPSERT_BATCH and DELETE_BATCH: the two rows of one operation. -/

theorem batchOp_of_begun {d : Dev} {c : Nat} (h : Tab.has d.upd.batches c = true) (upsert : Bool) : batchOp upsert c d = d.batchTry c :=
  if_pos h

section
variable {d : Dev} {c : Nat} {x : Ctx} {upsert : Bool} (hnew : Tab.has d.upd.batches c = false)
  (hstart : d.canStart c (if upsert then 0x08 else 0x09) = true) (hx : d.ctx? c = some x) (hfields : d.batchFieldsOk x = true)
  (hfence : d.isFenced = false)
include hnew hstart hx hfields hfence

theorem batchOp_of_seal_due (hseal : Tab.has d.upd.seals x.coll = true) : batchOp upsert c d = d.holdBatch c := by
  simp only [batchOp, hnew, hstart, hx, hfields, hfence, hseal, Bool.not_true, Bool.false_eq_true, if_false, if_true]

/-- While no seal is due the header is read and checked, and then the records are read. -/
theorem batchOp_of_records (hseal : Tab.has d.upd.seals x.coll = false) {d1 d2 : Dev} {h b : List Byte}
    (hhead : (d.unholdBatch c).need c x.desc 64 = (d1, .ok h)) (hhdr : batchHdrOk x upsert h = true)
    (hrecs : d1.need c (x.desc + 64) (leAt h 4 4 * leAt h 8 4) = (d2, .ok b)) : batchOp upsert c d = d2.batchStart c x upsert h b := by
  simp only [batchOp, hnew, hstart, hx, hfields, hfence, hseal, hhead, hhdr, hrecs, GotV.after_ok, Bool.not_true, Bool.false_eq_true,
    if_false]
end

/-! UPDATE_FWD: a record waits for the table unit, or is applied or refused at once. -/

theorem updateFwdOp_of_busy {d : Dev} (h : d.tblBusy = true) (src g : Nat) (u : FwdUpdate) :
    updateFwdOp src g u d = { d with upd := { d.upd with fwdWait := d.upd.fwdWait ++ [(src, g, u)] } } := by
  simp only [updateFwdOp, h, Bool.true_or, if_true]

theorem updateFwdOp_of_free {d : Dev} (hidle : d.tblBusy = false) (hfirst : d.upd.fwdWait = []) (src g : Nat) (u : FwdUpdate) :
    updateFwdOp src g u d = d.fwdApply src g u := by
  simp only [updateFwdOp, hidle, hfirst, List.isEmpty_nil, Bool.not_true, Bool.or_self, Bool.false_eq_true, if_false]

/-- This node or the sender is fenced, or the sender is no member (R500, R506). -/
theorem Dev.fwdApply_of_fenced {d : Dev} {src : Nat} (h : d.isFenced = true ∨ (d.admEntry src).1 = 0 ∨ (d.admEntry src).1 = 3) (g : Nat)
    (u : FwdUpdate) : d.fwdApply src g u = d.updReply src u.ref .fenced 0 := by
  have hrefused : (d.isFenced || decide ((d.admEntry src).1 = 0) || decide ((d.admEntry src).1 = 3)) = true := by simpa [or_assoc] using h
  simp only [Dev.fwdApply, hrefused, if_true]

section
variable {d : Dev} {src g : Nat} {u : FwdUpdate} (hfence : d.isFenced = false) (hmember : (d.admEntry src).1 ≠ 0)
  (hlive : (d.admEntry src).1 ≠ 3)
include hfence hmember hlive

theorem Dev.fwdApply_of_epoch {e : Nat} (he : u.epoch = some e) : d.fwdApply src g u = d.partnerRec src u e := by
  simp only [Dev.fwdApply, hfence, hmember, hlive, he, decide_false, Bool.or_self, Bool.false_eq_true, if_false]

/-- The owner of the item applies the record, and owes the sender its answer until the epoch seals (R209). -/
theorem Dev.fwdApply_of_owner {img : List Byte} (himg : d.collImage u.coll = some img) (he : u.epoch = none) (hgen : d.genLive g = true)
    (howner : d.ownerNode img g u.id = some d.node) (hst : cState img = 1) {d1 : Dev}
    (happlied : (d.bump pgBuckle 2 2).applyFrom img (d.openEpoch u.coll) u = (d1, .ok)) :
    d.fwdApply src g u = ({ d1 with upd := { d1.upd with
      fwd := d1.upd.fwd ++ [{ coll := u.coll, id := u.id, epoch := d.openEpoch u.coll, node := src, ref := u.ref }] } } : Dev).bump pgCtx 3 5 := by
  simp only [Dev.fwdApply, hfence, hmember, hlive, he, himg, hgen, howner, hst, happlied, decide_false, bne_self_eq_false, Bool.not_true,
    Bool.or_self, Bool.false_eq_true, if_false]
end

/-- Settles O29: the branches of the batches' shared operation, of a forwarded record and of its reply. -/
theorem batchesAndForwardedRecords : Obligations.BatchesAndForwardedRecords := by
  intro q fu d c hc
  refine ⟨?upserts, ?deletes, ?held, ?begun, ?owner, ?partner, ?busy, ?fenced, fun src r hsrc => onNumbered_next hsrc rfl q fu⟩
  case upserts =>
    intro x d1 d2 h b hnew hstart hx hfields hfence hseal hhead hhdr hrecs
    exact onCtx_next hc (batchOp_of_records (upsert := true) hnew hstart hx hfields hfence hseal hhead hhdr hrecs) q fu
  case deletes =>
    intro x d1 d2 h b hnew hstart hx hfields hfence hseal hhead hhdr hrecs
    exact onCtx_next hc (batchOp_of_records (upsert := false) hnew hstart hx hfields hfence hseal hhead hhdr hrecs) q fu
  case held =>
    intro x hnew hx hfields hfence hseal
    exact ⟨fun hstart => onCtx_next hc (batchOp_of_seal_due (upsert := true) hnew hstart hx hfields hfence hseal) q fu,
      fun hstart => onCtx_next hc (batchOp_of_seal_due (upsert := false) hnew hstart hx hfields hfence hseal) q fu⟩
  case begun => exact fun h => ⟨onCtx_next hc (batchOp_of_begun h true) q fu, onCtx_next hc (batchOp_of_begun h false) q fu⟩
  case owner =>
    intro src g u img d1 hsrc hidle hfirst hfence hmember hlive himg he hgen howner hst happlied
    have hnow := updateFwdOp_of_free hidle hfirst src g u
    exact onNumbered_next hsrc (hnow.trans (Dev.fwdApply_of_owner hfence hmember hlive himg he hgen howner hst happlied)) q fu
  case partner =>
    intro src g u e hsrc hidle hfirst hfence hmember hlive he
    have hnow := updateFwdOp_of_free hidle hfirst src g u
    exact onNumbered_next hsrc (hnow.trans (Dev.fwdApply_of_epoch hfence hmember hlive he)) q fu
  case busy => exact fun src g u hsrc hbusy => onNumbered_next hsrc (updateFwdOp_of_busy hbusy src g u) q fu
  case fenced =>
    intro src g u hsrc hidle hfirst hfenced
    exact onNumbered_next hsrc ((updateFwdOp_of_free hidle hfirst src g u).trans (Dev.fwdApply_of_fenced hfenced g u)) q fu

end Sys2Proof.Machine
end

section
/-! PROOFS. Updates and visibility (06_updates_and_visibility.md): rebuilds and the age sweep (R214, R215, R218). -/

namespace Sys2Proof.Machine
open Sys2Proof

theorem rebuildListOp_of_list {d d1 : Dev} {c : Nat} {x : Ctx} {img : List Byte} {slot : Nat × Nat} (hstart : d.canStart c 0x12 = true)
    (hx : d.ctx? c = some x) (hflags : x.cflagsOk = true) (hflag : x.n 36 4 < 2) (hzero : x.zeroFrom 40 = true)
    (hcoll : d.bindColl c x.coll true = (d1, .ok img slot)) (hlist : x.n 32 4 < cLists img) :
    rebuildListOp c d = (d1.start c).rebuildBy c x img (x.n 32 4) (x.n 36 4 == 1) := by
  simp only [rebuildListOp, hstart, hx, hflags, hflag, hzero, hcoll, Nat.not_le.2 hlist, decide_true, Bool.and_self, Bool.not_true,
    Bool.false_eq_true, if_false]

/-- A rebuild that has not published goes on: the new objects first (R215 steps 2 to 4), then the publish (steps 5 and 6). -/
theorem rebuildPublishOp_of_running {d : Dev} {c l : Nat} {r : Rebuild} (hr : Tab.find? d.upd.rebuilds (listKey c l) = some r)
    (hrun : d.updRuns = true) (hpub : r.published = none) :
    rebuildPublishOp c l d = if r.newEntry = [] then d.rebuildBuild r else d.rebuildPublish r := by
  simp only [rebuildPublishOp, hr, hrun, hpub, Option.isSome_none, List.isEmpty_iff, Bool.not_true, Bool.or_self, Bool.false_eq_true,
    if_false]

/-- No list is reported when the oldest epoch of each is at most 2^29 epochs old (R218). -/
theorem agedLists_eq_nil {olds : List (Nat × Nat)} {now : Nat} (h : ∀ o ∈ olds, eAge o.2 now ≤ 2 ^ 29) :
    olds.filter (fun o => decide (2 ^ 29 < eAge o.2 now)) = [] :=
  List.filter_eq_nil_iff.2 fun o ho => by simpa using h o ho

/-- A sweep with nothing to report stores the oldest epoch, counts, and forgets the reports of the pass before (R218). -/
theorem ageSweepOp_of_young {d d1 : Dev} {c k : Nat} {img : List Byte} {s : TSlot} {olds : List (Nat × Nat)} (hrun : d.updRuns = true)
    (himg : d.collImage c = some img) (hdir : (d.tdesc (cDirTbl img)).current = some (k, s)) (hst : cState img = 1)
    (hdue : Tab.getD d.upd.sweptAt c 0 + 1000 * cSweepMs img ≤ d.us)
    (holds : olds = (List.range (cLists img)).map (fun l => (l, d.listOldest img s.base (d.lastSealed c) l)))
    (hd : d1 = (d.setCs c 12 4 ((olds.map Prod.snd).foldl eMin (d.lastSealed c))).bump pgCtx 3 13)
    (hyoung : ∀ o ∈ olds,
      eAge o.2 (({ d1 with upd := { d1.upd with sweptAt := Tab.set d1.upd.sweptAt c d1.us } } : Dev).openEpoch c) ≤ 2 ^ 29) :
    ageSweepOp c d = { d1 with upd := { d1.upd with
      sweptAt := Tab.set d1.upd.sweptAt c d1.us, aged := d1.upd.aged.filter (fun k => k / 2 ^ 24 != c) } } := by
  simp only [ageSweepOp, hrun, himg, hdir, hst, hdue, ← holds, ← hd, agedLists_eq_nil hyoung, List.foldl_nil, beq_self_eq_true, decide_true,
    Bool.and_self, Bool.not_true, Bool.false_eq_true, if_false, if_true]

/-- Settles O30: the branch of each row that does its work. -/
theorem rebuildsAndAgeSweeps : Obligations.RebuildsAndAgeSweeps := by
  intro q fu d c hc
  refine ⟨?list, fun l r hl hr hrun hpub => ⟨?objects, ?publish⟩, ?sweep⟩
  case list =>
    intro x d1 img slot hstart hx hflags hflag hzero hcoll hlist
    exact onCtx_next hc (rebuildListOp_of_list hstart hx hflags hflag hzero hcoll hlist) q fu
  case objects => exact fun h => onPair_next hc hl ((rebuildPublishOp_of_running hr hrun hpub).trans (if_pos h)) q fu
  case publish => exact fun h => onPair_next hc hl ((rebuildPublishOp_of_running hr hrun hpub).trans (if_neg h)) q fu
  case sweep =>
    intro img k s olds d1 hrun himg hdir hst hdue holds hd hyoung
    exact onNumbered_next hc (ageSweepOp_of_young hrun himg hdir hst hdue holds hd hyoung) q fu

end Sys2Proof.Machine
end

section
/-! PROOFS. Engines and arithmetic (07_engines_and_arithmetic.md): tile instructions, tokens and the array's wake (R225 to R233, R239 to R248,
R259 to R273, R574). -/

namespace Sys2Proof.Machine
open Sys2Proof

/-! CTRL and SCALAR (R241, R244, R248). -/

/-- The engine has ended: it counts so at every barrier of its core, and a barrier of its group g may open by it (R241). -/
def Dev.endAtBars (d : Dev) (e g : Nat) : Dev :=
  (List.range 8).foldl (fun f b =>
    (f.setBar (d.engCore e) b { f.bar (d.engCore e) b with ended := (f.bar (d.engCore e) b).ended ||| 2 ^ f.engPos e }).barCheck g b) d

section
variable {d : Dev} {e : Nat} {x : Engine} {w : BitVec 128} (hi : d.issue e = some (x, w))
include hi

theorem engNopOp_of_nop (hw : iNop w = true) : engNopOp e d = d.retire e 1 := by
  simp only [engNopOp, hi, hw, if_true]

section
variable (hw : iEnd w = true)
include hw

theorem engEndOp_of_free (htokens : x.tokens.isEmpty = true) (hpend : x.pend.isEmpty = true) :
    engEndOp e d = (d.retire e 1 (fun y => { y with ended := true, idleFrom := d.aclk })).endAtBars e x.group := by
  simp only [engEndOp, hi, hw, htokens, hpend, Bool.not_true, Bool.or_self, Bool.false_eq_true, if_false]
  rfl

theorem engEndOp_of_busy (h : x.tokens.isEmpty = false ∨ x.pend.isEmpty = false) : engEndOp e d = d.stall e := by
  have hbusy : (!x.tokens.isEmpty || !x.pend.isEmpty) = true := by
    rcases h with h | h
    · rw [h, Bool.not_false, Bool.true_or]
    · rw [h, Bool.not_false, Bool.or_true]
  simp only [engEndOp, hi, hw, hbusy, Bool.not_true, Bool.false_eq_true, if_false, if_true]
end

section
variable (hw : iLoop w = true)
include hw

theorem engLoopOp_of_no_body (h : ifl w 63 48 = 0) : engLoopOp e d = d.retire e 1 := by
  simp only [engLoopOp, hi, hw, h, Bool.not_true, Bool.false_eq_true, if_false, if_true]

theorem engLoopOp_of_body (h : ifl w 63 48 ≠ 0) {f : LoopFrame}
    (hf : f = { first := x.pc + 1, len := ifl w 63 48, left := ifl w 47 32 - 1 }) :
    engLoopOp e d = (d.updEngine e (fun y =>
      { y with loops := f :: y.loops, pc := y.pc + 1, stalled := false, retired := y.retired + 1 })).bump (pgEng e) 0 2 := by
  simp only [engLoopOp, hi, hw, h, hf, Bool.not_true, Bool.false_eq_true, if_false]
end

theorem engScalarOp_of_index {i : Nat} (hclass : iClass w = 1) (hop : opIndex w = some i) :
    engScalarOp e d = d.retire e 1 (fun y =>
      y.setX (ifl w 36 32) (scalarOp i (x.xr (ifl w 41 37)) (x.xr (ifl w 46 42)) (w32 (ifl w 95 64)))) := by
  simp only [engScalarOp, hi, hclass, hop, bne_self_eq_false, Bool.false_eq_true, if_false]

/-! SYNC (R239 to R241, R246, R247): an instruction that need not wait retires, another stalls the engine. -/

/-- An arrival is recorded once the engine's earlier writes are visible (log entry 16). -/
theorem engBarArriveOp_eq (hw : isOp w 7 0 = true) :
    engBarArriveOp e d = if d.quiet x = true then (d.arrive e x.group (ifl w 35 32)).retire e 1 else d.stall e := by
  simp only [engBarArriveOp, hi, hw, Bool.not_true, Bool.false_eq_true, if_false]
  cases d.quiet x <;> rfl

theorem engBarWaitOp_eq (hw : isOp w 7 1 = true) :
    engBarWaitOp e d = if d.barWaits e (ifl w 35 32) = true then d.stall e else d.retire e 1 := by
  simp only [engBarWaitOp, hi, hw, Bool.not_true, Bool.false_eq_true, if_false]

section
variable (hw : isOp w 7 2 = true)
include hw

/-- Its arrival recorded, a BAR_SYNC only waits. -/
theorem engBarSyncOp_of_syncing (hs : x.syncing = true) :
    engBarSyncOp e d = if d.barWaits e (ifl w 35 32) = true then d.stall e else d.retire e 1 := by
  simp only [engBarSyncOp, hi, hw, hs, Bool.not_true, Bool.false_eq_true, if_false, if_true]

variable (hs : x.syncing = false)
include hs

theorem engBarSyncOp_of_quiet (hquiet : d.quiet x = true) {d2 : Dev} (hd : d2 = d.arrive e x.group (ifl w 35 32)) :
    engBarSyncOp e d =
      if d2.barWaits e (ifl w 35 32) = true then (d2.updEngine e (fun y => { y with syncing := true })).stall e else d2.retire e 1 := by
  simp only [engBarSyncOp, hi, hw, hs, hquiet, hd, Bool.not_true, Bool.false_eq_true, if_false]

theorem engBarSyncOp_of_not_quiet (hquiet : d.quiet x = false) : engBarSyncOp e d = d.stall e := by
  simp only [engBarSyncOp, hi, hw, hs, hquiet, Bool.not_true, Bool.not_false, Bool.false_eq_true, if_false, if_true]
end

theorem engWaitOp_eq (hw : isOp w 7 3 = true) :
    engWaitOp e d = if x.tokens.any (fun t => (ifl w 47 32).testBit t) = true then d.stall e else d.retire e 1 := by
  simp only [engWaitOp, hi, hw, Bool.not_true, Bool.false_eq_true, if_false]

theorem engFenceOp_eq (hw : isOp w 7 4 = true) : engFenceOp e d = if d.quiet x = true then d.retire e 1 else d.stall e := by
  simp only [engFenceOp, hi, hw, Bool.not_true, Bool.false_eq_true, if_false]
  cases d.quiet x <;> rfl
end

/-- Settles O34: what each row does with a word of its own. -/
theorem engineControlInstructions : Obligations.EngineControlInstructions := by
  intro q fu d e x w he hi
  refine ⟨?nop, ?ends, ?endStalls, ?emptyLoop, ?loop, ?scalar, ?arrives, ?arriveStalls, ?barWait, ?sync, ?syncing, ?syncStalls, ?wait, ?fence⟩
  case nop => exact fun hw => onEngine_next he (engNopOp_of_nop hi hw) q fu
  case ends => exact fun hw htokens hpend => onEngine_next he (engEndOp_of_free hi hw htokens hpend) q fu
  case endStalls => exact fun hw h => onEngine_next he (engEndOp_of_busy hi hw h) q fu
  case emptyLoop => exact fun hw h => onEngine_next he (engLoopOp_of_no_body hi hw h) q fu
  case loop => exact fun f hw h hf => onEngine_next he (engLoopOp_of_body hi hw h hf) q fu
  case scalar => exact fun i hclass hop => onEngine_next he (engScalarOp_of_index hi hclass hop) q fu
  case arrives => exact fun hw hquiet => onEngine_next he ((engBarArriveOp_eq hi hw).trans (if_pos hquiet)) q fu
  case arriveStalls =>
    exact fun hw hquiet => onEngine_next he ((engBarArriveOp_eq hi hw).trans (if_neg (ne_true_of_eq_false hquiet))) q fu
  case barWait => exact fun hw => onEngine_next he (engBarWaitOp_eq hi hw) q fu
  case sync => exact fun d2 hw hs hquiet hd => onEngine_next he (engBarSyncOp_of_quiet hi hw hs hquiet hd) q fu
  case syncing => exact fun hw hs => onEngine_next he (engBarSyncOp_of_syncing hi hw hs) q fu
  case syncStalls => exact fun hw hs hquiet => onEngine_next he (engBarSyncOp_of_not_quiet hi hw hs hquiet) q fu
  case wait => exact fun hw => onEngine_next he (engWaitOp_eq hi hw) q fu
  case fence => exact fun hw => onEngine_next he (engFenceOp_eq hi hw) q fu

/-! Asynchronous classes (log entries 5 and 31) and VEC (R225, R227, R233, R246, R259, R270 to R273). -/

/-- An instruction waits while its token is busy. -/
theorem Dev.issueAsync_of_token_busy {x : Engine} {p : Pend} (htoken : iTokEn p.w = true) (hbusy : x.tokens.contains (iToken p.w) = true)
    (d : Dev) (e slots : Nat) : d.issueAsync e slots x p = d.stall e := by
  simp only [Dev.issueAsync, htoken, hbusy, Bool.and_self, Bool.true_or, if_true]

section
variable {d : Dev} {e : Nat} {x : Engine} {w : BitVec 128} (hi : d.issue e = some (x, w))
include hi

theorem engDmaOp_of_class (hclass : iClass w = 2) (len count ss ds : Nat) :
    engDmaOp e len count ss ds d = d.issueAsync e 2 x
      { w := w, src := ifl w 95 64 + (x.xr (ifl w 43 39)).toNat, dst := ifl w 127 96 + (x.xr (ifl w 48 44)).toNat,
        len := len, count := count, srcStride := ss, dstStride := ds } := by
  simp only [engDmaOp, hi, hclass, bne_self_eq_false, Bool.false_eq_true, if_false]

/-- The rows of one slot share one operation; `is` tells their words. -/
theorem Dev.asyncOne_of_issue {is : BitVec 128 → Bool} (hw : is w = true) : d.asyncOne e is = d.issueAsync e 1 x { w := w } := by
  simp only [Dev.asyncOne, hi, hw, if_true]

theorem engVecOp_of_index {i : Nat} (hclass : iClass w = 5) (hop : opIndex w = some i) : engVecOp e d = d.vecDo e x w i := by
  simp only [engVecOp, hi, hclass, hop, bne_self_eq_false, Bool.false_eq_true, if_false]
end

/-! Tokens and the array's wake (R246, R574). -/

theorem tokenRetireOp_of_complete {d : Dev} {e t : Nat} (h : ((d.drive e).engine e).pend.any (fun p => p.tok == some t) = false) :
    tokenRetireOp e t d = (d.drive e).updEngine e (fun y => { y with tokens := delNat y.tokens t }) := by
  simp only [tokenRetireOp, h, Bool.false_eq_true, if_false]

theorem engineWakeOp_of_room {d : Dev} {e : Nat} (hgated : (d.engine e).gated = true)
    (hneeded : (d.engine e).pend.any (fun p => unitOf p.w == 4) = true) (hroom : d.wakeRoom = true) :
    engineWakeOp e d = d.updEngine e (fun y => { y with gated := false, awakeAt := d.now + usCycles 2 }) := by
  simp only [engineWakeOp, hgated, hneeded, hroom, Bool.and_self, if_true]

/-- A row of an engine and one of its sixteen tokens. -/
theorem onToken_next {d d1 : Dev} {e t : Nat} (he : e < d.part.engines) (ht : t < 16) {f : Dev → Dev} (h : f d = d1) (q : List Instr)
    (fu : Fuses) : onUnit (fun d => hasEng e d && decide (t < 16)) f ⟨q, fu, d⟩ = .next ⟨q, fu, d1⟩ :=
  onUnit_next (has := fun d => hasEng e d && decide (t < 16)) (by simp only [hasEng, he, ht, decide_true, Bool.and_self]) h q fu

/-- Settles O35: each class goes to its unit; then tokens and the wake. -/
theorem engineUnitInstructions : Obligations.EngineUnitInstructions := by
  intro q fu d e he
  refine ⟨fun x w hi => ⟨?dma, fun slots p htoken hbusy => Dev.issueAsync_of_token_busy htoken hbusy d e slots, ?wload, ?mma, ?qrow, ?step,
    ?merge, ?save, ?load, ?vec⟩, ?token, ?wake⟩
  case dma => exact fun len count ss ds hclass => onEngine_next he (engDmaOp_of_class hi hclass len count ss ds) q fu
  case wload => exact fun hclass => onEngine_next he (Dev.asyncOne_of_issue hi (is := fun w => iClass w == 3) (beq_iff_eq.2 hclass)) q fu
  case mma => exact fun hclass => onEngine_next he (Dev.asyncOne_of_issue hi (is := fun w => iClass w == 4) (beq_iff_eq.2 hclass)) q fu
  case qrow | step | merge | save | load => exact fun hw => onEngine_next he (Dev.asyncOne_of_issue hi hw) q fu
  case vec => exact fun i hclass hop => onEngine_next he (engVecOp_of_index hi hclass hop) q fu
  case token => exact fun t ht h => onToken_next he ht (tokenRetireOp_of_complete h) q fu
  case wake => exact fun hgated hneeded hroom => onEngine_next he (engineWakeOp_of_room hgated hneeded hroom) q fu

end Sys2Proof.Machine
end

section
/-! PROOFS. Engines and arithmetic (07_engines_and_arithmetic.md): groups of engines (R249 to R252, R280). -/

namespace Sys2Proof.Machine
open Sys2Proof

/-- A RUN_PROGRAM that passes the checks of R250 starts and adds its group (R251). -/
theorem runProgramOp_of_image {d d1 d2 : Dev} {c core : Nat} {x : Ctx} {img : List Byte} (hstart : d.canStart c 0x1A = true)
    (hx : d.ctx? c = some x) (hargs : d.runArgsOk x = true) (hcore : d.runCore x = some core)
    (hneed : d.need c x.desc x.descLen = (d1, .ok img)) (himg : d1.runImgOk x core img = true)
    (hd : d2 = (if (x.n 32 1).testBit 3 then ((d1.start c).setDeadline c (x.n 36 4)).gaveCore core
      else (d1.start c).setDeadline c (x.n 36 4))) :
    runProgramOp c d = (d2.addGroup
      { ctx := c, cinc := x.cinc, core := core, mask := x.n 33 1, image := img, wins := runWins x img }).1.coreReserve core := by
  simp only [runProgramOp, hstart, hx, hargs, hcore, hneed, GotV.after_ok, himg, hd, Bool.not_true, Bool.false_eq_true, if_false]

/-- An idle engine goes to the group that the pointer of its core picks. -/
theorem Dev.engReserve_of_pick {d d1 : Dev} {e g ptr : Nat} {x y : Group} (hidle : d.engIdle e = true) (hg : d.group? g = some x)
    (hpick : d.groupPick (d.eng.groups.filter (fun z => z.2.core == d.engCore e && z.2.wants (d.engPos e)))
      (Tab.getD d.eng.grantPtr (d.engCore e) 0) = (some g, ptr))
    (hy : y = { x with reserved := x.reserved ||| 2 ^ d.engPos e, mask := x.mask ||| 2 ^ d.engPos e })
    (hd : d1 = (d.setGroup g y).updEngine e (fun n => { n with owner := .reserved, ctx := x.ctx, group := g, gated := d.gateShut e n }))
    {d2 d3 : Dev} (hd2 : d2 = { d1 with eng := { d1.eng with grantPtr := Tab.set d1.eng.grantPtr (d.engCore e) ptr } })
    (hd3 : d3 = if y.run = 0 then d2.bump (pgCore (d.engCore e)) 0 2 else d2) :
    d.engReserve e = if y.full && y.run = 0 then d3.groupStart g false else d3 := by
  subst hy hd hd2 hd3
  simp only [Dev.engReserve, hidle, hpick, hg, Bool.not_true, Bool.false_eq_true, if_false]

/-- A RUN_PROGRAM group whose engines have all ended gives its command its record (R252). -/
theorem groupEndOp_of_ended {d : Dev} {g : Nat} {x : Group} {c : Ctx} {es : List Engine} (hg : d.group? g = some x) (hrun : x.run = 0)
    (hrunning : x.running = true) (hes : es = (d.groupEngs x).map d.engine) (hended : es.all (fun y => y.ended) = true)
    (hc : d.ctx? x.ctx = some c) :
    groupEndOp g d = (d.finishOk x.ctx ((es.map (fun (y : Engine) => y.retired)).foldl (· + ·) 0)
      (sat 32 x.clks + sat 32 ((es.map (fun (y : Engine) => y.nans)).foldl (· + ·) 0) * 2 ^ 32) (d.sinceFetch c)).dropGroup g := by
  subst hes
  simp only [groupEndOp, hg, hrun, hrunning, hended, hc, decide_true, Bool.and_self, if_true]

/-- Settles O36: the branch of each row that does its work. -/
theorem groupsStartAndEnd : Obligations.GroupsStartAndEnd := by
  intro q fu d
  refine ⟨?run, ?reserve, ?ends⟩
  case run =>
    intro c x core d1 d2 img hc hstart hx hargs hcore hneed himg hd
    exact onCtx_next hc (runProgramOp_of_image hstart hx hargs hcore hneed himg hd) q fu
  case reserve =>
    intro e g ptr x y d1 he hidle hg hpick hy hd
    exact onEngine_next he (Dev.engReserve_of_pick hidle hg hpick hy hd rfl rfl) q fu
  case ends =>
    intro g x c es hg hrun hrunning hes hended hc
    exact onDev_next (groupEndOp_of_ended hg hrun hrunning hes hended hc) q fu

end Sys2Proof.Machine
end

section
/-! PROOFS. Clocks and power (19_clocks_power_energy.md): gating, the ramp governor, the power and current limits and adaptive voltage (R256,
R567, R571, R573, R576, R577). -/

namespace Sys2Proof.Machine
open Sys2Proof

/-- A periodic check of a live device runs once its time has come. -/
theorem Dev.not_early_of_due {d : Dev} {t : Nat} (halive : d.alive = true) (hdue : t ≤ d.now) :
    ¬(!d.alive || decide (d.now < t)) = true := by
  simp [halive, hdue]

theorem idleGateCloseOp_of_idle {d : Dev} {e : Nat} (h : d.gateShut e (d.engine e) = true) :
    idleGateCloseOp e d = d.updEngine e (fun x => { x with gated := true }) :=
  if_pos h

/-! GOVERNOR_ESTIMATE (R573, R577). -/

section
variable {d : Dev} {mw r0 r1 need : Nat} (halive : d.alive = true) (hdue : d.pwr.govAt + 800 ≤ d.now)
  (hneed : need = mw + 23100 * (d.wakes.length + d.wakeWaits))
include halive hdue hneed

/-- Up toward what waits for the envelope, without filler. -/
theorem governorOp_of_rise {up env : Nat} (hlow : d.pwr.env < need) (hup : up = min need (d.pwr.env + d.rampPerUs / 2))
    (henv : env = (if d.raiseOk (fun i => if i = 0 then r0 else r1) (up - d.pwr.env) then up else d.pwr.env)) :
    governorOp mw r0 r1 d = { d with pwr := { d.pwr with env := env, est := mw, filler := false, govAt := d.now } } := by
  have hfill : decide (need < d.pwr.env) = false := decide_eq_false (Nat.lt_asymm hlow)
  subst henv
  simp only [governorOp, Dev.not_early_of_due halive hdue, ← hneed, ← hup, hlow, hfill, Bool.and_false, Bool.false_eq_true, if_false, if_true]

/-- Down, with filler cycles for what the estimate lacks. -/
theorem governorOp_of_fall {env : Nat} {d1 : Dev} (hhigh : need ≤ d.pwr.env) (henv : env = max need (d.pwr.env - d.rampPerUs / 2))
    (hd : d1 = { d with pwr := { d.pwr with
      env := env, est := mw, filler := decide (mw < env) && decide (need < d.pwr.env), govAt := d.now } }) :
    governorOp mw r0 r1 d = if mw < env ∧ need < d.pwr.env then d1.bump pgPwr 0 8 (550 - 50 * d1.point) else d1 := by
  subst hd
  simp only [governorOp, Dev.not_early_of_due halive hdue, ← hneed, Nat.not_lt.2 hhigh, ← henv, Bool.false_eq_true, if_false,
    Bool.and_eq_true, decide_eq_true_eq]
end

/-! POWER_LIMIT_CHECK (R576). -/

section
variable {d d1 d2 : Dev} {w higher : Nat} (halive : d.alive = true) (hdue : d.pwr.limitAt + msCycles 1 ≤ d.now)
  (hd1 : d1 = (d.bump pgPwr 0 d.point).setFd R.pwrStat 27 16 (sat 12 w)) (hd2 : d2 = { d1 with pwr := { d1.pwr with limitAt := d1.now } })
include halive hdue hd1 hd2

theorem powerCheckOp_of_over {d3 : Dev} (hover : d2.limitW < w) (hd3 : d3 = d2.setInt pgPwr 3) :
    powerCheckOp w higher d =
      if d.point < 7 then (d3.bump pgPwr 0 12).demand (fun x => { x with ptPower := d.point + 1, lowPower := none })
      else { d3 with pwr := { d3.pwr with lowPower := none } } := by
  subst hd3 hd2 hd1
  exact (if_neg (Dev.not_early_of_due halive hdue)).trans (if_pos hover)

variable (hunder : w ≤ d2.limitW)
include hunder

theorem powerCheckOp_of_near (hnear : 95 * d2.limitW < 100 * w) :
    powerCheckOp w higher d = { d2 with pwr := { d2.pwr with lowPower := none } } := by
  subst hd2 hd1
  exact (if_neg (Dev.not_early_of_due halive hdue)).trans ((if_neg (Nat.not_lt.2 hunder)).trans (if_pos hnear))

/-- The time below the limit counts from the first check that found it so. -/
theorem powerCheckOp_of_below {s : Nat} (hbelow : 100 * w ≤ 95 * d2.limitW) (hs : s = d2.pwr.lowPower.getD d2.now) :
    powerCheckOp w higher d =
      if s + msCycles 10 ≤ d2.now ∧ d2.pwr.ptPower ≠ 0 ∧ higher < d2.limitW then
        d2.demand (fun x => { x with ptPower := x.ptPower - 1, lowPower := some d2.now })
      else { d2 with pwr := { d2.pwr with lowPower := some s } } := by
  subst hs hd2 hd1
  refine (if_neg (Dev.not_early_of_due halive hdue)).trans
    ((if_neg (Nat.not_lt.2 hunder)).trans ((if_neg (Nat.not_lt.2 hbelow)).trans (ite_congr (propext ?_) (fun _ => rfl) (fun _ => rfl))))
  simp only [Bool.and_eq_true, decide_eq_true_eq, bne_iff_ne, and_assoc]
end

/-! CURRENT_READING (R567, R577). -/

/-- Rail i has read below the limit for 10 ms, as `low` has it. -/
def lowSince (low : Tab Nat) (i now : Nat) : Bool :=
  match Tab.find? low i with
  | some t => decide (t + msCycles 10 ≤ now)
  | none => false

theorem lowSince_of_some {low : Tab Nat} {i t : Nat} (h : Tab.find? low i = some t) (now : Nat) :
    lowSince low i now = decide (t + msCycles 10 ≤ now) := by
  simp only [lowSince, h]

theorem lowSince_of_none {low : Tab Nat} {i : Nat} (h : Tab.find? low i = none) (now : Nat) : lowSince low i now = false := by
  simp only [lowSince, h]

section
variable {d : Dev} {rail : Nat} (halive : d.alive = true) (hdue : Tab.getD d.pwr.readAt rail 0 + usCycles 10 ≤ d.now)
include halive hdue

/-- A third reading without an answer is an error, and the regulator is held to be dead. -/
theorem currentOp_of_no_answer {n higher : Nat} {d1 : Dev} (hn : n = Tab.getD d.pwr.avsMiss rail 0 + 1)
    (hd : d1 = { d with pwr := { d.pwr with
      readAt := Tab.set d.pwr.readAt rail d.now, avsMiss := Tab.set d.pwr.avsMiss rail n } }) :
    currentOp rail none higher d = if n = 3 then (d1.setErr pgPwr 0 0).demand (fun x => { x with avsDead := true }) else d1 := by
  subst hd hn
  exact if_neg (Dev.not_early_of_due halive hdue)

variable {amps higher : Nat} {d1 d2 : Dev}
  (hd1 : d1 = { d with pwr := { d.pwr with readAt := Tab.set d.pwr.readAt rail d.now, avsMiss := Tab.del d.pwr.avsMiss rail } })
  (hd2 : d2 = d1.setFd (R.pwrVdd rail) 26 16 (sat 11 amps))
include hd1 hd2

theorem currentOp_of_over {d3 : Dev} (hover : d2.limitA < amps) (hd3 : d3 = d2.setInt pgPwr 1) :
    currentOp rail (some amps) higher d =
      if d1.point < 7 then (d3.bump pgPwr 0 11).demand (fun x => { x with ptCurrent := d1.point + 1, lowCurrent := [] })
      else { d3 with pwr := { d3.pwr with lowCurrent := [] } } := by
  subst hd3 hd2 hd1
  exact (if_neg (Dev.not_early_of_due halive hdue)).trans (if_pos hover)

variable (hunder : amps ≤ d2.limitA)
include hunder

theorem currentOp_of_near (hnear : 95 * d2.limitA < 100 * amps) :
    currentOp rail (some amps) higher d = { d2 with pwr := { d2.pwr with lowCurrent := Tab.del d2.pwr.lowCurrent rail } } := by
  subst hd2 hd1
  exact (if_neg (Dev.not_early_of_due halive hdue)).trans ((if_neg (Nat.not_lt.2 hunder)).trans (if_pos hnear))

variable {low : Tab Nat} (hbelow : 100 * amps ≤ 95 * d2.limitA)
  (hlow : low = Tab.set d2.pwr.lowCurrent rail (Tab.getD d2.pwr.lowCurrent rail d2.now))
include hbelow hlow

/-- The point rises once both rails, as `low` has them, have read below the limit for 10 ms. -/
theorem currentOp_of_below :
    currentOp rail (some amps) higher d =
      if lowSince low 0 d2.now = true ∧ lowSince low 1 d2.now = true ∧ d2.pwr.ptCurrent ≠ 0 ∧ higher < d2.limitA then
        d2.demand (fun x => { x with ptCurrent := x.ptCurrent - 1, lowCurrent := [(0, d2.now), (1, d2.now)] })
      else { d2 with pwr := { d2.pwr with lowCurrent := low } } := by
  subst hlow hd2 hd1
  refine (if_neg (Dev.not_early_of_due halive hdue)).trans
    ((if_neg (Nat.not_lt.2 hunder)).trans ((if_neg (Nat.not_lt.2 hbelow)).trans (ite_congr (propext ?_) (fun _ => rfl) (fun _ => rfl))))
  simp only [List.all_cons, List.all_nil, Bool.and_true, Bool.and_eq_true, decide_eq_true_eq, bne_iff_ne, and_assoc]
  rfl

/-- Both rails read below the limit, since t0 and t1. -/
theorem currentOp_of_both_below {t0 t1 : Nat} (h0 : Tab.find? low 0 = some t0) (h1 : Tab.find? low 1 = some t1) :
    currentOp rail (some amps) higher d =
      if t0 + msCycles 10 ≤ d2.now ∧ t1 + msCycles 10 ≤ d2.now ∧ d2.pwr.ptCurrent ≠ 0 ∧ higher < d2.limitA then
        d2.demand (fun x => { x with ptCurrent := x.ptCurrent - 1, lowCurrent := [(0, d2.now), (1, d2.now)] })
      else { d2 with pwr := { d2.pwr with lowCurrent := low } } := by
  rw [currentOp_of_below halive hdue hd1 hd2 hunder hbelow hlow]
  simp only [lowSince_of_some h0, lowSince_of_some h1, decide_eq_true_eq]

/-- While a rail has no such reading the point holds. -/
theorem currentOp_of_one_below {i : Nat} (hi : i < 2) (h : Tab.find? low i = none) :
    currentOp rail (some amps) higher d = { d2 with pwr := { d2.pwr with lowCurrent := low } } := by
  refine (currentOp_of_below halive hdue hd1 hd2 hunder hbelow hlow).trans (if_neg ?_)
  rintro ⟨hlow0, hlow1, -⟩
  obtain rfl | rfl : i = 0 ∨ i = 1 := by omega
  · exact Bool.false_ne_true ((lowSince_of_none h _).symm.trans hlow0)
  · exact Bool.false_ne_true ((lowSince_of_none h _).symm.trans hlow1)
end

/-! ADAPTIVE_VOLTAGE (R571). -/

section
variable {d d1 : Dev} {die : Nat} (halive : d.alive = true) (hdead : d.pwr.avsDead = false)
  (hdue : Tab.getD d.pwr.adaptAt die 0 + usCycles 100 ≤ d.now)

include halive hdead hdue in
/-- While the regulators answer, the monitors of a live device are heard once their time has come. -/
theorem Dev.not_early_of_answers : ¬(!d.alive || d.pwr.avsDead || decide (d.now < Tab.getD d.pwr.adaptAt die 0 + usCycles 100)) = true := by
  simp [halive, hdead, hdue]

variable (hd : d1 = { d with pwr := { d.pwr with adaptAt := Tab.set d.pwr.adaptAt die d.now } })
include halive hdead hdue hd

theorem adaptiveOp_of_none : adaptiveOp die none d = d1 := by
  subst hd
  exact if_neg (Dev.not_early_of_answers halive hdead hdue)

variable {mv : Nat} (hmv : mv = d1.fd (R.pwrVdd die) 9 0)
include hmv

theorem adaptiveOp_of_down :
    adaptiveOp die (some false) d = if 605 ≤ mv then d1.setFd (R.pwrVdd die) 9 0 (mv - 5) else d1 := by
  subst hmv hd
  exact if_neg (Dev.not_early_of_answers halive hdead hdue)

theorem adaptiveOp_of_up : adaptiveOp die (some true) d =
    if mv + 5 ≤ 800 ∧ d1.fd (R.pwrVdd die) 26 16 + 20 ≤ d1.limitA then d1.setFd (R.pwrVdd die) 9 0 (mv + 5) else d1 := by
  subst hmv hd
  refine (if_neg (Dev.not_early_of_answers halive hdead hdue)).trans (ite_congr (propext ?_) (fun _ => rfl) (fun _ => rfl))
  simp only [Bool.and_eq_true, decide_eq_true_eq]
end

/-- Settles O49: the branches of each control, over its limit, near it and below it. -/
theorem powerControl : Obligations.PowerControl := by
  intro q fu d halive
  refine ⟨?gate, ?governor, ?limit, ?current, ?noAnswer, ?adaptive⟩
  case gate => exact fun e he h => onEngine_next he (idleGateCloseOp_of_idle h) q fu
  case governor =>
    intro mw r0 r1 need hdue hneed
    exact ⟨fun up env hlow hup henv => onDev_next (governorOp_of_rise halive hdue hneed hlow hup henv) q fu,
      fun env d1 hhigh henv hd => onDev_next (governorOp_of_fall halive hdue hneed hhigh henv hd) q fu⟩
  case limit =>
    rintro w higher _ d1 d2 hdue rfl hd1 hd2
    exact ⟨fun d3 hover hd3 => onDev_next (powerCheckOp_of_over halive hdue hd1 hd2 hover hd3) q fu,
      fun hunder hnear => onDev_next (powerCheckOp_of_near halive hdue hd1 hd2 hunder hnear) q fu,
      fun s hunder hbelow hs => onDev_next (powerCheckOp_of_below halive hdue hd1 hd2 hunder hbelow hs) q fu⟩
  case current =>
    intro rail amps higher d1 d2 hrail hdue hd1 hd2
    refine ⟨fun d3 hover hd3 => ?above, fun hunder hnear => ?near, fun low t0 t1 hunder hbelow hlow h0 h1 => ?both,
      fun low i hunder hbelow hlow hi h => ?one⟩
    case above => exact onNumbered_next hrail (currentOp_of_over halive hdue hd1 hd2 hover hd3) q fu
    case near => exact onNumbered_next hrail (currentOp_of_near halive hdue hd1 hd2 hunder hnear) q fu
    case both => exact onNumbered_next hrail (currentOp_of_both_below halive hdue hd1 hd2 hunder hbelow hlow h0 h1) q fu
    case one => exact onNumbered_next hrail (currentOp_of_one_below halive hdue hd1 hd2 hunder hbelow hlow hi h) q fu
  case noAnswer =>
    exact fun rail higher n d1 hrail hdue hn hd => onNumbered_next hrail (currentOp_of_no_answer halive hdue hn hd) q fu
  case adaptive =>
    intro die mv d1 hdie hdead hdue hd hmv
    exact ⟨onNumbered_next hdie (adaptiveOp_of_none halive hdead hdue hd) q fu,
      onNumbered_next hdie (adaptiveOp_of_down halive hdead hdue hd hmv) q fu,
      onNumbered_next hdie (adaptiveOp_of_up halive hdead hdue hd hmv) q fu⟩

end Sys2Proof.Machine
end

section
/-! PROOFS. Models (08_quantisation_and_models.md): EMBED and RERANK, the lanes, repetitions and ends of runs, and the model phases of a search
(R280 to R292). -/

namespace Sys2Proof.Machine
open Sys2Proof

/-! EMBED: the checks of R289 in their order. -/

section
variable {d : Dev} {c : Nat} {x : Ctx} (hstart : d.canStart c 0x18 = true) (hx : d.ctx? c = some x)
include hstart hx

theorem embedOp_of_bad_fields (hargs : d.embedArgsOk x = false) : embedOp c d = d.finishSt c .invalidCmd := by
  simp only [embedOp, hstart, hx, hargs, Bool.not_true, Bool.not_false, Bool.false_eq_true, if_false, if_true]

section
variable {d1 d2 : Dev} {coll : Option (List Byte × (Nat × Nat))} {img : List Byte} {model token : Nat} {ls : List (Nat × Nat)}
  (hargs : d.embedArgsOk x = true) (hcoll : d.modelColl c x (x.n 32 2) cEncTbl = (d1, .ok coll))
  (himg : img = (coll.map Prod.fst).getD []) (hmodel : model = embedModel x img) (htoken : token = embedToken x img)
  (hlook : d1.modelLook c model token = (d2, .ok ls))
include hargs hcoll himg hmodel htoken hlook

theorem embedOp_of_bad_header {st : Status} (hhdr : embedOk x img (d2.modelHdr ls) token = some st) : embedOp c d = d2.finishSt c st := by
  subst himg hmodel htoken
  simp only [embedOp, hstart, hx, hargs, hcoll, hlook, hhdr, GotV.after_ok, Bool.not_true, Bool.false_eq_true, if_false]

/-- One run for each input. -/
theorem embedOp_of_bound {d3 d4 : Dev} {b : List Byte} {bs : List (Nat × Nat)} {base : Nat}
    (hhdr : embedOk x img (d2.modelHdr ls) token = none) (hneed : d2.need c x.desc (x.n 34 2 * x.n 36 4) = (d3, .ok b))
    (hbind : d3.modelBind c model token = (d4, .ok bs)) (hbase : base = (bs.head?.map d4.boundBase).getD 0) :
    embedOp c d = d4.modelStart c coll (embedCmd x bs) (x.n 48 4)
      ((List.range (x.n 34 2)).map (embedRun c x (d4.modelHdr bs) b model base token bs)) := by
  subst himg hmodel htoken hbase
  simp only [embedOp, hstart, hx, hargs, hcoll, hlook, hhdr, hneed, hbind, GotV.after_ok, Bool.not_true, Bool.false_eq_true, if_false]
end
end

/-! RERANK: the checks of R290 in their order. -/

section
variable {d : Dev} {c : Nat} {x : Ctx} (hstart : d.canStart c 0x19 = true) (hx : d.ctx? c = some x)
include hstart hx

theorem rerankOp_of_bad_fields (hargs : d.rerankArgsOk x = false) : rerankOp c d = d.finishSt c .invalidCmd := by
  simp only [rerankOp, hstart, hx, hargs, Bool.not_true, Bool.not_false, Bool.false_eq_true, if_false, if_true]

section
variable {d1 : Dev} {b : List Byte} {recs : List (List Byte)} (hargs : d.rerankArgsOk x = true)
  (hneed : d.need c x.desc (up64 (x.n 44 4) + x.n 34 2 * x.n 36 4) = (d1, .ok b)) (hrecs : recs = rerankRecs x b)
include hargs hneed hrecs

theorem rerankOp_of_bad_records (hbad : rerankRecsOk recs = false) : rerankOp c d = d1.finishSt c .invalidCmd := by
  subst hrecs
  simp only [rerankOp, hstart, hx, hargs, hneed, hbad, GotV.after_ok, Bool.not_true, Bool.not_false, Bool.false_eq_true, if_false, if_true]

variable {d2 d3 : Dev} {coll : Option (List Byte × (Nat × Nat))} {img : List Byte} {model token : Nat} {ls : List (Nat × Nat)}
  (hgood : rerankRecsOk recs = true) (hcoll : d1.modelColl c x (x.n 32 2) cRerTbl = (d2, .ok coll))
  (himg : img = (coll.map Prod.fst).getD []) (hmodel : model = rerankModel x img) (htoken : token = rerankToken x img)
  (hlook : d2.modelLook c model token = (d3, .ok ls))
include hgood hcoll himg hmodel htoken hlook

theorem rerankOp_of_bad_header {st : Status} (hhdr : rerankOk x img (d3.modelHdr ls) token = some st) : rerankOp c d = d3.finishSt c st := by
  subst hrecs himg hmodel htoken
  simp only [rerankOp, hstart, hx, hargs, hneed, hgood, hcoll, hlook, hhdr, GotV.after_ok, Bool.not_true, Bool.false_eq_true, if_false]

/-- One run for all the candidates. -/
theorem rerankOp_of_bound {d4 : Dev} {bs : List (Nat × Nat)} {base : Nat} (hhdr : rerankOk x img (d3.modelHdr ls) token = none)
    (hbind : d3.modelBind c model token = (d4, .ok bs)) (hbase : base = (bs.head?.map d4.boundBase).getD 0) :
    rerankOp c d = d4.modelStart c coll (rerankCmd x recs bs) (x.n 48 4)
      [rerankRun c x (d4.modelHdr bs) b recs model base token bs] := by
  subst hrecs himg hmodel htoken hbase
  simp only [rerankOp, hstart, hx, hargs, hneed, hgood, hcoll, hlook, hhdr, hbind, GotV.after_ok, Bool.not_true, Bool.false_eq_true, if_false]
end
end

/-! MODEL_LANE_GRANT (R280). -/

/-- A run with a core and a free lane there asks for its engines. -/
theorem modelLaneGrantOp_of_free_lane {d d0 d1 : Dev} {r k l n : Nat} {x : Run} {c : Ctx} {g : Group} (hrun : d.run? r = some x)
    (hstep : (x.step == .lane) = true) (hcore : (if x.core < 8 then some x.core else d.nextCore) = some k)
    (hd : d0 = (if x.core < 8 then d else (d.gaveCore k).updRun r (fun y => { y with core := k }))) (hc : d0.ctx? x.ctx = some c)
    (hlane : firstBelow (mLanes (d.runHdr x)) (fun l => !(d0.lanesHeld { x with core := k }).contains l) = some l)
    (hg : g = { ctx := x.ctx, cinc := c.cinc, core := k, want := mEngines (d.runHdr x), run := r }) (hadd : d0.addGroup g = (d1, n)) :
    modelLaneGrantOp r d =
      (d1.setRun r { x with core := k, lane := some l, step := .engines, group := n, cinc := c.cinc }).coreReserve k := by
  subst hd hg
  simp only [modelLaneGrantOp, hrun, bne, hstep, hcore, hc, hlane, hadd, Bool.not_true, Bool.false_eq_true, if_false]

/-! STAGE_REPETITION (R280, R281, R284, R285): one step of the run after another. -/

section
variable {d : Dev} {r : Nat} {x : Run} {g : Group} (hrun : d.run? r = some x) (hgroup : d.group? x.group = some g)
include hrun hgroup

theorem stageRepetitionOp_of_ready (hstep : x.step = .ready) : stageRepetitionOp r d = d.repStart r x := by
  simp only [stageRepetitionOp, hrun, hgroup, hstep]

section
variable (hstep : x.step = .engines)
include hstep

theorem stageRepetitionOp_of_not_full (hfull : g.full = false) : stageRepetitionOp r d = d := by
  simp only [stageRepetitionOp, hrun, hgroup, hstep, hfull, Bool.not_false, if_true]

variable (hfull : g.full = true) {d1 : Dev}
include hfull

theorem stageRepetitionOp_of_written (hput : d.put x.ctx (x.scratch (d.runHdr x)) x.block = (d1, .done)) :
    stageRepetitionOp r d = d1.enterStage r 0 := by
  simp only [stageRepetitionOp, hrun, hgroup, hstep, hfull, hput, Bool.not_true, Bool.false_eq_true, if_false]

theorem stageRepetitionOp_of_write_waits (hput : d.put x.ctx (x.scratch (d.runHdr x)) x.block = (d1, .wait)) :
    stageRepetitionOp r d = d1 := by
  simp only [stageRepetitionOp, hrun, hgroup, hstep, hfull, hput, Bool.not_true, Bool.false_eq_true, if_false]

theorem stageRepetitionOp_of_write_fails {st : Status} (hput : d.put x.ctx (x.scratch (d.runHdr x)) x.block = (d1, .fail st)) :
    stageRepetitionOp r d = d1.runFail r st := by
  simp only [stageRepetitionOp, hrun, hgroup, hstep, hfull, hput, Bool.not_true, Bool.false_eq_true, if_false]
end

section
variable (hstep : x.step = .stage)
include hstep

theorem stageRepetitionOp_of_not_ended
    (h : x.attn = true ∨ x.repRunning = false ∨ (d.groupEngs g).all (fun e => (d.engine e).ended) = false) : stageRepetitionOp r d = d := by
  simp only [stageRepetitionOp, hrun, hgroup, hstep]
  rcases h with h | h | h
  · exact if_pos h
  · simp only [h, Bool.not_false, Bool.true_or, if_true, ite_self]
  · simp only [h, Bool.not_false, Bool.or_true, if_true, ite_self]

variable {d1 : Dev} {st : Stage} (hattn : x.attn = false) (hrunning : x.repRunning = true)
  (hended : (d.groupEngs g).all (fun e => (d.engine e).ended) = true) (hfold : d.repFold r x (d.groupEngs g) = d1)
  (hst : st = d1.runStage x x.stage)
include hattn hrunning hended hfold hst

theorem stageRepetitionOp_of_more {y : Run} (hmore : x.rep + 1 < st.rep) (hy : d1.run? r = some y) :
    stageRepetitionOp r d = d1.repStart r y := by
  subst hst hfold
  simp only [stageRepetitionOp, hrun, hgroup, hstep, hattn, hrunning, hended, hmore, hy, Bool.not_true, Bool.or_self, Bool.false_eq_true,
    if_false, if_true]

/-- The last repetition of a stage ends at its attention, or the next stage follows. -/
theorem stageRepetitionOp_of_last (hlast : st.rep ≤ x.rep + 1) : stageRepetitionOp r d =
    if st.attn = true then d1.updRun r (fun y => { y with attn := true }) else d1.enterStage r (x.stage + 1) := by
  subst hst hfold
  simp only [stageRepetitionOp, hrun, hgroup, hstep, hattn, hrunning, hended, Nat.not_lt.2 hlast, Bool.not_true, Bool.or_self,
    Bool.false_eq_true, if_false]
end
end

/-! RUN_END (R280, R286). -/

section
variable {d d1 : Dev} {r : Nat} {x : Run} (hrun : d.run? r = some x) (hstep : (x.step != .finished) = false)
include hrun hstep

theorem runEndOp_of_delivered {d2 d3 : Dev} {g : Group} {b : List Byte} {ev : Nat}
    (hneed : d.need x.ctx (x.w7 (d.runHdr x)).base (4 * (if x.cands = 0 then mVecDim (d.runHdr x) else x.cands)) = (d1, .ok b))
    (hdeliver : d1.deliver x (bytesWords b) = (d2, .done)) (hgroup : d2.group? x.group = some g)
    (hpush : d2.pushAmax x (d.runHdr x) ((d2.groupEngs g).headD 0) = (d3, ev)) :
    runEndOp r d = ((d3.takeRun r).bump pgCtx 4 1).runDone x (bytesWords b) ev := by
  simp only [runEndOp, hrun, hstep, hneed, hdeliver, hgroup, hpush, GotV.after_ok, Bool.false_eq_true, if_false]

theorem runEndOp_of_unreadable {st : Status}
    (hneed : d.need x.ctx (x.w7 (d.runHdr x)).base (4 * (if x.cands = 0 then mVecDim (d.runHdr x) else x.cands)) = (d1, .bad st)) :
    runEndOp r d = d1.runFail r st := by
  simp only [runEndOp, hrun, hstep, hneed, GotV.after_bad, Bool.false_eq_true, if_false]
end

/-! EMBED_PHASE (R291) and RERANK_MODEL_PHASE (R292). -/

theorem embedPhaseOp_of_query {d : Dev} {sid k : Nat} {s : Search} {y : Query} (hq : d.inPhase (qKey sid k) .embed = some (s, y)) :
    embedPhaseOp sid k d = d.phaseRun (qKey sid k) s y (cEncTbl s.image) 5
      (fun _ => { use := .queryEmbed (qKey sid k), query := s.inputs.getD k [] }) true := by
  simp only [embedPhaseOp, hq]

/-- Header of the scorer of query `key`: of the model it has bound, or else of the present one (R97, R292). -/
def Dev.scorerHdr (d : Dev) (key : Nat) (s : Search) : List Byte :=
  match d.query? key with
  | some z => (match bindOf z.binds (cRerTbl s.image) with
    | some b => d.peekImg (d.boundBase b) 64
    | none => (match (d.tdesc (cRerTbl s.image)).current with
      | some (_, t) => d.peekImg t.base 64
      | none => []))
  | none => []

section
variable {d : Dev} {sid k : Nat} {s : Search} {y : Query} (hq : d.inPhase (qKey sid k) .rerankModel = some (s, y))
include hq

theorem rerankModelPhaseOp_of_empty (hempty : y.ordered.isEmpty = true) :
    rerankModelPhaseOp sid k d = d.phaseEnd (qKey sid k) (afterOrder s true) := by
  simp only [rerankModelPhaseOp, hq, hempty, if_true]

/-- `own` says that the query's input is raw and its own. -/
theorem rerankModelPhaseOp_of_set {own : Bool} {hdr : List Byte} (hsome : y.ordered.isEmpty = false)
    (hown : own = (s.format == 3 && s.origin.isNone)) (hhdr : hdr = d.scorerHdr (qKey sid k) s) :
    rerankModelPhaseOp sid k d = d.phaseRun (qKey sid k) s y (cRerTbl s.image) (if own then 7 else 8) (fun h =>
      { use := .queryRerank (qKey sid k), cands := y.ordered.length, query := if mInput h = 0 then wordsBytes y.vec else s.inputs.getD k [],
        candBytes := (y.full.map (fun v => slice (wordsBytes v) 0 (up64 (4 * v.length)))).flatten, candStride := up64 (4 * cDim s.image) })
      (own && mInput hdr != 0) := by
  subst hown hhdr
  simp only [rerankModelPhaseOp, hq, hsome, Bool.false_eq_true, if_false]
  rfl
end

/-- Settles O58: commands by their checks, then the steps of a run, its end, and the phases. -/
theorem models : Obligations.Models := by
  intro q fu d
  refine ⟨?embedFields, ?embed, ?rerankFields, ?rerank, ?lane, ?repetition, ?runEnd, ?unreadable, ?embedPhase, ?noCandidates, ?candidates⟩
  case embedFields => exact fun c x hc hstart hx hargs => onCtx_next hc (embedOp_of_bad_fields hstart hx hargs) q fu
  case embed =>
    intro c x d1 d2 d3 d4 coll img b ls bs base model token hc hstart hx hargs hcoll himg hmodel htoken hlook
    exact ⟨fun st hhdr => onCtx_next hc (embedOp_of_bad_header hstart hx hargs hcoll himg hmodel htoken hlook hhdr) q fu,
      fun hhdr hneed hbind hbase =>
        onCtx_next hc (embedOp_of_bound hstart hx hargs hcoll himg hmodel htoken hlook hhdr hneed hbind hbase) q fu⟩
  case rerankFields => exact fun c x hc hstart hx hargs => onCtx_next hc (rerankOp_of_bad_fields hstart hx hargs) q fu
  case rerank =>
    intro c x d1 b recs hc hstart hx hargs hneed hrecs
    refine ⟨fun hbad => onCtx_next hc (rerankOp_of_bad_records hstart hx hargs hneed hrecs hbad) q fu, ?_⟩
    intro d2 d3 d4 coll img ls bs base model token hgood hcoll himg hmodel htoken hlook
    exact ⟨fun st hhdr =>
        onCtx_next hc (rerankOp_of_bad_header hstart hx hargs hneed hrecs hgood hcoll himg hmodel htoken hlook hhdr) q fu,
      fun hhdr hbind hbase =>
        onCtx_next hc (rerankOp_of_bound hstart hx hargs hneed hrecs hgood hcoll himg hmodel htoken hlook hhdr hbind hbase) q fu⟩
  case lane =>
    intro r x k l c d0 d1 n g hrun hstep hcore hd hc hlane hg hadd
    exact onDev_next (modelLaneGrantOp_of_free_lane hrun hstep hcore hd hc hlane hg hadd) q fu
  case repetition =>
    intro r x g hrun hgroup
    refine ⟨fun hstep => ?ready, fun d1 hstep hfull hput => ?written, fun d1 hstep hfull hput => ?waits, fun d1 st hstep hfull hput => ?fails,
      fun hstep hfull => ?notFull, fun hstep h => ?notEnded, fun d1 st hstep hattn hrunning hended hfold hst => ?ended⟩
    case ready => exact onDev_next (stageRepetitionOp_of_ready hrun hgroup hstep) q fu
    case written => exact onDev_next (stageRepetitionOp_of_written hrun hgroup hstep hfull hput) q fu
    case waits => exact onDev_next (stageRepetitionOp_of_write_waits hrun hgroup hstep hfull hput) q fu
    case fails => exact onDev_next (stageRepetitionOp_of_write_fails hrun hgroup hstep hfull hput) q fu
    case notFull => exact onDev_next (stageRepetitionOp_of_not_full hrun hgroup hstep hfull) q fu
    case notEnded => exact onDev_next (stageRepetitionOp_of_not_ended hrun hgroup hstep h) q fu
    case ended =>
      have hlast := stageRepetitionOp_of_last hrun hgroup hstep hattn hrunning hended hfold hst
      exact ⟨fun y hmore hy => onDev_next (stageRepetitionOp_of_more hrun hgroup hstep hattn hrunning hended hfold hst hmore hy) q fu,
        fun hle h => onDev_next ((hlast hle).trans (if_pos h)) q fu,
        fun hle h => onDev_next ((hlast hle).trans (if_neg (ne_true_of_eq_false h))) q fu⟩
  case runEnd =>
    intro r x g d1 d2 d3 b ev hrun hstep hneed hdeliver hgroup hpush
    exact onDev_next (runEndOp_of_delivered hrun hstep hneed hdeliver hgroup hpush) q fu
  case unreadable => exact fun r x d1 st hrun hstep hneed => onDev_next (runEndOp_of_unreadable hrun hstep hneed) q fu
  case embedPhase => exact fun sid k s y hsid hk hq => onPair_next hsid hk (embedPhaseOp_of_query hq) q fu
  case noCandidates => exact fun sid k s y hsid hk hq hempty => onPair_next hsid hk (rerankModelPhaseOp_of_empty hq hempty) q fu
  case candidates =>
    intro sid k s y hsid hk hq hsome own hdr hown hhdr
    exact onPair_next hsid hk (rerankModelPhaseOp_of_set hq hsome hown hhdr) q fu

end Sys2Proof.Machine
end

section
/-! PROOFS. Objects and migrations (09_tiers_and_placement.md, 11_flash_currier_edger.md): requests of a master, and the start, the copy, the
comparison and the end of a migration (R300, R301, R306 to R308, R364, R603). -/

namespace Sys2Proof.Machine
open Sys2Proof

/-! Requests of a master: served at once by a Tack room that runs, kept by one that does not (R603). -/

section
variable {d : Dev} (hrun : d.runs pgTack = true) (m : Master)
include hrun

theorem allocReqOp_of_runs (v : Word) : allocReqOp m v d = d.allocDo m.index v (Tab.getD d.tack.allocFn m.index 0 % 1024) := by
  simp only [allocReqOp, hrun, Bool.not_true, Bool.false_eq_true, if_false]

theorem objSealOp_of_runs (o : Nat) : objSealOp m o d = d.sealDo m.index o := by
  simp only [objSealOp, hrun, Bool.not_true, Bool.false_eq_true, if_false]

theorem objFreeOp_of_runs (o : Nat) : objFreeOp m o d = d.freeDo m.index o := by
  simp only [objFreeOp, hrun, Bool.not_true, Bool.false_eq_true, if_false]
end

section
variable {d : Dev} (hrun : d.runs pgTack = false) (m : Master)
include hrun

theorem allocReqOp_of_stopped (v : Word) :
    allocReqOp m v d = d.objWaits m.index (.alloc m.index v (Tab.getD d.tack.allocFn m.index 0 % 1024)) := by
  simp only [allocReqOp, hrun, Bool.not_false, if_true]

theorem objSealOp_of_stopped (o : Nat) : objSealOp m o d = d.objWaits m.index (.seal m.index o) := by
  simp only [objSealOp, hrun, Bool.not_false, if_true]

theorem objFreeOp_of_stopped (o : Nat) : objFreeOp m o d = d.objWaits m.index (.free m.index o) := by
  simp only [objFreeOp, hrun, Bool.not_false, if_true]
end

/-! MIGRATION_START (R306 to R312): with the placer on, each kind by its own conditions. -/

section
variable {d : Dev} (hrun : d.runs pgTack = true)
include hrun

section
variable (hplacer : fbit (d.rg R.tackCfg) 0 = true)
include hplacer

theorem migrationStartOp_promote {o : Nat} {p : Pool} (hfree : d.migFree (d.obj o) false = true) (hp : d.promoteTarget (d.obj o) = some p) :
    migrationStartOp (.promote o) d = d.migCount (d.migTo o p .move (d.wmLow p.tier) none) := by
  simp only [migrationStartOp, hrun, hplacer, hfree, hp, Bool.not_true, Bool.or_self, Bool.false_eq_true, if_false]

theorem migrationStartOp_demote {t n : Nat} (ht : t < 2) (hn : n < 16) : migrationStartOp (.demote t n) d = d.demote t n := by
  simp only [migrationStartOp, hrun, hplacer, ht, hn, decide_true, Bool.and_self, Bool.not_true, Bool.false_eq_true, if_false, if_true]

theorem migrationStartOp_cold {o c : Nat} (hfree : d.migFree (d.obj o) false = true) (hhint : (d.obj o).hint = 3)
    (hprimary : (d.obj o).primary ≠ 3) (hc : d.bestChannel = some c) :
    migrationStartOp (.cold o) d = d.migCount (d.migTo o (.flash c) .move 100 none) := by
  simp only [migrationStartOp, hrun, hplacer, hfree, hhint, hprimary, hc, bne_self_eq_false, decide_false, Bool.not_true, Bool.or_self,
    Bool.false_eq_true, if_false]

/-- A neighbour copy is made only while a stack is past its low watermark (R311). -/
theorem migrationStartOp_addNbr {o x n : Nat} (hfree : d.migFree (d.obj o) false = true) (hprimary : (d.obj o).primary = 3)
    (hnbr : (d.obj o).nbr = false) (hhint : (d.obj o).hint ≠ 3) (hheat : d.fd R.tackCfg 31 24 ≤ (d.obj o).heat) (hn : n < 16)
    (hpool : d.poolWithin (.hide n) 0 (d.wmLow 1) = false) :
    migrationStartOp (.addNbr o x) d = d.migCount (d.migTo o (.nbr x) .addNbr 100 none) := by
  have hany : ((List.range 16).any fun n => !d.poolWithin (.hide n) 0 (d.wmLow 1)) = true :=
    List.any_eq_true.2 ⟨n, List.mem_range.2 hn, by rw [hpool]; rfl⟩
  simp only [migrationStartOp, hrun, hplacer, hfree, hprimary, hnbr, hhint, Nat.not_lt.2 hheat, hany, bne_self_eq_false, decide_false,
    Bool.not_true, Bool.or_self, Bool.false_eq_true, if_false]

theorem migrationStartOp_dropNbr {o : Nat} (hnbr : (d.obj o).nbr = true) (hmig : (d.obj o).mig = 0)
    (h : (d.obj o).primary ≠ 3 ∨ ((d.obj o).pinned = false ∧ (d.obj o).hint = 3)) : migrationStartOp (.dropNbr o) d = d.nbrDrop o := by
  have hdrop : ((d.obj o).primary != 3 || (!(d.obj o).pinned && decide ((d.obj o).hint = 3))) = true := by
    rcases h with h | ⟨hpin, hhint⟩
    · rw [bne_iff_ne.2 h, Bool.true_or]
    · simp only [hpin, hhint, Bool.not_false, decide_true, Bool.and_self, Bool.or_true]
  simp only [migrationStartOp, hrun, hplacer, hnbr, hmig, hdrop, decide_true, Bool.true_or, Bool.or_true, Bool.and_self, Bool.not_true,
    Bool.false_eq_true, if_false, if_true]
end

/-- A PIN that the object already meets is done at once (R316). -/
theorem migrationStartOp_pin {o : Nat} {w : PinWait} (hw : d.tack.pinWaits.find? (fun w => w.obj == o) = some w) (hmig : (d.obj o).mig = 0)
    (hst : (d.obj o).st ≠ 1) (htier : (d.obj o).primary = w.tier) : migrationStartOp (.pin o) d =
      (({ d with tack := { d.tack with pinWaits := d.tack.pinWaits.erase w, pins := Tab.upd? d.tack.pins w.ctx (fun (p : PinCmd) =>
        { p with changed := p.changed + 1 }) } } : Dev).updObj o (fun e => { e with pinned := true })).bump pgTack 0 9 := by
  simp only [migrationStartOp, hrun, hw, hmig, hst, htier, bne_self_eq_false, decide_false, Bool.or_self, Bool.not_true, Bool.false_eq_true,
    if_false, if_true]
end

/-! Tier codes of the pools (R295). -/

theorem Pool.tier_le_one_iff {p : Pool} : p.tier ≤ 1 ↔ p = .seat ∨ ∃ n, p = .hide n := by
  cases p <;> simp [Pool.tier]

theorem Pool.tier_eq_two_iff {p : Pool} : p.tier = 2 ↔ ∃ x, p = .nbr x := by
  cases p <;> simp [Pool.tier]

theorem Pool.tier_eq_three_iff {p : Pool} : p.tier = 3 ↔ ∃ c, p = .flash c := by
  cases p <;> simp [Pool.tier]

/-! Reading a migration's copies: one in flash through the Rein of its channel, any other at once (R307, R370). -/

/-- Work whose items are all selected uses them up and is done (R482). -/
theorem Dev.viaRein_of_given {d : Dev} {i : Nat} {its : List ReinItem} (h : d.reinGiven i its = true) (strict : Option Nat) (k : Dev → Dev) :
    d.viaRein i strict its k = k (d.reinUse i its) := if_pos h

theorem Dev.migFlash_of_given {d : Dev} {l off n fn : Nat} {op : FlashOp} {x : Channel} {its : List ReinItem} (hx : d.chan? (l / 2 ^ 48) = some x)
    (hits : its = d.unitItems (l / 2 ^ 48) x ((unitsOf off n).map (fun u => l % 2 ^ 48 + u)) op { fn := some fn })
    (hgiven : d.reinGiven (chanRein (l / 2 ^ 48)) its = true) (k : Dev → Dev) :
    d.migFlash l off n fn op k = k (d.reinUse (chanRein (l / 2 ^ 48)) its) := by
  subst hits
  simp only [Dev.migFlash, hx]
  exact Dev.viaRein_of_given hgiven none k

theorem Dev.migSource_of_not_flash {e : ObjEntry} (h : e.primary ≠ 3) (d : Dev) (o off n : Nat) (k : Dev → Dev) :
    d.migSource o e off n k = k d := if_neg h

theorem Dev.migSource_of_flash {e : ObjEntry} (h : e.primary = 3) (d : Dev) (o off n : Nat) (k : Dev → Dev) :
    d.migSource o e off n k = d.migFlash e.loc off n e.fn (.copy o) k := if_pos h

/-! MIGRATION_ABANDON (R308), COPY_DONE and VERIFY_DONE (R306) of a running migration. -/

section
variable {d : Dev} {o : Nat} {g : Migration} {a : Alloc} {e : ObjEntry} (hg : Tab.find? d.tack.migs o = some g) (he : e = d.obj o)
include hg he

section
variable (hmig : e.mig = 1 ∨ e.mig = 2)
include hmig

theorem migrationAbandonOp_of_bad_source {st : Status} (hbad : d.copyBad e e.primary 0 (65536 * e.len) = some st) :
    migrationAbandonOp o d = d.migQuarantine o := by
  subst he
  rcases hmig with h | h <;> simp [migrationAbandonOp, hg, h, hbad]

theorem migrationAbandonOp_of_lost_target (ha : g.target = some a) (hgood : d.copyBad e e.primary 0 (65536 * e.len) = none)
    (hlost : d.targetLost a = true) : migrationAbandonOp o d = d.migAbandon o := by
  subst he
  rcases hmig with h | h <;> simp [migrationAbandonOp, hg, ha, h, hgood, hlost]
end

variable (ha : g.target = some a) (hheld : d.targetLost a = false) (hgood : d.copyBad e e.primary 0 (65536 * e.len) = none)
  (hen : d.enabled pgTack = true)
include ha hheld hgood hen

section
variable (hmig : e.mig = 2)
include hmig

/-- A target that is in no flash channel, nor its source, is compared at once. -/
theorem verifyDoneOp_of_near (h : (a.pool.tier ≤ 1 ∧ e.primary ≠ 3) ∨ a.pool.tier = 2) : verifyDoneOp o d = d.migCheck o e g a := by
  subst he
  rcases h with ⟨htier, hprimary⟩ | htier
  · rcases Pool.tier_le_one_iff.1 htier with hp | ⟨n, hp⟩ <;>
      simp only [verifyDoneOp, hg, hmig, hen, ha, hheld, hgood, hp, bne_self_eq_false, Bool.not_true, Bool.or_self, Option.isSome_none,
        Bool.false_eq_true, if_false, Dev.migSource_of_not_flash hprimary]
  · obtain ⟨x, hp⟩ := Pool.tier_eq_two_iff.1 htier
    simp only [verifyDoneOp, hg, hmig, hen, ha, hheld, hgood, hp, bne_self_eq_false, Bool.not_true, Bool.or_self, Option.isSome_none,
      Bool.false_eq_true, if_false]

/-- The copy that is in flash, the target or its source, is read there first. -/
theorem verifyDoneOp_of_flash {l : Nat} (h : (a.pool.tier = 3 ∧ l = d.locOf a) ∨ (a.pool.tier ≤ 1 ∧ e.primary = 3 ∧ l = e.loc)) :
    verifyDoneOp o d = d.migFlash l 0 (65536 * e.len) e.fn (if a.pool.tier = 3 then .check o else .copy o) (fun d => d.migCheck o e g a) := by
  subst he
  rcases h with ⟨htier, rfl⟩ | ⟨htier, hprimary, rfl⟩
  · obtain ⟨c, hp⟩ := Pool.tier_eq_three_iff.1 htier
    simp only [verifyDoneOp, hg, hmig, hen, ha, hheld, hgood, hp, bne_self_eq_false, Bool.not_true, Bool.or_self, Option.isSome_none,
      Bool.false_eq_true, if_false, Pool.tier, if_true]
  · have hnear : a.pool.tier ≠ 3 := by omega
    rw [if_neg hnear]
    rcases Pool.tier_le_one_iff.1 htier with hp | ⟨n, hp⟩ <;>
      simp only [verifyDoneOp, hg, hmig, hen, ha, hheld, hgood, hp, bne_self_eq_false, Bool.not_true, Bool.or_self, Option.isSome_none,
        Bool.false_eq_true, if_false, Dev.migSource_of_flash hprimary]
end

section
variable (hmig : e.mig = 1)
include hmig

/-- A seat or Hide target is written whole. -/
theorem copyDoneOp_of_local (htier : a.pool.tier ≤ 1) : copyDoneOp o d = d.migSource o e 0 (65536 * e.len) (fun d =>
    (((if e.primary ≤ 1 then d.touch e.loc (65536 * e.len) { fn := some e.fn } else d).store (d.poolAddr a.pool a.start)
      (d.copyBytes e e.primary 0 (65536 * e.len)) false { fn := some e.fn }).updObj o (fun e => { e with mig := 2 })).bump pgTack 0 12
        (65536 * e.len)) := by
  subst he
  rcases Pool.tier_le_one_iff.1 htier with hp | ⟨n, hp⟩ <;>
    simp only [copyDoneOp, hg, hmig, hen, ha, hheld, hgood, hp, bne_self_eq_false, Bool.not_true, Bool.or_self, Option.isSome_none,
      Bool.false_eq_true, if_false]

/-- A flash or neighbour target all of whose units are written, and answered for, is to be verified. -/
theorem copyDoneOp_of_whole (htier : 2 ≤ a.pool.tier) (hcopied : g.copied = 16 * e.len) (hout : g.out = 0) :
    copyDoneOp o d = (d.updObj o (fun e => { e with mig := 2 })).bump pgTack 0 12 (65536 * e.len) := by
  subst he
  cases hp : a.pool with
  | seat => simp [hp, Pool.tier] at htier
  | hide n => simp [hp, Pool.tier] at htier
  | flash c =>
    simp only [copyDoneOp, hg, hmig, hen, ha, hheld, hgood, hp, hcopied, bne_self_eq_false, Bool.not_true, Bool.or_self, Option.isSome_none,
      Bool.false_eq_true, if_false, if_true]
  | nbr x =>
    simp only [copyDoneOp, hg, hmig, hen, ha, hheld, hgood, hp, hcopied, hout, Nat.lt_irrefl, bne_self_eq_false, Bool.not_true, Bool.or_self,
      Option.isSome_none, Bool.false_eq_true, if_false, if_true]

theorem copyDoneOp_of_nbr (htier : a.pool.tier = 2) (hcopied : g.copied < 16 * e.len) (hprimary : e.primary ≠ 3) :
    copyDoneOp o d = d.nbrCopy o e g a := by
  subst he
  obtain ⟨x, hp⟩ := Pool.tier_eq_two_iff.1 htier
  simp only [copyDoneOp, hg, hmig, hen, ha, hheld, hgood, hp, hcopied, Dev.migSource_of_not_flash hprimary, bne_self_eq_false, Bool.not_true,
    Bool.or_self, Option.isSome_none, Bool.false_eq_true, if_false, if_true]
end
end

/-! What a comparison leads to (R306, R308). -/

section
variable {d d1 : Dev} {o : Nat} {e : ObjEntry} {g : Migration} {a : Alloc}

theorem Dev.migCheck_of_equal (h : d.targetEqual o e g a = (d1, .equal)) : d.migCheck o e g a = d1.migSwitch o g a := by
  simp only [Dev.migCheck, h]

theorem Dev.migCheck_of_differs (h : d.targetEqual o e g a = (d1, .differs)) : d.migCheck o e g a = d1.migMismatch o g a := by
  simp only [Dev.migCheck, h]

theorem Dev.migCheck_of_failed (h : d.targetEqual o e g a = (d1, .failed)) : d.migCheck o e g a = d1.migAbandon o := by
  simp only [Dev.migCheck, h]

theorem Dev.migCheck_of_wait (h : d.targetEqual o e g a = (d1, .wait)) : d.migCheck o e g a = d1 := by
  simp only [Dev.migCheck, h]
end

/-! CURRIER_WRITE (R364): the migration whose next unit it is. -/

theorem onChannel_next {d d1 : Dev} {c : Nat} (hc : c < d.part.channels) {f : Dev → Dev} (h : f d = d1) (q : List Instr) (fu : Fuses) :
    onUnit (fun d => decide (c < d.part.channels)) f ⟨q, fu, d⟩ = .next ⟨q, fu, d1⟩ :=
  onUnit_next (decide_eq_true hc) h q fu

/-- The only entry of a list that a test accepts is the one a search finds. -/
theorem find?_eq_some_of_only {α : Type} {l : List α} {p : α → Bool} {x : α} (hx : x ∈ l) (hp : p x = true)
    (honly : ∀ y ∈ l, y ≠ x → p y = false) : l.find? p = some x := by
  obtain ⟨y, hy⟩ := Option.isSome_iff_exists.1 (List.find?_isSome.2 ⟨x, hx, hp⟩)
  have hyx : y = x := Classical.byContradiction fun hne =>
    ne_true_of_eq_false (honly y (List.mem_of_find?_eq_some hy) hne) (List.find?_some hy)
  rw [hy, hyx]

/-- Migration z is copying, and unit u of channel c is the next of its target. -/
def Dev.copiesNext (d : Dev) (c u : Nat) (z : Nat × Migration) : Bool :=
  (d.obj z.1).mig == 1 && (match z.2.target with
    | some a => a.pool == .flash c && decide (16 * a.start ≤ u) && decide (u < 16 * (a.start + a.len)) && u == 16 * a.start + z.2.copied
    | none => false)

theorem Dev.copiesNext_iff {d : Dev} {c u : Nat} {z : Nat × Migration} : d.copiesNext c u z = true ↔ (d.obj z.1).mig = 1 ∧
    ∃ a, z.2.target = some a ∧ a.pool = .flash c ∧ u < 16 * (a.start + a.len) ∧ u = 16 * a.start + z.2.copied := by
  unfold Dev.copiesNext
  cases z.2.target with
  | none => simp
  | some a =>
    simp only [Bool.and_eq_true, beq_iff_eq, decide_eq_true_eq, Option.some.injEq, exists_eq_left']
    exact ⟨fun ⟨hmig, ⟨⟨hpool, _⟩, hlt⟩, hu⟩ => ⟨hmig, hpool, hlt, hu⟩,
      fun ⟨hmig, hpool, hlt, hu⟩ => ⟨hmig, ⟨⟨hpool, hu ▸ Nat.le_add_right _ _⟩, hlt⟩, hu⟩⟩

/-- The next unit of object o's migration g is written: unit u of channel c. -/
def Dev.unitCopied (d : Dev) (c u o : Nat) (g : Migration) : Dev :=
  let e := d.obj o
  let off := 4096 * g.copied
  if (d.copyBad e e.primary off 4096).isSome then d.migQuarantine o
  else
    let d := if e.primary ≤ 1 then d.touch (e.loc + off) 4096 { fn := some e.fn } else d
    match d.curWrite c u (d.copyBytes e e.primary off 4096) e.fn with
    | (d, true) => d.setMig o { g with copied := g.copied + 1 }
    | (d, false) => d

theorem currierWriteOp_of_next {d : Dev} {c u o : Nat} {g : Migration} (h : List.find? (d.copiesNext c u) d.tack.migs = some (o, g)) :
    currierWriteOp c u d = d.unitCopied c u o g := by
  have hop : currierWriteOp c u d = (match List.find? (d.copiesNext c u) d.tack.migs with
    | none => d
    | some (o, g) => d.unitCopied c u o g) := rfl
  rw [hop, h]

section
variable {d : Dev} {c u o : Nat} {g : Migration} {e : ObjEntry} (he : e = d.obj o)
include he

theorem Dev.unitCopied_of_bad_source (hbad : (d.copyBad e e.primary (4096 * g.copied) 4096).isSome = true) :
    d.unitCopied c u o g = d.migQuarantine o := by
  subst he
  exact if_pos hbad

variable {d1 d2 : Dev} (hgood : d.copyBad e e.primary (4096 * g.copied) 4096 = none)
  (hd1 : d1 = if e.primary ≤ 1 then d.touch (e.loc + 4096 * g.copied) 4096 { fn := some e.fn } else d)
include hgood hd1

theorem Dev.unitCopied_of_written (hw : d1.curWrite c u (d1.copyBytes e e.primary (4096 * g.copied) 4096) e.fn = (d2, true)) :
    d.unitCopied c u o g = d2.setMig o { g with copied := g.copied + 1 } := by
  subst he hd1
  simp only [Dev.unitCopied, hgood, hw, Option.isSome_none, Bool.false_eq_true, if_false]

theorem Dev.unitCopied_of_unwritten (hw : d1.curWrite c u (d1.copyBytes e e.primary (4096 * g.copied) 4096) e.fn = (d2, false)) :
    d.unitCopied c u o g = d2 := by
  subst he hd1
  simp only [Dev.unitCopied, hgood, hw, Option.isSome_none, Bool.false_eq_true, if_false]
end

/-- Settles O45: what a master asks for, then the rows of a migration in the order of its states. -/
theorem objectsAndMigrations : Obligations.ObjectsAndMigrations := by
  intro q fu d m
  refine ⟨?alloc, ?sealFree, ?start, ?pin, ?running, ?write⟩
  case alloc =>
    rintro v _ rfl
    exact ⟨fun hrun => onDev_next (allocReqOp_of_runs hrun m v) q fu, fun hrun => onDev_next (allocReqOp_of_stopped hrun m v) q fu⟩
  case sealFree =>
    intro o ho
    exact ⟨fun hrun => ⟨onNumbered_next ho (objSealOp_of_runs hrun m o) q fu, onNumbered_next ho (objFreeOp_of_runs hrun m o) q fu⟩,
      fun hrun => ⟨onNumbered_next ho (objSealOp_of_stopped hrun m o) q fu, onNumbered_next ho (objFreeOp_of_stopped hrun m o) q fu⟩⟩
  case start =>
    intro hrun hplacer
    exact ⟨fun o p hfree hp => onDev_next (migrationStartOp_promote hrun hplacer hfree hp) q fu,
      fun t n ht hn => onDev_next (migrationStartOp_demote hrun hplacer ht hn) q fu,
      fun o c hfree hhint hprimary hc => onDev_next (migrationStartOp_cold hrun hplacer hfree hhint hprimary hc) q fu,
      fun o x n hfree hprimary hnbr hhint hheat hn hpool =>
        onDev_next (migrationStartOp_addNbr hrun hplacer hfree hprimary hnbr hhint hheat hn hpool) q fu,
      fun o hnbr hmig h => onDev_next (migrationStartOp_dropNbr hrun hplacer hnbr hmig h) q fu⟩
  case pin =>
    rintro o w _ hrun hw hmig hst htier rfl
    exact onDev_next (migrationStartOp_pin hrun hw hmig hst htier) q fu
  case running =>
    intro o g a e ho hg ha he
    refine ⟨fun st hmig hbad => onNumbered_next ho (migrationAbandonOp_of_bad_source hg he hmig hbad) q fu,
      fun hmig hgood hlost => onNumbered_next ho (migrationAbandonOp_of_lost_target hg he hmig ha hgood hlost) q fu,
      fun hheld hgood hen => ⟨?verified, ?verifiedFlash, ?copied, ?copiedFlash, ?whole, ?nbr⟩⟩
    case verified =>
      intro d1 v hmig h hcmp
      have hop := verifyDoneOp_of_near hg he ha hheld hgood hen hmig h
      refine ⟨?_, ?_, ?_, ?_⟩ <;> rintro rfl
      · exact onNumbered_next ho (hop.trans (Dev.migCheck_of_equal hcmp)) q fu
      · exact onNumbered_next ho (hop.trans (Dev.migCheck_of_differs hcmp)) q fu
      · exact onNumbered_next ho (hop.trans (Dev.migCheck_of_failed hcmp)) q fu
      · exact onNumbered_next ho (hop.trans (Dev.migCheck_of_wait hcmp)) q fu
    case verifiedFlash =>
      intro x l its hmig h hx hits hgiven
      have hop := verifyDoneOp_of_flash hg he ha hheld hgood hen hmig h
      exact onNumbered_next ho (hop.trans (Dev.migFlash_of_given hx hits hgiven _)) q fu
    case copied =>
      rintro _ hmig htier hprimary rfl
      have hop := copyDoneOp_of_local hg he ha hheld hgood hen hmig htier
      exact onNumbered_next ho (hop.trans (Dev.migSource_of_not_flash hprimary d o 0 _ _)) q fu
    case copiedFlash =>
      rintro x its _ hmig htier hprimary hx hits hgiven rfl
      have hop := copyDoneOp_of_local hg he ha hheld hgood hen hmig htier
      refine onNumbered_next ho ((hop.trans (Dev.migSource_of_flash hprimary d o 0 _ _)).trans
        ((Dev.migFlash_of_given hx hits hgiven _).trans ?_)) q fu
      simp only [hprimary, Nat.reduceLeDiff, if_false]
    case whole =>
      exact fun hmig htier hcopied hout =>
        onNumbered_next ho (copyDoneOp_of_whole hg he ha hheld hgood hen hmig htier hcopied hout) q fu
    case nbr =>
      exact fun hmig htier hcopied hprimary =>
        onNumbered_next ho (copyDoneOp_of_nbr hg he ha hheld hgood hen hmig htier hcopied hprimary) q fu
  case write =>
    intro c u o g a e hc hmem he hmig ha hpool hu hlt honly
    have hnext : List.find? (d.copiesNext c u) d.tack.migs = some (o, g) := by
      refine find?_eq_some_of_only hmem (Dev.copiesNext_iff.2 ⟨he ▸ hmig, a, ha, hpool, hlt, hu⟩) fun z hz hne => ?_
      refine Bool.eq_false_iff.2 fun hcopies => ?_
      obtain ⟨hz1, b, hb, hbpool, -, hbu⟩ := Dev.copiesNext_iff.1 hcopies
      exact honly z hz hne hz1 b hb hbpool hbu
    have hop := currierWriteOp_of_next hnext
    exact ⟨fun hbad => onChannel_next hc (hop.trans (Dev.unitCopied_of_bad_source he hbad)) q fu,
      fun d1 d2 hgood hd1 hw => onChannel_next hc (hop.trans (Dev.unitCopied_of_written he hgood hd1 hw)) q fu,
      fun d1 d2 hgood hd1 hw => onChannel_next hc (hop.trans (Dev.unitCopied_of_unwritten he hgood hd1 hw)) q fu⟩

end Sys2Proof.Machine
end

section
/-! PROOFS. Heat, hints, the staging cache and extents on neighbours (09_tiers_and_placement.md): R305, R309, R314 to R317, R320 to R322, R603. -/

namespace Sys2Proof.Machine
open Sys2Proof

theorem heatHalvingOp_of_due {d d1 : Dev} (hrun : d.runs pgTack = true)
    (hdue : d.tack.halvedAt + msCycles (max (d.fd R.tackCfg 15 8) 1) ≤ d.now)
    (hd1 : d1 = { d with tack := { d.tack with halvedAt := d.now } }) : heatHalvingOp d =
      (List.range d1.slots).foldl (fun d o => if (d.obj o).heat = 0 then d else d.updObj o (fun e => { e with heat := e.heat / 2 })) d1 := by
  subst hd1
  simp only [heatHalvingOp, hrun, hdue, decide_true, Bool.and_self, if_true]

/-! HINT (R314 to R317): one that has applied its effects looks for its end; one that has not passes the checks of R315 first. -/

theorem hintOp_of_applied {d : Dev} {c : Nat} (hlive : d.live c = true) (hpins : Tab.has d.tack.pins c = true) : hintOp c d = d.hintEnd c := by
  simp only [hintOp, hlive, hpins, Bool.and_self, if_true]

section
variable {d : Dev} {c : Nat} {x : Ctx} (hpins : Tab.has d.tack.pins c = false) (hstart : d.canStart c 0x38 = true)
  (hrun : d.runs pgTack = true) (hx : d.ctx? c = some x)
include hpins hstart hrun hx

theorem hintOp_of_bad_fields (hargs : d.hintArgs x = false) : hintOp c d = d.finishSt c .invalidCmd := by
  simp only [hintOp, hpins, hstart, hrun, hx, hargs, Bool.and_false, Bool.not_true, Bool.not_false, Bool.or_self, Bool.false_eq_true, if_false,
    if_true]

variable (hargs : d.hintArgs x = true)
include hargs

/-- A HINT on objects takes those from its first slot on. -/
theorem hintOp_of_objects {o : Nat} (hlists : (x.n 33 1).testBit 0 = false) (ho : d.objStart x.desc = some o) :
    hintOp c d = d.hintAll c x (d.hintObjs o (x.n 36 4)) 0 := by
  simp only [hintOp, hpins, hstart, hrun, hx, hargs, hlists, ho, Bool.and_false, Bool.not_true, Bool.not_false, Bool.or_self, Bool.false_eq_true,
    if_false, if_true]

/-- A HINT on lists takes the objects that the entries of its lists point into; a target in no object is skipped. -/
theorem hintOp_of_lists {d1 d2 d3 d4 : Dev} {img : List Byte} {slot : Nat × Nat} {ws : List Want} {bs : List (Nat × Nat)}
    {es : Tab (List Byte)} {gs os : List Nat} (hlists : (x.n 33 1).testBit 0 = true) (hcoll : d.lookColl c x.coll = (d1, .ok img slot))
    (hshard : d1.shardOk img d1.curGen = true) (hrange : x.n 40 4 + x.n 36 4 ≤ cLists img)
    (hws : ws = [{ h := cDirTbl img, kind := 3, chk := 3 }]) (hbind : d1.bindLook c img ws = (d2, .ok bs))
    (hread : d2.readEntries c ((bs.head?.map d2.boundBase).getD 0) ((List.range (x.n 36 4)).map (fun i => x.n 40 4 + i)) = (d3, .ok es))
    (hd4 : d4 = (((d3.bindColl c x.coll false).1).bindAll c img ws).1.unbind c bs)
    (hgs : gs = ((Tab.vals es).map (fun b => (if (x.n 33 1).testBit 1 then [(dirEntOf b).seg] else []) ++
      (if (x.n 33 1).testBit 2 then [(dirEntOf b).refine] else []))).flatten) (hos : os = gs.filterMap d4.hintAt) :
    hintOp c d = d4.hintAll c x os (gs.length - os.length) := by
  subst hos hgs hd4 hws
  simp only [hintOp, hpins, hstart, hrun, hx, hargs, hlists, hcoll, hshard, Nat.not_lt.2 hrange, hbind, hread, Bool.and_false, Bool.not_true,
    Bool.or_self, Bool.false_eq_true, if_false]
end

/-! STAGING_FILL and TIER_LATE (R305, R309, R322). -/

section
variable {d : Dev} {o u c : Nat} {x : Channel} {r : FlashRead} {e : ObjEntry} (he : e = d.boundObj o 3) (hc : c = e.loc / 2 ^ 48)
  (hx : d.chan? c = some x) (hr : x.reads.find? (fun r => r.obj == o && r.ounit == u && r.decoded) = some r)
  (hen : d.enabled pgTack = true) (hprimary : e.primary = 3) (hunstaged : d.staged o u = false) {d1 : Dev}
  (hd1 : d1 = d.setChan c { x with reads := x.reads.erase r })
include he hc hx hr hen hprimary hunstaged hd1

theorem stagingFillOp_of_place {d2 : Dev} {k : Nat} {t : Tab StageUnit} (hplace : d1.stagePlace = some (k, t))
    (hd2 : d2 = { d1 with tack := { d1.tack with
      stage := Tab.set t k { obj := o, unit := u }, stageHand := k + 1,
      waits := d1.tack.waits.filter (fun w => !(w.obj == o && w.unit == u)) } }) : stagingFillOp o u d =
      ((d2.store (65536 * d2.fd R.stageBase 19 0 + 4096 * k) (d2.flashUnit c (e.loc % 2 ^ 48 + u))
        (d2.flashBad c (e.loc % 2 ^ 48 + u)).isSome).heatUp o).bump pgTack 0 10 := by
  subst hd2 hd1 hc he
  simp only [stagingFillOp, hx, hr, hen, hprimary, hunstaged, hplace, bne_self_eq_false, Bool.not_true, Bool.or_self, Bool.false_eq_true, if_false]

theorem stagingFillOp_of_full (hplace : d1.stagePlace = none) : stagingFillOp o u d = d.stageFull o u := by
  subst hd1 hc he
  simp only [stagingFillOp, hx, hr, hen, hprimary, hunstaged, hplace, bne_self_eq_false, Bool.not_true, Bool.or_self, Bool.false_eq_true, if_false]
end

theorem tierLateOp_of_late {d : Dev} {i : Nat} {w : StageWait} (hw : d.tack.waits[i]? = some w) (hnew : w.late = false)
    (hlate : w.since + usCycles (d.fd R.tackLate 15 0) < d.now) : tierLateOp i d =
      (({ d with tack := { d.tack with waits := d.tack.waits.set i { w with late := true } } } : Dev).stallReader w.who).bump pgTack 1 2 := by
  simp only [tierLateOp, hw, hnew, hlate, decide_true, Bool.not_true, Bool.or_self, Bool.false_eq_true, if_false]

/-! Extents on neighbours (R320, R321, R603). -/

section
variable {d : Dev} (hrun : d.runs pgTack = true)
include hrun

theorem nbrAddOp_of_runs : nbrAddOp d = d.nbrAddDo (d.fd R.nbrSel 5 0) := by
  simp only [nbrAddOp, hrun, Bool.not_true, Bool.false_eq_true, if_false]

theorem nbrWithdrawOp_of_runs : nbrWithdrawOp d = d.nbrLose (d.fd R.nbrSel 5 0) := if_pos hrun
end

section
variable {d : Dev} (hrun : d.runs pgTack = false)
include hrun

theorem nbrAddOp_of_stopped : nbrAddOp d = d.tackAsk (.nbrAdd (d.fd R.nbrSel 5 0)) := by
  simp only [nbrAddOp, hrun, Bool.not_false, if_true]

theorem nbrWithdrawOp_of_stopped : nbrWithdrawOp d = d.tackAsk (.nbrWithdraw (d.fd R.nbrSel 5 0)) := if_neg (ne_true_of_eq_false hrun)
end

theorem nbrStopOp_of_silent {d : Dev} {e : Nat} {x : NbrExt} (hx : Tab.find? d.tack.nbr e = some x) (hen : d.enabled pgTack = true)
    (hsilent : x.ackAt + msCycles d.nbrStopMs ≤ d.now) : nbrStopOp e d = d.nbrLose e := by
  simp only [nbrStopOp, hx, hen, hsilent, decide_true, Bool.and_self, if_true]

/-- Settles O46: heat, then HINT by its checks, the staging cache, and the extents. -/
theorem heatHintsAndStaging : Obligations.HeatHintsAndStaging := by
  intro q fu d
  refine ⟨?heat, ?applied, ?objects, ?lists, ?fields, ?staged, ?full, ?late, ?runs, ?stopped, ?silent⟩
  case heat => exact fun d1 hrun hdue hd1 => onDev_next (heatHalvingOp_of_due hrun hdue hd1) q fu
  case applied => exact fun c hc hlive hpins => onCtx_next hc (hintOp_of_applied hlive hpins) q fu
  case objects =>
    intro c x o hc hpins hstart hrun hx hargs hlists ho
    exact onCtx_next hc (hintOp_of_objects hpins hstart hrun hx hargs hlists ho) q fu
  case lists =>
    intro c x d1 d2 d3 d4 img slot ws bs es gs os hc hpins hstart hrun hx hargs hlists hcoll hshard hrange hws hbind hread hd4 hgs hos
    exact onCtx_next hc (hintOp_of_lists hpins hstart hrun hx hargs hlists hcoll hshard hrange hws hbind hread hd4 hgs hos) q fu
  case fields =>
    intro c x hc hpins hstart hrun hx hargs
    exact onCtx_next hc (hintOp_of_bad_fields hpins hstart hrun hx hargs) q fu
  case staged =>
    intro o u c x r d1 d2 k t e ho he hc hx hr hen hd1 hprimary hunstaged hplace hd2
    exact onNumbered_next ho (stagingFillOp_of_place he hc hx hr hen hprimary hunstaged hd1 hplace hd2) q fu
  case full =>
    intro o u c x r ho hc hx hr hen hprimary hunstaged hplace
    exact onNumbered_next ho (stagingFillOp_of_full rfl hc hx hr hen hprimary hunstaged rfl hplace) q fu
  case late => exact fun i w hw hnew hlate => onDev_next (tierLateOp_of_late hw hnew hlate) q fu
  case runs => exact fun hrun => ⟨onDev_next (nbrAddOp_of_runs hrun) q fu, onDev_next (nbrWithdrawOp_of_runs hrun) q fu⟩
  case stopped => exact fun hrun => ⟨onDev_next (nbrAddOp_of_stopped hrun) q fu, onDev_next (nbrWithdrawOp_of_stopped hrun) q fu⟩
  case silent => exact fun e x he hx hen hsilent => onNumbered_next he (nbrStopOp_of_silent hx hen hsilent) q fu

end Sys2Proof.Machine
end

section
/-! PROOFS. Leases at both ends (09_tiers_and_placement.md, 14_latigo_coherence.md): requests and their answers, renewals and losses at the
borrower; terms, reclaims, exports, windows and the sweep at the lender (R321, R449, R453 to R459, R467). -/

namespace Sys2Proof.Machine
open Sys2Proof

/-! LEASE_RENEW (R455): the checks in their order. -/

section
variable {d : Dev} {c : Nat} {x : Ctx} (hstart : d.canStart c 0x49 = true) (hx : d.ctx? c = some x)
include hstart hx

theorem leaseRenewOp_of_bad_fields (hargs : leaseArgsOk x d.node = false) : leaseRenewOp c d = d.finishSt c .invalidCmd := by
  simp only [leaseRenewOp, hstart, hx, hargs, Bool.not_true, Bool.not_false, Bool.false_eq_true, if_false, if_true]

theorem leaseRenewOp_of_fenced (hargs : leaseArgsOk x d.node = true) (hfenced : d.isFenced = true) :
    leaseRenewOp c d = d.finishSt c .fenced := by
  simp only [leaseRenewOp, hstart, hx, hargs, hfenced, Bool.not_true, Bool.false_eq_true, if_false, if_true]

/-- The request leaves and is waited for, or ends the command. -/
theorem leaseRenewOp_sends {d1 : Dev} {sent : Bool} {p : LeaseCmd} (hargs : leaseArgsOk x d.node = true) (hfenced : d.isFenced = false)
    (hrun : d.runs pgLat = true)
    (hsend : (d.start c).sendLease (.lease c x.cinc) (x.n 34 2) x.mapGen x.fn (.command c x.cinc) (slice x.entry 32 32) = (d1, sent))
    (hp : p = { op := x.n 32 1 % 4, auto := (x.n 32 1).testBit 2, node := x.n 34 2, handle := x.n 36 4, sent := d1.now }) :
    leaseRenewOp c d =
      if sent then { d1 with lat := { d1.lat with leaseCmds := Tab.set d1.lat.leaseCmds c p } } else d1.finishSt c .tierFail := by
  subst hp
  cases sent <;>
    simp only [leaseRenewOp, hstart, hx, hargs, hfenced, hrun, hsend, Bool.not_true, Bool.false_eq_true, if_false, if_true]
end

/-! Answers (R430): a response frees the tag entry of the request it answers, and one that answers none is counted. -/

section
variable {d : Dev} {m : Msg} {p b i : Nat} {fits : Nat → Bool} {k : Dev → TagEntry → Dev}

theorem Dev.response_of_match {t : Nat} {e : TagEntry} (hmatch : (d.took m).matchTag m = some (t, e)) (hfits : fits e.msg = true) :
    d.response m p b i fits k = k (((d.took m).freeTagEntry t).bump pgBuckle 1 1) e := by
  simp only [Dev.response, hmatch, hfits, if_true]

theorem Dev.response_of_no_match (hmatch : (d.took m).matchTag m = none) : d.response m p b i fits k = (d.took m).bump p b i := by
  simp only [Dev.response, hmatch]
end

/-! LEASE_GNT (R455, R456, R321): what the tag entry says the request was for. -/

theorem leaseGntOp_of_no_match {d : Dev} {m : Msg} (hmatch : (d.took m).matchTag m = none) (st h : Nat) :
    leaseGntOp m st h d = (d.took m).bump pgLat 0 6 := by
  rw [leaseGntOp, Dev.response_of_no_match hmatch]

section
variable {d d1 : Dev} {m : Msg} {st t : Nat} {e : TagEntry} {r : Status} (hmatch : (d.took m).matchTag m = some (t, e)) (hmsg : e.msg = 0x48)
  (hd1 : d1 = ((d.took m).freeTagEntry t).bump pgBuckle 1 1) (hr : r = if m.code = 0 then statusOf st else nackStatus m.code)
include hmatch hmsg hd1 hr

theorem leaseGntOp_of_command {c k : Nat} {p : LeaseCmd} (huse : e.use = .lease c k) (hlive : d1.isLive c k = true)
    (hp : Tab.find? d1.lat.leaseCmds c = some p) (h : Nat) : leaseGntOp m st h d = d1.leaseAnswer c p r h := by
  subst hr hd1
  simp only [leaseGntOp, Dev.response_of_match hmatch, hmsg, beq_self_eq_true, huse, hp, hlive, if_true, bne_iff_ne, ite_not]

theorem leaseGntOp_of_renewal {n g : Nat} (huse : e.use = .renewal n g) (h : Nat) : leaseGntOp m st h d =
    if r = .ok then d1.renewed n g e.sent else (d1.bump pgLat 0 11).loseHandle n g := by
  subst hr hd1
  simp only [leaseGntOp, Dev.response_of_match hmatch, hmsg, beq_self_eq_true, huse, bne_iff_ne, ite_not, beq_iff_eq]

theorem leaseGntOp_of_nbrRenew {x : Nat} (huse : e.use = .nbrRenew x) (h : Nat) : leaseGntOp m st h d =
    if r = .ok then ({ d1 with tack := { d1.tack with nbr := Tab.upd? d1.tack.nbr x (fun (n : NbrExt) =>
      { n with ackAt := d1.now, renewTag := none }) } } : Dev).renewed e.node h e.sent
    else (d1.bump pgLat 0 11).nbrLose x := by
  subst hr hd1
  simp only [leaseGntOp, Dev.response_of_match hmatch, hmsg, beq_self_eq_true, huse, bne_iff_ne, ite_not, beq_iff_eq]
end

/-! Renewals that are due, and terms that have passed (R321, R456). -/

theorem autoRenewalOp_of_due {d d1 d2 : Dev} {n h : Nat} {b : BorrowedLease} {sent : Bool} (hb : d.borrowed? n h = some b)
    (hauto : b.auto = true) (hheld : b.lost = false) (hfenced : d.isFenced = false) (hrun : d.runs pgLat = true)
    (hdue : b.lastSent + msCycles d.renewMs ≤ d.now)
    (hsend : d.sendLease (.renewal n h) n d.curGen b.fn .work (leaseBytes 1 1 (h % 256) n h) = (d1, sent))
    (hd2 : d2 = d1.putBorrowed { b with lastSent := d1.now }) : autoRenewalOp n h d = if sent then d2 else d2.bump pgLat 0 11 := by
  subst hd2
  cases sent <;>
    simp only [autoRenewalOp, hb, hauto, hheld, hfenced, hrun, Nat.not_lt.2 hdue, hsend, decide_false, Bool.not_true, Bool.or_self,
      Bool.false_eq_true, if_false, if_true]

theorem leaseLostOp_of_ended {d : Dev} {n h : Nat} {b : BorrowedLease} (hb : d.borrowed? n h = some b) (hended : b.since + leaseTerm ≤ d.now) :
    leaseLostOp n h d = d.leaseLost b := by
  simp only [leaseLostOp, hb, hended, if_true]

/-- The lender is the node that the window entry of the extent's base names. -/
theorem nbrRenewOp_of_due {d d1 d2 : Dev} {e : Nat} {x y : NbrExt} {sent : Bool} (hx : Tab.find? d.tack.nbr e = some x)
    (hst : x.st = .active) (htag : x.renewTag = none) (hrun : d.runs pgTack = true) (hfenced : d.isFenced = false)
    (hdue : x.renewAt + msCycles d.nbrRenewMs ≤ d.now)
    (hsend : d.sendLease (.nbrRenew e) (fld (d.rgb R.nwinMap (x.base % 2 ^ 44 / 2 ^ 34)) 29 18) d.curGen 0 .work
      (leaseBytes 1 0 (x.lease % 256) (fld (d.rgb R.nwinMap (x.base % 2 ^ 44 / 2 ^ 34)) 29 18) x.lease) = (d1, sent))
    (hy : y = { x with renewAt := d1.now, renewTag := if sent then some e else none })
    (hd2 : d2 = { d1 with tack := { d1.tack with nbr := Tab.set d1.tack.nbr e y } }) :
    nbrRenewOp e d = if sent then d2 else d2.bump pgLat 0 11 := by
  subst hd2 hy
  cases sent <;>
    simp only [nbrRenewOp, hx, hst, htag, hrun, hfenced, Nat.not_lt.2 hdue, hsend, bne_self_eq_false, Option.isSome_none, decide_false,
      Bool.not_true, Bool.or_self, Bool.false_eq_true, if_false, if_true]

/-! LEASE_REQ at the lender (R454, R455): the judgement, then the fields. -/

/-- Fields of a LEASE_REQ: 32 bytes, a known OP and no reserved bit. -/
theorem leaseReqOp_of_bad_fields {d : Dev} {m : Msg} (hrun : d.runs pgLat = true)
    (h : m.data.length ≠ 32 ∨ leAt m.data 0 1 % 4 = 3 ∨ 16 ≤ leAt m.data 0 1) :
    leaseReqOp m d = d.judgeThen m (fun d => d.cmpReply m 0x68 7) := by
  have hbad : (m.data.length != 32 || decide (leAt m.data 0 1 % 4 = 3) || decide (16 ≤ leAt m.data 0 1)) = true := by
    simpa [or_assoc] using h
  simp only [leaseReqOp, hrun, hbad, Bool.not_true, Bool.false_eq_true, if_false, if_true]

theorem leaseReqOp_of_good_fields {d : Dev} {m : Msg} (hrun : d.runs pgLat = true) (hlen : m.data.length = 32) (hop : leAt m.data 0 1 % 4 ≠ 3)
    (hzero : leAt m.data 0 1 < 16) : leaseReqOp m d = d.judgeThen m (fun d =>
      (d.leaseServe m).1.cmpReply m 0x68 0 (pay32 0x68 [(d.leaseServe m).2.1.code, (d.leaseServe m).2.2])) := by
  simp only [leaseReqOp, hrun, hlen, hop, Nat.not_le.2 hzero, bne_self_eq_false, decide_false, Bool.not_true, Bool.or_self, Bool.false_eq_true,
    if_false]

/-! Slots and exports at the lender (R454, R458). -/

section
variable {d : Dev} {e i : Nat} {x : LeaseSlot} (hx : Tab.find? d.lat.slots (64 * e + i) = some x)
include hx

theorem leaseTermEndOp_of_ended (hended : x.since + leaseTerm ≤ d.now) : leaseTermEndOp e i d =
    { d with lat := { d.lat with slots := Tab.set d.lat.slots (64 * e + i) { x with ended := true } } } := by
  simp only [leaseTermEndOp, hx, hended, if_true]

/-- A slot is reclaimed after the grace of its ended term, or at the end that a fence has set it. -/
theorem leaseReclaimOp_of_due (h : (x.ended = true ∧ x.since + leaseTerm + leaseGrace ≤ d.now) ∨ ∃ t, x.graceEnd = some t ∧ t ≤ d.now) :
    leaseReclaimOp e i d = d.reclaimSlot (64 * e + i) := by
  rcases h with ⟨hended, hgrace⟩ | ⟨t, ht, hgrace⟩
  · simp only [leaseReclaimOp, hx, hended, hgrace, decide_true, Bool.and_self, Bool.true_or, if_true]
  · simp only [leaseReclaimOp, hx, ht, hgrace, decide_true, Bool.or_true, if_true]
end

theorem exportInvalidateOp_of_valid {d d1 : Dev} {e : Nat} (hoff : d.enabled pgLat = false) (hvalid : fbit (d.rgb R.latExpCtl e) 0 = true)
    (hd1 : d1 = d.setRgb R.latExpCtl e (putFld (d.rgb R.latExpCtl e) 0 0 0)) :
    exportInvalidateOp e d = ((Tab.keys d1.lat.slots).filter (fun k => k / 64 == e)).foldl (fun d k => d.reclaimSlot k) d1 := by
  subst hd1
  simp only [exportInvalidateOp, hoff, hvalid, Bool.not_true, Bool.or_self, Bool.false_eq_true, if_false]

theorem windowEnableOp_of_disabled {d : Dev} (hoff : d.enabled pgLat = false) (w : Nat) : windowEnableOp w d =
    if 65536 * d.fd R.latDirLen 11 0 < fld (d.rgb R.latWinDir w) 27 0 + d.winLen w / 64 then d.setErr pgLat 1 (d.winBase w)
    else d.setRgb R.latWinCtl w (putFld (d.rgb R.latWinCtl w) 0 0 1) := by
  simp only [windowEnableOp, hoff, Bool.false_eq_true, if_false]

/-- The nodes that entered before the sweep began leave the list, each with its event (R459). -/
theorem reclaimDoneOp_of_sweeping {d d1 d2 : Dev} {out : List Reclaim} (hrun : d.runs pgLat = true) (hsweep : d.fd R.latCfg 7 7 ≠ 0)
    (hd1 : d1 = d.listedEntries.foldl (fun d e => d.sweepEntry e) d)
    (hout : out = d1.lat.reclaim.filter (fun r => decide (r.entered < d1.lat.sweepFrom)))
    (hd2 : d2 = { d1 with lat := { d1.lat with
      reclaim := d1.lat.reclaim.filter (fun r => !decide (r.entered < d1.lat.sweepFrom)), sweepFrom := d1.now } }) :
    reclaimDoneOp d = (Dev.reclaimFill 32
      (out.foldl (fun d r => d.latEvent { node := r.node, typ := 4, info := r.handle }) d2)).bump pgLat 0 16 := by
  subst hd2 hout hd1
  simp only [reclaimDoneOp, hrun, hsweep, List.partition_eq_filter_filter, decide_false, Bool.not_true, Bool.or_self, Bool.false_eq_true,
    if_false]
  rfl

/-- Settles O47: the borrower's rows, then the lender's. -/
theorem leases : Obligations.Leases := by
  intro q fu d
  refine ⟨?renew, ?granted, ?unasked, ?auto, ?lost, ?nbrRenew, ?request, ?slot, ?invalid, ?window, ?suspect, ?sweep⟩
  case renew =>
    intro c x hc hstart hx
    exact ⟨fun hargs => onCtx_next hc (leaseRenewOp_of_bad_fields hstart hx hargs) q fu,
      fun hargs hfenced => onCtx_next hc (leaseRenewOp_of_fenced hstart hx hargs hfenced) q fu,
      fun d1 sent p hargs hfenced hrun hsend hp =>
        onCtx_next hc (leaseRenewOp_sends hstart hx hargs hfenced hrun hsend hp) q fu⟩
  case granted =>
    intro m st h t e d1 r hmatch hmsg hd1 hr
    exact ⟨fun c k p huse hlive hp => onDev_next (leaseGntOp_of_command hmatch hmsg hd1 hr huse hlive hp h) q fu,
      fun n g huse => onDev_next (leaseGntOp_of_renewal hmatch hmsg hd1 hr huse h) q fu,
      fun x huse => onDev_next (leaseGntOp_of_nbrRenew hmatch hmsg hd1 hr huse h) q fu⟩
  case unasked => exact fun m st h hmatch => onDev_next (leaseGntOp_of_no_match hmatch st h) q fu
  case auto =>
    intro n h b d1 d2 sent hb hauto hheld hfenced hrun hdue hsend hd2
    exact onDev_next (autoRenewalOp_of_due hb hauto hheld hfenced hrun hdue hsend hd2) q fu
  case lost => exact fun n h b hb hended => onDev_next (leaseLostOp_of_ended hb hended) q fu
  case nbrRenew =>
    intro e x d1 sent y d2 he hx hst htag hrun hfenced hdue hsend hy hd2
    exact onNumbered_next he (nbrRenewOp_of_due hx hst htag hrun hfenced hdue hsend hy hd2) q fu
  case request =>
    intro m hrun
    exact ⟨fun hlen hop hzero => onDev_next (leaseReqOp_of_good_fields hrun hlen hop hzero) q fu,
      fun h => onDev_next (leaseReqOp_of_bad_fields hrun h) q fu⟩
  case slot =>
    intro e i x he hi hx
    exact ⟨fun hended => onPair_next he hi (leaseTermEndOp_of_ended hx hended) q fu,
      fun h => onPair_next he hi (leaseReclaimOp_of_due hx h) q fu⟩
  case invalid => exact fun e d1 he hoff hvalid hd1 => onNumbered_next he (exportInvalidateOp_of_valid hoff hvalid hd1) q fu
  case window => exact fun w hw hoff => onNumbered_next hw (windowEnableOp_of_disabled hoff w) q fu
  case suspect => exact fun n a hn ha => onPair_next hn ha rfl q fu
  case sweep => exact fun d1 d2 out hrun hsweep hd1 hout hd2 => onDev_next (reclaimDoneOp_of_sweeping hrun hsweep hd1 hout hd2) q fu

end Sys2Proof.Machine
end

section
/-! PROOFS. Awl units and Hide stacks (10_hide_stacks_and_awl.md): sequences, their steps and fences, and a run's attention (R334, R338 to R343,
R348); refresh, stitches and stacks that go out of service (R326, R332, R333, R352). -/

namespace Sys2Proof.Machine
open Sys2Proof

/-- AWL_SEQ (R334, R339): a command that passes the checks of its entry, its descriptor and its stack starts its sequence. The descriptor is
read before its fields are checked (assumption log 38). -/
theorem awlSeqOp_starts {d d1 : Dev} {c : Nat} {x : Ctx} {b : List Byte} (hstart : d.canStart c 0x20 = true) (hx : d.ctx? c = some x)
    (hentry : d.seqEntryOk x = true) (hneed : d.need c x.desc x.descLen = (d1, .ok b)) (hdesc : d1.seqDescOk x b = true)
    (hserves : d1.stackOut (seqStack b) = false) :
    awlSeqOp c d =
      ((((d1.start c).setDeadline c (x.n 32 4)).bump (pgAwl (seqStack b)) 0 0).setSeq c (seqOf x b)).seqUnits c := by
  simp only [awlSeqOp, hstart, hx, hentry, hneed, hdesc, hserves, GotV.after_ok, Bool.not_true, Bool.false_eq_true, if_false]

/-! A sequence whose command is live and whose stack and units run does its work (R338, R340). -/

section
variable {d d1 : Dev} {c : Nat} {x : AwlSeq} (hx : d.seq? c = some x) (hlive : d.live c = true) (hserves : d.stackOut x.stack = false)
  (hawl : d.runs (pgAwl x.stack) = true) (hhide : d.runs (pgHide x.stack) = true)
include hx hlive hserves hawl hhide

theorem Dev.seqGo_of_working (k : Dev → AwlSeq → Dev) : d.seqGo c k = k d x := by
  simp only [Dev.seqGo, hx, hlive, hserves, hawl, hhide, Bool.not_true, Bool.or_self, Bool.false_eq_true, if_false]

variable (hbegun : x.begun = true)
include hbegun

theorem awlStepDoneOp_of_rows {n : Nat} (hop : (x.at x.step).op ≠ 8)
    (hrows : d.awlRows (hideBase + 2 ^ 36 * x.stack) (x.at x.step) (List.range (x.at x.step).rows) = (d1, n, true)) :
    awlStepDoneOp c d = d1.stepOver c x n := by
  rw [awlStepDoneOp, Dev.seqGo_of_working hx hlive hserves hawl hhide]
  simp only [hbegun, hop, hrows, Bool.not_true, Bool.false_eq_true, if_false]

theorem attnOp_of_row {r : Nat} (hop : (x.at x.step).op = 8) (hr : r < (x.at x.step).rows) (hnew : x.attnDone.contains r = false)
    (hrow : d.awlRow (hideBase + 2 ^ 36 * x.stack) (x.at x.step) r = (d1, true)) :
    attnOp false c r d =
      (d1.bump (pgAwl x.stack) 0 12 (x.at x.step).tokens).setSeq c { x with attnDone := insNat x.attnDone r } := by
  rw [attnOp, if_neg Bool.false_ne_true, Dev.seqGo_of_working hx hlive hserves hawl hhide]
  simp only [hbegun, hop, Nat.not_le.2 hr, hnew, hrow, bne_self_eq_false, decide_false, Bool.not_true, Bool.or_self, Bool.false_eq_true,
    if_false]
end

/-- A run whose attention is written goes on once no cache holds a line of its arena (R284, R344). -/
theorem Dev.attnRun_of_written {d : Dev} {n : Nat} {x : Run} (hx : d.run? n = some x) (hattn : x.attn = true) (hout : x.attnOut = true)
    (hfree : d.blocked (localPart (x.arena (d.runHdr x))) (2 ^ 20 * mKv (d.runHdr x)) true = false) :
    d.attnRun n = d.enterStage n (x.stage + 1) := by
  simp only [Dev.attnRun, Dev.attnNext, hx, hattn, hout, hfree, Bool.not_true, Bool.false_eq_true, if_false, if_true]

/-- AWL_FENCE (R343): a first execution with good fields keeps what the fence waits for; it
completes at once where that is nothing. -/
theorem awlFenceOp_waits {d : Dev} {c : Nat} {x : Ctx} {a : AwlFence} (hfirst : Tab.has d.hide.fences c = false)
    (hstart : d.canStart c 0x21 = true) (hx : d.ctx? c = some x) (hflags : x.cflagsOk = true) (hzero : x.zeroFrom 34 = true)
    (hmask : x.n 32 2 ≠ 0) (ha : a = { mask := x.n 32 2, seq := x.seq, runs := d.attnRunsOn (x.n 32 2) }) :
    awlFenceOp c d =
      ({ d.start c with hide := { (d.start c).hide with fences := Tab.set (d.start c).hide.fences c a } } : Dev).fenceTry := by
  subst ha
  simp only [awlFenceOp, hfirst, hstart, hx, hflags, hzero, bne_iff_ne.2 hmask, Bool.not_true, Bool.and_self, Bool.false_eq_true, if_false]

/-- Settles O25: a sequence's start, its steps and its rows of attention, the attention of a run, and a fence. -/
theorem awlSequences : Obligations.AwlSequences := by
  intro q fu d c hc
  refine ⟨?starts, ?steps, ?row, ?run, ?written, ?fence⟩
  case starts =>
    intro x b d1 hstart hx hentry hneed hdesc hserves
    exact onCtx_next hc (awlSeqOp_starts hstart hx hentry hneed hdesc hserves) q fu
  case steps =>
    intro x d1 n hx hlive hserves hawl hhide hbegun hop hrows
    exact onCtx_next hc (awlStepDoneOp_of_rows hx hlive hserves hawl hhide hbegun hop hrows) q fu
  case row =>
    intro x d1 r hx hlive hserves hawl hhide hbegun hop hr hnew hrow
    exact onDev_next (attnOp_of_row hx hlive hserves hawl hhide hbegun hop hr hnew hrow) q fu
  case run => exact fun n r => onDev_next (op := attnOp true n r) rfl q fu
  case written =>
    intro n r x h hx hattn hout hh hfree
    subst hh
    exact onDev_next (op := attnOp true n r) (Dev.attnRun_of_written hx hattn hout hfree) q fu
  case fence =>
    intro x d1 a hfirst hstart hx hflags hzero hmask hd1 ha
    subst hd1
    exact onCtx_next hc (awlFenceOp_waits hfirst hstart hx hflags hzero hmask ha) q fu

/-! REFRESH_DUE (R326, R332): banks 2u and 2u + 1 are those of unit u. -/

section
variable {d : Dev} {n b : Nat} (hself : (d.stack n).selfRefresh = false) (hserves : d.stackOut n = false)
include hself hserves

theorem refreshDueOp_of_stitched (hbusy : Tab.has (d.stack n).stitches (b / 2) = true) (hnew : (d.stack n).refreshWait.contains b = false) :
    refreshDueOp n b d =
      (d.setStack n { d.stack n with refreshWait := insNat (d.stack n).refreshWait b }).bump (pgHide n) 0 3 := by
  simp only [refreshDueOp, hself, hserves, hbusy, hnew, Bool.or_self, Bool.false_eq_true, if_false, if_true]

theorem refreshDueOp_of_free (hfree : Tab.has (d.stack n).stitches (b / 2) = false) : refreshDueOp n b d = d.bump (pgHide n) 0 2 := by
  simp only [refreshDueOp, hself, hserves, hfree, Bool.or_self, Bool.false_eq_true, if_false]
end

/-! STITCH_END (R333): the unit is freed whoever owned it; the owner decides where the cycles go that the late refreshes took, 80 WCLK each
(assumption log 38). -/

/-- How many refreshes wait for unit u of stack n. -/
def Dev.lateRefreshes (d : Dev) (n u : Nat) : Nat := ((d.stack n).refreshWait.filter (fun b => b / 2 == u)).length

/-- What every stitch end does on its stack: unit u is free, the refreshes that waited for it are done, and their cycles are yielded. -/
def Dev.stitchFreed (d : Dev) (n u : Nat) : Dev :=
  ((d.setStack n { d.stack n with
    stitches := Tab.del (d.stack n).stitches u, refreshWait := (d.stack n).refreshWait.filter (fun b => b / 2 != u) }).bump
      (pgHide n) 0 2 (d.lateRefreshes n u)).bump (pgAwl n) 0 4 (80 * d.lateRefreshes n u)

section
variable {d : Dev} {n u k : Nat} {s : Stitch} (hs : Tab.find? (d.stack n).stitches u = some s)
include hs

/-- Scans and attention of the device yield to a counter of their own. -/
theorem stitchEndOp_of_device (howner : s.owner = .stream k ∨ s.owner = .attn k) :
    stitchEndOp n u d = (d.stitchFreed n u).bump (pgAwl n) 0 5 (80 * d.lateRefreshes n u) := by
  rcases howner with howner | howner <;> simp only [stitchEndOp, Dev.stitchFreed, Dev.lateRefreshes, hs, howner]

theorem stitchEndOp_of_seq {x : AwlSeq} (howner : s.owner = .seq k) (hx : (d.stitchFreed n u).seq? k = some x) :
    stitchEndOp n u d = (d.stitchFreed n u).setSeq k { x with yielded := x.yielded + 80 * d.lateRefreshes n u } := by
  simp only [Dev.stitchFreed, Dev.lateRefreshes] at hx ⊢
  simp only [stitchEndOp, hs, howner, hx]

theorem stitchEndOp_of_pool (howner : s.owner = .pool k) : stitchEndOp n u d = d.stitchFreed n u := by
  simp only [stitchEndOp, Dev.stitchFreed, Dev.lateRefreshes, hs, howner]
end

/-- Settles O26: refreshes of busy and free banks, the end of a stitch by its owner, and the two ways a stack goes out of service. -/
theorem refreshAndStitches : Obligations.RefreshAndStitches := by
  intro q fu d n hn
  refine ⟨?refresh, ?device, ?seq, ?pool, ?lane, ?offline⟩
  case refresh =>
    intro b hb hself hserves
    exact ⟨fun hbusy hnew => onPair_next hn hb (refreshDueOp_of_stitched hself hserves hbusy hnew) q fu,
      fun hfree => onPair_next hn hb (refreshDueOp_of_free hself hserves hfree) q fu⟩
  case device =>
    intro u s k due rest w hu hs howner hdue hrest hw
    subst hdue hrest hw
    exact onPair_next hn hu (stitchEndOp_of_device hs howner) q fu
  case seq =>
    intro u s k x due rest w hu hs howner hdue hrest hw hx
    subst hdue hrest hw
    exact onPair_next hn hu (stitchEndOp_of_seq hs howner hx) q fu
  case pool =>
    intro u s k due rest w hu hs howner hdue hrest hw
    subst hdue hrest hw
    exact onPair_next hn hu (stitchEndOp_of_pool hs howner) q fu
  case lane => exact onNumbered_next hn (f := laneFailOp n) rfl q fu
  case offline => exact onNumbered_next hn (f := offlineReqOp n) rfl q fu

end Sys2Proof.Machine
end

section
/-! PROOFS. Flash (11_flash_currier_edger.md): channels that come up, go out of service, are read, written back and emptied (R356 to R365, R370,
R373). -/

namespace Sys2Proof.Machine
open Sys2Proof

/-- A command of die n of a channel that the part has. -/
theorem onDie_next {d d1 : Dev} {c n : Nat} (hc : c < d.part.channels) (hn : n < 16) {f : Dev → Dev} (h : f d = d1) (q : List Instr)
    (fu : Fuses) : onUnit (fun d => decide (c < d.part.channels) && decide (n < 16)) f ⟨q, fu, d⟩ = .next ⟨q, fu, d1⟩ :=
  onUnit_next (by rw [decide_eq_true hc, decide_eq_true hn]; rfl) h q fu

/-- Work whose items are not all selected enters them and waits (R482). -/
theorem Dev.viaRein_of_not_given {d : Dev} {i : Nat} {its : List ReinItem} (h : d.reinGiven i its = false) (strict : Option Nat)
    (k : Dev → Dev) : d.viaRein i strict its k = d.reinEnter i strict its :=
  if_neg (ne_true_of_eq_false h)

/-- BUS_BRINGUP (R357, R359): a channel not tried yet, with channel 0 up before any other. -/
theorem busBringupOp_of_untried {d d1 d2 : Dev} {c a : Nat} {p : FlashProbe} (hnew : (Tab.getD d.flash.ch c {}).up = false)
    (hrun : d.runs pgCur = true) (hfirst : c = 0 ∨ d.chanUp 0 = true)
    (hd1 : d1 = (if d.bringupCause c p = 0 then d.setChan c (d.chanFound c p) else (d.setChan c (d.chanFound c p)).setInt pgCur 0))
    (ha : a = 4096 * (d1.addr52 R.curProfileLo R.curProfileHi / 4096))
    (hd2 : d2 = (if c = 0 ∧ d.profileOk p = true then
      d1.setRg R.holdupTprog (w32 (d1.peekN (a + 24) 2 + 65536 * d1.peekN (a + 26) 2)) else d1)) :
    busBringupOp c p d = if (List.range d2.part.channels).all (fun i => d2.chanUp i) = true then d2.formatState else d2 := by
  have hturn : (c != 0 && !d.chanUp 0) = false := by
    rcases hfirst with rfl | h
    · rfl
    · rw [h, Bool.not_true, Bool.and_false]
  subst hd2 ha hd1
  simp only [busBringupOp, hnew, hrun, hturn, Bool.not_true, Bool.or_self, Bool.false_eq_true, if_false, Bool.and_eq_true,
    decide_eq_true_eq]

/-- No program and no undecoded read is on a die. -/
def Channel.dieIdle (x : Channel) (die : Nat) : Prop :=
  (∀ p ∈ x.progs, p.die ≠ die) ∧ ∀ r ∈ x.reads, r.decoded = true ∨ ∀ k, r.block = some k → k / 4096 ≠ die

/-- The block of a read takes pages, or is full and not verified: step 4 may decode there. -/
def Channel.softBlock (x : Channel) (r : FlashRead) : Bool :=
  match r.block with
  | some k => (x.block k).st == .opened || (x.block k).st == .full
  | none => false

theorem Channel.softBlock_of_some {x : Channel} {r : FlashRead} {k : Nat} (hk : r.block = some k)
    (h : (x.block k).st = .opened ∨ (x.block k).st = .full) : x.softBlock r = true := by
  simpa only [Channel.softBlock, hk, Bool.or_eq_true, beq_iff_eq] using h

theorem Channel.softBlock_eq_false {x : Channel} {r : FlashRead}
    (h : ∀ k, r.block = some k → (x.block k).st ≠ .opened ∧ (x.block k).st ≠ .full) : x.softBlock r = false := by
  cases hb : r.block with
  | none => simp only [Channel.softBlock, hb]
  | some k =>
    obtain ⟨hopened, hfull⟩ := h k hb
    simp only [Channel.softBlock, hb, Bool.or_eq_false_iff, beq_eq_false_iff_ne]
    exact ⟨hopened, hfull⟩

section
variable {d : Dev} {c : Nat} {x : Channel} (hx : d.chan? c = some x)
include hx

/-! ZQ_CALIBRATION (R358) and MAP_WRITEBACK (R365). -/

theorem zqCalibrationOp_of_given {die : Nat} {its : List ReinItem} (hdie : die < x.dies) (hruns : d.chanRuns c = true)
    (hidle : x.dieIdle die) (hdue : Tab.getD x.zqAt die 0 + msCycles (max (d.fd R.curOnfi 15 8) 1) ≤ d.now)
    (hits : its = [d.flashItem c die .calibrate 0 64 d.workCharge]) (hgiven : d.reinGiven (chanRein c) its = true) :
    zqCalibrationOp c die d =
      (d.reinUse (chanRein c) its).setChan c { x with zqAt := Tab.set x.zqAt die (d.reinUse (chanRein c) its).now } := by
  obtain ⟨hprogs, hreads⟩ := hidle
  subst hits
  simp only [zqCalibrationOp, hx]
  refine (if_pos ?_).trans (Dev.viaRein_of_given hgiven _ _)
  simp only [hruns, hdie, hdue, decide_true, Bool.true_and, Bool.and_true, Bool.and_eq_true, List.all_eq_true, bne_iff_ne, Bool.or_eq_true]
  refine ⟨hprogs, fun r hr => (hreads r hr).imp_right fun h => ?_⟩
  cases hb : r.block with
  | none => rfl
  | some k => exact bne_iff_ne.2 (h k hb)

section
variable {page : Nat} {its : List ReinItem} (hruns : d.chanRuns c = true) (hdirty : Tab.has x.dirty page = true)
  (hits : its = [d.flashItem c (page % max x.dies 1) (.map page) 0 4096 d.workCharge])
include hruns hdirty hits

theorem mapWritebackOp_of_given (hgiven : d.reinGiven (chanRein c) its = true) : mapWritebackOp c page d =
    ((d.reinUse (chanRein c) its).setChan c
      { x with dirty := Tab.del x.dirty page, stale := x.stale.filter (fun e => mapPage e.1 != page) }).bump pgCur 0 12 := by
  subst hits
  simp only [mapWritebackOp, hx, hruns, hdirty, Bool.and_self, if_true]
  exact Dev.viaRein_of_given hgiven _ _

theorem mapWritebackOp_of_not_given (hgiven : d.reinGiven (chanRein c) its = false) :
    mapWritebackOp c page d = d.reinEnter (chanRein c) none its := by
  subst hits
  simp only [mapWritebackOp, hx, hruns, hdirty, Bool.and_self, if_true]
  exact Dev.viaRein_of_not_given hgiven _ _
end

/-! READ_DECODE (R361, R362): what the step that yielded an outstanding unit, and the block it lies in, lead to. -/

section
variable {lu step bits : Nat} {r : FlashRead} {y : Channel} {d1 : Dev}
  (hr : x.reads.find? (fun r => r.lu == lu && !r.decoded) = some r) (hgiven : d.reinGiven (chanRein c) (d.readItems c r) = true)
  (hd1 : d1 = (if 2 ≤ step then (d.reinUse (chanRein c) (d.readItems c r)).bump pgCur 0 3 else d.reinUse (chanRein c) (d.readItems c r)))
  (hy : y = { x with reads := x.reads.map (fun q => if q.lu == lu then { q with decoded := true } else q) })
include hr hgiven hd1 hy

theorem readDecodeOp_of_given : readDecodeOp c lu step bits d =
    if 5 ≤ step ∨ (step = 4 ∧ x.softBlock r = false) then (d1.setChan c { y with lost := insNat x.lost lu }).bump pgCur 0 5
    else if 2 ≤ step ∨ (if step = 4 then d1.bump pgCur 0 4 else d1).fd R.curLdpc 15 8 < bits then
      ((if step = 4 then d1.bump pgCur 0 4 else d1).setChan c { y with refresh := insNat x.refresh lu }).refreshOne c lu
    else (if step = 4 then d1.bump pgCur 0 4 else d1).setChan c y := by
  subst hd1 hy
  cases hb : r.block <;>
    simp only [readDecodeOp, hx, hr, Dev.viaRein_of_given hgiven, Channel.softBlock, hb, Bool.or_eq_true, Bool.and_eq_true,
      decide_eq_true_eq, Bool.not_eq_true']

theorem readDecodeOp_of_lost (h : 5 ≤ step ∨ step = 4 ∧ x.softBlock r = false) :
    readDecodeOp c lu step bits d = (d1.setChan c { y with lost := insNat x.lost lu }).bump pgCur 0 5 :=
  (readDecodeOp_of_given hx hr hgiven hd1 hy).trans (if_pos h)

theorem readDecodeOp_of_clean (hstep : step < 2) (hbits : bits ≤ d1.fd R.curLdpc 15 8) :
    readDecodeOp c lu step bits d = d1.setChan c y := by
  have h4 : step ≠ 4 := by omega
  rw [readDecodeOp_of_given hx hr hgiven hd1 hy, if_neg (by omega), if_neg h4, if_neg (by omega)]

theorem readDecodeOp_of_soft (hstep : step = 4) (hsoft : x.softBlock r = true) : readDecodeOp c lu step bits d =
    ((d1.bump pgCur 0 4).setChan c { y with refresh := insNat x.refresh lu }).refreshOne c lu := by
  rw [readDecodeOp_of_given hx hr hgiven hd1 hy, if_neg (by simp [hstep, hsoft]), if_pos (.inl (by omega)), if_pos hstep]

theorem readDecodeOp_of_worn (hstep : step < 4) (h : 2 ≤ step ∨ d1.fd R.curLdpc 15 8 < bits) : readDecodeOp c lu step bits d =
    (d1.setChan c { y with refresh := insNat x.refresh lu }).refreshOne c lu := by
  have h4 : step ≠ 4 := by omega
  rw [readDecodeOp_of_given hx hr hgiven hd1 hy, if_neg (by omega), if_neg h4, if_pos h]
end

/-- DEALLOCATE (R364): the oldest storage freed on the channel. -/
theorem deallocateOp_of_freed {a : Alloc} {d1 : Dev} (ha : d.tack.deallocs.find? (fun a => a.pool == .flash c) = some a)
    (hready : d.curState = 2) (hrun : d.runs pgCur = true) (hflush : d.flushing = false)
    (hd1 : d1 = { d with tack := { d.tack with deallocs := d.tack.deallocs.erase a } }) :
    deallocateOp c d = (d1.setChan c (x.deallocate d1.now (16 * a.start) (16 * a.len))).bump pgCur 0 2 (16 * a.len) := by
  subst hd1
  simp only [deallocateOp, ha, hx, hready, hrun, hflush, beq_self_eq_true, Bool.not_false, Bool.and_self, if_true]

/-- CURRIER_READ (R363, R364): a unit that waits, and that no outstanding READ has, binds its location. -/
theorem currierReadOp_of_waiting {o u lu : Nat} {r : FlashRead} {d1 : Dev} (hc : (d.boundObj o 3).loc / 2 ^ 48 = c)
    (hruns : d.chanRuns c = true) (hprimary : (d.boundObj o 3).primary = 3)
    (hwaits : d.tack.waits.any (fun w => w.obj == o && w.unit == u) = true)
    (hnew : x.reads.any (fun r => r.obj == o && r.ounit == u) = false) (hlu : lu = (d.boundObj o 3).loc % 2 ^ 48 + u)
    (hr : r = { obj := o, ounit := u, lu := lu, block := (Tab.find? x.map lu).map (fun l => l / 32768),
                decoded := (Tab.find? x.map lu).isNone })
    (hd1 : d1 = d.reinForget (chanRein c) (.flash 0 (.read o u) 0)) :
    currierReadOp o u d =
      ((d1.setChan c { x with reads := x.reads ++ [r] }).bump pgCur 0 0).reinEnter (chanRein c) (d.readCharge o u).strict
        (d1.readItems c r) := by
  subst hd1 hr hlu hc
  simp only [currierReadOp, hx, hruns, hprimary, hwaits, hnew, bne_self_eq_false, Bool.not_true, Bool.or_self, Bool.false_eq_true, if_false]
end

/-- Settles O43: a channel's bring-up, its two ends of service, and the work of its dies past the channel's Rein. -/
theorem flashChannels : Obligations.FlashChannels := by
  intro q fu d c hc
  refine ⟨?bringup, ?timeout, ?offline, fun x hx => ⟨?calibrate, ?writeback, ?decode, ?deallocate⟩, ?read⟩
  case bringup =>
    intro p a d1 d2 hnew hrun hfirst hd1 ha hd2
    exact onChannel_next hc (busBringupOp_of_untried hnew hrun hfirst hd1 ha hd2) q fu
  case timeout => exact onChannel_next hc (f := dieTimeoutOp c) rfl q fu
  case offline => exact onDev_next (op := channelOfflineOp) rfl q fu
  case calibrate =>
    intro die its hn hdie hruns hprogs hreads hdue hits hgiven
    exact onDie_next hc hn (zqCalibrationOp_of_given hx hdie hruns ⟨hprogs, hreads⟩ hdue hits hgiven) q fu
  case writeback =>
    intro page its hruns hdirty hits
    exact ⟨fun hgiven => onChannel_next hc (mapWritebackOp_of_given hx hruns hdirty hits hgiven) q fu,
      fun hgiven => onChannel_next hc (mapWritebackOp_of_not_given hx hruns hdirty hits hgiven) q fu⟩
  case decode =>
    intro lu step bits r y d1 hr hgiven hd1 hy
    refine ⟨fun h => ?lost, fun hstep hbits => ?clean, fun k hstep hk h => ?soft, fun hstep h => ?worn⟩
    case lost =>
      exact onChannel_next hc (readDecodeOp_of_lost hx hr hgiven hd1 hy
        (h.imp_right fun ⟨hstep, hhard⟩ => ⟨hstep, Channel.softBlock_eq_false hhard⟩)) q fu
    case clean => exact onChannel_next hc (readDecodeOp_of_clean hx hr hgiven hd1 hy hstep hbits) q fu
    case soft =>
      exact onChannel_next hc (readDecodeOp_of_soft hx hr hgiven hd1 hy hstep (Channel.softBlock_of_some hk h)) q fu
    case worn => exact onChannel_next hc (readDecodeOp_of_worn hx hr hgiven hd1 hy hstep h) q fu
  case deallocate =>
    intro a d1 ha hready hrun hflush hd1
    exact onChannel_next hc (deallocateOp_of_freed hx ha hready hrun hflush hd1) q fu
  case read =>
    intro o u x r lu d1 hloc hx hruns hprimary hwaits hnew hlu hr hd1
    exact onDev_next (currierReadOp_of_waiting hx hloc hruns hprimary hwaits hnew hlu hr hd1) q fu

end Sys2Proof.Machine
end

section
/-! PROOFS. Flash (11_flash_currier_edger.md): blocks that are programmed, folded, collected, erased and verified, the format and the end of a
restart (R366 to R372, R376, R377, R382, R389). -/

namespace Sys2Proof.Machine
open Sys2Proof

/-- A command of a block of a channel that the part has. -/
theorem onBlock_next {d d1 : Dev} {c die blk : Nat} (hc : c < d.part.channels) (hdie : die < 16) (hblk : blk < 4096) {f : Dev → Dev}
    (h : f d = d1) (q : List Instr) (fu : Fuses) :
    onUnit (fun d => decide (c < d.part.channels) && decide (die < 16) && decide (blk < 4096)) f ⟨q, fu, d⟩ = .next ⟨q, fu, d1⟩ :=
  onUnit_next (by rw [decide_eq_true hc, decide_eq_true hdie, decide_eq_true hblk]; rfl) h q fu

/-- What a piece of work uses up at its Rein is no part of the flash. -/
theorem Dev.flash_reinUse (d : Dev) (i : Nat) (its : List ReinItem) : (d.reinUse i its).flash = d.flash :=
  foldl_keeps (fun e : Dev => e.flash = d.flash) (fun (d : Dev) (it : ReinItem) => d.reinUngive i it.kind) (fun _ _ h => h) its d rfl

/-! PROGRAM_DONE (R366, R371, R377). -/

/-- A program of `ns` ns that is slower than its TPROG raises TPROG and TPROG_SLOW (R377). -/
def Dev.tprogRaised (d : Dev) (p : Prog) (ns : Nat) : Dev :=
  if (if p.native then d.fd R.holdupTprog 31 16 else d.fd R.holdupTprog 15 0) < ceilDiv ns 1000 then
    ((d.setFd R.holdupTprog (if p.native then 31 else 15) (if p.native then 16 else 0) (min (ceilDiv ns 1000) 65535)).setInt
      pgHoldup 1).bump pgHoldup 0 (if p.native then 4 else 3)
  else d

theorem Dev.chan?_of_taken {d d0 : Dev} {c i : Nat} {x : Channel} {its : List ReinItem} (hx : d.chan? c = some x)
    (hd0 : d0 = (if d.flushing = true then d else d.reinUse i its)) : d0.chan? c = some x := by
  subst hd0
  split
  · exact hx
  · rw [Dev.chan?, Dev.flash_reinUse]
    exact hx

section
variable {d d0 d1 : Dev} {c die ns : Nat} {x : Channel} {p : Prog} (hx : d.chan? c = some x)
  (hp : x.progs.find? (fun p => p.die == die) = some p)
include hx hp

section
variable (hd1 : d1 = d.tprogRaised p ns)
include hd1

theorem Dev.programEnd_of_good :
    d.programEnd c die ns true = (d1.setChan c (({ x with progs := x.progs.erase p } : Channel).programmed d1.now p)).chanGo c := by
  subst hd1
  simp only [Dev.programEnd, Dev.tprogRaised, hx, hp, Bool.not_true, Bool.false_eq_true, if_false]
  cases p.native <;> rfl

theorem Dev.programEnd_of_failed :
    d.programEnd c die ns false = ((d1.setChan c { x with progs := x.progs.erase p }).blockRetire c p.block).chanGo c := by
  subst hd1
  simp only [Dev.programEnd, Dev.tprogRaised, hx, hp, Bool.not_false, if_true]
  cases p.native <;> rfl
end

section
variable (hgo : d.flushing = true ∨ d.reinGiven (chanRein c) (d.progItems c x p) = true)
  (hd0 : d0 = (if d.flushing = true then d else d.reinUse (chanRein c) (d.progItems c x p)))
include hgo hd0

/-- A program ends once its bus has taken it; a flush runs outside Rein (R380). -/
theorem programDoneOp_of_taken (ok : Bool) : programDoneOp c die ns ok d = d0.programEnd c die ns ok := by
  subst hd0
  simp only [programDoneOp, hx, hp, Option.bind_some, Option.map_some]
  by_cases hflush : d.flushing = true
  · rw [if_pos hflush, if_pos hflush]
  · rw [if_neg hflush, if_neg hflush]
    exact Dev.viaRein_of_given (hgo.resolve_left hflush) _ _

variable (hd1 : d1 = d0.tprogRaised p ns)
include hd1

theorem programDoneOp_of_good : programDoneOp c die ns true d =
    (d1.setChan c (({ x with progs := x.progs.erase p } : Channel).programmed d1.now p)).chanGo c :=
  (programDoneOp_of_taken hx hp hgo hd0 true).trans (Dev.programEnd_of_good (Dev.chan?_of_taken hx hd0) hp hd1)

theorem programDoneOp_of_failed : programDoneOp c die ns false d =
    ((d1.setChan c { x with progs := x.progs.erase p }).blockRetire c p.block).chanGo c :=
  (programDoneOp_of_taken hx hp hgo hd0 false).trans (Dev.programEnd_of_failed (Dev.chan?_of_taken hx hd0) hp hd1)
end
end

section
variable {d d1 d2 : Dev} {c : Nat} {x y : Channel} (hx : d.chan? c = some x)
include hx

/-! FOLD_START (R367) and GC_START (R369): the block picked is copied where the ledger allows (R376). -/

section
variable {k : Nat} {b : Block} {us dest : List Nat} (hruns : d.chanRuns c = true) (hus : us = x.unitsIn k)
include hruns hus

theorem foldStartOp_of_given (hwant : d.foldIdle x = true ∨ d.nSlc x * d.fd R.curGc 15 8 < 100 * x.slcUsed)
    (hpick : x.foldPick (d.foldIdle x) = some (k, b)) (hcopy : d.relocate c x 1 us = some (d1, y, dest))
    (hgiven : d1.reinGiven (chanRein c) (d1.copyItems c k x us (.fold k)) = true)
    (hd2 : d2 = d1.reinUse (chanRein c) (d1.copyItems c k x us (.fold k))) :
    foldStartOp c d = ((d2.ledgerGo c (2 ^ 49)).putChan c (y.setBlock k
      { y.block k with dest := dest, emptied := true, st := if (y.block k).st = .opened then .full else (y.block k).st })).bump pgCur 0 7
        us.length := by
  have hwant' : (d.foldIdle x || decide (d.nSlc x * d.fd R.curGc 15 8 < 100 * x.slcUsed)) = true := by
    rwa [Bool.or_eq_true, decide_eq_true_eq]
  subst hd2 hus
  simp only [foldStartOp, hx, hruns, hwant', hpick, hcopy, Dev.viaRein_of_given hgiven, Bool.not_true, Bool.or_self, Bool.false_eq_true,
    if_false, beq_iff_eq]

theorem gcStartOp_of_given {die : Nat} (hdie : die < x.dies) (hlow : x.freeOn die < d.fd R.curGc 7 0) (hpick : x.gcPick die = some (k, b))
    (hcopy : d.relocate c x 2 us = some (d1, y, dest))
    (hgiven : d1.reinGiven (chanRein c) (d1.copyItems c k x us (.collect k)) = true)
    (hd2 : d2 = d1.reinUse (chanRein c) (d1.copyItems c k x us (.collect k))) :
    gcStartOp c die d =
      ((d2.ledgerGo c (2 ^ 50 + die)).putChan c (y.setBlock k { y.block k with dest := dest, emptied := true })).bump pgCur 0 8 us.length := by
  subst hd2 hus
  simp only [gcStartOp, hx, hruns, Nat.not_le.2 hdie, Nat.not_le.2 hlow, hpick, hcopy, Dev.viaRein_of_given hgiven, decide_false,
    Bool.not_true, Bool.or_self, Bool.false_eq_true, if_false]
end

/-! ERASE_DONE (R366) of a block that may be erased. -/

section
variable {d0 : Dev} {die blk k : Nat} (hk : k = 4096 * die + blk) (hruns : d.chanRuns c = true) (herase : x.erasable k = true)
  (hgiven : d.reinGiven (chanRein c) [d.flashItem c die (.erase k) 0 64 d.workCharge] = true)
  (hd0 : d0 = d.reinUse (chanRein c) [d.flashItem c die (.erase k) 0 64 d.workCharge])
include hk hruns herase hgiven hd0

theorem eraseDoneOp_of_good {n : Nat} (hn : n = (x.block k).erases + 1)
    (hd1 : d1 = (d0.putChan c (x.setBlock k { st := .free, erases := n })).bump pgCur 0 9) :
    eraseDoneOp c die blk true d = if d1.endurance ≤ n then d1.blockRetire c k else d1.chanGo c := by
  subst hd1 hn hd0 hk
  simp only [eraseDoneOp, hx, hruns, herase, Dev.viaRein_of_given hgiven, Bool.not_true, Bool.or_self, Bool.false_eq_true, if_false]

theorem eraseDoneOp_of_failed : eraseDoneOp c die blk false d = d0.blockRetire c k := by
  subst hd0 hk
  simp only [eraseDoneOp, hx, hruns, herase, Dev.viaRein_of_given hgiven, Bool.not_true, Bool.not_false, Bool.or_self,
    Bool.false_eq_true, if_false, if_true]
end

/-! BLOCK_VERIFY (R372): a full block of data whose pages the bus has taken. -/

section
variable {d0 : Dev} {die blk k : Nat} {its : List ReinItem} (hk : k = 4096 * die + blk) (hserves : x.inService = true)
  (hstate : d.curState = 1 ∨ d.curState = 2) (hrun : d.runs pgCur = true) (hflush : d.flushing = false) (hfull : (x.block k).st = .full)
  (hset : (x.block k).set < 3) (hits : its = d.pageItems c die (.verify k) 0 (16384 * (x.block k).pages) d.workCharge)
  (hgiven : d.reinGiven (chanRein c) its = true) (hd0 : d0 = d.reinUse (chanRein c) its)
include hk hserves hstate hrun hflush hfull hset hits hgiven hd0

theorem blockVerifyOp_of_clean :
    blockVerifyOp c die blk [] d = (d0.setChan c (x.setBlock k { x.block k with st := .verified })).bump pgCur 0 11 := by
  have hstate' : (d.curState == 1 || d.curState == 2) = true := by simpa only [Bool.or_eq_true, beq_iff_eq] using hstate
  subst hd0 hits hk
  simp only [blockVerifyOp, hx, hserves, hstate', hrun, hflush, hfull, Nat.not_le.2 hset, Dev.viaRein_of_given hgiven, bne_self_eq_false,
    decide_false, Bool.not_true, Bool.or_self, Bool.false_eq_true, if_false, List.isEmpty_nil, if_true]

theorem blockVerifyOp_of_bad {bad us dest : List Nat} (hbad : bad ≠ [])
    (hus : us = (x.map.filter (fun e => e.2 / 32768 == k && bad.contains (e.2 % 32768))).map Prod.fst)
    (hcopy : d0.relocate c x 1 us = some (d1, y, dest)) :
    blockVerifyOp c die blk bad d = (((d1.ledgerGo c (2 ^ 51)).setChan c y).bump pgCur 0 4 bad.length).blockRetire c k := by
  have hstate' : (d.curState == 1 || d.curState == 2) = true := by simpa only [Bool.or_eq_true, beq_iff_eq] using hstate
  subst hus hd0 hits hk
  simp only [blockVerifyOp, hx, hserves, hstate', hrun, hflush, hfull, Nat.not_le.2 hset, Dev.viaRein_of_given hgiven, bne_self_eq_false,
    decide_false, Bool.not_true, Bool.or_self, Bool.false_eq_true, if_false, List.isEmpty_eq_false_iff.2 hbad, hcopy]
end
end

/-! FORMAT_START, FMT_DONE (R389) and CURRIER_READY (R382). -/

theorem formatStartOp_of_idle {d : Dev} (htack : d.enabled pgTack = false) (hrun : d.runs pgCur = true) (hflush : d.flushing = false)
    (hstate : d.curState = 0 ∨ d.curState = 2) : formatStartOp d = (d.setFd R.curFmt 31 31 1).setCurState 3 := by
  have hstate' : (d.curState == 0 || d.curState == 2) = true := by simpa only [Bool.or_eq_true, beq_iff_eq] using hstate
  simp only [formatStartOp, htack, hrun, hflush, hstate', Bool.not_true, Bool.or_self, Bool.false_eq_true, if_false]

theorem fmtDoneOp_of_formatting {d d0 d1 : Dev} {n : Nat} {ch : Tab Channel} (hstate : d.curState = 3)
    (hch : ch = d.flash.ch.map (fun e => if e.2.inService || e.2.outCause == 7 then (e.1, d.formatted e.2 (d.flash.fmtSeq + 1)) else e))
    (hn : n = (ch.map (fun e => if e.2.fmtSeq = d.flash.fmtSeq + 1 then e.2.good else 0)).foldl (· + ·) 0)
    (hd0 : d0 = (Tab.keys d.flash.ch).foldl (fun d c => d.chanForget c) d)
    (hd1 : d1 = { d0 with flash := { d0.flash with ch := ch, fmtSeq := d.flash.fmtSeq + 1, waiting := [] } }) :
    fmtDoneOp d = (((d1.setFd R.curFmt 31 31 0).setCurState 2).setInt pgCur 4).bump pgCur 0 9 n := by
  subst hd1 hd0 hn hch
  simp only [fmtDoneOp, hstate, bne_self_eq_false, Bool.false_eq_true, if_false]

/-- Nothing is left to close: no channel in service has a full block of data that is not emptied (R382). -/
theorem Dev.nothing_left_iff (d : Dev) :
    (Tab.vals d.flash.ch).any (fun x => x.inService && x.blocks.any (fun e => decide (e.2.set < 3) && e.2.st == .full && !e.2.emptied)) = false ↔
      ∀ y ∈ Tab.vals d.flash.ch, y.inService = true → ∀ e ∈ y.blocks, ¬(e.2.set < 3 ∧ e.2.st = .full ∧ e.2.emptied = false) := by
  simp [List.any_eq_false, and_assoc]

theorem currierReadyOp_of_closed {d d1 d2 : Dev} (hstate : d.curState = 1) (hrun : d.runs pgCur = true)
    (hclosed : ∀ y ∈ Tab.vals d.flash.ch, y.inService = true → ∀ e ∈ y.blocks, ¬(e.2.set < 3 ∧ e.2.st = .full ∧ e.2.emptied = false))
    (hd1 : d1 = (d.flash.record.map (fun r =>
      ((d.setRg R.holdupLastUs (w32 r.1)).setRg R.holdupLastDebt (w32 r.2)).bump pgHoldup 0 5)).getD d)
    (hd2 : d2 = (if d1.flash.recordMissing then d1.setInt pgHoldup 2 else d1)) :
    currierReadyOp d = ({ d2 with flash := { d2.flash with record := none, recordMissing := false } } : Dev).setCurState 2 := by
  subst hd2 hd1
  simp only [currierReadyOp, hstate, (Dev.nothing_left_iff d).2 hclosed, hrun, bne_self_eq_false, Bool.not_true, Bool.or_self,
    Bool.false_eq_true, if_false]
  cases d.flash.record <;> rfl

/-- Settles O44: the end of a program, of an erase and of a verification, the two copies of a block, the format and the end of a restart. -/
theorem flashBlocks : Obligations.FlashBlocks := by
  intro q fu d c die blk x hc hdie hblk hx
  refine ⟨?program, ?fold, ?collect, ?erase, ?verify, ?format, ?formatted, ?ready⟩
  case program =>
    intro p ns d0 d1 hp hgo hd0 hd1
    exact ⟨onDie_next hc hdie (programDoneOp_of_good hx hp hgo hd0 hd1) q fu,
      onDie_next hc hdie (programDoneOp_of_failed hx hp hgo hd0 hd1) q fu⟩
  case fold =>
    intro k b d1 d2 y dest us hruns hwant hpick hus hcopy hgiven hd2
    exact onChannel_next hc (foldStartOp_of_given hx hruns hus hwant hpick hcopy hgiven hd2) q fu
  case collect =>
    intro k b d1 d2 y dest us hruns hdies hlow hpick hus hcopy hgiven hd2
    exact onDie_next hc hdie (gcStartOp_of_given hx hruns hus hdies hlow hpick hcopy hgiven hd2) q fu
  case erase =>
    intro k n d0 d1 hk hruns herase hn hgiven hd0 hd1
    exact ⟨onBlock_next hc hdie hblk (eraseDoneOp_of_good hx hk hruns herase hgiven hd0 hn hd1) q fu,
      onBlock_next hc hdie hblk (eraseDoneOp_of_failed hx hk hruns herase hgiven hd0) q fu⟩
  case verify =>
    intro k its d0 hk hserves hstate hrun hflush hfull hset hits hgiven hd0
    refine ⟨onBlock_next hc hdie hblk (blockVerifyOp_of_clean hx hk hserves hstate hrun hflush hfull hset hits hgiven hd0) q fu,
      fun bad us d1 y dest hbad hus hcopy => ?_⟩
    exact onBlock_next hc hdie hblk
      (blockVerifyOp_of_bad hx hk hserves hstate hrun hflush hfull hset hits hgiven hd0 hbad hus hcopy) q fu
  case format => exact fun htack hrun hflush hstate => onDev_next (formatStartOp_of_idle htack hrun hflush hstate) q fu
  case formatted =>
    intro n ch d0 d1 hstate hch hn hd0 hd1
    exact onDev_next (fmtDoneOp_of_formatting hstate hch hn hd0 hd1) q fu
  case ready =>
    intro d1 d2 hstate hrun hclosed hd1 hd2
    exact onDev_next (currierReadyOp_of_closed hstate hrun hclosed hd1 hd2) q fu

end Sys2Proof.Machine
end

section
/-! PROOFS. Sparse tables of which every listed entry is updated. -/

namespace Sys2Proof

/-- After an update of every listed entry of a table that establishes a property, the entries listed, and those that had it, have it. -/
theorem Tab.getD_foldl_upd {α : Type} {P : α → Prop} {dflt : α} {f : α → α} (hf : ∀ x, P (f x)) {k : Nat} (l : List Nat) (t : Tab α)
    (h : k ∈ l ∨ P (Tab.getD t k dflt)) : P (Tab.getD (l.foldl (fun t n => Tab.upd t n dflt f) t) k dflt) := by
  induction l generalizing t with
  | nil => exact h.resolve_left List.not_mem_nil
  | cons n l ih =>
    refine ih (Tab.upd t n dflt f) ?_
    by_cases hkn : k = n
    · subst hkn
      exact .inr (by rw [Tab.upd, Tab.getD_set_self]; exact hf _)
    · rw [Tab.upd, Tab.getD_set_of_ne _ _ _ _ _ hkn]
      exact h.imp_left fun hk => (List.mem_cons.1 hk).resolve_left hkn

end Sys2Proof
end

section
/-! PROOFS. Clocks and power (19_clocks_power_energy.md, 11_flash_currier_edger.md): power failure and the flush (R379 to R381), load shedding
(R569, R575), lost clocks (R565) and temperatures (R578 to R580, R583). -/

namespace Sys2Proof.Machine
open Sys2Proof

/-! PWR_FAIL_N_FALL (R379): with RESET_N high, no flush under way and none done, the length of the pulse decides. -/

section
variable {d : Dev} {ns : Nat} (hon : d.pwr.stopped = false) (hreset : d.pins.resetN = true) (hflush : d.flushing = false)
  (hdone : d.pins.holdupDone = false)
include hon hreset hflush hdone

theorem Dev.heedsPowerFail : ¬(!d.pins.resetN || d.flushing || d.pins.holdupDone || d.pwr.stopped) = true := by
  simp [hon, hreset, hflush, hdone]

theorem pwrFailOp_of_short (h : ns < 1000) : pwrFailOp ns d = d.bump pgHoldup 0 6 :=
  (if_neg (Dev.heedsPowerFail hon hreset hflush hdone)).trans (if_pos h)

theorem pwrFailOp_of_long (h : 1000 ≤ ns) :
    pwrFailOp ns d = ({ d with pins := { d.pins with pwrFailN := false } } : Dev).flushStart (d.now - usCycles 1) :=
  (if_neg (Dev.heedsPowerFail hon hreset hflush hdone)).trans (if_neg (Nat.not_lt.2 h))
end

/-! FLUSH_DONE (R380 steps 5 and 6): what a flush that runs leaves. -/

section
variable {d : Dev} (hon : d.pwr.stopped = false) (hflush : d.flushing = true)
include hon hflush

theorem flushDoneOp_pins : (flushDoneOp d).pins = { d.pins with flWpN := false, flCe := false, holdupDone := true } := by
  simp only [flushDoneOp, hon, hflush, Bool.not_true, Bool.or_self, Bool.false_eq_true, if_false]
  rfl

theorem flushDoneOp_stopped : (flushDoneOp d).pwr.stopped = true := by
  simp only [flushDoneOp, hon, hflush, Bool.not_true, Bool.or_self, Bool.false_eq_true, if_false]

theorem flushDoneOp_record : (flushDoneOp d).flash.record = some (ceilDiv (d.now - d.flash.flushFrom) 1600, d.flash.flushDebt) := by
  simp only [flushDoneOp, hon, hflush, Bool.not_true, Bool.or_self, Bool.false_eq_true, if_false]
  rfl

theorem flushDoneOp_recordMissing : (flushDoneOp d).flash.recordMissing =
    d.flash.ch.any (fun e => (d.muteDies e.1).any (fun i => decide (i < e.2.dies))) := by
  simp only [flushDoneOp, hon, hflush, Bool.not_true, Bool.or_self, Bool.false_eq_true, if_false]
  rfl

/-- A die in use that does not answer has no record (assumption log 21 leaves open which dies those are). -/
theorem flushDoneOp_recordMissing_of_mute {c die : Nat} {x : Channel} (hx : (c, x) ∈ d.flash.ch) (hdie : die < x.dies)
    (hmute : die ∈ d.muteDies c) : (flushDoneOp d).flash.recordMissing = true := by
  rw [flushDoneOp_recordMissing hon hflush, List.any_eq_true]
  exact ⟨(c, x), hx, List.any_eq_true.2 ⟨die, hmute, decide_eq_true hdie⟩⟩
end

/-! RESET_N_FALL and SHED_COMPLETE (R569, R575). -/

theorem resetFallOp_of_long {d : Dev} {ns : Nat} (hreset : d.pins.resetN = true) (h : 1000 < ns) :
    resetFallOp ns d = ({ d with pins := { d.pins with resetN := false } } : Dev).shedStart :=
  if_neg (by simp [hreset, h])

section
variable {d : Dev} {t : Nat} (hat : d.pwr.shedAt = some t) (hfirst : d.pwr.shed = false) (hdue : t + usCycles 100 ≤ d.now)
include hat hfirst hdue

theorem shedDoneOp_pwr : (shedDoneOp d).pwr =
    { d.pwr with shed := true, env := 0, est := 0, filler := false, stopped := d.pwr.stopped || !d.pins.resetN } := by
  simp only [shedDoneOp, hat, hfirst, Nat.not_lt.2 hdue, decide_false, Bool.or_self, Bool.false_eq_true, if_false]

theorem shedDoneOp_stackTab : (shedDoneOp d).hide.stackTab =
    (List.range 16).foldl (fun k n => Tab.upd k n {} (fun x => { x with selfRefresh := true })) d.hide.stackTab := by
  simp only [shedDoneOp, hat, hfirst, Nat.not_lt.2 hdue, decide_false, Bool.or_self, Bool.false_eq_true, if_false]

theorem shedDoneOp_selfRefresh {n : Nat} (hn : n < 16) : ((shedDoneOp d).stack n).selfRefresh = true := by
  rw [Dev.stack, shedDoneOp_stackTab hat hfirst hdue]
  exact Tab.getD_foldl_upd (P := fun x : Stack => x.selfRefresh = true) (f := fun x => { x with selfRefresh := true }) (fun _ => rfl) _ _
    (.inl (List.mem_range.2 hn))
end

/-! Lost clocks (R565): a device that has stopped loses no more. -/

section
variable {d : Dev} (hon : d.pwr.stopped = false)
include hon

theorem refclkLossOp_of_on {w : Nat} {d0 d1 : Dev}
    (hd0 : d0 = (if w = 0 then (d.setInt pgClk 1).bump pgClk 0 1 else (d.setInt pgClk 0).bump pgClk 0 0))
    (hd1 : d1 = ((d0.errBit pgClk 0 0).fatal pgClk 0 0).shedStart) :
    refclkLossOp w d = { d1 with pwr := { d1.pwr with stopped := true, lost := d1.pwr.lost ||| 2 ^ (if w = 0 then 8 else w - 1) } } := by
  rw [refclkLossOp, if_neg (ne_true_of_eq_false hon), hd1, hd0]

theorem hidePllOp_of_on (n : Nat) : hidePllOp n d = d.pllLost.stackDown n := if_neg (ne_true_of_eq_false hon)

theorem fclkPllOp_of_on {g : Nat} {d1 : Dev} (hd1 : d1 = (List.range 8).foldl (fun d i => d.channelOut (8 * g + i) 3) d.pllLost) :
    fclkPllOp g d = { d1 with pwr := { d1.pwr with lost := d1.pwr.lost ||| 2 ^ 5 } } := by
  rw [fclkPllOp, if_neg (ne_true_of_eq_false hon), hd1]

theorem frefLossOp_of_present {fu : Fuses} {d1 d2 : Dev} (hhere : d.pwr.frefGone = false)
    (hd1 : d1 = ((d.setInt pgClk 1).bump pgClk 0 1).rasEvent 4 1 pgClk 0) (hd2 : d2 = { d1 with pwr := { d1.pwr with frefGone := true } }) :
    frefLossOp fu d = linkChangeOp false fu (d2.portsDown (List.range 32)) := by
  rw [frefLossOp, if_neg (by simp [hon, hhere]), hd2, hd1]

theorem frefBackOp_of_gone (hgone : d.pwr.frefGone = true) :
    frefBackOp d = ({ d with pwr := { d.pwr with frefGone := false } } : Dev).portsTrain (List.range 32) :=
  if_neg (by simp [hon, hgone])

/-- THERMAL_READ (R578, R583): a reading that is due is stored before the limits are judged on it. -/
theorem thermalOp_of_due {temps : List Int} {d1 : Dev} {t : Nat → Int} {put peak : Tab Nat} (hreset : d.pins.resetN = true)
    (hlen : temps.length = 60) (hdue : d.pwr.thermAt + usCycles 100 ≤ d.now) (ht : t = (fun i => s16get (s16put (temps.getD i 0))))
    (hput : put = (List.range 60).foldl (fun (k : Tab Nat) i => Tab.set k i (s16put (t i))) d.pwr.temps)
    (hpeak : peak = (List.range 60).foldl
      (fun (k : Tab Nat) i => if s16get (Tab.getD k i (s16put (t i))) ≤ t i then Tab.set k i (s16put (t i)) else k) d.pwr.peak)
    (hd1 : d1 = { d with pwr := { d.pwr with temps := put, peak := peak, thermAt := d.now } }) :
    thermalOp temps d = d1.thermActs d.temp t := by
  have hheeds : ¬(!d.pins.resetN || d.pwr.stopped || temps.length != 60 || decide (d.now < d.pwr.thermAt + usCycles 100)) = true := by
    simp [hon, hreset, hlen, hdue]
  rw [thermalOp, if_neg hheeds, hd1, hpeak, hput, ht]
end

/-- Settles O50: the pulse on PWR_FAIL_N, what a flush and the shedding leave, each lost clock, and a temperature reading. -/
theorem powerEvents : Obligations.PowerEvents := by
  intro q fu d hon
  refine ⟨?powerFail, ?flushDone, ?reset, ?shed, ?refclk, ?hidePll, ?fclkPll, ?frefLoss, ?frefBack, ?thermal⟩
  case powerFail =>
    intro ns hreset hflush hdone
    exact ⟨fun h => onDev_next (pwrFailOp_of_short hon hreset hflush hdone h) q fu,
      fun h => onDev_next (pwrFailOp_of_long hon hreset hflush hdone h) q fu⟩
  case flushDone =>
    intro hflush
    have hpins := flushDoneOp_pins hon hflush
    refine ⟨flushDoneOp d, onDev_state flushDoneOp ⟨q, fu, d⟩, ?_, flushDoneOp_stopped hon hflush, ?_, ?_, flushDoneOp_record hon hflush,
      fun c x die hx hdie hmute => flushDoneOp_recordMissing_of_mute hon hflush hx hdie hmute⟩ <;> rw [hpins]
  case reset => exact fun ns hreset h => onDev_next (resetFallOp_of_long hreset h) q fu
  case shed =>
    intro t hat hfirst hdue
    have hpwr := shedDoneOp_pwr hat hfirst hdue
    refine ⟨shedDoneOp d, onDev_state shedDoneOp ⟨q, fu, d⟩, ?_, ?_, ?_, fun n hn => shedDoneOp_selfRefresh hat hfirst hdue hn⟩
    · rw [hpwr]
    · rw [hpwr]
    · rw [hpwr, hon, Bool.false_or]
  case refclk => exact fun w d0 d1 hw hd0 hd1 => onNumbered_next hw (refclkLossOp_of_on hon hd0 hd1) q fu
  case hidePll => exact fun n hn => onNumbered_next hn (hidePllOp_of_on hon n) q fu
  case fclkPll =>
    exact fun g d1 hg hd1 =>
      onUnit_next (has := fun d => decide (8 * g < d.part.channels)) (decide_eq_true hg) (fclkPllOp_of_on hon hd1) q fu
  case frefLoss => exact fun d1 d2 hhere hd1 hd2 => onFuses_next (frefLossOp_of_present hon hhere hd1 hd2) q
  case frefBack => exact fun hgone => onDev_next (frefBackOp_of_gone hon hgone) q fu
  case thermal =>
    intro temps d1 t peak put hreset hlen hdue ht hput hpeak hd1
    exact onDev_next (thermalOp_of_due hon hreset hlen hdue ht hput hpeak hd1) q fu

end Sys2Proof.Machine
end

section
/-! PROOFS. The machine's queue and fuses: a step runs the command at the front of the queue (02_control_model.md), and programmed fuse bits
stay (R521, R522). -/

namespace Sys2Proof.Machine
open Sys2Proof

/-! The queue. -/

/-- Settles O1: `step` hands the front of the queue to `exec`. -/
theorem stepRunsFrontCommand : Obligations.StepRunsFrontCommand := fun _ _ _ _ => rfl

/-- Settles O2: with no command waiting, `step` is one clock tick of the device. -/
theorem emptyQueueIsOneCycle : Obligations.EmptyQueueIsOneCycle := fun _ _ => rfl

/-- Settles O4, from the next state that every command answers. -/
theorem execLeavesTheQueue : Obligations.ExecLeavesTheQueue := by
  intro i s t ht
  obtain ⟨u, hu, hq⟩ := exec_completes i s
  obtain rfl := Host.Outcome.next.inj (hu.symm.trans ht)
  exact hq

/-! The fuses (R521). -/

/-- A meaning that changes the device alone leaves the fuses. -/
theorem DevOnly.fuses {m : State → Host.Outcome State Fault Refusal} (h : DevOnly m) {s t : State} (ht : m s = .next t) :
    t.fuses = s.fuses := by
  obtain ⟨f, hf⟩ := h
  obtain rfl := Host.Outcome.next.inj ((hf s).symm.trans ht)
  rfl

/-- Settles O5: every command but the two that may burn fuses changes the device alone. -/
theorem onlyBrandOperationsChangeFuses : Obligations.OnlyBrandOperationsChangeFuses := by
  intro i s t hdone hboot ht
  have hburns : burns i = false := by
    cases i
    case brandOpDone b => exact absurd rfl (hdone b)
    case coldBoot r st n h a => exact absurd rfl (hboot r st n h a)
    all_goals rfl
  exact (exec_devOnly i hburns).fuses ht

theorem Fuses.grew_refl (fu : Fuses) : Fuses.grew fu fu := ⟨le_rfl, fun _ h => h, fun _ _ h => h, rfl, rfl, rfl⟩

theorem Fuses.grew_trans {a b c : Fuses} (h : Fuses.grew a b) (g : Fuses.grew b c) : Fuses.grew a c := by
  obtain ⟨harb, hrev, hkeys, hlock, hmac, hsecret⟩ := h
  obtain ⟨garb, grev, gkeys, glock, gmac, gsecret⟩ := g
  exact ⟨harb.trans garb, fun k hk => grev k (hrev k hk), fun k v hk => gkeys k v (hkeys k v hk), glock.trans hlock, gmac.trans hmac,
    gsecret.trans hsecret⟩

/-- A key is programmed into a blank slot, so every key that stood still stands. -/
theorem Tab.find?_set_of_blank {α : Type} {t : Tab α} {k : Nat} (hblank : Tab.has t k = false) (v : α) {j : Nat} {w : α}
    (hj : Tab.find? t j = some w) : Tab.find? (Tab.set t k v) j = some w := by
  have hne : j ≠ k := by
    rintro rfl
    simp [Tab.has, hj] at hblank
  rw [Tab.find?_set_of_ne j k v hne, hj]

/-- Programming only adds, whichever bits fail: a greater count, one more revoked slot, or a key in a blank slot (R521, R522). -/
theorem Fuses.grew_program (fu : Fuses) (op : BrandOp) (bad : Nat) : Fuses.grew fu (fu.program op bad) := by
  cases op with
  | commit v => exact ⟨le_max_left _ _, fun _ h => h, fun _ _ h => h, rfl, rfl, rfl⟩
  | revoke k =>
    unfold Fuses.program
    dsimp only
    split
    · exact fu.grew_refl
    · exact ⟨le_rfl, fun j hj => (mem_insNat k j _).2 (.inr hj), fun _ _ h => h, rfl, rfl, rfl⟩
  | keyProg k h =>
    unfold Fuses.program
    dsimp only
    split
    · exact fu.grew_refl
    next hfree =>
      have hblank : Tab.has fu.keys k = false := by
        simp only [Bool.or_eq_true, not_or, Bool.not_eq_true] at hfree
        exact hfree.1
      exact ⟨le_rfl, fun _ hj => hj, fun _ _ hj => Tab.find?_set_of_blank hblank _ hj, rfl, rfl, rfl⟩
  | extend i dg => exact fu.grew_refl
  | quote a => exact fu.grew_refl

theorem brandDone_grew (bad : Nat) (s : State) : Fuses.grew s.fuses (brandDone bad s).fuses := by
  unfold brandDone
  split
  · exact s.fuses.grew_refl
  next op _ =>
    dsimp only
    split
    · exact s.fuses.grew_program op bad
    · exact s.fuses.grew_program op 0

theorem coldBoot_grew (recovery selfTest : Bool) (torn : Nat) (hdr again : List Byte) (s : State) :
    Fuses.grew s.fuses (coldBoot recovery selfTest torn hdr again s).fuses := by
  unfold coldBoot
  split
  · exact s.fuses.grew_refl
  · dsimp only
    split
    next op _ => exact s.fuses.grew_program op torn
    · exact s.fuses.grew_refl

/-- No command takes a programmed bit back. -/
theorem exec_grew {i : Instr} {s t : State} (ht : exec i s = .next t) : Fuses.grew s.fuses t.fuses := by
  cases hb : burns i
  case false =>
    rw [(exec_devOnly i hb).fuses ht]
    exact s.fuses.grew_refl
  case true =>
    cases i
    case brandOpDone bad =>
      obtain rfl := Host.Outcome.next.inj ht
      exact brandDone_grew bad s
    case coldBoot r st n h a =>
      obtain rfl := Host.Outcome.next.inj ht
      exact coldBoot_grew r st n h a s
    all_goals cases hb

theorem step_grew {s t : State} (ht : step s = .next t) : Fuses.grew s.fuses t.fuses := by
  unfold step at ht
  split at ht
  next c rest _ => exact exec_grew (s := { s with pending := rest }) ht
  · obtain rfl := Host.Outcome.next.inj ht
    exact s.fuses.grew_refl

/-- Settles O6: growth is transitive, and every step only grows the fuses. -/
theorem programmedFusesStay : Obligations.ProgrammedFusesStay := fun _ _ _ h0 ht => Fuses.grew_trans h0 (step_grew ht)

/-- Settles O7. -/
theorem fusesAtReset : Obligations.FusesAtReset := ⟨Fuses.grew_refl _, rfl, rfl⟩

end Sys2Proof.Machine
end

section
/-! PROOFS. Memory and its SECDED code (18_errors_and_ras.md): stored bytes (R547), syndromes (R542, R543), flipped bits (R544) and memory at
reset (R548). -/

namespace Sys2Proof.Machine
open Sys2Proof

/-! Stored bytes read back (R547). -/

theorem Memory.raw_length (m : Memory) (a n : Nat) : (m.raw a n).length = n := by simp [Memory.raw]

/-- Byte `i` of a written string stands at its address. -/
theorem getD_putCells_of_in (l : List Byte) : ∀ (c : List Host.Cell) (a i : Nat) (hi : i < l.length), cellsWf c →
    Tab.getD (putCells c a l) (a + i) 0 = l[i] := by
  induction l with
  | nil => exact fun _ _ i hi => absurd hi (Nat.not_lt_zero i)
  | cons b t ih =>
    intro c a i hi hc
    have ht := cellsWf_putCell c a b hc
    cases i with
    | zero =>
      rw [putCells, getD_putCells_of_out t _ _ _ ht (.inl (by omega))]
      exact getD_putCell_self c a b hc
    | succ i =>
      rw [putCells, show a + (i + 1) = a + 1 + i by omega]
      exact ih _ _ i (Nat.lt_of_succ_lt_succ hi) ht

theorem Memory.raw_putRaw_self {m : Memory} (hm : m.wf = true) (a : Nat) (b : List Byte) : (m.putRaw a b).raw a b.length = b := by
  refine List.ext_getElem (Memory.raw_length _ _ _) fun i _ hi => ?_
  simp only [Memory.raw, Memory.putRaw, List.getElem_map, List.getElem_range]
  exact getD_putCells_of_in b m.cells a i hi ((Memory.wf_iff m).1 hm).1

theorem Memory.raw_putRaw_of_out {m : Memory} (hm : m.wf = true) {a c : Nat} {b : List Byte} (hc : c < a ∨ a + b.length ≤ c) :
    (m.putRaw a b).raw c 1 = m.raw c 1 := by
  simp only [Memory.raw, Memory.putRaw, List.range_one, List.map_cons, List.map_nil, Nat.add_zero,
    getD_putCells_of_out b m.cells a c ((Memory.wf_iff m).1 hm).1 hc]

/-- Settles O12. -/
theorem storedBytesReadBack : Obligations.StoredBytesReadBack := fun _ a b hm =>
  ⟨Memory.raw_putRaw_self hm a b, fun _ hc => Memory.raw_putRaw_of_out hm hc, fun _ => rfl, rfl⟩

/-! Bytes and numbers (R13). -/

theorem natLe_length (n v : Nat) : (natLe n v).length = n := by
  induction n generalizing v with
  | zero => rfl
  | succ n ih => rw [natLe, List.length_cons, ih]

theorem leNat_natLe (n v : Nat) : leNat (natLe n v) = v % 256 ^ n := by
  induction n generalizing v with
  | zero => rw [natLe, leNat, Nat.pow_zero, Nat.mod_one]
  | succ n ih =>
    have hsplit : v % 256 ^ (n + 1) = v % 256 + 256 * (v / 256 % 256 ^ n) := by rw [Nat.pow_succ', Nat.mod_mul]
    rw [natLe, leNat, ih, BitVec.toNat_ofNat, hsplit]

theorem natLe_leNat (l : List Byte) : natLe l.length (leNat l) = l := by
  induction l with
  | nil => rfl
  | cons b t ih =>
    have hb := b.isLt
    rw [List.length_cons, natLe, leNat, show (b.toNat + 256 * leNat t) / 256 = leNat t by omega, ih]
    exact congrArg (· :: t) (BitVec.eq_of_toNat_eq (by rw [BitVec.toNat_ofNat]; omega))

theorem leNat_lt (l : List Byte) : leNat l < 256 ^ l.length := by
  induction l with
  | nil => exact Nat.one_pos
  | cons b t ih =>
    have hb := b.isLt
    rw [List.length_cons, leNat, Nat.pow_succ']
    omega

/-! Classes of syndromes (R543). -/

/-- A syndrome with p = 1 whose low bits name neither a check bit, nor the poison, nor a data bit. -/
theorem classify_of_unused {s : Nat} (hpos : 0 < s) (hs : s < 0x7F) (hcheck : ∀ j, j < 7 → s ≠ 2 ^ j) (hdata : ∀ i, i < 64 → s ≠ pos i) :
    classify (128 + s) = .bad := by
  have hlow : ∀ s, s < 0x7F → (128 + s) &&& 0x7F = s ∧ (128 + s).testBit 7 = true := by decide
  have hpower : ∀ s, s < 0x7F → 0 < s → s &&& (s - 1) = 0 → ∃ j, j < 7 ∧ s = 2 ^ j := by decide
  have hnone : dataAt s = none := by
    refine List.find?_eq_none.2 fun i hi => ?_
    simpa using (hdata i (List.mem_range.1 hi)).symm
  obtain ⟨hmask, hbit⟩ := hlow s hs
  have hmany : s &&& (s - 1) ≠ 0 := fun h => by
    obtain ⟨j, hj, hsj⟩ := hpower s hs hpos h
    exact hcheck j hj hsj
  simp only [classify, hmask, hbit, if_true, Nat.pos_iff_ne_zero.1 hpos, hmany, Nat.ne_of_lt hs, if_false, hnone]

/-- With p = 0 any low bit set says that two bits differ. -/
theorem classify_of_even : ∀ s, s < 128 → 0 < s → classify s = .bad := by decide

/-- The position of a data bit names the bit. -/
theorem classify_pos : ∀ i, i < 64 → classify (128 + pos i) = .fixData i := by decide +kernel

/-- Settles O9. -/
theorem syndromeClasses : Obligations.SyndromeClasses :=
  ⟨rfl, fun s h0 hs => classify_of_even s hs h0, rfl, by decide, classify_pos, rfl,
    fun _ h0 hs hcheck hdata => classify_of_unused h0 hs hcheck hdata, rfl, fun _ => rfl⟩

/-! The code is linear (R542): check bits and syndromes of an exclusive or are those of its parts. -/

theorem parityNat_xor (w a b : Nat) : parityNat w (a ^^^ b) = (parityNat w a ^^ parityNat w b) := by
  induction w generalizing a b with
  | zero => rfl
  | succ w ih =>
    have hlow : ((a ^^^ b) % 2 == 1) = ((a % 2 == 1) ^^ (b % 2 == 1)) := by
      simpa only [Nat.testBit_zero, beq_eq_decide] using Nat.testBit_xor a b 0
    rw [parityNat, parityNat, parityNat, Nat.xor_div_two, ih, hlow]
    simp only [Bool.xor_assoc, Bool.xor_left_comm]

/-- A sum without carries over the bits that a word sets is linear in the word. -/
theorem foldl_xor_linear (f : Nat → Nat → Bool) (hf : ∀ i a b, f i (a ^^^ b) = (f i a ^^ f i b)) (a b : Nat) (l : List Nat) :
    ∀ x y, l.foldl (fun z i => z ^^ f i (a ^^^ b)) (x ^^ y) = (l.foldl (fun z i => z ^^ f i a) x ^^ l.foldl (fun z i => z ^^ f i b) y) := by
  induction l with
  | nil => exact fun _ _ => rfl
  | cons i t ih =>
    intro x y
    rw [List.foldl_cons, List.foldl_cons, List.foldl_cons, ← ih, hf]
    simp only [Bool.xor_assoc, Bool.xor_left_comm]

theorem checkBit_xor (a b j : Nat) : checkBit (a ^^^ b) j = (checkBit a j ^^ checkBit b j) :=
  foldl_xor_linear (fun i d => d.testBit i && (pos i).testBit j)
    (fun i a b => by rw [Nat.testBit_xor, Bool.and_xor_distrib_right]) a b (List.range 64) false false

/-- Bits gathered one by one into a number. -/
def gatherBits (f : Nat → Bool) (n : Nat) : Nat := (List.range n).foldl (fun c j => c ||| (b2n (f j) <<< j)) 0

theorem testBit_b2n_shiftLeft (b : Bool) (j k : Nat) : (b2n b <<< j).testBit k = (b && decide (k = j)) := by
  rw [Nat.testBit_shiftLeft]
  cases b with
  | false => simp [b2n]
  | true =>
    by_cases hk : k = j
    · subst hk; simp [b2n]
    · by_cases hle : j ≤ k
      · have hone : Nat.testBit 1 (k - j) = false := by
          rw [← Nat.pow_zero 2, Nat.testBit_two_pow]
          exact decide_eq_false (by omega)
        simp [b2n, hk, hone]
      · simp [hk, hle]

theorem testBit_gatherBits (f : Nat → Bool) (n k : Nat) : (gatherBits f n).testBit k = (decide (k < n) && f k) := by
  induction n with
  | zero => simp [gatherBits]
  | succ n ih =>
    rw [gatherBits, List.range_succ, List.foldl_append, List.foldl_cons, List.foldl_nil, ← gatherBits, Nat.testBit_or, ih,
      testBit_b2n_shiftLeft]
    by_cases hk : k = n
    · subst hk; simp
    · have hlt : (k < n + 1) = (k < n) := by simp only [eq_iff_iff]; omega
      simp [hk, hlt]

theorem gatherBits_xor (f g : Nat → Bool) (n : Nat) : gatherBits (fun j => f j ^^ g j) n = gatherBits f n ^^^ gatherBits g n := by
  refine Nat.eq_of_testBit_eq fun k => ?_
  simp only [Nat.testBit_xor, testBit_gatherBits, Bool.and_xor_distrib_left]

/-- The overall parity bit of a word's check bits. -/
def topParity (d : Nat) : Bool := parityNat 64 d ^^ parityNat 8 (gatherBits (checkBit d) 7)

theorem checkBits_eq (d : Nat) : checkBits d = gatherBits (checkBit d) 7 ||| (b2n (topParity d) <<< 7) := rfl

theorem gatherBits_checkBit_xor (a b : Nat) :
    gatherBits (checkBit (a ^^^ b)) 7 = gatherBits (checkBit a) 7 ^^^ gatherBits (checkBit b) 7 := by
  rw [← gatherBits_xor]
  exact congrArg (fun f => gatherBits f 7) (funext (checkBit_xor a b))

theorem topParity_xor (a b : Nat) : topParity (a ^^^ b) = (topParity a ^^ topParity b) := by
  simp only [topParity, parityNat_xor, gatherBits_checkBit_xor, Bool.xor_assoc, Bool.xor_left_comm]

/-- Seven gathered bits below a top bit. -/
theorem testBit_withTop (f : Nat → Bool) (p : Bool) (k : Nat) :
    (gatherBits f 7 ||| (b2n p <<< 7)).testBit k = ((decide (k < 7) && f k) || (p && decide (k = 7))) := by
  rw [Nat.testBit_or, testBit_gatherBits, testBit_b2n_shiftLeft]

theorem withTop_xor (f g : Nat → Bool) (p r : Bool) :
    gatherBits (fun j => f j ^^ g j) 7 ||| (b2n (p ^^ r) <<< 7) =
      (gatherBits f 7 ||| (b2n p <<< 7)) ^^^ (gatherBits g 7 ||| (b2n r <<< 7)) := by
  refine Nat.eq_of_testBit_eq fun k => ?_
  rw [Nat.testBit_xor, testBit_withTop, testBit_withTop, testBit_withTop]
  by_cases h7 : k = 7
  · subst h7; simp
  · simp [h7, Bool.and_xor_distrib_left]

theorem checkBits_xor (a b : Nat) : checkBits (a ^^^ b) = checkBits a ^^^ checkBits b := by
  rw [checkBits_eq, checkBits_eq, checkBits_eq, ← withTop_xor, topParity_xor]
  exact congrArg (fun f => gatherBits f 7 ||| (b2n (topParity a ^^ topParity b) <<< 7)) (funext (checkBit_xor a b))

theorem checkBits_lt (d : Nat) : checkBits d < 256 := by
  refine Nat.lt_pow_two_of_testBit (n := 8) _ fun k hk => ?_
  have h7 : ¬ k < 7 := by omega
  have hne : k ≠ 7 := by omega
  rw [checkBits_eq, testBit_withTop]
  simp [h7, hne]

theorem synOf_xor (x y : Nat) : synOf (x ^^^ y) = synOf x ^^^ synOf y := by
  refine Nat.eq_of_testBit_eq fun k => ?_
  simp only [synOf, parityNat_xor, Nat.testBit_or, Nat.testBit_xor, Nat.testBit_and, testBit_b2n_shiftLeft]
  have htop : Nat.testBit 0x7F 7 = false := rfl
  by_cases h7 : k = 7
  · subst h7; simp [htop]
  · simp [h7, Bool.and_xor_distrib_right]

/-! Flipped bits of a codeword (R542, R544). -/

/-- What flipping the bits of `mask` adds to the check-bit difference of a word: flipped check bits, and those that flipped data would have. -/
def flipDisc (mask : Nat) : Nat := (mask >>> 64) % 256 ^^^ checkBits (mask % 2 ^ 64)

theorem flipDisc_xor (a b : Nat) : flipDisc (a ^^^ b) = flipDisc a ^^^ flipDisc b := by
  have h256 : ∀ x y : Nat, (x ^^^ y) % 256 = x % 256 ^^^ y % 256 := fun x y => Nat.xor_mod_two_pow (n := 8)
  simp only [flipDisc, Nat.shiftRight_xor_distrib, Nat.xor_mod_two_pow, h256, checkBits_xor]
  ac_rfl

theorem flipDisc_lt (mask : Nat) : flipDisc mask < 256 :=
  Nat.xor_lt_two_pow (n := 8) (Nat.mod_lt _ (by decide)) (checkBits_lt _)

theorem Memory.disc_putDisc {m : Memory} (hm : m.wf = true) (w : Nat) {x : Nat} (hx : x < 256) : (m.putDisc w x).disc w = x := by
  rw [Memory.disc, Memory.putDisc, getD_putCell_self m.ecc w _ ((Memory.wf_iff m).1 hm).2.1, BitVec.toNat_ofNat]
  exact Nat.mod_eq_of_lt hx

/-- A word stored with good check bits shows only what was flipped. -/
theorem Memory.disc_flip {m : Memory} {w : Nat} (hm : m.wf = true) (hw : m.disc w = 0) (mask : Nat) :
    (m.flip w mask).disc w = flipDisc mask := by
  rw [Memory.flip, hw, Nat.zero_xor]
  exact Memory.disc_putDisc (Memory.wf_putRaw m _ _ hm) w (flipDisc_lt mask)

/-- Number that a codeword bit has in the syndrome: the position of a data bit, the power of two of a check bit, 0 for the parity bit. -/
def codePos (i : Nat) : Nat := if i < 64 then pos i else if i < 71 then 2 ^ (i - 64) else 0

theorem codePos_lt : ∀ i, i < 72 → codePos i < 0x7F := by decide +kernel

theorem codePos_inj : ∀ i, i < 72 → ∀ j, j < 72 → codePos i = codePos j → i = j := by decide +kernel

/-- One flipped bit gives p = 1 and its own number. -/
theorem synOf_flipDisc_one : ∀ i, i < 72 → synOf (flipDisc (2 ^ i)) = 128 + codePos i := by decide +kernel

theorem Memory.syn_flip_one {m : Memory} {w i : Nat} (hm : m.wf = true) (hw : m.disc w = 0) (hi : i < 72) :
    synOf ((m.flip w (2 ^ i)).disc w) = 128 + codePos i := by
  rw [Memory.disc_flip hm hw, synOf_flipDisc_one i hi]

theorem two_pow_add_two_pow_of_lt {i j : Nat} (h : i < j) : 2 ^ i + 2 ^ j = 2 ^ i ^^^ 2 ^ j := by
  have hor : 2 ^ j + 2 ^ i = 2 ^ j ||| 2 ^ i := by
    simpa only [Nat.mul_one] using Nat.two_pow_add_eq_or_of_lt (Nat.pow_lt_pow_right (by decide : 1 < 2) h) 1
  rw [Nat.add_comm, hor]
  refine Nat.eq_of_testBit_eq fun k => ?_
  rw [Nat.testBit_or, Nat.testBit_xor, Nat.testBit_two_pow, Nat.testBit_two_pow]
  by_cases hk : i = k
  · have hjk : j ≠ k := by omega
    simp [hk, hjk]
  · simp [hk]

/-- Two different bits added are two bits set. -/
theorem two_pow_add_two_pow {i j : Nat} (h : i ≠ j) : 2 ^ i + 2 ^ j = 2 ^ i ^^^ 2 ^ j := by
  rcases Nat.lt_or_gt_of_ne h with hij | hij
  · exact two_pow_add_two_pow_of_lt hij
  · rw [Nat.add_comm, Nat.xor_comm]
    exact two_pow_add_two_pow_of_lt hij

theorem xor_of_top {a b : Nat} (ha : a < 128) (hb : b < 128) : (128 + a) ^^^ (128 + b) = a ^^^ b := by
  have htop : ∀ x, x < 128 → 128 + x = 128 ^^^ x := by decide
  rw [htop a ha, htop b hb, Nat.xor_comm 128 a, Nat.xor_assoc, ← Nat.xor_assoc 128 128 b, Nat.xor_self, Nat.zero_xor]

/-- Two different flipped bits give p = 0 and a number other than 0. -/
theorem Memory.syn_flip_two {m : Memory} {w i j : Nat} (hm : m.wf = true) (hw : m.disc w = 0) (hi : i < 72) (hj : j < 72) (hij : i ≠ j) :
    0 < synOf ((m.flip w (2 ^ i + 2 ^ j)).disc w) ∧ synOf ((m.flip w (2 ^ i + 2 ^ j)).disc w) < 128 := by
  have hci : codePos i < 128 := Nat.lt_trans (codePos_lt i hi) (by decide)
  have hcj : codePos j < 128 := Nat.lt_trans (codePos_lt j hj) (by decide)
  have hsyn : synOf ((m.flip w (2 ^ i + 2 ^ j)).disc w) = codePos i ^^^ codePos j := by
    rw [Memory.disc_flip hm hw, two_pow_add_two_pow hij, flipDisc_xor, synOf_xor, synOf_flipDisc_one i hi, synOf_flipDisc_one j hj,
      xor_of_top hci hcj]
  rw [hsyn]
  exact ⟨Nat.pos_of_ne_zero (Nat.xor_ne_zero_iff.2 fun h => hij (codePos_inj i hi j hj h)), Nat.xor_lt_two_pow (n := 7) hci hcj⟩

/-- Settles O11. -/
theorem twoFlippedBitsAreDetected : Obligations.TwoFlippedBitsAreDetected := by
  intro m w i j hm hw hi hj
  have hpoison : (m.putDisc w 0x7F).disc w = 0x7F := Memory.disc_putDisc hm w (by decide)
  refine ⟨fun hij => ?_, ?_, ?_, ?_⟩
  · obtain ⟨hpos, hlt⟩ := Memory.syn_flip_two hm hw hi hj hij
    exact ⟨classify_of_even _ hlt hpos, by omega⟩
  · have hc := codePos_lt i hi
    rw [Memory.syn_flip_one hm hw hi]
    omega
  · rw [hpoison]; rfl
  · rw [Memory.wclass, hpoison]; rfl

/-! Correction of one flipped bit (R543). -/

/-- The class of a word of which one bit is flipped: the data bit, or a check bit. -/
theorem Memory.wclass_flip_one {m : Memory} {w i : Nat} (hm : m.wf = true) (hw : m.disc w = 0) (hi : i < 72) :
    (m.flip w (2 ^ i)).wclass w = if i < 64 then .fixData i else .fixCheck := by
  rw [Memory.wclass, Memory.syn_flip_one hm hw hi, codePos]
  split
  next h => exact classify_pos i h
  next h =>
    have hcheck : ∀ j, j < 8 → classify (128 + if j < 7 then 2 ^ j else 0) = .fixCheck := by decide
    simpa [show i - 64 < 7 ↔ i < 71 by omega] using hcheck (i - 64) (by omega)

/-- The stored data of a word after flips. -/
theorem Memory.raw_flip {m : Memory} (hm : m.wf = true) (w mask : Nat) :
    (m.flip w mask).raw (8 * w) 8 = natLe 8 (leNat (m.raw (8 * w) 8) ^^^ mask % 2 ^ 64) := by
  have h := Memory.raw_putRaw_self hm (8 * w) (natLe 8 (leNat (m.raw (8 * w) 8) ^^^ mask % 2 ^ 64))
  rwa [natLe_length] at h

/-- Settles O10: the syndrome names the flipped bit, and a data bit is flipped back. -/
theorem oneFlippedBitIsCorrected : Obligations.OneFlippedBitIsCorrected := by
  intro m w i hm hw hi
  have hclass := Memory.wclass_flip_one hm hw hi
  have hraw := Memory.raw_flip hm w (2 ^ i)
  have hback : natLe 8 (leNat (m.raw (8 * w) 8)) = m.raw (8 * w) 8 := by
    simpa only [Memory.raw_length] using natLe_leNat (m.raw (8 * w) 8)
  have hlt : leNat (m.raw (8 * w) 8) < 2 ^ 64 := by
    have h := leNat_lt (m.raw (8 * w) 8)
    rw [Memory.raw_length] at h
    exact h
  by_cases h64 : i < 64
  · rw [if_pos h64] at hclass
    have hpow : 2 ^ i < 2 ^ 64 := Nat.pow_lt_pow_right (by decide) h64
    refine ⟨by rw [hclass]; rfl, ?_⟩
    simp only [Memory.word, hclass, hraw]
    rw [leNat_natLe, show 256 ^ 8 = 2 ^ 64 from rfl, Nat.mod_eq_of_lt hpow, Nat.one_shiftLeft,
      Nat.mod_eq_of_lt (Nat.xor_lt_two_pow hlt hpow), Nat.xor_assoc, Nat.xor_self, Nat.xor_zero, hback]
  · rw [if_neg h64] at hclass
    have hzero : 2 ^ i % 2 ^ 64 = 0 := Nat.mod_eq_zero_of_dvd (Nat.pow_dvd_pow 2 (Nat.not_lt.1 h64))
    refine ⟨by rw [hclass]; rfl, ?_⟩
    simp only [Memory.word, hclass, hraw]
    rw [hzero, Nat.xor_zero, hback]

/-! Memory at reset (R548). -/

theorem slice_of_zeros {l : List Byte} (hl : ∀ b ∈ l, b = 0) (o n : Nat) : slice l o n = List.replicate n 0 := by
  refine List.eq_replicate_iff.2 ⟨by simp [slice], fun b hb => ?_⟩
  rcases List.mem_append.1 hb with h | h
  · exact hl b (List.mem_of_mem_drop (List.mem_of_mem_take h))
  · exact (List.mem_replicate.1 h).2

theorem Memory.word_empty (w : Nat) : ∀ b ∈ Memory.word {} w, b = 0 := by
  have hgood : Memory.wclass {} w = .good := show classify (synOf 0) = .good by decide
  simp [Memory.word, hgood, Memory.raw, Tab.getD, Tab.find?]

/-- With nothing stored every line reads zero, valid or not. -/
theorem Dev.lineData_of_empty {d : Dev} (hd : d.mem = {}) (l : Nat) : ∀ b ∈ d.lineData l, b = 0 := by
  intro b hb
  rw [Dev.lineData, hd] at hb
  split at hb
  · obtain ⟨word, hword, hb⟩ := List.mem_flatten.1 hb
    obtain ⟨i, _, rfl⟩ := List.mem_map.1 hword
    exact Memory.word_empty _ b hb
  · exact (List.mem_replicate.1 hb).2

theorem Dev.peek_of_empty {d : Dev} (hd : d.mem = {}) (a n : Nat) : d.peek a n = List.replicate n 0 := by
  unfold Dev.peek
  split
  next h => rw [h]; rfl
  · refine slice_of_zeros (fun b hb => ?_) _ n
    obtain ⟨line, hline, hb⟩ := List.mem_flatten.1 hb
    obtain ⟨i, _, rfl⟩ := List.mem_map.1 hline
    exact Dev.lineData_of_empty hd _ b hb

/-- Settles O8. -/
theorem resetMemoryReadsZero : Obligations.ResetMemoryReadsZero := by
  refine ⟨rfl, rfl, rfl, fun l => ?_, fun a n => Dev.peek_of_empty rfl a n⟩
  unfold Dev.lineValid
  split
  next h => rw [h]; rfl
  next h => rw [Bool.not_eq_true] at h; rw [h]; rfl

end Sys2Proof.Machine
end

section
/-! PROOFS. Functions and Rein (15_functions_rein_interrupts_resets.md): arbitration (R469), incarnations (R476), the function states (R475 to
R481), selection and starvation (R482 to R489). -/

namespace Sys2Proof.Machine
open Sys2Proof

/-! Arbitration (R469). -/

/-- Distance of requester `j` from the pointer, going upward and around. -/
def arbDist (p n j : Nat) : Nat := (j + n - p % n) % n

/-- The pick is the requester of least distance. -/
theorem rotatePickL_eq (l : List Nat) (p n : Nat) :
    rotatePickL l p n = (l.argmin (arbDist p n), ((l.argmin (arbDist p n)).map (fun j => (j + 1) % n)).getD p) := by
  have hfold : l.foldl (fun (acc : Option Nat) j => match acc with
      | none => some j
      | some k => if arbDist p n j < arbDist p n k then some j else some k) none = l.argmin (arbDist p n) := by
    refine congrArg (fun g => l.foldl g none) (funext₂ fun acc j => ?_)
    cases acc <;> rfl
  have hpick : rotatePickL l p n = match l.argmin (arbDist p n) with
      | some j => (some j, (j + 1) % n)
      | none => (none, p) := by
    rw [← hfold]; rfl
  rw [hpick]
  cases l.argmin (arbDist p n) <;> rfl

/-- Settles O14. -/
theorem arbiterPicksFirstFromPointer : Obligations.ArbiterPicksFirstFromPointer := by
  intro l p n _ hp
  refine ⟨fun hl => by rw [hl]; rfl, fun hl => ?_⟩
  obtain ⟨j, hj⟩ := Option.ne_none_iff_exists'.1 (mt List.argmin_eq_none.1 hl : l.argmin (arbDist p n) ≠ none)
  refine ⟨j, List.argmin_mem hj, by rw [rotatePickL_eq, hj]; rfl, fun k hk => ?_⟩
  have hle := List.le_of_mem_argmin hk hj
  rwa [arbDist, arbDist, Nat.mod_eq_of_lt hp] at hle

/-! What an interrupt changes of a function: its message queue and the overflow flag (R474). -/

/-- Function `f` of `e` is that of `d` but for its message queue. -/
def FnQueued (f : Nat) (d e : Dev) : Prop := ∃ q o, e.fn f = { d.fn f with queue := q, overflow := o }

theorem FnQueued.of_fn {f : Nat} {d e : Dev} (h : e.fn f = d.fn f) : FnQueued f d e := ⟨(d.fn f).queue, (d.fn f).overflow, h⟩

theorem FnQueued.trans {f : Nat} {c d e : Dev} (h : FnQueued f c d) (g : FnQueued f d e) : FnQueued f c e := by
  obtain ⟨q, o, h⟩ := h
  obtain ⟨q', o', g⟩ := g
  exact ⟨q', o', by rw [g, h]⟩

@[simp] theorem Dev.fn_bump (d : Dev) (p b i n f : Nat) : (d.bump p b i n).fn f = d.fn f := by
  unfold Dev.bump
  split <;> rfl

theorem Dev.fn_setFn_of_ne (d : Dev) {f g : Nat} (h : f ≠ g) (x : Fn) : (d.setFn g x).fn f = d.fn f := by
  rw [Dev.fn, Dev.setFn, Tab.getD_set_of_ne _ _ _ _ _ h]
  rfl

/-- Storing a function with another queue. -/
theorem fnQueued_setFn (d : Dev) (f g : Nat) (q : List IntMsg) (o : Bool) :
    FnQueued f d (d.setFn g { d.fn g with queue := q, overflow := o }) := by
  by_cases h : f = g
  · subst h
    exact ⟨q, o, Dev.setFn_get d f _⟩
  · exact .of_fn (d.fn_setFn_of_ne h _)

theorem FnQueued.ite {f : Nat} {d a b : Dev} (c : Prop) [Decidable c] (ha : FnQueued f d a) (hb : FnQueued f d b) :
    FnQueued f d (if c then a else b) := by
  by_cases h : c
  · rw [if_pos h]; exact ha
  · rw [if_neg h]; exact hb

theorem fnQueued_intSet (k : Nat) : ∀ (d : Dev) (p b f : Nat), FnQueued f d (Dev.intSet k d p b) := by
  induction k with
  | zero => exact fun d _ _ _ => .of_fn rfl
  | succ k ih =>
    intro d p b f
    have hset : FnQueued f d (d.setW1c p R.intStat (w32 b)) := .of_fn rfl
    have hover := fun (e : Dev) g n => (fnQueued_setFn e f g (e.fn g).queue true).trans (.of_fn (Dev.fn_bump _ (pgFn g) 0 5 n f))
    unfold Dev.intSet
    exact hset.trans (.ite _ (.ite _ (.of_fn (Dev.fn_bump _ _ _ _ _ _)) (.ite _ (.of_fn (Dev.fn_bump _ _ _ _ _ _))
      (.ite _ (fnQueued_setFn _ _ _ _ _) (.ite _ (hover _ _ _) ((hover _ _ _).trans (ih _ _ _ f)))))) (.of_fn rfl))

theorem fnQueued_setInt (d : Dev) (p b f : Nat) : FnQueued f d (d.setInt p b) := fnQueued_intSet _ _ _ _ _

/-- A function's next incarnation, of 16 bits, never 0 (R476). -/
def nextInc (n : Nat) : Nat := if n = 0xFFFF then 1 else n + 1

/-- Entry to ENABLED (R476): the message queue may take the entry's own interrupt. -/
theorem Dev.fnEnter_fn (d : Dev) (f : Nat) : ((d.fnEnter f).fn f).st = .enabled ∧ ((d.fnEnter f).fn f).inc = nextInc (d.fn f).inc ∧
    ((d.fnEnter f).fn f).sent = 0 ∧ ((d.fnEnter f).fn f).pendingEnable = false := by
  unfold Dev.fnEnter
  dsimp only
  generalize (if (d.fn f).refill then d.reinRefill f else d : Dev) = e
  obtain ⟨q, o, h⟩ := fnQueued_setInt (e.setFn f { d.fn f with
    st := .enabled, pendingEnable := false, inc := nextInc (d.fn f).inc, sent := 0, refill := false,
    bucket := if (d.fn f).refill then e.irqBurst f else (d.fn f).bucket }) (pgFn f) 2 f
  rw [Dev.setFn_get] at h
  exact ⟨congrArg Fn.st h, congrArg Fn.inc h, congrArg Fn.sent h, congrArg Fn.pendingEnable h⟩

/-! Writes to FN_CTL (R477), by the function's state. -/

section
variable {d : Dev} {f : Nat} {v : Word}

theorem Dev.fnCtlWrite_enters (hst : (d.fn f).st = .disabled ∨ (d.fn f).st = .clean) (hen : fbit v 0 = true)
    (hsoft : (d.fn f).softReset = false) : d.fnCtlWrite f v = (d.setRg R.fnCtl (v &&& 5) f).fnEnter f := by
  have hfn : (d.setRg R.fnCtl (v &&& 5) f).fn f = d.fn f := rfl
  rcases hst with hst | hst <;> simp only [Dev.fnCtlWrite, hfn, hst, hen, hsoft, Bool.not_false, Bool.and_self, if_true]

theorem Dev.fnCtlWrite_quiesces (hst : (d.fn f).st = .enabled) (hen : fbit v 0 = false) (hrs : fbit v 1 = false) :
    d.fnCtlWrite f v = (d.setRg R.fnCtl (v &&& 5) f).setFn f { d.fn f with st := .quiescing } := by
  have hfn : (d.setRg R.fnCtl (v &&& 5) f).fn f = d.fn f := rfl
  simp only [Dev.fnCtlWrite, hfn, hst, hen, hrs, Bool.false_eq_true, if_false]

theorem Dev.fnCtlWrite_drains (hst : (d.fn f).st = .enabled ∨ (d.fn f).st = .quiescing) (hrs : fbit v 1 = true) :
    d.fnCtlWrite f v = (d.setRg R.fnCtl (v &&& 5) f).drain f (fbit v 0) false := by
  have hfn : (d.setRg R.fnCtl (v &&& 5) f).fn f = d.fn f := rfl
  rcases hst with hst | hst <;> simp only [Dev.fnCtlWrite, hfn, hst, hrs, if_true]

theorem Dev.fnCtlWrite_pends (hst : (d.fn f).st = .quiescing ∨ (d.fn f).st = .draining) (hrs : fbit v 1 = false) :
    d.fnCtlWrite f v = (d.setRg R.fnCtl (v &&& 5) f).fnPend f (fbit v 0) := by
  have hfn : (d.setRg R.fnCtl (v &&& 5) f).fn f = d.fn f := rfl
  rcases hst with hst | hst <;> simp only [Dev.fnCtlWrite, hfn, hst, hrs, Bool.false_eq_true, if_false]

theorem pendingEnableOp_of_leaving (hst : (d.fn f).st = .quiescing ∨ (d.fn f).st = .draining) (on post : Bool) :
    pendingEnableOp f on post d = d.fnCtlWrite f (w32 (b2n on + 4 * b2n post)) := by
  simp only [pendingEnableOp, Bool.or_eq_true, beq_iff_eq, hst, if_true]

/-! The other rows of a function (R475, R480, R481). -/

theorem Dev.fnSoftReset_drains (hst : (d.fn f).st = .enabled ∨ (d.fn f).st = .quiescing) : d.fnSoftReset f =
    ((d.setPg (pgFn f) R.blkCtl (putFld (d.pg (pgFn f) R.blkCtl) 2 2 0)).setRg R.fnCtl 0 f).drain f false true := by
  have hfn : ((d.setPg (pgFn f) R.blkCtl (putFld (d.pg (pgFn f) R.blkCtl) 2 2 0)).setRg R.fnCtl 0 f).fn f = d.fn f := rfl
  rcases hst with hst | hst <;> simp only [Dev.fnSoftReset, hfn, hst]

theorem Dev.fnSoftReset_remains (hst : (d.fn f).st = .disabled ∨ (d.fn f).st = .clean ∨ (d.fn f).st = .draining) : d.fnSoftReset f =
    ((d.setPg (pgFn f) R.blkCtl (putFld (d.pg (pgFn f) R.blkCtl) 2 2 0)).setRg R.fnCtl 0 f).setFn f
      { d.fn f with softReset := true } := by
  have hfn : ((d.setPg (pgFn f) R.blkCtl (putFld (d.pg (pgFn f) R.blkCtl) 2 2 0)).setRg R.fnCtl 0 f).fn f = d.fn f := rfl
  rcases hst with hst | hst | hst <;> simp only [Dev.fnSoftReset, hfn, hst]

theorem fnFreezeOp_of_resetting {on : Bool} (h : on = true ∧ (d.fn f).softReset = true) : fnFreezeOp f on d = d := by
  obtain ⟨rfl, hsoft⟩ := h
  simp only [fnFreezeOp, hsoft, Bool.and_self, if_true]

theorem fnFreezeOp_writes {on : Bool} (h : on = false ∨ (d.fn f).softReset = false) :
    fnFreezeOp f on d = d.setPg (pgFn f) R.blkCtl (putFld (d.pg (pgFn f) R.blkCtl) 2 2 (b2n on)) := by
  have hgoes : (on && (d.fn f).softReset) = false := Bool.and_eq_false_iff.2 h
  simp only [fnFreezeOp, hgoes, Bool.false_eq_true, if_false]

theorem fnCleanOp_of_nothing_held (hst : (d.fn f).st = .quiescing ∨ (d.fn f).st = .draining) (hheld : d.heldBy f = 0)
    (hitems : d.itemsOf f = false) : fnCleanOp f d = d.fnToClean f := by
  have hleaving : ((d.fn f).st == .quiescing || (d.fn f).st == .draining) = true := by simpa only [Bool.or_eq_true, beq_iff_eq] using hst
  simp only [fnCleanOp, hleaving, hheld, hitems, Bool.not_false, Bool.and_self, decide_true, if_true]

/-- The last cycle of a soft reset (R481). -/
theorem Dev.fnNext_of_softReset {x : Fn} (hx : x = d.fn f) (hst : x.st = .disabled ∨ x.st = .clean) (hsoft : x.softReset = true) :
    d.fnNext f = (d.pageReset (pgFn f)).setFn f { x with
      st := .disabled, pendingEnable := false, softReset := false, flipped := [], lastUs := 0, cancelled := 0, bucket := 16 * 1600000 } := by
  have hout : (x.st != .clean && x.st != .disabled) = false := by rcases hst with h | h <;> rw [h] <;> rfl
  subst hx
  simp only [Dev.fnNext, hout, hsoft, Bool.false_eq_true, if_false, if_true]
end

/-- A write to FN_CTL of a function. -/
theorem onFnCtl_next {f : Nat} (hf : f < 1024) {v : Word} {d e : Dev} (h : d.fnCtlWrite f v = e) (q : List Instr) (fu : Fuses) :
    onUnit (fun _ => decide (f < 1024)) (fun d => d.fnCtlWrite f v) ⟨q, fu, d⟩ = .next ⟨q, fu, e⟩ := onNumbered_next hf h q fu

/-- Settles O19. -/
theorem enableStartsAnIncarnation : Obligations.EnableStartsAnIncarnation := by
  intro q fu d f post hf hst hsoft
  have hen : fbit (w32 (1 + 4 * b2n post)) 0 = true := by cases post <;> rfl
  exact ⟨_, onFnCtl_next hf (Dev.fnCtlWrite_enters hst hen hsoft) q fu, Dev.fnEnter_fn _ f⟩

/-- Settles O20: the writes to FN_CTL by the function's state, then the other rows. -/
theorem functionStateCommands : Obligations.FunctionStateCommands := by
  intro q fu d f post on hf
  refine ⟨?quiesce, ?reset, ?pend, ?softDrains, ?softRemains, ?frozen, ?freeze, ?clean, ?ends⟩
  case quiesce =>
    intro hst
    have hen : fbit (w32 (4 * b2n post)) 0 = false := by cases post <;> rfl
    have hrs : fbit (w32 (4 * b2n post)) 1 = false := by cases post <;> rfl
    have hword : w32 (4 * b2n post) &&& 5 = w32 (4 * b2n post) := by cases post <;> rfl
    exact onFnCtl_next hf ((Dev.fnCtlWrite_quiesces hst hen hrs).trans (by rw [hword])) q fu
  case reset =>
    intro hst
    have hen : fbit (w32 (b2n on + 2 + 4 * b2n post)) 0 = on := by cases post <;> cases on <;> rfl
    have hrs : fbit (w32 (b2n on + 2 + 4 * b2n post)) 1 = true := by cases post <;> cases on <;> rfl
    have hword : w32 (b2n on + 2 + 4 * b2n post) &&& 5 = w32 (b2n on + 4 * b2n post) := by cases post <;> cases on <;> rfl
    exact onFnCtl_next hf ((Dev.fnCtlWrite_drains hst hrs).trans (by rw [hen, hword])) q fu
  case pend =>
    intro hst
    have hen : fbit (w32 (b2n on + 4 * b2n post)) 0 = on := by cases post <;> cases on <;> rfl
    have hrs : fbit (w32 (b2n on + 4 * b2n post)) 1 = false := by cases post <;> cases on <;> rfl
    have hword : w32 (b2n on + 4 * b2n post) &&& 5 = w32 (b2n on + 4 * b2n post) := by cases post <;> cases on <;> rfl
    exact onNumbered_next hf ((pendingEnableOp_of_leaving hst on post).trans ((Dev.fnCtlWrite_pends hst hrs).trans (by rw [hen, hword]))) q fu
  case softDrains => exact fun hst => onNumbered_next (f := fun d => d.fnSoftReset f) hf (Dev.fnSoftReset_drains hst) q fu
  case softRemains => exact fun hst => onNumbered_next (f := fun d => d.fnSoftReset f) hf (Dev.fnSoftReset_remains hst) q fu
  case frozen => exact fun h => onNumbered_next hf (fnFreezeOp_of_resetting h) q fu
  case freeze => exact fun h => onNumbered_next hf (fnFreezeOp_writes h) q fu
  case clean => exact fun hst hheld hitems => onNumbered_next hf (fnCleanOp_of_nothing_held hst hheld hitems) q fu
  case ends => exact fun x hx hst hsoft => Dev.fnNext_of_softReset hx hst hsoft

/-! REIN_SELECT (R482, R486) and STARVED (R489). -/

section
variable {d d1 : Dev} {i : Nat} {it : ReinItem} (hfrozen : d.frozen (pgRein i) = false) (halive : d.alive = true)
  (hsel : d.reinSelect i (fun it => d.reinCan i it) = (d1, some it))
include hfrozen halive hsel

theorem reinSelectOp_of_message {n : Nat} {m : Msg} (hkind : it.kind = .message n) (hm : Tab.find? d1.fab.tp.outbox n = some m) :
    reinSelectOp i d =
      (({ d1 with fab := { d1.fab with tp := { d1.fab.tp with outbox := Tab.del d1.fab.tp.outbox n } } } : Dev).msgLeaves m).sendFlits i m := by
  simp only [reinSelectOp, hfrozen, halive, hsel, hkind, hm, Bool.not_true, Bool.or_self, Bool.false_eq_true, if_false]

theorem reinSelectOp_of_work (hkind : ∀ n, it.kind ≠ .message n) : reinSelectOp i d = d1.reinGive i it.kind := by
  simp only [reinSelectOp, hfrozen, halive, hsel, Bool.not_true, Bool.or_self, Bool.false_eq_true, if_false]
end

theorem starvedOp_of_starved {d : Dev} {i us : Nat} (hus : us = max (d.fd R.reinCfg 15 0 i) 1)
    (htagged : (d.rein i).queues.any (fun q => q.2.tagged) = true) (hdue : (d.rein i).servedAt + usCycles us ≤ d.now)
    (hstrict : (d.rein i).strict.any (fun q => !q.2.isEmpty) = true) (hfrozen : d.frozen (pgRein i) = false) :
    starvedOp i d = ((d.setRein i { d.rein i with servedAt := d.now }).setInt (pgRein i) 0).bump (pgRein i) 0 10 := by
  subst hus
  simp only [starvedOp, htagged, hdue, hstrict, hfrozen, decide_true, Bool.not_false, Bool.and_self, if_true]

/-- Settles O21. -/
theorem reinServesItsResource : Obligations.ReinServesItsResource := by
  intro q fu d i hi hhalf
  have hhas : hasRein i d = true := by simp [hasRein, hi, hhalf]
  refine ⟨?message, ?work, ?starved⟩
  case message =>
    intro d1 it n m hfrozen halive hsel hkind hm
    exact onUnit_next hhas (reinSelectOp_of_message hfrozen halive hsel hkind hm) q fu
  case work =>
    intro d1 it hfrozen halive hsel hkind
    refine onUnit_next hhas (reinSelectOp_of_work hfrozen halive hsel fun n h => ?_) q fu
    rw [h] at hkind
    exact absurd hkind Bool.false_ne_true
  case starved =>
    exact fun us hus htagged hdue hstrict hfrozen => onUnit_next hhas (starvedOp_of_starved hus htagged hdue hstrict hfrozen) q fu

end Sys2Proof.Machine
end

section
/-! PROOFS. What reading memory leaves as it was (18_errors_and_ras.md): a read may report, correct words and enter Rein items, and no more. -/

namespace Sys2Proof.Machine
open Sys2Proof

/-- `e` is `d` after reads of memory: what reports change, the memory, the Rein queues and the free values drawn; everything else stands as it
was. -/
def ReadsMemory (d e : Dev) : Prop :=
  ∃ regs fresh cnts fns ras mem reins draws,
    e = { d with regs := regs, fresh := fresh, cnts := cnts, fns := fns, ras := ras, mem := mem, reins := reins, draws := draws }

theorem ReadsMemory.refl (d : Dev) : ReadsMemory d d := ⟨d.regs, d.fresh, d.cnts, d.fns, d.ras, d.mem, d.reins, d.draws, rfl⟩

theorem ReadsMemory.trans {d e f : Dev} (h : ReadsMemory d e) (g : ReadsMemory e f) : ReadsMemory d f := by
  obtain ⟨_, _, _, _, _, _, _, _, rfl⟩ := h
  obtain ⟨r, w, c, n, s, m, i, k, rfl⟩ := g
  exact ⟨r, w, c, n, s, m, i, k, rfl⟩

theorem Reports.readsMemory {d e : Dev} (h : Reports d e) : ReadsMemory d e := by
  obtain ⟨r, w, c, n, s, rfl⟩ := h
  exact ⟨r, w, c, n, s, d.mem, d.reins, d.draws, rfl⟩

theorem readsMemory_mem (d : Dev) (m : Memory) : ReadsMemory d { d with mem := m } :=
  ⟨d.regs, d.fresh, d.cnts, d.fns, d.ras, m, d.reins, d.draws, rfl⟩

theorem readsMemory_setRein (d : Dev) (i : Nat) (r : Rein) : ReadsMemory d (d.setRein i r) :=
  ⟨d.regs, d.fresh, d.cnts, d.fns, d.ras, d.mem, _, d.draws, rfl⟩

theorem readsMemory_bump (d : Dev) (p b i n : Nat) : ReadsMemory d (d.bump p b i n) := (reports_bump d p b i n).readsMemory

/-- Either branch reads. -/
theorem ReadsMemory.ite {d a b : Dev} (c : Prop) [Decidable c] (ha : ReadsMemory d a) (hb : ReadsMemory d b) :
    ReadsMemory d (if c then a else b) := by
  by_cases h : c
  · rw [if_pos h]; exact ha
  · rw [if_neg h]; exact hb

/-- A fold of reads reads. -/
theorem ReadsMemory.foldl {β : Type} (f : Dev → β → Dev) (hf : ∀ d b, ReadsMemory d (f d b)) (l : List β) (d : Dev) :
    ReadsMemory d (l.foldl f d) :=
  foldl_keeps (fun e => ReadsMemory d e) f (fun e b h => h.trans (hf e b)) l d (.refl d)

theorem ReadsMemory.brd {d e : Dev} (h : ReadsMemory d e) : e.brd = d.brd := by obtain ⟨_, _, _, _, _, _, _, _, rfl⟩ := h; rfl

theorem readsMemory_touchWord (d : Dev) (w : Nat) : ReadsMemory d (d.touchWord w) := by
  have ce := fun p s => (reports_ceWord d p 0 (64 * (w / 8)) s (w % 8)).readsMemory
  have ue := fun p s => (reports_ueWord d p 0 (64 * (w / 8)) s (w % 8)).readsMemory
  unfold Dev.touchWord
  dsimp only
  split
  · exact .refl d
  · exact .refl d
  · split
    · exact (ue _ _).trans (reports_hideUe _ _ _).readsMemory
    · exact (ue _ _).trans (readsMemory_bump _ _ _ _ _)
    · exact ue _ _
  · refine ReadsMemory.ite _ (ReadsMemory.trans (ReadsMemory.trans ?_ (readsMemory_mem _ _)) (readsMemory_bump _ _ _ _ _)) ?_
    all_goals
      split
      · exact (ce _ _).trans (readsMemory_bump _ _ _ _ _)
      · exact (ce _ _).trans (readsMemory_bump _ _ _ _ _)
      · exact ce _ _

theorem readsMemory_bridgeRead (d : Dev) (l : Nat) : ReadsMemory d (d.bridgeRead l) := by
  have h := (reports_bridgeHit d l).readsMemory
  exact .ite _ (h.trans ((readsMemory_mem _ _).trans (readsMemory_bump _ _ _ _ _))) h

theorem readsMemory_touchLine (d : Dev) (l : Nat) : ReadsMemory d (d.touchLine l) := by
  have words : ReadsMemory d ((List.range 8).foldl (fun d i => d.touchWord (8 * l + i)) d) :=
    .foldl _ (fun d i => readsMemory_touchWord d _) _ _
  unfold Dev.touchLine
  refine .ite _ (reports_poisonUsed _ _ _ _ _).readsMemory (.ite _ (readsMemory_bridgeRead _ _) (.ite _ ?_ ?_))
  · split
    · exact readsMemory_bump _ _ _ _ _
    · exact .refl d
  · refine .ite _ (ReadsMemory.trans (ReadsMemory.trans ?_ (readsMemory_mem _ _)) (readsMemory_bump _ _ _ _ _)) ?_
    all_goals
      split
      · exact .ite _ words (words.trans (reports_poisonUsed _ _ _ _ _).readsMemory)
      · exact words

theorem readsMemory_reinHead (d : Dev) (i f : Nat) : ReadsMemory d (d.reinHead i f) := by
  have counted : ∀ r k c, ReadsMemory d (((d.setRein i r).bump (pgRein i) 0 k).bumpFn i f c) := fun r k c =>
    (readsMemory_setRein d i r).trans (Reports.trans (reports_bump _ _ _ _ _) (reports_bumpFn _ _ _ _ _)).readsMemory
  unfold Dev.reinHead
  dsimp only
  split
  · exact readsMemory_setRein _ _ _
  · refine .ite _ (.refl d) (.ite _ (.ite _ (readsMemory_setRein _ _ _) (counted _ _ _)) (.ite _ (readsMemory_setRein _ _ _) (counted _ _ _)))

theorem readsMemory_reinPut (d : Dev) (i : Nat) (k : Option Nat) (it : ReinItem) : ReadsMemory d (d.reinPut i k it) := by
  cases k with
  | some k => exact readsMemory_setRein _ _ _
  | none => exact (readsMemory_setRein _ _ _).trans (readsMemory_reinHead _ _ _)

theorem readsMemory_baseAccess (d : Dev) (s o n pos : Nat) (who : Charge) : ReadsMemory d (d.baseAccess s o n pos who) := by
  have h : ReadsMemory d ((d.bump (0xC0 + s) 0 pos n).reinBase s n who) :=
    (readsMemory_bump _ _ _ _ _).trans (.foldl _ (fun d _ => readsMemory_reinPut d _ _ _) _ _)
  unfold Dev.baseAccess
  exact .ite _ (h.trans ⟨_, _, _, _, _, _, _, _, rfl⟩) h

theorem readsMemory_touchLines (d : Dev) (a n : Nat) : ReadsMemory d (d.touchLines a n) :=
  .ite _ (.refl d) (.foldl _ (fun d _ => readsMemory_touchLine d _) _ _)

/-- Reading memory leaves every unit but the Rein queues as it was. -/
theorem readsMemory_touch (d : Dev) (a n : Nat) (who : Charge := {}) : ReadsMemory d (d.touch a n who) := by
  have lines := readsMemory_touchLines d a n
  unfold Dev.touch
  refine .ite _ (.refl d) ?_
  split
  · exact lines.trans (readsMemory_bump _ _ _ _ _)
  · exact lines.trans (readsMemory_baseAccess _ _ _ _ _ _)
  · exact lines

end Sys2Proof.Machine
end

section
/-! PROOFS. Boot, security and management (17_boot_security_management.md): Brand operations (R530 to R536), the cold boot (R523 to R526) and
network recovery (R527, R528). -/

namespace Sys2Proof.Machine
open Sys2Proof

/-! Beginning an operation (R536). -/

section
variable {d : Dev} {op : BrandOp}

theorem Dev.opStart_of_busy {o : BrandOp} (hbusy : d.brd.op = some o) (bad : Nat) : d.opStart op bad = d.opResult op.reg 1 := by
  simp only [Dev.opStart, hbusy, Option.isSome_some, if_true]

variable (hidle : d.brd.op = none)
include hidle

theorem Dev.opStart_of_refused {bad : Nat} (hbad : bad ≠ 0) : d.opStart op bad = d.opEnd op.reg bad := by
  simp only [Dev.opStart, hidle, Option.isSome_none, Bool.false_eq_true, if_false, bne_iff_ne, hbad, ne_eq, not_false_eq_true, if_true]

theorem Dev.opStart_of_good : d.opStart op 0 = { d with brd := { d.brd with op := some op } } := by
  simp only [Dev.opStart, hidle, Option.isSome_none, Bool.false_eq_true, if_false, bne_self_eq_false]

/-! ARB_COMMIT and REVOKE (R530, R531). -/

theorem arbCommitOp_begins {v : Nat} {fu : Fuses} (hrun : v ≤ d.runVersion) (hnew : fu.arb < v) :
    arbCommitOp v fu d = { d with brd := { d.brd with op := some (.commit v) } } := by
  simp only [arbCommitOp, Nat.not_lt.2 hrun, Nat.not_le.2 hnew, decide_false, Bool.or_self, Bool.false_eq_true, if_false]
  exact Dev.opStart_of_good hidle

theorem arbCommitOp_of_refused {v : Nat} {fu : Fuses} (h : d.runVersion < v ∨ v ≤ fu.arb) :
    arbCommitOp v fu d = d.opEnd (BrandOp.commit v).reg 3 := by
  simp only [arbCommitOp, Bool.or_eq_true, decide_eq_true_eq, h, if_true]
  exact Dev.opStart_of_refused hidle (by decide)

/-- A slot other than the running image's is revoked while another good one is left. -/
theorem revokeOp_begins {k j : Nat} {fu : Fuses} (hrun : k ≠ d.runSlot) (hj : j < 4) (hjk : j ≠ k) (hgood : fu.good j = true) :
    revokeOp k 0xA5 fu d = { d with brd := { d.brd with op := some (.revoke k) } } := by
  have hleft : (List.range 4).any (fun j => j != k && fu.good j) = true :=
    List.any_eq_true.2 ⟨j, List.mem_range.2 hj, by rw [hgood, bne_iff_ne.2 hjk]; rfl⟩
  simp only [revokeOp, hrun, hleft, bne_self_eq_false, decide_false, Bool.not_true, Bool.or_self, Bool.false_eq_true, if_false]
  exact Dev.opStart_of_good hidle

theorem revokeOp_of_wrong_key {k key : Nat} (hkey : key ≠ 0xA5) (fu : Fuses) :
    revokeOp k key fu d = d.opEnd (BrandOp.revoke k).reg 2 := by
  simp only [revokeOp, bne_iff_ne, hkey, ne_eq, not_false_eq_true, if_true]
  exact Dev.opStart_of_refused hidle (by decide)

theorem revokeOp_of_running_slot {k : Nat} (hrun : k = d.runSlot) (fu : Fuses) :
    revokeOp k 0xA5 fu d = d.opEnd (BrandOp.revoke k).reg 3 := by
  simp only [revokeOp, hrun, bne_self_eq_false, decide_true, Bool.true_or, Bool.false_eq_true, if_false, if_true]
  exact Dev.opStart_of_refused hidle (by decide)

/-! KEY_PROG, EXTEND and QUOTE (R531, R533, R534): the operand is read first. -/

theorem Dev.seatRead_of_good {a n : Nat} (hseat : d.seatArg a n = true) : d.seatRead a n = d.touch a n := by
  simp only [Dev.seatRead, hidle, hseat, Option.isNone_none, Bool.and_self, if_true]

/-- Reading an operand and storing a register leaves Brand idle. -/
theorem Dev.idle_of_operand (a n : Nat) (r : RegId) (hi lo v : Nat) : ((d.touch a n).setFd r hi lo v).brd.op = none := by
  rw [Dev.setFd_brd, (readsMemory_touch d a n).brd, hidle]

theorem keyProgOp_begins {k a : Nat} {fu : Fuses} {d1 : Dev} (hrun : k ≠ d.runSlot) (hblank : fu.programmed k = false)
    (hrevoked : k ∉ fu.revoked) (ha : a = d.addr52 R.brdKeyAddrLo R.brdKeyAddrHi) (hseat : d.seatArg a 64 = true)
    (hd1 : d1 = (d.touch a 64).setFd R.brdKeyProg 1 0 k) :
    keyProgOp k fu d = { d1 with brd := { d1.brd with op := some (.keyProg k (d.peek a 64)) } } := by
  have hnot : fu.revoked.contains k = false := by simpa using hrevoked
  subst ha hd1
  simp only [keyProgOp, hseat, hrun, hblank, hnot, Dev.seatRead_of_good hidle hseat, decide_false, Bool.not_true, Bool.or_self,
    Bool.false_eq_true, if_false]
  exact Dev.opStart_of_good (Dev.idle_of_operand hidle _ _ _ _ _ _)

theorem extendOp_begins {i a : Nat} {d1 : Dev} (hi : 3 ≤ i) (ha : a = d.addr52 R.brdExtAddrLo R.brdExtAddrHi)
    (hseat : d.seatArg a 64 = true) (hd1 : d1 = (d.touch a 64).setFd R.brdExtend 2 0 i) :
    extendOp i d = { d1 with brd := { d1.brd with op := some (.extend i (d.peek a 64)) } } := by
  subst ha hd1
  simp only [extendOp, hseat, Nat.not_lt.2 hi, Dev.seatRead_of_good hidle hseat, decide_false, Bool.not_true, Bool.or_self,
    Bool.false_eq_true, if_false]
  exact Dev.opStart_of_good (Dev.idle_of_operand hidle _ _ _ _ _ _)

theorem quoteOp_begins {a : Nat} {d1 : Dev} (ha : a = d.addr52 R.brdQuoteAddrLo R.brdQuoteAddrHi) (hseat : d.seatArg a 768 = true)
    (hd1 : d1 = d.setFd R.brdQuote 1 1 0) : quoteOp d = { d1 with brd := { d1.brd with op := some (.quote a) } } := by
  subst ha hd1
  simp only [quoteOp, hidle, hseat, Option.isSome_none, Bool.false_eq_true, if_false, if_true]
  exact Dev.opStart_of_good (by rw [Dev.setFd_brd, hidle])
end

theorem quoteOp_of_busy {d : Dev} {o : BrandOp} (hbusy : d.brd.op = some o) : quoteOp d = d.opResult (BrandOp.quote 0).reg 1 := by
  simp only [quoteOp, hbusy, Option.isSome_some, if_true]
  exact Dev.opStart_of_busy hbusy _

/-! BRAND_OP_DONE (R522, R536), DEBUG_OPEN (R535) and CC_START (R520). -/

section
variable {s : State} {op : BrandOp} {bad : Nat} {d1 : Dev} (hop : s.dev.brd.op = some op)
  (hd1 : d1 = { s.dev with brd := { s.dev.brd with op := none } })
include hop hd1

theorem brandDone_of_good (hfails : s.fuses.fails op bad = false) : brandDone bad s =
    { s with fuses := s.fuses.program op 0, dev := (d1.opEffect s.fuses op).opEnd op.reg 0 } := by
  subst hd1
  simp only [brandDone, hop, hfails, Bool.false_eq_true, if_false]

theorem brandDone_of_failed (hfails : s.fuses.fails op bad = true) : brandDone bad s =
    { s with fuses := s.fuses.program op bad, dev := ((d1.opEffect s.fuses op).opEnd op.reg 4).setErr pgBrand 0 0 } := by
  subst hd1
  simp only [brandDone, hop, hfails, if_true]
end

theorem debugOpenOp_of_closed {d : Dev} {fu : Fuses} (hlock : fu.debugLock = false) (hclosed : d.fd R.brdDebug 1 1 ≠ 1) :
    debugOpenOp fu d = (d.setRg R.brdDebug 2).mrExtend 7 (sha512 (ascii "DBG-OPEN")) := by
  simp only [debugOpenOp, hlock, hclosed, decide_false, Bool.or_self, Bool.false_eq_true, if_false]

theorem mem_foldl_insNat {c : Nat} (new : List Nat) : ∀ l, c ∈ new ∨ c ∈ l → c ∈ new.foldl insNat l := by
  induction new with
  | nil => exact fun l h => h.resolve_left List.not_mem_nil
  | cons n new ih =>
    intro l h
    refine ih _ ?_
    rcases h with h | h
    · rcases List.mem_cons.1 h with rfl | h
      · exact .inr ((mem_insNat c c l).2 (.inl rfl))
      · exact .inl h
    · exact .inr ((mem_insNat n c l).2 (.inr h))

/-- Every listed key of a table is given one value. -/
theorem Tab.find?_foldl_set {α : Type} {c : Nat} {v : α} (new : List Nat) : ∀ t : Tab α, c ∈ new ∨ Tab.find? t c = some v →
    Tab.find? (new.foldl (fun t n => Tab.set t n v) t) c = some v := by
  induction new with
  | nil => exact fun t h => h.resolve_left List.not_mem_nil
  | cons n new ih =>
    intro t h
    refine ih _ ?_
    by_cases hn : c = n
    · subst hn
      exact .inr (Tab.find?_set_self c v t)
    · rw [Tab.find?_set_of_ne c n v hn]
      exact h.imp_left fun hc => (List.mem_cons.1 hc).resolve_left hn

/-- A core that is named and not running is among those that start. -/
theorem ccStartOp_starts {d : Dev} {c mask : Nat} (h1 : 1 ≤ c) (h16 : c < 16) (hmask : mask.testBit c = true) (hnew : c ∉ d.brd.running) :
    c ∈ (ccStartOp mask d).brd.running ∧
      Tab.find? (ccStartOp mask d).brd.entries c = some (d.addr64 R.ccEntryLo R.ccEntryHi) := by
  have hmem : c ∈ (List.range 16).filter (fun c => c != 0 && mask.testBit c && !d.brd.running.contains c) := by
    have hne : c ≠ 0 := by omega
    simp [h16, hne, hmask, hnew]
  exact ⟨mem_foldl_insNat _ _ (.inl hmem), Tab.find?_foldl_set _ _ (.inl hmem)⟩

/-- Settles O40: each operation begins, is refused or finds one running; then its end, debug and the cores. -/
theorem brandOperations : Obligations.BrandOperations := by
  intro q fu d
  refine ⟨?starts, ?busy, ?keyProg, ?extend, ?quote, ?done, ?failed, ?debug, ?cores⟩
  case starts =>
    intro op hidle
    refine ⟨?commit, ?commitRefused, ?revoke, ?wrongKey, ?runningSlot⟩
    case commit =>
      rintro v hrun hnew rfl
      exact onFuses_next (arbCommitOp_begins hidle hrun hnew) q
    case commitRefused =>
      rintro v h rfl
      exact onFuses_next (arbCommitOp_of_refused hidle h) q
    case revoke =>
      rintro k key j hkey hrun hj hjk hgood rfl
      exact onFuses_next (hkey ▸ revokeOp_begins hidle hrun hj hjk hgood) q
    case wrongKey =>
      rintro k key hkey rfl
      exact onFuses_next (revokeOp_of_wrong_key hidle hkey fu) q
    case runningSlot =>
      rintro k key hkey hrun rfl
      exact onFuses_next (hkey ▸ revokeOp_of_running_slot hidle hrun fu) q
  case busy =>
    exact fun o k key hbusy => ⟨onFuses_next (Dev.opStart_of_busy hbusy _) q, onFuses_next (Dev.opStart_of_busy hbusy _) q,
      onDev_next (quoteOp_of_busy hbusy) q fu⟩
  case keyProg =>
    intro k a d1 hidle hrun hblank hrevoked ha hseat hd1
    exact onFuses_next (keyProgOp_begins hidle hrun hblank hrevoked ha hseat hd1) q
  case extend => exact fun i a d1 hidle hi ha hseat hd1 => onDev_next (extendOp_begins hidle hi ha hseat hd1) q fu
  case quote => exact fun a d1 hidle ha hseat hd1 => onDev_next (quoteOp_begins hidle ha hseat hd1) q fu
  case done => exact fun op bad d1 hop hfails hd1 => congrArg Host.Outcome.next (brandDone_of_good (s := ⟨q, fu, d⟩) hop hd1 hfails)
  case failed => exact fun op bad d1 hop hfails hd1 => congrArg Host.Outcome.next (brandDone_of_failed (s := ⟨q, fu, d⟩) hop hd1 hfails)
  case debug => exact fun hlock hclosed => onFuses_next (debugOpenOp_of_closed hlock hclosed) q
  case cores => exact fun c mask h1 h16 hmask hnew => ⟨_, onDev_state (ccStartOp mask) ⟨q, fu, d⟩, ccStartOp_starts h1 h16 hmask hnew⟩

/-! COLD_BOOT (R525). -/

section
variable {d1 : Dev} {fu : Fuses} {hdr again h : List Byte}

theorem Dev.bootRom_of_failed_tests (d : Dev) (r : Bool) : d.bootRom fu r false hdr again = ((d.setCause 9).setStage 3).setPhase .halted := rfl

variable {d : Dev} (hd1 : d1 = (bootPages d.part).foldl (fun d p => d.setPg p R.blkCtl 1) d)
include hd1

theorem Dev.bootRom_of_recovery : d.bootRom fu true true hdr again = d1.startRecovery fu := by
  subst hd1; rfl

variable (hh : h = if hNoMedia hdr then again else hdr)
include hh

theorem Dev.bootRom_of_good_header (hcause : hCause fu h = 0) :
    d.bootRom fu false true hdr again = ({ d1 with brd := { d1.brd with header := h } } : Dev).setPhase .body := by
  subst hd1 hh
  simp only [Dev.bootRom, hcause, Bool.not_true, Bool.false_eq_true, if_false, bne_self_eq_false]

theorem Dev.bootRom_of_bad_header (hcause : hCause fu h ≠ 0) :
    d.bootRom fu false true hdr again = (d1.setCause (hCause fu h)).startRecovery fu := by
  subst hd1 hh
  simp only [Dev.bootRom, bne_iff_ne, ne_eq, hcause, Bool.not_true, Bool.false_eq_true, if_false, not_false_eq_true, if_true]
end

/-- A cold boot from reset: the fuses as an interrupted operation leaves them, and the ROM's steps on the reset device (R522, R525). -/
theorem exec_coldBoot {d e : Dev} {fu fu' : Fuses} {torn : Nat} {r st : Bool} {hdr again : List Byte} (hreset : d.pins.resetN = false)
    (hfu : fu' = (d.brd.op.map (fun op => fu.program op torn)).getD fu) (h : d.coldReset.bootRom fu' r st hdr again = e) (q : List Instr) :
    exec (.coldBoot r st torn hdr again) ⟨q, fu, d⟩ = .next ⟨q, fu', e⟩ := by
  have hboot : coldBoot r st torn hdr again ⟨q, fu, d⟩ = ⟨q, fu', e⟩ := by
    subst h hfu
    simp only [coldBoot, hreset, Bool.false_eq_true, if_false]
    cases d.brd.op <;> rfl
  exact congrArg Host.Outcome.next hboot

/-! BOOT_BODY_LOADED (R524) and HIDE_TRAINING_DONE (R526). -/

section
variable {d d1 : Dev} {fu : Fuses} {h body : List Byte} (hphase : d.brd.phase = .body) (hh : h = d.brd.header)
  (hd1 : d1 = d.store (hLoad h) (slice body 0 (hBodyLen h)))
include hphase hh hd1

theorem bootBodyOp_of_good (hgood : d1.bodyGood h = true) : bootBodyOp body fu d = d1.measured fu 0 := by
  subst hd1 hh
  simp only [bootBodyOp, hphase, hgood, bne_self_eq_false, Bool.false_eq_true, if_false, if_true]

theorem bootBodyOp_of_bad (hbad : d1.bodyGood h = false) : bootBodyOp body fu d = (d1.setCause 6).startRecovery fu := by
  subst hd1 hh
  simp only [bootBodyOp, hphase, hbad, bne_self_eq_false, Bool.false_eq_true, if_false]
end

section
variable {d d1 : Dev} {failed : Nat} (hon : d.brd.phase ≠ .off) (hgoes : d.brd.phase ≠ .halted) (hnew : d.brd.hideTrained = false)
  (hd1 : d1 = ((List.range 16).filter (fun n => failed.testBit n)).foldl (fun d n => d.stackDown n) d)
include hon hgoes hnew hd1

theorem hideTrainingOp_eq : hideTrainingOp failed d = if d1.brd.phase = .trainWait then
    ({ d1 with brd := { d1.brd with hideTrained := true } } : Dev).release else { d1 with brd := { d1.brd with hideTrained := true } } := by
  have hheeds : (d.brd.phase == .off || d.brd.phase == .halted || d.brd.hideTrained) = false := by simp [hon, hgoes, hnew]
  subst hd1
  simp only [hideTrainingOp, hheeds, Bool.false_eq_true, if_false, beq_iff_eq]
end

/-- Settles O41. -/
theorem bootFromFlash : Obligations.BootFromFlash := by
  intro q fu d
  refine ⟨?cold, ?body, ?released, ?earlier⟩
  case cold =>
    intro torn hdr again h fu' d1 hreset hfu hh hd1
    exact ⟨fun hcause => exec_coldBoot hreset hfu (Dev.bootRom_of_good_header hd1 hh hcause) q,
      fun hcause => exec_coldBoot hreset hfu (Dev.bootRom_of_bad_header hd1 hh hcause) q,
      exec_coldBoot hreset hfu (Dev.bootRom_of_recovery hd1) q,
      fun r => exec_coldBoot hreset hfu (Dev.bootRom_of_failed_tests _ r) q⟩
  case body =>
    intro body h d1 hphase hh hd1
    exact ⟨fun hgood => onFuses_next (bootBodyOp_of_good hphase hh hd1 hgood) q,
      fun hbad => onFuses_next (bootBodyOp_of_bad hphase hh hd1 hbad) q⟩
  case released =>
    intro failed d1 hphase hnew hd1 hwaits
    have hon : d.brd.phase ≠ .off := by rw [hphase]; decide
    have hgoes : d.brd.phase ≠ .halted := by rw [hphase]; decide
    exact onDev_next ((hideTrainingOp_eq hon hgoes hnew hd1).trans (if_pos hwaits)) q fu
  case earlier =>
    exact fun failed d1 hon hgoes hnew hd1 hearly => onDev_next ((hideTrainingOp_eq hon hgoes hnew hd1).trans (if_neg hearly)) q fu

/-! Recovery (R527, R528). -/

/-- RECOVERY_TIMEOUT: the next source, by BRD_RCV_CFG. -/
theorem recoveryTimeoutOp_of_due {d d1 : Dev} {fu : Fuses} (hphase : d.brd.phase = .network ∨ d.brd.phase = .fabric)
    (hdue : d.brd.rcv.since + secCycles 120 ≤ d.now) (hd1 : d1 = d.setCause 8) : recoveryTimeoutOp fu d =
      if d1.fd R.brdRcvCfg 18 17 = 1 then d1.netStart fu else if d1.fd R.brdRcvCfg 18 17 = 2 then d1.fabStart
      else if d.brd.phase = .network ∧ d1.fd R.brdRcvCfg 31 31 = 1 then d1.fabStart else d1.netStart fu := by
  have hruns : ((d.brd.phase == .network || d.brd.phase == .fabric) && decide (d.brd.rcv.since + secCycles 120 ≤ d.now)) = true := by
    simp [hphase, hdue]
  have hphase1 : (d.setCause 8).brd.phase = d.brd.phase := rfl
  subst hd1
  simp only [recoveryTimeoutOp, hruns, hphase1, if_true, Bool.and_eq_true, beq_iff_eq, decide_eq_true_eq]

theorem recoveryTimeoutOp_of_fabric {d d1 : Dev} {fu : Fuses} (hphase : d.brd.phase = .fabric)
    (hdue : d.brd.rcv.since + secCycles 120 ≤ d.now) (hd1 : d1 = d.setCause 8) :
    recoveryTimeoutOp fu d = if d1.fd R.brdRcvCfg 18 17 = 2 then d1.fabStart else d1.netStart fu := by
  rw [recoveryTimeoutOp_of_due (.inr hphase) hdue hd1]
  have hnet : d.brd.phase ≠ .network := by rw [hphase]; decide
  by_cases h1 : d1.fd R.brdRcvCfg 18 17 = 1
  · simp [h1]
  · simp [h1, hnet]

theorem recoveryTimeoutOp_of_network {d d1 : Dev} {fu : Fuses} (hphase : d.brd.phase = .network)
    (hdue : d.brd.rcv.since + secCycles 120 ≤ d.now) (hd1 : d1 = d.setCause 8) : recoveryTimeoutOp fu d =
      if d1.fd R.brdRcvCfg 18 17 = 1 then d1.netStart fu
      else if d1.fd R.brdRcvCfg 18 17 = 2 ∨ d1.fd R.brdRcvCfg 31 31 = 1 then d1.fabStart else d1.netStart fu := by
  rw [recoveryTimeoutOp_of_due (.inl hphase) hdue hd1]
  by_cases h2 : d1.fd R.brdRcvCfg 18 17 = 2
  · simp [h2]
  · simp [h2, hphase]

section
variable {d : Dev} {r : Recovery} {fu : Fuses} (hr : r = d.brd.rcv) (hphase : d.brd.phase = .network)
include hr hphase

theorem fecAlternateOp_of_due (hstage : r.stage = .link) (hdue : r.fecAt + secCycles 1 ≤ d.now) : fecAlternateOp d =
    (d.setRcv (fun r => { r with fec := !r.fec, fecAt := d.now })).setFd R.mgmtStat 1 1 (b2n (!r.fec)) := by
  subst hr
  simp only [fecAlternateOp, hphase, hstage, hdue, beq_self_eq_true, decide_true, Bool.and_self, if_true]

/-! The DHCP exchange. -/

theorem dhcpReplyOp_of_offer (hstage : r.stage = .discover) (addr mask router : Nat) {server : Nat} {file : List Byte} (hfile : file ≠ [])
    (hserver : server ≠ 0) {r' : Recovery} (hr' : r' = { r with
      stage := .request, tries := 0, sentAt := d.now, leased := addr, mask := mask, router := router, server := server, file := file }) :
    dhcpReplyOp false addr mask router server file d = (d.setRcv (fun _ => r')).netSend [.request server addr] := by
  subst hr' hr
  simp only [dhcpReplyOp, hphase, hstage, List.isEmpty_eq_false_iff.2 hfile, hserver, bne_self_eq_false, beq_self_eq_true, Bool.not_false,
    Bool.and_self, decide_false, Bool.or_self, Bool.false_eq_true, if_false, if_true]
  rfl

theorem dhcpReplyOp_of_ack (hstage : r.stage = .request) (mask router server : Nat) (file : List Byte) :
    dhcpReplyOp true r.leased mask router server file d = (d.setRcv (fun r => { r with stage := .arp, sentAt := d.now })).netSend
      [.arpRequest (if (r.server &&& r.mask) = (r.leased &&& r.mask) then r.server else r.router)] := by
  subst hr
  simp only [dhcpReplyOp, hphase, hstage, bne_self_eq_false, beq_self_eq_true, Bool.not_true, Bool.and_false, Bool.and_self,
    Bool.false_eq_true, if_false, if_true, beq_iff_eq]

section
variable (hstage : r.stage = .discover ∨ r.stage = .request)
include hstage

theorem Dev.retransmits (hdue : r.sentAt + secCycles (4 * 2 ^ r.tries) ≤ d.now) :
    (d.brd.phase != .network || !(d.brd.rcv.stage == .discover || d.brd.rcv.stage == .request) ||
      decide (d.now < d.brd.rcv.sentAt + secCycles (4 * 2 ^ d.brd.rcv.tries))) = false := by
  rw [← hr, decide_eq_false (Nat.not_lt.2 hdue), hphase]
  rcases hstage with h | h <;> rw [h] <;> rfl

theorem dhcpRetransmitOp_again (hdue : r.sentAt + secCycles (4 * 2 ^ r.tries) ≤ d.now) (htries : r.tries ≠ 2) : dhcpRetransmitOp fu d =
    (d.setRcv (fun r => { r with tries := r.tries + 1 })).netSend
      [if r.stage = .discover then .discover fu.deviceId else .request r.server r.leased] := by
  have hheeds := Dev.retransmits hr hphase hstage hdue
  subst hr
  simp only [dhcpRetransmitOp, hheeds, htries, Bool.false_eq_true, if_false, beq_iff_eq]

theorem dhcpRetransmitOp_starts_again (hdue : r.sentAt + secCycles 16 ≤ d.now) (htries : r.tries = 2) :
    dhcpRetransmitOp fu d = d.netDiscover fu [] := by
  have hheeds := Dev.retransmits hr hphase hstage (by rw [htries]; exact hdue)
  subst hr
  exact (if_neg (ne_true_of_eq_false hheeds)).trans (if_pos htries)
end

/-! ARP, then the transfer. -/

theorem recoveryArpOp_of_request (hstage : r.stage = .arp ∨ r.stage = .tftp) (hleased : r.leased ≠ 0) (mac : Nat) :
    recoveryArpOp true r.leased mac fu d = d.netSend [.arpReply r.leased fu.mac] := by
  have hasked : (r.leased != 0 && r.leased == r.leased && (r.stage == .arp || r.stage == .tftp)) = true := by simp [hstage, hleased]
  subst hr
  simp only [recoveryArpOp, hphase, hasked, bne_self_eq_false, Bool.false_eq_true, if_false, if_true]

theorem recoveryArpOp_of_reply (hstage : r.stage = .arp) (mac : Nat) :
    recoveryArpOp false (if (r.server &&& r.mask) = (r.leased &&& r.mask) then r.server else r.router) mac fu d =
      (d.setRcv (fun r => { r with peerMac := some mac })).tftpStart := by
  subst hr
  simp only [recoveryArpOp, hphase, hstage, bne_self_eq_false, beq_self_eq_true, beq_iff_eq, Bool.and_self, Bool.false_eq_true, if_false,
    if_true]

section
variable (hstage : r.stage = .tftp)
include hstage

theorem Dev.inTransfer : (d.brd.phase != .network || d.brd.rcv.stage != .tftp) = false := by
  rw [← hr, hphase, hstage]; rfl

theorem tftpBlockOp_of_options (hblock : r.block = 0) (hgot : r.got = []) (n : Nat) (data : List Byte) :
    tftpBlockOp true n data fu d = (d.setRcv (fun r => { r with blksize := n, sentAt := d.now, tries := 0 })).netSend [.ack 0] := by
  have hin := Dev.inTransfer hr hphase hstage
  subst hr
  simp only [tftpBlockOp, hin, hblock, hgot, List.isEmpty_nil, decide_true, Bool.and_self, Bool.false_eq_true, if_false, if_true]

theorem tftpBlockOp_of_next {n : Nat} (hn : n = (r.block + 1) % 65536) (data : List Byte) {d1 : Dev}
    (hd1 : d1 = ((d.setRcv (fun r => { r with block := n, sentAt := d.now, tries := 0 })).netSend [.ack n]).imageFeed fu 1
      (data.take r.blksize) (netAgain fu)) :
    tftpBlockOp false n data fu d = if d1.brd.phase = .network ∧ d1.brd.rcv.stage = .tftp ∧ data.length < r.blksize then
      netAgain fu d1 (if d1.brd.rcv.got.length < 256 then 7 else 6) else d1 := by
  have hin := Dev.inTransfer hr hphase hstage
  subst hd1 hr
  simp only [tftpBlockOp, hin, ← hn, bne_self_eq_false, Bool.false_eq_true, if_false, Bool.and_eq_true, beq_iff_eq, decide_eq_true_eq, and_assoc]

theorem tftpBlockOp_of_repeated (data : List Byte) : tftpBlockOp false r.block data fu d = d.netSend [.ack r.block] := by
  have hin := Dev.inTransfer hr hphase hstage
  have hold : r.block ≠ (r.block + 1) % 65536 := by omega
  subst hr
  simp only [tftpBlockOp, hin, bne_iff_ne.2 hold, Bool.false_eq_true, if_false, if_true]

variable (hdue : r.sentAt + secCycles 1 ≤ d.now)
include hdue

theorem tftpTimeoutOp_again (htries : r.tries < 5) : tftpTimeoutOp d =
    (d.setRcv (fun r => { r with tries := r.tries + 1, sentAt := d.now })).netSend
      [if r.block = 0 ∧ r.blksize = 512 then .readRequest r.file 1468 else .ack r.block] := by
  have hin := Dev.inTransfer hr hphase hstage
  subst hr
  simp only [tftpTimeoutOp, hin, Nat.not_lt.2 hdue, Nat.not_le.2 htries, decide_false, Bool.or_self, Bool.false_eq_true, if_false,
    Bool.and_eq_true, decide_eq_true_eq]

theorem tftpTimeoutOp_starts_again (htries : 5 ≤ r.tries) : tftpTimeoutOp d = d.tftpStart := by
  have hin := Dev.inTransfer hr hphase hstage
  subst hr
  simp only [tftpTimeoutOp, hin, Nat.not_lt.2 hdue, htries, decide_false, Bool.or_self, Bool.false_eq_true, if_false, if_true]
end
end

/-- Settles O42: the time-out of a source, then network recovery by its stages. -/
theorem networkRecovery : Obligations.NetworkRecovery := by
  intro q fu d r hr
  refine ⟨fun d1 hphase hdue hd1 => onFuses_next (recoveryTimeoutOp_of_fabric hphase (hr ▸ hdue) hd1) q, fun hphase => ?_⟩
  refine ⟨?fec, ?offer, ?ack, ?again, ?restart, ?asked, ?resolved, ?options, ?next, ?repeated, ?timeout, ?fresh, ?source⟩
  case fec => exact fun hstage hdue => onDev_next (fecAlternateOp_of_due hr hphase hstage hdue) q fu
  case offer =>
    intro addr mask router server file r' hstage hfile hserver hr'
    exact onDev_next (dhcpReplyOp_of_offer hr hphase hstage addr mask router hfile hserver hr') q fu
  case ack => exact fun mask router server file hstage => onDev_next (dhcpReplyOp_of_ack hr hphase hstage mask router server file) q fu
  case again => exact fun hstage hdue htries => onFuses_next (dhcpRetransmitOp_again hr hphase hstage hdue htries) q
  case restart => exact fun hstage hdue htries => onFuses_next (dhcpRetransmitOp_starts_again hr hphase hstage hdue htries) q
  case asked => exact fun mac hstage hleased => onFuses_next (recoveryArpOp_of_request hr hphase hstage hleased mac) q
  case resolved => exact fun mac hstage => onFuses_next (recoveryArpOp_of_reply hr hphase hstage mac) q
  case options => exact fun n data hstage hblock hgot => onFuses_next (tftpBlockOp_of_options hr hphase hstage hblock hgot n data) q
  case next => exact fun n data d1 hstage hn hd1 => onFuses_next (tftpBlockOp_of_next hr hphase hstage hn data hd1) q
  case repeated => exact fun data hstage => onFuses_next (tftpBlockOp_of_repeated hr hphase hstage data) q
  case timeout => exact fun hstage hdue htries => onDev_next (tftpTimeoutOp_again hr hphase hstage hdue htries) q fu
  case fresh => exact fun hstage hdue htries => onDev_next (tftpTimeoutOp_starts_again hr hphase hstage hdue htries) q fu
  case source => exact fun d1 hdue hd1 => onFuses_next (recoveryTimeoutOp_of_network hphase (hr ▸ hdue) hd1) q

end Sys2Proof.Machine
end

section
/-! PROOFS. Regions (14_latigo_coherence.md): a publish here, at another home, and for another node (R460 to R462). -/

namespace Sys2Proof.Machine
open Sys2Proof

/-! REGION_PUBLISH (R461): the checks in their order. -/

section
variable {d : Dev} {c : Nat} {x : Ctx} (hstart : d.canStart c 0x40 = true) (hx : d.ctx? c = some x)
include hstart hx

theorem regionPublishOp_of_bad_fields (hargs : regionArgsOk x = false) : regionPublishOp c d = d.finishSt c .invalidCmd := by
  simp only [regionPublishOp, hstart, hx, hargs, Bool.not_true, Bool.not_false, Bool.false_eq_true, if_false, if_true]

variable (hargs : regionArgsOk x = true)
include hargs

theorem regionPublishOp_of_fenced (hfenced : d.isFenced = true) : regionPublishOp c d = d.finishSt c .fenced := by
  simp only [regionPublishOp, hstart, hx, hargs, hfenced, Bool.not_true, Bool.false_eq_true, if_false, if_true]

variable (hfenced : d.isFenced = false) (hrun : d.runs pgLat = true) {d1 : Dev}
include hfenced hrun

theorem regionPublishOp_of_swapped (hhome : x.n 32 2 = d.node) {st : Status} {s0 s1 : Nat}
    (hswap : d.regionSwap d.node (regionPubOf x) = (d1, some (st, s0, s1))) :
    regionPublishOp c d = d1.finish c { status := st, spec0 := s0, spec1 := s1 } := by
  simp only [regionPublishOp, hstart, hx, hargs, hfenced, hrun, hhome, hswap, Bool.not_true, Bool.false_eq_true, if_false, if_true]

theorem regionPublishOp_of_sharers (hhome : x.n 32 2 = d.node) (hswap : d.regionSwap d.node (regionPubOf x) = (d1, none)) :
    regionPublishOp c d = d1 := by
  simp only [regionPublishOp, hstart, hx, hargs, hfenced, hrun, hhome, hswap, Bool.not_true, Bool.false_eq_true, if_false, if_true]

/-- Another node is the region's home: the message leaves and is waited for, or ends the command. -/
theorem regionPublishOp_of_far_home {sent : Bool} (hhome : x.n 32 2 ≠ d.node)
    (hsend : (d.start c).sendReq (.region c x.cinc) ((d.start c).regionMsg x) { fn := x.fn, owner := .command c x.cinc } = (d1, sent)) :
    regionPublishOp c d =
      if sent then { d1 with lat := { d1.lat with regionCmds := insNat d1.lat.regionCmds c } } else d1.finishSt c .tierFail := by
  cases sent <;>
    simp only [regionPublishOp, hstart, hx, hargs, hfenced, hrun, hhome, hsend, Bool.not_true, Bool.false_eq_true, if_false, if_true]
end

/-! REGION_PUB at the home. -/

section
variable {d d1 : Dev} {m : Msg} {region expect base len hold : Nat} (hrun : d.runs pgLat = true)
include hrun

theorem regionPubOp_of_refused {code a : Nat} (hjudge : d.judge m = some (code, a)) :
    regionPubOp m region expect base len hold d = d.judgeThen m id := by
  simp only [regionPubOp, hrun, hjudge, Bool.not_true, Bool.false_eq_true, if_false]

variable {p : RegionPub} (hjudge : d.judge m = none)
  (hp : p = { region := region, expect := expect, base := base, len := len, hold := hold })
include hjudge hp

theorem regionPubOp_of_sharers (hswap : d.regionSwap m.src p = (d1, none)) : regionPubOp m region expect base len hold d = d1 := by
  subst hp
  simp only [regionPubOp, hrun, hjudge, hswap, Bool.not_true, Bool.false_eq_true, if_false]

theorem regionPubOp_of_swapped {st : Status} {s0 s1 : Nat} (hswap : d.regionSwap m.src p = (d1, some (st, s0, s1))) :
    regionPubOp m region expect base len hold d =
      d1.judgeThen m (fun d => d.cmpReply m 0x69 0 (pay32 0x69 [st.code, s0, s1])) := by
  subst hp
  simp only [regionPubOp, hrun, hjudge, hswap, Bool.not_true, Bool.false_eq_true, if_false]
end

/-- REGION_DONE ends the command that asked, with its status and values or with the refusal's status. -/
theorem regionDoneOp_of_live {d d1 d2 : Dev} {m : Msg} {t c k : Nat} {e : TagEntry} (hmatch : (d.took m).matchTag m = some (t, e))
    (hmsg : e.msg = 0x49) (huse : e.use = .region c k) (hd1 : d1 = ((d.took m).freeTagEntry t).bump pgBuckle 1 1)
    (hd2 : d2 = { d1 with lat := { d1.lat with regionCmds := delNat d1.lat.regionCmds c } }) (hlive : d2.isLive c k = true)
    (st s0 s1 : Nat) : regionDoneOp m st s0 s1 d =
      if m.code = 0 then d2.finish c { status := statusOf st, spec0 := s0 % 2 ^ 32, spec1 := s1 % 2 ^ 32 }
      else d2.finishSt c (nackStatus m.code) := by
  subst hd2 hd1
  simp only [regionDoneOp, Dev.response_of_match hmatch, hmsg, beq_self_eq_true, huse, hlive, Bool.not_true, Bool.false_eq_true, if_false,
    bne_iff_ne, ite_not]

/-- Settles O48: the publisher, the home of another node's publish, and its answer. -/
theorem regions : Obligations.Regions := by
  intro q fu d
  refine ⟨?publish, ?home, ?done⟩
  case publish =>
    intro c x hc hstart hx
    refine ⟨fun hargs => onCtx_next hc (regionPublishOp_of_bad_fields hstart hx hargs) q fu,
      fun hargs hfenced => onCtx_next hc (regionPublishOp_of_fenced hstart hx hargs hfenced) q fu, fun hargs hfenced hrun => ?_⟩
    exact ⟨fun d1 st s0 s1 hhome hswap => onCtx_next hc (regionPublishOp_of_swapped hstart hx hargs hfenced hrun hhome hswap) q fu,
      fun d1 hhome hswap => onCtx_next hc (regionPublishOp_of_sharers hstart hx hargs hfenced hrun hhome hswap) q fu,
      fun d1 sent hhome hsend => onCtx_next hc (regionPublishOp_of_far_home hstart hx hargs hfenced hrun hhome hsend) q fu⟩
  case home =>
    intro m region expect base len hold hrun
    refine ⟨fun code a hjudge => onDev_next (regionPubOp_of_refused hrun hjudge) q fu, fun p hjudge hp => ?_⟩
    exact ⟨fun d1 hswap => onDev_next (regionPubOp_of_sharers hrun hjudge hp hswap) q fu,
      fun d1 st s0 s1 hswap => onDev_next (regionPubOp_of_swapped hrun hjudge hp hswap) q fu⟩
  case done =>
    intro m st s0 s1 t e c k d1 d2 hmatch hmsg huse hd1 hd2 hlive
    exact onDev_next (regionDoneOp_of_live hmatch hmsg huse hd1 hd2 hlive st s0 s1) q fu

end Sys2Proof.Machine
end

section
/-! PROOFS. The responder and the home (13_fabric_links.md, 14_latigo_coherence.md): requests of the transport (R425, R429, R431, R500),
requests of caching agents (R442, R443, R464, R465), snoops, their answers and their time-outs (R448). -/

namespace Sys2Proof.Machine
open Sys2Proof

/-! Admission (R425, R500): refused, answered at its first arrival, or served. -/

section
variable {d d1 : Dev} {m : Msg}

theorem Dev.judgeThen_of_refused {code a : Nat} (hd1 : d1 = (d.took m).bump pgBuckle 1 2) (hjudge : d1.judge m = some (code, a))
    (k : Dev → Dev) : d.judgeThen m k = (d1.judged m code).nack m code a := by
  subst hd1
  simp only [Dev.judgeThen, hjudge]

theorem Dev.judgeThen_of_admitted (hd1 : d1 = (d.took m).bump pgBuckle 1 2) (hjudge : d1.judge m = none) (k : Dev → Dev) :
    d.judgeThen m k = k d1 := by
  subst hd1
  simp only [Dev.judgeThen, hjudge]

theorem Dev.admitThen_of_held (hheld : d.lat.held.contains m = true) (first : Dev → Option Dev) (serve : Dev → Dev) :
    d.admitThen m first serve = serve d := if_pos hheld

theorem Dev.admitThen_of_new (hnew : d.lat.held.contains m = false) (first : Dev → Option Dev) (serve : Dev → Dev) :
    d.admitThen m first serve = d.judgeThen m fun d => (first d).getD (serve d) := by
  have hor : ∀ e : Dev, (match first e with | some d => d | none => serve e) = (first e).getD (serve e) := fun e => by
    cases first e <;> rfl
  refine (if_neg (ne_true_of_eq_false hnew)).trans ?_
  exact congrArg (d.judgeThen m) (funext hor)

theorem Dev.admitThen_of_answered {e : Dev} (hnew : d.lat.held.contains m = false) (hd1 : d1 = (d.took m).bump pgBuckle 1 2)
    (hjudge : d1.judge m = none) {first : Dev → Option Dev} (hfirst : first d1 = some e) (serve : Dev → Dev) :
    d.admitThen m first serve = e := by
  rw [Dev.admitThen_of_new hnew, Dev.judgeThen_of_admitted hd1 hjudge, hfirst, Option.getD_some]

/-- A request that is held, or has been admitted and is not answered at once, is served. -/
theorem Dev.admitThen_serves (hd1 : d1 = if d.lat.held.contains m then d else (d.took m).bump pgBuckle 1 2) {first : Dev → Option Dev}
    (h : d.lat.held.contains m = true ∨ (d1.judge m = none ∧ first d1 = none)) (serve : Dev → Dev) :
    d.admitThen m first serve = serve d1 := by
  cases hheld : d.lat.held.contains m with
  | true =>
    rw [hheld, if_pos rfl] at hd1
    rw [Dev.admitThen_of_held hheld, hd1]
  | false =>
    rw [hheld, if_neg Bool.false_ne_true] at hd1
    rw [hheld] at h
    obtain ⟨hjudge, hfirst⟩ := h.resolve_left Bool.false_ne_true
    rw [Dev.admitThen_of_new hheld, Dev.judgeThen_of_admitted hd1 hjudge, hfirst, Option.getD_none]
end

/-! RD_REQ and WR_REQ (R429). -/

/-- The answer to a request of bad form, or to one that is refused. -/
def Dev.answersAtOnce (d : Dev) (m : Msg) : Option Dev :=
  if !reqForm m then some (d.nack m 7) else (d.refusal m).map (fun r => r.2.nack m r.1)

theorem Dev.answersAtOnce_of_bad_form {d : Dev} {m : Msg} (hform : reqForm m = false) : d.answersAtOnce m = some (d.nack m 7) := by
  simp only [Dev.answersAtOnce, hform, Bool.not_false, if_true]

theorem Dev.answersAtOnce_of_refusal {d : Dev} {m : Msg} (hform : reqForm m = true) {r : Option (Nat × Dev)} (hr : d.refusal m = r) :
    d.answersAtOnce m = r.map (fun r => r.2.nack m r.1) := by
  simp only [Dev.answersAtOnce, hform, hr, Bool.not_true, Bool.false_eq_true, if_false]

/-- Serving an RD_REQ: through the neighbour window, or from this node's lines. -/
def Dev.rdServe (fu : Fuses) (m : Msg) (ls : List (Nat × Nat)) (d : Dev) : Dev :=
  match d.place respPort m.addr with
  | .far g => d.rdForward m g
  | _ => d.whenReady m (d.allReady respPort false ls) (fun d => d.rdAnswer fu m)

/-- Serving a WR_REQ: behind an earlier one, or to this node's lines. -/
def Dev.wrServe (fu : Fuses) (m : Msg) (ls : List (Nat × Nat)) (d : Dev) : Dev :=
  if d.wrBehind m then d.whenReady m (d, false) id
  else d.whenReady m (d.allReady respPort true ls) (fun d => d.wrAnswer fu m)

section
variable {d : Dev} (halive : d.alive = true) (m : Msg) (fu : Fuses)
include halive

theorem rdReqOp_eq : rdReqOp m fu d = d.admitThen m (fun d => d.answersAtOnce m)
    (Dev.rdServe fu m (if m.len < 64 then [(m.addr, m.len)] else cutAt 64 65 m.addr m.len)) :=
  if_neg (by simp [halive])

theorem wrReqOp_eq : wrReqOp m fu d = d.admitThen m (fun d => d.answersAtOnce m)
    (Dev.wrServe fu m (if m.len < 64 then [(m.addr, m.len)] else cutAt 64 65 m.addr m.len)) :=
  if_neg (by simp [halive])
end

/-- A request whose lines are ready goes on; another one is kept. -/
theorem Dev.whenReady_eq (d d2 : Dev) (m : Msg) (ok : Bool) (k : Dev → Dev) : d.whenReady m (d2, ok) k =
    if ok then k { d2 with lat := { d2.lat with held := d2.lat.held.erase m } }
    else if d.lat.held.contains m then d2 else { d2 with lat := { d2.lat with held := d2.lat.held ++ [m] } } := rfl

section
variable {d d2 : Dev} {m : Msg} {fu : Fuses} {ls : List (Nat × Nat)}

theorem Dev.rdServe_of_here {ok : Bool} (hplace : ∀ g, d.place respPort m.addr ≠ .far g) (hready : d.allReady respPort false ls = (d2, ok)) :
    d.rdServe fu m ls = if ok then ({ d2 with lat := { d2.lat with held := d2.lat.held.erase m } } : Dev).rdAnswer fu m
      else if d.lat.held.contains m then d2 else { d2 with lat := { d2.lat with held := d2.lat.held ++ [m] } } := by
  unfold Dev.rdServe
  split
  next g h => exact absurd h (hplace g)
  next => rw [hready, Dev.whenReady_eq]

section
variable {g : Nat} (hplace : d.place respPort m.addr = .far g)
include hplace

theorem Dev.rdServe_of_far : d.rdServe fu m ls = d.rdForward m g := by simp only [Dev.rdServe, hplace]

theorem Dev.rdServe_of_waiting (hread : d.remoteRead (forwardReader m) g m.len 7 = (d2, .wait)) : d.rdServe fu m ls =
    if d2.lat.held.contains m then d2 else { d2 with lat := { d2.lat with held := d2.lat.held ++ [m] } } := by
  rw [Dev.rdServe_of_far hplace]
  simp only [Dev.rdForward, hread, Dev.whenReady_eq, Bool.false_eq_true, if_false]

variable {d3 : Dev} (hd3 : d3 = { d2 with
  fab := { d2.fab with bufs := Tab.del d2.fab.bufs (forwardReader m) }, lat := { d2.lat with held := d2.lat.held.erase m } })
include hd3

theorem Dev.rdServe_of_fetched {b : List Byte} {bad : Option Status} (hread : d.remoteRead (forwardReader m) g m.len 7 = (d2, .ready b bad)) :
    d.rdServe fu m ls = d3.reply m 0x81 0 (if bad.isSome then 2 ^ ceilDiv m.len 64 - 1 else 0) b := by
  subst hd3
  rw [Dev.rdServe_of_far hplace]
  simp only [Dev.rdForward, hread, Dev.whenReady_eq, if_true]

theorem Dev.rdServe_of_failed {st : Status} (hread : d.remoteRead (forwardReader m) g m.len 7 = (d2, .fail st)) :
    d.rdServe fu m ls = d3.reply m 0x81 0 (2 ^ ceilDiv m.len 64 - 1) (List.replicate m.len 0) := by
  subst hd3
  rw [Dev.rdServe_of_far hplace]
  simp only [Dev.rdForward, hread, Dev.whenReady_eq, if_true]
end

theorem Dev.wrServe_of_behind (hbehind : d.wrBehind m = true) : d.wrServe fu m ls =
    if d.lat.held.contains m then d else { d with lat := { d.lat with held := d.lat.held ++ [m] } } := by
  simp only [Dev.wrServe, hbehind, if_true, Dev.whenReady_eq, Bool.false_eq_true, if_false]

theorem Dev.wrServe_of_first {ok : Bool} (hfirst : d.wrBehind m = false) (hready : d.allReady respPort true ls = (d2, ok)) :
    d.wrServe fu m ls = if ok then ({ d2 with lat := { d2.lat with held := d2.lat.held.erase m } } : Dev).wrAnswer fu m
      else if d.lat.held.contains m then d2 else { d2 with lat := { d2.lat with held := d2.lat.held ++ [m] } } := by
  simp only [Dev.wrServe, hfirst, Bool.false_eq_true, if_false, hready, Dev.whenReady_eq]
end

/-! NC_REDUCE (R464, R465). -/

/-- FMT and MODE are ones that NC_REDUCE has, and the message is of good form. -/
def reduceForm (m : Msg) (fmt mode : Nat) : Prop := latForm m 64 = true ∧ m.code = 0 ∧ (fmt = 8 ∨ fmt = 9) ∧ mode ≤ 2

/-- The answer to an NC_REDUCE of bad form, or to one that is refused. -/
def Dev.reduceAtOnce (d : Dev) (m : Msg) (fmt mode : Nat) : Option Dev :=
  if !latForm m 64 || m.code != 0 || !(fmt == 8 || fmt == 9) || decide (2 < mode) then some (d.latBad m)
  else (d.refusal m).map (fun r => r.2.latReply m 0x65 r.1)

section
variable {d : Dev} {m : Msg} {fmt mode : Nat}

theorem Dev.reduceAtOnce_of_bad_form (h : latForm m 64 = false ∨ m.code ≠ 0 ∨ (fmt ≠ 8 ∧ fmt ≠ 9) ∨ 2 < mode) :
    d.reduceAtOnce m fmt mode = some (d.latBad m) := by
  have hbad : (!latForm m 64 || m.code != 0 || !(fmt == 8 || fmt == 9) || decide (2 < mode)) = true := by simpa [or_assoc] using h
  exact if_pos hbad

theorem Dev.reduceAtOnce_of_refusal (hform : reduceForm m fmt mode) {r : Option (Nat × Dev)} (hr : d.refusal m = r) :
    d.reduceAtOnce m fmt mode = r.map (fun r => r.2.latReply m 0x65 r.1) := by
  obtain ⟨hlat, hcode, hfmt, hmode⟩ := hform
  have hgood : (!latForm m 64 || m.code != 0 || !(fmt == 8 || fmt == 9) || decide (2 < mode)) = false := by
    simp only [hlat, hcode, Nat.not_lt.2 hmode, bne_self_eq_false, decide_false, Bool.not_true, Bool.false_or, Bool.or_false,
      Bool.not_eq_false', Bool.or_eq_true, beq_iff_eq, hfmt]
  rw [Dev.reduceAtOnce, if_neg (ne_true_of_eq_false hgood), hr]

theorem ncReduceOp_eq (hrun : d.runs pgLat = true) (fu : Fuses) : ncReduceOp m fmt mode fu d =
    d.admitThen m (fun d => d.reduceAtOnce m fmt mode) fun d =>
      d.whenReady m (d.allReady respPort true [(m.addr, 64)]) (fun d => d.reduceServe fu m fmt mode) :=
  if_neg (by simp [hrun])
end

/-! SVC_REQ (R431). -/

theorem svcReqOp_eq {d : Dev} (halive : d.alive = true) (m : Msg) : svcReqOp m d = d.judgeThen m fun d =>
    if m.code != 0 || m.vc != 4 || m.data.length != m.len then d.nack m 7
    else if decide (1 ≤ m.aux % 256) && decide (m.aux % 256 ≤ 5) then d.reply m 0x83 0 else d.nack m 8 :=
  if_neg (by simp [halive])

section
variable {d d1 : Dev} {m : Msg} (halive : d.alive = true) (hd1 : d1 = (d.took m).bump pgBuckle 1 2) (hjudge : d1.judge m = none)
include halive hd1 hjudge

theorem svcReqOp_of_good_form (hcode : m.code = 0) (hvc : m.vc = 4) (hlen : m.data.length = m.len) :
    svcReqOp m d = if 1 ≤ m.aux % 256 ∧ m.aux % 256 ≤ 5 then d1.reply m 0x83 0 else d1.nack m 8 := by
  rw [svcReqOp_eq halive, Dev.judgeThen_of_admitted hd1 hjudge]
  simp only [hcode, hvc, hlen, bne_self_eq_false, Bool.or_self, Bool.false_eq_true, if_false, Bool.and_eq_true, decide_eq_true_eq]

theorem svcReqOp_of_bad_form (h : m.code ≠ 0 ∨ m.vc ≠ 4 ∨ m.data.length ≠ m.len) : svcReqOp m d = d1.nack m 7 := by
  have hbad : (m.code != 0 || m.vc != 4 || m.data.length != m.len) = true := by simpa [or_assoc] using h
  rw [svcReqOp_eq halive, Dev.judgeThen_of_admitted hd1 hjudge, if_pos hbad]
end

/-! Requests of caching agents (R442, R443). -/

section
variable {d : Dev} {m : Msg} (hrun : d.runs pgLat = true)
include hrun

theorem latReqOp_of_other_node (hsrc : m.src ≠ d.node) (r : HomeReq) : latReqOp r m d = d.judgeThen m (fun d => d.latServe r m) := by
  simp only [latReqOp, hrun, hsrc, Bool.not_true, Bool.false_eq_true, if_false]

variable {g : Nat} (hsrc : m.src = d.node) (hg : g = m.dst % 4096 * 2 ^ 52 + m.addr % 2 ^ 52 / 64 * 64)
include hsrc hg

theorem latReqOp_of_own_core {r : HomeReq} (hr : r ≠ .wb) : latReqOp r m d = (d.coreAsk (m.aux % 16) g r.writes).1 := by
  subst hg
  simp only [latReqOp, hrun, hsrc, beq_eq_false_iff_ne.2 hr, Bool.not_true, Bool.false_eq_true, if_false, if_true]

theorem latReqOp_of_own_eviction : latReqOp .wb m d = d.coreEvict (m.aux % 16) g := by
  subst hg
  simp only [latReqOp, hrun, hsrc, beq_self_eq_true, Bool.not_true, Bool.false_eq_true, if_false, if_true]
end

/-! Snoops and their answers (R442, R443, R448). -/

section
variable {d : Dev} {m : Msg} (halive : d.alive = true)
include halive

theorem snoopOp_of_good_form (hform : latForm m 0 = true) {cs : List Nat}
    (hcs : cs = if (m.aux / 512).testBit 0 then List.range 16 else [m.aux / 16 % 16]) (inv : Bool) :
    snoopOp inv m d = cs.foldl (fun d c => d.coreAnswers m inv c) (d.took m) := by
  subst hcs
  simp only [snoopOp, halive, hform, Bool.not_true, Bool.false_eq_true, if_false]

theorem snoopOp_of_bad_form (hform : latForm m 0 = false) (inv : Bool) : snoopOp inv m d = (d.took m).latBad m := by
  simp only [snoopOp, halive, hform, Bool.not_true, Bool.not_false, Bool.false_eq_true, if_false, if_true]

/-- Bytes of data that an answer carries. -/
def rspBytes (msg : Nat) : Nat := if msg = 0x5A || msg = 0x5B then 64 else 0

variable {msg : Nat}

theorem rspOp_of_bad_form (hform : latForm m (rspBytes msg) = false) : rspOp msg m d = (d.took m).latBad m := by
  rw [rspBytes] at hform
  simp only [rspOp, halive, hform, Bool.not_true, Bool.not_false, Bool.false_eq_true, if_false, if_true]

variable (hform : latForm m (rspBytes msg) = true)
include hform

/-- An answer that nothing waits for. -/
theorem rspOp_of_unasked (h : ((Tab.find? (d.took m).lat.busy (m.addr % 2 ^ 52 / 64)).map
    (fun t => Tab.has t.waiting (srcAgent m))).getD false = false) : rspOp msg m d = (d.took m).bump pgLat 0 6 := by
  rw [rspBytes] at hform
  simp only [rspOp, halive, hform, Bool.not_true, Bool.false_eq_true, if_false]
  cases hbusy : Tab.find? (d.took m).lat.busy (m.addr % 2 ^ 52 / 64) with
  | none => rfl
  | some t =>
    rw [hbusy, Option.map_some, Option.getD_some] at h
    exact if_neg (ne_true_of_eq_false h)

variable {l : Nat} {t : Txn} {p : Bool} (hl : l = m.addr % 2 ^ 52 / 64) (hbusy : Tab.find? (d.took m).lat.busy l = some t)
  (hasked : Tab.has t.waiting (srcAgent m) = true) (hp : p = (m.aux / 256).testBit 0)
include hl hbusy hasked hp

/-- An answer with a shared copy is taken for a shared or uncached read only. -/
theorem rspOp_of_asked (h : (msg = 0x59 ∨ msg = 0x5B) → t.req = .rdShared ∨ t.req = .ncRead) :
    rspOp msg m d = (d.took m).homeTakes l (srcAgent m) msg m.data p := by
  rw [rspBytes] at hform
  subst hl hp
  simp only [rspOp, halive, hform, hbusy, hasked, Bool.not_true, Bool.false_eq_true, if_false, if_true]
  simp only [Bool.or_eq_true, decide_eq_true_eq, beq_iff_eq]
  by_cases hshared : msg = 0x59 ∨ msg = 0x5B
  · rw [if_pos hshared, if_pos (h hshared)]
  · rw [if_neg hshared]
end

/-- SNOOP_TIMEOUT (R448). -/
theorem snoopTimeoutOp_of_late {d d0 d1 : Dev} {l a w : Nat} {t : Txn} (halive : d.alive = true) (hbusy : Tab.find? d.lat.busy l = some t)
    (hasked : Tab.find? t.waiting a = some w) (hlate : w ≤ d.now)
    (hd0 : d0 = if ((d.winAt (64 * l)).map (fun w => decide ((dirOf (d.peek (d.dirAddr w (64 * l)) 16)).st = 2))).getD false then d.poisonMem l
      else d)
    (hd1 : d1 = { d0 with lat := { d0.lat with suspects := insNat d0.lat.suspects a } }) : snoopTimeoutOp l a d =
      ((d1.bump pgLat 0 4).latEvent { node := a % 4096, agent := a / 4096, typ := 1, info := l % 2 ^ 32 }).takeAnswer l a false none := by
  subst hd1 hd0
  simp only [snoopTimeoutOp, hbusy, hasked, halive, Nat.not_lt.2 hlate, decide_false, Bool.not_true, Bool.or_self, Bool.false_eq_true, if_false]
  cases d.winAt (64 * l) <;> rfl

/-- Settles O51: admission, then each request as it is served, the agents' requests, snoops and answers. -/
theorem requestsAreServed : Obligations.RequestsAreServed := by
  intro q fu d m halive
  refine ⟨?arrival, ?served, ?reduce, ?service, ?others, ?own, ?snoops, ?badSnoops, ?badData, ?unasked, ?asked, ?late⟩
  case arrival =>
    intro d1 fmt mode hnew hd1
    refine ⟨fun code a hjudge => ⟨?_, ?_, ?_, fun hrun => ?_⟩, fun hjudge => ⟨fun hform => ⟨?_, ?_⟩, fun hrun hform => ?_, ?refused⟩⟩
    · exact onFuses_next ((rdReqOp_eq halive m fu).trans ((Dev.admitThen_of_new hnew _ _).trans (Dev.judgeThen_of_refused hd1 hjudge _))) q
    · exact onFuses_next ((wrReqOp_eq halive m fu).trans ((Dev.admitThen_of_new hnew _ _).trans (Dev.judgeThen_of_refused hd1 hjudge _))) q
    · exact onDev_next ((svcReqOp_eq halive m).trans (Dev.judgeThen_of_refused hd1 hjudge _)) q fu
    · exact onFuses_next ((ncReduceOp_eq hrun fu).trans ((Dev.admitThen_of_new hnew _ _).trans (Dev.judgeThen_of_refused hd1 hjudge _))) q
    · exact onFuses_next ((rdReqOp_eq halive m fu).trans
        (Dev.admitThen_of_answered hnew hd1 hjudge (Dev.answersAtOnce_of_bad_form hform) _)) q
    · exact onFuses_next ((wrReqOp_eq halive m fu).trans
        (Dev.admitThen_of_answered hnew hd1 hjudge (Dev.answersAtOnce_of_bad_form hform) _)) q
    · exact onFuses_next ((ncReduceOp_eq hrun fu).trans
        (Dev.admitThen_of_answered hnew hd1 hjudge (Dev.reduceAtOnce_of_bad_form hform) _)) q
    case refused =>
      intro code d2 hrefusal
      refine ⟨fun hform => ⟨?_, ?_⟩, fun hrun hlat hcode hfmt hmode => ?_⟩
      · exact onFuses_next ((rdReqOp_eq halive m fu).trans
          (Dev.admitThen_of_answered hnew hd1 hjudge (Dev.answersAtOnce_of_refusal hform hrefusal) _)) q
      · exact onFuses_next ((wrReqOp_eq halive m fu).trans
          (Dev.admitThen_of_answered hnew hd1 hjudge (Dev.answersAtOnce_of_refusal hform hrefusal) _)) q
      · exact onFuses_next ((ncReduceOp_eq hrun fu).trans
          (Dev.admitThen_of_answered hnew hd1 hjudge (Dev.reduceAtOnce_of_refusal ⟨hlat, hcode, hfmt, hmode⟩ hrefusal) _)) q
  case served =>
    intro d1 ls hd1 hls hgoes
    have hserved : d.lat.held.contains m = true ∨ (d1.judge m = none ∧ d1.answersAtOnce m = none) :=
      hgoes.imp_right fun ⟨hjudge, hform, hrefusal⟩ => ⟨hjudge, Dev.answersAtOnce_of_refusal hform hrefusal⟩
    have hread : ∀ {e : Dev}, d1.rdServe fu m ls = e → exec (.rdReq m) ⟨q, fu, d⟩ = .next ⟨q, fu, e⟩ := fun he =>
      onFuses_next ((rdReqOp_eq halive m fu).trans ((Dev.admitThen_serves hd1 hserved _).trans (hls ▸ he))) q
    have hwrite : ∀ {e : Dev}, d1.wrServe fu m ls = e → exec (.wrReq m) ⟨q, fu, d⟩ = .next ⟨q, fu, e⟩ := fun he =>
      onFuses_next ((wrReqOp_eq halive m fu).trans ((Dev.admitThen_serves hd1 hserved _).trans (hls ▸ he))) q
    refine ⟨fun d2 ok hplace hready => hread (Dev.rdServe_of_here hplace hready), fun g hplace => ⟨?_, ?_, ?_⟩,
      fun hbehind => hwrite (Dev.wrServe_of_behind hbehind), fun d2 ok hfirst hready => hwrite (Dev.wrServe_of_first hfirst hready)⟩
    · exact fun d2 hr => hread (Dev.rdServe_of_waiting hplace hr)
    · exact fun d2 d3 b bad hr hd3 => hread (Dev.rdServe_of_fetched hplace hd3 hr)
    · exact fun d2 d3 st hr hd3 => hread (Dev.rdServe_of_failed hplace hd3 hr)
  case reduce =>
    intro d1 d2 fmt mode ok hrun hd1 hgoes hready
    have hserved : d.lat.held.contains m = true ∨ (d1.judge m = none ∧ d1.reduceAtOnce m fmt mode = none) :=
      hgoes.imp_right fun ⟨hjudge, hlat, hcode, hfmt, hmode, hrefusal⟩ =>
        ⟨hjudge, Dev.reduceAtOnce_of_refusal ⟨hlat, hcode, hfmt, hmode⟩ hrefusal⟩
    refine onFuses_next ((ncReduceOp_eq hrun fu).trans ((Dev.admitThen_serves hd1 hserved _).trans ?_)) q
    rw [hready, Dev.whenReady_eq]
  case service =>
    exact fun d1 hd1 hjudge => ⟨fun hcode hvc hlen => onDev_next (svcReqOp_of_good_form halive hd1 hjudge hcode hvc hlen) q fu,
      fun h => onDev_next (svcReqOp_of_bad_form halive hd1 hjudge h) q fu⟩
  case others =>
    exact fun hrun hsrc => ⟨onDev_next (latReqOp_of_other_node hrun hsrc _) q fu, onDev_next (latReqOp_of_other_node hrun hsrc _) q fu,
      onDev_next (latReqOp_of_other_node hrun hsrc _) q fu, onDev_next (latReqOp_of_other_node hrun hsrc _) q fu⟩
  case own =>
    intro g hrun hsrc hg
    exact ⟨onDev_next (latReqOp_of_own_core (r := .rdShared) hrun hsrc hg (by decide)) q fu,
      onDev_next (latReqOp_of_own_core (r := .rdOwn) hrun hsrc hg (by decide)) q fu,
      onDev_next (latReqOp_of_own_core (r := .upgrade) hrun hsrc hg (by decide)) q fu,
      onDev_next (latReqOp_of_own_eviction hrun hsrc hg) q fu⟩
  case snoops =>
    exact fun cs hform hcs => ⟨onDev_next (snoopOp_of_good_form halive hform hcs false) q fu,
      onDev_next (snoopOp_of_good_form halive hform hcs true) q fu⟩
  case badSnoops =>
    exact fun hform => ⟨onDev_next (snoopOp_of_bad_form halive hform false) q fu, onDev_next (snoopOp_of_bad_form halive hform true) q fu,
      onDev_next (rspOp_of_bad_form (msg := 0x58) halive hform) q fu, onDev_next (rspOp_of_bad_form (msg := 0x59) halive hform) q fu⟩
  case badData =>
    exact fun hform => ⟨onDev_next (rspOp_of_bad_form (msg := 0x5A) halive hform) q fu,
      onDev_next (rspOp_of_bad_form (msg := 0x5B) halive hform) q fu⟩
  case unasked =>
    intro h
    exact ⟨fun hform => ⟨onDev_next (rspOp_of_unasked (msg := 0x58) halive hform h) q fu,
        onDev_next (rspOp_of_unasked (msg := 0x59) halive hform h) q fu⟩,
      fun hform => ⟨onDev_next (rspOp_of_unasked (msg := 0x5A) halive hform h) q fu,
        onDev_next (rspOp_of_unasked (msg := 0x5B) halive hform h) q fu⟩⟩
  case asked =>
    intro l t p hl hbusy hasked hp
    exact ⟨fun hform => onDev_next (rspOp_of_asked (msg := 0x58) halive hform hl hbusy hasked hp fun h => absurd h (by decide)) q fu,
      fun hform hreq => onDev_next (rspOp_of_asked (msg := 0x59) halive hform hl hbusy hasked hp fun _ => hreq) q fu,
      fun hform => onDev_next (rspOp_of_asked (msg := 0x5A) halive hform hl hbusy hasked hp fun h => absurd h (by decide)) q fu,
      fun hform hreq => onDev_next (rspOp_of_asked (msg := 0x5B) halive hform hl hbusy hasked hp fun _ => hreq) q fu⟩
  case late =>
    exact fun l a t w d0 d1 hbusy hasked hlate hd0 hd1 => onDev_next (snoopTimeoutOp_of_late halive hbusy hasked hlate hd0 hd1) q fu

end Sys2Proof.Machine
end

section
/-! PROOFS. Responses, refusals and time-outs of this node's own requests (13_fabric_links.md, 14_latigo_coherence.md; R429 to R433, R443 to
R445, R464, R506). -/

namespace Sys2Proof.Machine
open Sys2Proof

/-! A response frees the tag entry of its request; one with a code other than 0 fails the request (R430, R433). -/

section
variable {d d1 : Dev} {m : Msg} {t : Nat} {e : TagEntry} {fu : Fuses} (hmatch : (d.took m).matchTag m = some (t, e))
  (hd1 : d1 = ((d.took m).freeTagEntry t).bump pgBuckle 1 1)
include hmatch hd1

theorem nackOp_of_match : nackOp m fu d = ((d1.bump pgBuckle 1 4).reqFailed fu e (some m.code)).fencedBy m.code m.addr := by
  rw [nackOp, Dev.response_of_match hmatch rfl, ← hd1]

theorem Dev.response_of_failed (hcode : m.code ≠ 0) {fits : Nat → Bool} (hfits : fits e.msg = true) (p b i : Nat)
    (k : Dev → TagEntry → Dev) :
    d.response m p b i fits (fun d e => if m.code != 0 then d.reqFailed fu e (some m.code) else k d e) =
      d1.reqFailed fu e (some m.code) := by
  rw [Dev.response_of_match hmatch hfits, ← hd1]
  exact if_pos (bne_iff_ne.2 hcode)

theorem Dev.response_of_good (hcode : m.code = 0) {fits : Nat → Bool} (hfits : fits e.msg = true) (p b i : Nat)
    (k : Dev → TagEntry → Dev) :
    d.response m p b i fits (fun d e => if m.code != 0 then d.reqFailed fu e (some m.code) else k d e) = k d1 e := by
  rw [Dev.response_of_match hmatch hfits, ← hd1]
  exact if_neg (by simp [hcode])

/-! RD_RSP, WR_RSP and SVC_ACK (R429, R431): what the tag entry says the request was for. -/

section
variable (hmsg : e.msg = 1)
include hmsg

theorem rdRspOp_of_failed (hcode : m.code ≠ 0) : rdRspOp m fu d = d1.reqFailed fu e (some m.code) :=
  Dev.response_of_failed hmatch hd1 hcode (by simp [hmsg]) _ _ _ _

variable (hcode : m.code = 0)
include hcode

theorem rdRspOp_of_cmdRead {i c a n : Nat} (huse : e.use = .cmdRead i c a n) : rdRspOp m fu d = d1.linesIn i c a n m :=
  (Dev.response_of_good hmatch hd1 hcode (by simp [hmsg]) _ _ _ _).trans (by simp only [huse])

theorem rdRspOp_of_masterRead {i a n : Nat} (huse : e.use = .masterRead i a n) : rdRspOp m fu d = d1.masterData e m i a n :=
  (Dev.response_of_good hmatch hd1 hcode (by simp [hmsg]) _ _ _ _).trans (by simp only [huse])

theorem rdRspOp_of_saddle {i s : Nat} (huse : e.use = .saddle i s) : rdRspOp m fu d = d1.fillData i s m :=
  (Dev.response_of_good hmatch hd1 hcode (by simp [hmsg]) _ _ _ _).trans (by simp only [huse])

theorem rdRspOp_of_recovery {o : Nat} (huse : e.use = .recovery o) :
    rdRspOp m fu d = d1.recoveryData fu o (if m.addr = 0 then some m.data else none) :=
  (Dev.response_of_good hmatch hd1 hcode (by simp [hmsg]) _ _ _ _).trans (by simp only [huse])
end

section
variable (hmsg : e.msg = 2)
include hmsg

theorem wrRspOp_of_failed (hcode : m.code ≠ 0) : wrRspOp m fu d = d1.reqFailed fu e (some m.code) :=
  Dev.response_of_failed hmatch hd1 hcode (by simp [hmsg]) _ _ _ _

variable (hcode : m.code = 0)
include hcode

theorem wrRspOp_of_cmdWrite {c k a : Nat} (huse : e.use = .cmdWrite c k a) : wrRspOp m fu d = d1.writeAnswer c k a .ok :=
  (Dev.response_of_good hmatch hd1 hcode (by simp [hmsg]) _ _ _ _).trans (by simp only [huse])

theorem wrRspOp_of_forward {n g k : Nat} (huse : e.use = .forward n g k) :
    wrRspOp m fu d = d1.reply { src := n, dst := d1.node, tag := g, mapGen := k } 0x82 0 :=
  (Dev.response_of_good hmatch hd1 hcode (by simp [hmsg]) _ _ _ _).trans (by simp only [huse])

theorem wrRspOp_of_migWrite {o i : Nat} (huse : e.use = .migWrite o i) : wrRspOp m fu d = d1.migWritten o i true :=
  (Dev.response_of_good hmatch hd1 hcode (by simp [hmsg]) _ _ _ _).trans (by simp only [huse])
end

theorem svcAckOp_of_failed (hmsg : e.msg = 3) (hcode : m.code ≠ 0) : svcAckOp m fu d = d1.reqFailed fu e (some m.code) :=
  Dev.response_of_failed hmatch hd1 hcode (by simp [hmsg]) _ _ _ _

theorem svcAckOp_of_good (hmsg : e.msg = 3) (hcode : m.code = 0) : svcAckOp m fu d = d1 :=
  Dev.response_of_good hmatch hd1 hcode (by simp [hmsg]) _ _ _ _

/-! Grants of remote homes (R443, R444). -/

section
variable {n : Nat} {fits : Nat → Bool} {f : Option AgentLine → Option AgentLine} (hfits : fits e.msg = true)
include hfits

theorem Dev.granted_of_failed (hcode : m.code ≠ 0) : d.granted fu m n fits f = d1.reqFailed fu e (some m.code) :=
  (if_neg (by simp [hcode])).trans (Dev.response_of_failed hmatch hd1 hcode hfits _ _ _ _)

variable (hcode : m.code = 0) (hform : latForm m n = true) {c g : Nat} (huse : e.use = .agent c g) {d2 : Dev}
  (hd2 : d2 = { d1 with lat := { d1.lat with asking := delNat d1.lat.asking (d1.lineKey g c) } })
include hcode hform huse hd2

/-- The core's line is as the grant leaves it. -/
theorem Dev.granted_of_line {y : AgentLine} (hy : f (d2.coreLine? c g) = some y) : d.granted fu m n fits f = d2.setCoreLine c g y := by
  refine (if_neg (by simp [hform])).trans ((Dev.response_of_good hmatch hd1 hcode hfits _ _ _ _).trans ?_)
  subst hd2
  simp only [huse, hy]

theorem Dev.granted_of_none (hy : f (d2.coreLine? c g) = none) : d.granted fu m n fits f = d2.dropCoreLine c g := by
  refine (if_neg (by simp [hform])).trans ((Dev.response_of_good hmatch hd1 hcode hfits _ _ _ _).trans ?_)
  subst hd2
  simp only [huse, hy]
end

/-! CMP_REDUCE (R464). -/

theorem cmpReduceOp_of_failed (hmsg : e.msg = 0x44) (hcode : m.code ≠ 0) : cmpReduceOp m fu d = d1.reqFailed fu e (some m.code) :=
  (if_neg (by simp [hcode])).trans (Dev.response_of_failed hmatch hd1 hcode (by simp [hmsg]) _ _ _ _)

theorem cmpReduceOp_of_live (hmsg : e.msg = 0x44) (hcode : m.code = 0) (hform : latForm m 0 = true) {c k a : Nat}
    (huse : e.use = .reduce c k a) (hlive : d1.isLive c k = true) : cmpReduceOp m fu d = d1.moverAnswer c .ok := by
  refine (if_neg (by simp [hform])).trans ((Dev.response_of_good hmatch hd1 hcode (by simp [hmsg]) _ _ _ _).trans ?_)
  simp only [huse, hlive, if_true]
end

theorem nackOp_of_no_match {d : Dev} {m : Msg} (hmatch : (d.took m).matchTag m = none) (fu : Fuses) :
    nackOp m fu d = (d.took m).bump pgBuckle 1 6 := by
  rw [nackOp, Dev.response_of_no_match hmatch]

/-- TRANSPORT_TIMEOUT (R430, R432). -/
theorem transportTimeoutOp_of_late {d : Dev} {t : Nat} {e : TagEntry} (ht : Tab.find? d.fab.tp.tags t = some e)
    (hlate : e.sent + usCycles 50 ≤ d.now) (hsent : d.unsent t e = false) (halive : d.alive = true) (fu : Fuses) :
    transportTimeoutOp t fu d = ((d.freeTagEntry t).bump pgBuckle 1 5).reqFailed fu e none := by
  simp only [transportTimeoutOp, ht, Nat.not_lt.2 hlate, hsent, halive, decide_false, Bool.not_true, Bool.or_self, Bool.false_eq_true,
    if_false]

theorem exec_transportTimeout {d e : Dev} {t : Nat} {fu : Fuses} (ht : t < 8192) (h : transportTimeoutOp t fu d = e) (q : List Instr) :
    exec (.transportTimeout t) ⟨q, fu, d⟩ = .next ⟨q, fu, e⟩ :=
  onFuses_next (f := fun fu d => if t < 8192 then transportTimeoutOp t fu d else d) ((if_pos ht).trans h) q

/-- A grant of a remote home. -/
theorem onGrant_next {d e : Dev} {m : Msg} {fu : Fuses} {n : Nat} {fits : Nat → Bool} {f : Option AgentLine → Option AgentLine}
    (h : d.granted fu m n fits f = e) (q : List Instr) :
    onFuses (fun fu d => d.granted fu m n fits f) ⟨q, fu, d⟩ = .next ⟨q, fu, e⟩ :=
  onFuses_next (f := fun fu d => d.granted fu m n fits f) h q

/-- Requests that a grant of an exclusive line may answer (R444). -/
theorem fits_exclusive {k : Nat} (h : k = 0x40 ∨ k = 0x41 ∨ k = 0x42) : (k == 0x40 || k == 0x41 || k == 0x42) = true := by
  simpa [or_assoc] using h

/-- Settles O52: the responses with a result, those with a code, and the requests that time out. -/
theorem responsesAreTaken : Obligations.ResponsesAreTaken := by
  intro q fu d d1 m t e hmatch hd1
  refine ⟨onFuses_next (nackOp_of_match hmatch hd1) q, ?reads, ?writes, ?failed, ?service, ?grants, ?reduced, ?late, ?unasked⟩
  case reads =>
    intro hcode hmsg
    exact ⟨fun i c a n huse => onFuses_next (rdRspOp_of_cmdRead hmatch hd1 hmsg hcode huse) q,
      fun i a n huse => onFuses_next (rdRspOp_of_masterRead hmatch hd1 hmsg hcode huse) q,
      fun i s huse => onFuses_next (rdRspOp_of_saddle hmatch hd1 hmsg hcode huse) q,
      fun o huse => onFuses_next (rdRspOp_of_recovery hmatch hd1 hmsg hcode huse) q⟩
  case writes =>
    intro hcode hmsg
    exact ⟨fun c k b huse => onFuses_next (wrRspOp_of_cmdWrite hmatch hd1 hmsg hcode huse) q,
      fun n g k huse => onFuses_next (wrRspOp_of_forward hmatch hd1 hmsg hcode huse) q,
      fun o i huse => onFuses_next (wrRspOp_of_migWrite hmatch hd1 hmsg hcode huse) q⟩
  case failed =>
    intro hcode
    exact ⟨fun hmsg => onFuses_next (rdRspOp_of_failed hmatch hd1 hmsg hcode) q,
      fun hmsg => onFuses_next (wrRspOp_of_failed hmatch hd1 hmsg hcode) q,
      fun hmsg => onFuses_next (svcAckOp_of_failed hmatch hd1 hmsg hcode) q,
      fun hmsg => onGrant_next (Dev.granted_of_failed hmatch hd1 (by simp [hmsg]) hcode) q,
      fun hmsg => onGrant_next (Dev.granted_of_failed hmatch hd1 (fits_exclusive (.inr (.inl hmsg))) hcode) q,
      fun hmsg => onGrant_next (Dev.granted_of_failed hmatch hd1 (by simp [hmsg]) hcode) q,
      fun hmsg => onFuses_next (cmpReduceOp_of_failed hmatch hd1 hmsg hcode) q⟩
  case service => exact fun hcode hmsg => onFuses_next (svcAckOp_of_good hmatch hd1 hmsg hcode) q
  case grants =>
    intro c g d2 hcode huse hd2
    refine ⟨fun hform hmsg => ?_, fun hform hmsg => ?_, fun hform hmsg => ?_, fun y hform hmsg hy => ?_, fun hform hmsg => ?_⟩
    · exact onGrant_next (Dev.granted_of_line hmatch hd1 (by simp [hmsg]) hcode hform huse hd2 rfl) q
    · exact onGrant_next (Dev.granted_of_line hmatch hd1 (fits_exclusive hmsg) hcode hform huse hd2 rfl) q
    · exact onGrant_next (Dev.granted_of_line hmatch hd1 (fits_exclusive hmsg) hcode hform huse hd2 rfl) q
    · exact onGrant_next (Dev.granted_of_line hmatch hd1 (by simp [hmsg]) hcode hform huse hd2 (by rw [hy]; rfl)) q
    · exact onGrant_next (Dev.granted_of_none hmatch hd1 (by simp [hmsg]) hcode hform huse hd2 rfl) q
  case reduced =>
    exact fun c k a hcode hform hmsg huse hlive => onFuses_next (cmpReduceOp_of_live hmatch hd1 hmsg hcode hform huse hlive) q
  case late =>
    exact fun t e ht hfound hlate hsent halive => exec_transportTimeout ht (transportTimeoutOp_of_late hfound hlate hsent halive fu) q
  case unasked => exact fun n hnone => onFuses_next (nackOp_of_no_match hnone fu) q

end Sys2Proof.Machine
end
section
/-! PROOFS. Composition (O53): maps, the self-test, membership messages and ADMIT. -/

namespace Sys2Proof.Machine
open Sys2Proof

/-! Map images (R497 to R499). -/

theorem mapInstallOp_of_runs {d d1 d2 : Dev} {n k : Nat} {img : List Byte} (hruns : d.runs pgBuckle = true) (hd1 : d1 = d.mapSettle)
    (hn : n = min (d1.rg R.mapLen).toNat (2 ^ 36)) (hk : k = min n (max 64 (d1.peekN (d1.mapAt + 12) 4)))
    (hd2 : d2 = if d1.nodeValid && decide (d1.mapAt + (d1.rg R.mapLen).toNat ≤ 2 ^ 36) then d1.touch d1.mapAt k else d1)
    (himg : img = d1.peek d1.mapAt k) :
    mapInstallOp d = if d1.mapResult img = 0 then (d2.mapTake img).mapDone 0 else d2.mapDone (d1.mapResult img) := by
  subst hd1 hn hk hd2 himg
  exact if_neg (by simp [hruns])

theorem mapForcedRetireOp_of_due {d : Dev} {g : MapGen} (hold : d.cmp.old = some g)
    (hdue : g.since + msCycles (max (d.fd R.cmpCfg 31 16) 1) ≤ d.now) : mapForcedRetireOp d = d.mapForce := by
  simp only [mapForcedRetireOp, hold, if_pos hdue]

/-! The self-test (R508). -/

theorem selftestStartOp_of_idle {d : Dev} (hst : d.cmp.st ≠ .admitted) (hidle : d.cmp.testRunning = false) (hruns : d.runs pgBuckle = true) :
    selftestStartOp d = ({ d with cmp := { d.cmp with testRunning := true } } : Dev).setRg R.cmpSelftest 0 := by
  have hne : (d.cmp.st == .admitted) = false := beq_eq_false_iff_ne.2 hst
  exact if_neg (by simp [hne, hidle, hruns])

theorem selftestDoneOp_of_running {d d1 d2 d3 : Dev} {found pass : Nat} (hrun : d.cmp.testRunning = true) (hpass : pass = found % 4 + d.testPass)
    (hd1 : d1 = (d.errLines (fun r => nearRegion r || hideRegion r)).foldl (fun d l => d.touchLine l) d)
    (hd2 : d2 = ((List.range 16).filter (fun n => !d1.stackOut n)).foldl (fun (d : Dev) n => d.bump (0xC0 + n) 0 0 (2 ^ 36)) d1)
    (hd3 : d3 = (List.range 2).foldl (fun (d : Dev) h => (d.bump (0xC + h) 0 0 (2 ^ 35)).bump (0xC + h) 0 4
      (2 ^ 29 - (d.mem.valid.filter (fun l => l / 2 ^ 29 == h)).length)) d2) :
    selftestDoneOp found d = ({ d3 with cmp :=
      { d3.cmp with testRunning := false, testOk := d3.cmp.testOk || decide (pass = 63) } } : Dev).setRg R.cmpSelftest
        (w32 (2 * pass + 128)) := by
  subst hpass hd1 hd2 hd3
  exact if_neg (by simp [hrun])

/-! Membership messages (R501, R506): what every row does with one, whatever its type. -/

section
variable {d d1 d2 : Dev} {typ : Nat} {m : Msg} (hmsg : m.msg = 0x10)
include hmsg

/-- A row leaves the types of the other rows alone, and takes its own and the reserved ones. -/
theorem memberRow_takes (h : leAt m.data 0 1 = typ ∨ leAt m.data 0 1 = 0 ∨ 4 < leAt m.data 0 1) :
    ¬ (m.msg != 0x10 || (0 < leAt m.data 0 1 && leAt m.data 0 1 ≤ 4 && leAt m.data 0 1 != typ)) = true := by
  simp only [hmsg, bne_self_eq_false, Bool.false_or, Bool.and_eq_true, decide_eq_true_eq, bne_iff_ne]
  omega

theorem Dev.member_of_elsewhere (htyp : leAt m.data 0 1 = typ) (h : d.nodeValid = false ∨ m.dst ≠ d.node) (k : Dev → Dev) :
    d.member typ m k = d.took m := by
  refine (if_neg (memberRow_takes hmsg (.inl htyp))).trans (if_pos ?_)
  simpa using h

variable (hvalid : d.nodeValid = true) (hdst : m.dst = d.node) (hd1 : d1 = d.took m)
  (hd2 : d2 = if d1.fmNode = some m.src then { d1 with cmp := { d1.cmp with lastFm := d1.now } } else d1)
include hvalid hdst hd1 hd2

/-- One for this node: the manager is heard, then the type decides. -/
theorem Dev.member_of_here (h : leAt m.data 0 1 = typ ∨ leAt m.data 0 1 = 0 ∨ 4 < leAt m.data 0 1) (k : Dev → Dev) :
    d.member typ m k = if leAt m.data 0 1 = 0 ∨ 4 < leAt m.data 0 1 then d2.bump pgBuckle 2 9 else k d2 := by
  subst hd1 hd2
  refine (if_neg (memberRow_takes hmsg h)).trans ((if_neg (by simp [hvalid, hdst])).trans ?_)
  simp only [beq_iff_eq, Bool.or_eq_true, decide_eq_true_eq]

theorem Dev.member_of_reserved (h : leAt m.data 0 1 = 0 ∨ 4 < leAt m.data 0 1) (k : Dev → Dev) :
    d.member typ m k = d2.bump pgBuckle 2 9 :=
  (Dev.member_of_here hmsg hvalid hdst hd1 hd2 (.inr h) k).trans (if_pos h)

theorem Dev.member_of_type (htyp : leAt m.data 0 1 = typ) (h0 : 0 < typ) (h4 : typ ≤ 4) (k : Dev → Dev) : d.member typ m k = k d2 :=
  (Dev.member_of_here hmsg hvalid hdst hd1 hd2 (.inl htyp) k).trans (if_neg (by omega))
end

theorem Dev.fromFm_of_manager {d : Dev} {m : Msg} (h : d.fmNode = none ∨ d.fmNode = some m.src) (k : Dev → Dev) : d.fromFm m k = k d :=
  if_pos (by simpa using h)

theorem Dev.fromFm_of_other {d : Dev} {m : Msg} (hsome : d.fmNode ≠ none) (hother : d.fmNode ≠ some m.src) (k : Dev → Dev) :
    d.fromFm m k = d.bump pgBuckle 2 9 :=
  if_neg (by simp [hsome, hother])

/-! Timers (R502, R506). -/

theorem heartbeatTimerOp_of_due {d d1 d2 : Dev} {n : Nat} {sent : Bool} (hfm : d.fmNode = some n) (hvalid : d.nodeValid = true)
    (hdue : d.cmp.lastHb + msCycles d.hbMs ≤ d.now)
    (hsend : d.sendMember n (memberBytes 1 d.curGen (d.cmp.st.code * 4096) 0 (d.cmp.progress % 2 ^ 32) 0) = (d1, sent))
    (hd2 : d2 = { d1 with cmp := { d1.cmp with lastHb := d.now } }) :
    heartbeatTimerOp d = if sent then d2.bump pgBuckle 2 10 else d2 := by
  subst hd2
  simp only [heartbeatTimerOp, hfm, hvalid, Nat.not_lt.2 hdue, hsend, Bool.not_true, decide_false, Bool.or_self, Bool.false_eq_true, if_false]

theorem fmSilentOp_of_due {d : Dev} (hcur : d.cmp.cur.isSome = true) (hdue : d.cmp.lastFm + msCycles d.silentMs ≤ d.now) :
    fmSilentOp d = d.fenceSelf :=
  if_pos (by simp [hcur, hdue])

/-! ADMIT begins (R510): its checks in their order. -/

theorem admitOp_of_start {d : Dev} {c : Nat} {x : Ctx} (hx : d.ctx? c = some x) (hnone : Tab.find? d.cmp.admits c = none)
    (hstart : d.canStart c 0x48 = true) : admitOp c d = d.admitCheck c x := by
  simp only [admitOp, hx, hnone, hstart, if_true]

theorem Dev.admitCheck_of_bad_args {d : Dev} {x : Ctx} (hargs : admitArgsOk x d.node = false) (c : Nat) :
    d.admitCheck c x = d.finishSt c .invalidCmd :=
  if_pos (by simp [hargs])

theorem Dev.admitCheck_of_not_joining {d : Dev} {x : Ctx} (hargs : admitArgsOk x d.node = true) (hst : d.cmp.st ≠ .joining) (c : Nat) :
    d.admitCheck c x = d.finishSt c .fenced :=
  (if_neg (by simp [hargs])).trans (if_pos (bne_iff_ne.2 hst))

section
variable {d d1 : Dev} {c : Nat} {x : Ctx} (hargs : admitArgsOk x d.node = true) (hst : d.cmp.st = .joining)
include hargs hst

theorem Dev.admitCheck_of_bad_coll {st : Status} (hcoll : d.lookColl c x.coll = (d1, .bad st)) : d.admitCheck c x = d1.finishSt c st := by
  simp only [Dev.admitCheck, hargs, hst, hcoll, Bool.not_true, bne_self_eq_false, Bool.false_eq_true, if_false]

variable {d2 : Dev} {img root : List Byte} {slot : Nat × Nat} (hcoll : d.lookColl c x.coll = (d1, .ok img slot))
  (hroot : d1.localRoot c img = (d2, .ok root))
include hcoll hroot

theorem Dev.admitCheck_of_bad_local (hlocal : d2.admitLocalOk (admitOf x).coll (admitOf x).snap img root = false) :
    d.admitCheck c x = d2.finishSt c .badCollection := by
  simp only [Dev.admitCheck, hargs, hst, hcoll, hroot, hlocal, GotV.after_ok, Bool.not_true, Bool.not_false, bne_self_eq_false,
    Bool.false_eq_true, if_false, if_true]

theorem Dev.admitCheck_of_partner {d3 : Dev} {pimg : List Byte} (hlocal : d2.admitLocalOk (admitOf x).coll (admitOf x).snap img root = true)
    (hpartner : d2.partnerImg c (admitOf x) = (d3, .ok pimg)) :
    d.admitCheck c x = if admitAgrees img pimg then d3.admitBegin c (admitOf x) (1000 * x.n 56 4) else d3.finishSt c .badCollection := by
  simp only [Dev.admitCheck, hargs, hst, hcoll, hroot, hlocal, hpartner, GotV.after_ok, Bool.not_true, bne_self_eq_false,
    Bool.false_eq_true, if_false]
  cases admitAgrees img pimg <;> rfl
end

/-! A running ADMIT (R511): one list or one step at a time. -/

theorem admitOp_of_running {d : Dev} {c : Nat} {x : Ctx} {a : Admit} (hx : d.ctx? c = some x) (ha : Tab.find? d.cmp.admits c = some a)
    (hlive : d.live c = true) : admitOp c d = d.admitGo c x a := by
  simp only [admitOp, hx, ha, hlive, if_true]

theorem Dev.admitCopy_of_no_list {a : Admit} {img : List Byte} (h : cLists img ≤ a.list) (d : Dev) (c fn : Nat) :
    d.admitCopy c fn a img = d.admitTo c { a with step := .publish, list := 0 } :=
  if_pos h

/-- The image of the local collection, through the command's bind. -/
def Dev.boundImg (d : Dev) (x : Ctx) (a : Admit) : List Byte :=
  ((bindOf x.binds a.coll).map (fun b => d.peekImg (d.boundBase b) 256)).getD []

/-- The step a running ADMIT stands at, by its step. -/
theorem Dev.admitGo_eq (d : Dev) (c : Nat) (x : Ctx) (a : Admit) : d.admitGo c x a = match a.step with
    | .copy => d.admitCopy c x.fn a (d.boundImg x a)
    | .publish => d.admitPublish c x.fn a (d.boundImg x a)
    | .replay => if cLists (d.boundImg x a) ≤ a.list then d.admitTo c { a with step := .joinReady, list := 0 }
        else d.admitReplay c x.fn a (d.boundImg x a) false
    | .joinReady =>
      if (d.sendMember a.partner (memberBytes 4 0 0 a.snap 0 a.pColl)).2 then
        (d.sendMember a.partner (memberBytes 4 0 0 a.snap 0 a.pColl)).1.admitTo c { a with step := .waitSeal }
      else d.endCmd c .tierFail
    | .waitSeal => if d.admitSealed a then d.admitTo c { a with step := .finalReplay } else d
    | .finalReplay => if cLists (d.boundImg x a) ≤ a.list then d.admitEnd c a else d.admitReplay c x.fn a (d.boundImg x a) true := by
  unfold Dev.admitGo Dev.boundImg
  cases bindOf x.binds a.coll <;> rfl

/-- A command on an admission whose row answers so. -/
theorem exec_admitColl {d e : Dev} {c : Nat} (hc : c < 4096) (h : admitOp c d = e) (q : List Instr) (fu : Fuses) :
    exec (.admitColl c) ⟨q, fu, d⟩ = .next ⟨q, fu, e⟩ :=
  onUnit_next (has := fun _ => decide (c < 4096)) (decide_eq_true hc) h q fu

/-- A command on a running admission, by the step it stands at. -/
theorem exec_admitColl_running {d e : Dev} {c : Nat} {x : Ctx} {a : Admit} (hc : c < 4096) (hx : d.ctx? c = some x)
    (ha : Tab.find? d.cmp.admits c = some a) (hlive : d.live c = true) (h : d.admitGo c x a = e) (q : List Instr) (fu : Fuses) :
    exec (.admitColl c) ⟨q, fu, d⟩ = .next ⟨q, fu, e⟩ :=
  exec_admitColl hc ((admitOp_of_running hx ha hlive).trans h) q fu

/-- Settles O53: maps, the self-test, membership messages, the timers, and ADMIT's checks and steps. -/
theorem composition : Obligations.Composition := by
  intro q fu d
  refine ⟨?install, ?retire, ?forced, ?test, ?tested, ?here, ?elsewhere, ?beat, ?silent, ?checks, ?steps⟩
  case install => exact fun d1 img d2 hruns hd1 hd2 himg => onDev_next (mapInstallOp_of_runs hruns hd1 rfl rfl hd2 himg) q fu
  case retire => exact fun hruns => onDev_next (if_pos hruns) q fu
  case forced => exact fun g hold hdue => onDev_next (mapForcedRetireOp_of_due hold hdue) q fu
  case test => exact fun hst hidle hruns => onDev_next (selftestStartOp_of_idle hst hidle hruns) q fu
  case tested =>
    exact fun found pass d1 d2 d3 hrun hpass hd1 hd2 hd3 => onDev_next (selftestDoneOp_of_running hrun hpass hd1 hd2 hd3) q fu
  case here =>
    intro m d1 d2 hmsg hvalid hdst hd1 hd2
    have reserved {typ : Nat} := Dev.member_of_reserved (typ := typ) hmsg hvalid hdst hd1 hd2
    have typed {typ : Nat} := Dev.member_of_type (typ := typ) hmsg hvalid hdst hd1 hd2
    refine ⟨fun h => ?_, fun ht => ?_, fun n f ht hfm hn hf => ?_, fun ht hfm => ?_, fun hsome hother => ⟨fun ht => ?_, fun ht => ?_⟩,
      fun j l ht hj hl => ?_⟩
    · exact ⟨onDev_next (reserved h _) q fu, onDev_next (reserved h _) q fu, onDev_next (reserved h _) q fu, onDev_next (reserved h _) q fu⟩
    · exact onDev_next (typed ht (by decide) (by decide) id) q fu
    · subst hn hf
      exact onDev_next ((typed ht (by decide) (by decide) _).trans (Dev.fromFm_of_manager hfm _)) q fu
    · exact onDev_next ((typed ht (by decide) (by decide) _).trans (Dev.fromFm_of_manager hfm _)) q fu
    · exact onDev_next ((typed ht (by decide) (by decide) _).trans (Dev.fromFm_of_other hsome hother _)) q fu
    · exact onDev_next ((typed ht (by decide) (by decide) _).trans (Dev.fromFm_of_other hsome hother _)) q fu
    · subst hj hl
      exact onDev_next (typed ht (by decide) (by decide) _) q fu
  case elsewhere =>
    intro m hmsg hfar
    exact ⟨fun ht => onDev_next (Dev.member_of_elsewhere hmsg ht hfar _) q fu, fun ht => onDev_next (Dev.member_of_elsewhere hmsg ht hfar _) q fu,
      fun ht => onDev_next (Dev.member_of_elsewhere hmsg ht hfar _) q fu, fun ht => onDev_next (Dev.member_of_elsewhere hmsg ht hfar _) q fu⟩
  case beat => exact fun n d1 d2 sent hfm hvalid hdue hsend hd2 => onDev_next (heartbeatTimerOp_of_due hfm hvalid hdue hsend hd2) q fu
  case silent => exact fun hcur hdue => onDev_next (fmSilentOp_of_due hcur hdue) q fu
  case checks =>
    intro c x a hc hx hnone hstart ha
    subst ha
    have begun {e : Dev} (h : d.admitCheck c x = e) := exec_admitColl hc ((admitOp_of_start hx hnone hstart).trans h) q fu
    refine ⟨fun hargs => begun (Dev.admitCheck_of_bad_args hargs c), fun hargs hst => begun (Dev.admitCheck_of_not_joining hargs hst c),
      fun hargs hst => ⟨fun d1 st hcoll => ?_, fun d1 d2 d3 img slot root pimg hcoll hroot hlocal hpartner => ?_,
        fun d1 d2 img slot root hcoll hroot hlocal => ?_⟩⟩
    · exact begun (Dev.admitCheck_of_bad_coll hargs hst hcoll)
    · exact begun (Dev.admitCheck_of_partner hargs hst hcoll hroot hlocal hpartner)
    · exact begun (Dev.admitCheck_of_bad_local hargs hst hcoll hroot hlocal)
  case steps =>
    intro c x a img hc hx ha hlive himg
    change img = d.boundImg x a at himg
    subst himg
    have runs {e : Dev} (h : d.admitGo c x a = e) := exec_admitColl_running hc hx ha hlive h q fu
    have go := d.admitGo_eq c x a
    refine ⟨fun hstep hlist => ?_, fun hstep hlist => ?_, fun hstep => ?_, fun hstep => ?_, fun d1 sent hstep hsend => ?_, fun hstep => ?_,
      fun hstep => ?_⟩ <;> rw [hstep] at go
    · exact runs go
    · exact runs (go.trans (Dev.admitCopy_of_no_list hlist d c x.fn))
    · exact runs go
    · exact runs go
    · rw [hsend] at go
      exact runs go
    · exact runs go
    · exact runs go

end Sys2Proof.Machine
end
section
/-! PROOFS. The management port, laser enables and RAS services (O54). -/

namespace Sys2Proof.Machine
open Sys2Proof

/-! Rings of the management port (R538, R541). -/

theorem mgmtDoorbellOp_of_lt {d : Dev} {rx : Bool} {v : Nat} (hv : v < 4096) (h : v < ringSize (d.rg (mgmtCfgReg rx))) :
    mgmtDoorbellOp rx (v % 4096) d = d.setRg (mgmtTailReg rx) (w32 v) := by
  rw [Nat.mod_eq_of_lt hv]
  exact if_pos h

/-- The words that MGMT_RING_ENABLE stores: ENABLE and the size. -/
theorem mgmtRingOp_of_good {d : Dev} {rx : Bool} {v : Word} (hv : v &&& 0x8000001F = v) (hoff : ringOn (d.rg (mgmtCfgReg rx)) = false)
    (hon : ringOn v = true) (hlow : 4 ≤ fld v 4 0) (hhigh : fld v 4 0 ≤ 12) (hbase : d.mgmtBase rx % 4096 = 0) :
    mgmtRingOp rx v d = ((d.setRg (mgmtCfgReg rx) v).setRg (mgmtTailReg rx) 0).setRg (mgmtHeadReg rx) 0 := by
  simp only [mgmtRingOp, hv, hoff, hon, hlow, hhigh, hbase, Bool.not_true, Bool.false_eq_true, decide_true, Bool.and_self, if_false, if_true]

/-! Frames (R539). -/

section
variable {d : Dev} {a : Nat} (hready : d.mgmtReady false = true) (hup : d.mgmtUp = true) (ha : a = d.mgmtDescAt false)
include hready hup ha

theorem frameSentOp_of_bad (hbad : d.bad a 16 = true) : frameSentOp d = ((d.touch a 16).setErr pgMgmt 0 a).mgmtNext false := by
  subst ha
  simp only [frameSentOp, hready, hup, hbad, Bool.not_true, Bool.or_self, Bool.false_eq_true, if_false, if_true]

theorem frameSentOp_of_good {b p f : List Byte} {d1 d2 : Dev} (hbad : d.bad a 16 = false) (hb : b = d.peek a 16)
    (hp : p = d.peek (leAt b 0 8) (leAt b 8 2)) (hf : f = if (leAt b 12 4).testBit 1 then csumInsert p else p)
    (hd1 : d1 = (d.touch a 16).touch (leAt b 0 8) (leAt b 8 2))
    (hd2 : d2 = if f.length ≤ d1.maxFrame then ({ d1 with mgmt := { d1.mgmt with frame := f } } : Dev).bump pgMgmt 0 0 else d1) :
    frameSentOp d = ((d2.storeN (a + 12) 4 (leAt b 12 4 ||| 1)).mgmtNext false).setInt pgMgmt 1 := by
  subst ha hb hp hf hd1 hd2
  simp only [frameSentOp, hready, hup, hbad, Bool.not_true, Bool.or_self, Bool.false_eq_true, if_false]
end

section
variable {d d1 : Dev} (hup : d.mgmtUp = true) (hd1 : d1 = d.fecCount)
include hup hd1

theorem frameReceiveOp_of_bad_fcs (f : List Byte) (fu : Fuses) : frameReceiveOp f false fu d = d1.bump pgMgmt 0 3 := by
  subst hd1
  simp only [frameReceiveOp, hup, Bool.not_true, Bool.not_false, Bool.false_eq_true, if_false, if_true]

/-- A frame for another address, or one too long. -/
theorem frameReceiveOp_of_passed_by {f : List Byte} {fu : Fuses} (h : d1.macTakes fu f = false ∨ d1.maxFrame < f.length) :
    frameReceiveOp f true fu d = d1 := by
  subst hd1
  simp only [frameReceiveOp, hup, Bool.not_true, Bool.false_eq_true, if_false]
  exact if_pos (by simpa using h)

theorem frameReceiveOp_of_taken {f : List Byte} {fu : Fuses} (htakes : d1.macTakes fu f = true) (hlen : f.length ≤ d1.maxFrame) :
    frameReceiveOp f true fu d = if d1.mgmtReady true then d1.frameIn f else d1.bump pgMgmt 0 2 := by
  subst hd1
  simp only [frameReceiveOp, hup, htakes, Nat.not_lt.2 hlen, Bool.not_true, decide_false, Bool.or_self, Bool.false_eq_true, if_false]
  cases d.fecCount.mgmtReady true <;> rfl
end

/-! MGMT_LINK_CHANGE (R541, R565). -/

section
variable {d d1 : Dev} {up fec : Bool} (hchange : (up == d.mgmtUp) = false) (hclock : (up && d.pwr.frefGone) = false)
  (hfec : fec = if d.brd.phase = .network then d.brd.rcv.fec else d.fd R.mgmtCfg 0 0 == 1)
  (hd1 : d1 = ((d.setRg R.mgmtStat (w32 (b2n up + 2 * b2n (up && fec)))).setInt pgMgmt 2).bump pgMgmt 0 7)
include hchange hclock hfec hd1

theorem linkChangeOp_eq (fu : Fuses) : linkChangeOp up fu d =
    if d1.brd.phase != .network then d1
    else if up then (if d1.brd.rcv.stage = .link then d1.netDiscover fu [] else d1)
    else d1.setRcv (fun r => { r with stage := .link, fecAt := d1.now }) := by
  subst hfec hd1
  refine (if_neg (by simp [hchange, hclock])).trans ?_
  simp only [beq_iff_eq]

theorem linkChangeOp_of_booted (hphase : d1.brd.phase ≠ .network) (fu : Fuses) : linkChangeOp up fu d = d1 :=
  (linkChangeOp_eq hchange hclock hfec hd1 fu).trans (if_pos (bne_iff_ne.2 hphase))

theorem linkChangeOp_of_network (hphase : d1.brd.phase = .network) (fu : Fuses) : linkChangeOp up fu d =
    if up then (if d1.brd.rcv.stage = .link then d1.netDiscover fu [] else d1)
    else d1.setRcv (fun r => { r with stage := .link, fecAt := d1.now }) :=
  (linkChangeOp_eq hchange hclock hfec hd1 fu).trans (if_neg (by simp [hphase]))
end

/-! RAS_ZERO (R548). -/

theorem rasZeroStartOp_of_idle {d : Dev} {a n : Nat} (hidle : d.ras.zeroing = none) (ha : a = d.addr52 R.rasZeroBaseLo R.rasZeroBaseHi)
    (hn : n = d.fd R.rasZeroLen 24 0) : rasZeroStartOp d = if zeroOk d.part a n = true then
      ({ d with ras := { d.ras with zeroing := some (a, a + 65536 * n) } } : Dev).setRg R.rasZeroCtl 1 else d.zeroEnd 2 := by
  subst ha hn
  exact if_neg (by simp [hidle])

theorem rasZeroStartOp_of_busy {d : Dev} (h : d.ras.zeroing.isSome = true) : rasZeroStartOp d = d.setFd R.rasZeroCtl 18 16 1 :=
  if_pos h

theorem zeroDoneOp_of_ready {d d1 : Dev} {a e : Nat} (hrun : d.ras.zeroing = some (a, e)) (h : d.zeroRange a (e - a) = some d1) :
    zeroDoneOp d = d1.zeroEnd 0 := by
  simp only [zeroDoneOp, hrun, h]

theorem zeroDoneOp_of_held {d : Dev} {a e : Nat} (hrun : d.ras.zeroing = some (a, e)) (h : d.zeroRange a (e - a) = none) :
    zeroDoneOp d = d.recall a (e - a) true := by
  simp only [zeroDoneOp, hrun, h]

/-! The scrubber, the seconds of R559 and notifications. -/

theorem patrolScrubOp_of_due {d d1 : Dev} {h : Nat} (hh : h = d.fd R.rasScrub 7 0) (hon : h ≠ 0) (hruns : d.runs pgRas = true)
    (hdue : d.ras.scrubFrom + secCycles (3600 * h) ≤ d.now) (hd1 : d1 = (d.scrubLines.foldl (fun d l => d.touchLine l) d).scrubCount) :
    patrolScrubOp d = ({ d1 with ras := { d1.ras with scrubFrom := d1.now } } : Dev).bump pgRas 0 9 := by
  subst hh hd1
  exact if_neg (by simp [hon, hruns, hdue])

theorem ceSecondOp_of_later {d : Dev} (h : d.ras.second < d.now / secCycles 1) :
    ceSecondOp d = { d with ras := { d.ras with second := d.now / secCycles 1, ceCount := [], storm := [] } } :=
  if_pos h

section
variable {d d1 : Dev} {r : RasRec} {rest : List RasRec} (hnotify : d.ras.notify = r :: rest)
  (hd1 : d1 = { d with ras := { d.ras with notify := rest } })
include hnotify hd1

theorem rasDatagramOp_of_down (hdown : d.mgmtUp = false) : rasDatagramOp d = d1.bump pgRas 0 11 := by
  subst hd1
  simp only [rasDatagramOp, hnotify, hdown, Bool.not_false, Bool.or_true, if_true]

theorem rasDatagramOp_of_soon {t : Nat} (hlast : d.ras.lastSent = some t)
    (hsoon : 16 * r.time < t + usCycles (max (d.fd R.rasNotify 31 16) 1)) : rasDatagramOp d = d1.bump pgRas 0 11 := by
  subst hd1
  simp only [rasDatagramOp, hnotify, hlast, hsoon, decide_true, Bool.true_or, if_true]

/-- The record waits its gap after the last datagram, where there was one. -/
theorem rasDatagramOp_of_due (hup : d.mgmtUp = true)
    (hgap : ∀ t, d.ras.lastSent = some t → t + usCycles (max (d.fd R.rasNotify 31 16) 1) ≤ 16 * r.time) : rasDatagramOp d =
      ({ d1 with ras := { d1.ras with lastSent := some d.now }, mgmt := { d1.mgmt with frame := d.rasFrame r } } : Dev).bump pgRas 0 10 := by
  subst hd1
  cases hlast : d.ras.lastSent with
  | none => simp only [rasDatagramOp, hnotify, hlast, hup, Bool.not_true, Bool.or_self, Bool.false_eq_true, if_false]
  | some t =>
    simp only [rasDatagramOp, hnotify, hlast, hup, Nat.not_lt.2 (hgap t hlast), decide_false, Bool.not_true, Bool.or_self,
      Bool.false_eq_true, if_false]
end

/-- Settles O54: the management port's rings, frames and link, laser enables, RAS_ZERO, the scrubber and notifications. -/
theorem managementAndRas : Obligations.ManagementAndRas := by
  intro q fu d
  refine ⟨?doorbells, ?ring, ?sent, ?received, ?link, ?laser, ?zeroStart, ?zeroBusy, ?zeroDone, ?scrub, ?second, ?datagram⟩
  case doorbells =>
    exact fun v hv => ⟨fun h => onDev_next (mgmtDoorbellOp_of_lt (rx := false) hv h) q fu,
      fun h => onDev_next (mgmtDoorbellOp_of_lt (rx := true) hv h) q fu⟩
  case ring => exact fun rx v hv hoff hon hlow hhigh hbase => onDev_next (mgmtRingOp_of_good hv hoff hon hlow hhigh hbase) q fu
  case sent =>
    intro a hready hup ha
    exact ⟨fun hbad => onDev_next (frameSentOp_of_bad hready hup ha hbad) q fu,
      fun b p f d1 d2 hbad hb hp hf hd1 hd2 => onDev_next (frameSentOp_of_good hready hup ha hbad hb hp hf hd1 hd2) q fu⟩
  case received =>
    intro f d1 hup hd1
    exact ⟨onFuses_next (frameReceiveOp_of_bad_fcs hup hd1 f fu) q, fun h => onFuses_next (frameReceiveOp_of_passed_by hup hd1 h) q,
      fun htakes hlen => onFuses_next (frameReceiveOp_of_taken hup hd1 htakes hlen) q⟩
  case link =>
    intro up fec d1 hchange hclock hfec hd1
    exact ⟨fun hphase => onFuses_next (linkChangeOp_of_booted hchange hclock hfec hd1 hphase fu) q,
      fun hphase => onFuses_next (linkChangeOp_of_network hchange hclock hfec hd1 hphase fu) q⟩
  case laser => exact fun t on ht => onNumbered_next ht (f := lsrOnOp t on) rfl q fu
  case zeroStart => exact fun a n hidle ha hn => onDev_next (rasZeroStartOp_of_idle hidle ha hn) q fu
  case zeroBusy => exact fun hbusy => onDev_next (rasZeroStartOp_of_busy hbusy) q fu
  case zeroDone =>
    exact fun a e hrun => ⟨fun d1 h => onDev_next (zeroDoneOp_of_ready hrun h) q fu, fun h => onDev_next (zeroDoneOp_of_held hrun h) q fu⟩
  case scrub => exact fun h d1 hh hon hruns hdue hd1 => onDev_next (patrolScrubOp_of_due hh hon hruns hdue hd1) q fu
  case second => exact fun h => onDev_next (ceSecondOp_of_later h) q fu
  case datagram =>
    intro r rest d1 hnotify hd1
    exact ⟨fun hup hgap => onDev_next (rasDatagramOp_of_due hnotify hd1 hup hgap) q fu,
      fun hdown => onDev_next (rasDatagramOp_of_down hnotify hd1 hdown) q fu,
      fun t hlast hsoon => onDev_next (rasDatagramOp_of_soon hnotify hd1 hlast hsoon) q fu⟩

end Sys2Proof.Machine
end
section
/-! PROOFS. Link rows (O55): lasers, training, retry, credits and the flits received. -/

namespace Sys2Proof.Machine
open Sys2Proof

/-! Lasers (R413). -/

theorem laserLowOp_of_low {d : Dev} {b j w : Nat} (hlow : d.laserBelow b w = true) (hwas : fbit (d.rg (R.bklLaser j) b) 16 = true) :
    laserLowOp b j w d = d.setRg (R.bklLaser j) (w32 (w % 65536 + 65536)) b := by
  simp only [laserLowOp, hlow, hwas, if_true]

theorem laserLowOp_of_newly_low {d d2 d3 : Dev} {b j w : Nat} (hlow : d.laserBelow b w = true)
    (hwas : fbit (d.rg (R.bklLaser j) b) 16 = false)
    (hd2 : d2 = ((d.setRg (R.bklLaser j) (w32 (w % 65536 + 65536)) b).setInt (0x1E0 + b) 0).bump (0x1E0 + b) 0 j)
    (hd3 : d3 = { d2 with fab := { d2.fab with laserGood := delNat d2.fab.laserGood (4 * b + j) } }) :
    laserLowOp b j w d = d3.portsDown (d3.portsLit b j) := by
  subst hd2 hd3
  simp only [laserLowOp, hlow, hwas, if_true, Bool.false_eq_true, if_false]

theorem laserRecoveredOp_of_good {d d1 d2 : Dev} {b j w : Nat} (hgood : d.laserBelow b w = false)
    (hd1 : d1 = d.setRg (R.bklLaser j) (w32 (w % 65536)) b)
    (hd2 : d2 = { d1 with fab := { d1.fab with laserGood := insNat d1.fab.laserGood (4 * b + j) } }) :
    laserRecoveredOp b j w d = d2.portsTrain (d2.portsLit b j) := by
  subst hd1 hd2
  exact if_neg (by simp [hgood])

/-! Training, and the loss of a link (R411, R420, R434). -/

section
variable {d : Dev} {p : Nat} {x : Port} (hx : x = d.port p)
include hx

theorem linkUpOp_of_training (hst : x.st = .training) (rtt : Nat) (alloc : List Nat) : linkUpOp p rtt alloc d = (d.setPort p
    { st := .up, rttNs := sat 16 rtt, peerAlloc := (List.range 8).map (fun v => (v, alloc.getD v 0 % 65536)) }).setInt (pgLink p) 0 := by
  subst hx
  exact if_pos (beq_iff_eq.2 hst)

theorem trainingFailedOp_of_training (hst : x.st = .training) : trainingFailedOp p d =
    d.setPort p { x with st := if 2 ≤ x.attempts then .failed else .training, attempts := x.attempts + 1 } := by
  subst hx
  have hthird : 3 ≤ (d.port p).attempts + 1 ↔ 2 ≤ (d.port p).attempts := by omega
  refine (if_pos (beq_iff_eq.2 hst)).trans ?_
  simp only [hthird, ← hst]
  split <;> rfl

theorem trainingFailedOp_of_retrain (hst : x.st = .retrain) : trainingFailedOp p d = (d.portDown p).trainCheck p := by
  subst hx
  exact (if_neg (by simp [hst])).trans (if_pos (beq_iff_eq.2 hst))

theorem linkDownOp_of_alive (hst : x.st = .up ∨ x.st = .retrain ∨ x.st = .training) : linkDownOp p d = (d.portDown p).trainCheck p := by
  subst hx
  exact if_pos (by simpa [or_assoc] using hst)

theorem retrainOp_of_retrain (hst : x.st = .retrain) :
    retrainOp p d = (d.setPort p { x with st := .up, retry := none }).askRetry p := by
  subst hx
  exact if_pos (beq_iff_eq.2 hst)

/-! RETRY_REQ (R418, R419) and stalled credits (R423). -/

theorem retryReqOp_of_up {s : Nat} {d1 : Dev} (hst : x.st = .up) (hs : s < 65536) (hd1 : d1 = d.bump (pgLink p) 0 4) : retryReqOp p s d =
    if s = x.txNext then d1
    else if x.replay.any (fun e => e.1 == s) then d1.bump (pgLink p) 0 5 ((x.replay.dropWhile (fun e => e.1 != s)).length)
    else d1.linkError p := by
  subst hx hd1
  refine (if_neg (by simp [hst])).trans ?_
  rw [Nat.mod_eq_of_lt hs]

theorem retryResendOp_of_due {n t : Nat} (hst : x.st = .up) (hretry : x.retry = some (n, t))
    (hdue : t * 10 + x.rttNs * 16 + 16000 ≤ d.now * 10) : retryResendOp p d =
      if d.retryMax p ≤ n then d.portRetrain p else (d.setPort p { x with retry := some (n + 1, d.now) }).bump (pgLink p) 0 3 := by
  subst hx
  simp only [retryResendOp, hretry]
  exact if_pos (by simp [hst, hdue])

theorem creditStallOp_of_late {v t : Nat} (hstall : Tab.find? x.stalled v = some t)
    (hlate : t + usCycles (max (d.fd R.lnkCfg 31 16 p) 1) ≤ d.now) : creditStallOp p v d = d.setInt (pgLink p) 3 := by
  subst hx
  simp only [creditStallOp, hstall, hlate, decide_true, if_true]

/-! Flits received (R414 to R419, R422, R423). -/

section
variable {d0 : Dev} {f : Flit} (hd0 : d0 = (d.bump (pgLink p) 0 7 f.fecFixed).bump (pgLink p) 0 8 f.fecLost)
include hd0

theorem flitReceiveOp_of_not_up (hst : x.st ≠ .up) : flitReceiveOp p f d = d0 := by
  subst hx hd0
  exact if_pos (bne_iff_ne.2 hst)

variable (hst : x.st = .up)
include hst

theorem flitReceiveOp_of_misplaced (hmark : f.markerMisplaced = true) : flitReceiveOp p f d = d0.portRetrain p := by
  subst hx hd0
  exact (if_neg (by simp [hst])).trans (if_pos hmark)

variable (hmark : f.markerMisplaced = false)
include hmark

theorem flitReceiveOp_of_bad (hgood : flitGood f.bytes = false) : flitReceiveOp p f d = (d0.bump (pgLink p) 0 2).askRetry p := by
  subst hx hd0
  exact (if_neg (by simp [hst])).trans ((if_neg (by simp [hmark])).trans (if_pos (by simp [hgood])))

variable (hgood : flitGood f.bytes = true) {h c : Nat} (hh : h = leAt f.bytes 0 8) (hc : c = leAt f.bytes 8 8) {d1 : Dev}
  (hd1 : d1 = if bits h 15 9 + bits h 55 49 + bits c 63 40 = 0 then d0 else d0.bump (pgLink p) 0 10)
include hgood hh hc hd1

/-- It acknowledges what has not been sent. -/
theorem flitReceiveOp_of_bad_ack (hack : (h.testBit 48 && serialAfter 16 (bits h 47 32) ((x.txNext + 65535) % 65536)) = true) :
    flitReceiveOp p f d = d1.linkError p := by
  subst hx hd0 hh hc hd1
  simp only [flitReceiveOp, hst, hmark, hgood, hack, bne_self_eq_false, Bool.not_true, Bool.false_eq_true, if_false, if_true]

variable (hack : (h.testBit 48 && serialAfter 16 (bits h 47 32) ((x.txNext + 65535) % 65536)) = false) {x1 x2 x3 : Port} {ok1 ok2 : Bool}
  (hx1 : x1 = if h.testBit 48 then { x with replay := x.replay.filter (fun e => serialAfter 16 e.1 (bits h 47 32)) } else x)
  (hx2 : x1.credit (c.testBit 3) (bits c 2 0) (bits c 19 4) = (x2, ok1))
  (hx3 : x2.credit (c.testBit 23) (bits c 22 20) (bits c 39 24) = (x3, ok2))
include hack hx1 hx2 hx3

theorem flitReceiveOp_of_bad_credits (hok : (ok1 && ok2) = false) : flitReceiveOp p f d = d1.linkError p := by
  have hbad : (!ok1 || !ok2) = true := by rw [← Bool.not_and, hok]; rfl
  subst hx hd0 hh hc hd1 hx1
  refine (if_neg (by simp [hst])).trans ?_
  simp only [hmark, hgood, hack, hx2, hx3, hbad, Bool.not_true, Bool.false_eq_true, if_false, if_true]

/-- A good flit with its acknowledgement and credits applied is taken by its type. -/
theorem flitReceiveOp_of_good (hok : (ok1 && ok2) = true) : flitReceiveOp p f d =
    if bits h 3 0 = 2 then retryReqOp p (bits h 31 16) (d1.setPort p x3)
    else if bits h 3 0 = 1 then
      if bits h 31 16 = x3.rxExpect then
        (d1.setPort p x3).takeData p (bits h 6 4) (h.testBit 7) (h.testBit 8) (slice f.bytes 16 (bits h 63 56))
      else if serialAfter 16 (bits h 31 16) x3.rxExpect then (d1.setPort p x3).askRetry p else d1.setPort p x3
    else d1.setPort p x3 := by
  have hgiven : (!ok1 || !ok2) = false := by rw [← Bool.not_and, hok]; rfl
  subst hx hd0 hh hc hd1 hx1
  refine (if_neg (by simp [hst])).trans ?_
  simp only [hmark, hgood, hack, hx2, hx3, hgiven, Bool.not_true, Bool.false_eq_true, if_false]
end
end

/-- A row of a port. -/
theorem onPort_next {d e : Dev} {p : Nat} {op : Dev → Dev} (hp : p < d.ports) (h : op d = e) (q : List Instr) (fu : Fuses) :
    onUnit (fun d => decide (p < d.ports)) op ⟨q, fu, d⟩ = .next ⟨q, fu, e⟩ :=
  onUnit_next (has := fun d => decide (p < d.ports)) (decide_eq_true hp) h q fu

/-- Settles O55: lasers, the states of a port, RETRY_REQ, stalled credits and the flits received. -/
theorem links : Obligations.Links := by
  intro q fu d
  refine ⟨fun b j w hb hj => ⟨fun hlow hwas => ?_, fun d2 d3 hlow hwas hd2 hd3 => ?_, fun d1 d2 hgood hd1 hd2 => ?_⟩, fun p x hp hx => ?ports⟩
  · exact onPair_next hb hj (laserLowOp_of_low hlow hwas) q fu
  · exact onPair_next hb hj (laserLowOp_of_newly_low hlow hwas hd2 hd3) q fu
  · exact onPair_next hb hj (laserRecoveredOp_of_good hgood hd1 hd2) q fu
  refine ⟨?up, ?failed, ?untrained, ?down, ?retrained, ?retry, ?resend, ?stall, ?flit⟩
  case up => exact fun rtt alloc hst => onPort_next hp (linkUpOp_of_training hx hst rtt alloc) q fu
  case failed => exact fun hst => onPort_next hp (trainingFailedOp_of_training hx hst) q fu
  case untrained => exact fun hst => onPort_next hp (trainingFailedOp_of_retrain hx hst) q fu
  case down => exact fun hst => onPort_next hp (linkDownOp_of_alive hx hst) q fu
  case retrained => exact fun hst => onPort_next hp (retrainOp_of_retrain hx hst) q fu
  case retry =>
    intro s d1 hst hs hd1
    have hasked := retryReqOp_of_up hx hst hs hd1
    exact ⟨fun hnext => onPort_next hp (hasked.trans (if_pos hnext)) q fu,
      fun hnext hheld => onPort_next hp (hasked.trans ((if_neg hnext).trans (if_pos hheld))) q fu,
      fun hnext hheld => onPort_next hp (hasked.trans ((if_neg hnext).trans (if_neg (by simp [hheld])))) q fu⟩
  case resend => exact fun n t hst hretry hdue => onPort_next hp (retryResendOp_of_due hx hst hretry hdue) q fu
  case stall =>
    intro v t hv hstall hlate
    exact onUnit_next (has := fun d => decide (p < d.ports) && decide (v < 8)) (by simp [hp, hv]) (creditStallOp_of_late hx hstall hlate) q fu
  case flit =>
    intro f d0 hd0
    refine ⟨fun hst => ?_, fun hst hmark => ?_, fun hst hmark hgood => ?_, fun h c d1 hst hmark hgood hh hc hd1 =>
      ⟨fun hack => ?_, fun x1 x2 x3 ok1 ok2 hack hx1 hx2 hx3 => ⟨fun hok => ?_, fun hok => ?taken⟩⟩⟩
    · exact onPort_next hp (flitReceiveOp_of_not_up hx hd0 hst) q fu
    · exact onPort_next hp (flitReceiveOp_of_misplaced hx hd0 hst hmark) q fu
    · exact onPort_next hp (flitReceiveOp_of_bad hx hd0 hst hmark hgood) q fu
    · exact onPort_next hp (flitReceiveOp_of_bad_ack hx hd0 hst hmark hgood hh hc hd1 hack) q fu
    · exact onPort_next hp (flitReceiveOp_of_bad_credits hx hd0 hst hmark hgood hh hc hd1 hack hx1 hx2 hx3 hok) q fu
    have htaken := flitReceiveOp_of_good hx hd0 hst hmark hgood hh hc hd1 hack hx1 hx2 hx3 hok
    refine ⟨fun hidle => ?_, fun hreq => ?_, fun hdata => ?_⟩
    · exact onPort_next hp (htaken.trans ((if_neg (by omega)).trans (if_neg (by omega)))) q fu
    · exact onPort_next hp (htaken.trans (if_pos hreq)) q fu
    · exact onPort_next hp (htaken.trans ((if_neg (by omega)).trans (if_pos hdata))) q fu

end Sys2Proof.Machine
end
